-- ==== Sys2Proof/Word.lean ====
section
/-!
DEFINITION. The words of the model: the byte, the 64-bit register word (00 R13) and the numbers of the parts of the
wafer (01 R17, R25, R34; 08 R280; 10 R352).
-/
namespace Sys2Proof

/-- A byte of memory, of a message or of an image. -/
abbrev Byte := BitVec 8

/-- A register, a scalar, or one of the words W0-W3 of a descriptor (R13, R42, R206). -/
abbrev Word := BitVec 64

/-- A logical core ID, r * 256 + y * 16 + x (R25). -/
abbrev CoreId := Fin 16384

/-- A region, which is one partition (R17, R30). -/
abbrev RegionId := Fin 64

/-- A mill ID, the index into the mill table (R34). -/
abbrev MillId := Fin 4096

/-- A request ID (R280). -/
abbrev ReqId := Fin 32768

end Sys2Proof
end

