-- ==== Sys2Proof/Syntax.lean ====
section
/-!
DEFINITION. The commands of the device: one constructor of `Instr` per row of spec/opcode_table.json, with the row's
operands. What the surroundings decide (the bytes that a host memory read returns, a sensor reading, which memory word
is upset, which timer expires) is an operand of the command that meets it.
-/
namespace Sys2Proof

/-- The 8-bit status codes of R9. The device never returns any other. -/
inductive Code where
  | ok | window | length | fenced | ecc | residue | timeout | protocol | auth | state | deadline | capacity
  | lost | unsupported | format | busy | quarantined | overflow | halted
deriving DecidableEq, Repr

/-- The conditions of BR (R207); codes 5-7 are reserved. -/
inductive Cond where
  | always | eqz | nez | ltz | gez
deriving DecidableEq, Repr

/-- The functions of ALU (R207); codes 0xD-0xF are reserved. -/
inductive AluFn where
  | add | sub | and | or | xor | shl | shr | sra | mul | min | max | slt | sltu
deriving DecidableEq, Repr

/-- The sources of RDSR (R207); 0x16-0x1F are reserved. -/
inductive SrSrc where
  | counter (i : Fin 16) | cycles | time | coreId | stepNo | tokensHeld | tokensFree
deriving DecidableEq, Repr

/-- The eight descriptor engines, in the order of the ENG field of R43. -/
inductive Eng where
  | me | spu | asu | nau | qtz | kse | rtu | smp
deriving DecidableEq, Repr

/-- A trip comparator of a region (R462, R463): of the diode of one of its stacks, or of its logic. -/
structure Comparator where
  region : RegionId
  stack : Bool
deriving DecidableEq, Repr

/-- The four planes of Race (R165). -/
inductive Plane where
  | a | k | c | t
deriving DecidableEq, Repr

/-- An upset that the surroundings bring about in a memory read or in arithmetic while a command runs: what R129, R136
and R119 detect. -/
inductive Upset where
  /-- A stack or Snowpack burst with 1 or 2 damaged symbols, corrected (R129). -/
  | burstCorrected (addr : Nat)
  /-- A burst for which the decoder finds no codeword (R129). -/
  | burstLost (addr : Nat)
  /-- A correction that the on-die ECC of a Snowpack stack reports with a burst (R399, R409). -/
  | dieCorrected (addr : Nat)
  /-- A single-bit error of an SRAM word, corrected in flight (R136). -/
  | sramCorrected (addr : Nat)
  /-- A double-bit error of an SRAM word, with its check-bit syndrome (R136, R486). -/
  | sramLost (addr : Nat) (syndrome : Byte)
  /-- A residue mismatch: the residue expected and the residue found (R119, R486). -/
  | residue (expected found : Fin 8)
deriving DecidableEq, Repr

/-- The bucket reads of a prefix lookup that return (R293, R295): the request's number and the upsets that the reads meet (R129). -/
structure BucketReads where
  req : ReqId
  ups : List Upset
deriving DecidableEq, Repr

/-- What host memory answers to a bus-master read (R431). -/
inductive DmaAnswer where
  /-- The completion carries these bytes. -/
  | data (bytes : List Byte)
  /-- Unsupported Request or Completer Abort. -/
  | unsupported
  /-- A poisoned completion. -/
  | poisoned
  /-- No completion yet: DMA_COMPLETION or DMA_TIMEOUT comes later. -/
  | later
deriving DecidableEq, Repr

/-- Where a received frame came from: the source MAC address, and in UDP mode the source IP address and UDP port
(R356, R378). -/
structure Source where
  /-- 0 Ethernet, 1 IPv4, 2 IPv6: the FAMILY of R378. -/
  family : Fin 3
  mac : BitVec 48
  ip : BitVec 128
  udp : BitVec 16
deriving DecidableEq, Repr

/-- The UDP checksum of a packet (R355). -/
inductive UdpSum where
  | zero | right | wrong
deriving DecidableEq, Repr

/-- What the port looks at before GML (R353-R355, R385): the outcome of the FEC and of the FCS, and the addresses of the frame. -/
structure Envelope where
  /-- RS codewords of the frame that were corrected, and that could not be. -/
  corrected : Nat
  uncorrectable : Nat
  fcs : Bool
  /-- Destination MAC address. -/
  mac : BitVec 48
  /-- VIDs of the IEEE 802.1Q tags, the outermost first. -/
  tags : List (BitVec 12)
  /-- The EtherType behind the tags. -/
  etype : BitVec 16
  /-- Destination IP address, an IPv4 address in bits [31:0]. -/
  ip : BitVec 128
  /-- An IPv4 packet without options that is no fragment, or an IPv6 packet without extension header. -/
  plain : Bool
  /-- UDP destination port. -/
  udp : BitVec 16
  sum : UdpSum
deriving DecidableEq, Repr

/-- A received frame: its port, its source, what R355 compares, and the payload: a GML message with any bytes that follow the tag (R358). -/
structure Frame where
  port : Fin 16
  /-- Sub-port B in breakout mode (R352). -/
  subB : Bool
  src : Source
  env : Envelope
  bytes : List Byte
deriving DecidableEq, Repr

/-- A Tailrace flit as it leaves the decoder with a correct CRC (R388). -/
structure Flit where
  seq : BitVec 12
  ack : BitVec 12
  nak : Bool
  som : Bool
  eom : Bool
  queue : Fin 16
  len : BitVec 8
  cq : Fin 16
  cred : BitVec 16
  payload : List Byte
  /-- The decoder has corrected its codeword (R397). -/
  corrected : Bool := false
deriving DecidableEq, Repr

/-- Outcomes of a burst read of a patrol (R129, R161, R410). -/
inductive Burst where
  | clean | corrected | uncorrectable
deriving DecidableEq, Repr

/-- What the scrub and the program check of a tier 2 reset find in one core (R493). -/
structure ScrubFinding where
  core : CoreId
  /-- SRAM words read as single-bit errors and written back. -/
  corrected : Nat
  /-- Fabric addresses of 8-byte words that cannot be corrected but hold after a write back: they are zeroed. -/
  zeroed : List Nat
  /-- A word fails again after its write back: the core is dead (R506). -/
  dead : Bool
  /-- Bundles of program memory that fail their check. -/
  badBundles : List Nat
deriving DecidableEq, Repr

/-- Power-good inputs of the module (R563). -/
inductive Good where
  | edgeL | edgeA | vddm (g : Fin 16) | edgeH | core
deriving DecidableEq, Repr

/-- Why only the PCIe function is reset (R432, R559). -/
inductive PcieReset where
  | linkDown | hotReset | flr | d3hot
deriving DecidableEq, Repr

/-- A message of the precision time service that port 0 receives (R379): a Sync of a one-step master, or of a two-step master whose Follow_Up
carries the time of sending, and the Delay_Resp. Times are those of the master in 1/16 ns. Any other message is time-stamped where it is an event
message, and a slave-only end-to-end clock does nothing with it. -/
inductive PtpMsg where
  | sync (seq : BitVec 16) (twoStep : Bool) (origin : Nat)
  | followUp (seq : BitVec 16) (origin : Nat)
  | delayResp (seq : BitVec 16) (receipt : Nat)
  | other
deriving DecidableEq, Repr

/-- Why a Tailrace flit is discarded (R389): its codeword is uncorrectable, or its CRC fails, after a correction or not. -/
inductive BadFlit where
  | uncorrectable | crc (corrected : Bool)
deriving DecidableEq, Repr

/-- The commands. -/
inductive Instr where
  -- Control slot (R207-R209, R231, R232): the core, then the fields of the slot.
  | nop (c : CoreId) (slot : Fin 4)
  | br (c : CoreId) (cond : Cond) (ra : Fin 32) (target : BitVec 12)
  | loop (c : CoreId) (ra : Fin 32) (target : BitVec 12)
  | call (c : CoreId) (target : BitVec 12)
  | ret (c : CoreId)
  | fence (c : CoreId) (mask : BitVec 9)
  | stepEnd (c : CoreId)
  | halt (c : CoreId)
  | li (c : CoreId) (rd : Fin 32) (imm : BitVec 21)
  | lih (c : CoreId) (rd : Fin 32) (sh : Fin 4) (imm : BitVec 16)
  | alu (c : CoreId) (rd ra rb : Fin 32) (fn : AluFn)
  | addi (c : CoreId) (rd ra : Fin 32) (imm : BitVec 16)
  | bfi (c : CoreId) (rd ra : Fin 32) (lo wm1 : Fin 64)
  | ld (c : CoreId) (rd : Fin 32) (h : Fin 64) (ra : Fin 32) (ups : List Upset)
  | st (c : CoreId) (rs : Fin 32) (h : Fin 64) (ra : Fin 32) (ups : List Upset)
  | rdsr (c : CoreId) (rd : Fin 32) (src : SrSrc)
  -- Engine-issue slots (R210).
  | issueMe (c : CoreId) (sg : Fin 8)
  | issueSpu (c : CoreId) (sg : Fin 8)
  | issueAsu (c : CoreId) (sg : Fin 8)
  | issueNau (c : CoreId) (sg : Fin 8)
  | issueQtz (c : CoreId) (sg : Fin 8)
  | issueKse (c : CoreId) (sg : Fin 8)
  | issueRtu (c : CoreId) (sg : Fin 8)
  | issueSmp (c : CoreId) (sg : Fin 8)
  | setH (c : CoreId) (h : Fin 64) (sp : Fin 16)
  | openW (c : CoreId) (w : Fin 16) (sp : Fin 16)
  | closeW (c : CoreId) (w : Fin 16)
  -- Move/sync slot (R212).
  | waitEv (c : CoreId) (mask : BitVec 16) (any clr : Bool)
  | waitCnt (c : CoreId) (cnt : Fin 16) (regv : Bool) (val : BitVec 16) (sub : Bool)
  | send (c : CoreId) (sg : Fin 8) (list : Bool) (ups : List Upset)
  | recv (c : CoreId) (w : Fin 16) (ev : Fin 16) (regv : Bool) (n : BitVec 16) (evEn : Bool)
  | flmRd (c : CoreId) (q : Fin 8) (tag : Fin 16) (sg : Fin 8)
  | flmWr (c : CoreId) (q : Fin 8) (tag : Fin 16) (sg : Fin 8)
  | flmWait (c : CoreId) (q : Fin 8) (tag : Fin 16)
  | tokenAcq (c : CoreId) (regv : Bool) (n : BitVec 10)
  | tokenRel (c : CoreId) (regv : Bool) (n : BitVec 10)
  -- Descriptors that start at the head of their engine's queue (R41, R577): the core and the upsets met.
  | matmul (c : CoreId) (ups : List Upset)
  | wide (c : CoreId) (ups : List Upset)
  | drain (c : CoreId) (ups : List Upset)
  | spillW (c : CoreId) (ups : List Upset)
  | spillA (c : CoreId) (ups : List Upset)
  | score (c : CoreId) (ups : List Upset)
  | select (c : CoreId) (ups : List Upset)
  | rmsnorm (c : CoreId) (ups : List Upset)
  | layernorm (c : CoreId) (ups : List Upset)
  | siluMul (c : CoreId) (ups : List Upset)
  | gelu (c : CoreId) (ups : List Upset)
  | add (c : CoreId) (ups : List Upset)
  | mul (c : CoreId) (ups : List Upset)
  | exp (c : CoreId) (ups : List Upset)
  | recip (c : CoreId) (ups : List Upset)
  | rsqrt (c : CoreId) (ups : List Upset)
  | softmaxFin (c : CoreId) (ups : List Upset)
  | adamw (c : CoreId) (ups : List Upset)
  | quant (c : CoreId) (ups : List Upset)
  | append (c : CoreId) (ups : List Upset)
  | ksePark (c : CoreId) (ups : List Upset)
  | kseRestore (c : CoreId) (ups : List Upset)
  | gate (c : CoreId) (ups : List Upset)
  | dispatch (c : CoreId) (ups : List Upset)
  | localReduce (c : CoreId) (ups : List Upset)
  | merge (c : CoreId) (ups : List Upset)
  | verify (c : CoreId) (ups : List Upset)
  /-- `late`: later than the earliest time of R71 from its start. -/
  | descriptorComplete (c : CoreId) (eng : Eng) (late : Bool)
  -- Race (05): packets and accesses are named by the model's own identifiers.
  | packetForward (pkt : Nat) (credit : Bool)
  | accessHeader (pkt : Nat) (ups : List Upset)
  | accessPacket (pkt : Nat) (ups : List Upset)
  | readData (pkt : Nat) (ups : List Upset)
  | response (pkt : Nat)
  | creditWaitExpiry (pkt : Nat) (arrived : Bool)
  | continuationWaitExpiry (acc : Nat) (arrived : Bool)
  | responseWaitExpiry (acc : Nat) (arrived : Bool)
  | routeReload (src dst : RegionId) (plane : Plane)
  | lostNotice (notified lost : RegionId)
  | flumeComplete (c : CoreId) (q : Fin 8) (tag : Fin 16)
  | flumeTimeout (c : CoreId) (q : Fin 8) (tag : Fin 16) (completed : Bool)
  -- Steps, recovery and fences (01, 06, 13).
  | milDoorbell (m : MillId) (w : Word)
  | stepStart (m : MillId)
  | stepRetire (m : MillId)
  | watchdogExpiry (c : CoreId) (issued : Bool)
  | stepRestart (m : MillId)
  | millReset (m : MillId) (found : List ScrubFinding)
  | coreShift (r : RegionId) (row : Fin 16) (col : Fin 17) (unreadable : Bool)
  | shardReload (slot : Fin 64)
  | drainExpiry (m : MillId) (retiring : Bool)
  | milFence (m : MillId) (drain : BitVec 16)
  | milFenceLift (m : MillId) (drain : BitVec 16)
  | milHalt (m : MillId)
  | milResume (m : MillId)
  | milFail (m : MillId)
  | milReset (m : MillId)
  -- Mailbox commands (14): the tag, the arguments, and what host memory answers.
  | bootFw (tag : BitVec 16) (addr len : Word) (ans : DmaAnswer)
  | loadImage (tag : BitVec 16) (addr len : Word) (first second : DmaAnswer)
  | unload (tag : BitVec 16) (a0 : Word)
  | loadWeights (tag : BitVec 16) (a0 a1 a2 : Word)
  | shardObtained (rec : Nat) (bytes : List Byte)
  | quote (tag : BitVec 16) (a0 a1 a2 a3 : Word) (ans : DmaAnswer)
  | readMoraine (tag : BitVec 16) (a0 a1 : Word)
  | readCerts (tag : BitVec 16) (a0 a1 : Word)
  | park (tag : BitVec 16) (a0 : Word)
  | wake (tag : BitVec 16)
  | shutdown (tag : BitVec 16) (a0 : Word)
  | setCap (tag : BitVec 16) (a0 : Word)
  | setPrio (tag : BitVec 16) (a0 : Word)
  | calibrateZero (tag : BitVec 16) (a1 a2 : Word)
  | calibrateFull (tag : BitVec 16) (a1 a2 a3 : Word) (ans : DmaAnswer)
  | calibrateStore (tag : BitVec 16) (a1 a2 : Word)
  | regionFence (tag : BitVec 16) (a0 : Word)
  | unfence (tag : BitVec 16) (a0 : Word)
  | realmCreate (tag : BitVec 16) (a0 a1 : Word) (ans : DmaAnswer)
  | realmDestroy (tag : BitVec 16) (a0 : Word)
  | dmaCompletion (ans : DmaAnswer)
  | dmaTimeout (completed : Bool)
  -- GML messages and timers (10).
  | open_ (f : Frame)
  | close (f : Frame)
  | ack (f : Frame)
  | nak (f : Frame)
  | submit (f : Frame)
  | cancel (f : Frame)
  | gmlPark (f : Frame)
  | resume (f : Frame)
  | status (f : Frame)
  | fetchReply (f : Frame)
  | error (f : Frame)
  | frameDiscard (f : Frame)
  | ptpEventMessage (m : PtpMsg) (frac : Fin 16)
  | ackdlyExpiry (session : BitVec 32)
  | rtoExpiry (session : BitVec 32) (seq : BitVec 32) (acked : Bool)
  | closeTimeout (session : BitVec 32)
  | fetchTimeout (xid : BitVec 32)
  | vwinExpiry (session : BitVec 32)
  | qtimeExpiry (session : BitVec 32)
  | lossOfSignal (port : Fin 16) (lane : Fin 8)
  | blockLock (port : Fin 16) (subB : Bool)
  -- Millpond (08, 09).
  | schedulingPass (unit : Fin 4)
  | prefixLookup (reads : BucketReads)
  | stepRing (m : MillId)
  | commit (m : MillId) (ups : List Upset)
  | parkExpiry (req : ReqId) (resumed : Bool)
  -- Tailrace (10).
  | idle (link : Fin 8) (f : Flit)
  | data (link : Fin 8) (f : Flit) (ups : List Upset)
  | qcfg (link : Fin 8) (f : Flit)
  | replayTimer (link : Fin 8) (advanced : Bool)
  | retrainTimeout (link : Fin 8)
  | trainingComplete (link : Fin 8) (peer : BitVec 32)
  | prodUpdate (link : Fin 8) (q : Fin 16) (ups : List Upset)
  | consPoll (link : Fin 8) (q : Fin 16) (ups : List Upset)
  | tlrQcfgEnable (link : Fin 8) (q : Fin 16) (w : Word)
  | tlrQcfgDisable (link : Fin 8) (q : Fin 16) (w : Word)
  | tlrCfg (link : Fin 8) (w : Word)
  -- Snowpack (11).
  | snowpackAccess (c : CoreId) (q : Fin 8) (tag : Fin 16) (ups : List Upset)
  | snowpackPatrol (ctl : Fin 4) (found : Burst) (die : Bool)
  | snowpackWriteBack (ctl : Fin 4) (addr : BitVec 40)
  | refresh (ctl : Fin 4) (stack : Fin 6)
  | rfm (ctl : Fin 4) (stack : Fin 6)
  | snowpackTemperature (ctl : Fin 4) (stack : Fin 6) (temp : BitVec 12)
  | hbmTrip (stack : Fin 24)
  | snwZmap (w : Word)
  | zoneZeroed (zone : Fin 32)
  -- Stack patrol (04).
  | patrol (r : RegionId) (found : Burst)
  | writeBack (c : CoreId) (burst : Nat)
  -- Power, heat, clocks, Firn (12).
  | regionPowerUp (r : RegionId)
  | regionPowerDown (r : RegionId) (keepStacks : Bool)
  | opRaise (r : RegionId)
  | opLower (r : RegionId)
  | estimatorWindow (r : RegionId) (vddc vdds vddm vddn : BitVec 16)
  | quietMillisecond (r : RegionId)
  | gainCorrection (r : RegionId) (rail : Fin 4) (estimate : Nat)
  | droop (r : RegionId)
  | droopHoldEnd (r : RegionId)
  | capEvaluation (p10 p1s : BitVec 12)
  | thermalEvaluation (stk log : List (BitVec 12)) (dead : List (RegionId × Fin 16 × Fin 17))
  | trip (k : Comparator)
  | fieldTrip (field : Fin 12)
  | railLoss (r : RegionId) (rails : BitVec 4)
  | firnSample (channel : Fin 128) (raw : BitVec 12)
  | referenceLoss
  | pllLockLoss
  | millerWatchdog
  | millerMemoryError
  | d0Stop
  | crystalSwitch
  -- Pins and sequences (15).
  | vddfRise (straps : Fin 8)
  | pwrOnReqHigh
  | pwrOnReqLow
  | modRstNLow
  | modRstNHigh
  | perstN (high : Bool)
  | powerGood (pg : Good)
  | powerGoodTimeout
  | edgePowerGoodLoss (pg : Good)
  | pcieReset (kind : PcieReset)
  -- Fault log and registers with effects of their own.
  | mergeWindowClose (i : Nat)
  | fltTail (w : Word)
  | fltSel (w : Word)
  | mpdReqsel (unit : Fin 4) (w : Word)
  | mpdPool (k : Fin 4) (w : Word)
  | glbTime (w : Word)
  | glbIrqMask (w : Word)
  | clkGate (w : Word)
  | clkRef (w : Word)
  | sluCfg (port : Fin 16) (w : Word)
  | frnRule (n : Fin 64) (w : Word)
  | frnTdac (w : Word)
  | thmTrip (edge : Bool) (w : Word)
  | unsupportedRequest (addr : BitVec 26) (write : Bool)
  | registerWrite (addr : BitVec 27) (half : Bool) (w : Word)
  | stackFatalError (stack : Fin 24)
  | referenceRestored (port : Bool)
  | vddfLoss
  | vddmPowerGoodLoss (g : Fin 16)
  | flitDiscard (link : Fin 8) (why : BadFlit)
  | opRaiseStart (r : RegionId)
deriving DecidableEq, Repr

end Sys2Proof
end

