-- ==== Sys2Proof/Machine/Bits.lean ====
section
/-!
DEFINITION. Bit fields (00 R11), byte order (R12), saturating counters (14 R551) and the numbers of the codes of R9.
-/
namespace Sys2Proof.Machine

/-- Bits [lo + len - 1 : lo] of `n` (R11). -/
def fld (n lo len : Nat) : Nat := n / 2 ^ lo % 2 ^ len

/-- Bits [lo + len - 1 : lo] of a register (R11). -/
def bits {w : Nat} (v : BitVec w) (lo len : Nat) : Nat := fld v.toNat lo len

/-- Bit `i` of a register. -/
def bit {w : Nat} (v : BitVec w) (i : Nat) : Bool := v.getLsbD i

/-- 1 for true. -/
def bnat (b : Bool) : Nat := if b then 1 else 0

/-- The value placed at bit `lo`. -/
def at_ (lo v : Nat) : Nat := v * 2 ^ lo

/-- The sum of fields, each a place and a value. -/
def pack (fs : List (Nat × Nat)) : Nat := fs.foldl (fun n f => n + at_ f.1 f.2) 0

/-- The low `n` bytes of `v`, lowest first (R12). -/
def leBytes : Nat → Nat → List Byte
  | 0, _ => []
  | n + 1, v => BitVec.ofNat 8 v :: leBytes n (v / 256)

/-- The number that bytes spell, lowest first (R12). -/
def leNat : List Byte → Nat
  | [] => 0
  | b :: bs => b.toNat + 256 * leNat bs

/-- `n` bytes of `bs` from `off` on, 0 past the end. -/
def slice (bs : List Byte) (off n : Nat) : List Byte :=
  let got := (bs.drop off).take n
  got ++ List.replicate (n - got.length) 0

/-- The `n`-byte number at `off`. -/
def num (bs : List Byte) (off n : Nat) : Nat := leNat (slice bs off n)

/-- Are the bytes [lo, hi) all 0? -/
def zeros (bs : List Byte) (lo hi : Nat) : Bool := (slice bs lo (hi - lo)).all fun b => b == 0

/-- The byte string padded with zeros to a multiple of `m`. -/
def padTo (m : Nat) (bs : List Byte) : List Byte :=
  bs ++ List.replicate ((m - bs.length % m) % m) 0

/-- `a / b` rounded up. -/
def ceilDiv (a b : Nat) : Nat := (a + b - 1) / b

/-- `a` rounded up to a multiple of `m`. -/
def roundUp (a m : Nat) : Nat := ceilDiv a m * m

/-- A saturating 64-bit counter raised by `n` (R551). -/
def bumpBy (c n : Nat) : Nat := min (c + n) (2 ^ 64 - 1)

/-- A saturating 64-bit counter raised by one. -/
def bump (c : Nat) : Nat := bumpBy c 1

/-- A counter of `w` bits that saturates, raised by one. -/
def bumpW (w c : Nat) : Nat := min (c + 1) (2 ^ w - 1)

/-- The first code among checks made in order: the code of the first that fails, none when all hold. -/
def firstFail : List (Bool × Code) → Option Code
  | [] => none
  | (good, c) :: rest => if good then firstFail rest else some c

end Sys2Proof.Machine

namespace Sys2Proof

/-- Status codes as R9 numbers them. -/
def Code.num : Code → Nat
  | .ok => 0 | .window => 1 | .length => 2 | .fenced => 3 | .ecc => 4 | .residue => 5 | .timeout => 6 | .protocol => 7
  | .auth => 8 | .state => 9 | .deadline => 10 | .capacity => 11 | .lost => 12 | .unsupported => 13 | .format => 14
  | .busy => 15 | .quarantined => 16 | .overflow => 17 | .halted => 18

/-- The code that a received byte names; none for the codes that R9 reserves. -/
def Code.ofNum (n : Nat) : Option Code :=
  [Code.ok, .window, .length, .fenced, .ecc, .residue, .timeout, .protocol, .auth, .state, .deadline, .capacity, .lost,
   .unsupported, .format, .busy, .quarantined, .overflow, .halted][n]?

/-- Engines as the ENG field of R43 numbers them. -/
def Eng.num : Eng → Nat
  | .me => 1 | .spu => 2 | .asu => 3 | .nau => 4 | .qtz => 5 | .kse => 6 | .rtu => 7 | .smp => 8

/-- Planes as the syndrome of R190 and the route registers of R195 number them. -/
def Plane.num : Plane → Nat
  | .a => 0 | .k => 1 | .c => 2 | .t => 3

end Sys2Proof
end

