-- ==== Sys2Proof/Machine/Exact.lean ====
section
/-!
DEFINITION. Exact arithmetic (03): the element formats, block scales, FP32 and BF16 as exact numbers, the single rounding
at output, and the elementary functions rounded correctly.

A finite FP32 or BF16 value is a whole number of units of 2^-149 (R88). A quotient is kept as numerator and denominator.
-/
namespace Sys2Proof.Machine

/-- An FP32 or BF16 value: NaN, an infinity, or a sign and a magnitude in units of 2^-149. -/
inductive Fl where
  | nan | inf (neg : Bool) | fin (neg : Bool) (mag : Nat)
deriving DecidableEq, Repr

/-- Reads a value whose exponent field stands above `p - 1` fraction bits: `p` = 24 for FP32 and 8 for BF16 (R88). -/
def decodeFl (p n : Nat) : Fl :=
  let neg := n.testBit (p + 7)
  let e := fld n (p - 1) 8
  let m := fld n 0 (p - 1)
  if e = 255 then (if m = 0 then .inf neg else .nan)
  else
    let unit := 2 ^ (24 - p)
    if e = 0 then .fin neg (m * unit) else .fin neg ((2 ^ (p - 1) + m) * unit * 2 ^ (e - 1))

/-- FP32 (R88). -/
def decode32 (n : Nat) : Fl := decodeFl 24 n

/-- BF16, the upper 16 bits of FP32 (R88). -/
def decode16 (n : Nat) : Fl := decodeFl 8 n

/-- floor(log2 (n / d)) for n, d > 0. -/
def log2Q (n d : Nat) : Int :=
  let e : Int := (Nat.log2 n : Int) - (Nat.log2 d : Int)
  let le : Bool := if 0 ≤ e then decide (d * 2 ^ e.toNat ≤ n) else decide (d ≤ n * 2 ^ (-e).toNat)
  if le then e else e - 1

/-- floor(n / d * 2^k) and whether anything was cut off. -/
def scaleQ (n d : Nat) (k : Int) : Nat × Bool :=
  let n' := if 0 ≤ k then n * 2 ^ k.toNat else n
  let d' := if 0 ≤ k then d else d * 2 ^ (-k).toNat
  (n' / d', n' % d' ≠ 0)

/-- Round to nearest, ties to even, of a value given as twice its floor plus a half bit, with what was cut off below. -/
def rne (twice : Nat) (cut : Bool) : Nat :=
  let q := twice / 2
  if twice % 2 = 0 then q else if cut || q % 2 = 1 then q + 1 else q

/-- The encoding, without sign, of the non-negative value n / d in a format of precision `p` with the 8-bit exponent of
binary32: rounded to nearest even, gradual underflow, overflow to infinity (R88, R108, R109). `below`: the true value lies
strictly between n / d and the next point of the working grid. -/
def roundMag (p n d : Nat) (below : Bool) : Nat :=
  if n = 0 then 0
  else
    let e := max (log2Q n d) (-126)
    let k : Int := (p - 1 : Int) - e
    let (t, cut) := scaleQ n d (k + 1)
    let q := rne t (cut || below)
    min (((e + 126).toNat) * 2 ^ (p - 1) + q) (255 * 2 ^ (p - 1))

/-- The encoding of sign and magnitude n / d. -/
def encodeFl (p : Nat) (neg : Bool) (n d : Nat) (below : Bool) : Nat :=
  (if neg then 2 ^ (p + 7) else 0) + roundMag p n d below

/-- The canonical quiet NaN (R63) and the infinities of a format. -/
def nanFl (p : Nat) : Nat := 255 * 2 ^ (p - 1) + 2 ^ (p - 2)
/-- An infinity of a format. -/
def infFl (p : Nat) (neg : Bool) : Nat := (if neg then 2 ^ (p + 7) else 0) + 255 * 2 ^ (p - 1)

/-- The value moved by `j` units in the last place, through the encodings in order of value, never past an infinity. -/
def moveUlp (p n : Nat) (j : Int) : Nat :=
  let top := 255 * 2 ^ (p - 1)
  let mag := n % 2 ^ (p + 7)
  if mag > top then n
  else
    let v : Int := (if n.testBit (p + 7) then -(mag : Int) else (mag : Int)) + j
    let w := min v.natAbs top
    if v < 0 then 2 ^ (p + 7) + w
    else if v = 0 ∧ n.testBit (p + 7) then 2 ^ (p + 7) else w

/-! ### Element formats and block scales -/

/-- Twice the value of an FP4 element (R81). -/
def fp4Twice (n : Nat) : Int :=
  let m : Nat := [0, 1, 2, 3, 4, 6, 8, 12].getD (n % 8) 0
  if n / 8 % 2 = 1 then -(m : Int) else (m : Int)

/-- The two's-complement number of `w` bits (R82). -/
def signed (w n : Nat) : Int := if n < 2 ^ (w - 1) then (n : Int) else (n : Int) - (2 ^ w : Nat)

/-- FMT codes of R48: FP4 0, INT4 1, INT3 2, INT2 3, INT8 4. Bits of one element (R49). -/
def fmtBits (fmt : Nat) : Nat := [4, 4, 3, 2, 8].getD fmt 0

/-- Bytes of one block of 32 elements (R49). -/
def blockBytes (fmt : Nat) : Nat := 4 * fmtBits fmt

/-- Twice the value of an element; none for the reserved INT2 code (R81-R83). -/
def elemTwice (fmt n : Nat) : Option Int :=
  if fmt = 0 then some (fp4Twice n)
  else if fmt = 3 ∧ n = 2 then none
  else some (2 * signed (fmtBits fmt) n)

/-- A block-scale code in units of 2^-9; none for the reserved codes (R84). -/
def scale9 (b : Nat) : Option Nat :=
  if b < 8 then some b
  else if b < 0x7F then some ((8 + b % 8) * 2 ^ (b / 8 - 1))
  else none

/-- The smallest scale code whose value is at least n / d (in units of 2^-9), 0x7E when there is none (R86). -/
def scaleUp (n d : Nat) : Nat :=
  if n = 0 then 0
  else ((List.range 0x7F).find? fun b => decide (n ≤ (scale9 b).getD 0 * d)).getD 0x7E

/-- Nearest of an ascending list of magnitudes (in halves) to the value n / d (in halves), a tie going to the member at an
even place of the list; FP4: code with M = 0 (R91). Answers the place. -/
def nearest (grid : List Nat) (n d : Nat) : Nat :=
  let step := fun (best : Nat) (j : Nat) =>
    let g := grid.getD best 0
    let h := grid.getD j 0
    -- compare n/d with the midpoint (g + h)/2
    if 2 * n > (g + h) * d then j
    else if 2 * n = (g + h) * d ∧ j % 2 = 0 then j else best
  (List.range grid.length).foldl step 0

/-- The FP4 magnitudes in halves (R81). -/
def fp4Grid : List Nat := [0, 1, 2, 3, 4, 6, 8, 12]

/-- The element code of a value of sign `neg` and magnitude n / d placed on the grid of `fmt` 0 (FP4), 1 (INT4) or 4
(INT8 of a replay row), saturating; a zero is code 0 (R91). -/
def placeCode (fmt : Nat) (neg : Bool) (n d : Nat) : Nat :=
  if fmt = 0 then
    let c := nearest fp4Grid (2 * n) d
    if c = 0 then 0 else if neg then 8 + c else c
  else
    let q := rne (2 * n / d) ((2 * n) % d ≠ 0)
    let top := if fmt = 1 then (if neg then 8 else 7) else 127
    let m := min q top
    if neg then (2 ^ fmtBits fmt - m) % 2 ^ fmtBits fmt else m

/-! ### The long accumulator -/

/-- LACC, RES, ACC_OVF, UNIT, TOUCHED of a word of partial-sum memory (R96, R137). -/
structure Lacc where
  sum : Int
  res : Nat
  ovf : Bool
  unit : Bool
  touched : Bool
deriving DecidableEq, Repr

/-- v mod 7, from 0 to 6 (R118). -/
def mod7 (v : Int) : Nat := (v % 7).toNat

/-- The word as 128 bits hold it. -/
def laccOf (n : Nat) : Lacc :=
  { sum := signed 112 (fld n 0 112), res := fld n 112 3, ovf := n.testBit 115, unit := n.testBit 116,
    touched := n.testBit 117 }

/-- The 128 bits of a word; the reserved bits are written as 0 (R137). -/
def laccBits (a : Lacc) : Nat :=
  ((a.sum % (2 ^ 112 : Nat)).toNat) + at_ 112 a.res + at_ 115 (bnat a.ovf) + at_ 116 (bnat a.unit)
    + at_ 117 (bnat a.touched)

/-- The first two checks of R579: the residue of the word, then its overflow bit. -/
def laccRead (a : Lacc) : Option Code :=
  firstFail [(decide (a.res ≠ 7) && decide (a.res = mod7 a.sum), .residue), (!a.ovf, .overflow)]

/-- One addition of a term in the unit given (R98, R99, R579): the word afterwards, and the code of the check that fails. -/
def laccAdd (a : Lacc) (unit : Bool) (term : Int) : Lacc × Option Code :=
  match laccRead a with
  | some c => (a, some c)
  | none =>
    if a.touched ∧ a.unit ≠ unit then (a, some .format)
    else
      let v := a.sum + term
      if v < -(2 ^ 111 : Nat) ∨ (2 ^ 111 : Nat) ≤ v then ({ a with ovf := true }, some .overflow)
      else ({ sum := v, res := (a.res + mod7 term) % 7, ovf := false, unit := unit, touched := true }, none)

/-- The cleared word (R96). -/
def laccZero : Lacc := laccOf 0

/-- The output of a word at precision `p` (R97, R108, R109): `ta` and `tb` are the tensor scales in units of 2^-149, used
for a word in the block unit. -/
def laccOut (p : Nat) (a : Lacc) (ta tb : Nat) : Nat :=
  let m := a.sum.natAbs
  let neg := decide (a.sum < 0)
  if a.sum = 0 then 0
  else if a.unit then encodeFl p neg m (2 ^ 62) false
  else encodeFl p neg (m * ta * tb) (2 ^ (20 + 149 + 149)) false

/-- A BF16 product rounded to a multiple of 2^-62, ties to even (R107), in those units. -/
def bf16Product (x y : Nat) : Nat :=
  -- x * y is in units of 2^-298
  rne (x * y / 2 ^ (298 - 62 - 1)) (x * y % 2 ^ (298 - 62 - 1) ≠ 0)

/-! ### Elementary functions

Fixed point with `wp` fraction bits; every result is cut off, and the true value is known to lie above it by less than the
guard. -/

/-- Fraction bits of the working precision. -/
def wp : Nat := 512

/-- ln 2 in working precision: 2 * sum of 1 / ((2 i + 1) * 3^(2 i + 1)). -/
def ln2Fix : Nat :=
  2 * ((List.range 170).foldl (fun acc i => acc + 2 ^ wp / ((2 * i + 1) * 3 ^ (2 * i + 1))) 0)

/-- exp of a number below 1 in working precision. -/
def expSmall (r : Nat) : Nat :=
  ((List.range 110).foldl (fun (acc, term) i => (acc + term, term * r / 2 ^ wp / (i + 1))) (0, 2 ^ wp)).1

/-- exp of the value of sign `neg` and magnitude n / d: numerator and denominator, cut off at the working precision, and
whether the true value lies above (always, but for exp 0). Beyond 2^12 the result is out of every format. -/
def expQ (neg : Bool) (n d : Nat) : Nat × Nat × Bool :=
  if n = 0 then (1, 1, false)
  else if n / d ≥ 4096 then (if neg then (1, 2 ^ 5000, true) else (2 ^ 5000, 1, true))
  else
    let x := n * 2 ^ wp / d
    let k := x / ln2Fix
    let r := x % ln2Fix
    if neg then
      let e := expSmall (ln2Fix - r)
      (e, 2 ^ (wp + k + 1), true)
    else (expSmall r * 2 ^ k, 2 ^ wp, true)

/-- floor of the square root of n / d in working precision, and whether it is cut off. -/
def sqrtQ (n d : Nat) : Nat × Nat × Bool :=
  let t := n * 4 ^ wp
  let r := Nat.sqrt (t / d)
  (r, 2 ^ wp, r * r * d ≠ t)

/-- pi in working precision: 16 atan (1/5) - 4 atan (1/239). -/
def piFix : Nat :=
  let atanInv := fun (q : Nat) =>
    (List.range 260).foldl (fun (acc : Int) i =>
      let t : Int := (2 ^ wp / ((2 * i + 1) * q ^ (2 * i + 1)) : Nat)
      if i % 2 = 0 then acc + t else acc - t) 0
  (16 * atanInv 5 - 4 * atanInv 239).toNat

/-- Phi(x) = (1 + erf (x / sqrt 2)) / 2 for the magnitude n / d and sign, in working precision; for |x| up to 16. The power
series of erf summed with 2 wp fraction bits, since its terms grow to about 2^185 before they shrink. -/
def phiFix (neg : Bool) (n d : Nat) : Nat :=
  let w := 2 * wp
  -- z^2 = x^2 / 2
  let z2 := n * n * 2 ^ w / (2 * d * d)
  let sum : Int × Nat :=
    (List.range 900).foldl (fun (acc, pow) i =>
      let t : Int := (pow / (2 * i + 1) : Nat)
      (if i % 2 = 0 then acc + t else acc - t, pow * z2 / 2 ^ w / (i + 1))) ((0 : Int), 2 ^ w)
  -- erf z = 2 z / sqrt pi * sum, and 2 z / sqrt pi = x * sqrt (2 / pi)
  let root := Nat.sqrt (2 * 2 ^ wp * 4 ^ w / piFix)
  let erf := (sum.1 * ((n * root / d : Nat) : Int) / ((2 ^ w : Nat) : Int)).toNat
  let half := 2 ^ (w - 1)
  (if neg then half - erf / 2 else half + erf / 2) / 2 ^ (w - wp)

end Sys2Proof.Machine
end

