-- ==== Sys2Proof/Config.lean ====
section
/-!
DEFINITION. What a device is born with, and the free values: what the manual leaves open, as constants without a body, so
that nothing can be proved of any of them (log entries 3, 4, 5 and 6 say where each is used).
-/
namespace Sys2Proof.Config

/-- GLB_ID.STEPPING: 1 for A1, 2 for B0 (R5); `true` for B0. -/
opaque steppingB0 : Bool

/-- The factory grade of the module record store, a code of R4. -/
opaque factoryGrade : Fin 3

/-- GLB_SERIAL of the module record store (R534). -/
opaque serial : Word

/-- The part number of the module (R532). -/
opaque partNumber : List Byte

/-- The device public key that the device certificate holds (R533). -/
opaque certKey : List Byte

/-- The DER bytes of the device certificate: they carry its key, the serial number, the part number, the factory grade and the stepping (R532). -/
opaque deviceCert : (key : List Byte) → (serial : Word) → (part : List Byte) → (grade : Fin 3) → (b0 : Bool) → List Byte

/-- The DER bytes of the certificate of the production CA (R532). -/
opaque productionCert : List Byte

/-- The chain that the module record store holds: the device certificate, then that of the production CA. The root is not held (R532, R548). -/
def certificates : List (List Byte) := [deviceCert certKey serial partNumber factoryGrade steppingB0, productionCert]

/-- Is the PUF helper data present (R533)? -/
opaque helperData : Bool

/-- The SRAM PUF response after its correction (R531). -/
opaque pufResponse : List Byte

/-- The boot ROM's bytes, key ID and public key (R528, R530). -/
opaque bootRom : List Byte
/-- The key ID of the boot ROM's firmware-signing key (R528). -/
opaque bootKeyid : Word
/-- The boot ROM's public key (R528). -/
opaque bootKey : List Byte

/-- A fresh byte of the Seal's random source, by draw (R362, R542). -/
opaque freeByte : Nat → Byte

/-- A free choice between two outcomes that the manual leaves open, by draw (R228). -/
opaque freeBit : Nat → Bool

/-- The distance in units in the last place, 0 to 4 for -2 to +2, of a fast-mode result from the correctly rounded one, a
fixed function of the operation, its parameters and its operands (R63, R114, R349). -/
opaque fastUlp : (op : Nat) → (operands : List Nat) → Fin 5

/-- The DRAM row, within its tier of a stack, that holds the burst at a stack offset (R509). -/
opaque dramRow : (offset : Nat) → BitVec 32

/-- Replay slots that the KSE takes a K tensor's replay area to hold, by its rows and the slots that its rows name; the header
records none (R48, R324, R578). -/
opaque replaySlots : (rows used : Nat) → Fin 257

/-- What the KSE stores as the BF16 value of a V block scale whose code R84 reserves (R320). -/
opaque reservedScale : Byte → BitVec 16

/-- What a unit gives where the manual states no result: by place in the model and operands (log entry 47 lists the places). -/
opaque openValue : (place : Nat) → (operands : List Nat) → Nat

/-- The signature that the self-test of a block gives, by block and draw (R521). -/
opaque selfTest : (block draw : Nat) → BitVec 128

/-- The golden signature of a block, from the stepping, the firmware whose golden band table it is, and the block's defects in the Moraine map (R521).
-/
opaque goldenSig : (block : Nat) → (b0 : Bool) → (firmware : List Byte) → (defects : List Nat) → BitVec 128

/-- A defect that the checks and tests of bring-up find, with the place that its entry of the Moraine map names (R516, R518). -/
inductive Found where
  | core (r : RegionId) (row : Fin 16) (col : Fin 17)
  | stack (r : RegionId) (row : Fin 16) (col : Fin 17)
  | horizontal (r : RegionId) (row : Fin 16) (col : Fin 16)
  | vertical (r : RegionId) (row : Fin 15) (col : Fin 17)
  | express (r : RegionId) (side : Fin 4)
  /-- A DRAM row of a core stack, by the tier. -/
  | stackRow (r : RegionId) (row : Fin 16) (col : Fin 17) (tier : Fin 4) (dram : BitVec 32)
  /-- The supply of a region that was lost before is lost again (R513). -/
  | region (r : RegionId)
  /-- A Snowpack stack fails its training (R413). -/
  | snowpack (stack : Fin 24)
deriving DecidableEq, Repr

/-- What the bring-up of a power-on finds, by BOOTNO (R518). -/
opaque foundAtBringup : (bootno : Nat) → List Found

/-- The 16 check symbols of the RS(272,256) codeword of a flit (R388; the generator is not given: log entry 98). -/
opaque flitParity : (flit : List Byte) → BitVec 128

/-- The MAC address that the module assigns to a Sluice port (R383). -/
opaque assignedMac : Fin 16 → BitVec 48

end Sys2Proof.Config
end

