-- ==== Sys2Proof/Machine/Tbl.lean ====
section
/-!
DEFINITION. Finite tables as plain data: a list of (index, entry) pairs in one canonical form, the indices strictly rising
and no entry equal to the default that every other index reads as.
-/
namespace Sys2Proof.Machine

/-- A table: the entries that differ from the default, by rising index. -/
abbrev Tbl (α : Type) := List (Nat × α)

/-- The entry of index `k`, `d` where none is listed. -/
def Tbl.get {α : Type} (d : α) : Tbl α → Nat → α
  | [], _ => d
  | (i, v) :: t, k => if i = k then v else Tbl.get d t k

/-- The table without its entries of index `k`. -/
def Tbl.drop {α : Type} : Tbl α → Nat → Tbl α
  | [], _ => []
  | (i, v) :: t, k => if i = k then Tbl.drop t k else (i, v) :: Tbl.drop t k

/-- Puts the pair (k, v) in its place; an entry equal to the default `d` is not listed. -/
def Tbl.set {α : Type} [DecidableEq α] (d : α) : Tbl α → Nat → α → Tbl α
  | [], k, v => if v = d then [] else [(k, v)]
  | (i, u) :: t, k, v =>
    if i < k then (i, u) :: Tbl.set d t k v
    else if i = k then (if v = d then Tbl.drop t k else (k, v) :: t)
    else if v = d then (i, u) :: Tbl.drop t k else (k, v) :: (i, u) :: t

/-- Applies `f` to the entry of index `k`. -/
def Tbl.upd {α : Type} [DecidableEq α] (d : α) (t : Tbl α) (k : Nat) (f : α → α) : Tbl α :=
  Tbl.set d t k (f (Tbl.get d t k))

/-- The indices rise strictly from above `lo`, and no entry is the default. -/
def Tbl.wfFrom {α : Type} [DecidableEq α] (d : α) : Nat → Tbl α → Bool
  | _, [] => true
  | lo, (i, v) :: t => decide (lo ≤ i) && decide (v ≠ d) && Tbl.wfFrom d (i + 1) t

/-- The canonical form of a table. -/
def Tbl.wf {α : Type} [DecidableEq α] (d : α) (t : Tbl α) : Bool := Tbl.wfFrom d 0 t

/-- The table with every index from `lo` up to but not including `hi` back at the default. -/
def Tbl.clear {α : Type} (t : Tbl α) (lo hi : Nat) : Tbl α :=
  t.filter fun p => decide (p.1 < lo) || decide (hi ≤ p.1)

end Sys2Proof.Machine
end

