-- ==== Sys2Proof/Machine/State.lean ====
section
/-!
DEFINITION. The state of the device as plain data, the reasons a step can stop, and the state right after reset.

A number that software reads as a register field is a bit vector where the manual adds, masks or shifts it, and a natural
number where the manual counts. A table lists only the entries that differ from their default.
-/
namespace Sys2Proof.Machine

/-- The byte memory: all memories of all cores and Snowpack, keyed by fabric address (R122). An address that is not
listed reads 0: R132 zeroes a core's memories at load and R416 Snowpack at READY; before that it is a DESIGN CHOICE. -/
abbrev Memory := List Host.Cell

/-- GLB_STATUS.STATE (R7). -/
inductive DevState where
  | off | standby | boot | ready | loaded | running | degraded | parked | fault
deriving DecidableEq, Repr

/-- REG_SHAPE.SHAPE (R23, R27). -/
inductive Shape where
  | full | short | lost | unknown
deriving DecidableEq, Repr

/-- MIL_STATUS.STATE (R37). -/
inductive MillSt where
  | unused | idle | running | restart | fenced | halted | failed
deriving DecidableEq, Repr

/-- MIL_FENCE.DSTATE (R499). -/
inductive DrainSt where
  | opened | draining | fenced
deriving DecidableEq, Repr

/-- States of an image slot (R266). -/
inductive SlotSt where
  | free | loading | staged | loaded
deriving DecidableEq, Repr

/-- HOP_STATUS.OP (R278). -/
inductive HopOp where
  | idle | loadImage | loadWeights | unload
deriving DecidableEq, Repr

/-- States of a request (R283). -/
inductive ReqSt where
  | free | admitted | prefill | decode | parked | done | expired | cancelled | failed
deriving DecidableEq, Repr

/-- KIND of a Race packet (R175). -/
inductive Kind where
  | write | accum | readReq | readData | response | control | telemetry
deriving DecidableEq, Repr

/-- CLASS of a fault record (R484). -/
inductive FltClass where
  | info | refusal | step | request | tier | region | link | device | host
deriving DecidableEq, Repr

/-- ORIGIN of a fault record (R483). -/
inductive Origin where
  | core | router | region | edge | firn | miller | host
deriving DecidableEq, Repr

/-- A party on Race: a logical core or an edge block by its number (R175). -/
inductive Party where
  | core (c : Nat) | edge (n : Nat)
deriving DecidableEq, Repr

/-- A place on a packet's path: a router by its global coordinates, or a region's hub (R169, R170). -/
inductive Node where
  | router (x y : Nat) | hub (r : Nat)
deriving DecidableEq, Repr

/-- Whether a core of a step issues bundles (R201, R231, R232, R75). -/
inductive RunSt where
  | outside | running | ended | halted | stopped
deriving DecidableEq, Repr

/-- A fault record (R483), by field; `seq` 0 until it enters the global ring. -/
structure Rec where
  time : Nat := 0
  code : Code := .ok
  cls : FltClass := .info
  origin : Origin := .core
  unit : Nat := 0
  op : Nat := 0
  region : Option Nat := none
  row : Option Nat := none
  col : Option Nat := none
  phys : Bool := false
  edgeid : Nat := 0
  pc : Option Nat := none
  mill : Option Nat := none
  req : Option Nat := none
  merged : Bool := false
  ovr : Bool := false
  aform : Nat := 0
  tier : Nat := 0
  addr : Nat := 0
  syndrome : Nat := 0
  cycle : Nat := 0
  seq : Nat := 0
  /-- A CODE received from a partner that R9 reserves, in place of `code` (R378). -/
  raw : Option Nat := none
deriving DecidableEq, Repr

/-! ### Cores (02, 04, 06) -/

/-- A descriptor in a queue: W0-W3, the bundle index of its ISSUE, and its place in the issue order of the core. -/
structure Desc where
  w0 : Word := 0
  w1 : Word := 0
  w2 : Word := 0
  w3 : Word := 0
  pc : Nat := 0
  seq : Nat := 0
deriving DecidableEq, Repr

/-- A descriptor that has started and not completed, with the tokens it holds (R76). -/
structure Running where
  desc : Desc
  tokens : Nat
  /-- The messages that a PARK has made, from the first on and before the second (R66, R391). -/
  msgs : Nat × Nat := (0, 0)
deriving DecidableEq, Repr

/-- One engine: its queue of at most 4 descriptors (R41), oldest first, and the running one. -/
structure EngSt where
  queue : List Desc := []
  run : Option Running := none
deriving DecidableEq, Repr

/-- An issued operation on memory that has not completed, as the scoreboard holds it (R216): the handles it reads and
writes, the L tile into which the ME or SPU only adds (R59), and the window that a RECV writes (R222). -/
structure Op where
  seq : Nat
  rd : List Nat
  wr : List Nat
  acc : List Nat := []
  win : Option Nat := none
  /-- A SEND that has released its sources and not completed: only the arming of a window still looks at it (R216, R222). -/
  released : Bool := false
deriving DecidableEq, Repr

/-- A handle entry, the words W0 and W1 of R143. -/
structure Handle where
  w0 : Word := 0
  w1 : Word := 0
deriving DecidableEq, Repr

/-- A window: whether it is open, and the words W0 and W1 of R149. -/
structure Window where
  opened : Bool := false
  w0 : Word := 0
  w1 : Word := 0
deriving DecidableEq, Repr

/-- A RECV that waits for the one before it on its window, or that arms it (R222). -/
structure RecvReq where
  n : Nat
  ev : Nat
  evEn : Bool
  seq : Nat
deriving DecidableEq, Repr

/-- The arming of a window: the RECV in force, the accesses it still accepts and those accepted that are not complete,
and the RECVs behind it (R222). -/
structure Arm where
  cur : Option RecvReq := none
  left : Nat := 0
  openAccesses : Nat := 0
  waiting : List RecvReq := []
deriving DecidableEq, Repr

/-- A SEND in the RIF (R221): its words until it starts, its send slot (R175), its accesses not yet answered, and what it signals at completion
(R219). -/
structure SendSt where
  id : Nat
  seq : Nat
  pc : Nat
  words : List Word := []
  list : Bool := false
  started : Bool := false
  slot : Nat := 0
  /-- What its reads meet when it starts. -/
  ups : List Upset := []
  left : Nat := 0
  ev : Nat
  evEn : Bool
  cnt : Nat
  cntEn : Bool
deriving DecidableEq, Repr

/-- A Flume transfer behind a BUSY tag (R224-R229). `served`: the controller has checked and served it; `loc`: the
fabric address of its local data; `got`: the bytes of a read already written locally; `issued`: GLB_TIME at its issue. -/
structure FlumeT where
  write : Bool
  sn : Nat
  loc : Nat
  len : Nat
  tmo : Nat
  issued : Nat
  ev : Nat
  evEn : Bool
  seq : Nat
  pc : Nat
  got : Nat := 0
  served : Bool := false
  /-- The message that the write has become (R391). -/
  msg : Option Nat := none
  /-- Its data or a RESPONSE were discarded on the way: it never completes (R193). -/
  gone : Bool := false
deriving DecidableEq, Repr

/-- A Flume tag (R224). -/
inductive Tag where
  | idle | busy (t : FlumeT) | done
deriving DecidableEq, Repr

/-- The scalar control core: PC, s0-s31, c0-c15, e0-e15, the return stack (newest first), and the core cycles since the
step started (R198, R201, R207, R208, R214, R215). -/
structure Scc where
  pc : Nat := 0
  regs : Tbl Word := []
  cnts : Tbl (BitVec 32) := []
  evs : BitVec 16 := 0
  stack : List Nat := []
  run : RunSt := .outside
  cycles : Nat := 0
  /-- The slots of the bundle at PC that have taken effect, while the others have not (R203). -/
  done : List Nat := []
  /-- For a scalar whose result is pending, the core cycle in which it is there, and whether an LD brings it (R217, R241). -/
  pend : Tbl (Nat × Bool) := []
  /-- The stall timer: the GLB_TIME of the last bundle issue or of the step start; in HALTED, where it does not run, the
  nanoseconds that it has run (R501). -/
  since : Nat := 0
deriving DecidableEq, Repr

/-- The engine counters of R80 (slack counters of R242 by index (offset - 0x100) / 8). -/
structure CoreCnt where
  zblk : Nat := 0
  sat : Nat := 0
  spuOvf : Nat := 0
  spuOutl : Nat := 0
  errCode : Code := .ok
  errEng : Nat := 0
  errOp : Nat := 0
  errPc : Nat := 0
  errTime : Nat := 0
  slack : Tbl Nat := []
deriving DecidableEq, Repr

/-- The copy that the device takes at each step start (R148, R201). -/
structure Copy where
  handles : Tbl Handle := []
  windows : Tbl Window := []
  regs : Tbl Word := []
deriving DecidableEq, Repr

/-- One logical core. -/
structure Core where
  scc : Scc := {}
  /-- Program length L (R198). -/
  len : Nat := 0
  /-- BOUNDARY and CSM_SLICE of REG_MEMPLAN, in units of 64 KiB (R159). -/
  boundary : Nat := 0
  csm : Nat := 0
  engs : Tbl EngSt := []
  ops : List Op := []
  seq : Nat := 0
  handles : Tbl Handle := []
  windows : Tbl Window := []
  arms : Tbl Arm := []
  copy : Copy := {}
  /-- Static share SHARE (R257) and the tokens acquired by TOKEN.ACQ in the step (R230). -/
  share : Nat := 0
  acquired : Nat := 0
  sends : List SendSt := []
  flume : Tbl Tag := []
  cnt : CoreCnt := {}
  /-- The cause and detail of the core's present stall (R501, R502); 0 for none. -/
  stall : Nat := 0
  detail : Nat := 0
  /-- RESIDUE named this core in the present step before a tier 2 reset (R506). -/
  residue : Bool := false
  /-- Declared dead (R506). -/
  dead : Bool := false
  /-- Written with zeros because its memories could not be read (R508): the next tier 2 reset reloads it from the Hopper store (R272). -/
  blank : Bool := false
deriving DecidableEq, Repr

/-! ### Race (05) -/

/-- A packet in flight: the header of R175, the payload, and the routers and hubs still before it. -/
structure Packet where
  id : Nat
  acc : Nat
  plane : Plane
  kind : Kind
  src : Party
  dst : Party
  dest : Nat
  win : Nat := 0
  epoch : Nat := 0
  first : Bool := true
  last : Bool := true
  mode : Nat := 0
  waypoint : Nat := 0
  length : Nat := 0
  status : Code := .ok
  payload : List Byte := []
  path : List Node := []
  /-- The head flit waits for a credit until this GLB_TIME (R190). -/
  waiting : Option Nat := none
deriving DecidableEq, Repr

/-- An access outstanding at its source (R180). `via`: the regions its route passes; `respOk`: an OK RESPONSE held until
the last byte of a read is written. -/
structure Access where
  id : Nat
  src : Party
  send : Nat := 0
  slot : Nat := 0
  kind : Kind
  plane : Plane
  dest : Nat
  len : Nat
  loc : Nat := 0
  got : Nat := 0
  respOk : Bool := false
  via : List Nat := []
  /-- GLB_TIME at which the wait for its RESPONSE expires: 4 x TIMEOUT after its LAST packet was injected (R190). -/
  due : Nat := 0
deriving DecidableEq, Repr

/-- An access accepted at its destination and not complete (R177, R190). -/
structure Incoming where
  acc : Nat
  src : Party
  core : Nat
  win : Nat
  kind : Kind
  plane : Plane
  dest : Nat
  len : Nat
  got : Nat
  /-- A failure found inside the destination (R581): nothing more is written but for a PLAIN write. -/
  failed : Option Code := none
  /-- The RECV that was in force when it was accepted, by its place in the issue order (R222). -/
  recv : Option Nat := none
  /-- GLB_TIME at which the wait for its next packet expires: TIMEOUT after the last one was written (R190). -/
  due : Nat := 0
deriving DecidableEq, Repr

/-- A route change that waits at its source region (R187). -/
structure Reload where
  src : Nat
  dst : Nat
  plane : Plane
  mode : Nat
  waypoint : Nat
deriving DecidableEq, Repr

/-- The fabric: packets in flight, accesses at their sources and at their destinations, route changes that wait, and the LOST
notices on their way: the region notified and the region lost (R193). -/
structure Race where
  packets : List Packet := []
  accesses : List Access := []
  incoming : List Incoming := []
  reloads : List Reload := []
  notices : List (Nat × Nat) := []
deriving DecidableEq, Repr

/-! ### Regions (01, 04, 05, 12, 13) -/

/-- One physical row of REG_ROWMAP (R27). -/
structure Row where
  outCol : Nat := 16
  stackDead : Bool := false
  defect : Bool := false
deriving DecidableEq, Repr

/-- One route entry on one plane (R195). -/
structure Route where
  mode : Nat := 0
  waypoint : Nat := 0
deriving DecidableEq, Repr

/-- Counters of one plane of a region (R196). -/
structure RaceCnt where
  flits : Nat := 0
  cstall : Nat := 0
  inj : Nat := 0
  ej : Nat := 0
  refused : Nat := 0
  cto : Nat := 0
  grace : Nat := 0
deriving DecidableEq, Repr

/-- Shape, realm and fence of a region (R27), and what its supply did (R462, R513, R545). -/
structure RegShape where
  shape : Shape := .unknown
  dropRow : Nat := 0
  realm : Option (Fin 16) := none
  fenced : Bool := false
  rows : Tbl Row := []
  /-- Not powered again until STANDBY. -/
  off : Bool := false
  lastLoss : Option Nat := none
  pendingScrub : Bool := false
  /-- Logical cores whose stack is dead where no image has cores that the repair moves (R509, R510). -/
  deadStacks : List Nat := []
deriving DecidableEq, Repr

/-- Memory registers of a region (R160-R162) and the patrol position. -/
structure RegMem where
  interval : BitVec 24 := 0x015180
  passes : Nat := 0
  position : Nat := 0
  stkCe : Nat := 0
  stkUe : Nat := 0
  sramCe : Nat := 0
  sramUe : Nat := 0
  /-- Corrected bursts that wait for their write-back (R131): stack addresses. -/
  writeBacks : List Nat := []
  /-- Uncorrectable bursts met, by address and time (R509). -/
  ueSeen : List (Nat × Nat) := []
  /-- Corrected bursts met, by address and time (R509). -/
  ceSeen : List (Nat × Nat) := []
deriving DecidableEq, Repr

/-- Race registers of a region (R189, R195, R196); routes by destination * 4 + plane. -/
structure RegRace where
  timeout : BitVec 24 := 0x0030D4
  routes : Tbl Route := []
  hub : Bool := false
  cnt : Tbl RaceCnt := []
deriving DecidableEq, Repr

/-- The fault ring of a region (R488). -/
structure RegLog where
  next : Nat := 0
  total : Nat := 0
  ring : Tbl Rec := []
deriving DecidableEq, Repr

/-- Tokens of a region (R257, R444, R445): the float, the outstanding grants, and the requests that wait in order. -/
structure RegTok where
  float : Nat := 0
  granted : Nat := 0
  waiting : List (Nat × Nat) := []
deriving DecidableEq, Repr

/-- Power of a region (R437-R451, R478, R479); CAPLIM is one for all regions and lies in `Pwr`. `mv`: the VDDC setpoint in mV;
`raising`: a raise waits for VSETTLE since this GLB_TIME. -/
structure RegPwr where
  op : Nat := 5
  raising : Option Nat := none
  hostlim : Nat := 0
  thmlim : Nat := 0
  ilimlim : Nat := 0
  firnlim : Nat := 0
  ilimScale : Nat := 16
  rails : BitVec 4 := 0
  ilim : Word := 0x003C00F000500190
  ilimEvt : Nat := 0
  droopEvt : Nat := 0
  mv : Nat := 550
  lastRise : Option Nat := none
  droopHold : Bool := false
  ilimHold : Bool := false
  /-- The GLB_TIME of the last droop detection (R451), and since when every window has stayed below 90 % of every limit (R449). -/
  droopAt : Nat := 0
  quietAt : Nat := 0
  /-- Estimator gains by rail in units of 1/65,536 (R450). -/
  gains : Tbl Nat := []
  /-- Sixths of a nanosecond of the core cycle under way (R440). -/
  frac : Nat := 0
  maxStk : BitVec 12 := 0
  maxLog : BitVec 12 := 0
  cool : Nat := 0
deriving DecidableEq, Repr

/-- One region. -/
structure Region where
  org : RegShape := {}
  mem : RegMem := {}
  race : RegRace := {}
  log : RegLog := {}
  tok : RegTok := {}
  pwr : RegPwr := {}
deriving DecidableEq, Repr

/-! ### Mills (01, 06, 13) -/

/-- A Snowpack range bound to a step owner (R259). -/
structure FlumeRange where
  rd : Bool
  wr : Bool
  base : Nat
  len : Nat
deriving DecidableEq, Repr

/-- What the image fixes of a mill (R34, R37, R140, R251, R259). -/
structure MillCfg where
  compound : Bool := false
  owner : Bool := false
  xact : Bool := false
  parent : Nat := 0
  realm : Nat := 0
  slot : Nat := 0
  region : Nat := 0
  x0 : Nat := 0
  y0 : Nat := 0
  w : Nat := 0
  h : Nat := 0
  /-- Chip-shared-memory slice z in bytes; 0 for none. -/
  csm : Nat := 0
  flumes : List FlumeRange := []
deriving DecidableEq, Repr

/-- MIL_WDOG (R503). -/
structure Wdog where
  timeout : BitVec 24 := 0x0186A0
  cause : Nat := 0
  nlag : Nat := 0
  lag0 : Nat := 0
  detail : Nat := 0
  late : Nat := 0
deriving DecidableEq, Repr

/-- One entry of the mill table (R34-R39, R490-R503). -/
structure Mill where
  st : MillSt := .unused
  cfg : MillCfg := {}
  lastCode : Code := .ok
  lastTime : Nat := 0
  steps : Nat := 0
  fence : Bool := false
  dstate : DrainSt := .opened
  drain : BitVec 16 := 0x0032
  late : Nat := 0
  faults : BitVec 32 := 0
  f : Nat := 0
  limit : BitVec 7 := 0
  wdog : Wdog := {}
  entry : Nat := 0
  arg : BitVec 32 := 0
  /-- A step start, or the start after a restart, is due at this GLB_TIME (R201, R492). -/
  startAt : Option Nat := none
  /-- A step is in progress: from the start to retirement, failure for good, or discard. -/
  inStep : Bool := false
  /-- The cores that have sent their STEP.END report (R231). -/
  ended : List Nat := []
  /-- The recovery tier under way, 0 for none (R491). -/
  tier : Nat := 0
  /-- A tier 2 reset has been made in the present step (R506). -/
  reset2 : Bool := false
  /-- RESET requested by host software (R499): tier 2 ends in IDLE. -/
  hostReset : Bool := false
  /-- Fenced without drain by a core shift (R507). -/
  shiftFence : Bool := false
  /-- The GLB_TIME at which the drain under way began (R497). -/
  drainAt : Nat := 0
deriving DecidableEq, Repr

/-! ### The Hopper (07) -/

/-- One image slot (R266, R279): the image copy of the Hopper store (R272) and the shards marked loaded (R273). -/
structure Slot where
  st : SlotSt := .free
  signed : Bool := false
  realm : Nat := 0
  latid : Nat := 0
  regions : BitVec 64 := 0
  meas : List Byte := []
  image : List Byte := []
  loaded : List Nat := []
  /-- A shard record whose digest did not match once (R274). -/
  retried : List Nat := []
  /-- Session of the last LOAD_WEIGHTS (R510). -/
  session : BitVec 32 := 0
  /-- What a tier 4 reload is due for: cores whose stack is dead, and weight bursts that cannot be read (R510). -/
  deadStacks : List Nat := []
  badBursts : List Nat := []
  /-- Used regions whose shape the image no longer fits (R28 step 3, R29). -/
  unfit : List Nat := []
  /-- Step owners whose tier 4 recovery ends when the slot is LOADED again (R510). -/
  reloading : List Nat := []
  /-- Other step owners with a core in a row that the reload shifts: their steps start again then (R36). -/
  resume : List Nat := []
deriving DecidableEq, Repr

/-- A retention entry of Firn (R474-R476). -/
structure Retain where
  meas : List Byte
  regions : BitVec 64
deriving DecidableEq, Repr

/-- A FETCH outstanding (R374): transfer ID, manifest record, offset, bytes wanted, bytes received, and when the last message about it went
by. -/
structure Fetch where
  xid : Nat
  index : Nat
  off : Nat
  len : Nat
  got : List Byte := []
  since : Nat := 0
deriving DecidableEq, Repr

/-- A partner key of a realm (R540). -/
structure PartnerKey where
  keyid : Word
  key : List Byte
  roles : Byte
deriving DecidableEq, Repr

/-- A realm (R540-R545). -/
structure Realm where
  present : Bool := false
  parts : BitVec 64 := 0
  ranges : List (Nat × Nat) := []
  secret : List Byte := []
  reqsign : Bool := false
  owner : Option (List Byte) := none
  keys : List PartnerKey := []
  salt : List Byte := []
  /-- Bytes 64-127 of the descriptor as applied, for KEYDIG (R546). -/
  ownerBytes : List Byte := []
deriving DecidableEq, Repr

/-- The Hopper (R278, R279). -/
structure Hopper where
  op : HopOp := .idle
  /-- The realms as they stood when the LOAD_IMAGE in progress began: their owner keys judge it (R542). -/
  realms : Tbl Realm := []
  slot : Nat := 0
  err : Code := .ok
  progress : Nat := 0
  sect : Nat := 0
  record : Nat := 0
  slots : Tbl Slot := []
  retain : List Retain := []
  /-- Host address of the HOST shards of the LOAD_WEIGHTS in progress (R273). -/
  hostAddr : Nat := 0
  /-- FETCHes outstanding (R374). -/
  fetches : List Fetch := []
  nextXid : Nat := 1
deriving DecidableEq, Repr

/-- The bus-master read that is outstanding (R431), with the operation it serves. -/
inductive DmaJob where
  | firmware (len : Nat)
  | image1 (len : Nat)
  | image2
  | shard (rec : Nat)
  | nonce (out : Nat) (pre post : List Byte)
  | table
  | realm (len : Nat)
deriving DecidableEq, Repr

/-! ### Millpond (08, 09) -/

/-- A draft held for the next VERIFY (R338, R339). -/
structure Draft where
  tokens : List (BitVec 32) := []
  parents : List Nat := []
deriving DecidableEq, Repr

/-- DRAFT of a request entry (R335). -/
structure DraftSt where
  ewma : Nat := 0
  hold : Nat := 0
  epoch : Nat := 0
  dcur : Nat := 0
  held : Bool := false
  ready : Bool := false
  nodraft : Bool := false
  dstep : Bool := false
  fixup : Nat := 0
  dlag : Nat := 0
  draft : Draft := {}
  /-- The draft step under way is a proposal (R337). -/
  proposal : Bool := false
  /-- Pages held in the draft mill's pool, and pages reserved there (R336). -/
  pages : List Nat := []
  resv : Nat := 0
deriving DecidableEq, Repr

/-- A request-table entry (R282), with the page list and the tokens that the unit keeps. -/
structure Req where
  st : ReqSt := .free
  cancel : Bool := false
  park : Bool := false
  instep : Bool := false
  restore : Bool := false
  summary : Bool := false
  realm : Nat := 0
  prio : Nat := 0
  cls : Nat := 0
  img : Nat := 0
  mill : Nat := 0
  deadline : Nat := 0
  enq : Nat := 0
  curlen : Nat := 0
  maxlen : Nat := 0
  sublen : Nat := 0
  resv : Nat := 0
  pfx : Option Nat := none
  session : BitVec 32 := 0
  outcur : Nat := 0
  seed : Word := 0
  draft : DraftSt := {}
  parkaddr : Nat := 0
  parklen : Nat := 0
  parkexp : Nat := 0
  code : Code := .ok
  greedy : Bool := false
  temp : BitVec 16 := 0
  topk : BitVec 16 := 0
  topp : BitVec 16 := 0
  stop : List (BitVec 32) := []
  tag : Word := 0
  /-- Pages of the list in order, the first `shared` of them from the prefix table (R289, R295). -/
  pages : List Nat := []
  shared : Nat := 0
  /-- Prefix entries held, in block order (R295, R296). -/
  entries : List Nat := []
  /-- Positions below which rows are computed: submitted positions ingested so far (R302). -/
  computed : Nat := 0
  /-- Tokens of all positions so far, submitted and committed. -/
  tokens : List (BitVec 32) := []
  /-- The lookup of R295 is pending. -/
  lookup : Bool := false
  /-- Time to live of the park under way in seconds (R309). -/
  ttl : Nat := 0
  /-- The completion record has been sent in the message of this sequence number (R308, R372). -/
  finalSeq : Option (BitVec 32) := none
  /-- The parked completion of a class with ONEND PARK (R284). -/
  endPark : Bool := false
  /-- Pages that the parked state holds (R310). -/
  parkPages : Nat := 0
  /-- Positions from 0 on that a summary stands for (R312). -/
  lead : Nat := 0
  /-- Positions from 0 on that the SUBMIT submitted; 0 once the positions restart after a summary (R295, R312). -/
  firstLen : Nat := 0
  /-- SEQ of the SUBMIT's last message, which an ERROR about its admission names (R375). -/
  rseq : BitVec 32 := 0
  /-- The next record restarts the page list (R303 NEWLIST). -/
  fresh : Bool := true
  /-- Submitted positions at or above OUTCUR that RESUMEs appended, as first position and count: no message carries them (R307, R312). -/
  skips : List (Nat × Nat) := []
  /-- The CANCEL arrived while PEND.PARK was set, and takes effect at step 4 of R311. -/
  cancelAtPark : Bool := false
deriving DecidableEq, Repr

/-- The pool of a serving mill (R286, R317): its fields, the pages in use, and the pages reserved and not allocated. -/
structure Pool where
  pages : Nat := 0
  pageb : Nat := 0
  pfxoff : Nat := 0
  pfxent : Nat := 0
  vocab : Nat := 0
  sumpos : Nat := 0
  sumb : Nat := 0
  used : List Nat := []
  reserved : Nat := 0
deriving DecidableEq, Repr

/-- One record of a length table (R303). -/
structure LtRec where
  req : Nat
  flags : Nat
  epoch : Nat
  pos0 : Nat
  nnew : Nat
  dlen : Nat
  nadd : Nat
  addoff : Nat
  tokoff : Nat
  npages : Nat
  snaddr : Nat
deriving DecidableEq, Repr

/-- The batch of a step (R302-R305). `kind` 0 PREFILL, 1 DECODE, 2 VERIFY. -/
structure Batch where
  kind : Nat := 0
  /-- Index of the first record of each group. -/
  groups : List Nat := []
  recs : List LtRec := []
  tokens : List (BitVec 32) := []
  pagesAdded : List Nat := []
  resoff : Nat := 0
  rung : Bool := false
  retired : Bool := false
  /-- GLB_TIME of the retirement, the commit time (R298). -/
  time : Nat := 0
deriving DecidableEq, Repr

/-- One Millpond unit: MPD_CTRL.AGE, MPD_REQSEL with its snapshot, and the counters of R316 by index. -/
structure MpdUnit where
  age : BitVec 24 := 0x002710
  sel : Nat := 0
  snap : List Byte := []
  cnt : Tbl Nat := []
deriving DecidableEq, Repr

/-- The Millpond. -/
structure Millpond where
  units : Tbl MpdUnit := []
  reqs : Tbl Req := []
  pools : Tbl Pool := []
  poolSel : Nat := 0
  batches : Tbl Batch := []
deriving DecidableEq, Repr

/-! ### Sluice ports and sessions (10) -/

/-- A sequenced message that the device has sent and the partner has not acknowledged (R367). -/
structure TxMsg where
  seq : BitVec 32
  type : Nat
  flags : Nat
  body : List Byte
  sent : Nat
  /-- When its retransmission timer ends, and the RETRY in force when the timer started (R367, R384). -/
  due : Nat := 0
  retry : Nat := 0
deriving DecidableEq, Repr

/-- A multi-message SUBMIT or RESUME that is pending (R370, R371): its key, its first fixed part and the tokens so far. -/
structure Staged where
  key : Word
  isResume : Bool
  fixed : List Byte
  tokens : List (BitVec 32)
  total : Nat
  /-- The command has been refused at its first message and its continuations are discarded. -/
  refused : Bool
deriving DecidableEq, Repr

/-- A session (R362-R377). -/
structure Session where
  id : BitVec 32
  port : Nat
  subB : Bool
  realm : Nat
  role : Nat
  keyid : Word
  key : List Byte
  src : Source
  txSeq : BitVec 32 := 1
  rxSeq : BitVec 32 := 1
  /-- Messages that arrived after a gap, by SEQ, each with its source; no bytes for one that failed a check (R365, R376, R378). -/
  held : List (BitVec 32 × List Byte × Source) := []
  /-- The messages missing for which a NAK has been sent, by SEQ, and when the next may go (R366). -/
  naks : List (BitVec 32 × Nat) := []
  unacked : List TxMsg := []
  waiting : List TxMsg := []
  staged : Option Staged := none
  /-- When the acknowledgement that is owed must leave (R366). -/
  ackDue : Option Nat := none
  viol : Nat := 0
  /-- SLU_VIOL as it was when the window opened (R384). -/
  violSet : Word := 0
  /-- When the violation window that is open ends (R377). -/
  violAt : Option Nat := none
  quarUntil : Option Nat := none
  quarErrAt : Option Nat := none
  /-- SEQ, TYPE and KEY of the first message refused since the last ERROR QUARANTINED (R375, R377). -/
  quarSeq : Option (BitVec 32 × Nat × Nat) := none
  /-- The device closes the session with this code; when its CLOSE left (R364). -/
  closing : Option Code := none
  closeAt : Option Nat := none
  /-- The partner's CLOSE, with its code, whose reply waits for the window (R364, R369). -/
  ending : Option Code := none
deriving DecidableEq, Repr

/-- One Sluice port (R381-R386), its registers whole; counters by index (offset - 0x100) / 8. -/
structure Port where
  cfg : Word := 0x40
  linkA : Bool := false
  linkB : Bool := false
  /-- Lanes that have lost signal (R382). -/
  los : BitVec 8 := 0
  localClk : Bool := false
  gml : Word := 0x9A6088B5
  mac : Word := 0
  ip0 : Word := 0
  ip1 : Word := 0
  tmr : Word := 0x14080032
  viol : Word := 0x00EA600003E80010
  cnt : Tbl Nat := []
  vlog : Tbl (List Byte) := []
  vnext : Nat := 0
  vtotal : Nat := 0
deriving DecidableEq, Repr

/-- An OPEN answered with a session: where it came from, its PNONCE, when, and the reply (R363). -/
structure Opened where
  port : Nat
  subB : Bool
  src : Source
  pnonce : List Byte
  time : Nat
  reply : List Byte
deriving DecidableEq, Repr

/-- The slave clock of the precision time service (R379, R380): the last Sync with its time of arrival and, when known, of sending; the
Delay_Req that waits for its answer with its time of sending; the next sequence number; all times in 1/16 ns. What of a correction is still
to be slewed, and what of it has not yet come to a whole nanosecond, in units of 1/160000 ns. -/
structure Ptp where
  sync : Option (BitVec 16 × Nat × Option Nat) := none
  req : Option (BitVec 16 × Nat) := none
  seq : BitVec 16 := 0
  slew : Int := 0
  part : Int := 0
deriving DecidableEq, Repr

/-- The Sluice side: ports, sessions, the generation of each session slot by unit * 2,048 + slot (R363), the code with which the last session
of a slot ended (R364, R367, R377, R381), and the OPENs of late. -/
structure Sluice where
  ports : Tbl Port := []
  sessions : List Session := []
  gens : Tbl Nat := []
  ends : Tbl Code := []
  opened : List Opened := []
  ptp : Ptp := {}
deriving DecidableEq, Repr

/-! ### Tailrace (10) -/

/-- A message of a queue that still has flits to send (R390, R391): its number among the messages of the device, whether its SOM flit has left,
and the bytes still to send. -/
structure Message where
  id : Nat
  begun : Bool := false
  bytes : List Byte
deriving DecidableEq, Repr

/-- One remote stage queue (R391-R396). -/
structure LQueue where
  en : Bool := false
  nslot : Nat := 0
  slotb : Nat := 0
  tx : Word := 0
  rx : Word := 0
  credit : Nat := 0
  txacked : BitVec 32 := 0
  farEn : Bool := false
  farSlotb : Nat := 0
  /-- A message under reception, its flits' bytes so far (R390). -/
  partialMsg : Option (List Byte) := none
  /-- Whole messages whose write waits for the destination's credits (R158, R188), oldest first. -/
  inbox : List (List Byte) := []
  prod : Word := 0
  cons : Word := 0
  /-- Slots written into the window and not consumed, and messages whose PROD is not yet written (R392). -/
  held : Nat := 0
  toPublish : Nat := 0
  mseq : BitVec 32 := 0
  /-- Messages whose last flit has not entered the replay buffer, oldest first (R389, R391). -/
  sendq : List Message := []
  /-- Receive slots that the next headers return as credits (R390, R393). -/
  owe : Nat := 0
deriving DecidableEq, Repr

/-- A flit kept for replay (R389): its type (1 DATA, 2 QCFG) and contents. -/
structure TxFlit where
  type : Nat
  seq : Nat
  queue : Nat
  som : Bool
  eom : Bool
  mseq : BitVec 32
  payload : List Byte
deriving DecidableEq, Repr

/-- One Tailrace link (R387-R397); counters by index (offset - 0x400) / 8. -/
structure Link where
  en : Bool := false
  realmValid : Bool := false
  realm : Nat := 0
  up : Bool := false
  training : Bool := false
  lost : Bool := false
  peer : BitVec 32 := 0
  queues : Tbl LQueue := []
  cnt : Tbl Nat := []
  txSeq : Nat := 0
  rxSeq : Nat := 0
  replay : List TxFlit := []
  /-- The flit awaited has not come: later ones are discarded (R389). -/
  skipping : Bool := false
  /-- The training under way is the first since EN became 1. -/
  fresh : Bool := false
  replays : Nat := 0
  /-- What the next flits still have to say (R388-R394): the EN and SLOTB of the queues, a NAK, an ACK that has advanced. -/
  cfgDue : Bool := false
  nakDue : Bool := false
  ackDue : Bool := false
  /-- The queue that is first in the round robin (R390). -/
  turn : Nat := 0
  /-- When ACK last advanced or flits became outstanding, and when the training under way began (R389). -/
  ackAt : Nat := 0
  trainAt : Nat := 0
  /-- The receive domain runs from the root (R465). -/
  localClk : Bool := false
deriving DecidableEq, Repr

/-! ### Snowpack (11) -/

/-- One controller (R417-R421); temperatures by stack with VALID, counters by index (offset - 0x200) / 8. -/
structure Snw where
  ready : BitVec 6 := 0
  failed : BitVec 6 := 0
  hot : BitVec 6 := 0
  interval : BitVec 24 := 0x015180
  passes : Nat := 0
  /-- The Snowpack address from which the patrol goes on (R410). -/
  position : Nat := 0
  temps : Tbl (Option (BitVec 12)) := []
  cnt : Tbl Nat := []
  writeBacks : List Nat := []
  refreshes : Tbl Nat := []
deriving DecidableEq, Repr

/-- Snowpack: the controllers, the zone map and the map that applies once the zones listed are zeroed (R401), and the
poisoned bursts (R410). -/
structure Snowpack where
  ctl : Tbl Snw := []
  zmap : BitVec 31 := 0
  zeroing : List Nat := []
  poison : List Nat := []
deriving DecidableEq, Repr

/-! ### Power, clocks, heat, Firn (12) -/

/-- A shrink step in force (R453, R454). -/
inductive Shrink where
  | compute | memory | links | caplim
deriving DecidableEq, Repr

/-- PWR registers (R477) and the shrink steps in force, newest first. -/
structure Pwr where
  cap : BitVec 12 := 0xBB8
  prio : BitVec 3 := 0
  p10 : BitVec 12 := 0
  p1s : BitVec 12 := 0
  cscale : Nat := 16
  mscale : Nat := 8
  lscale : Nat := 8
  caplim : Nat := 0
  unmet : Bool := false
  vsettle : BitVec 16 := 0x0014
  droopMv : BitVec 8 := 0x32
  steps : List Shrink := []
deriving DecidableEq, Repr

/-- CLK registers (R480). -/
structure Clk where
  src : Bool := false
  port : BitVec 4 := 0
  auto : Bool := false
  lock : Bool := false
  holdover : Bool := false
  active : Bool := false
  losRef : Bool := false
  losPort : Bool := false
  gate : BitVec 34 := 0x200000000
  stops : Nat := 0
deriving DecidableEq, Repr

/-- THM registers (R481). -/
structure Thm where
  stkThr : BitVec 8 := 0x5F
  logThr : BitVec 8 := 0x6E
  hyst : BitVec 5 := 0x05
  hotreg : Nat := 0
  valid : Bool := false
  hottemp : BitVec 12 := 0
  trip : BitVec 64 := 0
  tripHbm : BitVec 24 := 0
  tripField : BitVec 12 := 0
  /-- The last reading of each Snowpack stack that its controller has forwarded on plane T, by 6 x controller + stack (R415). -/
  snowTemps : Tbl (BitVec 12) := []
deriving DecidableEq, Repr

/-- One Firn channel (R468, R469, R482): filters hold 8 fraction bits; `sum` and `cntLeft` average the samples of a
calibration (R472). -/
structure Chan where
  raw : BitVec 12 := 0
  cal : Nat := 0
  f1 : Nat := 0
  f2 : Nat := 0
  k1 : BitVec 4 := 0
  k2 : BitVec 4 := 0
  fscale : Nat := 0
  offset : Nat := 0
  gain : Nat := 0x4000
  newOffset : Nat := 0
  newGain : Nat := 0x4000
  newFscale : Nat := 0
  /-- FSCALE and the applied value of the phase FULL under way. -/
  tryFscale : Nat := 0
  applied : Nat := 0
  sum : Nat := 0
  cntLeft : Nat := 0
  /-- The stay in READY, by GLB's count of them, in which phases ZERO and FULL were last completed (R539). -/
  zeroIn : Option Nat := none
  fullIn : Option Nat := none
  suspended : Bool := false
deriving DecidableEq, Repr

/-- One Firn rule: FRN_RULE_n whole, and the consecutive samples for which its comparison has held (R470). -/
structure Rule where
  w : Word := 0
  run : Nat := 0
deriving DecidableEq, Repr

/-- Firn (R467-R482). -/
structure Frn where
  chans : Tbl Chan := []
  rules : Tbl Rule := []
  active : BitVec 64 := 0
  fired : BitVec 64 := 0
  tdac : BitVec 26 := 0
  oscDly : BitVec 3 := 0
  uncal : Bool := false
  crystal : Bool := false
  /-- Records kept while the Miller is not running (R470), oldest first. -/
  kept : List Rec := []
  /-- CALIBRATE phase under way: 0 none, 1 ZERO, 2 FULL (R472), with its channel masks. -/
  phase : Nat := 0
  mask : BitVec 128 := 0
  /-- The calibration in the module record store by channel: OFFSET, GAIN, FSCALE (R469, R472). -/
  stored : Tbl (Option (Nat × Nat × Nat)) := []
  /-- Nanoseconds that Firn has counted since VDDF rose (R513). -/
  clock : Nat := 0
deriving DecidableEq, Repr

/-! ### Faults, self-test, Moraine map (13) -/

/-- A record whose merge window is open (R164, R378, R487): the record, its count, and what it merges on. -/
structure Merging where
  record : Rec
  key : Nat × Nat × Nat
  count : Nat
  /-- The region ring that holds its copy, and the record's number there, if it has one. -/
  regIdx : Option (Nat × Nat)
  /-- The model's number of this entry, by which MERGE_WINDOW_CLOSE names it. -/
  number : Nat
deriving DecidableEq, Repr

/-- The FLT block (R489). -/
structure Flt where
  retry : BitVec 4 := 3
  stkue : BitVec 8 := 0x10
  next : Nat := 0
  total : Nat := 0
  tail : Nat := 0
  unread : Nat := 0
  overrun : Nat := 0
  sel : Nat := 0
  snap : Rec := {}
  snapTaken : Bool := false
  ring : Tbl Rec := []
  merging : List Merging := []
  mergeCount : Nat := 0
deriving DecidableEq, Repr

/-- Result of a block's self-test (R523, R525). -/
structure BlockRes where
  /-- 0 MATCH, 1 NEW, 2 MISMATCH, 3 NOTRUN. -/
  res : Nat := 3
  sig : BitVec 128 := 0
  gold : BitVec 128 := 0
deriving DecidableEq, Repr

/-- Where a shut-down or a park with TEST stands (R519, R524); `unloading`: a park waits for the drains of its images (R474). -/
inductive Shut where
  | none | draining | phase1 | phase2 | unloading
deriving DecidableEq, Repr

/-- The BST block (R525) and the shut-down under way. -/
structure Bst where
  shut : Shut := .none
  isPark : Bool := false
  test : Bool := false
  quick : Bool := false
  clean : Bool := false
  block : Nat := 0
  sel : Nat := 0
  /-- The stored set (R523), and the results of the run under way or of the last full test of bring-up (R522). -/
  results : Tbl BlockRes := []
  run : Tbl BlockRes := []
  /-- The Miller has read the stored set since reset (R518 step 1). -/
  shown : Bool := false
  /-- Digest of the Moraine map when the set was stored (R518, R523). -/
  mapDig : List Byte := []
  /-- Digest of the firmware whose golden table the set was compared with (R523). -/
  table : List Byte := []
deriving DecidableEq, Repr

/-- An entry of the Moraine map (R516). -/
structure MEntry where
  kind : Nat
  source : Nat
  region : Nat
  row : Nat := 0
  col : Nat := 0
  sub : Nat := 0
  detail : Nat := 0
  boot : Nat := 0
deriving DecidableEq, Repr

/-! ### Security and management (14) -/

/-- The mailbox (R535). -/
structure Mlr where
  op : BitVec 8 := 0
  tag : BitVec 16 := 0
  args : Tbl Word := []
  busy : Bool := false
  done : Bool := false
  code : Code := .ok
  rtag : BitVec 16 := 0
  opdone : BitVec 8 := 0
  res : Tbl Word := []
  cntOk : Nat := 0
  cntErr : Nat := 0
  /-- The region of a FENCE that waits for its drains (R538). -/
  fencing : Option Nat := none
deriving DecidableEq, Repr

/-- The Seal and the SEC block (R531, R549, R550); counters by index (offset - 0x100) / 8. -/
structure Sec where
  idfail : Bool := false
  svn : Nat := 0
  fwLen : Nat := 0
  fwKeyid : Word := 0
  fwDig : List Byte := []
  /-- The firmware image that Miller memory holds; nothing where it has been zeroed (R528). -/
  fwMem : List Byte := []
  romDig : List Byte := []
  devKey : List Byte := []
  /-- The device private key held by the Seal. -/
  privKey : List Byte := []
  cnt : Tbl Nat := []
deriving DecidableEq, Repr

/-! ### Pins and sequences (15) -/

/-- Where the power-up sequence of R565 waits. -/
inductive Seq where
  | down | waitOsc | waitEdgeL | waitEdgeA | waitVddm | waitEdgeH | waitCore | up
deriving DecidableEq, Repr

/-- Pins as Firn counts them (R555, R558), enables, and the state of the sequences (R565-R569). -/
structure Pins where
  pwrReq : Bool := false
  rstLow : Bool := false
  perst : Bool := false
  enEdgeL : Bool := false
  enEdgeA : Bool := false
  enVddm : Bool := false
  enEdgeH : Bool := false
  enCore : Bool := false
  pgVddm : BitVec 16 := 0
  /-- PG_CORE: the converters of VDDC, VDDS and VDDN are in regulation (R563). -/
  pgCore : Bool := false
  /-- FAULT_N is low: FAULT has been entered and neither MOD_RST_N nor OFF has come since (R557). -/
  faultLow : Bool := false
  seq : Seq := .down
  /-- Leaving PARKED: EN_VDDM is already high (R565 step 4). -/
  fromParked : Bool := false
  /-- Power-up waits for PWR_ON_REQ low and high again, or a WAKE rule (R567). -/
  interlock : Bool := false
  /-- When PWR_ON_REQ went low, as Firn counts (R567). -/
  lowAt : Option Nat := none
deriving DecidableEq, Repr

/-- One entry of the MSI-X table (R425). -/
structure Msix where
  addr : Word := 0
  data : BitVec 32 := 0
  masked : Bool := true
deriving DecidableEq, Repr

/-- Identity, global status, interrupts and the PCIe function (R7, R430-R433, R534). -/
structure Glb where
  st : DevState := .off
  bootcode : Code := .ok
  fgrade : Nat := 3
  /-- GRADE at the last conventional reset, the Subsystem ID of configuration space (R424). -/
  subsys : Nat := 3
  time : Nat := 0
  serial : Word := 0
  stat : BitVec 41 := 0
  mask : BitVec 41 := 0x1FFFFFFFFFF
  msix : Tbl Msix := []
  pba : BitVec 64 := 0
  speed : Nat := 0
  width : Nat := 0
  flit : Bool := false
  late : Nat := 0
  busMaster : Bool := false
  d3 : Bool := false
  /-- Miller firmware runs (R529). -/
  fw : Bool := false
  /-- How often READY has been entered since BOOT (R539). -/
  readies : Nat := 0
  /-- Bus-master reads outstanding, the oldest first, each with the time of its start. -/
  dma : List (Nat × DmaJob) := []
deriving DecidableEq, Repr

/-- The sender's side of a frame (R356): sub-port, the addresses of the port, TTL or hop limit, DSCP, DF, and PCP and VID of its tag. -/
structure Sender where
  subB : Bool
  src : Source
  ttl : Nat
  dscp : Nat
  df : Bool
  tag : Option (Nat × Nat)
deriving DecidableEq, Repr

/-- What the device sends outwards. -/
inductive Out where
  /-- An MSI-X message of a vector (R430). -/
  | msix (vector : Nat)
  /-- A GML message on a session's port (R356-R361): the sender's side of the frame, where it goes, and header, body and tag. -/
  | gml (port : Nat) (sender : Sender) (dst : Source) (bytes : List Byte)
  /-- A Delay_Req of the precision time service on port 0 (R379). -/
  | delayReq (seq : BitVec 16)
  /-- The Miller's report of an offset in 1/16 ns (R380). -/
  | offset (n : Int)
  /-- Bytes written to host memory (R538). -/
  | host (addr : Nat) (bytes : List Byte)
  /-- A flit on a link as the 272-byte codeword that carries it (R388). -/
  | flit (link : Nat) (codeword : List Byte)
  /-- What a link says of itself while it trains: serial number, link number, stepping (R387). -/
  | training (serial : Word) (link stepping : Nat)
deriving DecidableEq, Repr

/-- The state of the device, the queue of the commands that wait (first in, first out), and the model's own counters:
`free` (the next free value) and `ids` (the next identifier of a packet, an access or a message). -/
structure State where
  pending : List Instr := []
  free : Nat := 0
  ids : Nat := 0
  mem : Memory := []
  prog : Memory := []
  poison : List Nat := []
  glb : Glb := {}
  regions : Tbl Region := []
  mills : Tbl Mill := []
  cores : Tbl Core := []
  race : Race := {}
  hop : Hopper := {}
  pond : Millpond := {}
  sluice : Sluice := {}
  links : Tbl Link := []
  snow : Snowpack := {}
  pwr : Pwr := {}
  clk : Clk := {}
  thm : Thm := {}
  frn : Frn := {}
  flt : Flt := {}
  bst : Bst := {}
  moraine : List MEntry := []
  bootno : Nat := 0
  mlr : Mlr := {}
  sec : Sec := {}
  realms : Tbl Realm := []
  pins : Pins := {}
  out : List Out := []
deriving DecidableEq, Repr

/-- Why the model stops at a command. -/
inductive Fault where
  /-- Raised by a meaning for a command whose fields break the encoding rules that the Hopper checks when an image loads
  (R213, R233): no program that the device holds contains it. Safe: the model stops where the device has no behaviour. -/
  | illFormed
deriving DecidableEq, Repr

/-- Why the model gives a command no meaning. -/
inductive Refusal where
  /-- Raised by the arm of a command that has no meaning yet, with its mnemonic. Safe: nothing can be proved of it. -/
  | notModelled (mnemonic : String)
deriving DecidableEq, Repr

/-- The machine right after reset: the reset of the edge logic has just been released (R565 step 7), so that every
register reads the value its table gives for reset, GLB_STATUS.STATE the value BOOT among them (R534); the rails that
reset needs are enabled; no memory byte is listed and no command waits. -/
def State.reset : State :=
  { glb := { st := .boot, busMaster := true }
    frn := { crystal := true }
    pins := { pwrReq := true, perst := true, enEdgeL := true, enEdgeA := true, enVddm := true, enEdgeH := true,
              enCore := true, pgVddm := 0xFFFF, pgCore := true, seq := .up } }

end Sys2Proof.Machine
end

