-- ==== Sys2Proof/Machine/Ops.lean ====
section
/-!
DEFINITION. The operations that every family shares: the entries of the tables of `State`, memory, free values, interrupt
causes (11 R430), fault records (13 R483-R488), the mill trees (01 R33-R38), image sections (07 R247-R260), the grade (00 R4)
and the state the device reports (00 R7).
-/
namespace Sys2Proof.Machine

/-- The outcome of a command. -/
abbrev Outcome := Host.Outcome State Fault Refusal

/-! ### Entries of the tables -/

/-- Core `c`. -/
def coreOf (s : State) (c : Nat) : Core := Tbl.get {} s.cores c
/-- Changes core `c`. -/
def updCore (s : State) (c : Nat) (f : Core → Core) : State := { s with cores := Tbl.upd {} s.cores c f }
/-- Region `r`. -/
def regionOf (s : State) (r : Nat) : Region := Tbl.get {} s.regions r
/-- Changes region `r`. -/
def updRegion (s : State) (r : Nat) (f : Region → Region) : State := { s with regions := Tbl.upd {} s.regions r f }
/-- Mill-table entry `m`. -/
def millOf (s : State) (m : Nat) : Mill := Tbl.get {} s.mills m
/-- Changes mill-table entry `m`. -/
def updMill (s : State) (m : Nat) (f : Mill → Mill) : State := { s with mills := Tbl.upd {} s.mills m f }
/-- Image slot `n`. -/
def slotOf (s : State) (n : Nat) : Slot := Tbl.get {} s.hop.slots n
/-- Changes image slot `n`. -/
def updSlot (s : State) (n : Nat) (f : Slot → Slot) : State :=
  { s with hop := { s.hop with slots := Tbl.upd {} s.hop.slots n f } }
/-- Request entry `q`. -/
def reqOf (s : State) (q : Nat) : Req := Tbl.get {} s.pond.reqs q
/-- Changes request entry `q`. -/
def updReq (s : State) (q : Nat) (f : Req → Req) : State :=
  { s with pond := { s.pond with reqs := Tbl.upd {} s.pond.reqs q f } }
/-- The pool of serving mill `m`. -/
def poolOf (s : State) (m : Nat) : Pool := Tbl.get {} s.pond.pools m
/-- Changes the pool of serving mill `m`. -/
def updPool (s : State) (m : Nat) (f : Pool → Pool) : State :=
  { s with pond := { s.pond with pools := Tbl.upd {} s.pond.pools m f } }
/-- The batch of mill `m`. -/
def batchOf (s : State) (m : Nat) : Batch := Tbl.get {} s.pond.batches m
/-- Changes the batch of mill `m`. -/
def updBatch (s : State) (m : Nat) (f : Batch → Batch) : State :=
  { s with pond := { s.pond with batches := Tbl.upd {} s.pond.batches m f } }
/-- Millpond unit `u`. -/
def unitOf (s : State) (u : Nat) : MpdUnit := Tbl.get {} s.pond.units u
/-- Changes Millpond unit `u`. -/
def updUnit (s : State) (u : Nat) (f : MpdUnit → MpdUnit) : State :=
  { s with pond := { s.pond with units := Tbl.upd {} s.pond.units u f } }
/-- Raises the Millpond counter at unit offset 0x100 + 8 i by `n` (R316). -/
def mpdCount (s : State) (u i n : Nat) : State :=
  updUnit s u fun x => { x with cnt := Tbl.upd 0 x.cnt i (bumpBy · n) }
/-- Sluice port `p`. -/
def portOf (s : State) (p : Nat) : Port := Tbl.get {} s.sluice.ports p
/-- Changes Sluice port `p`. -/
def updPort (s : State) (p : Nat) (f : Port → Port) : State :=
  { s with sluice := { s.sluice with ports := Tbl.upd {} s.sluice.ports p f } }
/-- Raises the port counter at offset 0x100 + 8 i (R385). -/
def portCount (s : State) (p i : Nat) : State := updPort s p fun x => { x with cnt := Tbl.upd 0 x.cnt i bump }
/-- Tailrace link `l`. -/
def linkOf (s : State) (l : Nat) : Link := Tbl.get {} s.links l
/-- Changes Tailrace link `l`. -/
def updLink (s : State) (l : Nat) (f : Link → Link) : State := { s with links := Tbl.upd {} s.links l f }
/-- Raises the link counter at offset 0x400 + 8 i (R397). -/
def linkCount (s : State) (l i : Nat) : State := updLink s l fun x => { x with cnt := Tbl.upd 0 x.cnt i bump }
/-- Queue `q` of link `l`. -/
def queueOf (s : State) (l q : Nat) : LQueue := Tbl.get {} (linkOf s l).queues q
/-- Changes queue `q` of link `l`. -/
def updQueue (s : State) (l q : Nat) (f : LQueue → LQueue) : State :=
  updLink s l fun x => { x with queues := Tbl.upd {} x.queues q f }
/-- Snowpack controller `k`. -/
def ctlOf (s : State) (k : Nat) : Snw := Tbl.get {} s.snow.ctl k
/-- Changes Snowpack controller `k`. -/
def updCtl (s : State) (k : Nat) (f : Snw → Snw) : State :=
  { s with snow := { s.snow with ctl := Tbl.upd {} s.snow.ctl k f } }
/-- Raises the controller counter at offset 0x200 + 8 i by `n` (R421). -/
def ctlCount (s : State) (k i n : Nat) : State := updCtl s k fun x => { x with cnt := Tbl.upd 0 x.cnt i (bumpBy · n) }
/-- Realm `k`. -/
def realmOf (s : State) (k : Nat) : Realm := Tbl.get {} s.realms k
/-- Changes realm `k`. -/
def updRealm (s : State) (k : Nat) (f : Realm → Realm) : State := { s with realms := Tbl.upd {} s.realms k f }
/-- Firn channel `n`. -/
def chanOf (s : State) (n : Nat) : Chan := Tbl.get {} s.frn.chans n
/-- Changes Firn channel `n`. -/
def updChan (s : State) (n : Nat) (f : Chan → Chan) : State :=
  { s with frn := { s.frn with chans := Tbl.upd {} s.frn.chans n f } }
/-- Engine `e` of a core. -/
def engOf (k : Core) (e : Eng) : EngSt := Tbl.get {} k.engs e.num
/-- Changes engine `e` of core `c`. -/
def updEng (s : State) (c : Nat) (e : Eng) (f : EngSt → EngSt) : State :=
  updCore s c fun k => { k with engs := Tbl.upd {} k.engs e.num f }
/-- Session `n`, if open. -/
def sessionOf (s : State) (n : BitVec 32) : Option Session := s.sluice.sessions.find? fun x => x.id == n
/-- Changes session `n`. -/
def updSession (s : State) (n : BitVec 32) (f : Session → Session) : State :=
  { s with sluice := { s.sluice with sessions := s.sluice.sessions.map fun x => if x.id == n then f x else x } }

/-- GLB_ID.STEPPING (R5). -/
def steppingCode : Nat := if Config.steppingB0 then 2 else 1

/-- Is [lo, hi) covered by ranges of an allocation? -/
def coveredBy (rs : List (Nat × Nat)) : Nat → Nat → Nat → Bool
  | 0, lo, hi => decide (hi ≤ lo)
  | n + 1, lo, hi =>
    if hi ≤ lo then true
    else match rs.find? fun r => decide (r.1 ≤ lo) && decide (lo < r.1 + r.2) with
      | none => false
      | some r => coveredBy rs n (r.1 + r.2) hi

/-! ### Memory -/

/-- The canonical form of a memory: addresses rise strictly and no byte 0 is listed. -/
def Memory.wf (m : Memory) : Bool := Tbl.wf 0 m

/-- The byte at an address, 0 where none is listed. -/
def Memory.byte (m : Memory) (a : Nat) : Byte := Tbl.get 0 m a

/-- Puts bytes from `a` on. -/
def Memory.put : Memory → Nat → List Byte → Memory
  | m, _, [] => m
  | m, a, b :: bs => Memory.put (Tbl.set 0 m a b) (a + 1) bs

/-- Writes 0 over `n` bytes from `a` on. -/
def Memory.zero (m : Memory) (a n : Nat) : Memory := Tbl.clear m a (a + n)

/-- Puts the listed bytes of `es`, each moved from `src` to `dst`. -/
def Memory.putAll : Memory → Nat → Nat → List Host.Cell → Memory
  | m, _, _, [] => m
  | m, src, dst, (a, b) :: es => Memory.putAll (Tbl.set 0 m (a - src + dst) b) src dst es

/-- Copies `n` bytes from `src` to `dst`; what stood there is replaced. -/
def Memory.copy (m : Memory) (src dst n : Nat) : Memory :=
  Memory.putAll (Memory.zero m dst n) src dst (m.filter fun p => decide (src ≤ p.1) && decide (p.1 < src + n))

/-- The byte at a fabric address. -/
def readByte (s : State) (a : Nat) : Byte := Memory.byte s.mem a
/-- `n` bytes from a fabric address on. -/
def readBytes (s : State) (a n : Nat) : List Byte := (List.range n).map fun i => readByte s (a + i)
/-- The `n`-byte number at a fabric address (R12). -/
def readNum (s : State) (a n : Nat) : Nat := leNat (readBytes s a n)
/-- Writes bytes from a fabric address on. -/
def writeBytes (s : State) (a : Nat) (bs : List Byte) : State := { s with mem := Memory.put s.mem a bs }
/-- Writes an `n`-byte number (R12). -/
def writeNum (s : State) (a n v : Nat) : State := writeBytes s a (leBytes n v)
/-- Writes zeros. -/
def zeroBytes (s : State) (a n : Nat) : State := { s with mem := Memory.zero s.mem a n }
/-- Moves `n` bytes. -/
def copyBytes (s : State) (src dst n : Nat) : State := { s with mem := Memory.copy s.mem src dst n }

/-- The fabric address of byte `off` of space `sp` of core `c` (R122, R25). -/
def coreAddr (c sp off : Nat) : Nat := at_ 34 c + at_ 30 sp + off
/-- The Snowpack form (R122). -/
def snowAddr (a : Nat) : Nat := 2 ^ 51 + a
/-- Size of a memory space (R125). -/
def spaceSize (sp : Nat) : Nat :=
  if sp = 0 then 2 ^ 28 else if sp = 1 then 3 * 2 ^ 20 else if sp = 2 then 2 ^ 20
  else if sp = 3 then 2 ^ 30 else if sp = 4 then 2 ^ 18 else 0
/-- Program memory of core `c` begins here in `prog` (R198). -/
def progAddr (c : Nat) : Nat := 65536 * c
/-- The region of core `c` (R25). -/
def regionOfCore (c : Nat) : Nat := c / 256

/-! ### Lists of numbers -/

/-- Inserts in ascending order, once. -/
def insertNat (n : Nat) : List Nat → List Nat
  | [] => [n]
  | k :: ks => if n < k then n :: k :: ks else if n = k then k :: ks else k :: insertNat n ks
/-- Ascending and without repeats. -/
def sortNat (l : List Nat) : List Nat := l.foldl (fun acc n => insertNat n acc) []
/-- The bits of a mask that are 1, ascending, below `n`. -/
def setBits (v n : Nat) : List Nat := (List.range n).filter fun i => v.testBit i
/-- Inserts before the first element that `lt` ranks behind it. -/
def insertBy {α : Type} (lt : α → α → Bool) (x : α) : List α → List α
  | [] => [x]
  | y :: ys => if lt x y then x :: y :: ys else y :: insertBy lt x ys
/-- Sorted by `lt`, equal elements in their old order. -/
def sortBy {α : Type} (lt : α → α → Bool) (l : List α) : List α := l.foldl (fun acc x => insertBy lt x acc) []

/-! ### Free values -/

/-- Draws `n` free bytes (the Seal's random source). -/
def drawBytes (s : State) (n : Nat) : List Byte × State :=
  ((List.range n).map fun i => Config.freeByte (s.free + i), { s with free := s.free + n })
/-- Draws a free bit. -/
def drawBit (s : State) : Bool × State := (Config.freeBit s.free, { s with free := s.free + 1 })

/-! ### Interrupt causes (R429, R430) -/

/-- Signals vector `v`: the message leaves, or the PBA bit is set while the entry is masked. -/
def signalVector (s : State) (v : Nat) : State :=
  if (Tbl.get {} s.glb.msix v).masked then { s with glb := { s.glb with pba := s.glb.pba ||| BitVec.ofNat 64 (2 ^ v) } }
  else { s with out := s.out ++ [.msix v] }

/-- A cause of vector `v` occurs. -/
def raiseIrq (s : State) (v : Nat) : State :=
  if bit s.glb.stat v then s
  else
    let s := { s with glb := { s.glb with stat := s.glb.stat ||| BitVec.ofNat 41 (2 ^ v) } }
    if bit s.glb.mask v then s else signalVector s v

/-- A stop of a running domain (R442). -/
def countStop (s : State) : State := { s with clk := { s.clk with stops := bump s.clk.stops } }

/-! ### Fault records -/

/-- CLASS of R484. -/
def FltClass.num : FltClass → Nat
  | .info => 0 | .refusal => 1 | .step => 2 | .request => 3 | .tier => 4 | .region => 5 | .link => 6 | .device => 7
  | .host => 8
/-- ORIGIN of R483. -/
def Origin.num : Origin → Nat
  | .core => 0 | .router => 1 | .region => 2 | .edge => 3 | .firn => 4 | .miller => 5 | .host => 6

/-- The number a VALID field holds, with its VALID bit at `v`. -/
def validAt (v : Nat) : Option Nat → Nat
  | none => 0
  | some n => n + 2 ^ v

/-- The 64 bytes of a record (R483). -/
def recBytes (r : Rec) : List Byte :=
  leBytes 8 r.time
    ++ [BitVec.ofNat 8 (r.raw.getD r.code.num), BitVec.ofNat 8 r.cls.num, BitVec.ofNat 8 r.origin.num,
        BitVec.ofNat 8 (r.unit % 16 + 16 * (r.op % 16)), BitVec.ofNat 8 (validAt 7 r.region),
        BitVec.ofNat 8 (validAt 7 r.row + at_ 6 (bnat r.phys)), BitVec.ofNat 8 (validAt 7 r.col), BitVec.ofNat 8 r.edgeid]
    ++ leBytes 2 (validAt 15 r.pc) ++ leBytes 2 (validAt 15 r.mill) ++ leBytes 2 (validAt 15 r.req)
    ++ [BitVec.ofNat 8 (bnat r.merged + 2 * bnat r.ovr + 4 * (r.aform % 4) + 16 * (r.tier % 8)), 0]
    ++ leBytes 8 r.addr ++ leBytes 8 r.syndrome ++ leBytes 8 r.cycle ++ leBytes 8 r.seq ++ leBytes 8 0

/-- Writes a record to the ring of region `g` (R488): its number among the records of that ring, and the state. -/
def pushRegion (s : State) (g : Nat) (r : Rec) : Nat × State :=
  ((regionOf s g).log.total, updRegion s g fun x =>
    { x with log := { ring := Tbl.set {} x.log.ring x.log.next r, next := (x.log.next + 1) % 256, total := x.log.total + 1 } })

/-- Changes record number `n` of the ring of region `g`, unless a later one has overwritten it. -/
def updRing (s : State) (g n : Nat) (f : Rec → Rec) : State :=
  updRegion s g fun x =>
    if x.log.total ≤ n + 256 then { x with log := { x.log with ring := Tbl.upd {} x.log.ring (n % 256) f } } else x

/-- Copies a record to the global ring (R487, R489): SEQ, the count of unread records, an overrun, cause bit 1. -/
def enterGlobal (s : State) (r : Rec) (copy : Option (Nat × Nat)) : State :=
  let f := s.flt
  let full := decide (f.unread = 4096)
  let r := { r with seq := f.total + 1, ovr := full }
  let s := { s with flt := { f with
    ring := Tbl.set {} f.ring f.next r
    next := (f.next + 1) % 4096
    total := f.total + 1
    unread := if full then 4096 else f.unread + 1
    tail := if full then (f.tail + 1) % 4096 else f.tail
    overrun := if full then bumpW 32 f.overrun else f.overrun } }
  let s := match copy with
    | none => s
    | some (g, n) => updRing s g n fun o => { o with seq := r.seq, merged := r.merged, syndrome := r.syndrome }
  raiseIrq s 1

/-- Writes a fault record: to the region's ring first where it names a region, then to the global ring (R487). -/
def logRec (s : State) (r : Rec) : State :=
  let r := { r with time := s.glb.time }
  match r.region with
  | none => enterGlobal s r none
  | some g => let (i, s) := pushRegion s g r; enterGlobal s r (some (g, i))

/-- Firn's records wait in Firn while the Miller is not running, 64 at most: further ones are dropped (R470, R514; log entry 57). -/
def logFirn (s : State) (r : Rec) : State :=
  if s.glb.fw then logRec s r
  else if s.frn.kept.length < 64 then { s with frn := { s.frn with kept := s.frn.kept ++ [{ r with time := s.glb.time }] } }
  else s

/-- Writes a record that absorbs later ones with the same key while its window is open (R164, R378): the count of those it
stands for is in bits [31:16] of its syndrome. -/
def logMerging (s : State) (r : Rec) (key : Nat × Nat × Nat) : State :=
  let r := { r with time := s.glb.time }
  match s.flt.merging.find? fun m => m.key == key with
  | some m =>
    let n := min (m.count + 1) 0xFFFF
    let r' := { m.record with merged := true, syndrome := m.record.syndrome % 2 ^ 16 + at_ 16 n }
    let s := { s with flt := { s.flt with merging := s.flt.merging.map fun x =>
      if x.key == key then { m with record := r', count := n } else x } }
    match m.regIdx with
    | none => s
    | some (g, n) => updRing s g n fun _ => r'
  | none =>
    let r := { r with syndrome := r.syndrome + at_ 16 1 }
    let (idx, s) := match r.region with
      | none => (none, s)
      | some g => let (i, s) := pushRegion s g r; (some (g, i), s)
    { s with flt := { s.flt with
      merging := s.flt.merging ++ [{ record := r, key := key, count := 1, regIdx := idx, number := s.flt.mergeCount }]
      mergeCount := s.flt.mergeCount + 1 } }

/-- A host access that failed or was discarded (R39, R426, R499): CLASS HOST with the BAR0 offset. -/
def logHost (s : State) (code : Code) (addr : Nat) (mill : Option Nat) : State :=
  logRec s { code := code, cls := .host, origin := .host, mill := mill, aform := 2, addr := addr }

/-! ### Image sections (R245, R247-R249) -/

/-- A section of an image: its type, its body and the offset of its header. -/
structure Sect where
  type : Nat
  body : List Byte
  off : Nat
deriving DecidableEq, Repr

/-- The sections from `off` on, at most `n`. -/
def sectionsFrom (img : List Byte) : Nat → Nat → List Sect
  | 0, _ => []
  | n + 1, off =>
    if off + 16 ≤ img.length then
      let len := num img (off + 8) 8
      { type := num img off 2, body := slice img (off + 16) len, off := off } ::
        sectionsFrom img n (off + 16 + roundUp len 16)
    else []

/-- The sections of an image (NSECT of them). -/
def sectionsOf (img : List Byte) : List Sect := sectionsFrom img (min (num img 12 4) 13) 256

/-- The body of the section of a type, empty when there is none. -/
def sectBody (img : List Byte) (t : Nat) : List Byte :=
  match (sectionsOf img).find? fun x => x.type == t with
  | some x => x.body
  | none => []

/-- `n` records of `size` bytes of a body from `off` on. -/
def recordsAt (body : List Byte) (off size n : Nat) : List (List Byte) :=
  (List.range n).map fun i => slice body (off + i * size) size

/-- COUNT0 and COUNT1 of a body. -/
def count0 (body : List Byte) : Nat := num body 0 4
/-- COUNT1 of a body. -/
def count1 (body : List Byte) : Nat := num body 4 4

/-- The records of the COUNT0 kind. -/
def records (body : List Byte) (size : Nat) : List (List Byte) := recordsAt body 16 size (count0 body)

/-- A serving-mill record (R260). -/
structure ServeRec where
  mill : Nat
  role : Nat
  unit : Nat
  maxbatch : Nat
  draftMill : Nat
  entries : Nat × Nat × Nat
  ltwin : Nat
deriving DecidableEq, Repr

/-- A class record (R260). -/
structure ClassRec where
  cls : Nat
  prio : Nat
  onfull : Nat
  onend : Nat
  parkmode : Nat
  draft : Nat
  draftlen : Nat
  maxlen : Nat
  ttl : Nat
  parkthresh : Nat
  ewmaMin : Nat
  holdN : Nat
  holdM : Nat
  serveMill : Nat
deriving DecidableEq, Repr

/-- Reads a serving-mill record. -/
def serveRec (b : List Byte) : ServeRec :=
  { mill := num b 0 2, role := num b 2 1, unit := num b 3 1, maxbatch := num b 4 2, draftMill := num b 6 2,
    entries := (num b 8 2, num b 10 2, num b 12 2), ltwin := num b 14 1 }

/-- Reads a class record. -/
def classRec (b : List Byte) : ClassRec :=
  { cls := num b 0 1, prio := num b 1 1, onfull := num b 2 1, onend := num b 3 1, parkmode := num b 4 1,
    draft := num b 5 1, draftlen := num b 6 1, maxlen := num b 8 4, ttl := num b 12 4, parkthresh := num b 16 4,
    ewmaMin := num b 20 2, holdN := num b 22 1, holdM := num b 23 1, serveMill := num b 24 2 }

/-- The serving mills of an image. -/
def serveRecs (img : List Byte) : List ServeRec := (records (sectBody img 0xA) 32).map serveRec
/-- The classes of an image. -/
def classRecs (img : List Byte) : List ClassRec :=
  let b := sectBody img 0xA
  (recordsAt b (16 + 32 * count0 b) 32 (count1 b)).map classRec

/-- The serving-mill record that binds mill `m`, of a slot STAGED or LOADED. -/
def serveOf (s : State) (m : Nat) : Option ServeRec :=
  let k := millOf s m
  if k.st = .unused then none else (serveRecs (slotOf s k.cfg.slot).image).find? fun r => r.mill == m

/-- The class of a request. -/
def classOf (s : State) (img cls : Nat) : Option ClassRec := (classRecs (slotOf s img).image).find? fun r => r.cls == cls

/-! ### Mill trees (R33-R38) -/

/-- Is the mill a leaf that holds core `c`? -/
def holdsCore (k : MillCfg) (c : Nat) : Bool :=
  let x := c % 16
  let y := c / 16 % 16
  !k.compound && decide (k.region = c / 256) && decide (k.x0 ≤ x) && decide (x < k.x0 + k.w) && decide (k.y0 ≤ y)
    && decide (y < k.y0 + k.h)

/-- The leaf mill of core `c`. -/
def leafOf (s : State) (c : Nat) : Option Nat :=
  (s.mills.find? fun p => p.2.st ≠ .unused && holdsCore p.2.cfg c).map (·.1)

/-- A mill and its ancestors, at most `n`. -/
def chainOf (s : State) : Nat → Nat → List Nat
  | 0, _ => []
  | n + 1, m => let p := (millOf s m).cfg.parent; if p = m then [m] else m :: chainOf s n p

/-- The mill and its ancestors. -/
def chain (s : State) (m : Nat) : List Nat := chainOf s (s.mills.length + 1) m

/-- Does mill `k` equal mill `m` or lie beneath it? -/
def beneath (s : State) (m k : Nat) : Bool := (chain s k).contains m

/-- The step owner among a mill and its ancestors (R35). -/
def ownerUp (s : State) (m : Nat) : Option Nat := (chain s m).find? fun k => (millOf s k).cfg.owner

/-- The step owner of core `c`. -/
def ownerOf (s : State) (c : Nat) : Option Nat := (leafOf s c).bind (ownerUp s)

/-- The mills in use beneath mill `m`, itself included. -/
def descendants (s : State) (m : Nat) : List Nat :=
  (s.mills.filter fun p => p.2.st ≠ .unused && beneath s m p.1).map (·.1)

/-- The cores of a leaf mill's rectangle, ascending. -/
def rectCores (k : MillCfg) : List Nat :=
  if k.compound then []
  else (List.range k.h).flatMap fun j => (List.range k.w).map fun i => k.region * 256 + (k.y0 + j) * 16 + k.x0 + i

/-- The cores under mill `m`, ascending. -/
def coresOf (s : State) (m : Nat) : List Nat :=
  sortNat ((descendants s m).flatMap fun k => rectCores (millOf s k).cfg)

/-- The regions of the cores under mill `m`, ascending. -/
def regionsOf (s : State) (m : Nat) : List Nat :=
  sortNat (((descendants s m).filter fun k => !(millOf s k).cfg.compound).map fun k => (millOf s k).cfg.region)

/-- The step owners of the device. -/
def owners (s : State) : List Nat := (s.mills.filter fun p => p.2.st ≠ .unused && p.2.cfg.owner).map (·.1)

/-- The step owners with a member core in region `r`. -/
def ownersIn (s : State) (r : Nat) : List Nat := (owners s).filter fun m => (regionsOf s m).contains r

/-- The anchors of a mill, ascending (R287). -/
def anchorsOf (s : State) (m : Nat) : List Nat :=
  (regionsOf s m).filterMap fun r => (coresOf s m).find? fun c => c / 256 == r

/-- Rank of a STATE of R38. -/
def MillSt.rank : MillSt → Nat
  | .failed => 6 | .halted => 5 | .fenced => 4 | .restart => 3 | .running => 2 | .idle => 1 | .unused => 0
/-- Code of a STATE of R37. -/
def MillSt.num : MillSt → Nat
  | .unused => 0 | .idle => 1 | .running => 2 | .restart => 3 | .fenced => 4 | .halted => 5 | .failed => 6

/-- The STATE a mill reports: its own for a step owner, the highest-ranked of its members above one (R38). A mill beneath a step owner,
of which no rule speaks, shows its owner's: DESIGN CHOICE (log entry 82). -/
def millState (s : State) (m : Nat) : MillSt :=
  match ownerUp s m with
  | some o => (millOf s o).st
  | none => (descendants s m).foldl (fun best k =>
      let t := (millOf s k).st
      if (millOf s k).cfg.owner && best.rank < t.rank then t else best) (millOf s m).st

/-! ### Shapes, grade and the reported state -/

/-- GLB_ID.GRADE (R4). -/
def grade (s : State) : Nat :=
  let shapes := (List.range 64).map fun r => (regionOf s r).org.shape
  let short := shapes.countP fun x => x = .short
  if shapes.any fun x => x = .lost ∨ x = .unknown then 3
  else if short = 0 then 0 else if short ≤ 16 then 1 else if short ≤ 48 then 2 else 3

/-- Does logical core `c` exist in the present shape of its region (R23, R26)? -/
def coreExists (s : State) (c : Nat) : Bool :=
  match (regionOf s (c / 256)).org.shape with
  | .full => true
  | .short => decide (c / 16 % 16 < 15)
  | .lost | .unknown => false

/-- Physical row `p` of a region (R27). -/
def rowOf (x : RegShape) (p : Nat) : Row := Tbl.get {} x.rows p
/-- Changes physical row `p` of region `g`. -/
def updRow (s : State) (g p : Nat) (f : Row → Row) : State :=
  updRegion s g fun x => { x with org := { x.org with rows := Tbl.upd {} x.org.rows p f } }

/-- The physical row that serves logical row `y` (R23). -/
def physRow (x : RegShape) (y : Nat) : Nat := if x.shape = .short ∧ x.dropRow ≤ y then y + 1 else y
/-- The logical row that physical row `p` serves; none for a dropped row. -/
def logRow (x : RegShape) (p : Nat) : Option Nat :=
  match x.shape with
  | .full => some p
  | .short => if p = x.dropRow then none else some (if x.dropRow < p then p - 1 else p)
  | .lost | .unknown => none
/-- The physical column of the core that serves logical column `x` of a row (R21). -/
def physCol (r : Row) (x : Nat) : Nat := if x < r.outCol then x else x + 1
/-- The physical column of the stack that logical column `x` reads (R21). -/
def stackCol (r : Row) (x : Nat) : Nat := if x < r.outCol then x else if r.stackDead then x + 1 else x

/-- Codes of R7. -/
def DevState.num : DevState → Nat
  | .off => 0 | .standby => 1 | .boot => 2 | .ready => 3 | .loaded => 4 | .running => 5 | .degraded => 6 | .parked => 7
  | .fault => 8

/-- One of READY, LOADED, RUNNING, DEGRADED. -/
def isUp (s : State) : Bool :=
  match s.glb.st with
  | .ready | .loaded | .running | .degraded => true
  | _ => false

/-- Does a memory request of the host reach the device: the port is out of reset and not in D3hot (R432, R559)? -/
def hostReach (s : State) : Bool :=
  s.pins.perst && !s.glb.d3 && match s.glb.st with
    | .off | .standby | .parked => false
    | _ => true

/-- Does a host access reach the registers of Sluice port `p` (R16, R466)? -/
def sluOpen (s : State) (p : Nat) : Bool := hostReach s && bit s.clk.gate p
/-- Of Snowpack controller `k`? -/
def snwOpen (s : State) (k : Nat) : Bool := hostReach s && bit s.clk.gate (24 + k)
/-- Of Tailrace link `l`, whose registers lie in its controller's domain (R395)? -/
def tlrOpen (s : State) (l : Nat) : Bool := snwOpen s (l / 2) && bit s.clk.gate (16 + l)
/-- Of Millpond unit `u`? -/
def mpdOpen (s : State) (u : Nat) : Bool := hostReach s && bit s.clk.gate (28 + u)
/-- Of the Hopper? -/
def hopOpen (s : State) : Bool := hostReach s && bit s.clk.gate 32
/-- Of the Seal? -/
def secOpen (s : State) : Bool := hostReach s && bit s.clk.gate 33

/-- Raises the Seal's counter at offset 0x100 + 8 i (R550). -/
def secCount (s : State) (i : Nat) : State := { s with sec := { s.sec with cnt := Tbl.upd 0 s.sec.cnt i bump } }

/-- Puts the device into a state; a change raises cause 6 (R429). Leaving READY discards the retention entries (R476). -/
def setDevState (s : State) (t : DevState) : State :=
  if s.glb.st = t then s
  else
    let s := if s.glb.st = .ready then { s with hop := { s.hop with retain := [] } } else s
    raiseIrq { s with glb := { s.glb with st := t, readies := if t = .ready then s.glb.readies + 1 else s.glb.readies } } 6

/-- Is an image in slot state LOADED (R266)? -/
def anyLoaded (s : State) : Bool := s.hop.slots.any fun p => p.2.st = .loaded

/-- The state that READY, LOADED, RUNNING and DEGRADED resolve to (R7, R514). A mill whose step is in progress but HALTED or in RESTART
counts as running one (DESIGN CHOICE, log entry 103). -/
def upState (s : State) : DevState :=
  if !anyLoaded s then .ready
  else if (List.range 64).any (fun r => (regionOf s r).org.fenced || (regionOf s r).org.shape = .lost)
      || Config.factoryGrade.val < grade s then .degraded
  else if s.mills.any fun p => p.2.inStep then .running else .loaded

/-- Brings the reported state up to date. -/
def refresh (s : State) : State := if isUp s then setDevState s (upState s) else s

/-- A record of ORIGIN CORE that names core `c` (R485). -/
def coreRec (s : State) (c : Nat) : Rec :=
  { origin := .core, region := some (c / 256), row := some (c / 16 % 16), col := some (c % 16), mill := ownerOf s c,
    cycle := (coreOf s c).scc.cycles }

/-- Adds an entry to the Moraine map (R517): an event that recurs counts up; when the map is full a new entry takes the
place of the oldest event; when there is none, a new defect is only reported. -/
def addMoraine (s : State) (e : MEntry) : State :=
  let e := { e with boot := s.bootno }
  let isEvent := fun (x : MEntry) => x.kind == 8 || x.kind == 9
  let same := fun (x : MEntry) => x.kind == e.kind && x.region == e.region && x.row == e.row && x.col == e.col
    && (isEvent e || x.sub == e.sub && x.detail == e.detail)
  if s.moraine.any same then
    if isEvent e then { s with moraine := s.moraine.map fun x => if same x then { x with detail := x.detail + 1 } else x }
    else s
  else if s.moraine.length < 16384 then { s with moraine := s.moraine ++ [e] }
  else
    let oldest := (s.moraine.filter isEvent).foldl (fun (b : Option MEntry) x =>
      match b with
      | none => some x
      | some y => if x.boot < y.boot then some x else some y) none
    match oldest with
    | some o => { s with moraine := s.moraine.map fun x => if x == o then e else x }
    | none => if isEvent e then s
      else if e.kind = 10 then logRec s { cls := .info, origin := .miller, aform := 3, addr := e.region }
      else logRec s { cls := .info, origin := .miller, phys := true, region := some e.region, row := some e.row, col := some e.col }

end Sys2Proof.Machine
end

