-- ==== Sys2Proof/Machine/Seal.lean ====
section
/-!
DEFINITION. The cryptography that the manual names (00 headline figures, 14): SHAKE256 and KMAC256 over Keccak, and Ed448
signatures. PRESUMED from FIPS 202, NIST SP 800-185 and RFC 8032, which the manual names and does not repeat (log entry 10).
-/
namespace Sys2Proof.Machine

/-! ### Keccak -/

/-- A 64-bit lane turned left by `n` places. -/
def rotl (x n : Nat) : Nat := (x <<< n ||| x >>> (64 - n)) % 2 ^ 64

/-- The rotation of lane x + 5 y. -/
def rhoOff : List Nat :=
  [0, 1, 62, 28, 27, 36, 44, 6, 55, 20, 3, 10, 43, 25, 39, 41, 45, 15, 21, 8, 18, 2, 61, 56, 14]

/-- The round constants. -/
def roundConst : List Nat :=
  [0x0000000000000001, 0x0000000000008082, 0x800000000000808A, 0x8000000080008000, 0x000000000000808B,
   0x0000000080000001, 0x8000000080008081, 0x8000000000008009, 0x000000000000008A, 0x0000000000000088,
   0x0000000080008009, 0x000000008000000A] ++
  [0x000000008000808B, 0x800000000000008B, 0x8000000000008089, 0x8000000000008003, 0x8000000000008002,
   0x8000000000000080, 0x000000000000800A, 0x800000008000000A, 0x8000000080008081, 0x8000000000008080,
   0x0000000080000001, 0x8000000080008008]

/-- One round on 25 lanes. -/
def keccakRound (a : List Nat) (rc : Nat) : List Nat :=
  let at5 := fun (l : List Nat) (i : Nat) => l.getD i 0
  let col := (List.range 5).map fun x =>
    at5 a x ^^^ at5 a (x + 5) ^^^ at5 a (x + 10) ^^^ at5 a (x + 15) ^^^ at5 a (x + 20)
  let mix := (List.range 5).map fun x => at5 col ((x + 4) % 5) ^^^ rotl (at5 col ((x + 1) % 5)) 1
  let t := (List.range 25).map fun i => rotl (at5 a i ^^^ at5 mix (i % 5)) (at5 rhoOff i)
  -- lane (X, Y) of the turned state comes from (x, y) with X = y and Y = 2 x + 3 y
  let b := (List.range 25).map fun i => let y := i % 5; let x := (3 * (i / 5) + y) % 5; at5 t (x + 5 * y)
  let e := (List.range 25).map fun i =>
    let y := i / 5
    at5 b i ^^^ ((at5 b (5 * y + (i + 1) % 5 % 5) ^^^ (2 ^ 64 - 1)) &&& at5 b (5 * y + (i % 5 + 2) % 5))
  match e with
  | [] => []
  | h :: rest => (h ^^^ rc) :: rest

/-- The permutation. -/
def keccak (a : List Nat) : List Nat := roundConst.foldl keccakRound a

/-- The 17 lanes of a block of 136 bytes. -/
def blockLanes (bs : List Byte) : List Nat := (List.range 17).map fun i => num bs (8 * i) 8

/-- The sponge of rate 136 over whole blocks. -/
def absorb : Nat → List Nat → List Byte → List Nat
  | 0, a, _ => a
  | n + 1, a, bs =>
    let l := blockLanes (bs.take 136)
    absorb n (keccak ((List.range 25).map fun i => a.getD i 0 ^^^ l.getD i 0)) (bs.drop 136)

/-- Output blocks. -/
def squeeze : Nat → List Nat → List Byte
  | 0, _ => []
  | n + 1, a => (((List.range 17).map fun i => leBytes 8 (a.getD i 0)).flatten) ++ squeeze n (keccak a)

/-- The padded message: the suffix byte, zeros, and the last bit. -/
def spongePad (suffix : Nat) (m : List Byte) : List Byte :=
  let n := 136 - m.length % 136
  if n = 1 then m ++ [BitVec.ofNat 8 (suffix + 128)]
  else m ++ [BitVec.ofNat 8 suffix] ++ List.replicate (n - 2) 0 ++ [128]

/-- Keccak of rate 136 with `n` bytes of output. -/
def sponge (suffix : Nat) (m : List Byte) (n : Nat) : List Byte :=
  let p := spongePad suffix m
  (squeeze (ceilDiv n 136) (absorb (p.length / 136) (List.replicate 25 0) p)).take n

/-- SHAKE256, `n` bytes of output. -/
def shake256 (m : List Byte) (n : Nat) : List Byte := sponge 0x1F m n

/-- The big-endian bytes of a length, shortest form. -/
def beShort (n : Nat) : List Byte :=
  let k := max 1 (ceilDiv (Nat.log2 n + 1) 8)
  (leBytes k n).reverse

/-- left_encode and right_encode of SP 800-185. -/
def leftEncode (n : Nat) : List Byte := BitVec.ofNat 8 (beShort n).length :: beShort n
/-- right_encode of SP 800-185. -/
def rightEncode (n : Nat) : List Byte := beShort n ++ [BitVec.ofNat 8 (beShort n).length]
/-- encode_string of SP 800-185. -/
def encodeString (bs : List Byte) : List Byte := leftEncode (8 * bs.length) ++ bs
/-- bytepad of SP 800-185. -/
def bytepad (bs : List Byte) : List Byte := padTo 136 (leftEncode 136 ++ bs)

/-- The bytes of an ASCII string. -/
def ascii (t : String) : List Byte := t.toList.map fun c => BitVec.ofNat 8 c.toNat

/-- KMAC256 with `n` bytes of output (R361, R362). -/
def kmac256 (key x : List Byte) (n : Nat) (custom : String) : List Byte :=
  sponge 0x04
    (bytepad (encodeString (ascii "KMAC") ++ encodeString (ascii custom)) ++ bytepad (encodeString key) ++ x
      ++ rightEncode (8 * n)) n

/-! ### Ed448 -/

/-- The field prime. -/
def edP : Nat := 2 ^ 448 - 2 ^ 224 - 1
/-- The curve constant d = -39081. -/
def edD : Nat := edP - 39081
/-- The order of the base point. -/
def edL : Nat := 2 ^ 446 - 13818066809895115352007386748515426880336692474882178609894547503885
/-- The base point's coordinates. -/
def edBx : Nat :=
  224580040295924300187604334099896036246789641632564134246125461686950415467406032909029192869357953282578032075146446173674602635247710
/-- The base point's second coordinate. -/
def edBy : Nat :=
  298819210078481492676017930443930673437544040154080242095928241372331506189835876003536878655418784733982303233503462500531545062832660

/-- `b ^ e` modulo the prime, over the `w` bits of e. -/
def powP (b e w : Nat) : Nat :=
  ((List.range w).foldl (fun (acc, sq) i => (if e.testBit i then acc * sq % edP else acc, sq * sq % edP)) (1, b % edP)).1

/-- The inverse modulo the prime. -/
def invP (x : Nat) : Nat := powP x (edP - 2) 448

/-- A point as X, Y, Z with x = X / Z and y = Y / Z. -/
abbrev Pt := Nat × Nat × Nat

/-- The sum of two points. -/
def ptAdd (p q : Pt) : Pt :=
  let (x1, y1, z1) := p
  let (x2, y2, z2) := q
  let a := z1 * z2 % edP
  let b := a * a % edP
  let c := x1 * x2 % edP
  let d := y1 * y2 % edP
  let e := edD * (c * d % edP) % edP
  let f := (b + edP - e) % edP
  let g := (b + e) % edP
  let h := (x1 + y1) * (x2 + y2) % edP
  (a * f % edP * ((h + 2 * edP - c - d) % edP) % edP, a * g % edP * ((d + edP - c) % edP) % edP, f * g % edP)

/-- `k` times a point, over the `w` bits of k. -/
def ptMul (k w : Nat) (p : Pt) : Pt :=
  ((List.range w).foldl (fun (acc, q) i => (if k.testBit i then ptAdd acc q else acc, ptAdd q q)) ((0, 1, 1), p)).1

/-- Do two points agree? -/
def ptEq (p q : Pt) : Bool :=
  decide (p.1 * q.2.2 % edP = q.1 * p.2.2 % edP) && decide (p.2.1 * q.2.2 % edP = q.2.1 * p.2.2 % edP)

/-- The 57 bytes of a point. -/
def ptBytes (p : Pt) : List Byte :=
  let zi := invP p.2.2
  let x := p.1 * zi % edP
  let y := p.2.1 * zi % edP
  leBytes 57 (y + at_ 455 (x % 2))

/-- The point that 57 bytes spell, if they spell one. -/
def ptOf (bs : List Byte) : Option Pt :=
  let n := leNat bs
  let sign := n / 2 ^ 455 % 2
  let y := n % 2 ^ 455
  if bs.length ≠ 57 ∨ edP ≤ y then none
  else
    let y2 := y * y % edP
    let u := (y2 + edP - 1) % edP
    let v := (edD * y2 + edP - 1) % edP
    let t := u * u % edP * u % edP * v % edP
    let w := t * u % edP * u % edP * v % edP * v % edP
    let x := t * powP w ((edP - 3) / 4) 448 % edP
    if v * (x * x % edP) % edP ≠ u then none
    else if x = 0 ∧ sign = 1 then none
    else some (if x % 2 = sign then x else edP - x, y, 1)

/-- dom4 with flag 0 and the context. -/
def dom4 (ctx : String) : List Byte := ascii "SigEd448" ++ [0, BitVec.ofNat 8 (ascii ctx).length] ++ ascii ctx

/-- The scalar and the hash half of a private key of 57 bytes. -/
def edExpand (key : List Byte) : Nat × List Byte :=
  let h := shake256 key 114
  let s := num h 0 56
  (s / 4 * 4 % 2 ^ 447 + 2 ^ 447, h.drop 57)

/-- The public key of a private key. -/
def edPublic (key : List Byte) : List Byte := ptBytes (ptMul (edExpand key).1 448 (edBx, edBy, 1))

/-- The signature of a message under a context. -/
def edSign (key : List Byte) (ctx : String) (m : List Byte) : List Byte :=
  let (s, pre) := edExpand key
  let pub := edPublic key
  let r := leNat (shake256 (dom4 ctx ++ pre ++ m) 114) % edL
  let rb := ptBytes (ptMul r 446 (edBx, edBy, 1))
  let k := leNat (shake256 (dom4 ctx ++ rb ++ pub ++ m) 114) % edL
  rb ++ leBytes 57 ((r + k * s) % edL)

/-- Does a signature of 114 bytes verify under a public key and a context? -/
def edVerify (pub : List Byte) (ctx : String) (m sig : List Byte) : Bool :=
  match ptOf pub, ptOf (sig.take 57) with
  | some a, some r =>
    let s := leNat (sig.drop 57)
    let k := leNat (shake256 (dom4 ctx ++ sig.take 57 ++ pub ++ m) 114) % edL
    decide (sig.length = 114) && decide (s < edL) &&
      ptEq (ptMul (4 * s) 448 (edBx, edBy, 1)) (ptMul 4 3 (ptAdd r (ptMul k 446 a)))
  | _, _ => false

end Sys2Proof.Machine
end

