-- ==== Sys2Proof/Machine/Link.lean ====
section
/-!
DEFINITION. Sending on a GML session (10 R356-R375): headers, tags, sequence numbers, errors, the violation log, and the
TOKENS messages that carry committed tokens and completion records (08 R307, R308; 10 R369, R372).
-/
namespace Sys2Proof.Machine

/-- MAXBODY of a port (R358). -/
def maxBody (s : State) (p : Nat) : Nat := if bit (portOf s p).cfg 6 then 8192 else 1400

/-- The SACK field: bit i set when message ACK + 1 + i is held (R359). -/
def sackOf (x : Session) : Nat :=
  x.held.foldl (fun acc h => let d := (h.1 - x.rxSeq).toNat
    if 1 ≤ d ∧ d ≤ 63 then acc ||| 2 ^ (d - 1) else acc) 0

/-- The 32-byte header (R359). -/
def gmlHeader (type flags : Nat) (session seq ack : BitVec 32) (sack len : Nat) : List Byte :=
  [1, BitVec.ofNat 8 type] ++ leBytes 2 flags ++ leBytes 4 session.toNat ++ leBytes 4 seq.toNat ++ leBytes 4 ack.toNat
    ++ leBytes 8 sack ++ leBytes 4 len ++ leBytes 4 0

/-- The sender's side of the frames of a port (R356): SLU_MAC, and in UDP mode SLU_IP, UDPPORT, TTL or hop limit 64, DSCP 0 and, over IPv4,
DF; PCP and VID when VLAN = 1. -/
def senderOf (s : State) (p : Nat) (subB : Bool) : Sender :=
  let x := portOf s p
  let udp := bit x.cfg 4
  let v6 := bit x.cfg 5
  { subB := subB
    src := { family := if !udp then 0 else if v6 then 2 else 1, mac := x.mac.setWidth 48
             ip := if !udp then 0 else if v6 then x.ip1 ++ x.ip0 else BitVec.ofNat 128 (bits x.ip0 0 32)
             udp := if udp then BitVec.ofNat 16 (bits x.gml 16 16) else 0 }
    ttl := if udp then 64 else 0, dscp := 0, df := udp && !v6
    tag := if bit x.cfg 7 then some (bits x.cfg 9 3, bits x.cfg 12 12) else none }

/-- A message leaves on a session with a fresh tag (R356, R361); it carries the acknowledgement (R366). -/
def emitGml (s : State) (x : Session) (type flags : Nat) (seq : BitVec 32) (body : List Byte) : State :=
  let h := gmlHeader type flags x.id seq x.rxSeq (sackOf x) body.length
  let tag := kmac256 x.key (h ++ body) 16 "GML-D2P"
  let s := updSession s x.id fun y => { y with ackDue := none }
  secCount (portCount { s with out := s.out ++ [.gml x.port (senderOf s x.port x.subB) x.src (h ++ body ++ tag)] } x.port 1) 5

/-- A message without a session leaves untagged (R361). -/
def emitUntagged (s : State) (p : Nat) (subB : Bool) (dst : Source) (type flags : Nat) (session : BitVec 32) (body : List Byte) : State :=
  let h := gmlHeader type flags session 0 0 0 body.length
  portCount { s with out := s.out ++ [.gml p (senderOf s p subB) dst (h ++ body ++ List.replicate 16 0)] } p 1

/-- RTO of a port in ns, and its RETRY (R384). -/
def rtoOf (s : State) (p : Nat) : Nat := bits (portOf s p).tmr 0 16 * 1000
/-- RETRY of a port. -/
def retryOf (s : State) (p : Nat) : Nat := bits (portOf s p).tmr 16 4

/-- Sends a sequenced message: it takes the next SEQ, or waits while 64 are unacknowledged (R365, R367, R369). -/
def gmlSend (s : State) (n : BitVec 32) (type flags : Nat) (body : List Byte) : State :=
  match sessionOf s n with
  | none => s
  | some x =>
    let body := padTo 8 body
    if 64 ≤ x.unacked.length then
      updSession s n fun y =>
        { y with waiting := y.waiting ++ [{ seq := 0, type := type, flags := flags, body := body, sent := 0 }] }
    else
      let s := updSession s n fun y =>
        { y with txSeq := y.txSeq + 1
                 unacked := y.unacked ++ [{ seq := x.txSeq, type := type, flags := flags, body := body, sent := 1
                                            due := s.glb.time + rtoOf s x.port, retry := retryOf s x.port }]
                 closeAt := if type = 2 && flags % 2 = 0 then some s.glb.time else y.closeAt }
      emitGml s x type flags x.txSeq body

/-- An acknowledgement alone, ACK 0x03 or NAK 0x04 (R366). -/
def gmlAck (s : State) (n : BitVec 32) (nak : Bool) : State :=
  match sessionOf s n with
  | none => s
  | some x => emitGml s x (if nak then 4 else 3) 0 0 []

/-- The 24-byte body of an ERROR (R375). -/
def errorBody (code : Code) (rtype offset : Nat) (rseq : BitVec 32) (key : Nat) : List Byte :=
  [BitVec.ofNat 8 code.num, BitVec.ofNat 8 rtype] ++ leBytes 2 0 ++ leBytes 4 offset ++ leBytes 4 rseq.toNat
    ++ leBytes 4 0 ++ leBytes 8 key

/-- ERROR on a session (R375). -/
def gmlError (s : State) (n : BitVec 32) (code : Code) (rtype offset : Nat) (rseq : BitVec 32) (key : Nat) : State :=
  gmlSend s n 0x3F 0 (errorBody code rtype offset rseq key)

/-- One record of a port's violation log, and its fault record (R378); `code` is the number of the code, which a partner's ERROR may take from
those that R9 reserves. -/
def logViolation (s : State) (p : Nat) (code offset : Nat) (src : Source) (header : List Byte) : State :=
  let ip := if src.family = 0 then leBytes 6 src.mac.toNat else leBytes 16 src.ip.toNat
  let r := leBytes 8 s.glb.time ++ [BitVec.ofNat 8 code, BitVec.ofNat 8 src.family.val] ++ leBytes 2 offset
    ++ leBytes 4 0 ++ slice ip 0 16 ++ slice header 0 32
  let s := updPort s p fun x =>
    { x with vlog := Tbl.set [] x.vlog x.vnext r, vnext := (x.vnext + 1) % 16, vtotal := bumpW 32 x.vtotal }
  logMerging s { code := (Code.ofNum code).getD .protocol, cls := .refusal, origin := .edge, edgeid := 0x40 + p
                 raw := if (Code.ofNum code).isSome then none else some code } (2 ^ 20 + p, 0, code)

/-! ### Requests towards their partner -/

/-- DONE, EXPIRED, CANCELLED, FAILED. -/
def ReqSt.terminal : ReqSt → Bool
  | .done | .expired | .cancelled | .failed => true
  | _ => false

/-- Codes of R283. -/
def ReqSt.num : ReqSt → Nat
  | .free => 0 | .admitted => 1 | .prefill => 2 | .decode => 3 | .parked => 4 | .done => 5 | .expired => 6
  | .cancelled => 7 | .failed => 8

/-- Is the completion record of the request due: it is terminal and not about to park, or its park under ONEND is over? -/
def finalDue (r : Req) : Bool :=
  r.finalSeq.isNone && (r.st.terminal && !r.endPark || decide (r.st = .parked) && r.endPark)

/-- Body of a TOKENS message with `k` tokens from OUTCUR on (R372). LASTPOS is CURLEN - 1 in 32 bits, all ones at CURLEN 0 (R308). -/
def tokensBody (s : State) (q : Nat) (r : Req) (k : Nat) (final : Bool) : List Byte :=
  let parked := decide (r.st = .parked)
  let st := if parked then (if r.code = .ok then 5 else 6) else r.st.num
  let ttl := if parked then (r.parkexp - s.glb.time) / 1000000000 else 0
  leBytes 8 r.tag.toNat ++ leBytes 2 q ++ [BitVec.ofNat 8 (bnat final), 0] ++ leBytes 4 k ++ leBytes 4 r.outcur
    ++ leBytes 4 0
    ++ (if final then [BitVec.ofNat 8 st, BitVec.ofNat 8 r.code.num, BitVec.ofNat 8 (bnat parked), 0]
          ++ leBytes 4 (r.curlen + 0xFFFFFFFF) ++ leBytes 4 ttl ++ leBytes 4 0
        else List.replicate 16 0)
    ++ ((r.tokens.drop r.outcur).take k).flatMap fun t => leBytes 4 t.toNat

/-- Committed positions from OUTCUR on whose tokens the next message can carry: up to the first position that a RESUME appended (R307). -/
def sendable (r : Req) : Nat := match r.skips with
  | (a, _) :: _ => min r.curlen a - r.outcur
  | [] => r.curlen - r.outcur

/-- OUTCUR passes the appended positions that it has reached (R307, R312). -/
def passSkip (r : Req) : Req := match r.skips with
  | (a, n) :: rest => if r.outcur = a then { r with outcur := a + n, skips := rest } else r
  | [] => r

/-- Committed tokens of the request that are not sent (R369). -/
def unsent (r : Req) : Nat := r.curlen - r.outcur - r.skips.foldl (fun t p => t + (min r.curlen (p.1 + p.2) - min r.curlen p.1)) 0

/-- Sends the committed tokens of request `q` that are not sent yet, and its completion record when it is due, as far as
the window of its session allows (R307, R308, R369); at most `n` messages. -/
def flushReq : Nat → State → Nat → State
  | 0, s, _ => s
  | n + 1, s, q =>
    let s := if (reqOf s q).skips.isEmpty then s else updReq s q passSkip
    let r := reqOf s q
    match sessionOf s r.session with
    | none => s
    | some x =>
      if 64 ≤ x.unacked.length then s
      else
        let left := sendable r
        let k := min left ((maxBody s x.port - 40) / 4)
        let final := decide (k = left) && r.skips.isEmpty && finalDue r
        if k = 0 && !final then s
        else
          let s := gmlSend s r.session 0x11 0 (tokensBody s q r k final)
          let s := updReq s q fun y =>
            { y with outcur := y.outcur + k, finalSeq := if final then some x.txSeq else y.finalSeq }
          flushReq n s q

/-- Sends what request `q` owes its partner. -/
def flush (s : State) (q : Nat) : State := flushReq 24 s q

end Sys2Proof.Machine
end

