-- ==== Sys2Proof/Machine/Requests.lean ====
section
/-!
DEFINITION. What several commands do with requests of the Millpond (08, 09): pools and page references, the prefix table in
the anchors' stacks (R292), and the ways in which a request ends (R284, R301, R345).
-/
namespace Sys2Proof.Machine

/-- The Millpond unit that owns request `q` (R280). -/
def unitOfReq (q : Nat) : Nat := q / 8192

/-- The request IDs bound to serving mill `m`. -/
def reqsOf (s : State) (m : Nat) : List Nat :=
  (s.pond.reqs.filter fun p => p.2.st ≠ .free && p.2.mill == m).map (·.1)

/-- The draft mill of a serving mill, when it has one (R260). -/
def draftMillOf (s : State) (m : Nat) : Option Nat :=
  match serveOf s m with
  | some r => if r.draftMill = m then none else some r.draftMill
  | none => none

/-- Pages neither in use nor reserved. -/
def freePages (p : Pool) : Nat := p.pages - p.used.length - p.reserved

/-- The lowest page number not in use. The manual leaves open which free page is taken (DESIGN CHOICE, log entry 33). -/
def lowestFree (p : Pool) : Nat := ((List.range p.pages).find? fun i => !p.used.contains i).getD 0

/-- Takes `n` reserved pages of mill `m`: their numbers, and the state. -/
def takePages : Nat → State → Nat → List Nat × State
  | 0, s, _ => ([], s)
  | n + 1, s, m =>
    let g := lowestFree (poolOf s m)
    let s := updPool s m fun p => { p with used := insertNat g p.used, reserved := p.reserved - 1 }
    let (gs, s) := takePages n s m
    (g :: gs, s)

/-! ### The prefix table -/

/-- A prefix entry (R292). -/
structure PfxEntry where
  hash : List Byte
  page : Nat
  parent : Nat
  refs : Nat
  valid : Bool
  lastuse : Nat
deriving DecidableEq, Repr

/-- Fabric address of entry `i` of mill `m`: bucket i div 8 on anchor b mod NA (R292). -/
def pfxAddr (s : State) (m i : Nat) : Nat :=
  let as := anchorsOf s m
  let b := i / 8
  coreAddr (as.getD (b % as.length) 0) 0 ((poolOf s m).pfxoff + b / as.length * 256 + i % 8 * 32)

/-- Does index `i` name an entry of mill `m`'s prefix area, and is the unit bound to the mill? Any other target is refused at the unit with
WINDOW, and nothing moves (R178, R287). -/
def pfxReach (s : State) (m i : Nat) : Bool := decide (i < (poolOf s m).pfxent) && (serveOf s m).isSome

/-- Lies entry `i` in a poisoned burst (R130)? -/
def pfxPoisoned (s : State) (m i : Nat) : Bool := s.poison.contains (pfxAddr s m i / 64 * 64)

/-- Reads entry `i`: EMPTY where the unit does not reach it, or where its burst cannot be read (log entry 93). -/
def readPfx (s : State) (m i : Nat) : PfxEntry :=
  if !pfxReach s m i || pfxPoisoned s m i then { hash := [], page := 0, parent := 0, refs := 0, valid := false, lastuse := 0 } else
  let bs := readBytes s (pfxAddr s m i) 32
  { hash := bs.take 12, page := num bs 12 4, parent := num bs 16 4, refs := num bs 20 2, valid := num bs 22 1 == 1,
    lastuse := num bs 24 8 }

/-- A burst that the unit's access at `a` cannot read has an INFO record of the core of the stack (R163). -/
def pfxRec (s : State) (a syn : Nat) : State :=
  logRec s { coreRec s (fld a 34 14) with code := .ecc, cls := .info, aform := 1, addr := a / 64 * 64, syndrome := syn }

/-- A poisoned burst stands in the way of the unit's access at `a`: the count of R162, and the record. -/
def pfxLost (s : State) (a : Nat) : State :=
  pfxRec (updRegion s (fld a 42 6) fun r => { r with mem := { r.mem with stkUe := bump r.mem.stkUe } }) a 3

/-- Writes entry `i`: nothing where the unit does not reach it; a poisoned burst, of which it would write a part, stays as it is (R130). -/
def writePfx (s : State) (m i : Nat) (e : PfxEntry) : State :=
  let a := pfxAddr s m i
  if !pfxReach s m i then s
  else if pfxPoisoned s m i then pfxLost s a
  else
  writeBytes (updRegion s (fld a 42 6) fun r => { r with mem := { r.mem with writeBacks := r.mem.writeBacks.filter (· ≠ a / 64 * 64) } }) a
    (slice e.hash 0 12 ++ leBytes 4 e.page ++ leBytes 4 e.parent ++ leBytes 2 e.refs ++ [BitVec.ofNat 8 (bnat e.valid), 0]
      ++ leBytes 8 e.lastuse)

/-- Changes REFS of entry `i`. -/
def pfxRefs (s : State) (m i : Nat) (f : Nat → Nat) : State :=
  let e := readPfx s m i
  writePfx s m i { e with refs := f e.refs }

/-- Evicts entry `i`: its page returns to the free pages and its parent loses a reference (R296). -/
def evictPfx (s : State) (m i : Nat) : State :=
  let e := readPfx s m i
  let s := writePfx s m i { e with valid := false, hash := [], page := 0, parent := 0, refs := 0, lastuse := 0 }
  let s := updPool s m fun p => { p with used := p.used.filter (· ≠ e.page) }
  let s := if e.parent = 0xFFFFFFFF then s else pfxRefs s m e.parent (· - 1)
  match serveOf s m with
  | some r => mpdCount s r.unit 11 1
  | none => s

/-- The VALID entry without references that was used least recently among the indices given, the lower index first. -/
def oldestUnused (s : State) (m : Nat) (is : List Nat) : Option Nat :=
  (is.foldl (fun (best : Option (Nat × Nat)) i =>
    let e := readPfx s m i
    if e.valid && e.refs == 0 then
      match best with
      | some (_, t) => if e.lastuse < t then some (i, e.lastuse) else best
      | none => some (i, e.lastuse)
    else best) none).map (·.1)

/-! ### Letting go -/

/-- Returns the draft mill's pages of request `q` (R345). -/
def dropDraft (s : State) (q : Nat) : State :=
  let r := reqOf s q
  let s := match draftMillOf s r.mill with
    | none => s
    | some d => updPool s d fun p =>
        { p with used := p.used.filter (!r.draft.pages.contains ·), reserved := p.reserved - r.draft.resv }
  updReq s q fun y => { y with draft := { y.draft with pages := [], resv := 0, ready := false, draft := {} } }

/-- Returns the page references and the reservation of request `q` (R284, R296): pages of held prefix entries stay cached. -/
def dropPages (s : State) (q : Nat) : State :=
  let r := reqOf s q
  let s := r.entries.foldl (fun s i => pfxRefs s r.mill i (· - 1)) s
  let own := r.pages.drop r.entries.length
  let s := updPool s r.mill fun p => { p with used := p.used.filter (!own.contains ·), reserved := p.reserved - r.resv }
  let s := updReq s q fun y => { y with pages := [], entries := [], shared := 0, resv := 0, pfx := none }
  dropDraft s q

/-- Frees entry `q`. -/
def freeReq (s : State) (q : Nat) : State := updReq s q fun _ => {}

/-- Request `q` enters a terminal state with a code: pages return at once, the counter of R316 rises, and the completion
record leaves; `park`: it is about to park under ONEND PARK (R284). -/
def endReq (s : State) (q : Nat) (t : ReqSt) (code : Code) (park : Bool) : State :=
  let u := unitOfReq q
  let s := if park then s else dropPages s q
  let s := updReq s q fun y =>
    { y with st := t, code := code, cancel := false, cancelAtPark := false, park := park, restore := false, lookup := false, endPark := park
             parkaddr := if park then y.parkaddr else 0, parklen := if park then y.parklen else 0
             parkPages := if park then y.parkPages else 0, summary := park && y.summary }
  let s := match t with
    | .done => mpdCount s u 3 1
    | .expired => mpdCount s u 4 1
    | .cancelled => mpdCount s u 5 1
    | .failed => raiseIrq (mpdCount s u 6 1) (8 + u)
    | _ => s
  let s := flush s q
  if (sessionOf s (reqOf s q).session).isNone && !park then freeReq s q else s

/-- A request that is about to park under ONEND PARK parks no more: its pages return and its completion record leaves. -/
def letGo (s : State) (q : Nat) : State :=
  flush (updReq (dropPages s q) q fun y =>
    { y with endPark := false, park := false, instep := false, parkaddr := 0, parklen := 0, parkPages := 0, summary := false }) q

/-- Ends the requests of serving mill `m` under R301 with a code, the parked ones too for an UNLOAD; the batch goes. -/
def endServing (s : State) (m : Nat) (code : Code) (parked : Bool) : State :=
  let s := (reqsOf s m).foldl (fun s q =>
    let r := reqOf s q
    match r.st with
    | .admitted | .prefill | .decode => endReq (updReq s q fun y => { y with instep := false }) q .failed code false
    | .parked => if parked then endReq (updReq s q fun y => { y with finalSeq := none, endPark := false }) q .failed code false else s
    | .done | .expired =>
      if parked && r.endPark then
        letGo s q
      else updReq s q fun y => { y with instep := false }
    | .free | .cancelled | .failed => s) s
  updBatch s m fun _ => {}

/-- The serving mills whose draft mill is `d`. -/
def servedBy (s : State) (d : Nat) : List Nat :=
  (s.mills.filter fun p => draftMillOf s p.1 == some d).map (·.1)

/-- A draft mill becomes FAILED, fenced or HALTED: every request using it goes on without drafting (R345). The draft that a VERIFY step of
the serving mill carries is kept for its retirement (R343). -/
def draftMillDown (s : State) (d : Nat) : State :=
  let s := (servedBy s d).foldl (fun s m => (reqsOf s m).foldl (fun s q =>
    if (classOf s (reqOf s q).img (reqOf s q).cls).any (fun k => k.draft != 0) then
      updReq s q fun y => { y with draft := { y.draft with nodraft := true, ready := false, dstep := false, proposal := false } }
    else s) s) s
  updBatch s d fun _ => {}

/-- What the Millpond does when serving mill `m` can run no step: its role decides. -/
def servingDown (s : State) (m : Nat) (code : Code) : State :=
  match serveOf s m with
  | none => s
  | some r => if r.role = 1 then draftMillDown s m else endServing s m code false

end Sys2Proof.Machine
end

