-- ==== Sys2Proof/Machine/Steps.lean ====
section
/-!
DEFINITION. What several commands do with steps (06, 13): starting and stopping the cores of a step owner, power tokens (12
R444, R445), the failure of a step and its escalation (R47, R75, R490-R492), and fences (R496-R498).
-/
namespace Sys2Proof.Machine

/-! ### Power tokens (R444, R445) -/

/-- The pool scale of a region, in sixteenths. -/
def poolScale (s : State) (r : Nat) : Nat := min s.pwr.cscale (regionOf s r).pwr.ilimScale

/-- The strictest LIMIT among the leaf mill of core `c` and its ancestors. -/
def tokenLimit (s : State) (c : Nat) : Nat :=
  match leafOf s c with
  | none => 100
  | some m => (chain s m).foldl (fun l k => min l (millOf s k).limit.toNat) 100

/-- The effective share of core `c`. -/
def effShare (s : State) (c : Nat) : Nat :=
  let sh := (coreOf s c).share
  max (sh * poolScale s (c / 256) * tokenLimit s c / 1600) (min sh 10)

/-- The effective float of region `r`. -/
def effFloat (s : State) (r : Nat) : Nat := (regionOf s r).tok.float * poolScale s r / 16

/-- Is the tag BUSY? -/
def Tag.isBusy : Tag → Bool
  | .busy _ => true
  | _ => false

/-- Tokens that running operations of a core hold: its descriptors, and one for each Flume transfer (R76, R225). -/
def heldTokens (k : Core) : Nat :=
  (k.engs.foldl (fun n p => n + match p.2.run with | some r => r.tokens | none => 0) 0) + k.flume.countP fun p => p.2.isBusy

/-- Tokens of core `c` that no running operation holds (R78). -/
def freeTokens (s : State) (c : Nat) : Nat := effShare s c + (coreOf s c).acquired - heldTokens (coreOf s c)

/-- Returns to the float every token that core `c` acquired with TOKEN.ACQ, and drops its waiting request (R230). -/
def returnTokens (s : State) (c : Nat) : State :=
  let n := (coreOf s c).acquired
  let s := updCore s c fun k => { k with acquired := 0 }
  updRegion s (c / 256) fun r =>
    { r with tok := { r.tok with granted := r.tok.granted - n, waiting := r.tok.waiting.filter fun w => w.1 ≠ c } }

/-! ### Cores of a step -/

/-- Every unit of core `c` stops: queued and running descriptors and Flume transfers are gone (R75). -/
def stopCore (s : State) (c : Nat) : State :=
  updCore s c fun k =>
    { k with engs := [], ops := [], sends := [], flume := [], arms := [], stall := 0, detail := 0
             scc := { k.scc with run := if k.scc.run = .outside then .outside else .stopped } }

/-- Every core under mill `m` stops. -/
def stopOwner (s : State) (m : Nat) : State := (coresOf s m).foldl stopCore s

/-- The step of owner `m` is given up: its cores stop, and a RESIDUE that named one of them counts for no other step (R506). -/
def giveUpStep (s : State) (m : Nat) : State :=
  (coresOf s m).foldl (fun s c => updCore s c fun k => { k with residue := false }) (stopOwner s m)

/-- Core `c` is back at its last retirement and outside a step: handles, windows and s1-s31 from the copy, events and
counters 0 (R148, R201, R498). -/
def restoreCore (s : State) (c : Nat) : State :=
  let s := returnTokens (stopCore s c) c
  updCore s c fun k =>
    { k with handles := k.copy.handles, windows := k.copy.windows, arms := [], flume := []
             scc := { pc := 0, regs := Tbl.set 0 k.copy.regs 0 (Tbl.get 0 k.scc.regs 0), run := .outside } }

/-- Core `c` begins a step: the copy is taken, and the state of R201 is set up. -/
def startCore (entry : Nat) (arg : BitVec 32) (s : State) (c : Nat) : State :=
  updCore s c fun k =>
    { k with copy := { handles := k.handles, windows := k.windows, regs := Tbl.set 0 k.scc.regs 0 0 }
             scc := { pc := entry, regs := Tbl.set 0 k.scc.regs 0 (arg.zeroExtend 64), run := .running, since := s.glb.time }
             engs := [], ops := [], sends := [], flume := [], arms := [], acquired := 0, stall := 0, detail := 0 }

/-- Have the accesses that these cores sent all been answered or failed (R492 step 2)? -/
def settled (s : State) (cs : List Nat) : Bool :=
  s.race.accesses.all fun a => match a.src with | .core c => !cs.contains c | .edge _ => true

/-! ### Fences (R496-R498) -/

/-- The step owners on which the fence of mill `k` acts (R496). -/
def fenceTargets (s : State) (k : Nat) : List Nat :=
  if (millOf s k).cfg.owner then [k]
  else (ownerUp s k).toList ++ (descendants s k).filter fun d => (millOf s d).cfg.owner

/-- Is a fence that covers step owner `m` in force: of a mill, of a region, of a row shift, of a slot that is STAGED, or of a slot that is
being unloaded (R276, R474)? -/
def covered (s : State) (m : Nat) : Bool :=
  (s.mills.any fun p => p.2.fence && (fenceTargets s p.1).contains m)
    || (regionsOf s m).any (fun r => (regionOf s r).org.fenced) || (millOf s m).shiftFence
    || decide ((slotOf s (millOf s m).cfg.slot).st = .staged)
    || decide (s.hop.op = .unload) && decide ((millOf s m).cfg.slot = s.hop.slot)

/-- The last fence of step owner `m` is lifted: DSTATE OPEN, STATE IDLE, cores as at the last retirement (R498). -/
def liftFence (s : State) (m : Nat) : State :=
  let s := (coresOf s m).foldl restoreCore s
  refresh (updMill s m fun k =>
    { k with st := .idle, dstate := .opened, inStep := false, startAt := none, tier := 0, reset2 := false, hostReset := false, ended := [] })

/-- The drain of step owner `m` is over: the step, if one is left, is discarded and its requests end; DSTATE FENCED, unless
no fence covers it any more (R497 steps 3 and 4, R498, R301). -/
def endDrain (s : State) (m : Nat) : State :=
  let s := if (millOf s m).inStep then giveUpStep s m else s
  let s := updMill s m fun k =>
    { k with st := .fenced, dstate := .fenced, inStep := false, startAt := none, tier := 0, reset2 := false, hostReset := false, ended := [] }
  let s := servingDown s m .fenced
  refresh (if covered s m then s else liftFence s m)

/-- Fences step owner `m`: a step that is RUNNING drains, anything else is discarded at once (R497, R500). -/
def fenceOwner (s : State) (m : Nat) : State :=
  let k := millOf s m
  if k.dstate ≠ .opened then s
  else if k.inStep && k.st = .running then
    refresh (updMill s m fun k => { k with st := .fenced, dstate := .draining, drainAt := s.glb.time })
  else endDrain s m

/-- Lifts step owner `m`'s fence when DSTATE is FENCED and no fence covers it. From image load until the slot is LOADED a step owner reads STATE
FENCED with DSTATE OPEN (R266, R499). -/
def tryLift (s : State) (m : Nat) : State :=
  let k := millOf s m
  if (k.dstate = .fenced || k.dstate = .opened && k.st = .fenced) && !covered s m then liftFence s m else s

/-- Have all cores of owner `m`, which drains, been stopped in their step (R75)? -/
def drainStopped (s : State) (m : Nat) : Bool :=
  let k := millOf s m
  k.dstate = .draining && k.inStep && k.startAt.isNone && (coresOf s m).all fun c => (coreOf s c).scc.run = .stopped || (coreOf s c).scc.run = .outside

/-- The cores of owner `m` stop as it drains; the drain ends once every access that they sent is answered or has failed (R497 step 3). -/
def cutDrain (s : State) (m : Nat) : State :=
  let s := stopOwner s m
  if settled s (coresOf s m) then endDrain s m else s

/-! ### Failure of a step -/

/-- Step owner `m` enters FAILED with a code: cores stop, requests end, cause 40 (R490, R301, R429). -/
def enterFailed (s : State) (m : Nat) (code : Code) : State :=
  let s := giveUpStep s m
  let others := covered (updMill s m fun k => { k with shiftFence := false }) m
  let s := updMill s m fun k =>
    { k with st := .failed, inStep := false, startAt := none, tier := 0, reset2 := false, shiftFence := false, ended := []
             dstate := if k.dstate = .draining then .fenced else if k.shiftFence && !others then .opened else k.dstate
             hostReset := false, lastCode := code, lastTime := s.glb.time }
  refresh (servingDown (raiseIrq s 40) m code)

/-- Step owner `m` enters HALTED: its cores stop at their next bundle, work left finishes; cause 40 (R232, R499, R345). -/
def enterHalted (s : State) (m : Nat) : State :=
  let s := (coresOf s m).foldl (fun s c => updCore s c fun k =>
    if k.scc.run = .running then { k with scc := { k.scc with run := .halted, since := s.glb.time - k.scc.since } } else k) s
  let s := raiseIrq (updMill s m fun k => { k with st := .halted }) 40
  match serveOf s m with
  | some r => if r.role = 1 then draftMillDown s m else s
  | none => s

/-- MIL_FAULT, LAST_CODE and its time in the step owner and in the leaf mill of the faulting core (R37, R495). -/
def markFailure (s : State) (m : Nat) (c : Option Nat) (code : Code) : State :=
  let mark := fun (s : State) (k : Nat) => updMill s k fun x =>
    { x with faults := x.faults ||| BitVec.ofNat 32 (2 ^ code.num), lastCode := code, lastTime := s.glb.time }
  let s := mark s m
  match c.bind (leafOf s) with
  | some l => if l = m then s else mark s l
  | none => s

/-- What follows a failure of a step (R490). -/
inductive After where
  | restart (tier : Nat) | failed
deriving DecidableEq, Repr

/-- The table of R490 for the `f`-th failure in a row, without the dead parts. -/
def afterFailure (retry f : Nat) (lost : Bool) : After :=
  if lost then .failed
  else if f = retry + 1 then .restart 2
  else if f ≤ 2 * retry + 1 then .restart 1
  else .failed

/-- The step of owner `m` fails: core `c`, when one is named, with record `r`; `lost`: FAILED at once; `tier4`: the failure
begins a tier 4 recovery (R36, R47, R490, R500, R506). Only the first failure of an attempt counts. -/
def failOwner (s : State) (m : Nat) (c : Option Nat) (r : Rec) (lost tier4 : Bool) : State :=
  let k := millOf s m
  let r := { r with cls := .step, mill := some m }
  if !k.inStep || (k.st ≠ .running && k.st ≠ .halted && k.dstate ≠ .draining) then logRec s r
  else
    let f := k.f + 1
    let s := markFailure s m c r.code
    let s := updMill s m fun x => { x with f := f }
    if k.dstate = .draining then cutDrain (logRec s r) m
    else
      let named : Bool := match c with
        | some n => decide (r.code = .residue) && (coreOf s n).residue && k.reset2
        | none => false
      let s := match c with
        | some n => if r.code = .residue && !k.reset2 then updCore s n fun x => { x with residue := true } else s
        | none => s
      let s := if named then match c with
        | some n => updCore s n fun x => { x with dead := true }
        | none => s else s
      let gone := lost || (regionsOf s m).any fun g => (regionOf s g).org.shape = .lost
      let next : After := if gone then .failed else if named then .restart 3 else if tier4 then .restart 4
        else afterFailure s.flt.retry.toNat f false
      match next with
      | .failed => enterFailed (logRec s r) m r.code
      | .restart t =>
        -- tier 1 has no TIER record: the STEP record begins it (R483, R484; log entry 28)
        let s := logRec s { r with tier := if t = 1 then 1 else 0 }
        let s := if 2 ≤ t then
            logRec s { cls := .tier, origin := .miller, mill := some m, tier := t } else s
        let s := stopOwner s m
        refresh (updMill s m fun x => { x with st := .restart, tier := t, startAt := none, ended := [] })

/-- The step of owner `m` starts again, 32 ns from now, at the ENTRY and ARG it had (R492 step 5). -/
def startAgain (s : State) (m : Nat) : State :=
  updMill s m fun k => { k with st := .restart, tier := 1, startAt := some (s.glb.time + 32), inStep := true, ended := [] }

/-- A unit of core `c` fails: every unit of the core stops and its step owner's step fails (R47, R75, R36). -/
def failCore (s : State) (c : Nat) (r : Rec) (tier4 : Bool) : State :=
  match ownerOf s c with
  | none => logRec (stopCore s c) { r with cls := .step }
  | some m => failOwner (stopCore s c) m (some c) r false tier4

/-- Every step owner with a member core in region `r` fails for good with a code (R28, R512). -/
def failRegion (s : State) (g : Nat) (code : Code) : State :=
  (ownersIn s g).foldl (fun s m =>
    let k := millOf s m
    if k.inStep then
      let s := markFailure s m none code
      let s := updMill s m fun x => { x with f := x.f + 1 }
      let s := logRec s { code := code, cls := .step, origin := .region, region := some g, mill := some m }
      enterFailed s m code
    else enterFailed s m code) s

/-- The image slot becomes STAGED and every mill of it is fenced (R266, R510 step 1); requests of its serving mills end. -/
def stageSlot (s : State) (n : Nat) : State :=
  let s := updSlot s n fun x => { x with st := .staged }
  let s := (owners s).foldl (fun s m => if (millOf s m).cfg.slot = n then endDrain s m else s) s
  refresh s

end Sys2Proof.Machine
end

