-- ==== Sys2Proof/Machine/Flags.lean ====
section
/-!
DEFINITION. What a core counts and signals: events and counters (06 R214, R215), slack counters and stall causes (R242, R243,
13 R502), the last error of its engines (02 R80), ECC counters of its region (04 R162), and the records of its failures.
-/
namespace Sys2Proof.Machine

/-- The slack counters in the order of R242. -/
inductive Slack where
  | run | scalar | score | queue | sendq | token | event | count | flume | fence | fin | idle | headtok | late | grace
deriving DecidableEq, Repr

/-- Place of a slack counter: (offset - 0x100) / 8. -/
def Slack.num : Slack → Nat
  | .run => 0 | .scalar => 1 | .score => 2 | .queue => 3 | .sendq => 4 | .token => 5 | .event => 6 | .count => 7
  | .flume => 8 | .fence => 9 | .fin => 10 | .idle => 11 | .headtok => 12 | .late => 13 | .grace => 14

/-- Raises a slack counter. -/
def slackUp (k : Core) (i : Slack) (n : Nat) : Core :=
  { k with cnt := { k.cnt with slack := Tbl.upd 0 k.cnt.slack i.num (bumpBy · n) } }

/-- Core `c` stalls for one core cycle: the counter of R242, and the cause and detail of R502. -/
def stallOn (s : State) (c : Nat) (i : Slack) (cause detail : Nat) : State :=
  updCore s c fun k =>
    let k := slackUp k i 1
    { k with scc := { k.scc with cycles := k.scc.cycles + 1 }, stall := cause, detail := detail }

/-- Sets event `e` (R214). -/
def setEvent (k : Core) (e : Nat) : Core :=
  { k with scc := { k.scc with evs := k.scc.evs ||| BitVec.ofNat 16 (2 ^ e) } }

/-- Increments counter `i`, which saturates (R215). -/
def incCounter (k : Core) (i : Nat) : Core :=
  { k with scc := { k.scc with cnts := Tbl.upd 0 k.scc.cnts i fun v => if v = 0xFFFFFFFF then v else v + 1 } }

/-- The event and the counter that a completion requests. -/
def signalDone (k : Core) (evEn : Bool) (ev : Nat) (cntEn : Bool) (cnt : Nat) : Core :=
  let k := if evEn then setEvent k ev else k
  if cntEn then incCounter k cnt else k

/-- What decides a failure: its code, the fabric address that its record carries, if it concerns one (R124), and its syndrome. -/
structure Fail where
  code : Code
  addr : Option Nat := none
  syn : Nat := 0
deriving DecidableEq, Repr

/-- A failure with a code alone. -/
def Fail.of (c : Code) : Fail := { code := c }

/-- A failure that concerns address `a`, where a check gave a code (R124, R164). -/
def failAt (a : Nat) (x : Option Code) : Option Fail := x.map fun c => { code := c, addr := some a }

/-- Does a fabric address lie in the weight partition of its core's stack (R127)? -/
def inWeights (s : State) (a : Nat) : Bool :=
  decide (a < 2 ^ 51) && decide (fld a 30 4 = 0) && decide (fld a 0 30 < (coreOf s (fld a 34 14)).boundary * 65536)

/-- The record of a failure in unit `u` of core `c` at bundle `pc` (R47, R124). -/
def unitRec (s : State) (c u op pc : Nat) (f : Fail) : Rec :=
  { coreRec s c with code := f.code, cls := .step, unit := u, op := op, pc := some (pc % 4096)
                     aform := bnat f.addr.isSome, addr := f.addr.getD 0, syndrome := f.syn }

/-- Does `a` lie on a stack that has been declared dead and waits for its tier 4 reload (R490, R509)? -/
def onDeadStack (s : State) (a : Nat) : Bool :=
  decide (a < 2 ^ 51) && decide (fld a 30 4 = 0) && s.hop.slots.any fun p => p.2.deadStacks.contains (fld a 34 14)

/-- Unit `u` of core `c` fails (R47, R75). A burst of a weight partition that cannot be read makes its image due for a
tier 4 reload (R510). -/
def failUnit (s : State) (c u op pc : Nat) (f : Fail) : State :=
  let bad := decide (f.code = .ecc) && f.addr.any (inWeights s)
  let b := f.addr.getD 0
  let s := if bad then match leafOf s c with
      | some m => updSlot s (millOf s m).cfg.slot fun x =>
          { x with badBursts := if x.badBursts.contains b then x.badBursts else x.badBursts ++ [b] }
      | none => s else s
  failCore s c (unitRec s c u op pc f) (bad || decide (f.code = .ecc) && f.addr.any (onDeadStack s))

/-- A descriptor of engine `e` fails: REG_ENG_LASTERR holds it (R80). -/
def failDesc (s : State) (c : Nat) (e : Eng) (d : Desc) (f : Fail) : State :=
  let op := bits d.w0 4 4
  let s := updCore s c fun k =>
    { k with cnt := { k.cnt with errCode := f.code, errEng := e.num, errOp := op, errPc := d.pc
                                 errTime := s.glb.time % 2 ^ 32 } }
  failUnit s c e.num op d.pc f

/-- A scalar instruction, or a slot 1 or slot 3 instruction of unit `u`, fails at the present bundle, which has issued (R234, R242). -/
def failInstr (s : State) (c u : Nat) (f : Fail) : State :=
  failUnit (updCore s c fun k => slackUp k .run 1) c u 0 (coreOf s c).scc.pc f

/-- Does a droop hold stop bundle issue and descriptor starts on core `c` (R451)? -/
def held (s : State) (c : Nat) : Bool := (regionOf s (c / 256)).pwr.droopHold

/-! ### Errors that memory reads meet (04 R129, R136) -/

/-- Byte ranges: fabric address and length. -/
abbrev Ranges := List (Nat × Nat)

/-- Do two ranges share a byte? -/
def touch (a : Nat × Nat) (b : Nat × Nat) : Bool := decide (max a.1 b.1 < min (a.1 + a.2) (b.1 + b.2))

/-- Does a range touch one of several? -/
def touches (rs : Ranges) (a n : Nat) : Bool := rs.any fun r => touch r (a, n)

/-- The memory field of the syndrome of an SRAM error (R486). -/
def sramMem (a : Nat) : Nat := let sp := fld a 30 4; if sp = 4 then 3 else sp

/-- Counts an ECC event of the region that holds address `a`. -/
def eccCount (s : State) (a : Nat) (f : RegMem → RegMem) : State := updRegion s (fld a 42 6) fun r => { r with mem := f r.mem }

/-- Is `t` within the last hour, 3.6 * 10^12 ns? -/
def withinHour (s : State) (t : Nat) : Bool := decide (s.glb.time ≤ t + 3600000000000)

/-- The Miller declares the stack of core `c` dead (R509): the image with a mill over the core, or over a core to the east of it in its row, whose
stack the repair moves, is due for a tier 4 reload (R510). Where there is none, the Miller repairs the row alone. -/
def stackDead (s : State) (c : Nat) : State :=
  let add := fun (cs : List Nat) => if cs.contains c then cs else cs ++ [c]
  match ((List.range 16).filter (c % 16 ≤ ·)).findSome? fun i => leafOf s (c / 16 * 16 + i) with
  | none => updRegion s (c / 256) fun x => { x with org := { x.org with deadStacks := add x.org.deadStacks } }
  | some m => updSlot s (millOf s m).cfg.slot fun x => { x with deadStacks := add x.deadStacks }

/-- An uncorrectable burst of a stack was read: the count of R162, and the count of distinct addresses of R509. -/
def noteUe (s : State) (a : Nat) : State :=
  let b := a / 64 * 64
  let c := fld a 34 14
  let s := eccCount s a fun m =>
    { m with stkUe := bump m.stkUe
             ueSeen := (m.ueSeen.filter fun p => withinHour s p.2 && p.1 ≠ b) ++ [(b, s.glb.time)] }
  let n := (regionOf s (fld a 42 6)).mem.ueSeen.countP fun p => fld p.1 34 14 == c
  if s.flt.stkue.toNat ≤ n then stackDead s c else s

/-- A poisoned burst of a stack was read: only the count of R162. -/
def notePoison (s : State) (a : Nat) : State := eccCount s a fun m => { m with stkUe := bump m.stkUe }

/-- 24 h in ns. -/
def oneDay : Nat := 86400000000000

/-- Do two bursts lie in one DRAM row of one stack? Consecutive bursts rotate over the four tiers (R127); which bursts of a tier
share a row the manual leaves open. -/
def sameRow (a b : Nat) : Bool :=
  fld a 34 14 == fld b 34 14 && fld a 6 2 == fld b 6 2 && Config.dramRow (fld a 0 30) == Config.dramRow (fld b 0 30)

/-- Is one of the 64 spare rows of its tier left for the STKROW entry `e` (R509)? -/
def spareLeft (s : State) (e : MEntry) : Bool :=
  decide ((s.moraine.countP fun y => y.kind == 6 && y.region == e.region && y.row == e.row && y.col == e.col && y.sub == e.sub) < 64)

/-- The DRAM row of the burst at `a` moves into a spare of its tier, and a STKROW entry says so; with none of the 64 spares left, as
the STKROW entries of the tier count them, an INFO record does (R509). -/
def retireRow (s : State) (a : Nat) : State :=
  let c := fld a 34 14
  let x := (regionOf s (c / 256)).org
  let p := physRow x (c / 16 % 16)
  let e : MEntry := { kind := 6, source := 1, region := c / 256, row := p, col := stackCol (rowOf x p) (c % 16), sub := fld a 6 2
                      detail := (Config.dramRow (fld a 0 30)).toNat }
  let s := eccCount s a fun m => { m with ceSeen := m.ceSeen.filter fun q => !sameRow q.1 a }
  if spareLeft s e then addMoraine s e
  else logRec s { coreRec s c with unit := 12, phys := true, row := some p, col := some e.col, aform := 1, addr := a }

/-- A burst of a stack was corrected: the count of R162, the write-back of R131, and the row spare of R509. -/
def noteCe (s : State) (a : Nat) : State :=
  let b := a / 64 * 64
  let s := eccCount s a fun m =>
    { m with stkCe := bump m.stkCe, writeBacks := m.writeBacks.filter (· ≠ b) ++ [b]
             ceSeen := (m.ceSeen.filter fun p => decide (s.glb.time ≤ p.2 + oneDay) && p.1 ≠ b) ++ [(b, s.glb.time)] }
  if 4 ≤ (regionOf s (fld a 42 6)).mem.ceSeen.countP fun p => sameRow p.1 b then retireRow s b else s

/-- Does an upset strike a burst or a word among these ranges? -/
def strikes (rs : Ranges) : Upset → Bool
  | .burstCorrected a | .burstLost a => touches rs (a / 64 * 64) 64 && decide (fld a 30 4 = 0)
  | .sramCorrected a | .sramLost a _ => touches rs (a / 8 * 8) 8 && decide (fld a 30 4 ≠ 0)
  | .dieCorrected _ | .residue .. => false

/-- The upsets that no read of these ranges has met. -/
def unmet (rs : Ranges) (ups : List Upset) : List Upset := ups.filter fun u => !strikes rs u

/-- First byte of the access among these ranges that reads the word at `a` (R124). -/
def accessAt (rs : Ranges) (a : Nat) : Nat := match rs.find? fun r => touch r (a / 8 * 8, 8) with | some r => r.1 | none => a / 8 * 8

/-- One upset, when it strikes what is read: its counter, and the failure it causes, which names the burst, or for an SRAM the first byte
of the access (R124, log entry 83). -/
def meetUpset (rs : Ranges) (s : State) (u : Upset) : State × Option Fail :=
  match u with
  | .burstCorrected a =>
    if touches rs (a / 64 * 64) 64 && decide (fld a 30 4 = 0) then
      (noteCe s a, none)
    else (s, none)
  | .burstLost a =>
    if touches rs (a / 64 * 64) 64 && decide (fld a 30 4 = 0) then
      (noteUe s a, some { code := .ecc, addr := some (a / 64 * 64), syn := 2 })
    else (s, none)
  | .sramCorrected a =>
    if touches rs (a / 8 * 8) 8 && decide (fld a 30 4 ≠ 0) then
      (eccCount s a fun m => { m with sramCe := bump m.sramCe }, none)
    else (s, none)
  | .sramLost a y =>
    if touches rs (a / 8 * 8) 8 && decide (fld a 30 4 ≠ 0) then
      (eccCount s a fun m => { m with sramUe := bump m.sramUe },
        some { code := .ecc, addr := accessAt rs a, syn := y.toNat + at_ 8 (sramMem a) })
    else (s, none)
  | .dieCorrected _ | .residue _ _ => (s, none)

/-- Runs `f` over a list; the first failure ends it. -/
def runAll {α : Type} (f : State → α → State × Option Fail) : State → List α → State × Option Fail
  | s, [] => (s, none)
  | s, x :: xs =>
    match f s x with
    | (s, some e) => (s, some e)
    | (s, none) => runAll f s xs

/-- What reading these ranges meets: the upsets, in order, then poisoned bursts (R129, R130). -/
def meetReads (s : State) (rs : Ranges) (ups : List Upset) : State × Option Fail :=
  match runAll (meetUpset rs) s ups with
  | (s, some e) => (s, some e)
  | (s, none) =>
    match s.poison.find? fun b => touches rs b 64 with
    | some b => (notePoison s b, some { code := .ecc, addr := b, syn := 3 })
    | none => (s, none)

/-- The residue mismatch among the upsets, for a unit that checks residues (R119, R120, R486). -/
def meetResidue (ups : List Upset) : Option Fail :=
  (ups.find? fun u => match u with | .residue _ _ => true | _ => false).bind fun u => match u with
    | .residue e f => some { code := .residue, syn := e.val + at_ 4 f.val }
    | _ => none

/-- The bursts of a stack, or the 8-byte words of an SRAM, that a write of this range covers in part, and so reads first (R130, R136). -/
def partsOf (r : Nat × Nat) : Ranges :=
  let g := if fld r.1 30 4 = 0 then 64 else 8
  let e := r.1 + r.2
  if r.2 = 0 then []
  else (if r.1 % g = 0 then [] else [(r.1 / g * g, g)])
    ++ if e % g = 0 || (r.1 % g ≠ 0 && r.1 / g = e / g) then [] else [(e / g * g, g)]

/-- What a write of these ranges meets in the bursts and words that it covers in part (R130, R136): the upsets, and poison. A failure in an
SRAM names the first byte of the write (R124). -/
def meetWrites (s : State) (rs : Ranges) (ups : List Upset) : State × Option Fail :=
  match meetReads s (rs.flatMap partsOf) ups with
  | (s, none) => (s, none)
  | (s, some f) =>
    let b := f.addr.getD 0
    (s, some (if fld b 30 4 = 0 then f else match rs.find? fun r => (partsOf r).any (·.1 == b) with
      | some r => { f with addr := some r.1 }
      | none => f))

/-- Writes bytes by a unit: whole bursts of a stack replace poison (R130), and a write-back that waits is abandoned (R131). -/
def storeBytes (s : State) (a : Nat) (bs : List Byte) : State :=
  let s := writeBytes s a bs
  if fld a 30 4 = 0 && decide (a < 2 ^ 51) then
    let whole := fun b => decide (a ≤ b) && decide (b + 64 ≤ a + bs.length)
    let s := { s with poison := s.poison.filter fun b => !whole b }
    updRegion s (fld a 42 6) fun r =>
      { r with mem := { r.mem with writeBacks := r.mem.writeBacks.filter fun b => !touch (b, 64) (a, bs.length) } }
  else s

end Sys2Proof.Machine
end

