-- ==== Sys2Proof/Machine/Operands.lean ====
section
/-!
DEFINITION. Operands: handles and their order on the scoreboard (04 R143-R147, 06 R216), windows (04 R149-R157), operand
references and the checks of a descriptor at its start (02 R44-R46, R577), and blocked tensors in memory (02 R48-R50, R578).
-/
namespace Sys2Proof.Machine

/-! ### Handles -/

/-- Handle `h`. -/
def handleOf (k : Core) (h : Nat) : Handle := Tbl.get {} k.handles h
/-- SPACE. -/
def Handle.space (h : Handle) : Nat := bits h.w0 0 4
/-- VALID. -/
def Handle.valid (h : Handle) : Bool := bit h.w0 4
/-- RD. -/
def Handle.rd (h : Handle) : Bool := bit h.w0 5
/-- WR. -/
def Handle.wr (h : Handle) : Bool := bit h.w0 6
/-- First byte within the space. -/
def Handle.base (h : Handle) : Nat := bits h.w0 8 26 * 16
/-- Length in bytes. -/
def Handle.len (h : Handle) : Nat := bits h.w1 0 27 * 16

/-- The part of [lo, lo + n) that lies in [a, b), moved so that `a` becomes `t`; empty when there is none. -/
def clip (lo n a b t : Nat) : Nat × Nat :=
  let l := max lo a
  let h := min (lo + n) b
  if l < h then (l - a + t, h - l) else (0, 0)

/-- Chip-shared-memory slice z of the step owner of core `c`, and its cores in ascending order (R140). -/
def csmOf (s : State) (c : Nat) : Nat × List Nat :=
  match ownerOf s c with
  | none => (0, [])
  | some m => ((millOf s m).cfg.csm, coresOf s m)

/-- Place of an element in a list. -/
def indexIn (l : List Nat) (c : Nat) : Nat := (l.takeWhile (· ≠ c)).length

/-- The ranges of the core's own memory that a range of a space reaches, as (space, start, length): a range of space 0x3
reaches through the map of R139. -/
def nativeRanges (s : State) (c sp lo n : Nat) : List (Nat × Nat × Nat) :=
  if sp ≠ 3 then [(sp, lo, n)]
  else
    let (z, cs) := csmOf s c
    let i := indexIn cs c
    let parts := [(1, clip lo n 0 0x300000 0), (2, clip lo n 0x300000 0x400000 0), (4, clip lo n 0x400000 0x440000 0),
      (0, clip lo n (0x1000000 + i * z) (0x1000000 + (i + 1) * z) (2 ^ 28 - z))]
    parts.filterMap fun p => if p.2.2 = 0 then none else some (p.1, p.2.1, p.2.2)

/-! ### Windows -/

/-- Window `w`. -/
def windowOf (k : Core) (w : Nat) : Window := Tbl.get {} k.windows w
/-- HANDLE of a window. -/
def Window.handle (w : Window) : Nat := bits w.w0 0 6
/-- Length in bytes. -/
def Window.len (w : Window) : Nat := bits w.w0 32 24 * 16
/-- SRCMILL. -/
def Window.src (w : Window) : Nat := bits w.w1 0 12
/-- DIR. -/
def Window.dir (w : Window) : Nat := bits w.w1 12 2
/-- MODE ACCUM. -/
def Window.accum (w : Window) : Bool := bit w.w1 14
/-- EPOCH. -/
def Window.epoch (w : Window) : Nat := bits w.w1 16 8

/-- Space, first byte and length of the bytes of window `w` of a core. A window without a length is window 15 over the core's
chip-shared-memory slice (R141). -/
def windowRange (k : Core) (w : Window) : Nat × Nat × Nat :=
  if w.opened && w.len = 0 then (0, 2 ^ 28 - k.csm * 65536, k.csm * 65536)
  else
  let h := handleOf k w.handle
  (h.space, h.base + bits w.w0 8 24 * 16, w.len)

/-! ### Order on the scoreboard (R146, R216, R222) -/

/-- The ranges of handle `h`; none for a handle that is not valid. -/
def handleRanges (s : State) (c h : Nat) : List (Nat × Nat × Nat) :=
  let x := handleOf (coreOf s c) h
  if x.valid then nativeRanges s c x.space x.base x.len else []
/-- The ranges of window `w`. -/
def winRanges (s : State) (c w : Nat) : List (Nat × Nat × Nat) :=
  let k := coreOf s c
  let r := windowRange k (windowOf k w)
  nativeRanges s c r.1 r.2.1 r.2.2
/-- Do two lists of ranges share a byte of the same memory? -/
def share (x y : List (Nat × Nat × Nat)) : Bool := x.any fun p => y.any fun q => p.1 == q.1 && touch p.2 q.2

/-- Do two handles of core `c` share a byte of memory (R146)? -/
def handlesOverlap (s : State) (c a b : Nat) : Bool := a == b || share (handleRanges s c a) (handleRanges s c b)

/-- Does operation `o` touch bytes among these ranges? -/
def opTouches (s : State) (c : Nat) (o : Op) (r : List (Nat × Nat × Nat)) : Bool :=
  (o.rd ++ o.wr).any (fun h => share (handleRanges s c h) r)
    || match o.win with | some w => share (winRanges s c w) r | none => false

/-- Must an operation that reads `rd`, writes `wr` and only adds into `acc` wait for operation `o` (R216, R59, R222)? -/
def mustWait (s : State) (c : Nat) (o : Op) (rd wr acc : List Nat) : Bool :=
  let hit := fun (xs ys : List Nat) => xs.any fun a => ys.any fun b =>
    !(o.acc.contains a && acc.contains b) && handlesOverlap s c a b
  hit o.wr (rd ++ wr) || hit o.rd wr
    || match o.win with | some w => (rd ++ wr).any fun h => share (handleRanges s c h) (winRanges s c w) | none => false

/-- May the operation of sequence number `n` start: does no earlier one stand in its way? -/
def mayStart (s : State) (c n : Nat) (rd wr acc : List Nat) : Bool :=
  (coreOf s c).ops.all fun o => o.released || decide (n ≤ o.seq) || !mustWait s c o rd wr acc

/-- May the RECV of sequence number `n` arm window `w`: is every earlier operation on its bytes complete (R222)? -/
def mayArm (s : State) (c n w : Nat) : Bool :=
  (coreOf s c).ops.all fun o => decide (n ≤ o.seq) || !opTouches s c o (winRanges s c w)

/-- Records an operation at issue; its sequence number is the core's next. -/
def pushOp (k : Core) (rd wr acc : List Nat) : Core :=
  { k with ops := k.ops ++ [{ seq := k.seq, rd := rd, wr := wr, acc := acc }], seq := k.seq + 1 }
/-- Records a RECV on window `w`. -/
def pushRecv (k : Core) (w : Nat) : Core :=
  { k with ops := k.ops ++ [{ seq := k.seq, rd := [], wr := [], win := some w }], seq := k.seq + 1 }

/-- Operation `n` has completed. -/
def dropOp (k : Core) (n : Nat) : Core := { k with ops := k.ops.filter fun o => o.seq ≠ n }

/-- Is every issued operation that names a handle ordered with `h` complete (R147)? -/
def handleIdle (s : State) (c h : Nat) : Bool :=
  (coreOf s c).ops.all fun o => o.released || (o.rd ++ o.wr).all (fun a => !handlesOverlap s c a h)
    && match o.win with | some w => !share (winRanges s c w) (handleRanges s c h) | none => true

/-- Is the window armed at all times: window 15 over a chip-shared-memory slice, the LTWIN of a serving mill, or the window
that a Tailrace queue names (R141, R178, R223)? -/
def alwaysArmed (s : State) (c w : Nat) : Bool :=
  match ownerOf s c with
  | none => false
  | some m =>
    (w == 15 && decide ((millOf s m).cfg.csm ≠ 0))
      || (match serveOf s m with | some r => r.ltwin == w && (anchorsOf s m).contains c | none => false)
      || s.links.any fun l => l.2.queues.any fun q =>
          q.2.en && decide (q.2.rx ≠ 0) && bits q.2.rx 52 4 == w && bits q.2.rx 34 14 == c

/-- Does the open window include remote writes? -/
def Window.writes (w : Window) : Bool := w.opened && w.dir % 2 == 1

/-- Does window `w` of core `c` hold a local write of these bytes (R155)? -/
def windowHolds (s : State) (c : Nat) (wrs : Ranges) (w : Nat) (x : Window) : Bool :=
  x.writes && !alwaysArmed s c w &&
    (let (sp, lo, n) := windowRange (coreOf s c) x
     (nativeRanges s c sp lo n).any fun q => touches wrs (coreAddr c q.1 q.2.1) q.2.2)

/-- Must a local write of these bytes wait for an open window (R155)? -/
def windowBlocks (s : State) (c : Nat) (wrs : Ranges) : Bool := (coreOf s c).windows.any fun p => windowHolds s c wrs p.1 p.2

/-! ### The check of a handle entry and of a window entry -/

/-- The checks of R144 before an entry with VALID = 1 is installed on core `c`. -/
def checkHandle (s : State) (c h : Nat) (e : Handle) : Option Code :=
  let k := coreOf s c
  -- window 15 over a slice of chip-shared memory names no handle (R141)
  let free := k.windows.all fun p => !(p.2.opened && decide (p.2.len ≠ 0) && p.2.handle == h)
  if !e.valid then firstFail [(free, .state)]
  else
    let lo := e.base
    let hi := e.base + e.len
    let z := (csmOf s c).1
    -- through space 0x3 no byte of a chip-shared slice lies below a boundary (R140)
    firstFail
      [(decide (bits e.w0 7 1 = 0) && decide (bits e.w0 34 30 = 0) && decide (bits e.w1 27 37 = 0)
          && decide (e.space ≤ 4), .format),
       (decide (bits e.w1 0 27 ≠ 0x7FFFFFF) && decide (hi ≤ spaceSize e.space)
          && (e.space ≠ 3 || decide (hi ≤ 0x440000) || decide (0x1000000 ≤ lo)), .length),
       (!e.wr || e.space ≠ 0 || decide (k.boundary * 65536 ≤ lo) || decide (e.len = 0), .window),
       (!(e.wr && e.space == 3 && decide (0x1000000 < hi) && decide (2 ^ 28 < z + k.boundary * 65536)), .window),
       (free, .state)]

/-- The checks of R150 before window `w` is opened on core `c`; `owned`: it is window 15 of R141. -/
def checkWindow (s : State) (c w : Nat) (e : Window) : Option Code :=
  let k := coreOf s c
  let h := handleOf k e.handle
  let own := match leafOf s c with
    | none => false
    | some m => let t := millOf s e.src
      decide (t.st ≠ .unused) && decide (t.cfg.slot = (millOf s m).cfg.slot)
  firstFail
    [(!(windowOf k w).opened && !(w == 15 && decide ((csmOf s c).1 ≠ 0)), .state),
     (decide (bits e.w0 6 2 = 0) && decide (bits e.w0 56 8 = 0) && decide (bits e.w1 15 1 = 0)
        && decide (bits e.w1 24 40 = 0) && decide (e.dir ≠ 0) && (!e.accum || (e.dir == 1 && h.space == 2)), .format),
     (h.valid, .format),
     (decide (bits e.w0 32 24 ≠ 0) && decide (bits e.w0 32 24 ≠ 0xFFFFFF)
        && decide (bits e.w0 8 24 * 16 + e.len ≤ h.len), .length),
     ((e.dir % 2 == 0 || h.wr) && (e.dir / 2 == 0 || h.rd), .window),
     (own, .window)]

/-! ### Operand references -/

/-- First byte and end of the slice of a unit in space 0x4 (R51); units as the UNIT field of R483 numbers them. -/
def sliceRange (u : Nat) : Nat × Nat :=
  [(0, 0), (0, 0x20000), (0x20000, 0x24000), (0x24000, 0x2C000), (0x2C000, 0x30000), (0x30000, 0x34000),
   (0x34000, 0x38000), (0x38000, 0x3A000), (0x3A000, 0x3C000), (0x3C000, 0x40000)].getD u (0, 0)

/-- The unit in whose slice an offset of space 0x4 lies. -/
def sliceAt (off : Nat) : Nat :=
  ((List.range 10).find? fun u => decide ((sliceRange u).1 ≤ off) && decide (off < (sliceRange u).2)).getD 0

/-- Handle of an ORF. -/
def orfHandle (o : Nat) : Nat := o % 64
/-- Offset of an ORF in bytes. -/
def orfOffset (o : Nat) : Nat := o / 256 * 16
/-- Are the reserved bits of an ORF 0? -/
def orfOk (o : Nat) : Bool := decide (fld o 6 2 = 0)

/-- The low and the high half of a word. -/
def lo32 (w : Word) : Nat := bits w 0 32
/-- The high half of a word. -/
def hi32 (w : Word) : Nat := bits w 32 32

/-- Where an operand lies: its space, its offset in the space, its fabric address, the bytes left in its handle. -/
structure Place where
  space : Nat
  off : Nat
  addr : Nat
  left : Nat
deriving DecidableEq, Repr

/-- The place an ORF names. -/
def placeOf (s : State) (c o : Nat) : Place :=
  let h := handleOf (coreOf s c) (orfHandle o)
  let off := h.base + orfOffset o
  { space := h.space, off := off, addr := coreAddr c h.space off, left := h.len - orfOffset o }

/-- An operand as the checks of R577 step 4 see it. `unit`: the slice it must begin in, when it lies in space 0x4.
`header`: the check of a blocked tensor's header, from its 16 bytes. `size`: its extent, from the header where it has one. `dims`: rows and
KBLK of a tensor that may hold replay rows. `idle`: an operand that may be written and is not this time, so that WR is not asked (R145). -/
structure Operand where
  orf : Nat
  spaces : List Nat
  unit : Option Nat
  rd : Bool
  wr : Bool
  header : Option (List Byte → Bool)
  size : List Byte → Nat
  dims : Nat × Nat := (0, 0)
  idle : Bool := false

/-- Checks a to f of R577 step 4. The record of a failure carries the operand's fabric address once its handle is known (R164). -/
def checkOperand (s : State) (c : Nat) (x : Operand) : Option Fail :=
  let h := handleOf (coreOf s c) (orfHandle x.orf)
  let p := placeOf s c x.orf
  let hd := readBytes s p.addr 16
  let n := x.size hd
  let code := firstFail
    [(h.valid, .format),
     (x.spaces.contains p.space && (p.space ≠ 4 || match x.unit with | some u => sliceAt p.off == u | none => true), .format),
     ((!x.rd || h.rd) && (!x.wr || x.idle || h.wr), .window),
     (match x.header with | some ok => ok hd | none => true, .format),
     (decide (orfOffset x.orf + n ≤ h.len), .length),
     (p.space ≠ 4 || decide (n = 0) || decide (p.off + n ≤ (sliceRange (sliceAt p.off)).2), .format)]
  code.map fun x => { code := x, addr := if h.valid then some p.addr else none }

/-- The first operand that fails, in order. -/
def checkOperands (s : State) (c : Nat) (xs : List Operand) : Option Fail :=
  (xs.findSome? fun x => checkOperand s c x)

/-- The bytes an operand covers. -/
def operandRange (s : State) (c : Nat) (x : Operand) : Nat × Nat :=
  let p := placeOf s c x.orf
  (p.addr, x.size (readBytes s p.addr 16))

/-! ### Blocked tensors (R48-R50) -/

/-- A blocked tensor: its place, its header's fields, and the rows and blocks that the descriptor gives it. -/
structure Tens where
  addr : Nat
  left : Nat
  ts : Nat
  fmt : Nat
  outl : Bool
  repl : Bool
  cap : Nat
  outlOff : Nat
  replOff : Nat
  rows : Nat
  kblk : Nat
deriving DecidableEq, Repr

/-- Fields of a header. -/
def hdrTs (b : List Byte) : Nat := num b 0 4
/-- FMT. -/
def hdrFmt (b : List Byte) : Nat := num b 4 1
/-- FLAGS. -/
def hdrFlags (b : List Byte) : Nat := num b 5 1
/-- CAP. -/
def hdrCap (b : List Byte) : Nat := num b 6 2
/-- Side-table offset in bytes. -/
def hdrOutl (b : List Byte) : Nat := num b 8 4 * 16
/-- Replay-area offset in bytes. -/
def hdrRepl (b : List Byte) : Nat := num b 12 4 * 16

/-- Is a TSCALE positive, finite and normal (R87)? -/
def tscaleOk (n : Nat) : Bool := decide (0x00800000 ≤ n) && decide (n ≤ 0x7F7FFFFF)

/-- Checks of a header (R48, R87, R577 step 4d, R578): FMT, FLAGS and TSCALE, by the formats accepted and whether replay rows may stand in
it. CAP, OUTL_OFF and REPL_OFF are no part of step 4d: they are ignored where their flag is 0 (DEDUCED, log entry 84). -/
def headerOk (fmts : List Nat) (replay : Bool) (b : List Byte) : Bool :=
  let f := hdrFlags b
  fmts.contains (hdrFmt b) && decide (f / 4 = 0) && tscaleOk (hdrTs b) && (replay || decide (f / 2 % 2 = 0))

/-- Bytes of a side-table record (R50). -/
def sideBytes (cap : Nat) : Nat := roundUp (8 + 8 * cap) 16

/-- Bytes from the header through the scales. -/
def bodyBytes (fmt rows kblk : Nat) : Nat := 16 + rows * kblk * blockBytes fmt + roundUp (rows * kblk) 16

/-- The extent of a blocked tensor (R578). -/
def tensorBytes (rows kblk : Nat) (b : List Byte) : Nat :=
  let n := bodyBytes (hdrFmt b) rows kblk
  if hdrFlags b % 2 = 1 then max n (hdrOutl b + rows * sideBytes (hdrCap b)) else n

/-- The tensor whose header stands at a place. -/
def tensAt (s : State) (p : Place) (rows kblk : Nat) : Tens :=
  let b := readBytes s p.addr 16
  let outl := hdrFlags b % 2 == 1
  { addr := p.addr, left := p.left, ts := hdrTs b, fmt := hdrFmt b, outl := outl
    repl := hdrFlags b / 2 % 2 == 1, cap := if outl then hdrCap b else 0, outlOff := hdrOutl b, replOff := hdrRepl b, rows := rows, kblk := kblk }

/-- Code of element `i` of a block of format `fmt` whose bytes start at `a` (R49). -/
def elemCode (s : State) (fmt a i : Nat) : Nat :=
  let w := fmtBits fmt
  let bit0 := w * i
  fld (readNum s (a + bit0 / 8) 2) (bit0 % 8) w

/-- Address of block `j` of a row. -/
def Tens.block (t : Tens) (row j : Nat) : Nat := t.addr + 16 + (row * t.kblk + j) * blockBytes t.fmt
/-- Address of the scale of block `j` of a row. -/
def Tens.scaleAddr (t : Tens) (row j : Nat) : Nat :=
  t.addr + 16 + t.rows * t.kblk * blockBytes t.fmt + row * t.kblk + j
/-- Scale of block `j` of a row in units of 2^-9; none for a reserved code. -/
def Tens.scale (s : State) (t : Tens) (row j : Nat) : Option Nat := scale9 (readNum s (t.scaleAddr row j) 1)
/-- Address of a row's side-table record. -/
def Tens.side (t : Tens) (row : Nat) : Nat := t.addr + t.outlOff + row * sideBytes t.cap

/-- Twice the element at index `k` of a row times its block scale: units of 2^-10; none for a reserved code. A block of
scale 0 is zero whatever its codes (R84). -/
def Tens.value10 (s : State) (t : Tens) (row k : Nat) : Option Int :=
  match t.scale s row (k / 32) with
  | none => none
  | some 0 => some 0
  | some b => (elemTwice t.fmt (elemCode s t.fmt (t.block row (k / 32)) (k % 32))).map fun e => e * (b : Int)

/-- The same for an engine: a reserved code fails FORMAT at its scale or its block (R121, R124). -/
def Tens.read10 (s : State) (t : Tens) (row k : Nat) : Except Fail Int :=
  match t.value10 s row k with
  | some v => .ok v
  | none => .error { code := .format
                     addr := some (if (t.scale s row (k / 32)).isNone then t.scaleAddr row (k / 32) else t.block row (k / 32)) }

/-- What the side table says of a row (R50, R578). -/
structure SideRow where
  count : Nat := 0
  replay : Bool := false
  slot : Nat := 0
deriving DecidableEq, Repr

/-- Reads a row's record; the failures of R578. -/
def Tens.sideRow (s : State) (t : Tens) (row : Nat) : Except Fail SideRow :=
  if !t.outl then .ok {}
  else
    let w := readNum s (t.side row) 8
    let r : SideRow := { count := fld w 0 16, replay := w.testBit 16, slot := fld w 32 9 }
    if t.cap < r.count || (r.replay && (!t.repl || decide (256 ≤ r.slot))) then .error { code := .format, addr := some (t.side row) }
    else .ok r

/-- Bytes of a replay slot (R50). -/
def replayBytes (kblk : Nat) : Nat := 16 + 32 * kblk + roundUp kblk 16

/-- Does a range that lies in space 0x4 leave the slice in which `start` lies (R52)? -/
def leavesSlice (start a n : Nat) : Bool :=
  fld a 30 4 == 4 && decide ((sliceRange (sliceAt (fld start 0 30))).2 < fld a 0 30 + n)

/-- Address of a replay slot; LENGTH when it runs past the handle, FORMAT when it leaves the tensor's slice of space 0x4 (R52, R578). -/
def Tens.replaySlot (t : Tens) (slot : Nat) : Except Fail Nat :=
  let a := t.addr + t.replOff + slot * replayBytes t.kblk
  if t.left < a - t.addr + replayBytes t.kblk then .error { code := .length, addr := a }
  else if leavesSlice t.addr a (replayBytes t.kblk) then .error { code := .format, addr := a }
  else .ok a

/-- The replay slots that the rows of a tensor name (R57): what its unit reads beside the tensor's extent. -/
def Tens.replayRanges (s : State) (t : Tens) : Ranges :=
  if !t.repl then []
  else (List.range t.rows).filterMap fun i => match t.sideRow s i with
    | .ok r => if !r.replay then none else match t.replaySlot r.slot with
      | .ok a => some (a, replayBytes t.kblk)
      | .error _ => none
    | .error _ => none

/-- The bytes that an operand's unit reads: the operand, and its replay slots. -/
def operandReads (s : State) (c : Nat) (x : Operand) : Ranges :=
  operandRange s c x :: (tensAt s (placeOf s c x.orf) x.dims.1 x.dims.2).replayRanges s

/-- INT8 value times replay scale at index `k` of a replay slot, units of 2^-9; FORMAT for a reserved scale. -/
def replayValue9 (s : State) (slotAddr kblk k : Nat) : Except Fail Int :=
  match scale9 (readNum s (slotAddr + 16 + 32 * kblk + k / 32) 1) with
  | none => .error { code := .format, addr := some (slotAddr + 16 + 32 * kblk + k / 32) }
  | some b => .ok (signed 8 (readNum s (slotAddr + 16 + k) 1) * (b : Int))

/-- Entry `i` of a row: KIDX and VALUE in units of 2^-10; FORMAT outside R58 and R104. -/
def Tens.entry (s : State) (t : Tens) (row i : Nat) : Except Fail (Nat × Int) :=
  let w := readNum s (t.side row + 8 + 8 * i) 8
  let k := fld w 0 24
  let v := fld w 32 16
  let e := fld v 7 8
  if 32 * t.kblk ≤ k then .error { code := .format, addr := some (t.side row + 8 + 8 * i) }
  else if v % 2 ^ 15 = 0 then .ok (k, 0)
  else if 124 ≤ e ∧ e ≤ 150 then
    let m : Int := ((128 + v % 128) * 2 ^ (e - 124) : Nat)
    .ok (k, if v.testBit 15 then -m else m)
  else .error { code := .format, addr := some (t.side row + 8 + 8 * i) }

/-- Every entry of a row, in order. -/
def Tens.entries (s : State) (t : Tens) (row : Nat) (n : Nat) : Except Fail (List (Nat × Int)) :=
  (List.range n).mapM fun i => t.entry s row i

/-! ### The start of a descriptor -/

/-- What an operation of an engine needs at its start (R577). -/
structure Plan where
  /-- Step 1: the encoding. -/
  encoding : Bool
  /-- Step 2: each count with its all-ones value and its maximum. -/
  counts : List (Nat × Nat × Nat)
  /-- Step 4: the operands in order. -/
  operands : List Operand
  /-- Tokens (R76, R77). -/
  tokens : Nat
  /-- Ranges it writes beside its operands: pages of a page list. -/
  more : Ranges := []
  /-- Ranges it reads beside its operands before data move: the entries and the tree map of a page list. -/
  lists : Ranges := []
  /-- The Flume queue that it moves data through (R66). -/
  flq : Option Nat := none

/-- Does a count fail step 2? -/
def countBad (n : Nat × Nat × Nat) : Bool := n.1 == n.2.1 || decide (n.2.2 < n.1)

/-- The handles that a plan reads, writes, and those it reads and writes. -/
def Plan.reads (p : Plan) : List Nat := (p.operands.filter (·.rd)).map fun x => orfHandle x.orf
/-- The handles that a plan writes. -/
def Plan.writes (p : Plan) : List Nat := (p.operands.filter (·.wr)).map fun x => orfHandle x.orf

/-- A cost of `n` tokens at RATE `r` (R77). -/
def tokensAt (n r : Nat) : Nat := ceilDiv n (2 ^ r)

/-- The event and counter of a header (R43). -/
def signalHeader (k : Core) (w0 : Word) : Core :=
  signalDone k (bit w0 12) (bits w0 8 4) (bit w0 13) (bits w0 14 4)

/-- May units of the core work: it is in a step, and not stopped? -/
def Scc.working (x : Scc) : Bool :=
  match x.run with
  | .running | .halted => true
  | _ => false

/-- Do transfers issued before operation `n` on Flume queue `q` of a core wait to be served: those of tags, and the PARK and RESTORE
descriptors that have not started (R66, R226)? -/
def queueBehind (k : Core) (q n : Nat) : Bool :=
  (k.flume.any fun p => p.1 / 16 == q && match p.2 with
    | .busy u => !u.served && decide (u.seq < n)
    | _ => false)
  || (engOf k .kse).queue.any fun d =>
    decide (d.seq < n) && [1, 2].contains (bits d.w0 4 4) && bits d.w0 48 3 == q && decide (bits d.w0 32 16 ≠ 0)

/-- The descriptor at the head of engine `e` starts when its OP is `op` (or, for the first operation of an engine, one that
is reserved). A no-op completes at once (R45). Any other waits for the scoreboard (R216), for windows (R155), for the earlier transfers of its
Flume queue (R66, R226) and for its tokens (R70, R78);
then it starts: the checks of R577 in order, `structs` being step 5, then its whole work `run`. Its place in the queue is free from its
start on (DESIGN CHOICE, log entry 85). -/
def startDesc (s : State) (c : Nat) (e : Eng) (isOp : Nat → Bool) (plan : State → Desc → Plan)
    (structs : State → Desc → Option Fail) (run : State → Desc → State × Option Fail) (ups : List Upset) : State :=
  let k := coreOf s c
  let eng := engOf k e
  match k.scc.working && !held s c, eng.run, eng.queue with
  | true, none, d :: rest =>
    if !isOp (bits d.w0 4 4) then s
    else
      let p := plan s d
      let encoded := p.encoding && decide (bits d.w0 0 4 = e.num) && decide (bits d.w0 20 12 = 0)
      let counted := !p.counts.any countBad
      if encoded && counted && p.counts.any fun n => n.1 == 0 then
        updCore s c fun k => dropOp (signalHeader { k with engs := Tbl.upd {} k.engs e.num fun x => { x with queue := rest } }
          d.w0) d.seq
      else
        let acc := match k.ops.find? fun o => o.seq == d.seq with | some o => o.acc | none => []
        let wrs := (p.operands.filter (·.wr)).map fun x => operandRange s c x
        if !mayStart s c d.seq p.reads p.writes acc || windowBlocks s c (wrs ++ p.more) || p.flq.any (queueBehind k · d.seq) then s
        else if freeTokens s c < p.tokens then updCore s c fun k => slackUp k .headtok 1
        else if (regionOf s (c / 256)).pwr.ilimHold then s
        else if !encoded then failDesc s c e d (.of .format)
        else if !counted then failDesc s c e d (.of .length)
        else match checkOperands s c p.operands with
          | some f => failDesc s c e d f
          | none => match structs s d with
            | some f => failDesc s c e d f
            | none =>
              let rds := (p.operands.filter (·.rd)).flatMap (operandReads s c) ++ p.lists
              match meetReads s rds ups with
              | (s, some f) => failDesc s c e d f
              | (s, none) => match meetWrites s wrs (unmet rds ups) with
                | (s, some f) => failDesc s c e d f
                | (s, none) => match run s d with
                  | (t, some f) => failDesc t c e d f
                  | (t, none) => updEng t c e fun x =>
                    { x with queue := rest, run := some { desc := d, tokens := p.tokens, msgs := (s.ids, t.ids) } }
  | _, _, _ => s

end Sys2Proof.Machine
end

