-- ==== Sys2Proof/Machine/Path.lean ====
section
/-!
DEFINITION. Packets, paths and routes on Race (05 R165-R176), and the failure of an access at its source (R180, R221).
-/
namespace Sys2Proof.Machine

/-- Link width in bytes (R165). -/
def planeWidth : Plane → Nat
  | .a => 64 | .k => 32 | .c => 8 | .t => 4

/-- Flits of a packet with `n` payload bytes (R176). -/
def flitsOf (p : Plane) (n : Nat) : Nat := ceilDiv (16 + n) (planeWidth p)

/-- Global coordinates of a core (R169). -/
def coreX (c : Nat) : Nat := 16 * (c / 256 % 8) + c % 16
/-- Southward. -/
def coreY (c : Nat) : Nat := 16 * (c / 256 / 8) + c / 16 % 16
/-- Numbers from `a` to `b`, both counted, in the direction of `b`. -/
def walk (a b : Nat) : List Nat :=
  if a ≤ b then (List.range (b + 1 - a)).map (a + ·) else (List.range (a + 1 - b)).map (a - ·)
/-- Mesh path along X and then Y, both ends counted. -/
def meshXY (x y u v : Nat) : List Node := (walk x u).map (Node.router · y) ++ ((walk y v).drop 1).map (Node.router u ·)
/-- Mesh path along Y and then X. -/
def meshYX (x y u v : Nat) : List Node := (walk y v).map (Node.router x ·) ++ ((walk x u).drop 1).map (Node.router · v)
/-- Hubs from region `a` to region `b`, both counted, the grid column first (R170). -/
def hubs (a b : Nat) : List Node :=
  (walk (a % 8) (b % 8)).map (fun x => Node.hub (a / 8 * 8 + x))
    ++ ((walk (a / 8) (b / 8)).drop 1).map fun y => Node.hub (y * 8 + b % 8)
/-- The router of region `r`'s hub nearest to a core: rows and columns 7-8. -/
def hubDoor (r c : Nat) : Nat × Nat :=
  (16 * (r % 8) + (if c % 16 ≤ 7 then 7 else 8), 16 * (r / 8) + (if c / 16 % 16 ≤ 7 then 7 else 8))

/-- The routers and hubs from core `a` to core `b` (R170). -/
def pathOf (a b mode wp : Nat) : List Node :=
  let ra := a / 256
  let rb := b / 256
  if ra = rb ∨ mode = 1 then meshXY (coreX a) (coreY a) (coreX b) (coreY b)
  else if mode = 2 then meshYX (coreX a) (coreY a) (coreX b) (coreY b)
  else
    let (ix, iy) := hubDoor ra a
    let (ox, oy) := hubDoor rb b
    let mid := if mode = 4 then hubs ra wp ++ (hubs wp rb).drop 1 else hubs ra rb
    meshXY (coreX a) (coreY a) ix iy ++ mid ++ meshXY ox oy (coreX b) (coreY b)

/-- The region of a router or hub. -/
def Node.region : Node → Nat
  | .router x y => y / 16 * 8 + x / 16
  | .hub r => r

/-- Is the link down from the router at column `x` and row `y` to the next row of its region dead: a VLINK entry of the Moraine map names its
physical place, that of the router above (R22; DEDUCED, log entry 88)? -/
def linkDead (s : State) (x y : Nat) : Bool :=
  let g := (Node.router x y).region
  let o := (regionOf s g).org
  let p := physRow o (y % 16)
  decide (y % 16 ≠ 15) && s.moraine.any fun e => e.kind == 4 && e.region == g && e.row == p && e.col == physCol (rowOf o p) (x % 16)

/-- The two further routers of a mesh hop that goes through another column and back: one whose physical path passes the dropped row of a SHORT
region (R169), or whose link is dead (R22). Which column the manual leaves open: the one whose number differs in bit 0, or where the
link there is dead the nearest of the region whose link is not (DESIGN CHOICE, log entry 88). -/
def aside (s : State) : Node → Node → List Node
  | .router x y, .router u v =>
    let low := max y v
    let top := min y v
    let g := (Node.router x low).region
    let w := if x % 2 = 0 then x + 1 else x - 1
    if x = u ∧ y ≠ v ∧ (regionOf s g).org.shape = .short ∧ low % 16 = (regionOf s g).org.dropRow then [.router w y, .router w v]
    else if x = u ∧ y ≠ v ∧ linkDead s x top then
      let near := (List.range 16).flatMap fun n => [x + n, x - n].filter fun k => k / 16 == x / 16 && decide (n ≤ x ∨ k ≠ x - n)
      let z := ((w :: near).find? fun k => !linkDead s k top).getD x
      if z = x then [] else (walk x z).drop 1 |>.map (Node.router · y) |>.append ((walk z x).dropLast.map (Node.router · v))
    else []
  | _, _ => []

/-- A path with its detours around dropped rows and dead links (R22, R169). -/
def detoured (s : State) : List Node → List Node
  | [] => []
  | n :: rest => n :: ((match rest with | m :: _ => aside s n m | [] => []) ++ detoured s rest)

/-- The routers and hubs from core `a` to core `b` in the present shapes (R169, R170). -/
def routeNodes (s : State) (a b : Nat) (r : Route) : List Node := detoured s (pathOf a b r.mode r.waypoint)

/-- The route entry of region `r` for region `d` on plane `p` (R195). A destination in the source region takes XY. -/
def routeOf (s : State) (r d : Nat) (p : Plane) : Route :=
  if r = d then { mode := 1 } else Tbl.get {} (regionOf s r).race.routes (4 * d + p.num)

/-- Raises a Race counter of plane `p` in region `r` (R196). -/
def raceCount (s : State) (r : Nat) (p : Plane) (f : RaceCnt → RaceCnt) : State :=
  updRegion s r fun x => { x with race := { x.race with cnt := Tbl.upd {} x.race.cnt p.num f } }

/-- The route that a new access takes: that of a route change which waits, since the access is held until it applies (R187). -/
def newRoute (s : State) (r d : Nat) (p : Plane) : Route :=
  match s.race.reloads.find? fun x => x.src == r && x.dst == d && x.plane == p with
  | some x => { mode := x.mode, waypoint := x.waypoint }
  | none => routeOf s r d p

/-- TIMEOUT of region `r` in ns (R189). -/
def raceTimeout (s : State) (r : Nat) : Nat := 8 * (regionOf s r).race.timeout.toNat

/-- Divisor of the root clock of 6 GHz at an operating point (R440). -/
def opDivisor (op : Nat) : Nat := [6, 7, 8, 10, 12, 24].getD op 24

/-- Is VDDN of region `r` on (R194, R479)? -/
def vddnOn (s : State) (r : Nat) : Bool := bit (regionOf s r).pwr.rails 1

/-- Puts a packet on its way under a fresh identifier. -/
def addPacket (s : State) (p : Packet) : State :=
  { s with ids := s.ids + 1, race := { s.race with packets := s.race.packets ++ [{ p with id := s.ids }] } }

/-- Takes a packet off the fabric. -/
def dropPacket (s : State) (id : Nat) : State :=
  { s with race := { s.race with packets := s.race.packets.filter fun p => p.id ≠ id } }

/-- The packet of an identifier. -/
def packetOf (s : State) (id : Nat) : Option Packet := s.race.packets.find? fun p => p.id == id

/-- The router at which a packet stands, at the end that of its destination. -/
def packetNode (p : Packet) : Node :=
  match p.path with
  | n :: _ => n
  | [] => match p.dst with | .core c => .router (coreX c) (coreY c) | .edge _ => .hub 0

/-- Does an earlier packet of the same source, destination and plane stand at the same place or behind it (R185)? -/
def overtakes (s : State) (p : Packet) : Bool :=
  s.race.packets.any fun q => decide (q.id < p.id) && q.src == p.src && q.dst == p.dst && q.plane == p.plane
    && decide (p.path.length ≤ q.path.length)

/-- The packets of a write, in order: 512 bytes of payload each but the last (R176). -/
def writePackets : Nat → State → Packet → Nat → List Byte → State
  | 0, s, _, _, _ => s
  | n + 1, s, h, off, bs =>
    let pay := bs.take 512
    let last := decide (bs.length ≤ 512)
    let first := decide (off = 0)
    let s := addPacket s { h with first := first, last := last, dest := h.dest + off, payload := pay
                                  length := if first then h.length else pay.length }
    if last then s else writePackets n s h (off + 512) (bs.drop 512)

/-! ### The header (R175) -/

/-- KIND as R175 numbers it. -/
def Kind.num : Kind → Nat
  | .write => 0 | .accum => 1 | .readReq => 2 | .readData => 3 | .response => 4 | .control => 5 | .telemetry => 6

/-- W0 and W1 of a packet's header. -/
def Packet.header (p : Packet) : Nat × Nat :=
  let (src, edge) := match p.src with | .core c => (c, 0) | .edge n => (n, 1)
  (p.dest + at_ 52 p.win + at_ 56 p.epoch,
   src + at_ 14 edge + at_ 16 p.kind.num + at_ 20 (bnat p.first) + at_ 21 (bnat p.last) + at_ 22 p.mode + at_ 25 p.waypoint
     + at_ 32 p.length + at_ 56 p.status.num)

/-- Is the header of a window access as R175 and R176 lay it out: no reserved field set, a range of a core's memory, a length, and a full
payload in every packet but the last? -/
def Packet.sound (p : Packet) : Bool :=
  let (w0, w1) := p.header
  decide (fld w1 15 1 = 0) && decide (fld w1 16 4 ≤ 2) && decide (fld w1 22 3 ≤ 4) && decide (fld w1 31 1 = 0) && decide (fld w1 56 8 = 0)
    && (fld w1 22 3 == 4 || fld w1 25 6 == 0) && decide (fld w0 48 4 = 0) && decide (fld w0 30 4 ≤ 4) && decide (fld w0 30 4 ≠ 3)
    && decide (0 < p.length) && decide (p.length < 0xFFFFFF) && decide (w0 < 2 ^ 64) && decide (w1 < 2 ^ 64)
    && (!p.first || p.kind == .readReq
         || (p.last == decide (p.length ≤ 512) && decide (p.payload.length = min 512 p.length)))

/-- The RESPONSE of an access goes to its source on plane C (R180); a BLOCKED entry discards it. Its DEST is byte 0 of the source core's stack: a
RESPONSE has no byte to go to, but R174 has DEST name the core (DESIGN CHOICE, log entry 88). -/
def respond (s : State) (acc : Nat) (src : Party) (core : Nat) (code : Code) : State :=
  match src with
  | .edge _ => s
  | .core c =>
    let r := routeOf s (core / 256) (c / 256) .c
    if r.mode = 0 then s
    else addPacket s { id := 0, acc := acc, plane := .c, kind := .response, src := .core core, dst := .core c, dest := coreAddr c 0 0
                       mode := r.mode, waypoint := r.waypoint, status := code, path := routeNodes s core c r }

/-- An access that its source still waits for. -/
def accessOf (s : State) (acc : Nat) : Option Access := s.race.accesses.find? fun a => a.id == acc

/-- The access is recorded or has failed: the source waits for it no longer. -/
def dropAccess (s : State) (acc : Nat) : State :=
  { s with race := { s.race with accesses := s.race.accesses.filter fun a => a.id ≠ acc } }

/-- The access fails at its source core: its SEND fails (R221, R47), unless the core has stopped since. -/
def failAccessWith (s : State) (acc : Nat) (f : Fail) : State :=
  match accessOf s acc with
  | none => s
  | some a =>
    let s := dropAccess s acc
    match a.src with
    | .edge _ => s
    | .core c => match (coreOf s c).sends.find? fun x => x.id == a.send with
      | none => s
      | some x => failUnit s c 9 0 x.pc f

/-- The access fails with a code; the record names its destination. -/
def failAccess (s : State) (acc : Nat) (code : Code) : State :=
  failAccessWith s acc { code := code, addr := (accessOf s acc).map (·.dest) }

/-! ### Sluice fields and edge blocks (01 R18, R19) -/

/-- A sluice field: the regions it adjoins, its Sluice ports, its Tailrace link, and its Snowpack controller with the Millpond unit and the
Hopper loader of that number (R18). -/
structure Field where
  adjoins : List Nat
  ports : List Nat := []
  link : Option Nat := none
  unit : Option Nat := none
deriving DecidableEq, Repr

/-- The twelve fields in the order of R18. -/
def fields : List Field :=
  [{ adjoins := [0, 1, 2], ports := [0, 1], link := some 0 }, { adjoins := [3, 4], unit := some 0 },
   { adjoins := [5, 6, 7], ports := [2, 3], link := some 1 }, { adjoins := [7, 15, 23], ports := [4, 5], link := some 2 },
   { adjoins := [31, 39], unit := some 1 }, { adjoins := [47, 55, 63], ports := [6, 7], link := some 3 },
   { adjoins := [56, 57, 58], ports := [8, 9], link := some 4 }, { adjoins := [59, 60], unit := some 2 },
   { adjoins := [61, 62, 63], ports := [10, 11], link := some 5 }, { adjoins := [0, 8, 16], ports := [12, 13], link := some 6 },
   { adjoins := [24, 32], unit := some 3 }, { adjoins := [40, 48, 56], ports := [14, 15], link := some 7 }]

/-- The regions that edge block `n` adjoins (R18, R175): those of the field of its unit; the Miller, the Seal and Firn lie in N1. -/
def edgeRegions (n : Nat) : List Nat :=
  let u := if n < 0x30 then n % 16 else 0
  match fields.find? fun f => f.unit == some u with
  | some f => f.adjoins
  | none => []

/-- The boundary router of region `r` on the side of edge block `n`, in the row or column of core `c`. -/
def sideRouter (n c r : Nat) : Nat :=
  let (y, x) := match (if n < 0x30 then n % 16 else 0) with
    | 0 => (0, c % 16)
    | 1 => (c / 16 % 16, 15)
    | 2 => (15, c % 16)
    | _ => (c / 16 % 16, 0)
  r * 256 + y * 16 + x

/-- The router at which an access of edge block `n` to core `c` enters Race on plane `p`: in the first adjoining region whose VDDN is on and
whose route entry for the core's region is not BLOCKED, on the side of the field, in the row or column of the core (DESIGN CHOICE, log entry
88: R18 names the regions, and no rule a router). -/
def edgeDoor (s : State) (n c : Nat) (p : Plane) : Nat :=
  let rs := edgeRegions n
  sideRouter n c ((rs.find? fun r => vddnOn s r && decide ((newRoute s r (c / 256) p).mode ≠ 0)).getD (rs.headD 0))

/-! ### Messages that cross Race in one act (log entry 88) -/

/-- Flits of all packets of an access with `n` payload bytes (R176). -/
def flitsAll (p : Plane) (n : Nat) : Nat :=
  n / 512 * flitsOf p 512 + if n % 512 = 0 ∧ n ≠ 0 then 0 else flitsOf p (n % 512)

/-- `f` flits pass the routers and hubs of a path, which count them; before a region whose VDDN is off the router discards them: its node
(R193, R196). -/
def travel (s : State) (p : Plane) (f : Nat) : List Node → State × Option Node
  | [] => (s, none)
  | x :: rest =>
    if rest.head?.any fun m => !vddnOn s m.region then (s, some x)
    else travel (raceCount s x.region p fun r => { r with flits := bumpBy r.flits f }) p f rest

/-- A record of a timer of R190 at a router, in the region of its node: the address, the source and the plane of the packet (R190, R486). -/
def timerRec (s : State) (r dest src : Nat) (p : Plane) : State :=
  logRec s { code := .timeout, cls := .refusal, origin := .router, region := some r, aform := 1, addr := dest, syndrome := src + at_ 16 p.num }

/-- A record of a router that discards a packet before a region whose VDDN is off: no timer of R190, so that its SYNDROME is 0 (R193, R486). -/
def lostRec (s : State) (r dest : Nat) : State :=
  logRec s { code := .lost, cls := .link, origin := .router, region := some r, aform := 1, addr := dest }

/-- `f` flits pass a path; LOST where a router on the way discards them (R193). -/
def follow (s : State) (p : Plane) (f dest : Nat) (path : List Node) : State × Option Code :=
  match travel s p f path with
  | (s, none) => (s, none)
  | (s, some x) => (lostRec s x.region dest, some .lost)

/-- A message of `n` payload bytes from router `a` to router `b` on plane `p` by route `rt`: WINDOW where it is BLOCKED (R172), LOST
where a router on the way discards it (R193). -/
def crossBy (s : State) (p : Plane) (rt : Route) (a b n dest : Nat) : State × Option Code :=
  if rt.mode = 0 then (s, some .window) else follow s p (flitsAll p n) dest (routeNodes s a b rt)

/-- The same by the entry of `a`'s region (R170). -/
def cross (s : State) (p : Plane) (a b n dest : Nat) : State × Option Code := crossBy s p (routeOf s (a / 256) (b / 256) p) a b n dest

/-- The path of core `c`'s Flume packets to Snowpack controller `k` (R403): no route entry names a controller, and the
model takes the mesh, along X or Y first, to a boundary router of the first adjoining region whose VDDN is on, so that every region on the
way has VDDN, or else the first of these paths (DESIGN CHOICE, log entry 88). -/
def flumePath (s : State) (c k : Nat) : List Node :=
  let rs := edgeRegions (0x10 + k)
  let ps := (rs.filter (vddnOn s) ++ rs).flatMap fun r =>
    let d := sideRouter (0x10 + k) c r
    [{ mode := 1 }, { mode := 2 }].map fun rt => routeNodes s c d rt
  (ps.find? fun p => p.all fun n => vddnOn s n.region).getD (ps.headD [])

/-- A message of `n` payload bytes of core `c`'s transfer to or from controller `k` (R166, R403). -/
def flumeCross (s : State) (p : Plane) (c k n dest : Nat) (out : Bool) : State × Option Code :=
  let path := flumePath s c k
  follow s p (flitsAll p n) dest (if out then path else path.reverse)

/-- Core `c` refuses an access of an edge block to window `w`: the count and the record, merged under R164; the block's number
stands for the source core (DEDUCED, log entry 53). -/
def refuseEdge (s : State) (c w edge dest : Nat) (p : Plane) (code : Code) : State :=
  let s := raceCount s (c / 256) p fun x => { x with refused := bump x.refused }
  logMerging s { coreRec s c with code := code, cls := .refusal, unit := 9, aform := 1, addr := dest, syndrome := edge }
    (2 ^ 14 + edge, 16 * c + w, code.num)

/-- Core `c` accepts an access of an edge block (R196). -/
def acceptEdge (s : State) (c : Nat) (p : Plane) : State := raceCount s (c / 256) p fun x => { x with ej := bump x.ej }

end Sys2Proof.Machine
end

