-- ==== Sys2Proof/Machine/Snow.lean ====
section
/-!
DEFINITION. What several commands do with Snowpack (11 R400-R413).
-/
namespace Sys2Proof.Machine

/-! ### The address map -/

/-- 24 GiB, one zone (R400). -/
def zoneSize : Nat := 24 * 2 ^ 30

/-- The stack that holds a Snowpack address, and the byte within that stack (R400). -/
def locate (zmap : BitVec 31) (a : Nat) : Nat × Nat :=
  let z := a / zoneSize
  let o := a % zoneSize
  if z < 31 ∧ zmap.getLsbD z then
    let g := o % (6 * 2 ^ 30) / 4096
    (6 * (o / (6 * 2 ^ 30)) + g % 6, z * 2 ^ 30 + g / 6 * 4096 + a % 4096)
  else
    let g := o / 4096
    (g % 24, z * 2 ^ 30 + g / 24 * 4096 + a % 4096)

/-- The stack alone. Memory is kept by Snowpack address, which the map of a zone does not change while the zone holds its bytes (R401). -/
def snowStack (zmap : BitVec 31) (a : Nat) : Nat := (locate zmap a).1

/-- The 4 KiB pieces of a range: first byte and length. -/
def snowPieces : Nat → Nat → Nat → List (Nat × Nat)
  | 0, _, _ => []
  | fuel + 1, a, n =>
    if n = 0 then []
    else
      let k := min n (4096 - a % 4096)
      (a, k) :: snowPieces fuel (a + k) (n - k)

/-- The pieces of a transfer (R403). -/
def piecesOf (a n : Nat) : List (Nat × Nat) := snowPieces (n / 4096 + 2) a n

/-- Consecutive pieces held by one controller are one access. -/
def joinPieces (zmap : BitVec 31) : List (Nat × Nat) → List (Nat × Nat × Nat)
  | [] => []
  | p :: rest =>
    let k := snowStack zmap p.1 / 6
    match joinPieces zmap rest with
    | (j, _, n) :: more => if j = k then (k, p.1, p.2 + n) :: more else (k, p) :: (j, p.1 + p.2, n) :: more
    | [] => [(k, p)]

/-- The accesses of a transfer: controller, first byte and length (R403). -/
def snowAccesses (s : State) (a n : Nat) : List (Nat × Nat × Nat) := joinPieces s.snow.zmap (piecesOf a n)

/-- Bytes of a range on controller `k`. -/
def ctlBytes (s : State) (k a n : Nat) : Nat :=
  ((piecesOf a n).filter fun p => snowStack s.snow.zmap p.1 / 6 == k).foldl (fun t p => t + p.2) 0

/-- Is a stack in service (R413, R416)? -/
def stackUp (s : State) (k : Nat) : Bool :=
  let c := ctlOf s (k / 6)
  bit c.ready (k % 6) && !bit c.failed (k % 6)

/-! ### Apertures and checks -/

/-- The enabled TX apertures: link, queue, first byte, length (R393, R396). -/
def apertures (s : State) : List (Nat × Nat × Nat × Nat) :=
  s.links.flatMap fun l => (l.2.queues.filter fun q => q.2.en && decide (bits q.2.tx 40 24 ≠ 0)).map fun q =>
    (l.1, q.1, bits q.2.tx 0 40, bits q.2.tx 40 24 * 65536)

/-- What is left of a range without the bytes of another. -/
def cutOut (ap r : Nat × Nat) : List (Nat × Nat) :=
  let hi := r.1 + r.2
  let from_ := max r.1 (ap.1 + ap.2)
  [(r.1, min hi ap.1 - r.1), (from_, hi - from_)].filter fun p => decide (p.2 ≠ 0)

/-- The parts of [a, a + n) outside every enabled aperture (R393). -/
def outsideApertures (s : State) (a n : Nat) : List (Nat × Nat) :=
  (apertures s).foldl (fun rs p => rs.flatMap (cutOut p.2.2)) [(a, n)]

/-- Why Snowpack cannot take bytes at [a, a + n) now: a zone that is being zeroed, a stack out of service (R401, R404, R413). -/
def snowShut (s : State) (a n : Nat) : Option Code :=
  if s.snow.zeroing.any fun z => touch (z * zoneSize, zoneSize) (a, n) then some .busy
  else if (piecesOf a n).any fun p => !stackUp s (snowStack s.snow.zmap p.1) then some .lost
  else none

/-- Does a FLUME range of the step owner of core `c` cover the range with the right needed (R259)? -/
def flumeCovers (s : State) (c a n : Nat) (write : Bool) : Bool :=
  match ownerOf s c with
  | none => false
  | some m => (millOf s m).cfg.flumes.any fun r =>
      (if write then r.wr else r.rd) && decide (r.base ≤ a) && decide (a + n ≤ r.base + r.len)

/-- Where a transfer goes: refused with a code, into the aperture of a queue of a link, or to the stacks. -/
inductive SnowRoute where
  | refuse (code : Code) | aperture (link queue : Nat) | stacks
deriving DecidableEq, Repr

/-- The checks of R404 on a whole transfer of core `c`, and those of R391 for an aperture. A read of an aperture has no source
in the manual and is refused with WINDOW (DESIGN CHOICE, log entry 44). -/
def snowRoute (s : State) (c a n : Nat) (write : Bool) : SnowRoute :=
  let near := (apertures s).filter fun p => touch (p.2.2.1, p.2.2.2) (a, n)
  match near.head? with
  | some (l, q, _) =>
    if near.any fun p => !(decide (p.2.2.1 ≤ a) && decide (a + n ≤ p.2.2.1 + p.2.2.2)) then .refuse .window
    else if !(write && flumeCovers s c a n true) then .refuse .window
    else if (queueOf s l q).farSlotb * 64 - 64 < n then .refuse .length
    else .aperture l q
  | none =>
    if !flumeCovers s c a n write then .refuse .window
    else match snowShut s a n with
      | some x => .refuse x
      | none => .stacks

/-- Counts each access of a refused transfer at its controller (R403, R421). -/
def countRefused (s : State) (a n : Nat) : State := (snowAccesses s a n).foldl (fun s x => ctlCount s x.1 5 1) s

/-- Counts the bytes of an access at each controller, in counter `i`: 0 read, 1 written (R421). -/
def countSnow (s : State) (i a n : Nat) : State :=
  (List.range 4).foldl (fun s k => let b := ctlBytes s k a n; if b = 0 then s else ctlCount s k i b) s

/-- The controller of the burst at `a`. -/
def snowCtl (s : State) (a : Nat) : Nat := snowStack s.snow.zmap a / 6

/-- A burst that cannot be read: the count, the cause of R429, and the failure (R408). -/
def snowUe (s : State) (a syn : Nat) : State × Option Fail :=
  let k := snowCtl s a
  (raiseIrq (ctlCount s k 3 1) (12 + k), some { code := .ecc, addr := snowAddr (a / 64 * 64), syn := syn })

/-- One upset of a Snowpack burst, when it strikes [a, a + n). -/
def meetSnow (a n : Nat) (s : State) (u : Upset) : State × Option Fail :=
  match u with
  | .burstCorrected x =>
    let b := (x - 2 ^ 51) / 64 * 64
    if 2 ^ 51 ≤ x && touch (b, 64) (a, n) then
      (updCtl (ctlCount s (snowCtl s b) 2 1) (snowCtl s b) fun k => { k with writeBacks := k.writeBacks.filter (· ≠ b) ++ [b] }, none)
    else (s, none)
  | .burstLost x =>
    let b := (x - 2 ^ 51) / 64 * 64
    if 2 ^ 51 ≤ x && touch (b, 64) (a, n) then snowUe s b 2 else (s, none)
  | .dieCorrected x =>
    let b := (x - 2 ^ 51) / 64 * 64
    (if 2 ^ 51 ≤ x && touch (b, 64) (a, n) then ctlCount s (snowCtl s b) 4 1 else s, none)
  | _ => (s, none)

/-- Runs `f` over a whole list; the first failure stands. -/
def meetAll {α : Type} (f : State → α → State × Option Fail) (s : State) (xs : List α) : State × Option Fail :=
  xs.foldl (fun st x => let (s, e) := f st.1 x; (s, st.2.or e)) (s, none)

/-- The stacks read [a, a + n) for an access: counts, upsets, poisoned bursts. Every burst that cannot be read is counted, and the first one
fails the transfer (R408, R421). -/
def snowRead (s : State) (a n : Nat) (ups : List Upset) : State × Option Fail :=
  let (s, lost) := meetAll (meetSnow a n) (countSnow s 0 a n) ups
  let (s, bad) := meetAll (fun s b => snowUe s b 3) s (s.snow.poison.filter fun b => touch (b, 64) (a, n))
  (s, lost.or bad)

/-- Whole bursts of [a, a + n) are written: poison goes and write-backs that wait are cancelled (R410, R411). -/
def snowWritten (s : State) (a n : Nat) : State :=
  let s := { s with snow := { s.snow with poison := s.snow.poison.filter fun b => !touch (b, 64) (a, n) } }
  (List.range 4).foldl (fun s k =>
    if (ctlOf s k).writeBacks.isEmpty then s
    else updCtl s k fun x => { x with writeBacks := x.writeBacks.filter fun b => !touch (b, 64) (a, n) }) s

/-- The stacks write bytes copied from the fabric address `src` (R421). -/
def snowWrite (s : State) (a src n : Nat) : State :=
  snowWritten (copyBytes (countSnow s 1 a n) src (snowAddr a) n) a n

end Sys2Proof.Machine
end

