-- ==== Sys2Proof/Machine/Image.lean ====
section
/-!
DEFINITION. Layout images (07): the checks of R267 over header, framing, signature, resources and section contents (R245-R265),
the check of a program's bundles (06 R213, R233), and what distribution writes (R270).
-/
namespace Sys2Proof.Machine

/-- A failed check: its code, and what HOP_ERRLOC names, the section and the record (R278). -/
abbrev Bad := Code × Nat × Nat

/-- The first record of a list that fails, with its index from `i0` on. -/
def checkRecs (t i0 : Nat) (recs : List (List Byte)) (f : Nat → List Byte → Option Code) : Option Bad :=
  recs.zipIdx.findSome? fun p => (f p.2 p.1).map fun x => (x, t, i0 + p.2)

/-- The first failure of several checks. -/
def firstBad (l : List (Option Bad)) : Option Bad := l.findSome? id

/-- Does an earlier record of the list agree with record `i` on a key? -/
def repeated {α : Type} [DecidableEq α] (key : List Byte → α) (recs : List (List Byte)) (i : Nat) (b : List Byte) : Bool :=
  (recs.take i).any fun x => decide (key x = key b)

/-! ### Header and framing (R245-R249) -/

/-- SHAPES byte of region `r`. -/
def shapeByte (img : List Byte) (r : Nat) : Nat := num img (24 + r) 1
/-- Is the region used by the image (R246)? -/
def usedIn (img : List Byte) (r : Nat) : Bool := decide (r < 64) && decide (shapeByte img r ≠ 0)
/-- The used regions, ascending. -/
def usedRegions (img : List Byte) : List Nat := (List.range 64).filter (usedIn img)
/-- REALM of the header. -/
def imgRealm (img : List Byte) : Nat := num img 8 1 % 16

/-- Checks 1 to 4 of R267. -/
def checkHeader (img : List Byte) (len : Nat) : Option Code :=
  let total := num img 16 8
  firstFail
    [(decide (len = total) && decide (256 ≤ total) && decide (total ≤ 2 ^ 32) && decide (total % 16 = 0), .length),
     (slice img 0 4 == ascii "YKLI", .format),
     (num img 4 2 == 1, .unsupported),
     (zeros img 9 12 && zeros img 152 256 && decide (num img 8 1 < 16) && decide (num img 6 1 ≤ 2) && decide (num img 7 1 ≤ 3)
        && decide (1 ≤ num img 12 4) && decide (num img 12 4 ≤ 13) && (List.range 64).all (fun r => decide (shapeByte img r ≤ 2))
        && !(usedRegions img).isEmpty, .format)]

/-- The sections of R248 with their limits: COUNT0 from and to, size of its records, and the same for COUNT1. -/
def sectLimits (t : Nat) : Option ((Nat × Nat × Nat) × (Nat × Nat × Nat)) :=
  match t with
  | 0x1 => some ((1, 4096, 32), (0, 0, 0))
  | 0x2 => some ((0, 16384, 8), (0, 16384, 8))
  | 0x3 => some ((1, 16384, 16), (1, 16384, 4))
  | 0x4 => some ((0, 1048576, 32), (0, 0, 0))
  | 0x5 => some ((0, 262144, 32), (0, 0, 0))
  | 0x6 => some ((0, 4096, 8), (0, 0, 0))
  | 0x7 => some ((0, 16384, 4), (0, 64, 8))
  | 0x8 => some ((0, 4194304, 32), (0, 0, 0))
  | 0x9 => some ((0, 4096, 32), (0, 0, 0))
  | 0xA => some ((1, 256, 32), (1, 64, 32))
  | 0xB => some ((1, 4096, 2), (0, 0, 0))
  | 0xC => some ((0, 4194304, 112), (0, 0, 0))
  | _ => none

/-- Counts and length of a body (R249, R253, R261, R263). -/
def countsOk (t : Nat) (b : List Byte) : Bool :=
  if t = 0xFF then decide (b.length = 128)
  else match sectLimits t with
    | none => false
    | some ((lo0, hi0, n0), (lo1, hi1, n1)) =>
      let c0 := count0 b
      let c1 := count1 b
      let recs := 16 + c0 * n0 + c1 * n1
      decide (16 ≤ b.length) && decide (lo0 ≤ c0) && decide (c0 ≤ hi0) && decide (lo1 ≤ c1) && decide (c1 ≤ hi1)
        && (if t = 3 then decide (roundUp recs 16 ≤ b.length) && decide (b.length % 16 = 0)
            else b.length == recs)

/-- The framing of the section at `off`, whose type must lie above `last`: a failure, or the type and where the next begins. -/
def checkSect (img : List Byte) (last off : Nat) : Except Bad (Nat × Nat) :=
  let t := num img off 2
  let len := num img (off + 8) 8
  let body := slice img (off + 16) (min len img.length)
  match firstFail
      [(decide (off + 16 ≤ img.length), .length),
       ((t == 0xFF || (sectLimits t).isSome) && decide (last < t), .format),
       (zeros img (off + 2) (off + 8), .format),
       (decide (off + 16 + roundUp len 16 ≤ img.length), .length),
       (zeros img (off + 16 + len) (off + 16 + roundUp len 16), .format),
       (t == 0xFF || zeros body 8 16, .format),
       (countsOk t body, .length)] with
  | some x => .error (x, t, 0)
  | none => .ok (t, off + 16 + roundUp len 16)

/-- Walks the sections from `off` on: a failure, or the types found. -/
def walkSects (img : List Byte) : Nat → Nat → Nat → Except Bad (List Nat)
  | 0, _, _ => .ok []
  | n + 1, last, off =>
    if off = img.length then .ok []
    else match checkSect img last off with
      | .error e => .error e
      | .ok (t, next) => (walkSects img n t next).map (t :: ·)

/-- Check 5 of R267. -/
def checkFraming (img : List Byte) : Option Bad :=
  match walkSects img 14 0 256 with
  | .error e => some e
  | .ok ts => (firstFail [(ts.length == num img 12 4, .length), ([1, 2, 3, 7].all ts.contains, .format)]).map fun x => (x, 0, 0)

/-- Does the image carry a SIGN section? -/
def signedImg (img : List Byte) : Bool := (sectionsOf img).any fun x => x.type == 0xFF
/-- Where the SIGN section begins, or the end. -/
def signOff (img : List Byte) : Nat := match (sectionsOf img).find? fun x => x.type == 0xFF with | some x => x.off | none => img.length

/-- Check 6: BODY_DIGEST. -/
def digestOk (img : List Byte) : Bool := slice img 88 64 == shake256 ((img.take (signOff img)).drop 256) 64

/-- Check 7: the table of R265, under the owner key and REQSIGN that stood when LOAD_IMAGE began (R542). -/
def signOk (s : State) (img : List Byte) : Bool :=
  let r := ((s.hop.realms.find? fun p => p.1 == imgRealm img).map (·.2)).getD (realmOf s (imgRealm img))
  match r.owner, signedImg img with
  | none, x => !x
  | some _, false => !r.reqsign
  | some key, true => edVerify key "YKLI-OWNER" (img.take (signOff img)) (slice (sectBody img 0xFF) 0 114)

/-- Does a slot that is not FREE hold an image on region `r` (R266)? -/
def heldRegion (s : State) (r : Nat) : Bool := s.hop.slots.any fun p => p.2.st ≠ .free && bit p.2.regions r

/-- Checks 8 to 11. -/
def checkPlace (s : State) (img : List Byte) : Option Code :=
  let us := usedRegions img
  let k := imgRealm img
  let shapeBad := us.findSome? fun r => match (regionOf s r).org.shape with
    | .unknown => some Code.busy
    | .lost => some .lost
    | .short => if shapeByte img r = 1 then some .capacity else none
    | .full => none
  match firstFail
      [((realmOf s k).present && us.all fun r => decide ((regionOf s r).org.realm.map (·.val) = some k) && !heldRegion s r, .state),
       (us.all fun r => !(regionOf s r).org.fenced, .fenced),
       (decide (grade s ≤ num img 7 1), .capacity)] with
  | some x => some x
  | none => shapeBad

/-! ### Mills (R251, R33-R35) -/

/-- A MILL record. -/
structure MillRec where
  id : Nat
  parent : Nat
  flags : Nat
  region : Nat
  x0 : Nat
  y0 : Nat
  w : Nat
  h : Nat
deriving DecidableEq, Repr

/-- Reads a MILL record. -/
def millRec (b : List Byte) : MillRec :=
  { id := num b 0 2, parent := num b 2 2, flags := num b 4 1, region := num b 5 1, x0 := num b 6 1, y0 := num b 7 1
    w := num b 8 1, h := num b 9 1 }

/-- The mills of an image. -/
def millRecs (img : List Byte) : List MillRec := (records (sectBody img 1) 32).map millRec
/-- Is it a compound mill? -/
def MillRec.compound (m : MillRec) : Bool := m.flags % 2 == 1
/-- Is it a step owner? -/
def MillRec.owner (m : MillRec) : Bool := m.flags / 2 % 2 == 1
/-- Is core `c` in the leaf's rectangle? -/
def MillRec.holds (m : MillRec) (c : Nat) : Bool :=
  !m.compound && decide (m.region = c / 256) && decide (m.x0 ≤ c % 16) && decide (c % 16 < m.x0 + m.w)
    && decide (m.y0 ≤ c / 16 % 16) && decide (c / 16 % 16 < m.y0 + m.h)
/-- Do two leaves share a core? -/
def MillRec.meets (a b : MillRec) : Bool :=
  !a.compound && !b.compound && a.region == b.region && touch (a.x0, a.w) (b.x0, b.w) && touch (a.y0, a.h) (b.y0, b.h)

/-- The declared mill of an ID. -/
def millIn (ms : List MillRec) (k : Nat) : Option MillRec := ms.find? fun m => m.id == k
/-- A mill and its ancestors, at most `n`. -/
def chainIn (ms : List MillRec) : Nat → Nat → List MillRec
  | 0, _ => []
  | n + 1, k => match millIn ms k with
    | none => []
    | some m => if m.parent = k then [m] else m :: chainIn ms n m.parent
/-- A mill and its ancestors. -/
def ancestors (ms : List MillRec) (k : Nat) : List MillRec := chainIn ms (ms.length + 1) k

/-- The checks of one MILL record. -/
def checkMill (s : State) (img : List Byte) (ms : List MillRec) (i : Nat) (b : List Byte) : Option Code :=
  let m := millRec b
  let up := ancestors ms m.id
  let os := up.filter (·.owner)
  firstFail
    [(zeros b 10 32 && decide (m.flags < 4) && decide (m.id < 4096), .format),
     ((ms.take i).all fun x => decide (x.id < m.id), .format),
     (if m.compound then zeros b 5 10 else usedIn img m.region, .format),
     (m.compound || (decide (1 ≤ m.w) && decide (m.w ≤ 16) && decide (1 ≤ m.h) && decide (m.h ≤ 16)
        && decide (m.x0 + m.w ≤ 16) && decide (m.y0 + m.h ≤ 16)), .length),
     (m.compound || decide (m.y0 + m.h ≤ 15) || decide ((regionOf s m.region).org.shape = .full), .capacity),
     (m.compound || decide (m.y0 + m.h ≤ 15) || shapeByte img m.region == 1, .format),
     (match millIn ms m.parent with | some p => p.compound || p.id == m.id | none => false, .format),
     (!m.compound || ms.any fun x => x.parent == m.id && x.id != m.id, .format),
     (match up.getLast? with | some x => x.parent == x.id | none => false, .format),
     (if m.compound then !m.owner || os.length == 1 else os.length == 1, .format),
     ((ms.take i).all fun x => !x.meets m, .format)]

/-- The leaf of the image that holds a core. -/
def leafIn (ms : List MillRec) (c : Nat) : Option MillRec := if c < 16384 then ms.find? fun m => m.holds c else none
/-- The step owner of a core in the image. -/
def ownerIn (ms : List MillRec) (c : Nat) : Option MillRec :=
  (leafIn ms c).bind fun m => (ancestors ms m.id).find? (·.owner)
/-- The cores of the leaves of the image, ascending. -/
def imgCores (ms : List MillRec) : List Nat :=
  sortNat (ms.flatMap fun m => if m.compound then [] else
    (List.range m.h).flatMap fun j => (List.range m.w).map fun i => m.region * 256 + (m.y0 + j) * 16 + m.x0 + i)
/-- The cores under a step owner. -/
def ownerCores (ms : List MillRec) (k : Nat) : List Nat :=
  (imgCores ms).filter fun c => (ownerIn ms c).map (·.id) == some k
/-- Is the mill a declared step owner? -/
def isOwner (ms : List MillRec) (k : Nat) : Bool := (millIn ms k).any (·.owner)
/-- The anchors of a mill of the image (R287). -/
def anchorsIn (img : List Byte) (ms : List MillRec) (k : Nat) : List Nat :=
  (usedRegions img).filterMap fun r => (ownerCores ms k).find? fun c => c / 256 == r
/-- Does a record name a core that R250 admits? -/
def coreIn (ms : List MillRec) (c : Nat) : Bool := (leafIn ms c).isSome

/-! ### MEMPLAN and CODE (R252, R253) -/

/-- The core records of MEMPLAN. -/
def planCores (img : List Byte) : List (List Byte) := records (sectBody img 2) 8
/-- The slice records of MEMPLAN. -/
def planSlices (img : List Byte) : List (List Byte) :=
  let b := sectBody img 2
  recordsAt b (16 + 8 * count0 b) 8 (count1 b)
/-- Weight boundary of a core, in units of 64 KiB. -/
def boundaryIn (img : List Byte) (c : Nat) : Nat :=
  match (planCores img).find? fun b => num b 0 2 == c with | some b => num b 2 2 | none => 0
/-- Slice of a step owner, in units of 64 KiB. -/
def sliceIn (img : List Byte) (k : Nat) : Nat :=
  match (planSlices img).find? fun b => num b 0 2 == k with | some b => num b 2 2 | none => 0

/-- Check 12 for MEMPLAN. -/
def checkPlan (img : List Byte) (ms : List MillRec) : Option Bad :=
  let cs := planCores img
  let sl := planSlices img
  firstBad
    [checkRecs 2 0 cs fun i b => firstFail
       [(zeros b 4 8 && coreIn ms (num b 0 2) && !repeated (fun x => num x 0 2) cs i b, .format),
        (decide (num b 2 2 ≤ 4096), .length)],
     if (imgCores ms).all fun c => cs.any fun b => num b 0 2 == c then none else some (.format, 2, 0),
     checkRecs 2 cs.length sl fun i b =>
       let k := num b 0 2
       let z := num b 2 2
       let os := ownerCores ms k
       firstFail
         [(zeros b 4 8 && isOwner ms k && !repeated (fun x => num x 0 2) sl i b, .format),
          (decide (z ≤ 1024) && os.all fun c => decide (z + boundaryIn img c ≤ 4096) || z == 0, .length),
          (decide (z * os.length ≤ 16128), .capacity)]]

/-- Are all bits of a slot 0 but the OP and the fields listed, by first bit and width? -/
def onlyBits (w : Nat) (fs : List (Nat × Nat)) : Bool :=
  decide (w % 2 ^ 32 = fs.foldl (fun t f => t + at_ f.1 (fld w f.1 f.2)) (w % 64))

/-- Is the value field of `n` bits at `lo` of a REGV form a register (R212)? -/
def regvOk (w regv lo n : Nat) : Bool := decide (fld w regv 1 = 0) || decide (fld w lo n < 32)

/-- The FORMAT checks of slot 0 (R207, R208, R233) in a program of `L` bundles. -/
def slot0Ok (L w : Nat) : Bool :=
  let target := decide (fld w 16 12 < L)
  match fld w 0 6 with
  | 0x00 | 0x04 | 0x06 | 0x07 => onlyBits w []
  | 0x01 => onlyBits w [(6, 3), (9, 5), (16, 12)] && decide (fld w 6 3 ≤ 4) && target
  | 0x02 => onlyBits w [(9, 5), (16, 12)] && target
  | 0x03 => onlyBits w [(16, 12)] && target
  | 0x05 => onlyBits w [(6, 9)]
  | 0x08 => onlyBits w [(6, 5), (11, 21)]
  | 0x09 => onlyBits w [(6, 5), (11, 2), (16, 16)]
  | 0x0A => onlyBits w [(6, 5), (11, 5), (16, 5), (21, 4)] && decide (fld w 21 4 ≤ 0xC)
  | 0x0B => onlyBits w [(6, 5), (11, 5), (16, 16)]
  | 0x0C => onlyBits w [(6, 5), (11, 5), (16, 6), (22, 6)] && decide (fld w 16 6 + fld w 22 6 ≤ 63)
  | 0x0D | 0x0E => onlyBits w [(6, 5), (11, 6), (17, 5)]
  | 0x0F => onlyBits w [(6, 5), (11, 5)] && decide (fld w 11 5 ≤ 0x15)
  | _ => false

/-- The FORMAT checks of slots 1 and 2 (R210). -/
def slot1Ok (w : Nat) : Bool :=
  let op := fld w 0 6
  if op = 0 then onlyBits w []
  else if 0x11 ≤ op ∧ op ≤ 0x18 then onlyBits w [(6, 3)]
  else if op = 0x20 then onlyBits w [(6, 6), (12, 4)]
  else if op = 0x21 then onlyBits w [(6, 4), (10, 4)]
  else decide (op = 0x22) && onlyBits w [(6, 4)]

/-- The FORMAT checks of slot 3 (R212, R213). -/
def slot3Ok (w : Nat) : Bool :=
  match fld w 0 6 with
  | 0x0 => onlyBits w []
  | 0x1 => onlyBits w [(6, 18)] && decide (fld w 6 16 ≠ 0)
  | 0x2 => onlyBits w [(6, 22)] && regvOk w 10 11 16
  | 0x3 => onlyBits w [(6, 4)]
  | 0x4 => onlyBits w [(6, 26)] && regvOk w 14 15 16
  | 0x5 | 0x6 => onlyBits w [(6, 10)]
  | 0x7 => onlyBits w [(6, 7)]
  | 0x8 | 0x9 => onlyBits w [(6, 11)] && regvOk w 6 7 10
  | _ => false

/-- Is an immediate count of slot 3 away from its all-ones value (R213)? -/
def slot3Len (w : Nat) : Bool :=
  match fld w 0 6 with
  | 0x2 => decide (fld w 10 1 = 1) || decide (fld w 11 16 ≠ 0xFFFF)
  | 0x4 => decide (fld w 14 1 = 1) || decide (fld w 15 16 ≠ 0xFFFF)
  | 0x8 | 0x9 => decide (fld w 6 1 = 1) || decide (fld w 7 10 ≠ 0x3FF)
  | _ => true

/-- The check of one bundle (R233). -/
def checkBundle (L : Nat) (b : List Byte) : Option Code :=
  let w := fun i => num b (4 * i) 4
  let op := fld (w 0) 0 6
  let alone := !(op == 6 || op == 7) || (w 1 == 0 && w 2 == 0 && w 3 == 0)
  firstFail [(slot0Ok L (w 0) && slot1Ok (w 1) && slot1Ok (w 2) && slot3Ok (w 3) && alone, .format), (slot3Len (w 3), .length)]

/-- The program records of CODE. -/
def progRecs (img : List Byte) : List (List Byte) := records (sectBody img 3) 16
/-- The map entries of CODE. -/
def mapRecs (img : List Byte) : List (List Byte) :=
  let b := sectBody img 3
  recordsAt b (16 + 16 * count0 b) 4 (count1 b)
/-- Where the program area begins. -/
def areaOff (b : List Byte) : Nat := roundUp (16 + 16 * count0 b + 4 * count1 b) 16
/-- The bundles of a program record, as bytes. -/
def progBytes (img r : List Byte) : List Byte := slice (sectBody img 3) (num r 0 4 * 16) (num r 4 2 * 16)
/-- The program record of a core. -/
def progOf (img : List Byte) (c : Nat) : Option (List Byte) :=
  ((mapRecs img).find? fun b => num b 0 2 == c).bind fun b => (progRecs img)[num b 2 2]?
/-- Program length of a core. -/
def progLen (img : List Byte) (c : Nat) : Nat := match progOf img c with | some r => num r 4 2 | none => 0

/-- Check 12 for CODE. -/
def checkCode (img : List Byte) (ms : List MillRec) : Option Bad :=
  let b := sectBody img 3
  let ps := progRecs img
  let es := mapRecs img
  let lo := 16 + 16 * count0 b + 4 * count1 b
  let stray := (List.range (b.length - lo)).any fun i =>
    !zeros b (lo + i) (lo + i + 1) && !ps.any fun r => decide (num r 0 4 * 16 ≤ lo + i) && decide (lo + i < num r 0 4 * 16 + num r 4 2 * 16)
  firstBad
    [checkRecs 3 0 ps fun _ r =>
       let n := num r 4 2
       match firstFail
         [(zeros r 6 16, .format),
          (decide (n ≤ 4096) && (n == 0 || (decide (areaOff b ≤ num r 0 4 * 16) && decide (num r 0 4 * 16 + 16 * n ≤ b.length))), .length)] with
       | some x => some x
       | none => (List.range n).findSome? fun i => checkBundle n (slice (progBytes img r) (16 * i) 16),
     checkRecs 3 ps.length es fun i e => firstFail
       [(coreIn ms (num e 0 2) && !repeated (fun x => num x 0 2) es i e && decide (num e 2 2 < ps.length), .format)],
     if (imgCores ms).all fun c => es.any fun e => num e 0 2 == c then none else some (.format, 3, 0),
     if stray then some (.format, 3, 0) else none]

/-! ### Installing -/

/-- The FLUME ranges of a step owner. -/
def flumesIn (img : List Byte) (k : Nat) : List FlumeRange :=
  ((records (sectBody img 9) 32).filter fun b => num b 0 2 == k).map fun b =>
    { rd := num b 2 1 % 2 == 1, wr := num b 2 1 / 2 % 2 == 1, base := num b 8 8, len := num b 16 8 }

/-- The mills that XACT lists. -/
def xactIn (img : List Byte) : List Nat :=
  let b := sectBody img 0xB
  (recordsAt b 16 2 (count0 b)).map fun x => num x 0 2

/-- The mill-table entry of a record: a step owner reads STATE FENCED until the slot is LOADED, and MIL_FENCE its value from image load (R266, R499). -/
def millEntry (img : List Byte) (ms : List MillRec) (n : Nat) (m : MillRec) : Mill :=
  { st := if m.owner then .fenced else .idle
    limit := 100
    cfg := { compound := m.compound, owner := m.owner, xact := (ancestors ms m.id).any fun a => (xactIn img).contains a.id
             parent := m.parent, realm := imgRealm img, slot := n, region := m.region, x0 := m.x0, y0 := m.y0, w := m.w, h := m.h
             csm := sliceIn img m.id * 65536, flumes := flumesIn img m.id } }

/-- Writes the mill-table entries. -/
def installMills (s : State) (n : Nat) (img : List Byte) : State :=
  let ms := millRecs img
  ms.foldl (fun s m => updMill s m.id fun _ => millEntry img ms n m) s

/-- The entry words of a HANDLE or WINDOW record. -/
def entryWords (b : List Byte) : Word × Word := (BitVec.ofNat 64 (num b 16 8), BitVec.ofNat 64 (num b 24 8))

/-- Installs one HANDLE record. -/
def installHandle (s : State) (b : List Byte) : State :=
  updCore s (num b 0 2) fun k =>
    { k with handles := Tbl.set {} k.handles (num b 2 1) { w0 := (entryWords b).1, w1 := (entryWords b).2 } }
/-- Opens the window of one WINDOW record. -/
def installWindow (s : State) (b : List Byte) : State :=
  updCore s (num b 0 2) fun k =>
    { k with windows := Tbl.set {} k.windows (num b 2 1) { opened := true, w0 := (entryWords b).1, w1 := (entryWords b).2 } }

/-- Window 15 of a core under a step owner with a slice (R141). The manual opens it over the slice by name of no handle; the
model keeps it open with SRCMILL, DIR READWRITE, MODE PLAIN and EPOCH 0 (DESIGN CHOICE, log entry 45). -/
def slice15 (k : Nat) : Window :=
  { opened := true, w1 := BitVec.ofNat 64 (k + at_ 12 3) }

/-- Check 12 for HANDLE and WINDOW: each record is checked as its instruction would be, after those before it. -/
def checkEntries (s : State) (img : List Byte) (ms : List MillRec) : Option Bad :=
  let hs := records (sectBody img 4) 32
  let ws := records (sectBody img 5) 32
  let go := fun (t lim : Nat) (f : State → List Byte → Option Code) (put : State → List Byte → State) (recs : List (List Byte))
      (acc : State) =>
    recs.zipIdx.foldl (fun (st : State × Option Bad) p =>
      match st.2 with
      | some _ => st
      | none =>
        match firstFail [(zeros p.1 3 16 && coreIn ms (num p.1 0 2), .format), (decide (num p.1 2 1 ≤ lim), .length),
                         (!repeated (fun x => (num x 0 2, num x 2 1)) recs p.2 p.1, .format)] with
        | some x => (st.1, some (x, t, p.2))
        | none => match f st.1 p.1 with
          | some x => (st.1, some (x, t, p.2))
          | none => (put st.1 p.1, none)) (acc, none)
  match go 4 63 (fun s b => checkHandle s (num b 0 2) (num b 2 1) { w0 := (entryWords b).1, w1 := (entryWords b).2 })
      installHandle hs s with
  | (_, some e) => some e
  | (s, none) =>
    (go 5 15 (fun s b => checkWindow s (num b 0 2) (num b 2 1) { opened := true, w0 := (entryWords b).1, w1 := (entryWords b).2 })
      installWindow ws s).2

/-! ### ROUTE, POWER, SPILL, FLUME, SERVE, XACT, MANIFEST (R256-R262) -/

/-- Regions on the grid from `a` to `b`, the grid column first. -/
def gridXY (a b : Nat) : List Nat :=
  (walk (a % 8) (b % 8)).map (fun x => a / 8 * 8 + x) ++ ((walk (a / 8) (b / 8)).drop 1).map fun y => y * 8 + b % 8
/-- The same, the grid row first. -/
def gridYX (a b : Nat) : List Nat :=
  (walk (a / 8) (b / 8)).map (fun y => y * 8 + a % 8) ++ ((walk (a % 8) (b % 8)).drop 1).map fun x => b / 8 * 8 + x
/-- The intermediate regions of a route (R170, R171). -/
def between (a b mode wp : Nat) : List Nat :=
  (if mode = 0 then [] else if mode = 2 then gridYX a b else if mode = 4 then gridXY a wp ++ gridXY wp b else gridXY a b).filter
    fun r => r ≠ a && r ≠ b

/-- One mode and waypoint of a ROUTE record. -/
def checkRoute (s : State) (k a b mode wp : Nat) : Option Code :=
  let lost := decide ((regionOf s b).org.shape = .lost)
  let mine := decide ((regionOf s b).org.realm.map (·.val) = some k)
  if lost && mine then none
  else firstFail
    [(decide (mode ≤ 4) && (mode == 4 || wp == 0) && decide (wp < 64), .format),
     (mode == 0 || mine, .format),
     ((between a b mode wp).all fun r => vddnOn s r, .lost),
     (mode ≠ 4 || (regionOf s wp).race.hub, .lost)]

/-- Check 12 for ROUTE. -/
def checkRoutes (s : State) (img : List Byte) : Option Bad :=
  let rs := records (sectBody img 6) 8
  checkRecs 6 0 rs fun i b =>
    match firstFail
      [(zeros b 6 8 && usedIn img (num b 0 1), .format), (decide (num b 1 1 < 64), .length),
       (num b 0 1 != num b 1 1 && !repeated (fun x => num x 0 2) rs i b, .format)] with
    | some x => some x
    | none => (checkRoute s (imgRealm img) (num b 0 1) (num b 1 1) (num b 2 1) (num b 3 1)).or
        (checkRoute s (imgRealm img) (num b 0 1) (num b 1 1) (num b 4 1) (num b 5 1))

/-- The core records of POWER. -/
def powerCores (img : List Byte) : List (List Byte) := records (sectBody img 7) 4
/-- The region records of POWER. -/
def powerRegions (img : List Byte) : List (List Byte) :=
  let b := sectBody img 7
  recordsAt b (16 + 4 * count0 b) 8 (count1 b)
/-- Static share of a core. -/
def shareIn (img : List Byte) (c : Nat) : Nat :=
  match (powerCores img).find? fun b => num b 0 2 == c with | some b => num b 2 2 | none => 0
/-- Float of a region. -/
def floatIn (img : List Byte) (r : Nat) : Nat :=
  match (powerRegions img).find? fun b => num b 0 1 == r with | some b => num b 4 4 | none => 0

/-- Check 12 for POWER. The sum of a region beyond 4,096 counts against the record that brings it there (R278). -/
def checkPower (img : List Byte) (ms : List MillRec) : Option Bad :=
  let cs := powerCores img
  let gs := powerRegions img
  let shares := fun (bs : List (List Byte)) r => (bs.filter fun b => num b 0 2 / 256 == r).foldl (fun t b => t + num b 2 2) 0
  firstBad
    [checkRecs 7 0 cs fun i b => firstFail
       [(coreIn ms (num b 0 2) && !repeated (fun x => num x 0 2) cs i b, .format),
        (decide (num b 2 2 ≤ 1022) && decide (shares (cs.take (i + 1)) (num b 0 2 / 256) ≤ 4096), .length)],
     checkRecs 7 cs.length gs fun i b => firstFail
       [(zeros b 1 4 && usedIn img (num b 0 1) && !repeated (fun x => num x 0 1) gs i b, .format),
        (decide (num b 4 4 + shares cs (num b 0 1) ≤ 4096), .length)]]

/-- The extent of a stored tensor judged before its weights are there (R258): first byte and length. -/
def spillExtent (b : List Byte) : Nat × Nat :=
  let rows := num b 8 4
  (num b 4 4 * 16, bodyBytes 3 rows (num b 12 4) + (if num b 16 2 = 0 then 0 else rows * sideBytes (num b 16 2)))

/-- Check 12 for SPILL. -/
def checkSpill (img : List Byte) (ms : List MillRec) : Option Bad :=
  let rs := records (sectBody img 8) 32
  checkRecs 8 0 rs fun i b =>
    let x := spillExtent b
    firstFail
      [(zeros b 2 4 && zeros b 18 32 && coreIn ms (num b 0 2), .format),
       (decide (1 ≤ num b 8 4) && decide (num b 8 4 ≤ 16777215) && decide (1 ≤ num b 12 4) && decide (num b 12 4 ≤ 524288)
          && decide (num b 16 2 ≤ 1024), .length),
       (decide (x.1 + x.2 ≤ boundaryIn img (num b 0 2) * 65536)
          && (rs.take i).all fun y => num y 0 2 != num b 0 2 || !touch (spillExtent y) x, .length)]

/-- The zones that a Snowpack range reaches. -/
def zonesOf (base len : Nat) : List Nat :=
  (List.range 32).filter fun z => touch (z * zoneSize, zoneSize) (base, len) || (z == 31 && decide (32 * zoneSize ≤ base))

/-- Check 12 for FLUME (R259, R402). -/
def checkFlumes (s : State) (img : List Byte) (ms : List MillRec) : Option Bad :=
  checkRecs 9 0 (records (sectBody img 9) 32) fun _ b =>
    let base := num b 8 8
    let len := num b 16 8
    firstFail
      [(zeros b 4 8 && zeros b 24 32 && isOwner ms (num b 0 2) && decide (1 ≤ num b 2 1) && decide (num b 2 1 ≤ 3)
          && decide (num b 3 1 ≤ 1), .format),
       (decide (base % 65536 = 0) && decide (len % 65536 = 0) && decide (len ≠ 0), .length),
       ((zonesOf base len).all fun z => (decide (z < 31) && s.snow.zmap.getLsbD z) == decide (num b 3 1 = 1), .format)]

/-- The serving-mill records of SERVE as bytes. -/
def serveBytes (img : List Byte) : List (List Byte) := records (sectBody img 0xA) 32
/-- The class records of SERVE as bytes. -/
def classBytes (img : List Byte) : List (List Byte) :=
  let b := sectBody img 0xA
  recordsAt b (16 + 32 * count0 b) 32 (count1 b)

/-- Check 12 for SERVE (R260). LTWIN is a reference to a window, which a WINDOW record must declare on every anchor (R267; log entry 96). -/
def checkServe (img : List Byte) (ms : List MillRec) : Option Bad :=
  let rs := serveBytes img
  let cs := classBytes img
  let role := fun k r => (serveRecs img).any fun x => x.mill == k && x.role == r
  let draftOf := fun k => ((serveRecs img).find? fun x => x.mill == k).any fun x => x.draftMill != k
  let unitOf := fun k => ((serveRecs img).find? fun x => x.mill == k).map (·.unit)
  firstBad
    [checkRecs 0xA 0 rs fun i b =>
       let r := serveRec b
       firstFail
         [(zeros b 15 32 && isOwner ms r.mill && !repeated (fun x => num x 0 2) rs i b && decide (r.role ≤ 2), .format),
          (decide (r.unit ≤ 3) && decide (1 ≤ r.maxbatch) && decide (r.maxbatch ≤ 256), .length),
          (r.draftMill == r.mill || (r.role == 0 && role r.draftMill 1), .format),
          (decide (14 < r.ltwin) || (anchorsIn img ms r.mill).all fun c =>
            (records (sectBody img 5) 32).any fun w => num w 0 2 == c && num w 2 1 == r.ltwin, .format),
          ((ownerCores ms r.mill).all (fun c => let n := progLen img c
             decide (r.entries.1 < n) && decide (r.entries.2.1 < n) && decide (r.entries.2.2 < n)) && decide (r.ltwin ≤ 14), .length)],
     checkRecs 0xA rs.length cs fun i b =>
       let k := classRec b
       let len := decide (k.cls ≤ 63) && decide (k.prio ≤ 7)
         && (if k.draft = 0 then k.draftlen == 0 && k.holdN == 0 && k.holdM == 0
             else decide (1 ≤ k.draftlen) && decide (k.draftlen ≤ (if k.draft = 1 then 16 else 64)) && decide (1 ≤ k.holdN)
               && decide (1 ≤ k.holdM))
         && decide (1 ≤ k.maxlen) && decide (k.maxlen ≤ 0xFFFFFFFE)
       firstFail
         [(zeros b 7 8 && zeros b 26 32 && !repeated (fun x => num x 0 1) cs i b && decide (k.onfull ≤ 2) && decide (k.onend ≤ 1)
             && decide (k.parkmode ≤ 2) && decide (k.draft ≤ 2), .format),
          (len, .length),
          (role k.serveMill 0
             && (k.parkmode == 0 || (serveRecs img).any fun x => x.role == 2 && some x.unit == unitOf k.serveMill)
             && (k.draft == 0 || draftOf k.serveMill), .format)]]

/-- Check 12 for XACT (R261). -/
def checkXact (img : List Byte) (ms : List MillRec) : Option Bad :=
  let b := sectBody img 0xB
  let rs := recordsAt b 16 2 (count0 b)
  firstBad
    [checkRecs 0xB 0 rs fun _ x => firstFail [((millIn ms (num x 0 2)).isSome, .format)],
     if zeros b (16 + 2 * count0 b) b.length then none else some (.format, 0xB, 0)]

/-- A record of MANIFEST (R262). -/
structure Shard where
  core : Nat
  kind : Nat
  source : Nat
  off : Nat
  size : Nat
  id : List Byte
  digest : List Byte
deriving DecidableEq, Repr

/-- Reads a MANIFEST record. -/
def shardRec (b : List Byte) : Shard :=
  { core := num b 0 2, kind := num b 2 1, source := num b 3 1, off := num b 8 8, size := num b 16 8, id := slice b 24 16
    digest := slice b 40 64 }
/-- The shards of an image. -/
def shardsOf (img : List Byte) : List Shard := (records (sectBody img 0xC) 112).map shardRec
/-- Do two shards share a byte? -/
def Shard.meets (x y : Shard) : Bool :=
  x.kind == y.kind && (x.kind == 1 || x.core == y.core) && touch (x.off, x.size) (y.off, y.size)

/-- Check 12 for MANIFEST. -/
def checkManifest (img : List Byte) (ms : List MillRec) : Option Bad :=
  let rs := records (sectBody img 0xC) 112
  let readable := fun (x : Shard) => (records (sectBody img 9) 32).any fun b =>
    num b 2 1 % 2 == 1 && decide (num b 8 8 ≤ x.off) && decide (x.off + x.size ≤ num b 8 8 + num b 16 8)
  checkRecs 0xC 0 rs fun i b =>
    let x := shardRec b
    firstFail
      [(zeros b 4 8 && zeros b 104 112 && decide (x.kind ≤ 1) && decide (x.source ≤ 1)
          && (if x.kind = 0 then coreIn ms x.core else x.core == 0), .format),
       (decide (x.off % 64 = 0) && decide (x.size % 64 = 0), .length),
       (x.size == 0 || (if x.kind = 0 then decide (x.off + x.size ≤ boundaryIn img x.core * 65536) else readable x), .length),
       (x.size == 0 || (rs.take i).all fun y => !(shardRec y).meets x, .length)]

/-- Boundaries, which the checks of HANDLE need, on the scratch state. -/
def installBounds (s : State) (img : List Byte) : State :=
  (imgCores (millRecs img)).foldl (fun s c => updCore s c fun k => { cnt := k.cnt, boundary := boundaryIn img c }) s

/-- Check 12 of R267: section contents, in TYPE order. -/
def checkContents (s : State) (img : List Byte) (n : Nat) : Option Bad :=
  let ms := millRecs img
  firstBad
    [checkRecs 1 0 (records (sectBody img 1) 32) (checkMill s img ms),
     checkPlan img ms, checkCode img ms,
     checkEntries (installBounds (installMills s n img) img) img ms,
     checkRoutes s img, checkPower img ms, checkSpill img ms, checkFlumes s img ms, checkServe img ms, checkXact img ms,
     checkManifest img ms,
     if zeros (sectBody img 0xFF) 114 128 then none else some (.format, 0xFF, 0)]

/-- Check 13: free mill-table entries, room in the Hopper store (R272), FLUME ranges within the allocation. -/
def checkRoom (s : State) (img : List Byte) : Option Bad :=
  let rs := (realmOf s (imgRealm img)).ranges
  let used := s.hop.slots.foldl (fun t p => t + p.2.image.length) 0
  firstBad
    [checkRecs 1 0 (records (sectBody img 1) 32) fun _ b => firstFail [(decide ((millOf s (num b 0 2)).st = .unused), .capacity)],
     if used + img.length ≤ 2 ^ 32 then none else some (.capacity, 0, 0),
     checkRecs 9 0 (records (sectBody img 9) 32) fun _ b => firstFail
       [(coveredBy rs (rs.length + 1) (num b 8 8) (num b 8 8 + num b 16 8), .capacity)]]

/-- All checks of R267 for a slot `n`, in order. -/
def checkImage (s : State) (img : List Byte) (len n : Nat) : Option Bad :=
  let bare := fun (x : Option Code) => x.map fun c => ((c, 0, 0) : Bad)
  firstBad
    [bare (checkHeader img len), checkFraming img,
     bare (firstFail [(digestOk img, .auth)]), if signOk s img then none else some (.auth, if signedImg img then 0xFF else 0, 0),
     bare (checkPlace s img), checkContents s img n, checkRoom s img]

/-! ### Distribution (R270) -/

/-- The route entries of planes A and K of a used region (R256, R171, R193). -/
def routeIn (s : State) (img : List Byte) (a b : Nat) (plane : Nat) : Route :=
  let x := regionOf s b
  if x.org.realm.map (·.val) ≠ some (imgRealm img) ∨ x.org.shape = .lost then {}
  else match (records (sectBody img 6) 8).find? fun r => num r 0 1 == a && num r 1 1 == b with
    | some r => { mode := num r (2 + 2 * plane) 1, waypoint := num r (3 + 2 * plane) 1 }
    | none => { mode := 1 }

/-- Writes the plane-A and plane-K entries of region `a` (R256). -/
def installRoutes (s : State) (img : List Byte) (a : Nat) : State :=
  updRegion s a fun x =>
    { x with race := { x.race with routes := (List.range 64).foldl (fun t b =>
        if b = a then t
        else Tbl.set {} (Tbl.set {} t (4 * b) (routeIn s img a b 0)) (4 * b + 1) (routeIn s img a b 1)) x.race.routes } }

/-- Zeros over the memories of core `c`: its stack from `lo` on, activation and partial-sum memory, operand buffers, program
memory; poison there is gone. -/
def zeroCore (s : State) (c lo : Nat) : State :=
  let s := zeroBytes s (coreAddr c 0 lo) (2 ^ 28 - lo)
  let s := zeroBytes s (coreAddr c 1 0) (spaceSize 1)
  let s := zeroBytes s (coreAddr c 2 0) (spaceSize 2)
  let s := zeroBytes s (coreAddr c 4 0) (spaceSize 4)
  { s with prog := Memory.zero s.prog (progAddr c) 65536
           poison := s.poison.filter fun b => decide (b < coreAddr c 0 lo) || decide (coreAddr c 0 (2 ^ 28) ≤ b) }

/-- Writes core `c`'s program. -/
def installProgram (s : State) (img : List Byte) (c : Nat) : State :=
  match progOf img c with
  | none => s
  | some r => { s with prog := Memory.put s.prog (progAddr c) (progBytes img r) }

/-- Writes the handle and window tables of core `c`, window 15 included (R270); they are also the copy of R148. -/
def installTables (img : List Byte) (s : State) (c : Nat) : State :=
  let s := updCore s c fun k => { k with handles := [], windows := [] }
  let s := ((records (sectBody img 4) 32).filter fun b => num b 0 2 == c).foldl installHandle s
  let s := ((records (sectBody img 5) 32).filter fun b => num b 0 2 == c).foldl installWindow s
  let s := match ownerIn (millRecs img) c with
    | some m => if sliceIn img m.id = 0 then s
        else updCore s c fun k => { k with windows := Tbl.set {} k.windows 15 (slice15 m.id) }
    | none => s
  updCore s c fun k => { k with copy := { handles := k.handles, windows := k.windows }, blank := false }

/-- Writes everything that core `c` receives (R270, R132). -/
def installCore (img : List Byte) (s : State) (c : Nat) : State :=
  let s := installProgram (zeroCore s c (boundaryIn img c * 65536)) img c
  let s := updCore s c fun _ =>
    { boundary := boundaryIn img c, len := progLen img c, share := shareIn img c
      csm := match ownerIn (millRecs img) c with | some m => sliceIn img m.id | none => 0 }
  installTables img s c

/-- Records of non-zero SIZE not yet loaded (R279). -/
def shardsLeft (x : Slot) : List Nat :=
  ((shardsOf x.image).zipIdx.filter fun p => p.1.size ≠ 0 && !x.loaded.contains p.2).map (·.2)

/-- The slot becomes LOADED: its mills are IDLE unless another fence covers them (R266); a tier 4 recovery ends (R484, R510). -/
def slotLoaded (s : State) (n : Nat) : State :=
  let s := (slotOf s n).reloading.foldl (fun s m =>
    logRec s { code := .ok, cls := .tier, origin := .miller, mill := some m }) s
  let again := (slotOf s n).resume
  let s := updSlot s n fun x => { x with st := .loaded, reloading := [], resume := [] }
  let s := ((owners s).filter fun m => (millOf s m).cfg.slot = n).foldl (fun s m =>
    tryLift (updMill s m fun k => { k with f := 0 }) m) s
  refresh (again.foldl (fun s m => if (millOf s m).st = .idle then startAgain s m else s) s)

/-- The mask of the regions of an image. -/
def regionMask (img : List Byte) : BitVec 64 := BitVec.ofNat 64 ((usedRegions img).foldl (fun t r => t + 2 ^ r) 0)

/-- A slot that holds an image, from the checks of R267 on (R279). -/
def imgSlot (img : List Byte) : Slot :=
  { st := .loading, signed := signedImg img, realm := imgRealm img, latid := num img 6 1, regions := regionMask img
    meas := shake256 img 64, image := img }

/-- Distributes a checked image into slot `n` (R270). -/
def installImage (s : State) (n : Nat) (img : List Byte) : State :=
  let s := installMills s n img
  let s := (imgCores (millRecs img)).foldl (installCore img) s
  let s := (usedRegions img).foldl (fun s r =>
    updRegion (installRoutes s img r) r fun x => { x with tok := { float := floatIn img r } }) s
  let s := updSlot s n fun _ => { imgSlot img with st := .staged }
  if (shardsLeft (slotOf s n)).isEmpty then slotLoaded s n else s

end Sys2Proof.Machine
end

