-- ==== Sys2Proof/Machine/Shape.lean ====
section
/-!
DEFINITION. The shape of a region when it changes at run time (01 R20-R29, 13 R506-R513): physical and logical rows, a row that
is dropped, a region that becomes LOST.
-/
namespace Sys2Proof.Machine

/-- A record that a region changed shape, was fenced or was unfenced (R484). -/
def regionRec (s : State) (g : Nat) (code : Code) (origin : Origin) (syn : Nat) : State :=
  logRec s { code := code, cls := .region, origin := origin, region := some g, syndrome := syn }

/-! ### Routes (R171, R187, R193) -/

/-- Does the route avoid every region whose VDDN is off, with its waypoint's hub in service? -/
def routeOk (s : State) (a b : Nat) (r : Route) : Bool :=
  (between a b r.mode r.waypoint).all (vddnOn s) && (r.mode ≠ 4 || (regionOf s r.waypoint).race.hub)

/-- The first good one of YX, EXPRESS and VIA by the lowest waypoint; the old route where none is good (DESIGN CHOICE, log entry
52: the manual names the three and no order). -/
def detour (s : State) (a b : Nat) (old : Route) : Route :=
  let all := [{ mode := 2 }, { mode := 3 }] ++
    ((List.range 64).filter fun w => w ≠ a && w ≠ b).map fun w => { mode := 4, waypoint := w }
  (all.find? (routeOk s a b)).getD old

/-- The entry of region `a` for region `b` on plane `p`: the one that waits to apply, else the one in force. -/
def latestRoute (s : State) (a b : Nat) (p : Plane) : Route :=
  match s.race.reloads.find? fun r => r.src == a && r.dst == b && r.plane == p with
  | some r => { mode := r.mode, waypoint := r.waypoint }
  | none => routeOf s a b p

/-- A route change begins: new accesses are held until it applies (R187). -/
def reroute (s : State) (a b : Nat) (p : Plane) (r : Route) : State :=
  let keep := s.race.reloads.filter fun x => !(x.src == a && x.dst == b && x.plane == p)
  { s with race := { s.race with
    reloads := keep ++ [{ src := a, dst := b, plane := p, mode := r.mode, waypoint := r.waypoint }] } }

/-- The Miller rewrites the entries whose path passes a region that has no VDDN, and blocks those to region `g` when it is LOST. -/
def rerouteRound (s : State) (g : Nat) (block : Bool) : State :=
  let srcs := (List.range 64).filter fun a => a ≠ g && vddnOn s a
  [Plane.c, Plane.t, Plane.a, Plane.k].foldl (fun s p => srcs.foldl (fun s a => (List.range 64).foldl (fun s b =>
    let old := latestRoute s a b p
    if a = b ∨ old.mode = 0 then s
    else if b = g then (if block then reroute s a b p {} else s)
    else if routeOk s a b old then s
    else
      let new := detour s a b old
      if new = old then s else reroute s a b p new) s) s) s

/-- Region `g` is LOST (R193): the entries that change, and a notice to every other region, wait for their turn. -/
def rerouteLost (s : State) (g : Nat) : State :=
  let s := rerouteRound s g true
  let new := (((List.range 64).filter fun a => a ≠ g && vddnOn s a).map fun a => (a, g)).filter fun n => !s.race.notices.contains n
  { s with race := { s.race with notices := s.race.notices ++ new } }
/-- Region `g` has been switched off (DEDUCED from R193, log entry 52). -/
def rerouteOff (s : State) (g : Nat) : State := rerouteRound s g false

/-- The Hopper's operation ends with a code (R278): HOP_STATUS, HOP_ERRLOC, cause 4; SEC_IMG_AUTH for AUTH (R550). -/
def hopEnd (s : State) (code : Code) (sect record : Nat) : State :=
  let s := if code = .auth then secCount s 3 else s
  raiseIrq { s with hop := { s.hop with op := .idle, realms := [], err := code, sect := sect, record := record } } 4

/-- Does a bus-master read serve the loading of an image? -/
def DmaJob.isImage : DmaJob → Bool
  | .image1 .. | .image2 => true
  | _ => false

/-- A load that uses region `g` stops with a code while its slot is LOADING; no region has been written yet (R271). -/
def stopLoading (s : State) (g : Nat) (code : Code) : State :=
  match s.hop.slots.find? fun p => p.2.st = .loading && bit p.2.regions g with
  | none => s
  | some p =>
    let s := updSlot s p.1 fun _ => {}
    let s := { s with glb := { s.glb with dma := s.glb.dma.filter fun j => !j.2.isImage } }
    hopEnd s code 0 0

/-- Region `g` becomes LOST (R24, R512): headers of VDDC and VDDS open, the record, its step owners FAILED with LOST, and the
routes of the other regions change. -/
def markLost (s : State) (g syn : Nat) : State :=
  let s := updRegion s g fun x =>
    { x with org := { x.org with shape := .lost, dropRow := 0, off := true }
             pwr := { x.pwr with rails := x.pwr.rails &&& 3 } }
  let s := failRegion (regionRec s g .lost .region syn) g .lost
  refresh (rerouteLost (stopLoading s g .lost) g)

/-- The step owners in use with a member core in region `g` whose image lies in slot `n`. -/
def slotOwnersIn (s : State) (n g : Nat) : List Nat := (ownersIn s g).filter fun m => (millOf s m).cfg.slot = n

/-- Slots STAGED or LOADED that use region `g`. -/
def slotsUsing (s : State) (g : Nat) : List Nat :=
  (s.hop.slots.filter fun p => (p.2.st = .staged ∨ p.2.st = .loaded) && bit p.2.regions g).map (·.1)

/-- The image of slot `n` after region `g` went from FULL to SHORT by the loss of logical row `y` (R28, R29): it runs on when it
uses the region through ROWS15 and the row served logical row 15; else its mills there fail for good. -/
def shrinkSlot (g y : Nat) (s : State) (n : Nat) : State :=
  let on := shapeByte (slotOf s n).image g == 2 && y == 15
  let r : Rec := { code := .capacity, cls := .step, origin := .region, region := some g }
  let s := if on then s else updSlot s n fun x => { x with unfit := insertNat g x.unfit }
  (slotOwnersIn s n g).foldl (fun s m =>
    let k := millOf s m
    if on then
      if k.st = .restart then updMill s m fun x => { x with tier := 1 } else if k.inStep then failOwner s m none r false false else s
    else if k.inStep then
      enterFailed (logRec (updMill (markFailure s m none .capacity) m fun x => { x with f := x.f + 1 }) { r with mill := some m }) m
        .capacity
    else s) s

/-- Where a core of region `g` stands once logical row `y` has gone: the rows above it serve as the next lower logical row (R23, R29). -/
def coreAfterDrop (g y c : Nat) : Option Nat :=
  if c / 256 ≠ g || decide (c / 16 % 16 < y) then some c else if c / 16 % 16 = y then none else some (c - 16)

/-- Where a fabric address of a core leads after that. -/
def addrAfterDrop (g y a : Nat) : Option Nat :=
  if 2 ^ 51 ≤ a then some a else (coreAfterDrop g y (fld a 34 14)).map fun c => at_ 34 c + a % 2 ^ 34

/-- The entries whose index the map keeps, at their new index. -/
def rekey {α : Type} (f : Nat → Option Nat) (t : Tbl α) : Tbl α := t.filterMap fun p => (f p.1).map fun k => (k, p.2)

/-- Logical row `y` of region `g` is gone: every logical row from it up names the cores and stacks of the next physical row, with what
their memories, programs, tables and counters hold (R23, R29). -/
def dropLogical (s : State) (g y : Nat) : State :=
  let f := addrAfterDrop g y
  let s := { s with
    cores := rekey (coreAfterDrop g y) s.cores
    mem := rekey f s.mem
    prog := rekey (fun a => (coreAfterDrop g y (a / 65536)).map fun c => progAddr c + a % 65536) s.prog
    poison := s.poison.filterMap f }
  let s := (slotsUsing s g).foldl (fun s n => updSlot s n fun x =>
    { x with deadStacks := x.deadStacks.filterMap (coreAfterDrop g y), badBursts := x.badBursts.filterMap f }) s
  let s := updRegion s g fun r => { r with org := { r.org with deadStacks := r.org.deadStacks.filterMap (coreAfterDrop g y) } }
  updRegion s g fun r => { r with mem := { r.mem with
    writeBacks := r.mem.writeBacks.filterMap f, ueSeen := r.mem.ueSeen.filterMap fun p => (f p.1).map fun a => (a, p.2)
    ceSeen := r.mem.ceSeen.filterMap fun p => (f p.1).map fun a => (a, p.2) } }

/-- Physical row `p` of region `g` is dropped (R22, R28): FULL becomes SHORT, SHORT becomes LOST. -/
def dropRow (s : State) (g p : Nat) : State :=
  let x := (regionOf s g).org
  let y := (logRow x p).getD 0
  let s := updRow s g p fun r => { r with outCol := 31, stackDead := false, defect := true }
  match x.shape with
  | .full =>
    let s := updRegion s g fun x => { x with org := { x.org with shape := .short, dropRow := p } }
    refresh (dropLogical ((slotsUsing s g).foldl (shrinkSlot g y) (stopLoading (regionRec s g .capacity .region 0) g .capacity)) g y)
  | .short => markLost s g 0
  | .lost | .unknown => s

/-- A column of physical row `p` is taken out (R21). -/
def takeOut (s : State) (g p d : Nat) (stack : Bool) : State :=
  updRow s g p fun _ => { outCol := d, stackDead := stack, defect := true }

/-- 7 days in ns (R513). -/
def sevenDays : Nat := 604800000000000

/-- The event of a region that trips, or loses rails, in the Moraine map; and a REGION defect when it is the second loss of supply within 7 days
(R462, R512, R513). -/
def noteLoss (s : State) (g rails : Nat) (trip : Bool) : State :=
  let twice := match (regionOf s g).org.lastLoss with
    | some t => !trip && decide (s.frn.clock ≤ t + sevenDays)
    | none => false
  let s := addMoraine s { kind := if trip then 9 else 8, source := 1, region := g, sub := if trip then 0 else rails, detail := 1 }
  let s := if twice then addMoraine s { kind := 7, source := 1, region := g } else s
  if trip then s else updRegion s g fun x => { x with org := { x.org with lastLoss := some s.frn.clock } }

/-- A region loses supply or trips (R462, R512, R513): its shape, and the event. -/
def loseSupply (s : State) (g rails : Nat) (trip : Bool) : State := noteLoss (markLost s g (rails + at_ 4 (bnat trip))) g rails trip

end Sys2Proof.Machine
end

