-- ==== Sys2Proof/Machine/Time.lean ====
section
/-!
DEFINITION. Device time (00 Notation, 14 R534): GLB_TIME counts nanoseconds while the edge logic runs.
-/
namespace Sys2Proof.Machine

/-- Does GLB_TIME count? Its block lies in D95, which runs from BOOT on (R565). -/
def timeRuns (s : State) : Bool :=
  match s.glb.st with
  | .off | .standby | .parked => false
  | _ => true

/-- Snowpack stacks that a controller serves at half rate (R415). -/
def hotCount (x : Snw) : Nat := (List.range 6).countP fun k => bit x.hot k

/-- SNW_THROTTLE counts the nanoseconds of half-rate service (R421). -/
def countThrottle (s : State) (n : Nat) : State :=
  if isUp s && s.snow.ctl.any fun p => hotCount p.2 ≠ 0 then
    (List.range 4).foldl (fun s k => let h := hotCount (ctlOf s k); if h = 0 then s else ctlCount s k 6 (n * h)) s
  else s

/-- Core cycles of a region in `n` ns, its clock running with VDDC (R440). -/
def coreCycles (x : Region) (n : Nat) : Nat := if bit x.pwr.rails 3 then (x.pwr.frac + 6 * n) / opDivisor x.pwr.op else 0

/-- The slack counter of a stall that a cause of R502 names (R242). -/
def causeCounter : Nat → Option Slack
  | 1 => some .scalar | 2 | 7 => some .score | 3 => some .queue | 4 => some .sendq | 8 => some .token | 0xA => some .event
  | 0xB => some .count | 0xC => some .flume | 0xD => some .fence | 0xE => some .fin | _ => none

/-- The slack counter under which time passes on a core of an image (R242, R243): the cause of its stall, END from its STEP.END report until
its step retires, IDLE outside a step, in RESTART and in HALTED. A core whose next bundle has no stall noted issues in attempts (log
entry 15). -/
def restCounter (s : State) (c : Nat) (k : Core) : Option Slack :=
  if k.len = 0 && (leafOf s c).isNone then none
  else match k.scc.run with
    | .running => causeCounter k.stall
    | .ended => some .fin
    | .outside | .halted | .stopped => some .idle

/-- `n` core cycles pass on core `c`: under its counter, and in the step under the count that RDSR reads (R207, R243). -/
def coreWaits (s : State) (c : Nat) (k : Core) (n : Nat) : Core :=
  match restCounter s c k with
  | none => k
  | some i =>
    let k := slackUp k i n
    if k.scc.run = .running then { k with scc := { k.scc with cycles := k.scc.cycles + n } } else k

/-- Region `g` counts the fabric cycles, 2 in each of `n` ns, in which head flits at its routers wait for a credit (R181, R196). -/
def waitCount (s : State) (g n : Nat) (x : Region) : Region :=
  if s.race.packets.all fun p => p.waiting.isNone then x
  else { x with race := { x.race with cnt := [Plane.a, .k, .c, .t].foldl (fun t p =>
    let w := s.race.packets.countP fun q => q.plane == p && q.waiting.isSome && (packetNode q).region == g
    if w = 0 then t else Tbl.upd {} t p.num fun y => { y with cstall := bumpBy y.cstall (2 * n * w) }) x.race.cnt } }

/-- The slack counters, and the credit waits of Race, count the cycles of `n` ns (R196, R242, R243). -/
def countRest (s : State) (n : Nat) : State :=
  if s.cores.isEmpty then s
  else
    { s with
      cores := s.cores.map fun p => (p.1, coreWaits s p.1 p.2 (coreCycles (regionOf s (p.1 / 256)) n))
      regions := s.regions.map fun p => (p.1, waitCount s p.1 n (if bit p.2.pwr.rails 3 then
        { p.2 with pwr := { p.2.pwr with frac := (p.2.pwr.frac + 6 * n) % opDivisor p.2.pwr.op } } else p.2)) }

/-- While `n` ns of GLB_TIME pass, the Miller slews it by at most 100 ppm (R380): the nanoseconds of the local clock, and what is left to slew. -/
def slewed (p : Ptp) (n : Nat) : Nat × Ptp :=
  let most : Int := 16 * n
  let d := max (-most) (min most p.slew)
  let whole := (p.part + d).tdiv 160000
  ((n - whole).toNat, { p with slew := p.slew - d, part := p.part + d - 160000 * whole })

/-- `n` nanoseconds pass: GLB_TIME runs with the edge logic; Firn's count, while VDDF is up, and core cycles, while a region's clock runs, count the
nanoseconds of the local clock, which differ by what the Miller slews (R380). -/
def pass (s : State) (n : Nat) : State :=
  let (k, p) := if timeRuns s then slewed s.sluice.ptp n else (n, s.sluice.ptp)
  let s := countRest { s with sluice := { s.sluice with ptp := p } } k
  let s := countThrottle (if s.glb.st = .off then s else { s with frn := { s.frn with clock := s.frn.clock + k } }) k
  if timeRuns s then { s with glb := { s.glb with time := s.glb.time + n } } else s

/-- The clock stands at `t` or later: a command that marks a moment brings device time up to it (log entry 2). -/
def advanceTo (s : State) (t : Nat) : State := pass s (t - s.glb.time)

end Sys2Proof.Machine
end

