-- ==== Sys2Proof/Machine/Power.lean ====
section
/-!
DEFINITION. The power of the regions (12 R440-R463): operating points and their limits, current estimators, droop, the device cap,
thermal throttling, the trips of regions, and rails that are lost.
-/
namespace Sys2Proof.Machine

/-- Changes the power registers of region `g`. -/
def updPwr (s : State) (g : Nat) (f : RegPwr → RegPwr) : State := updRegion s g fun x => { x with pwr := f x.pwr }
/-- The power registers of region `g`. -/
def pwrOf (s : State) (g : Nat) : RegPwr := (regionOf s g).pwr
/-- Is VDDC of region `g` on (R479)? -/
def vddcOn (s : State) (g : Nat) : Bool := bit (pwrOf s g).rails 3
/-- Does the Miller's firmware run in one of the states READY to DEGRADED? -/
def millerUp (s : State) : Bool := s.glb.fw && isUp s

/-! ### Operating points (R440-R443) -/

/-- VDDC of an operating point in mV (R440). -/
def opVolts (op : Nat) : Nat := [750, 700, 660, 620, 600, 550].getD op 550

/-- The slowest of the five limits of region `g` (R443). -/
def opLimit (s : State) (g : Nat) : Nat :=
  let x := pwrOf s g
  [x.hostlim, s.pwr.caplim, x.thmlim, x.ilimlim, x.firnlim].foldl max 0

/-- A raise that the limits no longer allow is abandoned: the voltage returns to that of the current point (R443). -/
def limitChanged (s : State) (g : Nat) : State :=
  let x := pwrOf s g
  if x.raising.isSome && decide (x.op ≤ opLimit s g) then updPwr s g fun x => { x with raising := none, mv := opVolts x.op } else s

/-- OP_RAISE_START (R441): the region commands the higher voltage; at most one rise per 100 us. -/
def execOpRaiseStart (r : RegionId) (s : State) : Outcome :=
  .next (
    let g := r.val
    let x := pwrOf s g
    if !millerUp s || !vddcOn s g || x.raising.isSome || x.op ≤ opLimit s g then s
    else
      let s := match x.lastRise with
        | some t => advanceTo s (t + 100000)
        | none => s
      updPwr s g fun x => { x with raising := some s.glb.time, mv := opVolts (x.op - 1) })

/-- OP_RAISE (R441): VSETTLE has passed, and the divisor switches to the next faster point. -/
def execOpRaise (r : RegionId) (s : State) : Outcome :=
  .next (
    let g := r.val
    match (pwrOf s g).raising with
    | none => s
    | some t =>
      if !millerUp s then s
      else
        let s := countStop (advanceTo s (t + s.pwr.vsettle.toNat * 1000))
        updPwr s g fun x => { x with op := x.op - 1, raising := none, lastRise := some s.glb.time })

/-- OP_LOWER (R441): the divisor switches to the next slower point, then the lower voltage is commanded. -/
def execOpLower (r : RegionId) (s : State) : Outcome :=
  .next (
    let g := r.val
    let x := pwrOf s g
    if !millerUp s || !vddcOn s g || x.raising.isSome || opLimit s g ≤ x.op then s
    else updPwr (countStop s) g fun x => { x with op := x.op + 1, mv := opVolts (x.op + 1) })

/-! ### Current limits (R447-R450) -/

/-- The estimates of a window by rail in units of 1/65,536 A, from the current that each would be at a gain of 1.0 and the rail's gain (R447,
R450), each with the rail's limit in PWR_ILIM (R478). -/
def estimates (x : RegPwr) (vddc vdds vddm vddn : Nat) : List (Nat × Nat) :=
  [(vddc, 3, 0), (vdds, 2, 16), (vddm, 0, 32), (vddn, 1, 48)].map fun p => (p.1 * Tbl.get 65536 x.gains p.2.1, bits x.ilim p.2.2 9)

/-- Does an estimate exceed its limit? -/
def overLimit (es : List (Nat × Nat)) : Bool := es.any fun p => decide (65536 * p.2 < p.1)

/-- Does every estimate stay below 90 % of its limit (R449)? -/
def quietWindow (es : List (Nat × Nat)) : Bool := es.all fun p => decide (10 * p.1 < 9 * 65536 * p.2)

/-- ESTIMATOR_WINDOW (R447, R448): a window of 2 us ends; the operands are the currents in amperes at gains of 1.0. A window over a limit
slows the region a point and takes 4 of its scale; at OP5 with a scale of 4 it holds starts and grants for the next window too. -/
def execEstimatorWindow (r : RegionId) (vddc vdds vddm vddn : BitVec 16) (s : State) : Outcome :=
  .next (
    let g := r.val
    let x := pwrOf s g
    let es := estimates x vddc.toNat vdds.toNat vddm.toNat vddn.toNat
    if !millerUp s || !vddcOn s g then s
    else if !overLimit es then
      updPwr s g fun x => { x with ilimHold := false, quietAt := if quietWindow es then x.quietAt else s.glb.time }
    else
      let s := updPwr s g fun x => { x with ilimEvt := bump x.ilimEvt }
      limitChanged (updPwr s g fun x =>
        { x with ilimlim := min 5 (x.ilimlim + 1), ilimScale := max 4 (x.ilimScale - 4)
                 ilimHold := decide (x.op = 5) && decide (x.ilimScale = 4), quietAt := s.glb.time }) g)

/-- QUIET_MILLISECOND (R449): every window of every rail has stayed below 90 % of its limit for 1 ms, or for 1 ms more. -/
def execQuietMillisecond (r : RegionId) (s : State) : Outcome :=
  .next (
    if !millerUp s || !vddcOn s r.val then s
    else
      let s := advanceTo s ((pwrOf s r.val).quietAt + 1000000)
      updPwr s r.val fun x => { x with ilimlim := x.ilimlim - 1, ilimScale := min 16 (x.ilimScale + 4), quietAt := s.glb.time })

/-- The IMON group of a region (R435). -/
def groupOf (r : Nat) : Nat := r / 8 / 2 * 4 + r % 8 / 2

/-- The IMON channel of a rail of region `r`, the rails as RAILS of R479 numbers them (R468). -/
def imonChannel (r rail : Nat) : Nat :=
  if rail = 3 then r else if rail = 0 then 64 + groupOf r else if rail = 2 then 80 + groupOf r else 96 + groupOf r

/-- The regions that an IMON channel covers (R435). -/
def imonRegions (r rail : Nat) : List Nat :=
  if rail = 3 then [r] else (List.range 64).filter fun x => groupOf x == groupOf r

/-- A gain clamped to 0.75 to 1.25, in units of 1/65,536 (R450). -/
def clampGain (g : Nat) : Nat := max 49152 (min 81920 g)

/-- GAIN_CORRECTION (R450): the channel's F2 value, a fraction of FSCALE, against the estimators' mean in 0.1 A. The ratio corrects
the gain of the rail in every region that the channel covers. A mean of 0 gives no ratio and leaves the gains (log entry 58). -/
def execGainCorrection (r : RegionId) (rail : Fin 4) (estimate : Nat) (s : State) : Outcome :=
  .next (
    let n := imonChannel r.val rail.val
    let c := chanOf s n
    if !millerUp s || (Tbl.get none s.frn.stored n).isNone || estimate = 0 then s
    else (imonRegions r.val rail.val).foldl (fun s g =>
      let old := Tbl.get 65536 (pwrOf s g).gains rail.val
      let new := old * (c.f2 / 256) * c.fscale / (65535 * estimate)
      let s := updPwr s g fun x => { x with gains := Tbl.set 65536 x.gains rail.val (clampGain new) }
      if clampGain new = new then s
      else logRec s { cls := .info, origin := .miller, region := some g, aform := 3, addr := rail.val }) s)

/-! ### Droop (R451) -/

/-- DROOP: a detector fires; issue and descriptor starts hold. -/
def execDroop (r : RegionId) (s : State) : Outcome :=
  .next (
    if !millerUp s || !vddcOn s r.val then s
    else updPwr s r.val fun x => { x with droopHold := true, droopEvt := bump x.droopEvt, droopAt := s.glb.time })

/-- DROOP_HOLD_END: 32 core cycles after the last detection. -/
def execDroopHoldEnd (r : RegionId) (s : State) : Outcome :=
  .next (
    let x := pwrOf s r.val
    if x.droopHold then updPwr (advanceTo s (x.droopAt + ceilDiv (32 * opDivisor x.op) 6)) r.val fun x => { x with droopHold := false }
    else s)

/-! ### The device cap (R452-R456) -/

/-- The priority order of the classes (R455). -/
def capOrder (code : Nat) : List Shrink :=
  match code with
  | 0 => [.compute, .memory, .links] | 1 => [.compute, .links, .memory] | 2 => [.memory, .compute, .links]
  | 3 => [.memory, .links, .compute] | 4 => [.links, .compute, .memory] | _ => [.links, .memory, .compute]

/-- Is a class at its floor (R454)? -/
def atFloor (p : Pwr) : Shrink → Bool
  | .compute => p.cscale = 0 | .memory => p.mscale = 2 | .links => p.lscale = 1 | .caplim => p.caplim = 5

/-- One step of a class. -/
def shrinkStep (p : Pwr) (k : Shrink) : Pwr :=
  let p := { p with steps := k :: p.steps }
  match k with
  | .compute => { p with cscale := p.cscale - 1 }
  | .memory => { p with mscale := p.mscale - 1 }
  | .links => { p with lscale := p.lscale - 1 }
  | .caplim => { p with caplim := p.caplim + 1 }

/-- A step of a class is undone. -/
def undoStep (p : Pwr) (k : Shrink) : Pwr :=
  let p := { p with steps := p.steps.erase k }
  match k with
  | .compute => { p with cscale := p.cscale + 1 }
  | .memory => { p with mscale := p.mscale + 1 }
  | .links => { p with lscale := p.lscale + 1 }
  | .caplim => { p with caplim := p.caplim - 1 }

/-- The step to undo: CAPLIM before any class, else the most recent. -/
def undoNext (p : Pwr) : Option Shrink := if p.steps.contains .caplim then some .caplim else p.steps.head?

/-- Changes the PWR block. -/
def setPwr (s : State) (p : Pwr) : State := { s with pwr := p }

/-- The setpoint voltage of a rail of region `r` in mV, the rails as RAILS of R479 numbers them (R434, R440). -/
def railVolts (s : State) (r rail : Nat) : Nat :=
  if rail = 3 then (pwrOf s r).mv else if rail = 0 then 1050 else if rail = 2 then 800 else 750

/-- The part of the device power P that the 112 IMON channels measure, in W: the calibrated current, a fraction of FSCALE in 0.1 A, times the
setpoint voltage (R452, R469). The rest of P is the estimators' total of the edge rails, which no rule computes, so that P_10 and P_1S are operands
of CAP_EVALUATION (log entry 100). -/
def imonPower (s : State) : Nat :=
  let term := fun n r rail => let c := chanOf s n; c.cal * c.fscale * railVolts s r rail
  let vddc := (List.range 64).foldl (fun t r => t + term r r 3) 0
  let groups := [0, 2, 1].foldl (fun t rail =>
    ((List.range 64).filter fun r => r % 2 = 0 && r / 8 % 2 = 0).foldl (fun t r => t + term (imonChannel r rail) r rail) t) 0
  (vddc + groups) / (65535 * 10000)

/-- CAP_EVALUATION (R453): the powers in units of 10 W. -/
def execCapEvaluation (p10 p1s : BitVec 12) (s : State) : Outcome :=
  .next (
    if !millerUp s then s
    else
      let cap := s.pwr.cap.toNat
      let p := { s.pwr with p10 := p10, p1s := p1s, unmet := s.pwr.unmet && decide (cap < p10.toNat) }
      if cap < p10.toNat then
        match (capOrder s.pwr.prio.toNat ++ [Shrink.caplim]).find? fun k => !atFloor p k with
        | some .compute => raiseIrq (setPwr s (shrinkStep p .compute)) 5
        | some .caplim => (List.range 64).foldl limitChanged (setPwr s (shrinkStep p .caplim))
        | some k => setPwr s (shrinkStep p k)
        | none =>
          let s' := setPwr s { p with unmet := true }
          if p.unmet then s' else logRec s' { cls := .info, origin := .miller }
      else if 100 * p10.toNat < 97 * cap ∧ p1s.toNat < cap then
        match undoNext p with
        | some k => setPwr s (undoStep p k)
        | none => setPwr s p
      else setPwr s p)

/-! ### The references of the root PLL (R464, R480) -/

/-- Is a reference there? The Sluice port that CLK_REF names gives none while its EN is 0. -/
def refThere (s : State) (port : Bool) : Bool := if port then !s.clk.losPort && bit (portOf s s.clk.port.toNat).cfg 0 else !s.clk.losRef

/-- A reference is lost. When it is the active one the PLL holds over, or with AUTO takes the other if that is there. The PLL runs from BOOT to FAULT
(R555). -/
def loseRef (s : State) (port : Bool) : State :=
  if !timeRuns s then s
  else
    let s := { s with clk := { s.clk with losRef := s.clk.losRef || !port, losPort := s.clk.losPort || port } }
    if s.clk.active ≠ port then s
    else if s.clk.auto && refThere s (!port) then { s with clk := { s.clk with active := !port, holdover := false } }
    else { s with clk := { s.clk with holdover := true } }

/-- A reference is there again; in holdover the PLL locks to it when it is the active one, or with AUTO. -/
def gainRef (s : State) (port : Bool) : State :=
  if !timeRuns s || (port && !bit (portOf s s.clk.port.toNat).cfg 0) then s
  else
    let s := { s with clk := { s.clk with losRef := s.clk.losRef && port, losPort := s.clk.losPort && !port } }
    if s.clk.holdover && (s.clk.auto || s.clk.active == port) then { s with clk := { s.clk with active := port, holdover := false } } else s

/-! ### Heat (R459-R463) -/

/-- A region's excess in 1/16 degree (R460). -/
def excess (s : State) (g : Nat) : Int :=
  let x := pwrOf s g
  max ((x.maxStk.toNat : Int) - 16 * s.thm.stkThr.toNat) ((x.maxLog.toNat : Int) - 16 * s.thm.logThr.toNat)

/-- The region among `gs` with the largest value of `f`, the lowest number on a tie. -/
def largest (f : Nat → Int) (gs : List Nat) : Option Nat :=
  gs.foldl (fun best g => match best with
    | none => some g
    | some b => if f b < f g then some g else best) none

/-- The stack at a physical place is dead: one that serves a logical column is due for the repair of its row (R510); any other enters the Moraine map
and sets DEFECT of its row, and no more (R506). -/
def stackLost (s : State) (x : RegionId × Fin 16 × Fin 17) : State :=
  let (g, p, d) := (x.1.val, x.2.1.val, x.2.2.val)
  let o := (regionOf s g).org
  match (List.range 256).find? fun i => coreExists s (256 * g + i) && physRow o (i / 16) == p && stackCol (rowOf o p) (i % 16) == d with
  | some i => stackDead s (256 * g + i)
  | none => updRow (addMoraine s { kind := 2, source := 1, region := g, row := p, col := d }) g p fun w => { w with defect := true }

/-- THERMAL_EVALUATION (R459-R461): the hottest readings of regions 0 to 63, in 1/16 degree, and the physical places of the stacks that no longer
answer or have a thermal diode that reads open or short: those are dead (R509). -/
def execThermalEvaluation (stk log : List (BitVec 12)) (dead : List (RegionId × Fin 16 × Fin 17)) (s : State) : Outcome :=
  .next (
    if !millerUp s then s
    else
      let all := List.range 64
      let s := dead.foldl stackLost s
      let s := all.foldl (fun s g => updPwr s g fun x => { x with maxStk := stk.getD g 0, maxLog := log.getD g 0 }) s
      let hot := (largest (excess s) all).getD 0
      let s := { s with thm := { s.thm with hotreg := hot, valid := true
                                            hottemp := BitVec.ofNat 12 (max (pwrOf s hot).maxStk.toNat (pwrOf s hot).maxLog.toNat) } }
      let s := all.foldl (fun s g => updPwr s g fun x =>
        { x with cool := if excess s g < -(16 * (s.thm.hyst.toNat : Int)) then x.cool + 1 else 0 }) s
      match largest (excess s) (all.filter fun g =>
          decide (0 < excess s g) && vddcOn s g && decide ((pwrOf s g).op ≠ 5) && decide ((pwrOf s g).thmlim < 5)) with
      | some g => raiseIrq (limitChanged (updPwr s g fun x => { x with thmlim := x.thmlim + 1 }) g) 3
      | none =>
        match largest (fun g => ((pwrOf s g).cool : Int)) (all.filter fun g =>
            decide (10 ≤ (pwrOf s g).cool) && decide (0 < (pwrOf s g).thmlim)) with
        | some g => updPwr s g fun x => { x with thmlim := x.thmlim - 1, cool := 0 }
        | none => s)

/-- The bytes of the stacks of region `g` are gone. -/
def loseStacks (s : State) (g : Nat) : State :=
  let lo := coreAddr (256 * g) 0 0
  let hi := coreAddr (256 * (g + 1)) 0 0
  let inStack := fun a => decide (lo ≤ a) && decide (a < hi) && decide (fld a 30 4 = 0)
  { s with mem := s.mem.filter fun p => !inStack p.1, poison := s.poison.filter fun a => !inStack a }

/-- Firn invalidates the retention entries that `p` picks (R475). -/
def dropRetained (s : State) (p : Retain → Bool) : State :=
  { s with hop := { s.hop with retain := s.hop.retain.filter fun e => !p e } }

/-- Is a power-up under way (R565)? -/
def rising (s : State) : Bool := s.pins.seq ≠ .down && s.pins.seq ≠ .up

/-- A region leaves service while the Miller does not run: what Firn alone does. The Moraine map takes the event (R8). In STANDBY, with no power-up
under way, the region passes through STANDBY as it trips and does not stay off. -/
def firnLoss (s : State) (g : Nat) (rails : BitVec 4) (trip : Bool) : State :=
  let x := pwrOf s g
  let keep := x.rails &&& ~~~rails
  let s := updRegion s g fun x => { x with
    org := { x.org with shape := if s.glb.st = .fault then .lost else x.org.shape
                        off := x.org.off || decide (s.glb.st ≠ .standby) || decide (s.pins.seq ≠ .down) }
    pwr := { x.pwr with rails := if s.glb.st = .fault then keep &&& 3 else keep } }
  let s := if bit x.rails 0 && bit rails 0 then loseStacks s g else s
  let lost := if trip then 0 else (x.rails &&& rails).toNat
  logFirn (noteLoss s g lost trip) { code := .lost, cls := .region, origin := .region, region := some g, syndrome := lost + at_ 4 (bnat trip) }

/-- Firn opens VDDC, VDDS and VDDN of region `g` as at a trip (R462); `g` is LOST, and the retention entries that cover it are invalid (R475). -/
def openRegion (s : State) (g : Nat) : State :=
  let s := dropRetained s fun e => bit e.regions g
  if millerUp s then loseSupply (updPwr s g fun x => { x with rails := x.rails &&& 1 }) g 0 true
  else firnLoss s g 0xE true

/-- TRIP (R462, R463, R569): a comparator of a region fires. A region that is LOST already has its headers opened and its event noted. In PARKED a
stack trip, of the diode of one of its stacks, opens VDDM too. During a power-up the sequence goes on, and R567 applies at its end. In OFF nothing
listens. -/
def execTrip (k : Comparator) (s : State) : Outcome :=
  .next (
    let g := k.region.val
    if s.glb.st = .off then s
    else
      let s := { s with thm := { s.thm with trip := s.thm.trip ||| BitVec.ofNat 64 (2 ^ g) } }
      if millerUp s then
        raiseIrq (if (regionOf s g).org.shape = .lost then
          noteLoss (rerouteLost (updPwr (dropRetained s fun e => bit e.regions g) g fun x => { x with rails := x.rails &&& 1 }) g) g 0 true
          else openRegion s g) 3
      else
        let s := { s with pins := { s.pins with interlock := s.pins.interlock || rising s } }
        match s.glb.st with
        | .parked => dropRetained (firnLoss s g (if k.stack then 0xF else 0xE) true) fun e => bit e.regions g
        | .standby | .boot => openRegion s g
        | _ => raiseIrq (openRegion s g) 3)

/-- RAIL_LOSS (R511, R512): rails of region `r` stay below 70 % for 1 us. A region already LOST only loses the rails. -/
def execRailLoss (r : RegionId) (rails : BitVec 4) (s : State) : Outcome :=
  .next (
    let g := r.val
    let x := pwrOf s g
    let lost := x.rails &&& rails
    if lost = 0 then s
    else if !millerUp s then firnLoss s g lost false
    else
      let s := updPwr s g fun x => { x with rails := x.rails &&& ~~~lost }
      let s := if bit lost 0 then loseStacks s g else s
      if (regionOf s g).org.shape = .lost then rerouteLost s g else loseSupply s g lost.toNat false)

end Sys2Proof.Machine
end

