-- ==== Sys2Proof/Machine/Window.lean ====
section
/-!
DEFINITION. What a destination does with an access (04 R151-R158, R581; 05 R177, R197): the checks of its header, and a PLAIN write
into its memory; and the accesses that are over in one act: of an edge block, and of chip shared memory at another core.
-/
namespace Sys2Proof.Machine

/-! ### Checks at the destination (R151, R152, R158, R222) -/

/-- What a destination does with a header that arrives. -/
inductive Verdict where
  | wait | accept | refuse (code : Code)
deriving DecidableEq, Repr

/-- Is step owner `m` FENCED toward an access from core `src` (R151, R497)? -/
def fencedToward (s : State) (m src : Nat) : Bool :=
  let k := millOf s m
  if ownerOf s src == some m then decide (k.dstate = .fenced) else decide (k.dstate ≠ .opened) || decide (k.st = .fenced)

/-- The arming of window `w`. -/
def armOf (k : Core) (w : Nat) : Arm := Tbl.get {} k.arms w

/-- The checks 3 to 9 of R151 against window `w` of core `c`, for an access from core `src`. -/
def windowCode (s : State) (c w src : Nat) (kind : Kind) (epoch dest len : Nat) : Option Code :=
  let k := coreOf s c
  let x := windowOf k w
  let (sp, lo, n) := windowRange k x
  let off := fld dest 0 30
  let above := match leafOf s src with | some l => beneath s x.src l | none => false
  firstFail
    [(x.opened, .window),
     (if kind = .readReq then x.dir / 2 == 1 else x.dir % 2 == 1, .window),
     (above, .window),
     (epoch == x.epoch, .window),
     (decide (fld dest 30 4 = sp) && decide (lo ≤ off) && decide (off < lo + n), .window),
     (decide (off + len ≤ lo + n), .length),
     (kind = .readReq || (x.accum == decide (kind = .accum) && (!x.accum || (off % 16 == 0 && len % 16 == 0))), .format)]

/-- The verdict on the header `p` from core `src` at core `c`: a core that the present shape does not have is answered WINDOW (R26); a header
that is not laid out as R175 says is refused with FORMAT (R197); then R151. -/
def verdict (s : State) (p : Packet) (src c : Nat) : Verdict :=
  let ra := (regionOf s (src / 256)).org.realm
  let rb := (regionOf s (c / 256)).org.realm
  if !coreExists s c then .refuse .window
  else if !p.sound then .refuse .format
  else if ra.isNone || ra ≠ rb then .refuse .window
  else match leafOf s c, ownerOf s c with
    | some _, some m =>
      if fencedToward s m src then .refuse .fenced
      else if (millOf s m).st = .restart then .wait
      else
        let k := coreOf s c
        let a := armOf k p.win
        let unarmed := !alwaysArmed s c p.win && (a.cur.isNone || decide (a.left = 0))
        if (windowOf k p.win).opened && unarmed then .wait
        else match windowCode s c p.win src p.kind p.epoch p.dest p.length with
          | some x => .refuse x
          | none => .accept
    | _, _ => .refuse .window

/-- The count and the record of a destination that refuses an access, merged under R164. The router that acts for a core without a leaf
mill writes the same record, of ORIGIN CORE and unit RIF at that core (R152; DESIGN CHOICE, log entry 89: no rule names its ORIGIN). -/
def refusalRec (s : State) (p : Packet) (src c : Nat) (code : Code) : State :=
  let s := raceCount s (c / 256) p.plane fun x => { x with refused := bump x.refused }
  logMerging s { coreRec s c with code := code, cls := .refusal, unit := 9, aform := 1, addr := p.dest, syndrome := src }
    (src, 16 * c + p.win, code.num)

/-! ### PLAIN writes (R130, R136, R581) -/

/-- The parts of [a, a + n) that a PLAIN write leaves as they were, because the word or burst they lie in cannot be read: a
partly covered 8-byte SRAM word with a double-bit error, a partly covered burst that is poisoned or cannot be read. R581 names the words
only: for the bursts DESIGN CHOICE, log entry 89. -/
def blocked (s : State) (a n : Nat) (ups : List Upset) : Ranges :=
  let ps := partsOf (a, n)
  ps.filter fun r =>
    s.poison.contains r.1 || ups.any fun u => match u with
      | .sramLost x _ => touch r (x / 8 * 8, 8) && decide (fld x 30 4 ≠ 0)
      | .burstLost x => touch r (x / 64 * 64, 64) && decide (fld x 30 4 = 0)
      | _ => false

/-- An INFO record of core `c` that names a failing address (R581). -/
def infoAt (s : State) (c : Nat) (f : Fail) : State :=
  logRec s { coreRec s c with code := f.code, cls := .info, unit := 9, aform := bnat f.addr.isSome, addr := f.addr.getD 0, syndrome := f.syn }

/-- Writes a payload PLAIN: what a damaged word or burst keeps stays, every error met is counted (R162) and each one that damages has its
INFO record; answers ECC when there is one. -/
def writePlain (s : State) (c a : Nat) (bs : List Byte) (ups : List Upset) : State × Option Code :=
  let hits := blocked s a bs.length ups
  let keep := (List.range bs.length).map fun i => if touches hits (a + i) 1 then readByte s (a + i) else bs.getD i 0
  let (s, bad) := (partsOf (a, bs.length)).foldl (fun (st : State × Bool) r =>
    match meetReads st.1 [r] ups with
    | (s, none) => (s, st.2)
    | (s, some f) => (infoAt s c f, true)) (s, false)
  (storeBytes s a keep, if bad then some .ecc else none)

/-! ### Accesses of edge blocks (R19, R170, R178) -/

/-- The RESPONSE of an access goes back from core `c` to router `d` on plane C, with a code, none for OK. One that is discarded on the way never
comes, and the access ends with TIMEOUT 4 x TIMEOUT later (R180, R190). -/
def answered (s : State) (c d dest : Nat) (code : Option Code) : State × Option Code :=
  match cross s .c c d 0 dest with
  | (s, none) => (s, code)
  | (s, some _) => (advanceTo s (s.glb.time + 4 * raceTimeout s (d / 256)), some .timeout)

/-- The data of a read come back from core `c` to router `d` on plane K, and its RESPONSE: WINDOW where the entry is BLOCKED (log entry 92);
data discarded on the way leave the read without an end but TIMEOUT (R179, R190). -/
def readBack (s : State) (c d n dest back : Nat) : State × Option Code :=
  match cross s .k c d n dest with
  | (s, none) => answered s c d back none
  | (s, some .window) => answered s c d back (some .window)
  | (s, some _) => (advanceTo s (s.glb.time + 4 * raceTimeout s (d / 256)), some .timeout)

/-- An access that edge block `n` makes of core `c`, in one act (log entry 88): it enters Race at the block's router, `len` bytes of payload
with it when it writes, by the route that applies once no change waits (R187); `check` are the checks of R151 at the core. A refusal has its
record there. A core that the present shape does not have is answered WINDOW (R26). -/
def edgeReach (s : State) (n c w dest len : Nat) (p : Plane) (write : Bool) (check : State → Option Code) : State × Option Code :=
  let d := edgeDoor s n c p
  if !coreExists s c then (s, some .window)
  else match crossBy s p (newRoute s (d / 256) (c / 256) p) d c (if write then len else 0) dest with
    | (s, some x) => (s, some x)
    | (s, none) => match check s with
      | some x => answered (refuseEdge s c w n dest p x) c d 0 (some x)
      | none => (acceptEdge s c p, none)

/-- Edge block `n` writes bytes into window `w` of core `c`, PLAIN: the code that it is answered, none for OK. -/
def edgeWrite (s : State) (n c w dest : Nat) (p : Plane) (bs : List Byte) (check : State → Option Code) (ups : List Upset) :
    State × Option Code :=
  let d := edgeDoor s n c p
  match edgeReach s n c w dest bs.length p true check with
  | (s, some x) => (s, some x)
  | (s, none) =>
    let (s, x) := writePlain s c dest bs ups
    answered s c d 0 x

/-- Edge block `n` reads `len` bytes of window `w` of core `c`: they come back on plane K, and a RESPONSE on plane C; data that cannot be
read end it with ECC, and an INFO record at the core (R581). -/
def edgeRead (s : State) (n c w dest len : Nat) (check : State → Option Code) (ups : List Upset) : State × Except Code (List Byte) :=
  let d := edgeDoor s n c .k
  match edgeReach s n c w dest len .k false check with
  | (s, some x) => (s, .error x)
  | (s, none) => match meetReads s [(dest, len)] ups with
    | (s, some f) => let (s, x) := answered (infoAt s c f) c d 0 (some .ecc); (s, .error (x.getD .ecc))
    | (s, none) =>
      let bs := readBytes s dest len
      match readBack s c d len dest 0 with
      | (s, some x) => (s, .error x)
      | (s, none) => (s, .ok bs)

/-! ### Chip shared memory at another core (R141, R142) -/

/-- Must an access of core `c` to the byte at `dest` of another core's slice wait: for packets of the same order that are under way (R185), or for
a route change at its region (R187)? -/
def csmHeld (s : State) (c dest : Nat) : Bool :=
  let d := fld dest 34 14
  decide (d ≠ c) && ((s.race.packets.any fun q => q.src == .core c && q.dst == .core d && q.plane == .k)
    || s.race.reloads.any fun r => r.src == c / 256 && r.dst == d / 256 && r.plane == .k)

/-- The header of an access of core `c` to 8 bytes of window 15 of another core. -/
def csmHeader (s : State) (c dest : Nat) (wr : Bool) : Packet :=
  let d := fld dest 34 14
  let rt := routeOf s (c / 256) (d / 256) .k
  { id := 0, acc := 0, plane := .k, kind := if wr then .write else .readReq, src := .core c, dst := .core d, dest := dest, win := 15
    mode := rt.mode, waypoint := rt.waypoint, length := 8, payload := if wr then List.replicate 8 0 else [] }

/-- The access reaches the other core and meets the checks of R151 there: a code that ends it, or none when it is accepted. A header that must
wait is answered TIMEOUT (R190): the step owner is the core's own, so that none does while the core issues. -/
def csmReach (s : State) (c dest : Nat) (wr : Bool) : State × Option Code :=
  let d := fld dest 34 14
  let p := csmHeader s c dest wr
  if !coreExists s d || p.mode = 0 then (s, some .window)
  else
    let s := raceCount s (c / 256) .k fun x => { x with inj := bump x.inj }
    match cross s .k c d (if wr then 8 else 0) dest with
    | (s, some x) => (s, some x)
    | (s, none) => match verdict s p c d with
      | .accept => (raceCount s (d / 256) .k fun x => { x with ej := bump x.ej }, none)
      | .refuse x => answered (refusalRec s p c d x) d c (coreAddr c 0 0) (some x)
      | .wait => (s, some .timeout)

/-- LD of 8 bytes of chip shared memory at another core: what comes back (R141, R581). -/
def csmRead (s : State) (c dest : Nat) (ups : List Upset) : State × Except Code Nat :=
  let d := fld dest 34 14
  match csmReach s c dest false with
  | (s, some x) => (s, .error x)
  | (s, none) => match meetReads s [(dest, 8)] ups with
    | (s, some f) => let (s, x) := answered (infoAt s d f) d c (coreAddr c 0 0) (some .ecc); (s, .error (x.getD .ecc))
    | (s, none) =>
      let v := readNum s dest 8
      match readBack s d c 8 (coreAddr c 0 0) (coreAddr c 0 0) with
      | (s, some x) => (s, .error x)
      | (s, none) => (s, .ok v)

/-- ST of 8 bytes there: the code of a failure (R141, R581). -/
def csmWrite (s : State) (c dest : Nat) (bs : List Byte) (ups : List Upset) : State × Option Code :=
  let d := fld dest 34 14
  match csmReach s c dest true with
  | (s, some x) => (s, some x)
  | (s, none) =>
    let (s, x) := writePlain s d dest bs ups
    answered s d c (coreAddr c 0 0) x

/-- Fabric cycles from one node of a path to the next (R181). -/
def hopCycles : Node → Node → Nat
  | .router x y, .router u v => if (Node.router x y).region = (Node.router u v).region then 1 else 3
  | .hub _, .hub _ => 3
  | _, _ => 1

/-- Fabric cycles of a path's hops. -/
def pathCycles : List Node → Nat
  | [] => 0
  | n :: rest => (match rest with | m :: _ => hopCycles n m | [] => 0) + pathCycles rest

/-- Core cycles that a read of chip shared memory takes at the least: twice the Race delivery time and 24 (R142). -/
def csmCycles (s : State) (c dest : Nat) : Nat :=
  let d := fld dest 34 14
  if d = c then 24
  else 24 + ceilDiv (6 * (5 + pathCycles (routeNodes s c d (routeOf s (c / 256) (d / 256) .k)))) (opDivisor (regionOf s (c / 256)).pwr.op)

end Sys2Proof.Machine
end

