-- ==== Sys2Proof/Machine/Batch.lean ====
section
/-!
DEFINITION. What a Millpond unit does for its serving mills (08 R286-R306, 09 R332-R344): reservations and the prefix table,
forming a batch, the length table, reading results, and the parts of a commit. STEP_RESTART writes a length table again (13 R492).
-/
namespace Sys2Proof.Machine

/-! ### Reservations (R289, R295, R296) -/

/-- A request leaves ADMITTED with an ERROR (R284). -/
def refuseAdmitted (s : State) (q : Nat) (code : Code) : State :=
  let r := reqOf s q
  let s := gmlError s r.session code 0x10 0 r.rseq r.tag.toNat
  let s := if code = .busy then mpdCount s (unitOfReq q) 1 1 else if code = .capacity then mpdCount s (unitOfReq q) 2 1 else s
  freeReq (dropPages s q) q

/-- Evicts prefix entries, the least recently used first, until `want` pages are free or none can go. -/
def evictFor (m want : Nat) : Nat → State → State
  | 0, s => s
  | n + 1, s =>
    let p := poolOf s m
    if want ≤ freePages p then s
    else match oldestUnused s m (List.range p.pfxent) with
      | none => s
      | some i => evictFor m want n (evictPfx s m i)

/-- Pages for `n` positions. -/
def pagesFor (n : Nat) : Nat := ceilDiv n 64

/-- Reserves `want` pages of mill `m`, evicting first; whether they are reserved. -/
def reserve (s : State) (m want : Nat) : Bool × State :=
  let s := evictFor m want ((poolOf s m).pfxent + 1) s
  if want ≤ freePages (poolOf s m) then (true, updPool s m fun p => { p with reserved := p.reserved + want }) else (false, s)

/-- Settles the reservation of an ADMITTED request (R289, R284). -/
def admitReq (s : State) (q : Nat) : State :=
  let r := reqOf s q
  let want := pagesFor r.maxlen - r.shared
  if (poolOf s r.mill).pages - r.shared < want then refuseAdmitted s q .capacity
  else match reserve s r.mill want with
    | (true, s) => updReq s q fun y =>
        { y with st := .prefill, resv := want, computed := 64 * y.shared, curlen := 64 * y.shared }
    | (false, s) => match classOf s r.img r.cls with
      | some k => if k.onfull = 0 then s else refuseAdmitted s q (if k.onfull = 1 then .busy else .capacity)
      | none => s

/-- Hash of block `j` (R294): the first 96 bits. -/
def blockHash (salt prev : List Byte) (toks : List (BitVec 32)) : List Byte :=
  shake256 (slice salt 0 32 ++ slice prev 0 12 ++ toks.flatMap fun t => leBytes 4 t.toNat) 12

/-- Hashes of the first `n` blocks of a request. -/
def blockHashes (salt : List Byte) : Nat → List Byte → List (BitVec 32) → List (List Byte)
  | 0, _, _ => []
  | n + 1, prev, toks => let h := blockHash salt prev (toks.take 64); h :: blockHashes salt n h (toks.drop 64)

/-- Shareable blocks: those whose every position is submitted and lies before the last submitted position (R295). -/
def shareable (r : Req) : Nat := if r.sublen = r.firstLen then (r.firstLen - 1) / 64 else r.firstLen / 64

/-- The hashes of a request's shareable blocks. -/
def reqHashes (s : State) (r : Req) : List (List Byte) :=
  blockHashes (realmOf s r.realm).salt (shareable r) [] r.tokens

/-- Entry indices of the bucket of a hash on mill `m`. -/
def bucketOf (s : State) (m : Nat) (h : List Byte) : List Nat :=
  let nb := (poolOf s m).pfxent / 8
  (List.range 8).map fun k => num h 0 8 % nb * 8 + k

/-- Index that stands for no entry. -/
def noEntry : Nat := 0xFFFFFFFF

/-- The unit reads these entries: what their bursts meet (R129, R162), and the bursts that it could not read, each with its INFO record. -/
def meetEntries (s : State) (m : Nat) (is : List Nat) (ups : List Upset) : State × List Nat :=
  (((is.filter (pfxReach s m)).map fun i => pfxAddr s m i / 64 * 64).dedup).foldl (fun st b =>
    match meetReads st.1 [(b, 64)] ups with
    | (s, none) => (s, st.2)
    | (s, some f) => (pfxRec s b f.syn, st.2 ++ [b])) (s, [])

/-- Can the unit read entry `i`, when it could not read the bursts `lost`? -/
def pfxGood (s : State) (m : Nat) (lost : List Nat) (i : Nat) : Bool :=
  pfxReach s m i && !pfxPoisoned s m i && !lost.contains (pfxAddr s m i / 64 * 64)

/-- The entries of the longest run of blocks that hit, from block 0 on (R295). -/
def pfxRun (s : State) (m : Nat) (lost : List Nat) : Nat → List (List Byte) → List Nat
  | _, [] => []
  | parent, h :: hs =>
    match (bucketOf s m h).find? fun i => let e := readPfx s m i
        pfxGood s m lost i && e.valid && e.hash == h && e.parent == parent && decide (e.refs < 0xFFFE) with
    | none => []
    | some i => i :: pfxRun s m lost i hs

/-- Takes the pages of a run of entries for request `q`. -/
def takeRun (s : State) (q : Nat) (is : List Nat) : State :=
  let m := (reqOf s q).mill
  let s := is.foldl (fun s i => let e := readPfx s m i; writePfx s m i { e with refs := e.refs + 1, lastuse := s.glb.time }) s
  updReq s q fun y => { y with pages := is.map fun i => (readPfx s m i).page, entries := is, shared := is.length, pfx := is.getLast? }

/-- Inserts the entry of block `j` of request `q` (R296); whether it was inserted: not when no slot that the unit can read can be taken, nor when
its parent cannot be read or has REFS at the largest value 0xFFFE (R292; DESIGN CHOICE, log entry 93). -/
def insertPfx (s : State) (q j : Nat) (lost : List Nat) (h : List Byte) : Bool × State :=
  let r := reqOf s q
  let m := r.mill
  let bucket := (bucketOf s m h).filter (pfxGood s m lost)
  let place := match bucket.find? fun i => !(readPfx s m i).valid with
    | some i => some (i, s)
    | none => (oldestUnused s m bucket).map fun i => (i, evictPfx s m i)
  let parent := if j = 0 then noEntry else r.entries.getD (j - 1) noEntry
  match place with
  | none => (false, s)
  | some (i, s) =>
    if j ≠ 0 && (!pfxGood s m lost parent || decide (0xFFFE ≤ (readPfx s m parent).refs)) then (false, s) else
    let s := if j = 0 then s else pfxRefs s m parent (· + 1)
    let s := writePfx s m i { hash := h, page := r.pages.getD j 0, parent := parent, refs := 1, valid := true, lastuse := s.glb.time }
    (true, updReq s q fun y => { y with entries := y.entries ++ [i], pfx := some i })

/-- Inserts the entries of the shareable blocks that the step from position `from_` to `done` completed, in ascending order,
while slots are found (R296). -/
def insertRun (q from_ done : Nat) (lost : List Nat) : Nat → List (List Byte) → State → State
  | _, [], s => s
  | j, h :: hs, s =>
    if done < 64 * (j + 1) then s
    else if j < (reqOf s q).entries.length then insertRun q from_ done lost (j + 1) hs s
    else if 64 * (j + 1) ≤ from_ then s
    else match insertPfx s q j lost h with
      | (false, s) => s
      | (true, s) => insertRun q from_ done lost (j + 1) hs s

/-- After a prefill step that computed the positions from `from_` to `done`: the unit reads the buckets of the blocks that it inserts, and the
entry before them. -/
def insertBlocks (s : State) (q from_ done : Nat) (ups : List Upset) : State :=
  let r := reqOf s q
  if (poolOf s r.mill).pfxent = 0 then s
  else
    let hs := reqHashes s r
    let new := (hs.zipIdx.filter fun p => decide (64 * (p.2 + 1) ≤ done) && decide (r.entries.length ≤ p.2) && decide (from_ < 64 * (p.2 + 1))).map (·.1)
    let is := if new.isEmpty then [] else new.flatMap (bucketOf s r.mill) ++ r.entries.getLast?.toList
    let (s, lost) := meetEntries s r.mill is ups
    insertRun q from_ done lost 0 hs s

/-! ### Drafting (R335-R337, R344) -/

/-- Does the request draft (R335)? -/
def drafting (s : State) (r : Req) : Bool := !r.draft.nodraft && (classOf s r.img r.cls).any fun k => k.draft != 0

/-- Draft size for an EWMA (R344). -/
def draftSize (k : ClassRec) (ewma : Nat) : Nat :=
  if k.draft = 1 then min k.draftlen (3 * ewma / 512 + 1) else min k.draftlen (4 * (ewma / 256 + 1))

/-- EWMA at admission (R336). -/
def ewma0 (k : ClassRec) : Nat := min 0xFFFF (k.ewmaMin + 256)

/-- The draft fields of a request at admission; pages are reserved in the draft mill's pool (R336). -/
def admitDraft (s : State) (q : Nat) : State :=
  let r := reqOf s q
  match classOf s r.img r.cls, draftMillOf s r.mill with
  | some k, some d =>
    if k.draft = 0 then s
    else
      let base : DraftSt := { r.draft with ewma := ewma0 k, dcur := draftSize k (ewma0 k), dlag := r.sublen }
      let want := pagesFor r.maxlen
      if 65535 < r.sublen ∨ freePages (poolOf s d) < want then updReq s q fun y => { y with draft := { base with nodraft := true } }
      else
        let s := updPool s d fun p => { p with reserved := p.reserved + want }
        updReq s q fun y => { y with draft := { base with resv := want } }
  | _, _ => s

/-! ### The records of a batch (R302, R303, R337, R340) -/

/-- What a request asks of a step: the kind, and its record with the token words and the pages of its list. -/
structure Ask where
  kind : Nat
  flags : Nat
  pos0 : Nat
  nnew : Nat
  dlen : Nat := 0
  words : List (BitVec 32) := []
  pages : Nat
  fresh : Bool := false
  sn : Nat := 0
deriving DecidableEq, Repr

/-- Words that carry the parents of a draft, four to a word (R340). -/
def parentWords (ps : List Nat) : List (BitVec 32) :=
  (List.range (ceilDiv ps.length 4)).map fun i => BitVec.ofNat 32 (leNat ((List.range 4).map fun k => BitVec.ofNat 8 (ps.getD (4 * i + k) 0)))

/-- Tokens of the positions [a, a + n). -/
def tokenSlice (r : Req) (a n : Nat) : List (BitVec 32) := (r.tokens.drop a).take n

/-- The record of a request on its serving mill. A park waits for the restore that is due (R311, R312). -/
def askServe (r : Req) : Ask :=
  let g := if r.greedy then 32 else 0
  if r.park && !(r.restore && !r.summary) then { kind := 1, flags := 4 + g, pos0 := r.curlen, nnew := 0, pages := r.pages.length, sn := r.parkaddr }
  else if r.restore && !r.summary then
    { kind := 1, flags := 8 + 2 + g, pos0 := r.curlen, nnew := 0, pages := r.parkPages, fresh := true, sn := r.parkaddr }
  else if r.st = .prefill then
    let n := min (min r.tokens.length r.maxlen - r.computed) 4096
    let sum := r.restore && r.summary
    -- the positions of a summary count against MAXLEN, which ends the prefill when nothing may be generated (log entry 68)
    let last := r.computed + n == r.tokens.length && decide (r.tokens.length < r.maxlen)
    { kind := 0, flags := bnat last + (if r.fresh then 2 else 0) + (if sum then 16 else 0) + g, pos0 := r.computed, nnew := n
      words := tokenSlice r r.computed n, pages := pagesFor (min (r.computed + n) r.maxlen), fresh := r.fresh, sn := if sum then r.parkaddr else 0 }
  else
    let pos0 := r.curlen - 1 - r.draft.fixup
    let n := r.draft.fixup + 1
    if r.draft.ready then
      let d := r.draft.draft.tokens.length
      { kind := 2, flags := g + (if r.fresh then 2 else 0), pos0 := pos0, nnew := n + d, dlen := d
        words := tokenSlice r pos0 n ++ r.draft.draft.tokens ++ parentWords r.draft.draft.parents, pages := pagesFor (pos0 + n + d)
        fresh := r.fresh }
    else
      { kind := 1, flags := 1 + g + (if r.fresh then 2 else 0), pos0 := pos0, nnew := n, words := tokenSlice r pos0 n
        pages := pagesFor (pos0 + n), fresh := r.fresh }

/-- The record of a request on its draft mill (R337); none when it is not ready for a draft step. `beside`: the request is in a step of its
serving mill or in a batch about to be rung, beside which only a catch-up may run. -/
def askDraft (r : Req) (beside : Bool) : Option Ask :=
  let lag := r.draft.dlag
  let pos0 := r.tokens.length - lag
  let base : Ask := { kind := 1, flags := 32 + (if r.draft.pages.isEmpty then 2 else 0), pos0 := pos0, nnew := 0, pages := 0
                      fresh := r.draft.pages.isEmpty }
  let n := min lag 4096
  let catchUp := { base with nnew := n, words := tokenSlice r pos0 n, pages := pagesFor (pos0 + n) }
  if r.draft.dstep || r.draft.ready || r.park || r.restore || lag = 0 then none
  else if r.draft.held then (if 64 ≤ lag then some catchUp else none)
  else if 4096 < lag ∨ r.st = .prefill then some catchUp
  else if r.st = .decode && !beside then
    let d := min r.draft.dcur (r.maxlen - r.curlen - 1)
    if d = 0 then none
    else some { catchUp with dlen := d, pages := pagesFor (pos0 + n + d) }
  else none

/-- The record of a request on the summary mill (R311). -/
def askSummary (r : Req) : Ask := { kind := 0, flags := 64, pos0 := r.curlen, nnew := 0, pages := r.pages.length, sn := r.parkaddr }

/-- The role of a mill: 0 SERVE, 1 DRAFT, 2 SUMMARY. -/
def roleOf (s : State) (m : Nat) : Nat := match serveOf s m with | some r => r.role | none => 0

/-- The summary mill of a serving mill: the first of ROLE SUMMARY on the same unit (R260). -/
def summaryMillOf (s : State) (m : Nat) : Option Nat :=
  match serveOf s m with
  | none => none
  | some r => ((serveRecs (slotOf s (millOf s m).cfg.slot).image).find? fun x => x.role == 2 && x.unit == r.unit).map (·.mill)

/-- Is the request in a batch that is formed on mill `m` and not rung yet? -/
def inBatch (s : State) (m q : Nat) : Bool := (batchOf s m).recs.any fun r => r.req == q

/-- The level of a request at time `t` (R291). -/
def levelOf (age t : Nat) (r : Req) : Nat := min 7 (r.prio + (t - r.enq) / (1000 * age))

/-- Does request `a` rank before request `b` (R291)? -/
def ranksBefore (s : State) (a b : Nat) : Bool :=
  let f := fun q => let r := reqOf s q
    let age := (unitOf s (unitOfReq q)).age.toNat
    (7 - levelOf age s.glb.time r, r.deadline, r.enq, q)
  let (x1, x2, x3, x4) := f a
  let (y1, y2, y3, y4) := f b
  decide (x1 < y1) || (x1 == y1 && (decide (x2 < y2) || (x2 == y2 && (decide (x3 < y3) || (x3 == y3 && decide (x4 < y4))))))

/-- Is the request ready for a step of its serving mill (R302, R311, R337, R369)? One whose CANCEL waits for a draft step is not (R345). -/
def readyServe (r : Req) : Bool :=
  !r.instep && !r.draft.proposal && !r.lookup && decide (unsent r < 4096) &&
    (if r.park then !r.summary && !r.draft.dstep
     else !r.cancel && (r.st == .prefill || r.st == .decode))

/-- Is the request ready for a step of its serving mill or its draft mill (R291)? -/
def readyStep (s : State) (m : Nat) (r : Req) : Bool :=
  readyServe r || drafting s r && (draftMillOf s m).isSome && (r.st == .prefill || r.st == .decode) && (askDraft r r.instep).isSome

/-- A retirement at time `t` that leaves the request ready for another step sets ENQ (R291). -/
def enqueue (s : State) (q t : Nat) : State :=
  updReq s q fun y => if readyStep s y.mill y then { y with enq := t } else y

/-- Is the request in a proposal that its draft mill is about to run (R337)? -/
def proposed (s : State) (r : Req) (q : Nat) : Bool :=
  match draftMillOf s r.mill with
  | some d => (batchOf s d).recs.any fun x => x.req == q && decide (x.dlen ≠ 0)
  | none => false

/-- The requests that mill `m` could carry now, each with its record. -/
def asksOf (s : State) (m : Nat) : List (Nat × Ask) :=
  let all := s.pond.reqs.map (·.1)
  let qs := match roleOf s m with
    | 0 => (reqsOf s m).filterMap fun q => if readyServe (reqOf s q) && !proposed s (reqOf s q) q then some (q, askServe (reqOf s q)) else none
    | 1 => all.filterMap fun q =>
        let r := reqOf s q
        if draftMillOf s r.mill = some m && drafting s r && (r.st == .prefill || r.st == .decode) && !r.cancel && decide (unsent r < 4096) then
          (askDraft r (r.instep || inBatch s r.mill q)).map fun a => (q, a)
        else none
    | _ => all.filterMap fun q =>
        let r := reqOf s q
        if r.park && r.summary && !r.instep && !r.draft.dstep && decide (unsent r < 4096) && summaryMillOf s r.mill = some m then some (q, askSummary r) else none
  sortBy (fun x y => ranksBefore s x.1 y.1) qs

/-- Pages of a request's list on mill `m` that are there already. -/
def listPages (s : State) (m q : Nat) : List Nat := if roleOf s m = 1 then (reqOf s q).draft.pages else (reqOf s q).pages

/-- Pages appended to the list in this step (R303). -/
def appended (s : State) (m q : Nat) (a : Ask) : Nat := if a.fresh then a.pages else a.pages - (listPages s m q).length

/-- The window LTWIN of mill `m` on core `c`: space, first byte, length. -/
def ltRange (s : State) (m c : Nat) : Nat × Nat × Nat :=
  match serveOf s m with
  | some r => windowRange (coreOf s c) (windowOf (coreOf s c) r.ltwin)
  | none => (0, 0, 0)

/-- RESOFF for so many records, token words and page words (R303, R304). -/
def resOff (nreq ntok npg : Nat) : Nat := roundUp (128 + 64 * nreq + 4 * ntok + 4 * npg) 16

/-- Bytes of a result record, with the draft record of a draft mill (R304, R338). -/
def resultBytes (role : Nat) : Nat := if role = 1 then 80 + 336 else 80

/-- The groups chosen so far. -/
structure Groups where
  starts : List Nat := []
  chosen : List (Nat × Ask) := []
  inGroup : Nat := 0
  rows : Nat := 0
  ntok : Nat := 0
  npg : Nat := 0
  stop : Bool := false
deriving DecidableEq, Repr

/-- One turn of the loop of R302. -/
def addToGroups (s : State) (m maxbatch kind room role : Nat) (g : Groups) (x : Nat × Ask) : Groups :=
  let a := x.2
  if g.stop ∨ a.kind ≠ kind then g
  else
    let closing := g.inGroup = maxbatch ∨ 4096 < g.rows + a.nnew
    let starts := if g.inGroup = 0 ∨ closing then g.starts ++ [g.chosen.length] else g.starts
    let nreq := g.chosen.length + 1
    let ntok := g.ntok + a.words.length
    let npg := g.npg + appended s m x.1 a
    if closing ∧ g.starts.length = 32 then { g with stop := true }
    else if room < resOff nreq ntok npg + resultBytes role * nreq then { g with stop := true }
    else { starts := starts, chosen := g.chosen ++ [x], inGroup := if closing then 1 else g.inGroup + 1
           rows := if closing then a.nnew else g.rows + a.nnew, ntok := ntok, npg := npg }

/-- The batch that mill `m` would carry now. -/
def chooseBatch (s : State) (m : Nat) : Groups :=
  match serveOf s m, asksOf s m with
  | some r, (q, a) :: rest =>
    let room := match anchorsOf s m with | c :: _ => (ltRange s m c).2.2 | [] => 0
    ((q, a) :: rest).foldl (addToGroups s m r.maxbatch a.kind room r.role) {}
  | _, _ => {}

/-- Places one request in the batch of mill `m`: pages for its list, a new epoch (R332), its record. -/
def placeReq (m role : Nat) (s : State) (x : Nat × Ask) : State :=
  let (q, a) := x
  let have_ := listPages s m q
  let n := a.pages - have_.length
  let (new, s) := takePages n s m
  let pages := have_ ++ new
  let s := updReq s q fun y =>
    let d := { y.draft with epoch := (y.draft.epoch + 1) % 256 }
    if role = 1 then { y with draft := { d with pages := pages, resv := d.resv - n } }
    else { y with pages := pages, resv := y.resv - n, draft := d, fresh := if a.fresh then false else y.fresh }
  let add := if a.fresh then pages else new
  updBatch s m fun b =>
    { b with recs := b.recs ++ [{ req := q, flags := a.flags, epoch := (reqOf s q).draft.epoch, pos0 := a.pos0, nnew := a.nnew
                                  dlen := a.dlen, nadd := add.length, addoff := b.pagesAdded.length, tokoff := b.tokens.length
                                  npages := pages.length, snaddr := a.sn }]
             tokens := b.tokens ++ a.words, pagesAdded := b.pagesAdded ++ add }

/-- The 64 bytes of a record (R303). -/
def ltRecBytes (s : State) (x : LtRec) : List Byte :=
  let r := reqOf s x.req
  leBytes 2 x.req ++ leBytes 1 x.flags ++ leBytes 1 x.epoch ++ leBytes 4 x.pos0 ++ leBytes 4 x.nnew ++ leBytes 2 (x.req % 8192)
    ++ leBytes 1 x.dlen ++ leBytes 1 0 ++ leBytes 4 x.nadd ++ leBytes 4 x.addoff ++ leBytes 4 x.tokoff ++ leBytes 4 x.npages
    ++ leBytes 8 r.seed.toNat ++ leBytes 2 r.temp.toNat ++ leBytes 2 r.topk.toNat ++ leBytes 2 r.topp.toNat ++ leBytes 2 0
    ++ leBytes 8 x.snaddr ++ leBytes 8 0

/-- The length table of mill `m` (R303). -/
def lengthTable (s : State) (m : Nat) : List Byte :=
  let b := batchOf s m
  leBytes 4 b.kind ++ leBytes 4 b.recs.length ++ leBytes 4 b.groups.length ++ leBytes 4 b.tokens.length
    ++ leBytes 4 b.pagesAdded.length ++ leBytes 4 b.resoff ++ leBytes 8 ((millOf s m).steps + 1) ++ leBytes 32 0
    ++ ((List.range 32).flatMap fun i => leBytes 2 (b.groups.getD i 0xFFFF))
    ++ b.recs.flatMap (ltRecBytes s)
    ++ padTo 16 ((b.tokens.flatMap fun t => leBytes 4 t.toNat) ++ b.pagesAdded.flatMap fun p => leBytes 4 p)

/-- The checks of R151 for a unit's access of `n` bytes at offset `off` of LTWIN on core `c`: the unit is bound to the mill
(R178), and its packets carry the window's own EPOCH (DESIGN CHOICE, log entry 49). -/
def ltCode (s : State) (m c off n : Nat) (write : Bool) : Option Code :=
  match serveOf s m with
  | none => some .window
  | some r =>
    let w := windowOf (coreOf s c) r.ltwin
    let len := (ltRange s m c).2.2
    firstFail
      [(decide ((millOf s m).dstate = .opened) && decide ((millOf s m).st ≠ .fenced), .fenced),
       (w.opened && (if write then w.dir % 2 == 1 else w.dir / 2 == 1) && decide (off < len), .window),
       (decide (off + n ≤ len), .length), (!(write && w.accum), .format)]

/-- Writes the length table into LTWIN on every anchor, in ascending region order (R305): the code of the first refusal. -/
def writeTable (s : State) (m : Nat) : State × Option Code :=
  let bs := lengthTable s m
  (anchorsOf s m).foldl (fun (st : State × Option Code) c =>
    let (sp, lo, _) := ltRange st.1 m c
    let u := (serveOf st.1 m).elim (0, 0) fun r => (r.ltwin, r.unit)
    let (s, x) := edgeWrite st.1 u.2 c u.1 (coreAddr c sp lo) .a bs (fun s => ltCode s m c 0 bs.length true) []
    (s, st.2.or x)) (s, none)

/-- The length table was refused: every request of the batch fails with the code, and the batch is gone (R305). -/
def failBatch (s : State) (m : Nat) (code : Code) : State :=
  let b := batchOf s m
  let s := updBatch s m fun _ => {}
  b.recs.foldl (fun s x => endReq (updReq s x.req fun y => { y with instep := false, draft := { y.draft with dstep := false, proposal := false } })
    x.req .failed code false) s

/-- Forms the batch of mill `m`, when there is one, and writes its length table (R302, R305). -/
def formBatch (s : State) (m : Nat) : State :=
  let g := chooseBatch s m
  match g.chosen with
  | [] => s
  | x :: _ =>
    let role := roleOf s m
    let s := updBatch s m fun _ => { kind := x.2.kind, groups := g.starts, resoff := resOff g.chosen.length g.ntok g.npg }
    let s := g.chosen.foldl (placeReq m role) s
    match writeTable s m with
    | (s, none) => s
    | (s, some code) => failBatch s m code

/-! ### Starting a step (06 R200, R201; 01 R39) -/

/-- Does a region that the mill touches no longer fit its image (R28 step 3)? -/
def unfitFor (s : State) (m : Nat) : Bool := (regionsOf s m).any (slotOf s (millOf s m).cfg.slot).unfit.contains

/-- May a step of owner `m` start: it is IDLE and its image fits? -/
def canStart (s : State) (m : Nat) : Bool := decide ((millOf s m).st = .idle) && !unfitFor s m

/-- Is ENTRY below the program length of every core (R200)? -/
def entryOk (s : State) (m entry : Nat) : Bool := (coresOf s m).all fun c => decide (entry < (coreOf s c).len)

/-- An accepted doorbell: the step starts 32 ns later; F is cleared (R201, R490). -/
def acceptStep (s : State) (m entry : Nat) (arg : BitVec 32) : State :=
  refresh (updMill s m fun k =>
    { k with st := .running, inStep := true, f := 0, entry := entry, arg := arg, startAt := some (s.glb.time + 32), ended := []
             reset2 := false })

/-! ### Park space (R310) -/

/-- The Snowpack ranges that parked states hold. -/
def parkedRanges (s : State) : List (Nat × Nat) :=
  (s.pond.reqs.filter fun p => p.2.parkaddr ≠ 0 || p.2.parklen ≠ 0).map fun p => (p.2.parkaddr, p.2.parklen)

/-- First fit of `n` bytes, in 64 KiB granules, in the FLUME ranges of mill `m` with RD and WR. -/
def parkSpace (s : State) (m n : Nat) : Option Nat :=
  let taken := parkedRanges s
  let n := roundUp n 65536
  ((millOf s m).cfg.flumes.filter fun f => f.rd && f.wr).findSome? fun f =>
    let starts := f.base :: (taken.filterMap fun t =>
      let a := roundUp (t.1 + t.2) 65536
      if f.base ≤ a then some a else none)
    (sortNat starts).find? fun a => decide (a + n ≤ f.base + f.len) && !taken.any (touch (a, n))

/-- Bytes of the parked state of request `r`, whose mode is decided (R310). -/
def parkBytes (s : State) (r : Req) (summary : Bool) : Nat :=
  let p := poolOf s r.mill
  if summary then match summaryMillOf s r.mill with
    | some z => p.sumb * (coresOf s z).length
    | none => 0
  else r.pages.length * p.pageb * (coresOf s r.mill).length

/-- Does request `r` park a summary (R309)? -/
def parksSummary (k : ClassRec) (r : Req) : Bool := k.parkmode == 1 || (k.parkmode == 2 && decide (k.parkthresh < r.pages.length))

/-- Starts the park of request `q`: space is taken and PEND.PARK set (R310, R311); none when no range has room. -/
def startPark (s : State) (q ttl : Nat) : Option State :=
  let r := reqOf s q
  match classOf s r.img r.cls with
  | none => none
  | some k =>
    let sum := parksSummary k r
    let n := parkBytes s r sum
    (parkSpace s r.mill n).map fun a =>
      let s := updReq s q fun y =>
        { y with park := true, summary := sum, parkaddr := a, parklen := n, ttl := ttl, parkPages := y.pages.length }
      -- a draft outstanding is discarded: at once, or when the draft step or the VERIFY step that uses it retires (R311, R343, R345)
      let s := if r.draft.dstep || r.instep || inBatch s r.mill q then s else dropDraft s q
      updReq s q fun y => { y with draft := { y.draft with nodraft := true, ready := false } }

/-- The Snowpack range of a request is released. -/
def releasePark (s : State) (q : Nat) : State :=
  updReq s q fun y => { y with parkaddr := 0, parklen := 0, parkPages := 0, summary := false }

/-- The parked state of request `q` goes: the entry becomes FREE (R284, R313). -/
def expirePark (s : State) (q : Nat) : State := freeReq (mpdCount s (unitOfReq q) 13 1) q

/-- The park step of request `q` retired at time `t` (R311 step 4). -/
def finishPark (s : State) (q t : Nat) : State :=
  let r := reqOf s q
  let s := dropPages s q
  if r.cancel then endReq (releasePark (updReq s q fun y => { y with park := false }) q) q .cancelled .ok false
  else
    let s := updReq s q fun y => { y with st := .parked, park := false, instep := false, parkexp := t + r.ttl * 1000000000, fresh := true }
    let s := mpdCount s (unitOfReq q) 12 1
    let s := if r.endPark then flush s q else gmlSend s r.session 0x13 1 (leBytes 4 q ++ leBytes 4 r.ttl)
    if r.ttl = 0 then expirePark s q else s

end Sys2Proof.Machine
end

