-- ==== Sys2Proof/Machine/Flits.lean ====
section
/-!
DEFINITION. The sending side of a Tailrace link (10 R388-R393): flits as codewords, the replay buffer, the round robin of the queues, and the
messages that Flume writes become.
-/
namespace Sys2Proof.Machine

/-! ### Flits as they leave (R388) -/

/-- One bit of CRC-64 with the ECMA-182 polynomial, most significant bit first (log entry 98). -/
def crcBit (c : BitVec 64) : BitVec 64 := if c.msb then (c <<< 1) ^^^ 0x42F0E1EBA9EA3693#64 else c <<< 1

/-- The CRC of bytes, from an initial value of all ones. -/
def crc64 (bs : List Byte) : BitVec 64 :=
  bs.foldl (fun c b => (List.range 8).foldl (fun c _ => crcBit c) (c ^^^ (BitVec.ofNat 64 b.toNat <<< 56))) (BitVec.allOnes 64)

/-- A flit with the acknowledgement, the NAK and the credits that its header carries. -/
def flitBytes (f : TxFlit) (ack : Nat) (nak : Bool) (cq cred : Nat) : List Byte :=
  let len := if f.type = 1 then f.payload.length else 0
  let h := pack [(0, f.type), (4, f.seq), (16, ack), (28, bnat nak), (29, bnat f.som), (30, bnat f.eom), (32, f.queue), (36, len)
                 , (44, cq), (48, cred)]
  let b := leBytes 8 h ++ slice f.payload 0 240
  b ++ leBytes 8 (crc64 b).toNat

/-- A flit leaves (R388): its header carries ACK, a NAK that is due, and the slots that one queue returns (R389, R390). -/
def emitFlit (s : State) (l : Nat) (f : TxFlit) : State :=
  let x := linkOf s l
  let (cq, cred) := match x.queues.find? fun q => decide (q.2.owe ≠ 0) with
    | some q => (q.1, min q.2.owe 65534)
    | none => (0, 0)
  let b := flitBytes f x.rxSeq x.nakDue cq cred
  let s := updLink s l fun x => { x with nakDue := false, ackDue := false }
  let s := if cred = 0 then s else updQueue s l cq fun q => { q with owe := q.owe - cred }
  { s with out := s.out ++ [.flit l (b ++ leBytes 16 (Config.flitParity b).toNat)] }

/-! ### The replay buffer (R389) -/

/-- A DATA (1) or QCFG (2) flit takes the next SEQ, enters the replay buffer and leaves; it starts the 2 µs timer when none is outstanding. -/
def pushFlit (s : State) (l : Nat) (f : TxFlit) : State :=
  let f := { f with seq := (linkOf s l).txSeq }
  let s := updLink s l fun x =>
    { x with txSeq := (x.txSeq + 1) % 4096, replay := x.replay ++ [f], ackAt := if x.replay.isEmpty then s.glb.time else x.ackAt }
  emitFlit (linkCount s l 0) l f

/-- A QCFG flit with the EN and SLOTB of the 16 queues (R388, R393, R394). -/
def pushQcfg (s : State) (l : Nat) : State :=
  pushFlit (updLink s l fun x => { x with cfgDue := false }) l
    { type := 2, seq := 0, queue := 0, som := false, eom := false, mseq := 0, payload := (List.range 16).flatMap fun q =>
        let x := queueOf s l q
        [BitVec.ofNat 8 (bnat x.en), 0] ++ leBytes 2 (if x.en then x.slotb else 0) ++ leBytes 4 0 }

/-- The queue that sends next (R390): in round robin, one with a message begun, or a message and a credit for its SOM flit. -/
def nextQueue (x : Link) : Option Nat :=
  ((List.range 16).map fun i => (x.turn + i) % 16).find? fun q =>
    let y := Tbl.get {} x.queues q
    match y.sendq with
    | m :: _ => m.begun || decide (0 < y.credit)
    | [] => false

/-- The next flit of queue `q` leaves; a SOM flit uses a credit and gives its message the next MSEQ (R390, R396). -/
def pushNext (s : State) (l q : Nat) : State :=
  let y := queueOf s l q
  match y.sendq with
  | [] => s
  | m :: rest =>
    let last := decide (m.bytes.length ≤ 240)
    let mseq := if m.begun then y.mseq - 1 else y.mseq
    let s := updQueue s l q fun y =>
      { y with sendq := if last then rest else { m with begun := true, bytes := m.bytes.drop 240 } :: rest
               credit := if m.begun then y.credit else y.credit - 1, mseq := mseq + 1 }
    pushFlit (updLink s l fun x => { x with turn := (q + 1) % 16 }) l
      { type := 1, seq := 0, queue := q, som := !m.begun, eom := last, mseq := mseq, payload := m.bytes.take 240 }

/-- Flits leave while the link carries flits and fewer than 2,048 are unacknowledged, a QCFG flit first; at most `n`. -/
def drain : Nat → State → Nat → State
  | 0, s, _ => s
  | n + 1, s, l =>
    let x := linkOf s l
    if !x.up || decide (2048 ≤ x.replay.length) then s
    else if x.cfgDue then drain n (pushQcfg s l) l
    else match nextQueue x with
      | none => s
      | some q => drain n (pushNext s l q) l

/-- IDLE flits carry what the header still has to say (R388, log entry 98); at most `n`. -/
def idleFlits : Nat → State → Nat → State
  | 0, s, _ => s
  | n + 1, s, l =>
    let x := linkOf s l
    if x.up && (x.nakDue || x.ackDue || x.queues.any fun q => decide (q.2.owe ≠ 0)) then
      idleFlits n (emitFlit s l { type := 0, seq := 0, queue := 0, som := false, eom := false, mseq := 0, payload := [] }) l
    else s

/-- The link sends all that it can. -/
def settleLink (s : State) (l : Nat) : State := idleFlits 17 (drain 2049 s l) l

/-! ### Messages (R390, R391) -/

/-- Is a credit of the queue free: more are held than messages wait for one? While none is, a write waits (R391). -/
def canSend (s : State) (l q : Nat) : Bool :=
  let x := queueOf s l q
  decide (x.sendq.countP (!·.begun) < x.credit)

/-! ### A transfer on plane K (R166, R403) -/

/-- The accesses of core `c`'s transfer of [a, a + n): undivided to the controller of the link whose aperture takes it (R391), else one to each
controller in turn (R403). -/
def flumeAccesses (s : State) (c a n : Nat) (write : Bool) : List (Nat × Nat × Nat) :=
  match snowRoute s c a n write with
  | .aperture l _ => [(l / 2, a, n)]
  | _ => snowAccesses s a n

/-- The accesses leave core `c`: a prefix of 16 bytes each, and the data of a write (R403). -/
def flumeOut (s : State) (c a n : Nat) (write : Bool) : State × Option Code :=
  (flumeAccesses s c a n write).foldl (fun st x =>
    let (s, e) := flumeCross st.1 .k c x.1 (16 + if write then x.2.2 else 0) (snowAddr x.2.1) true
    (s, st.2.or e)) (s, none)

/-- Their RESPONSEs come back, after the data of a read: is one of them, or some of the data, discarded on the way (R179, R180, R193)? -/
def flumeBack (s : State) (c a n : Nat) (write data : Bool) : State × Bool :=
  (flumeAccesses s c a n write).foldl (fun st x =>
    let (s, e) := if data then flumeCross st.1 .k c x.1 x.2.2 (snowAddr x.2.1) false else (st.1, none)
    let (s, f) := flumeCross s .c c x.1 0 (coreAddr c 0 0) false
    (s, st.2 || e.isSome || f.isSome)) (s, false)

/-- A Flume write becomes one message. -/
def sendMessage (s : State) (l q : Nat) (bs : List Byte) : State :=
  let s := updQueue { s with ids := s.ids + 1 } l q fun x => { x with sendq := x.sendq ++ [{ id := s.ids, bytes := bs }] }
  settleLink s l

/-- The message of a number that still has flits to send, with its link and queue. -/
def messageAt (s : State) (id : Nat) : Option (Nat × Nat × Message) :=
  (s.links.flatMap fun l => l.2.queues.flatMap fun q => q.2.sendq.map fun m => (l.1, q.1, m)).find? fun m => m.2.2.id == id

/-- Has the last flit of each of the messages `lo` to `hi` - 1 entered the replay buffer (R391)? -/
def messagesSent (s : State) (lo hi : Nat) : Bool :=
  s.links.all fun l => l.2.queues.all fun q => q.2.sendq.all fun m => !(decide (lo ≤ m.id) && decide (m.id < hi))

/-- May a served transfer complete (R226, R391)? -/
def flumeSent (s : State) (t : FlumeT) : Bool := match t.msg with
  | some n => messagesSent s n (n + 1)
  | none => true

/-- An abandoned write of which no flit has left may be given up, or still be sent (R228). -/
def abandonMessage (s : State) (id : Nat) : State :=
  match messageAt s id with
  | some (l, q, m) =>
    if m.begun then s
    else
      let (keep, s) := drawBit s
      if keep then s else updQueue s l q fun x => { x with sendq := x.sendq.filter (·.id ≠ id) }
  | none => s

end Sys2Proof.Machine
end

