-- ==== Sys2Proof/Machine/Matrix.lean ====
section
/-!
DEFINITION. The matrix engine and the Spillway unit (02 R53-R59, 03 R96-R109): MATMUL, WIDE, DRAIN, SPILL_W, SPILL_A.
-/
namespace Sys2Proof.Machine

/-- M, the rows of A. -/
def meM (d : Desc) : Nat := bits d.w0 32 9
/-- N, the rows of B. -/
def meN (d : Desc) : Nat := bits d.w0 41 13
/-- OUTMODE. -/
def meOut (d : Desc) : Nat := bits d.w0 54 3
/-- INIT. -/
def meInit (d : Desc) : Bool := bit d.w0 57
/-- WFMT. -/
def meWfmt (d : Desc) : Bool := bit d.w0 58
/-- KBLK. -/
def meKblk (d : Desc) : Nat := bits d.w2 32 20
/-- OP of a descriptor. -/
def descOp (d : Desc) : Nat := bits d.w0 4 4
/-- RATE of a descriptor. -/
def descRate (d : Desc) : Nat := bits d.w0 18 2

/-- Does a DRAIN name no headers (R53)? -/
def drainBare (d : Desc) : Bool := decide (lo32 d.w1 = 0) && decide (hi32 d.w1 = 0)

/-- The plan of an ME descriptor (R53, R54, R76). A DRAIN whose KBLK is not 0 fails step 1 (DEDUCED, log entry 86), and its
headers may be of any formats of R54, paired or not (DESIGN CHOICE, log entry 103). -/
def mePlan (s : State) (c : Nat) (d : Desc) : Plan :=
  let op := descOp d
  let m := meM d
  let n := meN d
  let kb := meKblk d
  let plain := op == 1 && meWfmt d
  let hdrA := if op = 0 then headerOk [0, 1] true else if op = 1 then headerOk [4] false else headerOk [0, 1, 4] false
  let hdrB := if op = 0 then headerOk [0, 1, 2, 3] false else if op = 1 then headerOk [4] false
    else headerOk [0, 1, 2, 3, 4] false
  let sizeOf := fun (rows : Nat) (b : List Byte) =>
    if op = 2 then 16 else if plain then 2 * rows * 32 * kb else tensorBytes rows kb b
  let a : Operand := { orf := lo32 d.w1, spaces := [1, 4], unit := some 1, rd := true, wr := false
                       header := if plain then none else some hdrA, size := sizeOf m
                       dims := if op = 0 then (m, kb) else (0, 0) }
  let b : Operand := { orf := hi32 d.w1, spaces := [0, 1, 4], unit := some 1, rd := true, wr := false
                       header := if plain then none else some hdrB, size := sizeOf n }
  let out : Operand := { orf := lo32 d.w2, spaces := if meOut d = 3 then [4] else [1, 2, 4]
                         unit := if meOut d = 3 then some 5 else none, rd := false, wr := true, header := none
                         size := fun _ => m * n * (if meOut d = 1 then 2 else 4) }
  let l : Operand := { orf := lo32 d.w3, spaces := [2], unit := none, rd := true, wr := true, header := none
                       size := fun _ => 16 * m * n }
  { encoding := decide (op ≤ 2) && decide (meOut d ≤ 3) && decide (bits d.w0 59 5 = 0) && decide (bits d.w2 52 12 = 0)
      && decide (hi32 d.w3 = 0) && (op == 1 || !meWfmt d) && (decide (meOut d ≠ 0) || decide (lo32 d.w2 = 0))
      && [lo32 d.w1, hi32 d.w1, lo32 d.w2, lo32 d.w3].all orfOk && (op ≠ 2 || (decide (meOut d ≠ 0) && decide (kb = 0)))
    counts := [(m, 511, 256), (n, 8191, 4096)] ++ (if op = 2 then [] else [(kb, 2 ^ 20 - 1, 524288)])
    operands := (if op = 2 && drainBare d then [] else [a, b]) ++ (if meOut d = 0 then [] else [out]) ++ [l]
    tokens := tokensAt 4 (descRate d)
      + (if op ≠ 2 && (placeOf s c (hi32 d.w1)).space == 0 then tokensAt 6 (descRate d) else 0) }

/-- Every (m, n) of an output, row by row. -/
def cells (m n : Nat) : List (Nat × Nat) := (List.range m).flatMap fun i => (List.range n).map fun j => (i, j)

/-- The failure of word `w` at `a`: a residue mismatch names the residue that the word records and that of its sum (R486; log
entry 75). -/
def wordFail (a : Nat) (w : Lacc) (x : Code) : Fail :=
  { code := x, addr := a, syn := if x = .residue then w.res + at_ 4 (mod7 w.sum) else 0 }

/-- Adds one term into a word of partial-sum memory (R98, R99, R579). -/
def addTerm (s : State) (a : Nat) (unit : Bool) (term : Int) : State × Option Fail :=
  let w := laccOf (readNum s a 16)
  let (w', bad) := laccAdd w unit term
  (if w' = w && bad.isSome then s else writeNum s a 16 (laccBits w'), bad.map (wordFail a w))

/-- The magnitude of a TSCALE in units of 2^-149. -/
def tsMag (n : Nat) : Nat := match decode32 n with | .fin _ m => m | _ => 0

/-- Writes the value of word `a` at `out` as BF16 or FP32 (R108, R109). -/
def outWord (s : State) (a out : Nat) (bf16 : Bool) (ta tb : Nat) : State × Option Fail :=
  let w := laccOf (readNum s a 16)
  match laccRead w with
  | some x => (s, some (wordFail a w x))
  | none => (writeNum s out (if bf16 then 2 else 4) (laccOut (if bf16 then 8 else 24) w ta tb), none)

/-- The sum of the products of block `j`, of row `m` of A and row `n` of B, in units of 2^-20 (R101). -/
def blockTerm (s : State) (a b : Tens) (m n j : Nat) : Except Fail Int :=
  match a.scale s m j, b.scale s n j with
  | some sa, some sb =>
    -- a zero block of A has no reserved code, and B's codes are read whatever A holds (R83, R84)
    if sb = 0 then .ok 0
    else
      let term := (List.range 32).foldl (fun (acc : Option Int) i =>
        match acc, elemTwice a.fmt (elemCode s a.fmt (a.block m j) i), elemTwice b.fmt (elemCode s b.fmt (b.block n j) i) with
        | some t, some x, some y => some (t + x * y)
        | _, _, _ => none) (some 0)
      match term with
      | some t => .ok (t * (sa : Int) * (sb : Int))
      | none => .error { code := .format, addr := some (b.block n j) }
  | none, _ => .error { code := .format, addr := some (a.scaleAddr m j) }
  | _, none => .error { code := .format, addr := some (b.scaleAddr n j) }

/-- The same for a replay row in slot `slot`: INT8 times the promoted B, with B's scale halved (R57, R105). -/
def replayTerm (s : State) (a b : Tens) (slot n j : Nat) : Except Fail Int := do
  let base ← a.replaySlot slot
  let term := (List.range 32).foldl (fun (acc : Except Fail Int) i => do
    let t ← acc
    let x ← replayValue9 s base a.kblk (32 * j + i)
    let y ← b.read10 s n (32 * j + i)
    .ok (t + 2 * x * y)) (.ok 0)
  term

/-- A failure found while data move, or the state that follows. -/
def orFail {α : Type} (s : State) (x : Except Fail α) (k : α → State × Option Fail) : State × Option Fail :=
  match x with
  | .ok v => k v
  | .error e => (s, some e)

/-- Clears the words of a tile (R96). -/
def clearTile (s : State) (l n : Nat) : State := zeroBytes s l (16 * n)

/-- Places of the operands of an ME or SPU descriptor. -/
def meA (s : State) (c : Nat) (d : Desc) : Place := placeOf s c (lo32 d.w1)
/-- The place of B. -/
def meB (s : State) (c : Nat) (d : Desc) : Place := placeOf s c (hi32 d.w1)

/-- After the products of word (m, n): its output, when OUTMODE asks for one. -/
def meEmit (c : Nat) (d : Desc) (ta tb : Nat) (s : State) (mn : Nat × Nat) : State × Option Fail :=
  if meOut d = 0 then (s, none)
  else
    let i := mn.1 * meN d + mn.2
    outWord s ((placeOf s c (lo32 d.w3)).addr + 16 * i)
      ((placeOf s c (lo32 d.w2)).addr + i * (if meOut d = 1 then 2 else 4)) (meOut d == 1) ta tb

/-- Runs the products of each word with `term` for each of `n` parts, and its output: word by word in ascending order, which decides the
condition met first (R577; DESIGN CHOICE, log entry 103). -/
def meProducts (c : Nat) (d : Desc) (unit : Bool) (n ta tb : Nat) (term : State → Nat × Nat → Nat → Except Fail Int)
    (s : State) : State × Option Fail :=
  let l := (placeOf s c (lo32 d.w3)).addr
  let s := if meInit d then clearTile s l (meM d * meN d) else s
  runAll (fun s mn =>
    match runAll (fun s j => orFail s (term s mn j) fun t => addTerm s (l + 16 * (mn.1 * meN d + mn.2)) unit t) s
        (List.range n) with
    | (s, some e) => (s, some e)
    | (s, none) => meEmit c d ta tb s mn) s (cells (meM d) (meN d))

/-- MATMUL (R55, R57). -/
def runMatmul (c : Nat) (s : State) (d : Desc) : State × Option Fail :=
  let a := tensAt s (meA s c d) (meM d) (meKblk d)
  let b := tensAt s (meB s c d) (meN d) (meKblk d)
  meProducts c d false (meKblk d) (tsMag a.ts) (tsMag b.ts) (fun s mn j => do
    let r ← a.sideRow s mn.1
    if r.replay then replayTerm s a b r.slot mn.2 j else blockTerm s a b mn.1 mn.2 j) s

/-- The product of the BF16 values at `a` and `b` in units of 2^-62 (R107): FORMAT for an infinity or a NaN, at its address, and whether its
exact magnitude is 2^25 or more. -/
def wideProduct (s : State) (a b : Nat) : Except Fail (Int × Bool) :=
  match decode16 (readNum s a 2), decode16 (readNum s b 2) with
  | .fin nx mx, .fin ny my =>
    let p : Int := bf16Product mx my
    .ok (if nx == ny then p else -p, decide (2 ^ 323 ≤ mx * my))
  | .fin _ _, _ => .error { code := .format, addr := some b }
  | _, _ => .error { code := .format, addr := some a }

/-- Adds one BF16 product: one of 2^25 or more overflows the word (R107). -/
def addWide (s : State) (a : Nat) (p : Int × Bool) : State × Option Fail :=
  -- a term beyond the accumulator's range stands for a product too large to add
  addTerm s a true (if p.2 then (2 ^ 200 : Nat) else p.1)

/-- WIDE (R106, R107). -/
def runWide (c : Nat) (s : State) (d : Desc) : State × Option Fail :=
  let pa := meA s c d
  let pb := meB s c d
  if meWfmt d then
    let l := (placeOf s c (lo32 d.w3)).addr
    let k := 32 * meKblk d
    let s := if meInit d then clearTile s l (meM d * meN d) else s
    runAll (fun s mn =>
      match runAll (fun s i =>
          orFail s (wideProduct s (pa.addr + 2 * (mn.1 * k + i)) (pb.addr + 2 * (mn.2 * k + i)))
            fun p => addWide s (l + 16 * (mn.1 * meN d + mn.2)) p) s (List.range k) with
      | (s, some e) => (s, some e)
      | (s, none) => meEmit c d 0 0 s mn) s (cells (meM d) (meN d))
  else
    let a := tensAt s pa (meM d) (meKblk d)
    let b := tensAt s pb (meN d) (meKblk d)
    meProducts c d false (meKblk d) (tsMag a.ts) (tsMag b.ts) (fun s mn j => blockTerm s a b mn.1 mn.2 j) s

/-- DRAIN (R53, R108). -/
def runDrain (c : Nat) (s : State) (d : Desc) : State × Option Fail :=
  let bare := drainBare d
  let ta := if bare then 0 else tsMag (readNum s (meA s c d).addr 4)
  let tb := if bare then 0 else tsMag (readNum s (meB s c d).addr 4)
  let l := (placeOf s c (lo32 d.w3)).addr
  runAll (fun s mn =>
    let i := mn.1 * meN d + mn.2
    let w := laccOf (readNum s (l + 16 * i) 16)
    if bare && (laccRead w).isNone && !w.unit then (s, some { code := .format, addr := some (l + 16 * i) })
    else match meEmit c d ta tb s mn with
      | (s, some e) => (s, some e)
      | (s, none) => (if meInit d then clearTile s (l + 16 * i) 1 else s, none)) s (cells (meM d) (meN d))

/-- Fails first on a residue mismatch (R119). -/
def guardResidue (ups : List Upset) (run : State → Desc → State × Option Fail) (s : State) (d : Desc) : State × Option Fail :=
  match meetResidue ups with
  | some f => (s, some f)
  | none => run s d

/-- No structure is read before data move. -/
def noStructs (_ : State) (_ : Desc) : Option Fail := none

/-- MATMUL starts (R55). -/
def execMatmul (c : CoreId) (ups : List Upset) (s : State) : Outcome :=
  .next (startDesc s c .me (fun n => n == 0 || decide (3 ≤ n)) (mePlan · c ·) noStructs (guardResidue ups (runMatmul c)) ups)

/-- WIDE starts (R106, R107). -/
def execWide (c : CoreId) (ups : List Upset) (s : State) : Outcome :=
  .next (startDesc s c .me (· == 1) (mePlan · c ·) noStructs (guardResidue ups (runWide c)) ups)

/-- DRAIN starts (R53). -/
def execDrain (c : CoreId) (ups : List Upset) (s : State) : Outcome :=
  .next (startDesc s c .me (· == 2) (mePlan · c ·) noStructs (guardResidue ups (runDrain c)) ups)

/-! ### The Spillway unit -/

/-- The plan of an SPU descriptor (R58): INT8 goes with INT8 only. -/
def spuPlan (s : State) (c : Nat) (d : Desc) : Plan :=
  let m := meM d
  let n := meN d
  let kb := meKblk d
  let a : Operand := { orf := lo32 d.w1, spaces := [1, 4], unit := some 2, rd := true, wr := false
                       header := some (headerOk [0, 1, 4] true), size := tensorBytes m kb, dims := (m, kb) }
  let b : Operand := { orf := hi32 d.w1, spaces := [0, 1, 4], unit := some 2, rd := true, wr := false
                       header := some (headerOk (if hdrFmt (readBytes s (meA s c d).addr 16) = 4 then [4] else [0, 1, 2, 3]) false)
                       size := tensorBytes n kb }
  let l : Operand := { orf := lo32 d.w3, spaces := [2], unit := none, rd := true, wr := true, header := none
                       size := fun _ => 16 * m * n }
  { encoding := decide (descOp d ≤ 1) && decide (bits d.w0 54 10 = 0) && decide (lo32 d.w2 = 0)
      && decide (bits d.w2 52 12 = 0) && decide (hi32 d.w3 = 0) && [lo32 d.w1, hi32 d.w1, lo32 d.w3].all orfOk
    counts := [(m, 511, 256), (n, 8191, 4096), (kb, 2 ^ 20 - 1, 524288)]
    operands := [a, b, l]
    tokens := tokensAt 1 (descRate d) }

/-- The A element at index `k` of row `m` in units of 2^-10; a replay row gives its INT8 value (R58). -/
def spillA10 (s : State) (a : Tens) (m k : Nat) : Except Fail Int := do
  let r ← a.sideRow s m
  if r.replay then
    let base ← a.replaySlot r.slot
    let v ← replayValue9 s base a.kblk k
    .ok (2 * v)
  else a.read10 s m k

/-- The full value of B at index `k` of row `n` in units of 2^-10: its outlier VALUE where it has an entry (R58). -/
def fullB10 (s : State) (b : Tens) (n k : Nat) : Except Fail Int := do
  let r ← b.sideRow s n
  let es ← b.entries s n r.count
  match es.find? fun e => e.1 == k with
  | some e => .ok e.2
  | none => b.read10 s n k

/-- SPILL_W (R58). -/
def runSpillW (c : Nat) (s : State) (d : Desc) : State × Option Fail :=
  let a := tensAt s (meA s c d) (meM d) (meKblk d)
  let b := tensAt s (meB s c d) (meN d) (meKblk d)
  let l := (placeOf s c (lo32 d.w3)).addr
  runAll (fun s n => orFail s (b.sideRow s n) fun r => orFail s (b.entries s n r.count) fun es =>
    runAll (fun s (e : Nat × Int) => runAll (fun s m => orFail s (spillA10 s a m e.1) fun v =>
      if e.2 = 0 then (s, none) else addTerm s (l + 16 * (m * meN d + n)) false (e.2 * v)) s (List.range (meM d))) s es)
    s (List.range (meN d))

/-- SPILL_A (R58). -/
def runSpillA (c : Nat) (s : State) (d : Desc) : State × Option Fail :=
  let a := tensAt s (meA s c d) (meM d) (meKblk d)
  let b := tensAt s (meB s c d) (meN d) (meKblk d)
  let l := (placeOf s c (lo32 d.w3)).addr
  runAll (fun s m => orFail s (a.sideRow s m) fun r =>
    if r.replay then (s, none)
    else orFail s (a.entries s m r.count) fun es =>
      runAll (fun s (e : Nat × Int) => runAll (fun s n => orFail s (fullB10 s b n e.1) fun v =>
        if e.2 = 0 then (s, none) else addTerm s (l + 16 * (m * meN d + n)) false (e.2 * v)) s (List.range (meN d))) s es)
    s (List.range (meM d))

/-- SPILL_W starts (R58). -/
def execSpillW (c : CoreId) (ups : List Upset) (s : State) : Outcome :=
  .next (startDesc s c .spu (fun n => n == 0 || decide (2 ≤ n)) (spuPlan · c ·) noStructs
    (guardResidue ups (runSpillW c)) ups)

/-- SPILL_A starts (R58). -/
def execSpillA (c : CoreId) (ups : List Upset) (s : State) : Outcome :=
  .next (startDesc s c .spu (· == 1) (spuPlan · c ·) noStructs (guardResidue ups (runSpillA c)) ups)

end Sys2Proof.Machine
end

