-- ==== Sys2Proof/Machine/Attention.lean ====
section
/-!
DEFINITION. Page lists and page blocks (09 R318-R323), and the attention score unit: SCORE and SELECT (02 R60, R61, 03 R112,
09 R328-R330).
-/
namespace Sys2Proof.Machine

/-! ### Page lists -/

/-- The header of a page list (R321), with the fabric addresses of its parts. -/
structure PList where
  addr : Nat
  npage : Nat
  valid : Nat
  ccnt : Nat
  epoch : Nat
  tree : Bool
  summary : Bool
  kblk : Nat
  pcap : Nat
  pgsize : Nat
  sliceoff : Nat
  sumoff : Nat
  nodes : Nat
  entAddr : Int
  treeAddr : Int
deriving DecidableEq, Repr

/-- Reads the header at a place. -/
def pageList (s : State) (p : Place) : PList :=
  let b := readBytes s p.addr 64
  { addr := p.addr, npage := num b 0 4, valid := num b 4 4, ccnt := num b 8 4, epoch := num b 12 1
    tree := num b 13 1 % 2 == 1, summary := num b 13 1 / 2 % 2 == 1, kblk := num b 14 1, pcap := num b 15 1
    pgsize := num b 16 4, sliceoff := num b 20 4, sumoff := num b 24 8, nodes := num b 40 2
    entAddr := (p.addr : Int) + signed 32 (num b 32 4) * 16, treeAddr := (p.addr : Int) + signed 32 (num b 36 4) * 16 }

/-- Bytes of the K tensor of a page block (R319). -/
def kBytes (kb pcap : Nat) : Nat := 16 + 1088 * kb + if pcap = 0 then 0 else 64 * 16 * ((pcap + 2) / 2)
/-- Bytes of the V tensor. -/
def vBytes (kb : Nat) : Nat := 16 + 1088 * kb
/-- Bytes of a page block, PBSIZE. -/
def pbSize (kb pcap : Nat) : Nat := roundUp (128 + kBytes kb pcap + vBytes kb + 128 * kb) 64

/-- Entry `j` of a list (R322). -/
def listEntry (s : State) (l : PList) (j : Nat) : Nat := readNum s (l.entAddr.toNat + 8 * j) 8
/-- ADDR of an entry. -/
def entAddrOf (e : Nat) : Nat := fld e 0 40
/-- PIDX of an entry. -/
def entPidx (e : Nat) : Nat := fld e 40 23
/-- SNOW of an entry. -/
def entSnow (e : Nat) : Bool := e.testBit 63

/-- Byte `i` of the tree map. -/
def treeByte (s : State) (l : PList) (i : Nat) : Nat := readNum s (l.treeAddr.toNat + i) 1

/-- The parts of a list that its unit reads beside the header: the entries and the tree map. -/
def PList.parts (l : PList) : Ranges := [(l.entAddr.toNat, 8 * l.npage)] ++ if l.tree then [(l.treeAddr.toNat, l.nodes)] else []

/-- The checks of R323 on a list that lies in handle `h` of core `c`, of which the descriptor names the entries `named`; KBLK
of the descriptor where it has one. -/
def checkList (s : State) (c orf : Nat) (kblk : Option Nat) (named : List Nat) : Option Fail :=
  let h := handleOf (coreOf s c) (orfHandle orf)
  let p := placeOf s c orf
  let l := pageList s p
  let b := readBytes s p.addr 64
  let lo : Int := (coreAddr c h.space h.base : Nat)
  let hi : Int := lo + (h.len : Nat)
  let within := fun (a : Int) (n : Nat) => decide (lo ≤ a) && decide (a + (n : Nat) ≤ hi)
  let bound := (coreOf s c).boundary * 65536
  failAt p.addr (firstFail
    [(zeros b 42 64 && decide (num b 13 1 < 4) && decide (1 ≤ l.kblk) && decide (l.kblk ≤ 8) && decide (l.pcap ≤ 64)
        && decide (l.sliceoff + pbSize l.kblk l.pcap ≤ l.pgsize) && decide (l.pgsize % 64 = 0) && decide (l.sliceoff % 64 = 0)
        && (!l.tree || (decide (1 ≤ l.nodes) && decide (l.nodes ≤ 96))) && (!l.summary || decide (l.sumoff ≠ 0)), .format),
     (match kblk with | some k => k == l.kblk | none => true, .format),
     (decide (l.npage ≤ 65534) && named.all (fun j => decide (j < l.npage)) && within l.entAddr (8 * l.npage)
        && (!l.tree || within l.treeAddr l.nodes), .length),
     (named.all fun j =>
        let e := listEntry s l j
        !entSnow e && decide (entAddrOf e % 64 = 0) && decide (bound ≤ entAddrOf e)
          && decide (entAddrOf e + l.pgsize ≤ 2 ^ 28), .length),
     (!l.tree || (treeByte s l 0 == 255 && (List.range l.nodes).all fun i => i == 0 || decide (treeByte s l i < i)), .format)])

/-- Fabric address of the page block of a slice of the page that entry `j` names. -/
def blockAddr (s : State) (c : Nat) (l : PList) (j : Nat) : Nat := coreAddr c 0 (entAddrOf (listEntry s l j) + l.sliceoff)

/-- The K tensor of a page block at `a`. -/
def kTensor (s : State) (l : PList) (a : Nat) : Tens :=
  tensAt s { space := 0, off := 0, addr := a + 128, left := 2 ^ 28 - fld (a + 128) 0 30 } 64 l.kblk

/-- The tag of slot `i` of a page block (R319): EPOCH and WRITTEN. -/
def tagOf (s : State) (a i : Nat) : Nat × Bool := let w := readNum s (a + 2 * i) 2; (fld w 0 8, w.testBit 8)

/-- Is row `r` an ancestor of row `i` or row `i` itself in the tree map (R328)? -/
def treeReaches (s : State) (l : PList) : Nat → Nat → Nat → Bool
  | 0, i, r => i == r
  | n + 1, i, r => i == r || (decide (i ≠ 0) && treeReaches s l n (treeByte s l i) r)

/-- Is the key of position `p`, in slot p mod 64 of the block at `a`, visible to query row `i` (R328)? -/
def keyVisible (s : State) (l : PList) (a p pos i : Nat) (causal : Bool) : Bool :=
  let (ep, written) := tagOf s a (p % 64)
  if p < l.valid then !causal || decide (p ≤ pos + i)
  else written && ep == l.epoch &&
    (if l.tree then decide (p - l.valid < l.nodes) && treeReaches s l 96 i (p - l.valid)
     else !causal || decide (p ≤ pos + i))

/-! ### Scores -/

/-- The full value of an element of a row in units of 2^-10, its outlier VALUE where it has an entry (R89); a replay row gives
its INT8 value. The scale of a block all of whose elements have entries is not read, and a VALUE outside R104 fails as in the SPU (DESIGN
CHOICE, log entry 103). -/
def rowValue10 (s : State) (t : Tens) (row : Nat) : Except Fail (Nat → Except Fail Int) := do
  let r ← t.sideRow s row
  if r.replay then
    let base ← t.replaySlot r.slot
    .ok fun k => (replayValue9 s base t.kblk k).map (2 * ·)
  else
    let es ← t.entries s row r.count
    .ok fun k =>
      match es.find? fun e => e.1 == k with
      | some e => .ok e.2
      | none => t.read10 s row k

/-- The exact product sum of two rows, in units of 2^-20. -/
def dot (s : State) (a : Tens) (i : Nat) (b : Tens) (j : Nat) : Except Fail Int := do
  let x ← rowValue10 s a i
  let y ← rowValue10 s b j
  (List.range (32 * a.kblk)).foldlM (fun acc k => do
    let u ← x k
    let v ← y k
    .ok (acc + u * v)) 0

/-- A score: the exact sum times both tensor scales, rounded once to FP32 (R112). -/
def scoreOf (sum : Int) (ta tb : Nat) : Nat :=
  laccOut 24 { sum := sum, res := 0, ovf := false, unit := false, touched := true } ta tb

/-- FP32 minus infinity. -/
def negInf : Nat := infFl 24 true

/-- FP32 encodings in order of value (no NaN). -/
def order32 (n : Nat) : Int := if n.testBit 31 then -((n % 2 ^ 31 : Nat) : Int) else (n : Int)

/-- The exact difference of two values; none where IEEE 754 gives a NaN, also for two scores that rounded to infinity (DEDUCED, log entry
104); an infinity as such. -/
def diff32 (x y : Nat) : Fl :=
  match decode32 x, decode32 y with
  | .nan, _ | _, .nan => .nan
  | .inf a, .inf b => if a == b then .nan else .inf a
  | .inf a, _ => .inf a
  | _, .inf b => .inf (!b)
  | .fin a m, .fin b n =>
    let v : Int := (if a then -(m : Int) else m) - (if b then -(n : Int) else n)
    .fin (decide (v < 0)) v.natAbs

/-- exp of an exact value, correctly rounded to FP32. -/
def exp32 (x : Fl) : Nat :=
  match x with
  | .nan => nanFl 24
  | .inf true => 0
  | .inf false => infFl 24 false
  | .fin neg m => let (n, d, below) := expQ neg m (2 ^ 149); roundMag 24 n d below

/-- Sum of non-negative FP32 values given as magnitudes over 2^149 and one product over 2^298, rounded once (R112); a NaN or an
infinity among them decides. -/
def sum32 (prod : Nat × Nat) (xs : List Nat) : Nat :=
  let all := prod.1 :: prod.2 :: xs
  if all.any fun x => decide (decode32 x = .nan) then nanFl 24
  else if all.any fun x => decide (decode32 x = .inf false) then
    (if (decode32 prod.1 = .fin false 0 ∨ decode32 prod.2 = .fin false 0)
        ∧ (decode32 prod.1 = .inf false ∨ decode32 prod.2 = .inf false) then nanFl 24 else infFl 24 false)
  else
    let n := tsMag prod.1 * tsMag prod.2 + 2 ^ 149 * (xs.map tsMag).sum
    encodeFl 24 false n (2 ^ 298) false

/-- Updates a row's statistics with the unmasked scores of one page (R112). -/
def pageStats (st : Nat × Nat) (scores : List Nat) : Nat × Nat :=
  match scores with
  | [] => st
  | x :: xs =>
    let top := xs.foldl (fun m v => if order32 m < order32 v then v else m) x
    let m' := if order32 st.1 < order32 top then top else st.1
    -- a row that starts anew has no sum to carry, whatever exp of its empty maximum would be
    let ed := if st.2 = 0 then 0 else exp32 (diff32 st.1 m')
    (m', sum32 (st.2, ed) (scores.map fun v => exp32 (diff32 v m')))

/-! ### SCORE -/

/-- NPAGE of SCORE. -/
def scNpage (d : Desc) : Nat := bits d.w0 32 9
/-- QROWS. -/
def scRows (d : Desc) : Nat := bits d.w0 41 7
/-- KBLK. -/
def scKblk (d : Desc) : Nat := bits d.w0 48 4
/-- CAUSAL. -/
def scCausal (d : Desc) : Bool := bit d.w0 52
/-- STAT_INIT. -/
def scInit (d : Desc) : Bool := bit d.w0 53
/-- POS. -/
def scPos (d : Desc) : Nat := hi32 d.w2

/-- A plain operand. -/
def plainOp (orf : Nat) (spaces : List Nat) (unit : Option Nat) (rd wr : Bool) (n : Nat) : Operand :=
  { orf := orf, spaces := spaces, unit := unit, rd := rd, wr := wr, header := none, size := fun _ => n }

/-- The plan of SCORE (R60). -/
def scorePlan (s : State) (c : Nat) (d : Desc) : Plan :=
  let r := scRows d
  { encoding := decide (descOp d ≤ 1) && decide (bits d.w0 54 10 = 0) && decide (hi32 d.w3 = 0)
      && [lo32 d.w1, hi32 d.w1, lo32 d.w2, lo32 d.w3].all orfOk
    counts := [(scNpage d, 511, 256), (r, 127, 64), (scKblk d, 15, 8)]
    operands :=
      [{ orf := lo32 d.w1, spaces := [1, 4], unit := some 3, rd := true, wr := false
         header := some (headerOk [0] true), size := tensorBytes r (scKblk d), dims := (r, scKblk d) },
       plainOp (hi32 d.w1) [1] none true false 64,
       plainOp (lo32 d.w2) [1, 4] none false true (r * 64 * scNpage d * 4),
       plainOp (lo32 d.w3) [1, 2] none (!scInit d) true (8 * r)]
    tokens := tokensAt 2 (descRate d)
    lists := (pageList s (placeOf s c (hi32 d.w1))).parts }

/-- Does the page that entry `j` names hold a key: a position below VALID, or a WRITTEN slot (R319, R328)? -/
def holdsKeys (s : State) (c : Nat) (l : PList) (j : Nat) : Bool :=
  decide (64 * entPidx (listEntry s l j) < l.valid) || (List.range 64).any fun i => (tagOf s (blockAddr s c l j) i).2

/-- What SCORE reads before data move: its page list (R323), the tree (R328), and the header of the K tensor of every page that holds a key
(R87, R121). A page without one has no header to read (DEDUCED, log entry 84). -/
def scoreStructs (c : Nat) (s : State) (d : Desc) : Option Fail :=
  let p := placeOf s c (hi32 d.w1)
  let l := pageList s p
  match checkList s c (hi32 d.w1) (some (scKblk d)) (List.range (scNpage d)) with
  | some x => some x
  | none =>
    if l.tree && !(scPos d == l.valid && decide (scRows d ≤ l.nodes)) then some { code := .format, addr := p.addr }
    else (List.range (scNpage d)).findSome? fun j =>
      let a := blockAddr s c l j + 128
      if holdsKeys s c l j && !headerOk [0] false (readBytes s a 16) then some { code := .format, addr := a } else none

/-- The scores of query row `i` against page `j` of a list: -inf where the key is not visible (R60, R112). -/
def pageScores (s : State) (c : Nat) (d : Desc) (q : Tens) (l : PList) (i j : Nat) : Except Fail (List Nat) := do
  let a := blockAddr s c l j
  let t := kTensor s l a
  let pidx := entPidx (listEntry s l j)
  let seen := (List.range 64).map fun k => keyVisible s l a (64 * pidx + k) (scPos d) i (scCausal d)
  (List.range 64).mapM fun k =>
    if seen.getD k false then do
      let v ← dot s q i t k
      .ok (scoreOf v (tsMag q.ts) (tsMag t.ts))
    else .ok negInf

/-- SCORE (R60, R112). Of each page it reads the tags and, where a slot holds a key, the K tensor. -/
def runScore (c : Nat) (ups : List Upset) (s : State) (d : Desc) : State × Option Fail :=
  let q := tensAt s (placeOf s c (lo32 d.w1)) (scRows d) (scKblk d)
  let l := pageList s (placeOf s c (hi32 d.w1))
  let out := (placeOf s c (lo32 d.w2)).addr
  let sts := (placeOf s c (lo32 d.w3)).addr
  let np := scNpage d
  match meetReads s ((List.range np).map fun j =>
      (blockAddr s c l j, 128 + if holdsKeys s c l j then kBytes l.kblk l.pcap else 0)) ups with
  | (s, some f) => (s, some f)
  | (s, none) =>
    runAll (fun s i =>
      let st := if scInit d then (negInf, 0) else (readNum s (sts + 8 * i) 4, readNum s (sts + 8 * i + 4) 4)
      let s := writeNum (writeNum s (sts + 8 * i) 4 st.1) (sts + 8 * i + 4) 4 st.2
      runAll (fun s j => orFail s (pageScores s c d q l i j) fun v =>
        let s := storeBytes s (out + 4 * (i * 64 * np + 64 * j)) (v.flatMap (leBytes 4))
        let seen := ((List.range 64).filter fun k =>
          keyVisible s l (blockAddr s c l j) (64 * entPidx (listEntry s l j) + k) (scPos d) i (scCausal d)).map (v.getD · 0)
        let st := pageStats (readNum s (sts + 8 * i) 4, readNum s (sts + 8 * i + 4) 4) seen
        (writeNum (writeNum s (sts + 8 * i) 4 st.1) (sts + 8 * i + 4) 4 st.2, none)) s (List.range np))
      s (List.range (scRows d))

/-- SCORE starts (R60). -/
def execScore (c : CoreId) (ups : List Upset) (s : State) : Outcome :=
  .next (startDesc s c .asu (fun n => n == 0 || decide (2 ≤ n)) (scorePlan · c ·) (scoreStructs c) (runScore c ups) ups)

/-! ### SELECT -/

/-- NCAND. -/
def selN (d : Desc) : Nat := bits d.w0 32 16
/-- TOPP. -/
def selTop (d : Desc) : Nat := bits d.w0 48 7
/-- LASTW. -/
def selLast (d : Desc) : Nat := bits d.w0 55 6

/-- The plan of SELECT (R61, R330). Bits that its table leaves out are reserved, and the KBLK that sizes A at step 4e is that of the summary
header at B, sound or not (DESIGN CHOICE, log entry 103). -/
def selectPlan (s : State) (c : Nat) (d : Desc) : Plan :=
  let b := readBytes s (placeOf s c (hi32 d.w1)).addr 32
  { encoding := decide (bits d.w0 61 3 = 0) && decide (hi32 d.w2 = 0) && decide (d.w3 = 0) && decide (1 ≤ selTop d)
      && decide (selTop d ≤ 64) && [lo32 d.w1, hi32 d.w1, lo32 d.w2].all orfOk
    counts := [(selN d, 65535, 65534)]
    operands :=
      [{ orf := lo32 d.w1, spaces := [1, 4], unit := some 3, rd := true, wr := false
         header := some (headerOk [0] true), size := tensorBytes 1 (num b 0 1), dims := (1, num b 0 1) },
       plainOp (hi32 d.w1) [0, 1] none true false (16 + bodyBytes 0 (num b 4 4) (num b 0 1)),
       plainOp (lo32 d.w2) [1] none false true (4 + 4 * min (selN d) (1 + selTop d + selLast d))]
    tokens := tokensAt 2 (descRate d) }

/-- The summary-table header (R330). -/
def selectStructs (c : Nat) (s : State) (d : Desc) : Option Fail :=
  let a := (placeOf s c (hi32 d.w1)).addr
  let b := readBytes s a 32
  failAt a <| firstFail
    [(zeros b 1 4 && zeros b 8 16 && decide (1 ≤ num b 0 1) && decide (num b 0 1 ≤ 8)
        && headerOk [0] false (b.drop 16) && decide (hdrFlags (b.drop 16) = 0), .format),
     (decide (selN d ≤ num b 4 4), .length)]

/-- The pages that SELECT keeps, ascending, from the scores by page (R61). -/
def selected (scores : List Nat) (n top last : Nat) : List Nat :=
  if n ≤ 1 + top + last then List.range n
  else
    let fixed := fun j => j == 0 || decide (n - last ≤ j)
    let rest := (List.range n).filter fun j => !fixed j
    let best := sortBy (fun i j => decide (order32 (scores.getD j 0) < order32 (scores.getD i 0))) rest
    sortNat ((List.range n).filter fixed ++ best.take top)

/-- SELECT (R61). -/
def runSelect (c : Nat) (s : State) (d : Desc) : State × Option Fail :=
  let pb := placeOf s c (hi32 d.w1)
  let kb := readNum s pb.addr 1
  let q := tensAt s (placeOf s c (lo32 d.w1)) 1 kb
  let t := tensAt s { pb with addr := pb.addr + 16, left := pb.left - 16 } (readNum s (pb.addr + 4) 4) kb
  orFail s ((List.range (selN d)).mapM fun j => do
    let v ← dot s q 0 t j
    .ok (scoreOf v (tsMag q.ts) (tsMag t.ts))) fun scores =>
    let js := selected scores (selN d) (selTop d) (selLast d)
    (storeBytes s (placeOf s c (lo32 d.w2)).addr (leBytes 4 js.length ++ js.flatMap (leBytes 4)), none)

/-- SELECT starts (R61). -/
def execSelect (c : CoreId) (ups : List Upset) (s : State) : Outcome :=
  .next (startDesc s c .asu (· == 1) (selectPlan · c ·) (selectStructs c) (runSelect c) ups)

end Sys2Proof.Machine
end

