-- ==== Sys2Proof/Machine/Normal.lean ====
section
/-!
DEFINITION. The normalisation and activation unit (02 R62, R63; 09 R349): its operations as exact values with one rounding,
and the fast mode as that result moved by a free distance of at most 2 units in the last place.
-/
namespace Sys2Proof.Machine

/-- What an operation gives before its one rounding: a NaN, an infinity, or a sign and a magnitude n / d; `below`: the true
magnitude lies strictly above n / d. -/
inductive Ex where
  | nan | inf (neg : Bool) | q (neg : Bool) (n d : Nat) (below : Bool)
deriving DecidableEq, Repr

/-- The rounding at output (R63, R88); every NaN is the canonical one. -/
def roundEx (p : Nat) : Ex → Nat
  | .nan => nanFl p
  | .inf neg => infFl p neg
  | .q neg n d below => encodeFl p neg n d below

/-- Is the value finite? -/
def Fl.finite : Fl → Bool
  | .fin _ _ => true
  | _ => false
/-- The sign. -/
def Fl.neg : Fl → Bool
  | .nan => false
  | .inf n | .fin n _ => n
/-- The exact value of a number. -/
def Fl.ex : Fl → Ex
  | .nan => .nan
  | .inf n => .inf n
  | .fin n m => .q n m (2 ^ 149) false
/-- The signed magnitude in units of 2^-149, 0 when it is not finite. -/
def Fl.int : Fl → Int
  | .fin true m => -(m : Int)
  | .fin false m => m
  | _ => 0

/-- A signed quotient, a zero with the sign given. -/
def quot (v : Int) (d : Nat) (zeroNeg : Bool) : Ex := .q (if v = 0 then zeroNeg else decide (v < 0)) v.natAbs d false

/-- Sum. -/
def addEx (a b : Fl) : Ex :=
  match a, b with
  | .nan, _ | _, .nan => .nan
  | .inf x, .inf y => if x == y then .inf x else .nan
  | .inf x, .fin _ _ | .fin _ _, .inf x => .inf x
  | .fin x _, .fin y _ => quot (a.int + b.int) (2 ^ 149) (x && y)
/-- The number with the other sign. -/
def Fl.flip : Fl → Fl
  | .nan => .nan
  | .inf n => .inf (!n)
  | .fin n m => .fin (!n) m
/-- Product. -/
def mulEx (a b : Fl) : Ex :=
  match a, b with
  | .nan, _ | _, .nan => .nan
  | .inf x, .inf y => .inf (x != y)
  | .inf x, .fin y m | .fin y m, .inf x => if m = 0 then .nan else .inf (x != y)
  | .fin x m, .fin y n => .q (x != y) (m * n) (2 ^ 298) false
/-- Quotient. -/
def divEx (a b : Fl) : Ex :=
  match a, b with
  | .nan, _ | _, .nan => .nan
  | .inf _, .inf _ => .nan
  | .inf x, .fin y _ => .inf (x != y)
  | .fin x _, .inf y => .q (x != y) 0 1 false
  | .fin x m, .fin y n => if n = 0 then (if m = 0 then .nan else .inf (x != y)) else .q (x != y) m n false
/-- Square root. -/
def sqrtEx : Fl → Ex
  | .nan => .nan
  | .inf n => if n then .nan else .inf false
  | .fin n m =>
    if m = 0 then .q n 0 1 false
    else if n then .nan
    else let (r, d, cut) := sqrtQ m (2 ^ 149); .q false r d cut
/-- EXP. -/
def expEx : Fl → Ex
  | .nan => .nan
  | .inf n => if n then .q false 0 1 false else .inf false
  | .fin n m => let (a, d, cut) := expQ n m (2 ^ 149); .q false a d cut
/-- RSQRT. -/
def rsqrtEx : Fl → Ex
  | .nan => .nan
  | .inf n => if n then .nan else .q false 0 1 false
  | .fin n m =>
    if m = 0 then .inf false
    else if n then .nan
    else let (r, d, cut) := sqrtQ (2 ^ 149) m; .q false r d cut
/-- SiLU(a) times b: one rounding of the product (R63). -/
def siluMulEx (a b : Fl) : Ex :=
  match a with
  | .nan => .nan
  | .inf true => mulEx (.fin true 0) b
  | .inf false => mulEx (.inf false) b
  | .fin na m =>
    match b with
    | .fin nb k =>
      let (n, d, _) := expQ true m (2 ^ 149)
      -- x / (1 + e) for x >= 0, x e / (1 + e) for x < 0, with e = exp (-|x|) = n / d
      .q (na != nb) (m * k * (if na then n else d)) (2 ^ 298 * (d + n)) false
    | _ => mulEx a b
/-- GELU, erf form. -/
def geluEx : Fl → Ex
  | .nan => .nan
  | .inf n => if n then .q true 0 1 false else .inf false
  | .fin n m =>
    -- beyond 16 the value lies below |x|, resp. 0, by less than any half unit
    if 2 ^ 153 ≤ m then (if n then .q true 0 1 true else .q false (m * 2 ^ wp - 1) (2 ^ (149 + wp)) true)
    else .q n (m * phiFix n m (2 ^ 149)) (2 ^ (149 + wp)) (decide (m ≠ 0))

/-- A x gamma / sqrt (mean + eps), plus beta: the deviation of the element is xn / xd (a zero with sign `zn`), the mean square
over the row is vn / vd, with the auxiliary values (R62, R116). -/
def normEx (xn : Int) (xd : Nat) (zn : Bool) (vn : Int) (vd : Nat) (g : Fl) (b : Option Fl) : Ex :=
  if vn < 0 then .nan
  else
    let xneg := if xn = 0 then zn else decide (xn < 0)
    if vn = 0 then
      (if xn = 0 then .nan
       else match mulEx (.inf xneg) g, b with
         | .inf y, some (.inf z) => if y == z then .inf y else .nan
         | e, none => e
         | _, some .nan => .nan
         | e, _ => e)
    else match g with
      | .nan => .nan
      | .inf gn => if xn = 0 then .nan else match b with
        | some .nan => .nan
        | some (.inf z) => if (xneg != gn) == z then .inf z else .nan
        | _ => .inf (xneg != gn)
      | .fin gn gm =>
        let neg := xneg != gn
        let m := xn.natAbs * gm
        -- the square of the magnitude: (m / (xd 2^149))^2 vd / vn
        let (r, _, cut) := sqrtQ (m * m * vd) (xd * xd * 2 ^ 298 * vn.toNat)
        match b with
        | none => .q neg r (2 ^ wp) cut
        | some .nan => .nan
        | some (.inf z) => .inf z
        | some (.fin bn bm) =>
          if m = 0 then (if bm = 0 then .q (neg && bn) 0 1 false else .q bn bm (2 ^ 149) false)
          else
            -- floor of the sum on the working grid
            let lo : Int := (if neg then -((r + bnat cut : Nat) : Int) else r) + (if bn then -1 else 1) * (bm * 2 ^ (wp - 149) : Nat)
            if 0 ≤ lo then .q false lo.toNat (2 ^ wp) cut
            else .q true (lo.natAbs - bnat cut) (2 ^ wp) cut

/-! ### Descriptors -/

/-- ROWS. -/
def nauRows (d : Desc) : Nat := bits d.w0 32 9
/-- COLS. -/
def nauCols (d : Desc) : Nat := bits d.w0 41 17
/-- OUTFMT FP32. -/
def nauOut32 (d : Desc) : Bool := bit d.w0 59
/-- INFMT FP32. -/
def nauIn32 (d : Desc) : Bool := bit d.w0 61
/-- Precision of a plain format: FP32 or BF16. -/
def precOf (fp32 : Bool) : Nat := if fp32 then 24 else 8
/-- Bytes of a plain element. -/
def plainBytes (fp32 : Bool) : Nat := if fp32 then 4 else 2
/-- A plain element. -/
def decodePlain (fp32 : Bool) (n : Nat) : Fl := if fp32 then decode32 n else decode16 n

/-- Does the core run in XACT reproduction mode (R115)? -/
def xactCore (s : State) (c : Nat) : Bool := match leafOf s c with | some m => (millOf s m).cfg.xact | none => false

/-- Correctly rounded mode (R63). -/
def nauExact (s : State) (c : Nat) (d : Desc) : Bool := bit d.w0 58 || xactCore s c

/-- Does an OP use B, and does it use C (R62)? -/
def nauUsesB (op : Nat) : Bool := op == 2 || op == 4 || op == 5 || op == 10
/-- C. -/
def nauUsesC (op : Nat) : Bool := op == 0 || op == 1 || op == 9 || op == 10

/-- The plan of a NAU descriptor (R62, R76, R126). -/
def nauPlan (d : Desc) : Plan :=
  let op := descOp d
  let n := nauRows d * nauCols d
  let sz := plainBytes (nauIn32 d)
  let adam := op == 10
  let io := fun (orf : Nat) (rd wr : Bool) (n : Nat) => plainOp orf [1, 2, 4] (if rd then some 4 else none) rd wr n
  { encoding := decide (op ≤ 10) && decide (bits d.w0 59 2 ≤ 1) && decide (bits d.w0 62 2 = 0) && decide (hi32 d.w3 = 0)
      && (op ≠ 9 || nauIn32 d) && (nauUsesB op || decide (hi32 d.w1 = 0)) && (nauUsesC op || decide (lo32 d.w3 = 0))
      && (decide (op ≤ 1) || decide (hi32 d.w2 = 0)) && [lo32 d.w1, hi32 d.w1, lo32 d.w2, lo32 d.w3].all orfOk
    counts := [(nauRows d, 511, 256), (nauCols d, 2 ^ 17 - 1, 65536)]
    operands := [io (lo32 d.w1) true false (n * sz)]
      ++ (if nauUsesB op then [io (hi32 d.w1) true adam (n * if adam then 4 else sz)] else [])
      ++ [io (lo32 d.w2) false true (n * if adam then 2 else plainBytes (nauOut32 d))]
      ++ (if nauUsesC op then
            [io (lo32 d.w3) true adam (if op = 0 then 2 * nauCols d else if op = 1 then 4 * nauCols d
              else if op = 9 then 8 * nauRows d else 32 + 8 * n)] else [])
    tokens := tokensAt 1 (descRate d) }

/-- The result of an operation in the mode of the descriptor: correctly rounded, or moved by the free distance of the fast
mode, unless an operand or the value itself is not finite: those results R63 states. `id` and `args` name the operation. -/
def nauRound (exact : Bool) (p : Nat) (id : Nat) (args : List Nat) (finite : Bool) (e : Ex) : Nat :=
  let n := roundEx p e
  match e with
  | .q _ _ _ _ => if exact || !finite then n else moveUlp p n ((Config.fastUlp id args).val - 2)
  | _ => n

/-- The parameters that the fast mode's function depends on beside the operands (R63). -/
def nauParams (d : Desc) : List Nat := [hi32 d.w2, bnat (nauIn32 d), bnat (nauOut32 d)]

/-- Element `i` of a plain tensor at `a`. -/
def plainAt (s : State) (fp32 : Bool) (a i : Nat) : Nat := readNum s (a + i * plainBytes fp32) (plainBytes fp32)

/-- Runs an operation that works element by element: `f` on the elements of A and B. -/
def runElems (c : Nat) (f : Fl → Fl → Ex) (s : State) (d : Desc) : State × Option Fail :=
  let w := nauIn32 d
  let o := nauOut32 d
  let pa := (placeOf s c (lo32 d.w1)).addr
  let pb := (placeOf s c (hi32 d.w1)).addr
  let pd := (placeOf s c (lo32 d.w2)).addr
  let exact := nauExact s c d
  let two := nauUsesB (descOp d)
  runAll (fun s i =>
    let x := plainAt s w pa i
    let y := if two then plainAt s w pb i else 0
    let a := decodePlain w x
    let b := decodePlain w y
    let n := nauRound exact (precOf o) (descOp d) (nauParams d ++ [x, y]) (a.finite && b.finite) (f a b)
    (storeBytes s (pd + i * plainBytes o) (leBytes (plainBytes o) n), none)) s (List.range (nauRows d * nauCols d))

/-- Runs an operation row by row: `f` gives the exact value of column `j` from the row of A and the values of C that start at
its address `c`. -/
def runRows (c : Nat) (aux : State → Nat → Nat → List Nat) (f : List Fl → List Nat → Nat → Ex) (s : State) (d : Desc) :
    State × Option Fail :=
  let w := nauIn32 d
  let o := nauOut32 d
  let n := nauCols d
  let pa := (placeOf s c (lo32 d.w1)).addr
  let pd := (placeOf s c (lo32 d.w2)).addr
  let pc := (placeOf s c (lo32 d.w3)).addr
  let exact := nauExact s c d
  runAll (fun s i =>
    let row := (List.range n).map fun j => plainAt s w pa (i * n + j)
    let xs := row.map (decodePlain w)
    let cs := aux s pc i
    let finite := xs.all Fl.finite
    let out := (List.range n).flatMap fun j => leBytes (plainBytes o)
      (nauRound exact (precOf o) (descOp d) (nauParams d ++ [j] ++ cs ++ row) finite (f xs cs j))
    (storeBytes s (pd + i * n * plainBytes o) out, none)) s (List.range (nauRows d))

/-- The BF16 values of gamma, or of gamma then beta, `k` per column. -/
def normAux (k : Nat) (d : Desc) (s : State) (pc _i : Nat) : List Nat :=
  (List.range (k * nauCols d)).map fun j => plainAt s false pc j

/-- RMSNORM of column `j`. -/
def rmsEx (eps : Fl) (xs : List Fl) (cs : List Nat) (j : Nat) : Ex :=
  let n := xs.length
  let x := xs.getD j .nan
  let g := decode16 (cs.getD j 0)
  if xs.any fun v => decide (v = .nan) then .nan
  else if xs.all Fl.finite && eps.finite then
    let sq := (xs.map fun v => v.int * v.int).sum
    normEx x.int (2 ^ 149) x.neg (sq + eps.int * (n * 2 ^ 149 : Nat)) (n * 2 ^ 298) g none
  else match eps with
    | .nan | .inf true => .nan
    | _ => match x with
      | .fin m _ => mulEx (.fin m 0) g
      | _ => .nan

/-- LAYERNORM of column `j`. -/
def layerEx (eps : Fl) (xs : List Fl) (cs : List Nat) (j : Nat) : Ex :=
  let n := xs.length
  let x := xs.getD j .nan
  let g := decode16 (cs.getD j 0)
  let b := decode16 (cs.getD (n + j) 0)
  if !xs.all Fl.finite then .nan
  else
    let sum := (xs.map Fl.int).sum
    let dev := fun (v : Fl) => (n : Int) * v.int - sum
    match eps with
    | .nan | .inf true => .nan
    | .inf false =>
      (match mulEx (.fin (decide (dev x < 0)) 0) g, b with
       | .nan, _ | _, .nan => .nan
       | _, .inf z => .inf z
       | .q y _ _ _, .fin z m => if m = 0 then .q (y && z) 0 1 false else .q z m (2 ^ 149) false
       | e, _ => e)
    | .fin _ _ =>
      let sq := (xs.map fun v => dev v * dev v).sum
      normEx (dev x) (n * 2 ^ 149) false (sq + eps.int * (n ^ 3 * 2 ^ 149 : Nat)) (n ^ 3 * 2 ^ 298) g (some b)

/-- SOFTMAX_FIN of column `j`: exp (A - maximum) / sum, one rounding. -/
def softmaxEx (xs : List Fl) (cs : List Nat) (j : Nat) : Ex :=
  let mx := decode32 (cs.getD 0 0)
  let sum := decode32 (cs.getD 1 0)
  let e : Ex := match addEx (xs.getD j .nan) mx.flip with
    | .nan => .nan
    | .inf n => if n then .q false 0 1 false else .inf false
    | .q n a d _ => let (x, y, cut) := expQ n a d; .q false x y cut
  match e, sum with
  | .nan, _ | _, .nan => .nan
  | .inf _, .inf _ => .nan
  | .inf n, .fin m _ => .inf (n != m)
  | .q n _ _ _, .inf m => .q (n != m) 0 1 false
  | .q n a b cut, .fin m k => if k = 0 then (if a = 0 then .nan else .inf (n != m)) else .q (n != m) (a * 2 ^ 149) (b * k) cut

/-! ### ADAMW -/

/-- The state record (R349). -/
def adamStructs (c : Nat) (s : State) (d : Desc) : Option Fail :=
  let p := (placeOf s c (lo32 d.w3)).addr
  let b := readBytes s p 32
  let v := fun (o : Nat) => decode32 (num b o 4)
  let unitRange := fun (x : Fl) => match x with
    | .fin n m => (!n || decide (m = 0)) && decide (m < 2 ^ 149)
    | _ => false
  let notNeg := fun (x : Fl) => match x with
    | .fin n m => !n || decide (m = 0)
    | .inf n => !n
    | .nan => false
  failAt p <| firstFail [(unitRange (v 4) && unitRange (v 8) && notNeg (v 12) && decide (v 12 ≠ .fin false 0) && decide (v 12 ≠ .fin true 0)
    && notNeg (v 16), .format)]

/-- One FP32 operation of ADAMW on encodings; `id` numbers it. -/
def op32 (exact : Bool) (id : Nat) (f : Fl → Fl → Ex) (x y : Nat) : Nat :=
  let a := decode32 x
  let b := decode32 y
  nauRound exact 24 (16 * id + 10) [x, y] (a.finite && b.finite) (f a b)

/-- The update of one element: the new moments and master (R349), each operation rounded. -/
def adamStep (exact : Bool) (b : List Byte) (g m v w : Nat) : Nat × Nat × Nat :=
  let f := fun (o : Nat) => num b o 4
  let mul := fun id => op32 exact id mulEx
  let add := fun id => op32 exact id addEx
  let sub := fun id => op32 exact id fun x y => addEx x y.flip
  let one := 0x3F800000
  let m' := add 3 (mul 0 (f 4) m) (mul 2 (sub 1 one (f 4)) g)
  let v' := add 8 (mul 4 (f 8) v) (mul 7 (mul 6 (sub 5 one (f 8)) g) g)
  let den := add 12 (op32 exact 11 (fun x _ => sqrtEx x) (mul 10 v' (f 24)) 0) (f 12)
  let r := op32 exact 13 divEx (mul 9 m' (f 20)) den
  let w' := sub 17 w (mul 16 (f 0) (add 15 r (mul 14 (f 16) w)))
  (m', v', w')

/-- ADAMW (R349). -/
def runAdamw (c : Nat) (s : State) (d : Desc) : State × Option Fail :=
  let n := nauRows d * nauCols d
  let pa := (placeOf s c (lo32 d.w1)).addr
  let pb := (placeOf s c (hi32 d.w1)).addr
  let pd := (placeOf s c (lo32 d.w2)).addr
  let pc := (placeOf s c (lo32 d.w3)).addr
  let exact := nauExact s c d
  let b := readBytes s pc 32
  runAll (fun s i =>
    let g := roundEx 24 (decodePlain (nauIn32 d) (plainAt s (nauIn32 d) pa i)).ex
    let (m, v, w) := adamStep exact b g (plainAt s true (pc + 32) i) (plainAt s true (pc + 32 + 4 * n) i) (plainAt s true pb i)
    let s := storeBytes s (pc + 32 + 4 * i) (leBytes 4 m)
    let s := storeBytes s (pc + 32 + 4 * n + 4 * i) (leBytes 4 v)
    let s := storeBytes s (pb + 4 * i) (leBytes 4 w)
    (storeBytes s (pd + 2 * i) (leBytes 2 (roundEx 8 (decode32 w).ex)), none)) s (List.range n)

/-! ### The commands -/

/-- A NAU descriptor of operation `op` starts. -/
def startNau (c : CoreId) (isOp : Nat → Bool) (structs : State → Desc → Option Fail)
    (run : State → Desc → State × Option Fail) (ups : List Upset) (s : State) : Outcome :=
  .next (startDesc s c .nau isOp (fun _ d => nauPlan d) structs (guardResidue ups run) ups)

/-- RMSNORM starts (R62). -/
def execRmsnorm (c : CoreId) (ups : List Upset) (s : State) : Outcome :=
  startNau c (fun n => n == 0 || decide (11 ≤ n)) noStructs
    (fun s d => runRows c (normAux 1 d) (rmsEx (decode32 (hi32 d.w2))) s d) ups s
/-- LAYERNORM starts (R62). -/
def execLayernorm (c : CoreId) (ups : List Upset) (s : State) : Outcome :=
  startNau c (· == 1) noStructs (fun s d => runRows c (normAux 2 d) (layerEx (decode32 (hi32 d.w2))) s d) ups s
/-- SILU_MUL starts (R62). -/
def execSiluMul (c : CoreId) (ups : List Upset) (s : State) : Outcome :=
  startNau c (· == 2) noStructs (runElems c siluMulEx) ups s
/-- GELU starts (R62). -/
def execGelu (c : CoreId) (ups : List Upset) (s : State) : Outcome :=
  startNau c (· == 3) noStructs (runElems c fun a _ => geluEx a) ups s
/-- ADD starts (R62). -/
def execAdd (c : CoreId) (ups : List Upset) (s : State) : Outcome := startNau c (· == 4) noStructs (runElems c addEx) ups s
/-- MUL starts (R62). -/
def execMul (c : CoreId) (ups : List Upset) (s : State) : Outcome := startNau c (· == 5) noStructs (runElems c mulEx) ups s
/-- EXP starts (R62). -/
def execExp (c : CoreId) (ups : List Upset) (s : State) : Outcome :=
  startNau c (· == 6) noStructs (runElems c fun a _ => expEx a) ups s
/-- RECIP starts (R62). -/
def execRecip (c : CoreId) (ups : List Upset) (s : State) : Outcome :=
  startNau c (· == 7) noStructs (runElems c fun a _ => divEx (.fin false (2 ^ 149)) a) ups s
/-- RSQRT starts (R62). -/
def execRsqrt (c : CoreId) (ups : List Upset) (s : State) : Outcome :=
  startNau c (· == 8) noStructs (runElems c fun a _ => rsqrtEx a) ups s
/-- SOFTMAX_FIN starts (R62). -/
def execSoftmaxFin (c : CoreId) (ups : List Upset) (s : State) : Outcome :=
  startNau c (· == 9) noStructs
    (runRows c (fun s pc i => [plainAt s true pc (2 * i), plainAt s true pc (2 * i + 1)]) softmaxEx) ups s
/-- ADAMW starts (R62, R349). -/
def execAdamw (c : CoreId) (ups : List Upset) (s : State) : Outcome :=
  startNau c (· == 10) (adamStructs c) (runAdamw c) ups s

end Sys2Proof.Machine
end

