-- ==== Sys2Proof/Machine/Quant.lean ====
section
/-!
DEFINITION. The quantiser (02 R64, R65; 03 R90-R95), and the finishing of a block that the KSE shares (09 R326, R327).
-/
namespace Sys2Proof.Machine

/-- A source element after its division by TSCALE: its sign and its magnitude in units of 2^-149. -/
abbrev Quo := Bool × Nat

/-- u = x / TSCALE rounded to FP32, the largest finite value beyond it (R90): `n / d` is the magnitude of the quotient. -/
def quoOf (neg : Bool) (n d : Nat) : Quo := (neg, tsMag (min (roundMag 24 n d false) 0x7F7FFFFF))

/-- Q (R90): 6 for FP4, 7 for INT4. -/
def qOf (fmt : Nat) : Nat := if fmt = 0 then 6 else 7

/-- Code of u / s on the grid of `fmt` for a block-scale code (R91); 0 for a scale of 0. -/
def gridCode (fmt s : Nat) (u : Quo) : Nat :=
  let b := (scale9 s).getD 0
  if b = 0 then 0 else placeCode fmt u.1 u.2 (b * 2 ^ 140)

/-- The largest magnitude of a block. -/
def maxMag (us : List Quo) : Nat := us.foldl (fun m u => max m u.2) 0

/-- A finished block: its scale code, its element codes, and the counts for REG_QTZ_ZBLK and REG_QTZ_SAT (R95). -/
structure QBlock where
  scale : Nat
  codes : List Nat
  zero : Bool
  sat : Bool
deriving DecidableEq, Repr

/-- Finishes a block of format `fmt` with the divisor Q, 127 for a replay block (R94, R95). -/
def finishBlock (fmt q : Nat) (us : List Quo) : QBlock :=
  let m := maxMag us
  let s := scaleUp m (2 ^ 140 * q)
  let codes := us.map (gridCode fmt s)
  let zero := codes.all (· == 0)
  let sat := decide (229376 * (2 ^ 140 * q) < m)
  { scale := if zero then 0 else s, codes := codes, zero := zero && !sat, sat := sat }

/-- Packs element codes of a format of 4 or 8 bits (R49). -/
def packCodes (fmt : Nat) (codes : List Nat) : List Byte :=
  leBytes (blockBytes fmt) ((List.range codes.length).foldl (fun n i => n + codes.getD i 0 * 2 ^ (fmtBits fmt * i)) 0)

/-- Block `j` of a row. -/
def blockOf (us : List Quo) (j : Nat) : List Quo := (us.drop (32 * j)).take 32

/-- Is the element a candidate under R92? `s0` is the provisional scale of its block. -/
def isCandidate (fmt thresh s0 : Nat) (u : Quo) : Bool :=
  let b := (scale9 s0).getD 0
  let g : Int := if b = 0 then 0 else (elemTwice fmt (gridCode fmt s0 (false, u.2))).getD 0
  let err := ((u.2 : Int) - g * (b : Int) * (2 ^ 139 : Nat)).natAbs
  let limit := thresh * b * 2 ^ (if fmt = 0 then 135 else 136)
  -- a negative element's grid differs only at INT4's -8
  let errNeg := ((u.2 : Int) + ((elemTwice fmt (gridCode fmt s0 (true, u.2))).getD 0) * (b : Int) * (2 ^ 139 : Nat)).natAbs
  decide (2 ^ 146 ≤ u.2) && decide (limit < if u.1 && b ≠ 0 then errNeg else err)

/-- The outlier candidates of a row, in descending magnitude, the lower KIDX first (R65, R92). -/
def candidates (fmt thresh kblk : Nat) (us : List Quo) : List Nat :=
  let ks := (List.range kblk).flatMap fun j =>
    let b := blockOf us j
    let g := (sortBy (fun x y => decide (y < x)) (b.map (·.2))).getD 3 0
    let s0 := scaleUp g (2 ^ 140 * qOf fmt)
    ((List.range 32).filter fun i => isCandidate fmt thresh s0 (b.getD i (false, 0))).map fun i => 32 * j + i
  sortBy (fun i k => decide ((us.getD k (false, 0)).2 < (us.getD i (false, 0)).2)) ks

/-- The VALUE of an outlier, and whether it was replaced (R93). -/
def outlierValue (u : Quo) : Nat × Bool :=
  let v := roundMag 8 u.2 (2 ^ 149) false
  let big := decide (0x4B80 ≤ v)
  ((if u.1 then 0x8000 else 0) + (if big then 0x4B7F else v), big)

/-! ### The descriptor -/

/-- ROWS. -/
def qtzRows (d : Desc) : Nat := bits d.w0 32 9
/-- KBLK. -/
def qtzKblk (d : Desc) : Nat := bits d.w0 41 20
/-- OUTFMT: FP4 or INT4. -/
def qtzFmt (d : Desc) : Nat := bits d.w0 61 1
/-- INFMT FP32. -/
def qtzIn32 (d : Desc) : Bool := bit d.w0 62
/-- SPILL_EN. -/
def qtzSpill (d : Desc) : Bool := bit d.w0 63
/-- CAP. -/
def qtzCap (d : Desc) : Nat := bits d.w3 0 11
/-- RCAP. -/
def qtzRcap (d : Desc) : Nat := bits d.w3 11 9
/-- THRESH. -/
def qtzThresh (d : Desc) : Nat := bits d.w3 20 8

/-- Offset of the side table from the header. -/
def qtzSideOff (d : Desc) : Nat := bodyBytes 0 (qtzRows d) (qtzKblk d)
/-- Offset of the replay area. -/
def qtzReplOff (d : Desc) : Nat := qtzSideOff d + if qtzSpill d then qtzRows d * sideBytes (qtzCap d) else 0

/-- The plan of QUANT (R64). -/
def qtzPlan (d : Desc) : Plan :=
  let n := qtzRows d * 32 * qtzKblk d
  let sp := qtzSpill d
  { encoding := decide (descOp d = 0) && decide (hi32 d.w1 = 0) && decide (bits d.w3 28 36 = 0)
      && [lo32 d.w1, lo32 d.w2].all orfOk && tscaleOk (hi32 d.w2)
      && (if sp then decide (1 ≤ qtzCap d) && decide (qtzCap d ≤ 1024) && decide (qtzRcap d ≤ 256) && decide (1 ≤ qtzThresh d)
          else decide (bits d.w3 0 28 = 0))
    counts := [(qtzRows d, 511, 256), (qtzKblk d, 2 ^ 20 - 1, 524288)]
    operands :=
      [plainOp (lo32 d.w1) [1, 2, 4] (some 5) true false (n * plainBytes (qtzIn32 d)),
       plainOp (lo32 d.w2) [1, 4] none false true (qtzReplOff d + qtzRcap d * replayBytes (qtzKblk d))]
    tokens := 0 }

/-- Counts finished blocks; `sats`: blocks counted under R93. -/
def countBlocks (k : Core) (bs : List QBlock) (sats : List Nat) : Core :=
  let ix := List.range bs.length
  let at' := fun i => bs.getD i { scale := 0, codes := [], zero := false, sat := false }
  let nsat := ix.countP fun i => (at' i).sat || sats.contains i
  let nzero := ix.countP fun i => (at' i).zero && !sats.contains i
  { k with cnt := { k.cnt with zblk := bumpBy k.cnt.zblk nzero, sat := bumpBy k.cnt.sat nsat } }

/-- The address of row `i`'s blocks, and of its scales, in D. -/
def qtzBlocks (pd i kblk : Nat) : Nat := pd + 16 + i * kblk * 16
/-- The scales of row `i`. -/
def qtzScales (pd rows i kblk : Nat) : Nat := pd + 16 + rows * kblk * 16 + i * kblk

/-- Writes a row of blocks. -/
def writeRow (s : State) (blocks scales : Nat) (fmt : Nat) (bs : List QBlock) : State :=
  let s := storeBytes s blocks (bs.flatMap fun b => packCodes fmt b.codes)
  storeBytes s scales (bs.map fun b => BitVec.ofNat 8 b.scale)

/-- A row header of the side table (R50). -/
def sideHeader (count : Nat) (replay : Bool) (slot : Nat) : List Byte := leBytes 8 (count + at_ 16 (bnat replay) + at_ 32 slot)

/-- Row `i` as a replay row in the next free slot (R65, R94). -/
def quantReplay (c : Nat) (d : Desc) (s : State) (i used : Nat) (us : List Quo) : State × Option Fail :=
  if qtzRcap d ≤ used then (s, some (.of .overflow))
  else
    let kb := qtzKblk d
    let pd := (placeOf s c (lo32 d.w2)).addr
    let bs := (List.range kb).map fun j => finishBlock 4 127 (blockOf us j)
    let slot := pd + qtzReplOff d + used * replayBytes kb
    let s := storeBytes s slot (leBytes 16 i)
    let s := writeRow s (slot + 16) (slot + 16 + 32 * kb) 4 bs
    let s := storeBytes s (slot + 16 + 33 * kb) (List.replicate (roundUp kb 16 - kb) 0)
    let s := writeRow s (qtzBlocks pd i kb) (qtzScales pd (qtzRows d) i kb) 0
      (List.replicate kb { scale := 0, codes := List.replicate 32 0, zero := false, sat := false })
    let s := storeBytes s (pd + qtzSideOff d + i * sideBytes (qtzCap d)) (sideHeader 0 true used)
    let s := updCore s c fun k => let k := countBlocks k bs []; { k with cnt := { k.cnt with spuOvf := bump k.cnt.spuOvf } }
    (logRec s { unitRec s c 5 0 d.pc { code := .ok, syn := i + at_ 32 used } with cls := .info }, none)

/-- Row `i` in blocks, its candidates extracted (R65, R93, R95). The bytes of its record beyond COUNT entries stay as they were (DESIGN
CHOICE, log entry 103). -/
def quantBlocks (c : Nat) (d : Desc) (s : State) (i : Nat) (us : List Quo) (cand : List Nat) : State :=
  let kb := qtzKblk d
  let fmt := qtzFmt d
  let pd := (placeOf s c (lo32 d.w2)).addr
  let vals := cand.map fun k => (k, outlierValue (us.getD k (false, 0)))
  let us := (List.range us.length).map fun k => if cand.contains k then (false, 0) else us.getD k (false, 0)
  let bs := (List.range kb).map fun j => finishBlock fmt (qOf fmt) (blockOf us j)
  let s := writeRow s (qtzBlocks pd i kb) (qtzScales pd (qtzRows d) i kb) fmt bs
  let s := if qtzSpill d then
      storeBytes s (pd + qtzSideOff d + i * sideBytes (qtzCap d))
        (sideHeader cand.length false 0 ++ vals.flatMap fun v => leBytes 8 (v.1 + at_ 32 v.2.1))
    else s
  updCore s c fun k =>
    let k := countBlocks k bs (sortNat ((vals.filter fun v => v.2.2).map fun v => v.1 / 32))
    { k with cnt := { k.cnt with spuOutl := bumpBy k.cnt.spuOutl cand.length } }

/-- The header of D (R48, R64). -/
def qtzHeader (d : Desc) : List Byte :=
  let sp := qtzSpill d
  let rp := decide (0 < qtzRcap d)
  leBytes 4 (hi32 d.w2) ++ [BitVec.ofNat 8 (qtzFmt d), BitVec.ofNat 8 (bnat sp + 2 * bnat rp)] ++ leBytes 2 (qtzCap d)
    ++ leBytes 4 (if sp then qtzSideOff d / 16 else 0) ++ leBytes 4 (if rp then qtzReplOff d / 16 else 0)

/-- The rows from `i` on, with `used` replay slots taken. -/
def quantRows (c : Nat) (d : Desc) : Nat → Nat → Nat → State → State × Option Fail
  | 0, _, _, s => (s, none)
  | n + 1, i, used, s =>
    let len := 32 * qtzKblk d
    let pa := (placeOf s c (lo32 d.w1)).addr
    let xs := (List.range len).map fun j => decodePlain (qtzIn32 d) (plainAt s (qtzIn32 d) pa (i * len + j))
    let good := xs.takeWhile fun x => x.finite
    if good.length < xs.length then (s, some { code := .format, addr := some (pa + (i * len + good.length) * plainBytes (qtzIn32 d)) })
    else
      let ts := tsMag (hi32 d.w2)
      let us := xs.map fun x => quoOf x.neg x.int.natAbs ts
      let cand := if qtzSpill d then candidates (qtzFmt d) (qtzThresh d) (qtzKblk d) us else []
      if qtzCap d < cand.length then
        match quantReplay c d s i used us with
        | (s, some f) => (s, some f)
        | (s, none) => quantRows c d n (i + 1) (used + 1) s
      else quantRows c d n (i + 1) used (quantBlocks c d s i us cand)

/-- QUANT (R65, R90-R95). -/
def runQuant (c : Nat) (s : State) (d : Desc) : State × Option Fail :=
  let pd := (placeOf s c (lo32 d.w2)).addr
  let n := qtzRows d * qtzKblk d
  let s := storeBytes s pd (qtzHeader d)
  let s := storeBytes s (pd + 16 + 17 * n) (List.replicate (roundUp n 16 - n) 0)
  quantRows c d (qtzRows d) 0 0 s

/-- QUANT starts (R64, R65). -/
def execQuant (c : CoreId) (ups : List Upset) (s : State) : Outcome :=
  .next (startDesc s c .qtz (fun _ => true) (fun _ d => qtzPlan d) noStructs (runQuant c) ups)

end Sys2Proof.Machine
end

