-- ==== Sys2Proof/Machine/Kv.lean ====
section
/-!
DEFINITION. The KV scatter engine (02 R66; 09 R318-R327, R331): APPEND, PARK and RESTORE.
-/
namespace Sys2Proof.Machine

/-- ROWS. -/
def kvRows (d : Desc) : Nat := bits d.w0 32 9
/-- EPOCH. -/
def kvEpoch (d : Desc) : Nat := bits d.w0 41 8
/-- SPEC. -/
def kvSpec (d : Desc) : Bool := bit d.w0 49
/-- POS. -/
def kvPos (d : Desc) : Nat := hi32 d.w2
/-- NPAGE of PARK and RESTORE. -/
def kvNpage (d : Desc) : Nat := bits d.w0 32 16
/-- SNADDR. -/
def kvSnaddr (d : Desc) : Nat := bits d.w3 0 40

/-- The page list of a KSE descriptor. -/
def kvList (s : State) (c : Nat) (d : Desc) : PList := pageList s (placeOf s c (hi32 d.w1))

/-- The K tensor that arrives. -/
def kvK (s : State) (c : Nat) (d : Desc) : Tens := tensAt s (placeOf s c (lo32 d.w1)) (kvRows d) (kvList s c d).kblk

/-- Bytes from the K header to its last byte: its replay area holds as many slots as the model leaves free (R324, R578). -/
def kExtent (s : State) (k : Tens) : Nat :=
  let n := bodyBytes 0 k.rows k.kblk
  let n := if k.outl then max n (k.outlOff + k.rows * sideBytes k.cap) else n
  if !k.repl then n
  else
    let used := (List.range k.rows).foldl (fun u i => match k.sideRow s i with
      | .ok r => if r.replay then max u (r.slot + 1) else u
      | .error _ => u) 0
    max n (k.replOff + (max used (Config.replaySlots k.rows used).val) * replayBytes k.kblk)

/-- The V tensor that arrives, at the first 16-byte boundary after the K tensor (R324). -/
def kvV (s : State) (c : Nat) (d : Desc) : Tens :=
  let k := kvK s c d
  let n := roundUp (kExtent s k) 16
  tensAt s { space := 0, off := 0, addr := k.addr + n, left := k.left - n } (kvRows d) k.kblk

/-- The pages whose summary an APPEND folds (R326). -/
def foldPages (l : PList) : List Nat :=
  if l.summary && decide (l.ccnt < l.valid) then
    (List.range ((l.valid - 1) / 64 + 1 - l.ccnt / 64)).map fun i => l.ccnt / 64 + i
  else []

/-- The pages that an APPEND writes rows into. -/
def appendPages (d : Desc) : List Nat :=
  (List.range ((kvPos d + kvRows d - 1) / 64 + 1 - kvPos d / 64)).map fun i => kvPos d / 64 + i

/-- The bytes that the row of page `j` takes in the summary table: its codes and its scales (R326, R330). A page beyond the table has none. -/
def sumRanges (s : State) (c : Nat) (l : PList) (j : Nat) : Ranges :=
  let tb := coreAddr c 0 l.sumoff
  let rows := readNum s (tb + 4) 4
  if rows ≤ j then [] else [(tb + 32 + j * l.kblk * 16, l.kblk * 16), (tb + 32 + rows * l.kblk * 16 + j * l.kblk, l.kblk)]

/-- Does the summary table lie in the KV partition, where alone a unit may write (R128)? -/
def sumInKv (s : State) (c : Nat) (l : PList) : Bool :=
  decide ((coreOf s c).boundary * 65536 ≤ l.sumoff)
    && decide (l.sumoff + 32 + readNum s (coreAddr c 0 l.sumoff + 4) 4 * l.kblk * 17 ≤ 2 ^ 28)

/-- The plan of a KSE descriptor (R66, R76, R126). -/
def ksePlan (s : State) (c : Nat) (d : Desc) : Plan :=
  let op := descOp d
  let l := kvList s c d
  let app := op == 0
  { encoding := decide (op ≤ 2) && [lo32 d.w1, hi32 d.w1].all orfOk && decide (lo32 d.w2 = 0)
      && (if app then decide (bits d.w0 50 14 = 0) && decide (d.w3 = 0)
          else decide (bits d.w0 51 13 = 0) && decide (lo32 d.w1 = 0) && decide (hi32 d.w2 = 0) && decide (bits d.w3 40 24 = 0)
            && decide (kvSnaddr d % 64 = 0))
    counts := [if app then (kvRows d, 511, 256) else (kvNpage d, 65535, 65534)]
    operands :=
      (if app then [{ orf := lo32 d.w1, spaces := [1, 4], unit := some 6, rd := true, wr := false
                      header := some (headerOk [0] true), size := tensorBytes (kvRows d) l.kblk
                      dims := (kvRows d, l.kblk) : Operand }] else [])
      ++ [{ plainOp (hi32 d.w1) [1] none true app 64 with idle := !l.summary }]
    tokens := if app then 0 else tokensAt 1 (descRate d)
    lists := l.parts
    flq := if app then none else some (bits d.w0 48 3)
    more := if app then ((appendPages d).map fun j => (blockAddr s c l j, pbSize l.kblk l.pcap))
        ++ (foldPages l).flatMap (sumRanges s c l)
      else if op = 2 then (List.range (kvNpage d)).map fun j => (coreAddr c 0 (entAddrOf (listEntry s l j)), l.pgsize)
      else [] }

/-! ### APPEND -/

/-- What APPEND reads before data move: R323, a summary table that it will write (LENGTH outside the KV partition, R128: DEDUCED, log entry
87), then R324. The V tensor lies with the K tensor in one slice of space 0x4 (R52). -/
def appendStructs (c : Nat) (s : State) (d : Desc) : Option Fail :=
  let l := kvList s c d
  match checkList s c (hi32 d.w1) none (foldPages l ++ appendPages d) with
  | some x => some x
  | none =>
    let k := kvK s c d
    let v := kvV s c d
    let vh := readBytes s v.addr 16
    let vn := bodyBytes 0 v.rows v.kblk
    match failAt (coreAddr c 0 l.sumoff) (firstFail [((foldPages l).isEmpty || sumInKv s c l, .length)]) with
    | some x => some x
    | none => match failAt v.addr (firstFail
        [(headerOk [0] false vh && decide (hdrFlags vh = 0), .format),
         (decide (v.addr - k.addr ≤ k.left) && decide (vn ≤ v.left), .length),
         (!leavesSlice k.addr v.addr vn, .format)]) with
      | some x => some x
      | none => failAt k.addr (firstFail
          [(decide (k.cap ≤ l.pcap), .format),
           ((appendPages d).all fun j => entPidx (listEntry s l j) == j, .format),
           (decide (l.valid ≤ kvPos d), .format)])

/-- The exact mean of `n` values that sum to `v` in units of 2^-10 of a tensor scale, divided by the table's TSCALE and rounded
as R326 asks: first to FP32, then R90. A mean beyond the largest finite FP32 gives the quotient 0x7F7F_FFFF with its sign. -/
def meanQuo (v : Int) (n ks ts : Nat) : Quo :=
  let r := roundMag 24 (v.natAbs * ks) (n * 2 ^ 159) false
  let neg := decide (v < 0)
  if 0x7F7FFFFF < r then (neg, tsMag 0x7F7FFFFF) else quoOf neg (tsMag r) ts

/-- Recomputes row `pidx` of the summary table from the rows of the page below VALID (R326). -/
def foldPage (c : Nat) (l : PList) (s : State) (pidx : Nat) : State × Option Fail :=
  let tb := coreAddr c 0 l.sumoff
  let rows := readNum s (tb + 4) 4
  -- a page beyond the table has no row: nothing is stored (DESIGN CHOICE, log entry 46)
  if rows ≤ pidx then (s, none)
  else
    let k := kTensor s l (blockAddr s c l pidx)
    let n := min 64 (l.valid - 64 * pidx)
    orFail s (do
      let rs ← (List.range n).mapM fun i => rowValue10 s k i
      (List.range (32 * l.kblk)).mapM fun e => do
        let vs ← rs.mapM fun f => f e
        .ok (vs.foldl (· + ·) 0)) fun (sums : List Int) =>
      let us := sums.map fun v => meanQuo v n (tsMag k.ts) (tsMag (readNum s (tb + 16) 4))
      let bs := (List.range l.kblk).map fun j => finishBlock 0 6 (blockOf us j)
      match meetWrites s (sumRanges s c l pidx) [] with
      | (s, some f) => (s, some f)
      | (s, none) => (writeRow s (tb + 32 + pidx * l.kblk * 16) (tb + 32 + rows * l.kblk * 16 + pidx * l.kblk) 0 bs, none)

/-- Folds, then CCNT becomes VALID (R326). -/
def foldList (c : Nat) (d : Desc) (s : State) : State × Option Fail :=
  let l := kvList s c d
  if !l.summary then (s, none)
  else match runAll (foldPage c l) s (foldPages l) with
    | (s, some f) => (s, some f)
    | (s, none) => (writeNum s (l.addr + 8) 4 l.valid, none)

/-- A page block begins anew: tags cleared, headers with the arriving TSCALEs, every V block scale 0x38 (R325). -/
def initBlock (s : State) (l : PList) (a kts vts : Nat) : State :=
  let kb := l.kblk
  let outl := decide (0 < l.pcap)
  let hdr := fun (ts : Nat) (o : Bool) =>
    leBytes 4 ts ++ [0, BitVec.ofNat 8 (bnat o)] ++ leBytes 2 (if o then l.pcap else 0)
      ++ leBytes 4 (if o then (16 + 1088 * kb) / 16 else 0) ++ leBytes 4 0
  let va := a + 128 + kBytes kb l.pcap
  let s := storeBytes s a (List.replicate 128 0)
  let s := storeBytes s (a + 128) (hdr kts outl)
  let s := storeBytes s va (hdr vts false)
  storeBytes s (va + 16 + 1024 * kb) (List.replicate (64 * kb) 0x38)

/-- Writes element code `e` of element `i` of the 16-byte block at `b`. -/
def putNibble (s : State) (b i e : Nat) : State :=
  let old := readNum s (b + i / 2) 1
  storeBytes s (b + i / 2) (leBytes 1 (if i % 2 = 0 then old / 16 * 16 + e else old % 16 + 16 * e))

/-- Copies the V row into the column of its slot, and its block scales as BF16 (R320, R325). -/
def putV (s : State) (l : PList) (a slot : Nat) (v : Tens) (row : Nat) : State :=
  let va := a + 128 + kBytes l.kblk l.pcap
  let s := (List.range (32 * l.kblk)).foldl (fun s ch =>
    putNibble s (va + 16 + (2 * ch + slot / 32) * 16) (slot % 32) (elemCode s 0 (v.block row (ch / 32)) (ch % 32))) s
  (List.range l.kblk).foldl (fun s g =>
    let b := readNum s (v.scaleAddr row g) 1
    let bf := match scale9 b with
      | some n => roundMag 8 n 512 false
      | none => (Config.reservedScale (BitVec.ofNat 8 b)).toNat
    storeBytes s (va + vBytes l.kblk + 128 * g + 2 * slot) (leBytes 2 bf)) s

/-- Copies the K row: codes, scales and side-table row, a replay row re-encoded (R325, R327). -/
def putK (s : State) (l : PList) (a slot : Nat) (k : Tens) (row : Nat) : State × Option Fail :=
  let kb := l.kblk
  let blocks := a + 128 + 16 + slot * kb * 16
  let scales := a + 128 + 16 + 1024 * kb + slot * kb
  let side := a + 128 + 16 + 1088 * kb + slot * sideBytes l.pcap
  orFail s (k.sideRow s row) fun r =>
    if r.replay then
      orFail s (do
        let base ← k.replaySlot r.slot
        (List.range (32 * kb)).mapM fun e => replayValue9 s base kb e) fun (vs : List Int) =>
        let us : List Quo := vs.map fun v => (decide (v < 0), v.natAbs * 2 ^ 140)
        let s := writeRow s blocks scales 0 ((List.range kb).map fun j => finishBlock 0 6 (blockOf us j))
        (if l.pcap = 0 then s else storeBytes s side (sideHeader 0 false 0), none)
    else
      let s := storeBytes s blocks (readBytes s (k.block row 0) (16 * kb))
      let s := storeBytes s scales (readBytes s (k.scaleAddr row 0) kb)
      (if l.pcap = 0 then s
       else storeBytes s side (sideHeader r.count false 0 ++ readBytes s (k.side row + 8) (8 * r.count)), none)

/-- The bytes that a row of slot `slot` writes in the block at `a`: tag, K codes, K scales, side-table row, one V code per
channel, V scales (R319, R320). -/
def rowRanges (l : PList) (a slot : Nat) : Ranges :=
  let kb := l.kblk
  let va := a + 128 + kBytes kb l.pcap
  [(a + 2 * slot, 2), (a + 144 + slot * kb * 16, 16 * kb), (a + 144 + 1024 * kb + slot * kb, kb),
   (a + 144 + 1088 * kb + slot * sideBytes l.pcap, if l.pcap = 0 then 0 else sideBytes l.pcap)]
    ++ ((List.range (32 * kb)).map fun ch => (va + 16 + (2 * ch + slot / 32) * 16 + slot % 32 / 2, 1))
    ++ (List.range kb).map fun g => (va + vBytes kb + 128 * g + 2 * slot, 2)

/-- The bytes that a page block's new beginning writes (R325): tags, both headers, and the V block scales. -/
def initRanges (l : PList) (a : Nat) : Ranges :=
  let va := a + 128 + kBytes l.kblk l.pcap
  [(a, 128), (a + 128, 16), (va, 16), (va + 16 + 1024 * l.kblk, 64 * l.kblk)]

/-- The headers of a page block, whose TSCALEs a row of a slot other than 0 is held against (R325). -/
def hdrRanges (l : PList) (a : Nat) : Ranges := [(a + 128, 16), (a + 128 + kBytes l.kblk l.pcap, 16)]

/-- The bytes that a row of slot `slot` meets in the block at `a` before it is written: the bursts that it writes in part, and the headers. -/
def rowMeets (l : PList) (a slot : Nat) : Ranges :=
  (rowRanges l a slot ++ if slot = 0 then initRanges l a else []).flatMap partsOf ++ if slot = 0 then [] else hdrRanges l a

/-- What the rows of an APPEND meet, and the summary rows that it folds first. -/
def appendRanges (s : State) (c : Nat) (d : Desc) (l : PList) : Ranges :=
  ((foldPages l).flatMap (sumRanges s c l)).flatMap partsOf ++ (List.range (kvRows d)).flatMap fun i =>
    rowMeets l (blockAddr s c l ((kvPos d + i) / 64)) ((kvPos d + i) % 64)

/-- Row `i` of an APPEND (R324, R325). -/
def appendRow (c : Nat) (d : Desc) (l : PList) (k v : Tens) (s : State) (i : Nat) : State × Option Fail :=
  let p := kvPos d + i
  let slot := p % 64
  let a := blockAddr s c l (p / 64)
  let va := a + 128 + kBytes l.kblk l.pcap
  match (if slot = 0 then meetWrites s (initRanges l a) [] else meetReads s (hdrRanges l a) []) with
  | (s, some f) => (s, some f)
  | (s, none) =>
    if slot ≠ 0 ∧ (readNum s (a + 128) 4 ≠ k.ts ∨ readNum s va 4 ≠ v.ts) then (s, some { code := .format, addr := some (a + 128) })
    else
    let s := if slot = 0 then initBlock s l a k.ts v.ts else s
    match meetWrites s (rowRanges l a slot) [] with
    | (s, some f) => (s, some f)
    | (s, none) => match putK s l a slot k i with
      | (s, some f) => (s, some f)
      | (s, none) =>
        let s := putV s l a slot v i
        (storeBytes s (a + 2 * slot) (leBytes 2 (kvEpoch d + 256 + 512 * bnat (kvSpec d))), none)

/-- What the fold of page `j` reads of it: of the K tensor the header, and the rows below VALID (R326). -/
def foldReads (s : State) (c : Nat) (l : PList) (j : Nat) : Ranges :=
  let a := blockAddr s c l j + 144
  let n := min 64 (l.valid - 64 * j)
  [(a - 16, 16), (a, n * l.kblk * 16), (a + 1024 * l.kblk, n * l.kblk),
   (a + 1088 * l.kblk, if l.pcap = 0 then 0 else n * sideBytes l.pcap)]

/-- APPEND (R324-R327). -/
def runAppend (c : Nat) (ups : List Upset) (s : State) (d : Desc) : State × Option Fail :=
  let l := kvList s c d
  let k := kvK s c d
  let v := kvV s c d
  let pages := (foldPages l).flatMap (foldReads s c l)
  let table := if pages.isEmpty then [] else [(coreAddr c 0 l.sumoff, 32)]
  let rds := [(v.addr, bodyBytes 0 v.rows v.kblk)] ++ pages ++ table
  match meetReads s rds ups with
  | (s, some f) => (s, some f)
  | (s, none) =>
    match runAll (meetUpset (appendRanges s c d l)) s (unmet rds ups) with
    | (s, some f) => (s, some f)
    | (s, none) => match foldList c d s with
      | (s, some f) => (s, some f)
      | (s, none) => runAll (appendRow c d l k v) s (List.range (kvRows d))

/-! ### PARK and RESTORE -/

/-- What PARK and RESTORE read before data move: R323, and the SNADDR range (R66). -/
def moveStructs (c : Nat) (s : State) (d : Desc) : Option Fail :=
  let l := kvList s c d
  match checkList s c (hi32 d.w1) none (List.range (kvNpage d)) with
  | some x => some x
  | none => failAt (snowAddr (kvSnaddr d)) <| firstFail [(decide (kvSnaddr d + kvNpage d * l.pgsize ≤ 32 * zoneSize), .length)]

/-- A Flume transfer that fails (R229). -/
def snowFail (a : Nat) (code : Code) : Fail := { code := code, addr := some (snowAddr a) }

/-- One page of a PARK or RESTORE crosses Race as a Flume transfer of the core, and its answer comes back (R66, R179, R403): an access that a
router discards fails it with that code, an answer that is discarded with TIMEOUT (R79, R193). -/
def crossPage (s : State) (c a n : Nat) (write : Bool) (move : State → State × Option Fail) : State × Option Fail :=
  match flumeOut s c a n write with
  | (s, some x) => (s, some (snowFail a x))
  | (s, none) =>
    let (s, e) := move s
    let (s, gone) := flumeBack s c a n write (!write && e.isNone)
    (s, if gone then some (snowFail a .timeout) else e)

/-- PARK moves its pages to Snowpack (R66). A page is read whole before it is written. -/
def runPark (c : Nat) (ups : List Upset) (s : State) (d : Desc) : State × Option Fail :=
  let l := kvList s c d
  runAll (fun s j =>
    let a := kvSnaddr d + j * l.pgsize
    let src := coreAddr c 0 (entAddrOf (listEntry s l j))
    match meetReads s [(src, l.pgsize)] ups with
    | (s, some f) => (s, some f)
    | (s, none) => crossPage s c a l.pgsize true fun s => match snowRoute s c a l.pgsize true with
      | .refuse x => (countRefused s a l.pgsize, some (snowFail a x))
      | .aperture k q =>
        if (linkOf s k).lost then (s, some (snowFail a .lost)) else (sendMessage s k q (readBytes s src l.pgsize), none)
      | .stacks => (snowWrite s a src l.pgsize, none)) s (List.range (kvNpage d))

/-- RESTORE moves them back (R66). -/
def runRestore (c : Nat) (ups : List Upset) (s : State) (d : Desc) : State × Option Fail :=
  let l := kvList s c d
  runAll (fun s j =>
    let a := kvSnaddr d + j * l.pgsize
    let dst := coreAddr c 0 (entAddrOf (listEntry s l j))
    crossPage s c a l.pgsize false fun s => match snowRoute s c a l.pgsize false with
      | .refuse x => (countRefused s a l.pgsize, some (snowFail a x))
      | .aperture _ _ => (s, some (snowFail a .window))
      | .stacks => match snowRead s a l.pgsize ups with
        | (s, some f) => (s, some f)
        | (s, none) => (storeBytes s dst (readBytes s (snowAddr a) l.pgsize), none)) s (List.range (kvNpage d))

/-- Does the PARK at the head of the KSE's queue wait for credits of the queue whose aperture it writes (R391)? -/
def parkHeld (s : State) (c : Nat) : Bool :=
  match (engOf (coreOf s c) .kse).queue with
  | [] => false
  | d :: _ =>
    let l := kvList s c d
    let n := (List.range (kvNpage d)).countP fun j => match snowRoute s c (kvSnaddr d + j * l.pgsize) l.pgsize true with
      | .aperture _ _ => true
      | _ => false
    match snowRoute s c (kvSnaddr d) l.pgsize true with
    | .aperture k q => !(linkOf s k).lost && decide ((queueOf s k q).credit < (queueOf s k q).sendq.countP (!·.begun) + n)
    | _ => false

/-- APPEND starts (R324). -/
def execAppend (c : CoreId) (ups : List Upset) (s : State) : Outcome :=
  .next (startDesc s c .kse (fun n => n == 0 || decide (3 ≤ n)) (ksePlan · c ·) (appendStructs c) (runAppend c ups) ups)
/-- KSE PARK starts (R66). -/
def execKsePark (c : CoreId) (ups : List Upset) (s : State) : Outcome :=
  .next (if parkHeld s c then s else startDesc s c .kse (· == 1) (ksePlan · c ·) (moveStructs c) (runPark c ups) ups)
/-- KSE RESTORE starts (R66). -/
def execKseRestore (c : CoreId) (ups : List Upset) (s : State) : Outcome :=
  .next (startDesc s c .kse (· == 2) (ksePlan · c ·) (moveStructs c) (runRestore c ups) ups)

end Sys2Proof.Machine
end

