-- ==== Sys2Proof/Machine/Router.lean ====
section
/-!
DEFINITION. The router unit (02 R67; 03 R113): GATE and DISPATCH.
-/
namespace Sys2Proof.Machine

/-- ROWS. -/
def rtuRows (d : Desc) : Nat := bits d.w0 32 9
/-- NEXP. -/
def rtuNexp (d : Desc) : Nat := bits d.w0 41 10
/-- TOPK. -/
def rtuTopk (d : Desc) : Nat := bits d.w0 51 5
/-- NORM. -/
def rtuNorm (d : Desc) : Bool := bit d.w0 56

/-- The rank of a logit; where a NaN stands is left open (log entry 47). -/
def logitKey (x : Nat) : Int :=
  match decode32 x with
  | .nan => (Config.openValue 1 [x] : Nat)
  | _ => order32 x

/-- Indices of logits in descending order, the lower index first among equals. -/
def byLogit (xs : List Nat) : List Nat :=
  sortBy (fun i j => decide (logitKey (xs.getD j 0) < logitKey (xs.getD i 0))) (List.range xs.length)

/-- The highest expert index that the selections at `a` name, plus one. -/
def expertTop (s : State) (a n : Nat) : Nat := (List.range n).foldl (fun m i => max m (readNum s (a + 4 * i) 2 + 1)) 0

/-- The plan of an RTU descriptor (R67). No field gives the entries of the expert map: it is taken up to the highest expert that A names
(DEDUCED, log entry 86). Bits that its table leaves out are reserved (DESIGN CHOICE, log entry 103). -/
def rtuPlan (s : State) (c : Nat) (d : Desc) : Plan :=
  let gate := descOp d == 0
  let n := rtuRows d * rtuTopk d
  { encoding := decide (descOp d ≤ 1) && decide (d.w3 = 0) && decide (hi32 d.w2 = 0) && decide (1 ≤ rtuTopk d)
      && decide (rtuTopk d ≤ 16) && [lo32 d.w1, hi32 d.w1, lo32 d.w2].all orfOk
      && (if gate then decide (bits d.w0 57 7 = 0) && decide (hi32 d.w1 = 0) && decide (rtuTopk d ≤ rtuNexp d)
          else decide (bits d.w0 41 10 = 0) && decide (bits d.w0 56 8 = 0))
    counts := (rtuRows d, 511, 256) :: (if gate then [(rtuNexp d, 1023, 512)] else [])
    operands :=
      if gate then
        [plainOp (lo32 d.w1) [1, 2, 4] (some 7) true false (4 * rtuRows d * rtuNexp d),
         plainOp (lo32 d.w2) [1] none false true (4 * n)]
      else
        [plainOp (lo32 d.w1) [1, 2, 4] (some 7) true false (4 * n),
         plainOp (hi32 d.w1) [1] none true false (4 * expertTop s (placeOf s c (lo32 d.w1)).addr n),
         plainOp (lo32 d.w2) [1] none false true (16 + 32 * n)]
    tokens := 0 }

/-- The weight of a term among terms (R113): their exact quotient rounded once to BF16; the NaN of R99 where a logit is a NaN or the maximum
an infinity (DEDUCED, log entry 104). -/
def gateWeight (terms : List Nat) (t : Nat) : Nat :=
  let xs := terms.map decode32
  let sum : Fl := if xs.any (fun x => decide (x = .nan)) then .nan
    else if xs.any (fun x => decide (x = .inf false)) then .inf false
    else .fin false (terms.map tsMag).sum
  roundEx 8 (divEx (decode32 t) sum)

/-- GATE on one row of logits: expert and weight, best first. -/
def gateRow (logits : List Nat) (topk : Nat) (all : Bool) : List (Nat × Nat) :=
  let picked := (byLogit logits).take topk
  let top := logits.getD (picked.getD 0 0) 0
  let term := fun (i : Nat) => exp32 (diff32 (logits.getD i 0) top)
  let terms := (if all then List.range logits.length else picked).map term
  picked.map fun i => (i, gateWeight terms (term i))

/-- GATE (R67, R113). -/
def runGate (c : Nat) (s : State) (d : Desc) : State × Option Fail :=
  let n := rtuNexp d
  let pa := (placeOf s c (lo32 d.w1)).addr
  let pd := (placeOf s c (lo32 d.w2)).addr
  runAll (fun s i =>
    let row := (List.range n).map fun j => plainAt s true pa (i * n + j)
    let out := gateRow row (rtuTopk d) (rtuNorm d)
    (storeBytes s (pd + 4 * i * rtuTopk d) (out.flatMap fun p => leBytes 2 p.1 ++ leBytes 2 p.2), none))
    s (List.range (rtuRows d))

/-- One record of the send list for selection `i` of expert `e`. The map gives the core and the window; the manual gives the
other fields no source, so they are free (log entry 48). -/
def dispatchRecord (i e core win : Nat) : List Byte :=
  let v := fun (f w : Nat) => Config.openValue (16 + f) [i, e, core, win] % 2 ^ w
  leBytes 8 (v 0 34 + at_ 34 core + at_ 52 (if win < 16 then win else v 1 4) + at_ 56 (v 2 8))
    ++ leBytes 8 (v 3 32 + at_ 32 (v 4 24) + at_ 56 (v 5 1) + at_ 58 (v 6 1)) ++ leBytes 8 0 ++ leBytes 8 0

/-- DISPATCH (R67, R220): one record for each selection, in order. -/
def runDispatch (c : Nat) (s : State) (d : Desc) : State × Option Fail :=
  let n := rtuRows d * rtuTopk d
  let pa := (placeOf s c (lo32 d.w1)).addr
  let pb := (placeOf s c (hi32 d.w1)).addr
  let pd := (placeOf s c (lo32 d.w2)).addr
  let recs := (List.range n).flatMap fun i =>
    let e := readNum s (pa + 4 * i) 2
    dispatchRecord i e (readNum s (pb + 4 * e) 2) (readNum s (pb + 4 * e + 2) 1)
  (storeBytes s pd (leBytes 16 n ++ recs), none)

/-- GATE starts (R67). -/
def execGate (c : CoreId) (ups : List Upset) (s : State) : Outcome :=
  .next (startDesc s c .rtu (fun n => n == 0 || decide (2 ≤ n)) (rtuPlan · c ·) noStructs (runGate c) ups)
/-- DISPATCH starts (R67). -/
def execDispatch (c : CoreId) (ups : List Upset) (s : State) : Outcome :=
  .next (startDesc s c .rtu (· == 1) (rtuPlan · c ·) noStructs (runDispatch c) ups)

end Sys2Proof.Machine
end

