-- ==== Sys2Proof/Machine/Sampler.lean ====
section
/-!
DEFINITION. The sampler (02 R68; 03 R114; 09 R341, R342, R346-R348): LOCAL, MERGE and VERIFY; and the completion of a
descriptor of any engine (02 R47).
-/
namespace Sys2Proof.Machine

/-- ROWS. -/
def smpRows (d : Desc) : Nat := bits d.w0 32 9
/-- COLS of LOCAL. -/
def smpCols (d : Desc) : Nat := bits d.w0 41 17
/-- NREC of MERGE and VERIFY. -/
def smpNrec (d : Desc) : Nat := bits d.w0 41 6
/-- TEMP. -/
def smpTemp (d : Desc) : Nat := bits d.w3 0 16
/-- TOPK. -/
def smpTopk (d : Desc) : Nat := bits d.w3 16 9
/-- TOPP. -/
def smpTopp (d : Desc) : Nat := bits d.w3 32 16

/-- The magnitude of TEMP in units of 2^-149; none where R68 rejects it. -/
def tempMag (t : Nat) : Option Nat :=
  match decode16 t with
  | .fin n m => if n ∧ m ≠ 0 then none else some m
  | _ => none

/-- Is every row greedy (R68, R347)? -/
def smpGreedy (d : Desc) : Bool := bit d.w3 48 || tempMag (smpTemp d) == some 0

/-- Bytes of a candidate record (R346). -/
def candBytes : Nat := 2064

/-- Bytes of the verify block of `n` nodes (R341). -/
def verifyBytes (n : Nat) : Nat := roundUp (16 + 4 * (n - 1) + (n - 1)) 16

/-- The plan of an SMP descriptor (R68, R341). Bits that its table leaves out are reserved (DESIGN CHOICE, log entry 103). -/
def smpPlan (d : Desc) : Plan :=
  let op := descOp d
  let r := smpRows d
  let a := fun (n : Nat) => plainOp (lo32 d.w1) [1, 4] (some 8) true false n
  let b := fun (n : Nat) => plainOp (hi32 d.w1) [1] none true false n
  let out := fun (n : Nat) => plainOp (lo32 d.w2) [1] none false true n
  { encoding := decide (op ≤ 2) && decide (bits d.w3 25 7 = 0) && decide (bits d.w3 49 15 = 0) && (tempMag (smpTemp d)).isSome
      && decide (smpTopk d ≤ 256) && [lo32 d.w1, hi32 d.w1, lo32 d.w2].all orfOk
      && (if op = 0 then decide (bits d.w0 59 5 = 0) && decide (hi32 d.w1 = 0)
          else decide (bits d.w0 47 17 = 0) && decide (hi32 d.w2 = 0))
    counts := (r, 511, if op = 2 then 65 else 256) :: (if op = 0 then [(smpCols d, 2 ^ 17 - 1, 65536)] else [(smpNrec d, 63, 63)])
    operands :=
      if op = 0 then [a (r * smpCols d * plainBytes (bit d.w0 58)), out (r * candBytes)]
      else if op = 1 then [a (r * smpNrec d * candBytes), b (128 + 64 * r), out (4 * r)]
      else [a (r * smpNrec d * candBytes), b (verifyBytes r), out 72]
    tokens := 0 }

/-- The weight of a logit (R114): its argument rounded to FP32, then its exponential, within 2 units in the last place on the
fast path. Where no number results the manual states no value (log entry 47). -/
def weightOf (exact : Bool) (temp logit top : Nat) : Nat :=
  match diff32 logit top with
  | .fin n m =>
    if temp = 0 then Config.openValue 2 [logit, top]
    else
      let e := exp32 (decode32 (encodeFl 24 n m temp false))
      if exact then e else moveUlp 24 e ((Config.fastUlp 11 [temp, logit, top]).val - 2)
  | .inf true => 0
  | _ => Config.openValue 2 [temp, logit, top]

/-- The magnitude of a weight. -/
def weightMag (w : Nat) : Nat := match decode32 w with | .fin _ m => m | _ => Config.openValue 3 [w]

/-! ### LOCAL -/

/-- The candidate record of one row (R68, R114, R346). -/
def localRecord (exact : Bool) (temp vbase : Nat) (logits : List Nat) : List Byte :=
  let order := (byLogit logits).take 256
  let top := logits.getD (order.getD 0 0) 0
  let sum := (logits.map fun l => weightMag (weightOf exact temp l top)).sum
  let pairs := order.flatMap fun i => leBytes 4 (vbase + i) ++ leBytes 4 (logits.getD i 0)
  leBytes 4 top ++ leBytes 4 (encodeFl 24 false sum (2 ^ 149) false) ++ leBytes 2 order.length ++ leBytes 6 0 ++ pairs
    ++ List.replicate (2048 - 8 * order.length) 0

/-- LOCAL (R68). -/
def runLocal (c : Nat) (s : State) (d : Desc) : State × Option Fail :=
  let n := smpCols d
  let w := bit d.w0 58
  let pa := (placeOf s c (lo32 d.w1)).addr
  let pd := (placeOf s c (lo32 d.w2)).addr
  runAll (fun s i =>
    let row := (List.range n).map fun j => roundEx 24 (decodePlain w (plainAt s w pa (i * n + j))).ex
    (storeBytes s (pd + i * candBytes)
      (localRecord (xactCore s c) ((tempMag (smpTemp d)).getD 0) (hi32 d.w2) row), none)) s (List.range (smpRows d))

/-! ### Merging and drawing -/

/-- The pairs of one record; FORMAT for a COUNT of 0 or above 256 (R351). -/
def candPairs (s : State) (a : Nat) : Except Fail (List (Nat × Nat)) :=
  let n := readNum s (a + 8) 2
  if n = 0 ∨ 256 < n then .error (.of .format)
  else .ok ((List.range n).map fun i => (readNum s (a + 16 + 8 * i) 4, readNum s (a + 20 + 8 * i) 4))

/-- Does pair `x` stand before pair `y`: higher logit, then lower index (R346)? -/
def pairBefore (x y : Nat × Nat) : Bool :=
  decide (logitKey y.2 < logitKey x.2) || (decide (logitKey x.2 = logitKey y.2) && decide (x.1 < y.1))

/-- The largest MAX and the 256 best pairs of `n` records from `a` on (R346). -/
def mergeRecords (s : State) (a n : Nat) : Except Fail (Nat × List (Nat × Nat)) := do
  let ps ← (List.range n).mapM fun i => candPairs s (a + i * candBytes)
  let tops := (List.range n).map fun i => readNum s (a + i * candBytes) 4
  let top := tops.foldl (fun m x => if logitKey m < logitKey x then x else m) (tops.getD 0 0)
  .ok (top, (sortBy pairBefore ps.flatten).take 256)

/-- The kept candidates in order with their weights (R347): index and magnitude of the weight. -/
def keptOf (exact : Bool) (temp topk topp top : Nat) (pairs : List (Nat × Nat)) : List (Nat × Nat) :=
  let ps := if topk = 0 then pairs else pairs.take topk
  let ws := ps.map fun p => (p.1, weightMag (weightOf exact temp p.2 top))
  if topp = 0 then ws
  else
    let total := (ws.map (·.2)).sum
    let n := ((List.range ws.length).find? fun k =>
      decide (topp * total ≤ 65536 * ((ws.take (k + 1)).map (·.2)).sum)).getD (ws.length - 1)
    ws.take (n + 1)

/-- mix of R348. -/
def mix64 (z : BitVec 64) : BitVec 64 :=
  let z := (z ^^^ (z >>> 30)) * 0xBF58476D1CE4E5B9
  let z := (z ^^^ (z >>> 27)) * 0x94D049BB133111EB
  z ^^^ (z >>> 31)

/-- The uniform of R348 in units of 2^-53. -/
def uniform53 (seed x j : Nat) : Nat :=
  let z := mix64 (BitVec.ofNat 64 seed ^^^ mix64 (BitVec.ofNat 64 x))
  (mix64 (z + BitVec.ofNat 64 (j + 1) * 0x9E3779B97F4A7C15)).toNat / 2 ^ 11

/-- A draw (R347): the first kept index whose exact prefix sum exceeds u W. -/
def drawToken (kept : List (Nat × Nat)) (u : Nat) : Nat :=
  let w := (kept.map (·.2)).sum
  match (List.range kept.length).find? fun k => decide (u * w < 2 ^ 53 * ((kept.take (k + 1)).map (·.2)).sum) with
  | some k => (kept.getD k (0, 0)).1
  | none => Config.openValue 4 (u :: kept.map (·.1)) % 2 ^ 32

/-- MERGE (R68, R346-R348): row i takes its seed and position from record i of the length table at B. -/
def runMerge (c : Nat) (s : State) (d : Desc) : State × Option Fail :=
  let pa := (placeOf s c (lo32 d.w1)).addr
  let pb := (placeOf s c (hi32 d.w1)).addr
  let pd := (placeOf s c (lo32 d.w2)).addr
  let n := smpNrec d
  runAll (fun s i => orFail s (mergeRecords s (pa + i * n * candBytes) n) fun (top, pairs) =>
    let r := pb + 128 + 64 * i
    let tok := if smpGreedy d then (pairs.getD 0 (0, 0)).1
      else drawToken (keptOf (xactCore s c) ((tempMag (smpTemp d)).getD 0) (smpTopk d) (smpTopp d) top pairs)
        (uniform53 (readNum s (r + 32) 8) (readNum s (r + 4) 4 + readNum s (r + 8) 4 - 1) 0)
    (storeBytes s (pd + 4 * i) (leBytes 4 tok), none)) s (List.range (smpRows d))

/-! ### VERIFY -/

/-- The draft tree of a verify block: tokens and parents of nodes 1 onward, by place (R341). -/
structure Tree where
  tokens : List Nat
  parents : List Nat
deriving DecidableEq, Repr

/-- Parent of node `k`. -/
def Tree.parent (t : Tree) (k : Nat) : Nat := t.parents.getD (k - 1) 0
/-- Token of node `k`. -/
def Tree.token (t : Tree) (k : Nat) : Nat := t.tokens.getD (k - 1) 0
/-- Depth of node `k`, at most `n`. -/
def Tree.depth (t : Tree) : Nat → Nat → Nat
  | 0, _ => 0
  | n + 1, k => if k = 0 then 0 else 1 + Tree.depth t n (t.parent k)
/-- Children of node `k` in ascending order. -/
def Tree.children (t : Tree) (k : Nat) : List Nat :=
  ((List.range t.tokens.length).map (· + 1)).filter fun c => t.parent c == k

/-- The tree at the verify block `a` with `n` nodes. -/
def treeAt (s : State) (a n : Nat) : Tree :=
  { tokens := (List.range (n - 1)).map fun i => readNum s (a + 16 + 4 * i) 4
    parents := (List.range (n - 1)).map fun i => readNum s (a + 16 + 4 * (n - 1) + i) 1 }

/-- A well-formed tree: parents below their nodes, no depth above 16 (R338, R341). -/
def Tree.ok (t : Tree) : Bool :=
  (List.range t.tokens.length).all fun i => decide (t.parent (i + 1) < i + 1) && decide (t.depth 65 (i + 1) ≤ 16)

/-- What VERIFY reads before its output (R341). -/
def verifyStructs (c : Nat) (s : State) (d : Desc) : Option Fail :=
  if descOp d ≠ 2 then none
  else
    let a := (placeOf s c (hi32 d.w1)).addr
    let n := readNum s (a + 12) 1
    failAt a <| firstFail [(decide (n = smpRows d) && (treeAt s a n).ok, .format)]

/-- The children of a node tried in order (R342): the accepted one, and else the residual weights and the next draw. -/
def tryChildren (t : Tree) (greedy : Bool) (best seed x : Nat) : List Nat → List (Nat × Nat) → Nat →
    Option Nat × List (Nat × Nat) × Nat
  | [], w, j => (none, w, j)
  | k :: ks, w, j =>
    let tok := t.token k
    if greedy then (if tok = best then (some k, w, j) else tryChildren t greedy best seed x ks w j)
    else
      let wt := ((w.filter fun p => p.1 == tok).map (·.2)).foldl max 0
      if uniform53 seed x j * (w.map (·.2)).sum < 2 ^ 53 * wt then (some k, w, j + 1)
      else tryChildren t greedy best seed x ks (w.map fun p => if p.1 = tok then (p.1, 0) else p) (j + 1)

/-- The walk of R342 from node `k`, at most `n` nodes: the tokens. -/
def verifyWalk (s : State) (c : Nat) (d : Desc) (t : Tree) (seed pos : Nat) : Nat → Nat → Except Fail (List Nat)
  | 0, _ => .ok []
  | n + 1, k => do
    let (top, pairs) ← mergeRecords s ((placeOf s c (lo32 d.w1)).addr + k * smpNrec d * candBytes) (smpNrec d)
    let greedy := smpGreedy d
    let best := (pairs.getD 0 (0, 0)).1
    let x := pos + t.depth 65 k
    let kept := if greedy then []
      else keptOf (xactCore s c) ((tempMag (smpTemp d)).getD 0) (smpTopk d) (smpTopp d) top pairs
    match tryChildren t greedy best seed x (t.children k) kept 0 with
    | (some ch, _, _) =>
      let rest ← verifyWalk s c d t seed pos n ch
      .ok (t.token ch :: rest)
    | (none, w, j) => .ok [if greedy then best else drawToken w (uniform53 seed x j)]

/-- VERIFY (R341, R342). -/
def runVerify (c : Nat) (s : State) (d : Desc) : State × Option Fail :=
  let a := (placeOf s c (hi32 d.w1)).addr
  let t := treeAt s a (readNum s (a + 12) 1)
  orFail s (verifyWalk s c d t (readNum s a 8) (readNum s (a + 8) 4) 17 0) fun toks =>
    (storeBytes s (placeOf s c (lo32 d.w2)).addr
      (leBytes 4 toks.length ++ (toks.flatMap (leBytes 4)) ++ List.replicate (4 * (17 - toks.length)) 0), none)

/-- LOCAL starts (R68). -/
def execLocalReduce (c : CoreId) (ups : List Upset) (s : State) : Outcome :=
  .next (startDesc s c .smp (fun n => n == 0 || decide (3 ≤ n)) (fun _ d => smpPlan d) noStructs (runLocal c) ups)
/-- MERGE starts (R68). -/
def execMerge (c : CoreId) (ups : List Upset) (s : State) : Outcome :=
  .next (startDesc s c .smp (· == 1) (fun _ d => smpPlan d) noStructs (runMerge c) ups)
/-- VERIFY starts (R342). -/
def execVerify (c : CoreId) (ups : List Upset) (s : State) : Outcome :=
  .next (startDesc s c .smp (· == 2) (fun _ d => smpPlan d) (verifyStructs c) (runVerify c) ups)

end Sys2Proof.Machine
end

