-- ==== Sys2Proof/Machine/Program.lean ====
section
/-!
DEFINITION. Bundles (06 R198-R205, R207-R213): the instruction that each slot of a bundle holds, why a bundle cannot issue (R203, R217,
R243), and the turn of one slot's command.
-/
namespace Sys2Proof.Machine

/-! ### The instructions of a bundle -/

/-- A field of a slot as a bounded number. -/
def slotFin (n : Nat) [NeZero n] (w lo len : Nat) : Fin n := Fin.ofNat n (fld w lo len)

/-- SRC of RDSR. -/
def srcOf (n : Nat) : Option SrSrc :=
  if n < 16 then some (.counter (Fin.ofNat 16 n))
  else [SrSrc.cycles, .time, .coreId, .stepNo, .tokensHeld, .tokensFree][n - 16]?

/-- The control slot (R207). -/
def decodeSlot0 (c : CoreId) (w : Nat) : Option Instr :=
  let r6 := slotFin 32 w 6 5
  let r9 := slotFin 32 w 9 5
  let r11 := slotFin 32 w 11 5
  let target := BitVec.ofNat 12 (fld w 16 12)
  match fld w 0 6 with
  | 0x00 => some (.nop c 0)
  | 0x01 => ([Cond.always, .eqz, .nez, .ltz, .gez][fld w 6 3]?).map fun x => .br c x r9 target
  | 0x02 => some (.loop c r9 target)
  | 0x03 => some (.call c target)
  | 0x04 => some (.ret c)
  | 0x05 => some (.fence c (BitVec.ofNat 9 (fld w 6 9)))
  | 0x06 => some (.stepEnd c)
  | 0x07 => some (.halt c)
  | 0x08 => some (.li c r6 (BitVec.ofNat 21 (fld w 11 21)))
  | 0x09 => some (.lih c r6 (slotFin 4 w 11 2) (BitVec.ofNat 16 (fld w 16 16)))
  | 0x0A => ([AluFn.add, .sub, .and, .or, .xor, .shl, .shr, .sra, .mul, .min, .max, .slt, .sltu][fld w 21 4]?).map fun f =>
      .alu c r6 r11 (slotFin 32 w 16 5) f
  | 0x0B => some (.addi c r6 r11 (BitVec.ofNat 16 (fld w 16 16)))
  | 0x0C => some (.bfi c r6 r11 (slotFin 64 w 16 6) (slotFin 64 w 22 6))
  | 0x0D => some (.ld c r6 (slotFin 64 w 11 6) (slotFin 32 w 17 5) [])
  | 0x0E => some (.st c r6 (slotFin 64 w 11 6) (slotFin 32 w 17 5) [])
  | 0x0F => (srcOf (fld w 11 5)).map fun x => .rdsr c r6 x
  | _ => none

/-- Slots 1 and 2 (R210). -/
def decodeSlot1 (c : CoreId) (k : Fin 4) (w : Nat) : Option Instr :=
  let sg := slotFin 8 w 6 3
  match fld w 0 6 with
  | 0x00 => some (.nop c k)
  | 0x11 => some (.issueMe c sg)
  | 0x12 => some (.issueSpu c sg)
  | 0x13 => some (.issueAsu c sg)
  | 0x14 => some (.issueNau c sg)
  | 0x15 => some (.issueQtz c sg)
  | 0x16 => some (.issueKse c sg)
  | 0x17 => some (.issueRtu c sg)
  | 0x18 => some (.issueSmp c sg)
  | 0x20 => some (.setH c (slotFin 64 w 6 6) (slotFin 16 w 12 4))
  | 0x21 => some (.openW c (slotFin 16 w 6 4) (slotFin 16 w 10 4))
  | 0x22 => some (.closeW c (slotFin 16 w 6 4))
  | _ => none

/-- Slot 3 (R212). -/
def decodeSlot3 (c : CoreId) (w : Nat) : Option Instr :=
  let flag := fun (i : Nat) => w.testBit i
  match fld w 0 6 with
  | 0x0 => some (.nop c 3)
  | 0x1 => some (.waitEv c (BitVec.ofNat 16 (fld w 6 16)) (flag 22) (flag 23))
  | 0x2 => some (.waitCnt c (slotFin 16 w 6 4) (flag 10) (BitVec.ofNat 16 (fld w 11 16)) (flag 27))
  | 0x3 => some (.send c (slotFin 8 w 6 3) (flag 9) [])
  | 0x4 => some (.recv c (slotFin 16 w 6 4) (slotFin 16 w 10 4) (flag 14) (BitVec.ofNat 16 (fld w 15 16)) (flag 31))
  | 0x5 => some (.flmRd c (slotFin 8 w 6 3) (slotFin 16 w 9 4) (slotFin 8 w 13 3))
  | 0x6 => some (.flmWr c (slotFin 8 w 6 3) (slotFin 16 w 9 4) (slotFin 8 w 13 3))
  | 0x7 => some (.flmWait c (slotFin 8 w 6 3) (slotFin 16 w 9 4))
  | 0x8 => some (.tokenAcq c (flag 6) (BitVec.ofNat 10 (fld w 7 10)))
  | 0x9 => some (.tokenRel c (flag 6) (BitVec.ofNat 10 (fld w 7 10)))
  | _ => none

/-- The instruction that word `w` in slot `k` spells on core `c` (R202); none for an encoding that no loaded program holds (R233). -/
def decodeSlot (c : CoreId) (k : Fin 4) (w : Nat) : Option Instr :=
  if k = 0 then decodeSlot0 c w else if k = 3 then decodeSlot3 c w else decodeSlot1 c k w

/-- The 32-bit word of slot `k` of the bundle at the PC of core `c` (R198, R202). -/
def slotWord (s : State) (c : Nat) (k : Nat) : Nat :=
  leNat ((List.range 4).map fun i => Memory.byte s.prog (progAddr c + 16 * (coreOf s c).scc.pc + 4 * k + i))

/-- The instruction in slot `k` of the bundle at the PC of core `c`. -/
def slotInstr (s : State) (c : CoreId) (k : Fin 4) : Option Instr := decodeSlot c k (slotWord s c k.val)

/-- The instruction of a command, without the upsets that its memory accesses meet. -/
def Instr.bare : Instr → Instr
  | .ld c rd h ra _ => .ld c rd h ra []
  | .st c rs h ra _ => .st c rs h ra []
  | .send c sg list _ => .send c sg list []
  | i => i

/-! ### What an instruction reads and writes (R206, R217) -/

/-- Scalars from s[4 SG] on (R42). -/
def groupRegs (sg : Fin 8) : List Nat := (List.range 4).map (4 * sg.val + ·)
/-- The scalar that a value field names (R212). -/
def regvReg (regv : Bool) (n : Nat) : List Nat := if regv then [n % 32] else []

/-- The scalars that an instruction reads. A BR with COND ALWAYS needs none (DEDUCED, log entry 90). -/
def readsRegs : Instr → List Nat
  | .br _ cond ra _ => if cond = .always then [] else [ra.val]
  | .loop _ ra _ => [ra.val]
  | .lih _ rd _ _ => [rd.val]
  | .alu _ _ ra rb _ => [ra.val, rb.val]
  | .addi _ _ ra _ => [ra.val]
  | .bfi _ rd ra _ _ => [rd.val, ra.val]
  | .ld _ _ _ ra _ => [ra.val]
  | .st _ rs _ ra _ => [rs.val, ra.val]
  | .issueMe _ sg | .issueSpu _ sg | .issueAsu _ sg | .issueNau _ sg | .issueQtz _ sg | .issueKse _ sg | .issueRtu _ sg | .issueSmp _ sg =>
    groupRegs sg
  | .setH _ _ sp | .openW _ _ sp => [2 * sp.val, 2 * sp.val + 1]
  | .waitCnt _ _ regv v _ => regvReg regv v.toNat
  | .recv _ _ _ regv n _ => regvReg regv n.toNat
  | .tokenAcq _ regv n | .tokenRel _ regv n => regvReg regv n.toNat
  | .send _ sg _ _ | .flmRd _ _ _ sg | .flmWr _ _ _ sg => groupRegs sg
  | _ => []

/-- The scalars that an instruction writes. -/
def writesRegs : Instr → List Nat
  | .loop _ ra _ => [ra.val]
  | .li _ rd _ | .lih _ rd _ _ | .alu _ rd _ _ _ | .addi _ rd _ _ | .bfi _ rd _ _ _ | .ld _ rd _ _ _ | .rdsr _ rd _ => [rd.val]
  | _ => []

/-- The engine of an ISSUE (R210). -/
def issueEng : Instr → Option Eng
  | .issueMe _ _ => some .me
  | .issueSpu _ _ => some .spu
  | .issueAsu _ _ => some .asu
  | .issueNau _ _ => some .nau
  | .issueQtz _ _ => some .qtz
  | .issueKse _ _ => some .kse
  | .issueRtu _ _ => some .rtu
  | .issueSmp _ _ => some .smp
  | _ => none

/-! ### Shared by the slots -/

/-- Scalar `i`. -/
def sreg (k : Core) (i : Nat) : Word := Tbl.get 0 k.scc.regs i
/-- Writes scalar `i`. -/
def setReg (k : Core) (i : Nat) (v : Word) : Core := { k with scc := { k.scc with regs := Tbl.set 0 k.scc.regs i v } }

/-- The words of four scalars from s[4 SG] on (R42). -/
def groupWords (k : Core) (sg : Nat) : List Word := (List.range 4).map fun i => sreg k (4 * sg + i)

/-- The value of a count: an immediate, or a scalar, for which the values from the field's all-ones value on fail (R213). -/
def countValue (k : Core) (regv : Bool) (w n : Nat) : Option Nat :=
  let v := if regv then (sreg k (n % 32)).toNat else n
  if regv && decide (2 ^ w - 1 ≤ v) then none else some v

/-- Index of a tag. -/
def tagIx (q tag : Nat) : Nat := 16 * q + tag
/-- The tag of a core. -/
def tagAt (k : Core) (q tag : Nat) : Tag := Tbl.get .idle k.flume (tagIx q tag)

/-- Is an engine idle? -/
def engIdle (k : Core) (n : Nat) : Bool := let e := Tbl.get {} k.engs n; e.queue.isEmpty && e.run.isNone
/-- No window of the core is armed or waits to be. -/
def armsIdle (k : Core) : Bool := k.arms.all fun p => p.2.cur.isNone && p.2.waiting.isEmpty
/-- Is no Flume tag BUSY? -/
def tagsIdle (k : Core) : Bool := k.flume.all fun p => !p.2.isBusy
/-- Is the RIF idle (R69)? -/
def rifIdle (k : Core) : Bool := k.sends.isEmpty && armsIdle k && tagsIdle k
/-- Is unit `u` of R483 idle? -/
def unitIdle (k : Core) (u : Nat) : Bool := if u = 9 then rifIdle k else engIdle k u
/-- Has the core no outstanding work (R231)? -/
def coreIdle (k : Core) : Bool := (List.range 9).all fun i => unitIdle k (i + 1)

/-- Tokens that the float of core `c`'s region has granted, those counted that go with a TOKEN.ACQ whose bundle has issued on another core and
whose turn is still to come (R203, R230). -/
def floatUsed (s : State) (c : Nat) : Nat :=
  (regionOf s (c / 256)).tok.granted + (s.cores.map fun p =>
    if p.1 / 256 ≠ c / 256 || p.1 == c || p.2.scc.done.isEmpty || p.2.scc.done.contains 3 then 0
    else match decodeSlot3 0 (slotWord s p.1 3) with
      | some (.tokenAcq _ regv n) => (countValue p.2 regv 10 n.toNat).getD 0
      | _ => 0).sum

/-- Does the float of the region grant core `c` `v` tokens now (R230)? In the order of the requests, and none while an ILIM hold lasts. -/
def floatGrants (s : State) (c v : Nat) : Bool :=
  let x := regionOf s (c / 256)
  (match x.tok.waiting with | [] => true | w :: _ => w.1 == c) && !x.pwr.ilimHold && decide (floatUsed s c + v ≤ effFloat s (c / 256))

/-- Is window `w` of core `c` the always-open window of R141? -/
def window15 (s : State) (c w : Nat) : Bool := w == 15 && decide ((csmOf s c).1 ≠ 0)

/-- Do accesses that window `w` has accepted still write (R154)? -/
def windowBusy (s : State) (c w : Nat) : Bool := s.race.incoming.any fun i => i.core == c && i.win == w

/-- The checks of R225. -/
def checkFlume (s : State) (c : Nat) (write : Bool) (q tag : Nat) (w0 w1 w2 w3 : Word) : Option Code :=
  let orf := lo32 w1
  let h := handleOf (coreOf s c) (orfHandle orf)
  let p := placeOf s c orf
  let n := bits w1 32 24
  let sl := sliceRange (sliceAt p.off)
  firstFail
    [(decide (tagAt (coreOf s c) q tag = .idle), .state),
     (decide (bits w0 40 24 = 0) && decide (bits w1 56 8 = 0) && decide (bits w2 29 35 = 0) && decide (w3 = 0) && orfOk orf
        && decide (bits w0 0 6 = 0) && (n % 64 == 0 || n == 0xFFFFFF) && decide (bits w2 0 24 ≠ 0)
        && decide (bits w2 0 24 ≠ 0xFFFFFF) && h.valid && [0, 1, 2, 4].contains p.space
        && (p.space ≠ 4 || ((!write || sliceAt p.off == 9) && (decide (n = 0) || n == 0xFFFFFF || decide (p.off + n ≤ sl.2)))),
      .format),
     (decide (n ≠ 0xFFFFFF) && decide (bits w0 0 40 + n ≤ 32 * (24 * 2 ^ 30)) && decide (n ≤ p.left) && decide (orfOffset orf ≤ h.len)
        && (write || p.space ≠ 0 || decide (n = 0) || decide ((coreOf s c).boundary * 65536 ≤ p.off)), .length),
     (if write then h.rd else h.wr, .window)]

/-- The checks of a Flume instruction on the scalars that it names. -/
def flumeCode (s : State) (c : Nat) (write : Bool) (q tag sg : Nat) : Option Code :=
  let w := groupWords (coreOf s c) sg
  checkFlume s c write q tag (w.getD 0 0) (w.getD 1 0) (w.getD 2 0) (w.getD 3 0)

/-! ### Stalls (R203, R217, R242, R243) -/

/-- Why a slot cannot issue: the counter of R242, and the cause and detail of R502. -/
abbrev Stall := Slack × Nat × Nat

/-- Does a Flume instruction wait for its token (R225)? -/
def flumeStall (s : State) (c : Nat) (write : Bool) (q tag sg : Nat) : Option Stall :=
  if (flumeCode s c write q tag sg).isNone && decide (bits ((groupWords (coreOf s c) sg).getD 1 0) 32 24 ≠ 0) && freeTokens s c == 0 then
    some (.token, 8, 0)
  else none

/-- ISSUEs of the bundle at the PC of core `c` to engine `e` that have not taken effect. -/
def issuesTo (s : State) (c : CoreId) (e : Eng) : Nat :=
  [(1 : Fin 4), 2].countP fun k => !(coreOf s c).scc.done.contains k.val && (slotInstr s c k).bind issueEng == some e

/-- What an instruction waits for beside scalars. -/
def waitsFor (s : State) (c : CoreId) (i : Instr) : Option Stall :=
  let k := coreOf s c
  match i with
  | .ld _ _ h _ _ => if mayStart s c k.seq [h.val] [] [] then none else some (.score, 2, h)
  | .st _ _ h _ _ => if mayStart s c k.seq [] [h.val] [] then none else some (.score, 2, h)
  | .fence _ mask => ((List.range 9).find? fun u => bit mask u && !unitIdle k (u + 1)).map fun u => (.fence, 0xD, u + 1)
  | .stepEnd _ => if coreIdle k then none else some (.fin, 0xE, 0)
  | .setH _ h _ => if handleIdle s c h then none else some (.score, 2, h)
  | .closeW _ w => if (windowOf k w).opened && !window15 s c w && windowBusy s c w then some (.score, 7, w) else none
  | .waitEv _ mask any _ =>
    let e := k.scc.evs
    if if any then e &&& mask ≠ 0 else e &&& mask = mask then none
    else some (.event, 0xA, ((List.range 16).find? fun i => bit mask i && !bit e i).getD 0)
  | .waitCnt _ cnt regv v _ => (countValue k regv 16 v.toNat).bind fun v =>
      if v ≤ (Tbl.get 0 k.scc.cnts cnt).toNat then none else some (.count, 0xB, cnt)
  | .send _ _ _ _ => if k.sends.length < 8 then none else some (.sendq, 4, 0)
  | .flmRd _ q tag sg => flumeStall s c false q tag sg
  | .flmWr _ q tag sg => flumeStall s c true q tag sg
  | .flmWait _ q tag => if (tagAt k q tag).isBusy then some (.flume, 0xC, tagIx q tag) else none
  | .tokenAcq _ regv n => (countValue k regv 10 n.toNat).bind fun v =>
      if v = 0 ∨ floatGrants s c v = true then none else some (.token, 8, 0)
  | i => (issueEng i).bind fun e => if (engOf k e).queue.length + issuesTo s c e ≤ 4 then none else some (.queue, 3, e.num)

/-- A scalar that an instruction needs and that is not there yet: one it reads whose result is pending, or one it writes that an LD is still
to bring (R217). -/
def pendingReg (k : Core) (i : Instr) : Option Nat :=
  let p := fun (r : Nat) => Tbl.get (0, false) k.scc.pend r
  ((readsRegs i).find? fun r => decide (k.scc.cycles < (p r).1)).or
    ((writesRegs i).find? fun r => (p r).2 && decide (k.scc.cycles < (p r).1))

/-- Why an instruction cannot issue in this cycle. -/
def slotStall (s : State) (c : CoreId) (i : Instr) : Option Stall :=
  match pendingReg (coreOf s c) i with
  | some r => some (.scalar, 1, r)
  | none => waitsFor s c i

/-- The cause that R243 names first, of two. -/
def firstStall (x y : Option Stall) : Option Stall :=
  match x, y with
  | some a, some b => if b.1.num < a.1.num then some b else some a
  | some a, none => some a
  | none, y => y

/-- Why the bundle at the PC of core `c` cannot issue: the first cause of R243 among those of its slots (R203). -/
def bundleStall (s : State) (c : CoreId) : Option Stall :=
  [(0 : Fin 4), 1, 2, 3].foldl (fun b k => firstStall b ((slotInstr s c k).bind (slotStall s c))) none

/-! ### The turn of a slot -/

/-- Does core `c` issue bundles? -/
def issuing (s : State) (c : Nat) : Bool := decide ((coreOf s c).scc.run = .running) && !held s c

/-- May a slot of core `c` take effect now? A bundle that has begun to issue is finished even when the core halts or is held meanwhile: it
issues whole (R203, R232). -/
def mayIssue (s : State) (c : Nat) : Bool := issuing s c || (!(coreOf s c).scc.done.isEmpty && (coreOf s c).scc.working)

/-- Has slot `k` of the bundle taken effect, or does it hold NOP? -/
def slotOver (s : State) (c : CoreId) (k : Fin 4) : Bool :=
  (coreOf s c).scc.done.contains k.val || decide (slotInstr s c k = some (.nop c k))

/-- Is it the turn of instruction `i` in slot `k`: the bundle holds it, it has not taken effect, slot 1 goes before slot 2 (R204), and slot 0,
whose writes the others do not see, goes last (R203)? -/
def inTurn (s : State) (c : CoreId) (k : Fin 4) (i : Instr) : Bool :=
  decide (slotInstr s c k = some i) && !(coreOf s c).scc.done.contains k.val
    && (k ≠ 2 || slotOver s c 1) && (k ≠ 0 || (slotOver s c 1 && slotOver s c 2 && slotOver s c 3))

/-- The bundle stalls for a core cycle. A TOKEN.ACQ whose bundle waits for nothing before it has asked the float (R230). -/
def stallBundle (s : State) (c : CoreId) (x : Stall) : State :=
  let s := match x.1, slotInstr s c 3 with
    | .token, some (.tokenAcq _ regv n) =>
      let t := (regionOf s (c.val / 256)).tok
      if t.waiting.any fun w => w.1 == c.val then s
      else updRegion s (c.val / 256) fun y => { y with tok := { y.tok with
        waiting := y.tok.waiting ++ [(c.val, (countValue (coreOf s c) regv 10 n.toNat).getD 0)] } }
    | _, _ => s
  stallOn s c x.1 x.2.1 x.2.2

/-- The state in which slot `k` of core `c` has had its turn, and what its instruction does is still to come. -/
def begun (s : State) (c k : Nat) : State :=
  updCore s c fun y => { y with stall := 0, detail := 0, scc := { y.scc with done := k :: y.scc.done } }

/-- The command of instruction `i` in slot `k` of core `c`, which does `f` (R199, R203): nothing while the core issues no bundle or the bundle
at its PC does not hold it in turn (log entries 11 and 13); FORMAT past the end of the program (R208). With the first slot the whole bundle
issues or stalls; what it waits for is not asked again. -/
def turn (s : State) (c : CoreId) (k : Fin 4) (i : Instr) (f : State → State) : Outcome :=
  let x := coreOf s c
  .next (if !mayIssue s c then s
    else if x.len ≤ x.scc.pc then failUnit s c 10 0 (x.len - 1) (.of .format)
    else if !inTurn s c k i then s
    else match if x.scc.done.isEmpty then bundleStall s c else none with
      | some b => stallBundle s c b
      | none => f (begun s c k.val))

/-- A command of slot 1 or 2: the slot that holds it in turn (R204). -/
def turn12 (s : State) (c : CoreId) (i : Instr) (f : State → State) : Outcome :=
  turn s c (if inTurn s c 1 i then 1 else 2) i f

end Sys2Proof.Machine
end

