-- ==== Sys2Proof/Machine/Scc.lean ====
section
/-!
DEFINITION. The control slot of the scalar control core (06 R199-R209, R231, R232): its instructions take
effect last of their bundle, and move the program counter.
-/
namespace Sys2Proof.Machine

/-- The bundle has issued at GLB_TIME `t`: `n` core cycles under REG_SLK_RUN, the stall is over and its timer restarts, and the
next bundle is at `pc` (R241, R242, R501). -/
def issued (t n pc : Nat) (k : Core) : Core :=
  let k := slackUp k .run n
  { k with scc := { k.scc with pc := pc, cycles := k.scc.cycles + n, done := [], since := t }, stall := 0, detail := 0 }

/-- Falls through to the next bundle; beyond the program that fails with FORMAT at this bundle (R208). -/
def fallThrough (s : State) (c : Nat) : State :=
  let k := coreOf s c
  if k.len ≤ k.scc.pc + 1 then failInstr s c 10 (.of .format) else updCore s c (issued s.glb.time 1 (k.scc.pc + 1))

/-- Branches; a destination not below the program length fails with FORMAT (R208). `n`: core cycles taken. -/
def branchTo (s : State) (c n target : Nat) : State :=
  if (coreOf s c).len ≤ target then failInstr s c 10 (.of .format) else updCore s c (issued s.glb.time n target)

/-- The command of control-slot instruction `i` (R207). -/
def control (s : State) (c : CoreId) (i : Instr) (f : State → State) : Outcome := turn s c 0 i f

/-- NOP: in slot 0 the bundle issues; in slots 1-3 nothing happens. -/
def execNop (c : CoreId) (slot : Fin 4) (s : State) : Outcome :=
  if slot = 0 then control s c (.nop c 0) fun s => fallThrough s c else .next s

/-- Does a condition hold (R207)? -/
def condHolds (x : Cond) (v : Word) : Bool :=
  match x with
  | .always => true
  | .eqz => v == 0
  | .nez => v != 0
  | .ltz => v.msb
  | .gez => !v.msb

/-- BR (R207). -/
def execBr (c : CoreId) (cond : Cond) (ra : Fin 32) (target : BitVec 12) (s : State) : Outcome :=
  control s c (.br c cond ra target) fun s => if condHolds cond (sreg (coreOf s c) ra) then branchTo s c 2 target.toNat else fallThrough s c

/-- LOOP (R207). -/
def execLoop (c : CoreId) (ra : Fin 32) (target : BitVec 12) (s : State) : Outcome :=
  control s c (.loop c ra target) fun s =>
    let v := sreg (coreOf s c) ra - 1
    let s := updCore s c fun k => setReg k ra v
    if v = 0 then fallThrough s c else branchTo s c 1 target.toNat

/-- CALL (R208). -/
def execCall (c : CoreId) (target : BitVec 12) (s : State) : Outcome :=
  control s c (.call c target) fun s =>
    let k := coreOf s c
    if 8 ≤ k.scc.stack.length then failInstr s c 10 (.of .format)
    else branchTo (updCore s c fun k => { k with scc := { k.scc with stack := (k.scc.pc + 1) :: k.scc.stack } }) c 2 target.toNat

/-- RET (R208). -/
def execRet (c : CoreId) (s : State) : Outcome :=
  control s c (.ret c) fun s =>
    match (coreOf s c).scc.stack with
    | [] => failInstr s c 10 (.of .format)
    | t :: rest => branchTo (updCore s c fun k => { k with scc := { k.scc with stack := rest } }) c 2 t

/-- FENCE (R207): the units selected are idle, or the bundle stalls. -/
def execFence (c : CoreId) (mask : BitVec 9) (s : State) : Outcome := control s c (.fence c mask) fun s => fallThrough s c

/-- STEP.END (R231): with work outstanding it stalls; else DONE tags become IDLE, tokens return and the core reports. -/
def execStepEnd (c : CoreId) (s : State) : Outcome :=
  control s c (.stepEnd c) fun s =>
    let s := updCore s c fun k => let k := issued s.glb.time 1 k.scc.pc k; { k with flume := [], scc := { k.scc with run := .ended } }
    let s := returnTokens s c
    match ownerOf s c with
    | some m => updMill s m fun k => { k with ended := insertNat c k.ended }
    | none => s

/-- HALT (R232): the step owner enters HALTED, with a record; a step that drains is discarded (R497). -/
def execHalt (c : CoreId) (s : State) : Outcome :=
  control s c (.halt c) fun s =>
    let pc := (coreOf s c).scc.pc
    let s := updCore s c (issued s.glb.time 1 (pc + 1))
    let s := logRec s { coreRec s c with code := .halted, cls := .step, pc := some pc }
    match ownerOf s c with
    | none => updCore s c fun k => { k with scc := { k.scc with run := .halted } }
    | some m => if (millOf s m).dstate = .draining then endDrain s m else enterHalted s m

/-- Scalar `r` is there from core cycle `t` on (R217, R241). -/
def setPend (k : Core) (r t : Nat) (load : Bool) : Core :=
  { k with scc := { k.scc with pend := Tbl.set (0, false) k.scc.pend r (t, load) } }

/-- Writes a scalar and falls through: it is there in the next core cycle, whatever an earlier MUL was to bring (R241). -/
def writeScalar (s : State) (c : Nat) (rd : Fin 32) (v : Word) : State :=
  fallThrough (updCore s c fun k => setPend (setReg k rd v) rd 0 false) c

/-- LI (R207). -/
def execLi (c : CoreId) (rd : Fin 32) (imm : BitVec 21) (s : State) : Outcome :=
  control s c (.li c rd imm) fun s => writeScalar s c rd (imm.signExtend 64)

/-- The bits [lo + n - 1 : lo] of `old` replaced by the low `n` bits of `v`. -/
def insertField (old : Word) (lo n : Nat) (v : Word) : Word :=
  let mask : Word := BitVec.ofNat 64 (2 ^ n - 1) <<< lo
  (old &&& ~~~mask) ||| ((v <<< lo) &&& mask)

/-- LIH (R207). -/
def execLih (c : CoreId) (rd : Fin 32) (sh : Fin 4) (imm : BitVec 16) (s : State) : Outcome :=
  control s c (.lih c rd sh imm) fun s => writeScalar s c rd (insertField (sreg (coreOf s c) rd) (16 * sh.val) 16 (imm.zeroExtend 64))

/-- A function of ALU (R206, R207). -/
def aluOp (fn : AluFn) (a b : Word) : Word :=
  let n := bits b 0 6
  match fn with
  | .add => a + b
  | .sub => a - b
  | .and => a &&& b
  | .or => a ||| b
  | .xor => a ^^^ b
  | .shl => a <<< n
  | .shr => a >>> n
  | .sra => a.sshiftRight n
  | .mul => a * b
  | .min => if a.slt b then a else b
  | .max => if a.slt b then b else a
  | .slt => if a.slt b then 1 else 0
  | .sltu => if a.ult b then 1 else 0

/-- ALU (R207): the result of MUL is there 3 core cycles after the bundle has issued, that of any other function after 1 (R241). -/
def execAlu (c : CoreId) (rd ra rb : Fin 32) (fn : AluFn) (s : State) : Outcome :=
  control s c (.alu c rd ra rb fn) fun s =>
    let v := aluOp fn (sreg (coreOf s c) ra) (sreg (coreOf s c) rb)
    if fn = .mul then fallThrough (updCore s c fun k => setPend (setReg k rd v) rd (k.scc.cycles + 3) false) c
    else writeScalar s c rd v

/-- ADDI (R207). -/
def execAddi (c : CoreId) (rd ra : Fin 32) (imm : BitVec 16) (s : State) : Outcome :=
  control s c (.addi c rd ra imm) fun s => writeScalar s c rd (sreg (coreOf s c) ra + imm.signExtend 64)

/-- BFI (R207): its fields keep LO + WM1 at most 63, or no program holds it (R233). -/
def execBfi (c : CoreId) (rd ra : Fin 32) (lo wm1 : Fin 64) (s : State) : Outcome :=
  if 63 < lo.val + wm1.val then .fault .illFormed
  else control s c (.bfi c rd ra lo wm1) fun s =>
    writeScalar s c rd (insertField (sreg (coreOf s c) rd) lo (wm1 + 1) (sreg (coreOf s c) ra))

/-! ### LD and ST -/

/-- The fabric address of the 8 bytes at byte `off` of handle `h` of core `c`, after the checks of R209 (with `wr` for ST) and
the map of R139 and R140. A record of these checks names the address that the handle gives, in space 0x3 where the handle names it; one
of an ECC condition the address reached (DESIGN CHOICE, log entry 103). -/
def narrowAddr (s : State) (c h off : Nat) (wr : Bool) : Except Fail Nat :=
  let e := handleOf (coreOf s c) h
  let a := e.base + off
  let fail := fun (x : Code) => (.error { code := x, addr := if e.valid then some (coreAddr c e.space (a % 2 ^ 30)) else none } : Except Fail Nat)
  if off % 8 ≠ 0 then fail .format
  else if !e.valid || e.space == 0 then fail .format
  else if !(if wr then e.wr else e.rd) then fail .window
  else if e.len < off + 8 then fail .length
  else if e.space ≠ 3 then .ok (coreAddr c e.space a)
  else if a < 0x300000 then .ok (coreAddr c 1 a)
  else if a < 0x400000 then .ok (coreAddr c 2 (a - 0x300000))
  else if a < 0x1000000 then .ok (coreAddr c 4 (a - 0x400000))
  else
    let (z, cs) := csmOf s c
    let x := a - 0x1000000
    if z * cs.length ≤ x then fail .length
    else .ok (coreAddr (cs.getD (x / z) 0) 0 (2 ^ 28 - z + x % z))

/-- Core cycles from the issue of an LD to its result: 4 in a native space, 5 through an aliased range of space 0x3, and those of R142 for
chip shared memory (R241). -/
def ldCycles (s : State) (c h a : Nat) : Nat :=
  if (handleOf (coreOf s c) h).space ≠ 3 then 4 else if fld a 30 4 = 0 then csmCycles s c a else 5

/-- Does an LD or ST of core `c` through handle `h` at offset `off` wait at the RIF (R185, R187)? Nothing happens until it may go (log
entry 11). -/
def csmWaits (s : State) (c h off : Nat) (wr : Bool) : Bool :=
  match narrowAddr s c h off wr with
  | .ok a => csmHeld s c a
  | .error _ => false

/-- LD (R209): the 8 bytes of the own core, or of another core's slice of chip shared memory (R141). -/
def execLd (c : CoreId) (rd : Fin 32) (h : Fin 64) (ra : Fin 32) (ups : List Upset) (s : State) : Outcome :=
  if csmWaits s c h (sreg (coreOf s c) ra).toNat false then .next s
  else control s c (.ld c rd h ra []) fun s => match narrowAddr s c h (sreg (coreOf s c) ra).toNat false with
    | .error e => failInstr s c 10 e
    | .ok a =>
      let n := ldCycles s c h a
      let put := fun (s : State) (v : Nat) => fallThrough (updCore s c fun k =>
        setPend (setReg k rd (BitVec.ofNat 64 v)) rd (k.scc.cycles + n) true) c
      if fld a 34 14 = c.val then match meetReads s [(a, 8)] ups with
        | (s, some e) => failInstr s c 10 e
        | (s, none) => put s (readNum s a 8)
      else match csmRead s c a ups with
        | (s, .error x) => failInstr s c 10 { code := x, addr := some a }
        | (s, .ok v) => put s v

/-- ST (R209). -/
def execSt (c : CoreId) (rs : Fin 32) (h : Fin 64) (ra : Fin 32) (ups : List Upset) (s : State) : Outcome :=
  if csmWaits s c h (sreg (coreOf s c) ra).toNat true then .next s
  else control s c (.st c rs h ra []) fun s => match narrowAddr s c h (sreg (coreOf s c) ra).toNat true with
    | .error e => failInstr s c 10 e
    | .ok a =>
      let bs := leBytes 8 (sreg (coreOf s c) rs).toNat
      if fld a 34 14 = c.val then match meetWrites s [(a, 8)] ups with
        | (s, some e) => failInstr s c 10 e
        | (s, none) => fallThrough (storeBytes s a bs) c
      else match csmWrite s c a bs ups with
        | (s, some x) => failInstr s c 10 { code := x, addr := some a }
        | (s, none) => fallThrough s c

/-- What RDSR reads (R207, R230). -/
def srValue (s : State) (c : Nat) (src : SrSrc) : Nat :=
  let k := coreOf s c
  match src with
  | .counter i => (Tbl.get 0 k.scc.cnts i).toNat
  | .cycles => k.scc.cycles
  | .time => s.glb.time
  | .coreId => c
  | .stepNo => match ownerOf s c with | some m => (millOf s m).steps + 1 | none => 1
  | .tokensHeld => effShare s c + k.acquired
  | .tokensFree => freeTokens s c

/-- RDSR (R207). -/
def execRdsr (c : CoreId) (rd : Fin 32) (src : SrSrc) (s : State) : Outcome :=
  control s c (.rdsr c rd src) fun s => writeScalar s c rd (BitVec.ofNat 64 (srValue s c src))

end Sys2Proof.Machine
end

