-- ==== Sys2Proof/Machine/Issue.lean ====
section
/-!
DEFINITION. The engine-issue slots (06 R204, R210, R211): ISSUE to the eight engines, SETH, OPENW and CLOSEW.
-/
namespace Sys2Proof.Machine

/-- The plan of a descriptor of engine `e`. -/
def planOf (s : State) (c : Nat) (e : Eng) (d : Desc) : Plan :=
  match e with
  | .me => mePlan s c d
  | .spu => spuPlan s c d
  | .asu => if descOp d = 1 then selectPlan s c d else scorePlan s c d
  | .nau => nauPlan d
  | .qtz => qtzPlan d
  | .kse => ksePlan s c d
  | .rtu => rtuPlan s c d
  | .smp => smpPlan d

/-- The L tile into which the descriptor adds, where the scoreboard does not order ME and SPU against each other (R59). A DRAIN adds
nothing. -/
def addsInto (e : Eng) (d : Desc) : List Nat :=
  match e with
  | .spu => [orfHandle (lo32 d.w3)]
  | .me => if descOp d ≤ 1 then [orfHandle (lo32 d.w3)] else []
  | _ => []

/-- ISSUE `i` to engine `e` (R41, R42, R211): its descriptor enters the queue, and the scoreboard. -/
def issueTo (e : Eng) (c : CoreId) (sg : Nat) (i : Instr) (s : State) : Outcome :=
  turn12 s c i fun s =>
    let k := coreOf s c
    let w := groupWords k sg
    let d : Desc := { w0 := w.getD 0 0, w1 := w.getD 1 0, w2 := w.getD 2 0, w3 := w.getD 3 0, pc := k.scc.pc, seq := k.seq }
    let p := planOf s c e d
    let noop := p.counts.any fun n => n.1 == 0
    let s := updCore s c fun k => if noop then pushOp k [] [] [] else pushOp k p.reads p.writes (addsInto e d)
    updEng s c e fun x => { x with queue := x.queue ++ [d] }

/-- ISSUE.ME (R210). -/
def execIssueMe (c : CoreId) (sg : Fin 8) (s : State) : Outcome := issueTo .me c sg (.issueMe c sg) s
/-- ISSUE.SPU (R210). -/
def execIssueSpu (c : CoreId) (sg : Fin 8) (s : State) : Outcome := issueTo .spu c sg (.issueSpu c sg) s
/-- ISSUE.ASU (R210). -/
def execIssueAsu (c : CoreId) (sg : Fin 8) (s : State) : Outcome := issueTo .asu c sg (.issueAsu c sg) s
/-- ISSUE.NAU (R210). -/
def execIssueNau (c : CoreId) (sg : Fin 8) (s : State) : Outcome := issueTo .nau c sg (.issueNau c sg) s
/-- ISSUE.QTZ (R210). -/
def execIssueQtz (c : CoreId) (sg : Fin 8) (s : State) : Outcome := issueTo .qtz c sg (.issueQtz c sg) s
/-- ISSUE.KSE (R210). -/
def execIssueKse (c : CoreId) (sg : Fin 8) (s : State) : Outcome := issueTo .kse c sg (.issueKse c sg) s
/-- ISSUE.RTU (R210). -/
def execIssueRtu (c : CoreId) (sg : Fin 8) (s : State) : Outcome := issueTo .rtu c sg (.issueRtu c sg) s
/-- ISSUE.SMP (R210). -/
def execIssueSmp (c : CoreId) (sg : Fin 8) (s : State) : Outcome := issueTo .smp c sg (.issueSmp c sg) s

/-- SETH (R144, R147): no operation that names the handle is left; the entry is checked and installed. -/
def execSetH (c : CoreId) (h : Fin 64) (sp : Fin 16) (s : State) : Outcome :=
  turn12 s c (.setH c h sp) fun s =>
    let k := coreOf s c
    let e : Handle := { w0 := sreg k (2 * sp.val), w1 := sreg k (2 * sp.val + 1) }
    match checkHandle s c h e with
    | some x => failInstr s c 10 (.of x)
    | none => updCore s c fun k => { k with handles := Tbl.set {} k.handles h e }

/-- OPENW (R150). -/
def execOpenW (c : CoreId) (w : Fin 16) (sp : Fin 16) (s : State) : Outcome :=
  turn12 s c (.openW c w sp) fun s =>
    let k := coreOf s c
    let e : Window := { opened := true, w0 := sreg k (2 * sp.val), w1 := sreg k (2 * sp.val + 1) }
    match checkWindow s c w e with
    | some x => failInstr s c 10 (.of x)
    | none => updCore s c fun k => { k with windows := Tbl.set {} k.windows w e }

/-- CLOSEW (R150, R154): every access that the window has accepted has written its last byte, and the window closes. Until then it stays open
and accepts what arrives (DEDUCED, log entry 89). -/
def execCloseW (c : CoreId) (w : Fin 16) (s : State) : Outcome :=
  turn12 s c (.closeW c w) fun s =>
    if !(windowOf (coreOf s c) w).opened || window15 s c w then failInstr s c 10 (.of .state)
    else updCore s c fun k => { k with windows := Tbl.upd {} k.windows w fun x => { x with opened := false } }

end Sys2Proof.Machine
end

