-- ==== Sys2Proof/Machine/Mills.lean ====
section
/-!
DEFINITION. Steps and recovery of step owners (01 R39; 06 R200, R201, R231; 13 R490-R508): doorbells, starts, retirements, the
watchdog, the recovery tiers 1 to 3, and the controls of MIL_FENCE.
-/
namespace Sys2Proof.Machine

/-- BAR0 offset of a register of mill `m` (R34). -/
def milAddr (m off : Nat) : Nat := 0x2000000 + m * 0x2000 + off

/-- A write to mill `m` that is discarded and logged with a code (R39, R499). -/
def milRefused (s : State) (m off : Nat) (code : Code) : State := logHost s code (milAddr m off) (some m)

/-- A write reaches the MIL block of an entry in use; else it has no effect (R37). The blocks lie in D95, which is never gated, so that
they take writes in FAULT too (R466, R580). -/
def onMill (m : Nat) (s : State) (f : State → State) : State := if !hostReach s || (millOf s m).st = .unused then s else f s

/-- MIL_DOORBELL by host software (R39, R200, R201). -/
def execMilDoorbell (m : MillId) (w : Word) (s : State) : Outcome :=
  .next (onMill m s fun s =>
    let entry := bits w 0 12
    if !isUp s || !(millOf s m).cfg.owner || (serveOf s m).isSome || !canStart s m || s.bst.shut ≠ .none then milRefused s m 0x10 .state
    else if !entryOk s m entry then milRefused s m 0x10 .length
    else acceptStep s m entry (BitVec.ofNat 32 (bits w 32 32)))

/-- STEP_START (R201): the start time has come, and every core begins at ENTRY with ARG in s0. -/
def execStepStart (m : MillId) (s : State) : Outcome :=
  .next (
    let k := millOf s m
    match k.startAt with
    | none => s
    | some t =>
      if !k.inStep || k.st = .halted then s
      else
        let s := (coresOf s m).foldl (startCore k.entry k.arg) (advanceTo s t)
        refresh (updMill s m fun k =>
          { k with startAt := none, ended := [], tier := 0, st := if k.dstate = .draining then .fenced else .running }))

/-- The step of owner `m` retires (R231, R490): MIL_STEP rises, the cores are outside a step, with what they now hold as the copy of R148 and
R201, F is cleared. A drain that waits
for it ends, once the Millpond has committed the batch (R301, R497). -/
def retire (s : State) (m : Nat) : State :=
  let s := (coresOf s m).foldl (fun s c => updCore s c fun k =>
    { k with residue := false, arms := [], scc := { k.scc with run := .outside }
             copy := { handles := k.handles, windows := k.windows, regs := Tbl.set 0 k.scc.regs 0 0 } }) s
  let rung := (batchOf s m).rung
  let s := if rung then updBatch s m fun b => { b with retired := true, time := s.glb.time } else s
  let s := updMill s m fun k =>
    { k with steps := k.steps + 1, f := 0, inStep := false, ended := [], reset2 := false, startAt := none
             st := if k.dstate = .draining then .fenced else .idle }
  if (millOf s m).dstate = .draining && !rung then endDrain s m else refresh s

/-- Have all cores of owner `m` sent their STEP.END report, with the step RUNNING or draining? -/
def allEnded (s : State) (m : Nat) : Bool :=
  let k := millOf s m
  k.inStep && k.startAt.isNone && (k.st = .running || k.dstate = .draining) && (coresOf s m).all k.ended.contains

/-- STEP_RETIRE (R231). -/
def execStepRetire (m : MillId) (s : State) : Outcome := .next (if allEnded s m then retire s m else s)

/-- Does the stall timer of core `a` stand above that of core `b`, or as high with the lower core ID (R501)? -/
def stalledBefore (s : State) (a b : Nat) : Bool :=
  decide ((coreOf s a).scc.since < (coreOf s b).scc.since) || (decide ((coreOf s a).scc.since = (coreOf s b).scc.since) && decide (a < b))

/-- The laggards of owner `m` (R486, R501): of its cores whose stall timer runs and does not stand at 0 the first four, in descending
stall time. -/
def laggards (s : State) (m : Nat) : List Nat :=
  (sortBy (stalledBefore s) ((coresOf s m).filter fun k =>
    decide ((coreOf s k).scc.run = .running) && decide ((coreOf s k).scc.since < s.glb.time))).take 4

/-- SYNDROME of a watchdog expiry (R486). -/
def watchdogSyndrome (ls : List Nat) (cause : Nat) : Nat :=
  (ls.zipIdx.foldl (fun n p => n + at_ (14 * p.2) p.1) 0) + at_ 56 ls.length + at_ 60 cause

/-- The open windows that hold a local write of these bytes (R155). -/
def windowsOver (s : State) (c : Nat) (wrs : Ranges) : List Nat :=
  (List.range 16).filter fun w => windowHolds s c wrs w (windowOf (coreOf s c) w)

/-- What the descriptor at the head of the queue of engine `e` waits for, the scoreboard letting it start: an open window (R155), or its
tokens (R78), as R502 names it. -/
def headWaits (s : State) (c : Nat) (e : Eng) : Option (Nat × Nat) :=
  let k := coreOf s c
  match (engOf k e).run, (engOf k e).queue with
  | none, d :: _ =>
    let p := planOf s c e d
    let acc := match k.ops.find? fun o => o.seq == d.seq with | some o => o.acc | none => []
    let wrs := (p.operands.filter (·.wr)).map fun x => operandRange s c x
    if p.counts.any (fun n => n.1 == 0) || !mayStart s c d.seq p.reads p.writes acc then none
    else match windowsOver s c (wrs ++ p.more) with
      | w :: _ => some (7, w)
      | [] => if freeTokens s c < p.tokens then some (9, e.num) else none
  | _, _ => none

/-- Does a stall with this cause and detail wait for an operation of unit `u`, with number `seq`, that sets event `ev` and raises
counter `cnt` (R502)? -/
def stallsOn (k : Core) (why : Nat × Nat) (u seq : Nat) (ev cnt : Option Nat) : Bool :=
  match why.1 with
  | 2 => k.ops.any fun o => o.seq == seq && (o.rd ++ o.wr).contains why.2
  | 4 => u == 9
  | 0xA => ev == some why.2
  | 0xB => cnt == some why.2
  | 0xD => u == why.2
  | 0xE => true
  | _ => false

/-- What lies behind a stall of core `c`: a descriptor that waits at its queue's head, a SEND whose accesses await credits or RESPONSEs, an
armed window that awaits accesses (R502). -/
def stallBehind (s : State) (c : Nat) (why : Nat × Nat) : Option (Nat × Nat) :=
  let k := coreOf s c
  let heads := if [2, 3, 0xA, 0xB, 0xD, 0xE].contains why.1 then
    [Eng.me, .spu, .asu, .nau, .qtz, .kse, .rtu, .smp].findSome? (headWaits s c) else none
  let sent := (k.sends.find? fun x => x.started && stallsOn k why 9 x.seq (if x.evEn then some x.ev else none)
    (if x.cntEn then some x.cnt else none)).bind fun x =>
      (s.race.accesses.find? fun a => a.send == x.id && a.src == .core c).map fun a => (5, a.plane.num)
  let armed := (k.arms.find? fun p => match p.2.cur with
    | some r => stallsOn k why 9 r.seq (if r.evEn then some r.ev else none) none
    | none => false).map fun p => (6, p.1)
  (heads.or sent).or armed

/-- Cause and detail of the stall of core `c` as a watchdog expiry names them (R502): what the bundle at its PC waits for, and where that is
the work of a unit, what holds the unit (DEDUCED, log entry 94). A core held with no stall to name has a cause that the manual leaves open,
never NONE (log entry 47). -/
def stallCause (s : State) (c : Nat) : Nat × Nat :=
  let k := coreOf s c
  let why := match bundleStall s (Fin.ofNat 16384 c) with
    | some x => x.2
    | none => (k.stall, k.detail)
  let why := if why.1 = 0 then (1 + Config.openValue 7 [c, k.scc.since] % 14, Config.openValue 8 [c, k.scc.since] % 2 ^ 14) else why
  (stallBehind s c why).getD why

/-- WATCHDOG_EXPIRY (R501, R504): an issue recognised in the same cycle is taken; else the step fails with TIMEOUT and names
the laggards, with the cause of the first one's stall (R486, R502, R503). -/
def execWatchdogExpiry (c : CoreId) (came : Bool) (s : State) : Outcome :=
  .next (match ownerOf s c with
    | none => s
    | some m =>
      let k := millOf s m
      if k.st ≠ .running || (coreOf s c).scc.run ≠ .running || k.wdog.timeout = 0 then s else
      let s := advanceTo s ((coreOf s c).scc.since + 1000 * k.wdog.timeout.toNat)
      if came then updMill s m fun k => { k with wdog := { k.wdog with late := bumpW 8 k.wdog.late } }
      else
        let ls := laggards s m
        let a := ls.headD c
        let (cause, detail) := stallCause s a
        let s := updMill s m fun k => { k with wdog := { k.wdog with cause := cause, nlag := ls.length, lag0 := a, detail := detail } }
        failOwner s m (some a) { coreRec s a with code := .timeout, pc := some ((coreOf s a).scc.pc % 4096), aform := 3, addr := detail
                                                  syndrome := watchdogSyndrome ls cause } false false)

/-- Steps 3 to 5 of R492: the cores are restored, the length table is written again, and the step starts 32 ns later. A table
that is refused fails the batch, and no step starts (R305). -/
def restartStep (s : State) (m : Nat) : State :=
  let s := (coresOf s m).foldl restoreCore s
  if (batchOf s m).rung then
    match writeTable s m with
    | (s, none) => startAgain s m
    | (s, some code) => refresh (updMill (failBatch (giveUpStep s m) m code) m fun k =>
        { k with st := .idle, tier := 0, startAt := none, inStep := false, ended := [] })
  else startAgain s m

/-- STEP_RESTART (R492): every access of the cores is answered or has failed. -/
def execStepRestart (m : MillId) (s : State) : Outcome :=
  .next (
    let k := millOf s m
    if k.st = .restart && k.tier = 1 && k.startAt.isNone && !k.shiftFence && settled s (coresOf s m) then restartStep s m else s)

/-- A record that a tier began or ended (R484). -/
def tierRec (s : State) (m tier : Nat) (code : Code) : State :=
  logRec s { code := code, cls := .tier, origin := .miller, mill := some m, tier := tier }

/-- What the scrub found in one core of owner `m` (R493 step 2). -/
def scrubCore (s : State) (f : ScrubFinding) : State :=
  let s := updRegion s (f.core.val / 256) fun x => { x with mem := { x.mem with sramCe := bumpBy x.mem.sramCe f.corrected } }
  f.zeroed.foldl (fun s a =>
    let s := updRegion s (f.core.val / 256) fun x => { x with mem := { x.mem with sramUe := bump x.mem.sramUe } }
    zeroBytes s (a / 8 * 8) 8) s

/-- Does the Hopper-store copy of slot `n` hold its BODY_DIGEST (R272)? Not when bytes of it lie on a stack out of service, which of a
copy of more than 92 KiB some do (R413), or in a poisoned burst. Where in the store a copy lies the manual leaves open. -/
def storeGood (s : State) (n : Nat) : Bool :=
  let img := (slotOf s n).image
  digestOk img
    && ((List.range 24).all fun k => !bit (ctlOf s (k / 6)).failed (k % 6)
      || decide (img.length ≤ 94208) && decide (Config.openValue 5 [n, k] % 2 = 0))
    && s.snow.poison.all fun b => decide (b < 0xBF00000000) || decide (Config.openValue 6 [n, b] % 2 = 0)

/-- Bundles that fail their check are written again from the Hopper-store copy (R493 step 3). -/
def rewriteBundles (s : State) (img : List Byte) (f : ScrubFinding) : State :=
  match progOf img f.core with
  | none => s
  | some r => f.badBundles.foldl (fun s i =>
      { s with prog := Memory.put s.prog (progAddr f.core + 16 * i) (slice (progBytes img r) (16 * i) 16) }) s

/-- Owner `m` enters FAILED with a code outside a running attempt: its fault bits and the record (R493, R508). -/
def failNow (s : State) (m : Nat) (c : Option Nat) (code : Code) : State :=
  let s := markFailure s m c code
  enterFailed (logRec s { code := code, cls := .step, origin := .miller, mill := some m }) m code

/-- MILL_RESET (R493, R499): tier 2. A core that fails its write-read test is dead (R506), whatever becomes of the reset. The BODY_DIGEST of the store copy is checked before its use, which step 4 always makes of it (R272). A
core that R508 has written with zeros gets its program, handles and windows from the copy (log entry 95). -/
def execMillReset (m : MillId) (found : List ScrubFinding) (s : State) : Outcome :=
  .next (
    let k := millOf s m
    let cs := coresOf s m
    if k.st ≠ .restart || k.tier ≠ 2 || k.shiftFence || !settled s cs then s
    else
      let mine := found.filter fun f => cs.contains f.core.val
      let img := (slotOf s k.cfg.slot).image
      let s := mine.foldl scrubCore s
      let s := mine.foldl (fun s f => if f.dead then updCore s f.core fun k => { k with dead := true } else s) s
      if !storeGood s k.cfg.slot then failNow s m none .auth
      else
        let s := mine.foldl (fun s f => rewriteBundles s img f) s
        let s := (cs.filter fun c => (coreOf s c).blank).foldl (fun s c => installTables img (installProgram s img c) c) s
        let s := (regionsOf s m).foldl (fun s r => installRoutes s img r) s
        if mine.any fun f => !f.zeroed.isEmpty then
          failNow ((mine.filter fun f => !f.zeroed.isEmpty).foldl (fun s f => markFailure s m (some f.core) .ecc) s) m none .ecc
        else if mine.any (·.dead) then
          tierRec (updMill s m fun k => { k with tier := 3, inStep := k.inStep && !k.hostReset }) m 3 .ok
        else
          let s := tierRec s m 0 .ok
          let s := updMill s m fun k => { k with reset2 := true, hostReset := false }
          if k.hostReset then
            let s := cs.foldl restoreCore s
            refresh (updMill s m fun k => { k with st := .idle, tier := 0, inStep := false, startAt := none, ended := [], reset2 := false })
          else restartStep s m)

/-- The core's memories at a place that is taken out cannot be read: its logical core is written with zeros (R508). -/
def blankCore (s : State) (c : Nat) : State :=
  let s := zeroBytes (zeroBytes (zeroBytes s (coreAddr c 1 0) (spaceSize 1)) (coreAddr c 2 0) (spaceSize 2)) (coreAddr c 4 0) (spaceSize 4)
  updCore { s with prog := Memory.zero s.prog (progAddr c) 65536 } c fun k =>
    { k with copy := {}, handles := [], windows := [], blank := true }

/-- Stops owner `m` for a shift of a row it has cores in, and fences it without drain (R507 step 1): a step in progress is kept, to start again. An
owner that is FAILED stays so. -/
def stopForShift (s : State) (m : Nat) : State :=
  let k := millOf s m
  let fence := fun (s : State) => refresh (updMill s m fun k =>
    { k with st := .fenced, dstate := .fenced, shiftFence := true, startAt := none, ended := [] })
  if k.dstate = .draining then endDrain s m
  else if k.dstate ≠ .opened || k.shiftFence || k.st = .failed || k.st = .fenced then s
  else if k.inStep && k.st ≠ .restart then tierRec (fence (stopOwner s m)) m 3 .ok
  else fence s

/-- The end of a shift for owner `m` (R507 step 4, R508): its fence is lifted and its step starts again, unless another fence covers it by now (R500).
-/
def endShift (dead : Nat) (unreadable : Bool) (s : State) (m : Nat) : State :=
  let mine := (coresOf s m).contains dead
  let k := millOf s m
  let s := updMill s m fun k => { k with shiftFence := false, f := if k.shiftFence || k.tier = 3 then 0 else k.f }
  if mine && unreadable then failNow (updMill s m fun x => if k.shiftFence && !covered s m then { x with dstate := .opened } else x) m (some dead) .ecc
  else if !k.shiftFence then s
  else if covered s m then endDrain s m
  else if k.inStep then restartStep (updMill s m fun k => { k with dstate := .opened }) m
  else liftFence s m

/-- CORE_SHIFT (R506-R508): a physical core is dead. A spare that serves no column is only recorded; a row that has a defective
column is dropped; else the row shifts, once the accesses of the step owners it stops are answered. -/
def execCoreShift (r : RegionId) (row : Fin 16) (col : Fin 17) (unreadable : Bool) (s : State) : Outcome :=
  .next (
    let g := r.val
    let p := row.val
    let d := col.val
    let x := (regionOf s g).org
    let w := rowOf x p
    let note := fun (s : State) => addMoraine s { kind := 1, source := 1, region := g, row := p, col := d }
    let death := fun (s : State) (code : Code) => logRec s { code := code, cls := .tier, origin := .miller, phys := true, region := some g
                                                             row := some p, col := some d, syndrome := d }
    match logRow x p with
    | none => s
    | some y =>
      if w.outCol = d && d < 16 then s
      else if d = 16 && w.outCol = 16 then
        if w.defect then s else updRow (note (death s .ok)) g p fun w => { w with defect := true }
      else if w.defect then dropRow (note (death s .capacity)) g p
      else
        let c := 256 * g + 16 * y + d
        let ms := (ownersIn s g).filter fun m => (coresOf s m).any fun k => k / 16 == 16 * g + y
        let s := ms.foldl stopForShift s
        if !ms.all fun m => settled s (coresOf s m) then s
        else
          let s := takeOut (note (death s .ok)) g p d false
          let s := if unreadable then blankCore s c else s
          let s := updCore s c fun k => { k with dead := false, residue := false }
          ms.foldl (endShift c unreadable) s)

/-! ### Fences (R496-R500, R505) -/

/-- DSTATE as MIL_FENCE shows it: of the step owner, or over the step owners on which the mill's fence acts. -/
def dstateOf (s : State) (m : Nat) : DrainSt :=
  let ds := (fenceTargets s m).map fun k => (millOf s k).dstate
  if ds.any fun d => d = .draining then .draining else if ds.any fun d => d = .fenced then .fenced else .opened

/-- DRAIN_EXPIRY (R497, R505): a retirement recognised in the same cycle is taken; else the cores stop, and once their accesses
are answered the step is discarded. -/
def execDrainExpiry (m : MillId) (retiring : Bool) (s : State) : Outcome :=
  .next (
    let k := millOf s m
    if k.dstate ≠ .draining || !k.inStep then s else
    let s := advanceTo s (k.drainAt + 1000 * k.drain.toNat)
    if retiring && allEnded s m then retire (updMill s m fun k => { k with late := bumpW 8 k.late }) m
    else cutDrain s m)

/-- Is a DRAIN field in range (R499)? -/
def drainOk (d : BitVec 16) : Bool := d != 0 && d != 0xFFFF

/-- MIL_FENCE with FENCE = 1 (R496, R497). -/
def execMilFence (m : MillId) (drain : BitVec 16) (s : State) : Outcome :=
  .next (onMill m s fun s =>
    if !drainOk drain then s
    else
      let s := updMill s m fun k => { k with fence := true, drain := drain }
      (fenceTargets s m).foldl fenceOwner s)

/-- MIL_FENCE with FENCE = 0 (R498). -/
def execMilFenceLift (m : MillId) (drain : BitVec 16) (s : State) : Outcome :=
  .next (onMill m s fun s =>
    if !drainOk drain then s
    else if dstateOf s m = .draining then milRefused s m 0x20 .state
    else
      let s := updMill s m fun k => { k with fence := false, drain := drain }
      (fenceTargets s m).foldl tryLift s)

/-- MIL_FENCE.HALT (R232, R499). -/
def execMilHalt (m : MillId) (s : State) : Outcome :=
  .next (onMill m s fun s =>
    let k := millOf s m
    if isUp s && k.cfg.owner && k.st = .running then enterHalted s m else milRefused s m 0x20 .state)

/-- MIL_FENCE.RESUME (R499). -/
def execMilResume (m : MillId) (s : State) : Outcome :=
  .next (onMill m s fun s =>
    let k := millOf s m
    if isUp s && k.cfg.owner && k.st = .halted then
      let s := (coresOf s m).foldl (fun s c => updCore s c fun k =>
        if k.scc.run = .halted then { k with scc := { k.scc with run := .running, since := s.glb.time - k.scc.since } } else k) s
      updMill s m fun k => { k with st := .running }
    else milRefused s m 0x20 .state)

/-- MIL_FENCE.FAIL (R499). -/
def execMilFail (m : MillId) (s : State) : Outcome :=
  .next (onMill m s fun s =>
    let k := millOf s m
    if isUp s && k.cfg.owner && k.st = .halted then failOwner s m none { code := .halted, origin := .host } true false
    else milRefused s m 0x20 .state)

/-- The step that a RESET ends is dropped: its requests wait for another, with their page lists sent afresh; one that its draft mill
runs beside it goes on (R337). The manual says nothing of them (DESIGN CHOICE, log entry 50). -/
def dropBatch (s : State) (m : Nat) : State :=
  let b := batchOf s m
  let s := updBatch s m fun _ => {}
  let draft := roleOf s m == 1
  b.recs.foldl (fun s x => updReq s x.req fun y =>
    if draft then { y with draft := { y.draft with dstep := false, proposal := false } } else { y with instep := false, fresh := true }) s

/-- MIL_FENCE.RESET (R499): tier 2 that ends in IDLE. -/
def execMilReset (m : MillId) (s : State) : Outcome :=
  .next (onMill m s fun s =>
    let k := millOf s m
    let gone := (regionsOf s m).any fun g => (regionOf s g).org.shape = .lost
    if isUp s && k.cfg.owner && (k.st = .failed || k.st = .halted) && !gone && decide ((slotOf s k.cfg.slot).st = .loaded) then
      let s := dropBatch (giveUpStep s m) m
      refresh (tierRec (updMill s m fun k =>
        { k with st := .restart, tier := 2, hostReset := true, inStep := false, startAt := none, ended := [] }) m 2 .ok)
    else milRefused s m 0x20 .state)

end Sys2Proof.Machine
end

