-- ==== Sys2Proof/Machine/Millpond.lean ====
section
/-!
DEFINITION. The commands of the Millpond (08, 09): scheduling passes, the prefix lookup, ringing a step, committing a batch, and
the expiry of a parked state.
-/
namespace Sys2Proof.Machine

/-! ### Resuming (R312) -/

/-- The reservation of a RESUME is held: the request's positions, its state, and the restore that is due. -/
def beginRestore (s : State) (q : Nat) : State :=
  updReq s q fun r =>
    if r.summary then
      -- the positions of an earlier summary go, and the tokens after them stand from SUMPOS on
      let n := (poolOf s r.mill).sumpos
      let move := fun (p : Nat) => p - r.lead + n
      { r with tokens := List.replicate n 0 ++ r.tokens.drop r.lead, curlen := move r.curlen, outcur := move r.outcur
               skips := r.skips.map fun p => (move p.1, p.2), sublen := move r.sublen, lead := n
               firstLen := 0, computed := n, st := .prefill, restore := true, fresh := true }
    else
      let more := decide (r.curlen < r.tokens.length)
      { r with computed := r.curlen - 1 - r.draft.fixup, st := if more then .prefill else .decode, restore := true, fresh := true
               draft := { r.draft with fixup := if more then 0 else r.draft.fixup } }

/-- The reservation of a RESUME, with h = 0 (R312): whether it fits. What step 2 of R289 evicts for it stays evicted. -/
def resumeFits (s : State) (q : Nat) : Bool × State :=
  let r := reqOf s q
  let want := pagesFor r.maxlen
  match reserve s r.mill want with
  | (true, s) => (true, beginRestore (updReq s q fun y => { y with resv := want }) q)
  | (false, s) => (false, s)

/-! ### How a request ends (R284) -/

/-- Request `q` is DONE or EXPIRED: it parks when its class has ONEND PARK, a time to live and room (R284, R310). -/
def finishReq (s : State) (q : Nat) (t : ReqSt) (code : Code) : State :=
  let r := reqOf s q
  let ttl := match classOf s r.img r.cls with
    | some k => if k.onend = 1 then k.ttl else 0
    | none => 0
  if r.park && !r.restore then
    if ttl = 0 then endReq (releasePark s q) q t code false else endReq (updReq s q fun y => { y with ttl := ttl }) q t code true
  else if ttl = 0 ∨ r.pages = [] then endReq s q t code false
  else match startPark s q ttl with
    | some s => endReq s q t code true
    | none => endReq s q t code false

/-- Is the state ADMITTED, PREFILL or DECODE? -/
def ReqSt.live : ReqSt → Bool
  | .admitted | .prefill | .decode => true
  | _ => false

/-- Is the request in a step or in a batch about to be rung? -/
def busyReq (s : State) (q : Nat) : Bool :=
  let r := reqOf s q
  r.instep || r.draft.dstep || inBatch s r.mill q || (match draftMillOf s r.mill with | some d => inBatch s d q | none => false)

/-! ### Scheduling (R290, R298, R299) -/

/-- The deadline check and the pending CANCEL of a request outside a step; a CANCEL during a park takes effect at its end (R311). -/
def passReq (s : State) (q : Nat) : State :=
  let r := reqOf s q
  if !r.st.live || busyReq s q then s
  else if r.deadline < s.glb.time then finishReq s q .expired .deadline
  else if r.cancel && !r.cancelAtPark then endReq (releasePark s q) q .cancelled .ok false
  else s

/-- A queued reservation is tried again. -/
def retryReq (s : State) (q : Nat) : State :=
  let r := reqOf s q
  match r.st with
  | .admitted => if r.lookup then s else admitReq s q
  | .parked => if r.restore then (resumeFits s q).2 else s
  | _ => s

/-- The requests of unit `u`, ascending. -/
def unitReqs (s : State) (u : Nat) : List Nat :=
  (s.pond.reqs.filter fun p => p.2.st ≠ .free && unitOfReq p.1 == u).map (·.1)

/-- The serving mills of unit `u` whose slot is LOADED. -/
def unitMills (s : State) (u : Nat) : List Nat :=
  (s.mills.map (·.1)).filter fun m => (match serveOf s m with | some r => r.unit == u | none => false)
    && decide ((slotOf s (millOf s m).cfg.slot).st = .loaded)

/-- SCHEDULING_PASS (R290). A shut-down forms no batch (R519). -/
def execSchedulingPass (unit : Fin 4) (s : State) : Outcome :=
  .next (
    let qs := unitReqs s unit
    let s := qs.foldl passReq s
    let s := (sortBy (ranksBefore s) (unitReqs s unit)).foldl retryReq s
    if s.bst.shut ≠ .none then s
    else (unitMills s unit).foldl (fun s m => if canStart s m && (batchOf s m).recs.isEmpty then formBatch s m else s) s)

/-- PREFIX_LOOKUP (R293, R295): what the reads of the buckets meet, the hits of an ADMITTED request, then its reservation. -/
def execPrefixLookup (reads : BucketReads) (s : State) : Outcome :=
  .next (
    let q := reads.req.val
    let r := reqOf s q
    if r.st ≠ .admitted ∨ !r.lookup then s
    else
      let s := updReq s q fun y => { y with lookup := false }
      if (poolOf s r.mill).pfxent = 0 then admitReq s q
      else
        let hs := reqHashes s r
        let (s, lost) := meetEntries s r.mill (hs.flatMap (bucketOf s r.mill)) reads.ups
        let is := pfxRun s r.mill lost noEntry hs
        let s := mpdCount (mpdCount s (unitOfReq q) 9 is.length) (unitOfReq q) 10 (hs.length - is.length)
        admitReq (takeRun s q is) q)

/-- STEP_RING (R305): the unit rings the doorbell of its mill with the batch whose length table is written. -/
def execStepRing (m : MillId) (s : State) : Outcome :=
  .next (
    let b := batchOf s m
    match serveOf s m with
    | none => s
    | some r =>
      if b.recs.isEmpty || b.rung || !canStart s m || s.bst.shut ≠ .none then s
      else
        let entry := if b.kind = 0 then r.entries.1 else if b.kind = 1 then r.entries.2.1 else r.entries.2.2
        let arg := b.recs.length + at_ 16 b.groups.length + at_ 24 b.kind
        let s := updBatch s m fun b => { b with rung := true }
        let s := b.recs.foldl (fun s x => updReq s x.req fun y =>
          if r.role = 1 then { y with draft := { y.draft with dstep := true, proposal := decide (x.dlen ≠ 0) } }
          else { y with instep := true }) s
        mpdCount (acceptStep s m entry (BitVec.ofNat 32 arg)) r.unit 8 1)

/-! ### Commit (R304-R306) -/

/-- A result record (R304). -/
structure Result where
  req : Nat
  ntok : Nat
  toks : List (BitVec 32)
deriving DecidableEq, Repr

/-- Reads a result record. -/
def resultOf (b : List Byte) : Result :=
  let n := num b 2 1
  { req := num b 0 2, ntok := n, toks := (List.range (min n 17)).map fun i => BitVec.ofNat 32 (num b (8 + 4 * i) 4) }

/-- Is NTOK valid for the record (R306)? -/
def resultOk (x : LtRec) (kind : Nat) (r : Result) : Bool :=
  r.req == x.req &&
    (if x.flags / 4 % 4 ≠ 0 || (x.flags / 64 % 2 = 1) then r.ntok == 0
     else if kind = 2 then decide (1 ≤ r.ntok) && decide (r.ntok ≤ x.dlen + 1) && decide (r.ntok ≤ 17)
     else r.ntok == x.flags % 2)

/-- The tokens that are committed: up to a stop token, and no more than `room`. -/
def keepTokens (stop : List (BitVec 32)) : Nat → List (BitVec 32) → List (BitVec 32)
  | 0, _ => []
  | _, [] => []
  | n + 1, t :: ts => if stop.contains t && t != 0xFFFFFFFF then [t] else t :: keepTokens stop n ts

/-- The accepted nodes along the committed tokens (R343). -/
def acceptedPath (d : Draft) : Nat → List (BitVec 32) → List Nat
  | _, [] => []
  | node, t :: ts =>
    match (List.range d.tokens.length).find? fun k => d.parents.getD k 0 == node && d.tokens.getD k 0 == t with
    | none => []
    | some k => (k + 1) :: acceptedPath d (k + 1) ts

/-- FIXUP of an accepted path (R343). -/
def fixupOf (ns : List Nat) : Nat :=
  match ns.zipIdx.find? fun p => p.1 != p.2 + 1 with
  | some p => ns.length - p.2
  | none => 0

/-- Sets NODRAFT when the draft mill needs a generated token that is no longer held (R336). -/
def checkLag (r : Req) : Req :=
  if 128 < min r.draft.dlag (r.curlen - r.sublen) then { r with draft := { r.draft with nodraft := true } } else r

/-- The draft fields after a plain step that committed `n` tokens (R344). -/
def draftAfterPlain (k : ClassRec) (decode : Bool) (n : Nat) (d : DraftSt) : DraftSt :=
  let d := { d with fixup := if decode then 0 else d.fixup, dlag := min (d.dlag + n) 0xFFFF }
  if d.held && decode then
    if d.hold ≤ 1 then { d with held := false, hold := 0, ewma := ewma0 k, dcur := draftSize k (ewma0 k) } else { d with hold := d.hold - 1 }
  else d

/-- The draft fields after a VERIFY step with `ns` the accepted nodes (R343, R344). -/
def draftAfterVerify (k : ClassRec) (dlen : Nat) (ns : List Nat) (d : DraftSt) : DraftSt :=
  let a := ns.length
  let e := min 0xFFFF (d.ewma - d.ewma / 8 + a * 256 / 8)
  let d := { d with ewma := e, dcur := draftSize k e, fixup := fixupOf ns, ready := false, draft := {}
                    dlag := if k.draft = 1 then (if a < dlen then 1 else 2) else a + 1 }
  if e < k.ewmaMin then
    if k.holdN ≤ d.hold + 1 then { d with held := true, hold := k.holdM } else { d with hold := d.hold + 1 }
  else { d with hold := 0 }

/-- Commits the tokens of one request of a serving mill (R306). -/
def commitTokens (s : State) (q t kind : Nat) (x : LtRec) (res : Result) (ups : List Upset) : State :=
  let r := reqOf s q
  let u := unitOfReq q
  let base := x.pos0 + x.nnew - x.dlen
  let kept := keepTokens r.stop (r.maxlen - base) res.toks
  let stopped := match kept.getLast? with | some v => r.stop.contains v && v != 0xFFFFFFFF | none => false
  let len := base + kept.length
  let s := if kind = 0 then insertBlocks s q x.pos0 (x.pos0 + x.nnew) ups else s
  let ns := if kind = 2 then acceptedPath r.draft.draft 0 ((res.toks.take (res.ntok - 1)).take kept.length) else []
  let k := classOf s r.img r.cls
  let s := updReq s q fun y =>
    let y := { y with tokens := if res.ntok = 0 then y.tokens else y.tokens.take base ++ kept
                      curlen := len, computed := if res.ntok = 0 then len else len - 1
                      st := if res.ntok = 0 then y.st else .decode }
    let d := match k with
      | none => y.draft
      | some k => if k.draft = 0 then y.draft else if kind = 2 then draftAfterVerify k x.dlen ns y.draft
        else draftAfterPlain k (kind == 1) kept.length y.draft
    checkLag { y with draft := d }
  let s := if x.flags / 16 % 2 = 1 then releasePark (updReq s q fun y => { y with restore := false }) q else s
  let s := mpdCount (mpdCount s u 7 kept.length) u 15 (res.ntok - kept.length)
  let s := if (reqOf s q).park && !(reqOf s q).draft.dstep then dropDraft s q else s
  if stopped || decide ((reqOf s q).maxlen ≤ len) then finishReq s q .done .ok else enqueue (flush s q) q t

/-- A result that breaks R306: its request fails with FORMAT, with a record. -/
def malformed (s : State) (m q : Nat) (cls : FltClass) : State :=
  logRec s { code := .format, cls := cls, origin := .edge, edgeid := unitOfReq q, mill := some m, req := some q }

/-- A PARK that came before the restore step takes its space now, or is answered with CAPACITY (R310, R311). -/
def parkRestored (s : State) (q : Nat) : State :=
  let r := reqOf s q
  match startPark s q r.ttl with
  | some s => s
  | none => gmlError (updReq s q fun y => { y with park := false }) r.session .capacity 0x13 0 r.rseq q

/-- One request of a retired batch of a serving mill: the deadline, CANCEL and commit rules (R298, R299, R305, R306). -/
def commitServe (m t kind : Nat) (ups : List Upset) (s : State) (p : LtRec × Result) : State :=
  let (x, res) := p
  let q := x.req
  let r := reqOf s q
  let u := unitOfReq q
  if !r.instep then s
  else
    let s := updReq s q fun y => { y with instep := false }
    if r.st.live && decide (r.deadline < t) then finishReq (mpdCount s u 15 res.ntok) q .expired .deadline
    else if r.cancel && !r.cancelAtPark && x.flags / 4 % 2 = 0 then
      let s := mpdCount s u 15 res.ntok
      -- with DSTEP set the request ends when the draft step retires (R345)
      if r.draft.dstep then s else endReq (releasePark s q) q .cancelled .ok false
    else if !resultOk x kind res then endReq (releasePark (malformed s m q .request) q) q .failed .format false
    else if x.flags / 4 % 2 = 1 then finishPark s q t
    else if x.flags / 8 % 2 = 1 then
      let s := releasePark (updReq s q fun y => { y with restore := false }) q
      enqueue (if r.park then parkRestored s q else s) q t
    else commitTokens s q t kind x res ups

/-- Depths of the nodes of a draft, from node 0 on. -/
def nodeDepths (parents : List Nat) : List Nat := parents.foldl (fun ds p => ds ++ [ds.getD p 0 + 1]) [0]

/-- A draft record that is well formed (R338); none otherwise. -/
def draftOf (k : ClassRec) (vocab : Nat) (x : LtRec) (b : List Byte) : Option Draft :=
  let n := num b 2 1
  let toks := (List.range n).map fun i => BitVec.ofNat 32 (num b (8 + 4 * i) 4)
  let ps := (List.range n).map fun i => num b (264 + i) 1
  let good := num b 0 2 == x.req && decide (n ≤ x.dlen) && (ps.zipIdx.all fun p => decide (p.1 ≤ p.2) && (k.draft ≠ 1 || p.1 == p.2))
    && toks.all (fun t => decide (t.toNat < vocab)) && num b 3 1 == (nodeDepths ps).foldl max 0 && decide (num b 3 1 ≤ 16)
  if good then some { tokens := toks, parents := ps } else none

/-- One request of a retired draft step (R337, R339, R345). -/
def commitDraft (m t : Nat) (s : State) (p : LtRec × Result × List Byte) : State :=
  let (x, res, db) := p
  let q := x.req
  let r := reqOf s q
  if !r.draft.dstep then s
  else
    let s := updReq s q fun y => { y with draft := { y.draft with dstep := false, proposal := false } }
    if r.cancel && !r.cancelAtPark && !r.instep then endReq (releasePark s q) q .cancelled .ok false
    else if r.st.live && !r.instep && decide (r.deadline < t) then finishReq s q .expired .deadline
    else if r.park then enqueue (updReq (dropDraft s q) q fun y => { y with draft := { y.draft with ready := false } }) q t
    else
      let good := res.req == q && res.ntok == 0
      let s := updReq s q fun y => { y with draft := { y.draft with dlag := y.draft.dlag - x.nnew } }
      let bad := fun (s : State) =>
        malformed (updReq s q fun y => { y with draft := { y.draft with nodraft := true, ready := false } }) m q .info
      enqueue (if !good then bad s
      else if x.dlen = 0 then s
      else match (classOf s r.img r.cls).bind fun k => draftOf k (poolOf s r.mill).vocab x db with
        | none => bad s
        | some d => updReq s q fun y =>
            { y with draft := { y.draft with dlag := 0, ready := !d.tokens.isEmpty, draft := d } }) q t

/-- One request of a retired step of a summary mill: the deadline (R298), then R311. -/
def commitSummary (m t : Nat) (s : State) (p : LtRec × Result) : State :=
  let q := p.1.req
  if !(reqOf s q).instep then s
  else
    let r := reqOf s q
    let s := updReq s q fun y => { y with instep := false }
    if r.st.live && decide (r.deadline < t) then finishReq (mpdCount s (unitOfReq q) 15 p.2.ntok) q .expired .deadline
    else if p.2.req == q && p.2.ntok == 0 then finishPark s q t
    else endReq (releasePark (malformed s m q .request) q) q .failed .format false

/-- The checks of R151 on the unit's read of the result area. -/
def resultCode (s : State) (m c off n : Nat) : Option Code :=
  match serveOf s m with
  | none => some .window
  | some r =>
    let w := windowOf (coreOf s c) r.ltwin
    let len := (ltRange s m c).2.2
    firstFail [(w.opened && w.dir / 2 == 1 && decide (off < len), .window), (decide (off + n ≤ len), .length)]

/-- COMMIT (R305, R306): the results of a retired batch, read from the first anchor; a read that is refused or
meets an error fails the batch with its code (R581; DEDUCED, log entry 88); a drain that waited for it ends (R301). -/
def execCommit (m : MillId) (ups : List Upset) (s : State) : Outcome :=
  .next (
    let b := batchOf s m
    let role := roleOf s m
    let n := b.recs.length
    if !b.rung || !b.retired then s
    else
      let c := (anchorsOf s m).headD 0
      let (sp, lo, _) := ltRange s m c
      let u := (serveOf s m).elim (0, 0) fun r => (r.ltwin, r.unit)
      let size := resultBytes role * n
      let s := match edgeRead s u.2 c u.1 (coreAddr c sp (lo + b.resoff)) size (fun s => resultCode s m c b.resoff size) ups with
        | (s, .error code) => failBatch s m code
        | (s, .ok bs) =>
          let at_ := slice bs
          let rs := b.recs.zipIdx.map fun p => (p.1, resultOf (at_ (80 * p.2) 80))
          let ds := b.recs.zipIdx.map fun p => (p.1, resultOf (at_ (80 * p.2) 80), at_ (80 * n + 336 * p.2) 336)
          let s := updBatch s m fun _ => {}
          if role = 0 then rs.foldl (commitServe m b.time b.kind ups) s
          else if role = 1 then ds.foldl (commitDraft m b.time) s
          else rs.foldl (commitSummary m b.time) s
      if (millOf s m).dstate = .draining && !(millOf s m).inStep then endDrain s m else s)

/-- PARK_EXPIRY (R313): a RESUME recognised in the same cycle is taken. -/
def execParkExpiry (req : ReqId) (resumed : Bool) (s : State) : Outcome :=
  .next (
    let q := req.val
    let r := reqOf s q
    if r.st ≠ .parked then s
    else if resumed then mpdCount s (unitOfReq q) 14 1
    else expirePark (advanceTo s r.parkexp) q)

end Sys2Proof.Machine
end

