-- ==== Sys2Proof/Machine/Session.lean ====
section
/-!
DEFINITION. How a session ends (10 R364; 08 R308).
-/
namespace Sys2Proof.Machine

/-- What a closed session leaves of request `q`: live ones are cancelled under R299, terminal ones are FREE, parked ones remain. -/
def leaveReq (s : State) (q : Nat) : State :=
  let r := reqOf s q
  match r.st with
  | .admitted => endReq s q .cancelled .ok false
  | .prefill | .decode => updReq s q fun y => { y with cancel := true, cancelAtPark := y.cancelAtPark || (y.park && !y.cancel) }
  | .done | .expired | .cancelled | .failed => freeReq (if r.endPark then letGo s q else s) q
  | .parked | .free => s

/-- The index of a session's slot in the generations (R363). -/
def slotIx (n : BitVec 32) : Nat := bits n 30 2 * 2048 + bits n 19 11

/-- Session `n` is over, with a code: its requests, its pending command and its slot, whose generation changes (R363, R364). -/
def endSession (s : State) (n : BitVec 32) (code : Code) : State :=
  match sessionOf s n with
  | none => s
  | some _ =>
    let s := { s with sluice := { s.sluice with
      sessions := s.sluice.sessions.filter fun x => x.id != n
      ends := Tbl.set .ok s.sluice.ends (slotIx n) code
      gens := Tbl.upd 0 s.sluice.gens (slotIx n) fun g => (g + 1) % (2 ^ 19 - 1) } }
    ((s.pond.reqs.filter fun p => p.2.st ≠ .free && p.2.session == n).map (·.1)).foldl leaveReq s

/-- Body of a CLOSE (R373). -/
def closeBody (code : Code) : List Byte := BitVec.ofNat 8 code.num :: List.replicate 7 0

/-- The device sends CLOSE; the session ends on the reply or 10 ms later (R364). -/
def closeSession (s : State) (n : BitVec 32) (code : Code) : State :=
  match sessionOf s n with
  | none => s
  | some x => if x.closing.isSome then s else gmlSend (updSession s n fun y => { y with closing := some code }) n 2 0 (closeBody code)

/-- The sessions that `p` picks close with a code. -/
def closeSessions (s : State) (p : Session → Bool) (code : Code) : State :=
  ((s.sluice.sessions.filter p).map (·.id)).foldl (fun s n => closeSession s n code) s

end Sys2Proof.Machine
end

