-- ==== Sys2Proof/WellFormed.lean ====
section
/-!
DEFINITION. The encodings that the Hopper rejects at load (06 R213, R233): a program in a core never holds them. Every other
command is well formed, whatever its operands.
-/
namespace Sys2Proof

/-- A count or a scalar register in the `w`-bit value field of a move/sync instruction: the register form leaves the bits
above bit 4 at 0 (R212); an immediate count is not at its all-ones value (R213). -/
def countOk (regv : Bool) (w n : Nat) : Bool := if regv then decide (n < 32) else decide (n ≠ 2 ^ w - 1)

/-- Is the command well formed? -/
def Instr.wellFormed : Instr → Bool
  | .bfi _ _ _ lo wm1 => decide (lo.val + wm1.val ≤ 63)
  | .waitEv _ mask _ _ => decide (mask ≠ 0)
  | .waitCnt _ _ regv val _ => countOk regv 16 val.toNat
  | .recv _ _ _ regv n _ => countOk regv 16 n.toNat
  | .tokenAcq _ regv n => countOk regv 10 n.toNat
  | .tokenRel _ regv n => countOk regv 10 n.toNat
  | _ => true

end Sys2Proof
end

