-- ==== Sys2Proof/Machine/Sync.lean ====
section
/-!
DEFINITION. The move/sync slot (06 R212-R230): waits, SEND, RECV, the Flume instructions and power tokens; what starts when
earlier operations complete; and the completion of a descriptor (02 R47).
-/
namespace Sys2Proof.Machine

/-! ### RECV: arming a window (R222) -/

/-- The RECV in force on window `w` completes when all its accesses have. -/
def finishRecv (w : Nat) (k : Core) : Core :=
  let a := armOf k w
  match a.cur with
  | some r =>
    if a.left = 0 ∧ a.openAccesses = 0 then
      dropOp (signalDone { k with arms := Tbl.set {} k.arms w { a with cur := none } } r.evEn r.ev false 0) r.seq
    else k
  | none => k

/-- The next RECV arms window `w` once every operation issued before it that touches the window's bytes has completed. -/
def armNext (s : State) (c w : Nat) : State :=
  let a := armOf (coreOf s c) w
  match a.cur, a.waiting with
  | none, r :: rest =>
    if mayArm s c r.seq w then
      updCore s c fun k => { k with arms := Tbl.set {} k.arms w { a with cur := some r, left := r.n, waiting := rest } }
    else s
  | _, _ => s

/-- Completes and arms the windows of core `c`. -/
def armAll (s : State) (c : Nat) : State :=
  (List.range 16).foldl (fun s w => armNext (updCore s c (finishRecv w)) c w) s

/-! ### SEND (R219-R221) -/

/-- DEST of a SEND. -/
def sendDest (w0 : Word) : Nat := bits w0 0 52
/-- LENGTH. -/
def sendLen (w1 : Word) : Nat := bits w1 32 24
/-- KIND. -/
def sendKind (w1 : Word) : Nat := bits w1 58 2
/-- PLANE. -/
def sendPlane (w1 : Word) : Plane := if bits w1 56 2 = 0 then .a else .k

/-- The operand that a SEND reads or, for READ, writes locally. -/
def sendOperand (w1 w3 : Word) : Operand :=
  if sendKind w1 = 2 then plainOp (lo32 w3) [1, 2, 4] none false true (sendLen w1)
  else plainOp (lo32 w1) (if sendKind w1 = 1 then [2] else [1, 2, 4]) (some 9) true false (sendLen w1)

/-- The destination is absent from the present shape, or the route entry is BLOCKED (R26, R172). -/
def noWay (s : State) (c : Nat) (w0 w1 : Word) : Option Fail :=
  let d := sendDest w0
  if !coreExists s (fld d 34 14) || (routeOf s (c / 256) (fld d 42 6) (sendPlane w1)).mode = 0 then
    some { code := .window, addr := some d }
  else none

/-- The checks of the fields of one access (R123, R167, R176, R219) and of its local operand; then those of R26 and R172. A record of a
malformed or over-long access carries its DEST (R124, R164). -/
def checkSend (s : State) (c : Nat) (w0 w1 w3 : Word) : Option Fail :=
  let d := sendDest w0
  let kind := sendKind w1
  let x := sendOperand w1 w3
  let enc := decide (bits w1 56 2 ≤ 1) && decide (kind ≤ 2) && decide (bits w1 60 4 = 0) && decide (hi32 w3 = 0)
    && (if kind = 2 then decide (bits w1 56 2 = 1) && decide (lo32 w1 = 0) else decide (lo32 w3 = 0))
    && orfOk x.orf && (kind ≠ 1 || decide (sendLen w1 % 16 = 0))
    && decide (fld d 48 4 = 0) && decide (fld d 30 4 ≤ 4) && decide (fld d 30 4 ≠ 3)
  if !enc then some { code := .format, addr := some d }
  else if sendLen w1 = 0xFFFFFF then some { code := .length, addr := some d }
  else if sendLen w1 = 0 then none
  else match checkOperand s c x with
    | some e => some e
    | none => noWay s c w0 w1

/-- Does a route change of this access's entry wait, so that it is held at injection (R187)? -/
def heldAtSource (s : State) (c : Nat) (w0 w1 : Word) : Bool :=
  s.race.reloads.any fun r => r.src == c / 256 && r.dst == fld (sendDest w0) 42 6 && r.plane == sendPlane w1

/-- One access leaves core `c` for SEND `id` (R170, R175, R176, R179); none for 0 bytes. -/
def injectAccess (c id slot : Nat) (s : State) (w : Word × Word × Word) : State :=
  let (w0, w1, w3) := w
  let n := sendLen w1
  if n = 0 then s
  else
    let d := sendDest w0
    let plane := sendPlane w1
    let rt := routeOf s (c / 256) (fld d 42 6) plane
    let dst := fld d 34 14
    let path := routeNodes s c dst rt
    let kind : Kind := if sendKind w1 = 0 then .write else if sendKind w1 = 1 then .accum else .readReq
    let acc := s.ids
    let a : Access := { id := acc, src := .core c, send := id, slot := slot, kind := kind, plane := plane, dest := d, len := n
                        loc := (placeOf s c (lo32 w3)).addr, via := sortNat (path.map Node.region)
                        due := s.glb.time + 4 * raceTimeout s (c / 256) }
    let h : Packet := { id := 0, acc := acc, plane := plane, kind := kind, src := .core c, dst := .core dst, dest := d
                        win := bits w0 52 4, epoch := bits w0 56 8, mode := rt.mode, waypoint := rt.waypoint, length := n
                        path := path }
    let s := { s with ids := s.ids + 1, race := { s.race with accesses := s.race.accesses ++ [a] } }
    let s := raceCount s (c / 256) plane fun x => { x with inj := bump x.inj }
    if kind = .readReq then addPacket s h
    else writePackets (n / 512 + 1) s h 0 (readBytes s (placeOf s c (lo32 w1)).addr n)

/-- The records of a send list at a place: W0, W1 and W3 of each. -/
def listRecords (s : State) (a n : Nat) : List (Word × Word × Word) :=
  (List.range n).map fun i =>
    let w := fun (j : Nat) => BitVec.ofNat 64 (readNum s (a + 16 + 32 * i + 8 * j) 8)
    (w 0, w 1, w 3)

/-- The accesses of a SEND, after the checks of a list when it has one (R220): the list's own operand first, then its COUNT, its extent, and
its records. -/
def sendAccesses (s : State) (c : Nat) (words : List Word) (list : Bool) : Except Fail (List (Word × Word × Word)) :=
  let w := fun (j : Nat) => words.getD j 0
  if !list then .ok [(w 0, w 1, w 3)]
  else
    let p := placeOf s c (lo32 (w 0))
    let area := fun (n : Nat) => checkOperand s c (plainOp (lo32 (w 0)) [1, 2, 4] (some 9) true false n)
    match area 16 with
    | some e => .error e
    | none =>
      let n := readNum s p.addr 4
      if 65534 < n then .error { code := .length, addr := some p.addr }
      else match area (16 + 32 * n) with
        | some e => .error e
        | none =>
          let rs := listRecords s p.addr n
          let plain := (List.range n).all fun i => decide (readNum s (p.addr + 32 + 32 * i) 8 = 0)
          if !(plain && rs.all fun r => decide (sendKind r.2.1 ≤ 1)) then .error { code := .format, addr := some p.addr }
          else match rs.findSome? fun r => checkSend s c r.1 r.2.1 r.2.2 with
            | some f => .error f
            | none => .ok rs

/-- What the RIF reads of a send list: its header and records (R220). -/
def listRange (s : State) (c : Nat) (words : List Word) (list : Bool) : Ranges :=
  if list then let a := (placeOf s c (lo32 (words.getD 0 0))).addr; [(a, 16 + 32 * readNum s a 4)] else []

/-- The words of partial-sum memory that an ACCUM reads are checked for residue and overflow at the source too (R99, R119). -/
def accumBad (s : State) (c : Nat) (w1 : Word) : Option Fail :=
  if sendKind w1 = 1 then
    let a := (placeOf s c (lo32 w1)).addr
    (List.range (sendLen w1 / 16)).findSome? fun i =>
      let w := laccOf (readNum s (a + 16 * i) 16)
      (laccRead w).map (wordFail (a + 16 * i) w)
  else none

/-- Operation `n` has released its sources: it keeps the handles `rd` until it completes, for the arming of windows (R216, R220, R222). -/
def releaseOp (k : Core) (n : Nat) (rd : List Nat) : Core :=
  { k with ops := k.ops.map fun o => if o.seq = n then { o with rd := rd, released := true } else o }

/-- The lowest send slot of the RIF of a core that no SEND under way holds (R69, R175). -/
def freeSend (k : Core) : Nat :=
  ((List.range 8).find? fun n => k.sends.all fun x => !(x.started && x.slot == n)).getD 0

/-- SEND `x` starts: the destinations and routes of its accesses are looked at again (R26, R172), the list and the sources are read, and the
accesses leave; with no access it completes (R176, R221). A write's source is released when its last packet has left; all leave at once
here. -/
def beginSend (s : State) (c : Nat) (x : SendSt) : State :=
  match sendAccesses s c x.words x.list with
  | .error f => failUnit s c 9 0 x.pc f
  | .ok as =>
   let live := as.filter fun r => decide (sendLen r.2.1 ≠ 0)
   match live.findSome? fun r => noWay s c r.1 r.2.1 with
   | some f => failUnit s c 9 0 x.pc f
   | none =>
    let rds := (as.filter fun r => sendKind r.2.1 ≠ 2).map fun r => operandRange s c (sendOperand r.2.1 r.2.2)
    match meetReads s (listRange s c x.words x.list ++ rds) x.ups with
    | (s, some f) => failUnit s c 9 0 x.pc f
    | (s, none) => match as.findSome? fun r => accumBad s c r.2.1 with
     | some f => failUnit s c 9 0 x.pc f
     | none =>
      let slot := freeSend (coreOf s c)
      let s := live.foldl (injectAccess c x.id slot) s
      let isRead := as.any fun r => decide (sendKind r.2.1 = 2)
      let rd := ((as.filter fun r => sendKind r.2.1 ≠ 2).map fun r => orfHandle (lo32 r.2.1))
        ++ if x.list then [orfHandle (lo32 (x.words.getD 0 0))] else []
      updCore s c fun k =>
        if live.isEmpty then
          dropOp (signalDone { k with sends := k.sends.filter fun y => y.id ≠ x.id } x.evEn x.ev x.cntEn x.cnt) x.seq
        else
          let k := if isRead then k else releaseOp k x.seq rd
          { k with sends := k.sends.map fun y => if y.id = x.id then { y with started := true, slot := slot, left := live.length } else y }

/-- The handles that a SEND reads and writes at issue (R216, R220). -/
def sendHandles (words : List Word) (list : Bool) : List Nat × List Nat :=
  let w1 := words.getD 1 0
  if list then (List.range 64, [])
  else if sendLen w1 = 0 then ([], [])
  else if sendKind w1 = 2 then ([], [orfHandle (lo32 (words.getD 3 0))]) else ([orfHandle (lo32 w1)], [])

/-- Starts the SENDs of core `c` that wait, in issue order, as far as the scoreboard and route changes let them (R216, R221). -/
def startSends : Nat → State → Nat → State
  | 0, s, _ => s
  | n + 1, s, c =>
    match (coreOf s c).sends.find? fun x => !x.started with
    | none => s
    | some x =>
      let (rd, wr) := sendHandles x.words x.list
      let stuck := match sendAccesses s c x.words x.list with
        | .ok as => as.any fun r => decide (sendLen r.2.1 ≠ 0) && heldAtSource s c r.1 r.2.1
        | .error _ => false
      if !mayStart s c x.seq rd wr [] || stuck then s else startSends n (beginSend s c x) c

/-- What an operation that has completed lets start on core `c`. -/
def settle (s : State) (c : Nat) : State := armAll (startSends 9 (armAll s c) c) c

/-- One access of a SEND of core `c` has been recorded with OK (R180, R221). -/
def sendAnswered (s : State) (c id : Nat) : State :=
  match (coreOf s c).sends.find? fun x => x.id == id with
  | none => s
  | some x =>
    settle (updCore s c fun k =>
      if x.left ≤ 1 then
        dropOp (signalDone { k with sends := k.sends.filter fun y => y.id ≠ id } x.evEn x.ev x.cntEn x.cnt) x.seq
      else { k with sends := k.sends.map fun y => if y.id = id then { y with left := y.left - 1 } else y }) c

/-- SEND (R219-R221): the field checks at issue; the RIF takes it and starts what may start. -/
def execSend (c : CoreId) (sg : Fin 8) (list : Bool) (ups : List Upset) (s : State) : Outcome :=
  turn s c 3 (.send c sg list []) fun s =>
    let w := groupWords (coreOf s c) sg
    let w2 := w.getD 2 0
    let bad : Option Fail :=
      if bits w2 10 54 ≠ 0 then some (.of .format)
      else if list then
        (if hi32 (w.getD 0 0) = 0 ∧ w.getD 1 0 = 0 ∧ w.getD 3 0 = 0 ∧ orfOk (lo32 (w.getD 0 0)) = true then none
         else some (.of .format))
      else checkSend s c (w.getD 0 0) (w.getD 1 0) (w.getD 3 0)
    match bad with
    | some f => failInstr s c 9 f
    | none =>
      let (rd, wr) := sendHandles w list
      let id := s.ids
      let s := { s with ids := s.ids + 1 }
      let s := updCore s c fun k =>
        let x : SendSt := { id := id, seq := k.seq, pc := k.scc.pc, words := w, list := list, ups := ups, ev := bits w2 0 4
                            evEn := bit w2 4, cntEn := bit w2 5, cnt := bits w2 6 4 }
        { pushOp k rd wr [] with sends := k.sends ++ [x] }
      armAll (startSends 9 s c) c

/-- RECV (R213, R222, R223). -/
def execRecv (c : CoreId) (w : Fin 16) (ev : Fin 16) (regv : Bool) (n : BitVec 16) (evEn : Bool) (s : State) : Outcome :=
  if !countOk regv 16 n.toNat then .fault .illFormed
  else turn s c 3 (.recv c w ev regv n evEn) fun s => match countValue (coreOf s c) regv 16 n.toNat with
      | none => failInstr s c 9 (.of .length)
      | some v =>
        if v = 0 then updCore s c fun k => signalDone k evEn ev false 0
        else if !(windowOf (coreOf s c) w).opened || alwaysArmed s c w then failInstr s c 9 (.of .state)
        else
          let s := updCore s c fun k =>
            let r : RecvReq := { n := v, ev := ev, evEn := evEn, seq := k.seq }
            { pushRecv k w with
              arms := Tbl.upd {} k.arms w fun a => { a with waiting := a.waiting ++ [r] } }
          settle s c

/-! ### Waits -/

/-- WAIT.EV (R214): its condition holds, or the bundle stalls. -/
def execWaitEv (c : CoreId) (mask : BitVec 16) (any clr : Bool) (s : State) : Outcome :=
  if mask = 0 then .fault .illFormed
  else turn s c 3 (.waitEv c mask any clr) fun s =>
    updCore s c fun k => if clr then { k with scc := { k.scc with evs := k.scc.evs &&& ~~~mask } } else k

/-- WAIT.CNT (R215). -/
def execWaitCnt (c : CoreId) (cnt : Fin 16) (regv : Bool) (val : BitVec 16) (sub : Bool) (s : State) : Outcome :=
  if !countOk regv 16 val.toNat then .fault .illFormed
  else turn s c 3 (.waitCnt c cnt regv val sub) fun s => match countValue (coreOf s c) regv 16 val.toNat with
    | none => failInstr s c 10 (.of .length)
    | some v => updCore s c fun k =>
        if sub then { k with scc := { k.scc with cnts := Tbl.upd 0 k.scc.cnts cnt (· - BitVec.ofNat 32 v) } } else k

/-! ### Flume (R224-R229) -/

/-- FLM.RD and FLM.WR (R224-R226): a LENGTH of 0 completes at once, with its event; else the transfer holds a token, and its bundle has
waited for it (R225). -/
def flumeIssue (s : State) (c : Nat) (write : Bool) (q : Fin 8) (tag : Fin 16) (sg : Fin 8) : State :=
  let w := groupWords (coreOf s c) sg
  let w0 := w.getD 0 0
  let w1 := w.getD 1 0
  let w2 := w.getD 2 0
  match flumeCode s c write q tag sg with
  | some x => failInstr s c 9 { code := x, addr := some (snowAddr (bits w0 0 40)) }
  | none =>
    let n := bits w1 32 24
    if n = 0 then updCore s c fun k =>
      signalDone { k with flume := Tbl.set .idle k.flume (tagIx q tag) .done } (bit w2 28) (bits w2 24 4) false 0
    else updCore s c fun k =>
      let h := [orfHandle (lo32 w1)]
      let t : FlumeT := { write := write, sn := bits w0 0 40, loc := (placeOf s c (lo32 w1)).addr, len := n, tmo := bits w2 0 24
                          issued := s.glb.time, ev := bits w2 24 4, evEn := bit w2 28, seq := k.seq, pc := k.scc.pc }
      { pushOp k (if write then h else []) (if write then [] else h) [] with
        flume := Tbl.set .idle k.flume (tagIx q tag) (.busy t) }

/-- FLM.RD (R224). -/
def execFlmRd (c : CoreId) (q : Fin 8) (tag : Fin 16) (sg : Fin 8) (s : State) : Outcome :=
  turn s c 3 (.flmRd c q tag sg) fun s => flumeIssue s c false q tag sg
/-- FLM.WR (R224). -/
def execFlmWr (c : CoreId) (q : Fin 8) (tag : Fin 16) (sg : Fin 8) (s : State) : Outcome :=
  turn s c 3 (.flmWr c q tag sg) fun s => flumeIssue s c true q tag sg

/-- FLM.WAIT (R227): the tag is not BUSY any more, or the bundle stalls. -/
def execFlmWait (c : CoreId) (q : Fin 8) (tag : Fin 16) (s : State) : Outcome :=
  turn s c 3 (.flmWait c q tag) fun s =>
    if tagAt (coreOf s c) q tag = .done then updCore s c fun k => { k with flume := Tbl.set .idle k.flume (tagIx q tag) .idle }
    else failInstr s c 9 (.of .state)

/-- A transfer completes (R226): its tag DONE, its event, its handle and its token released. -/
def flumeDone (s : State) (c q tag : Nat) (t : FlumeT) : State :=
  settle (updCore s c fun k =>
    dropOp (signalDone { k with flume := Tbl.set .idle k.flume (tagIx q tag) .done } t.evEn t.ev false 0) t.seq) c

/-- FLUME_COMPLETE (R226): the controller has served the transfer. -/
def execFlumeComplete (c : CoreId) (q : Fin 8) (tag : Fin 16) (s : State) : Outcome :=
  .next (match tagAt (coreOf s c) q tag with
    | .busy t => if t.served && !t.gone && flumeSent s t then flumeDone s c q tag t else s
    | _ => s)

/-- A Flume transfer fails: its record carries the Snowpack form of its address, whatever end failed (R229). -/
def flumeFail (s : State) (c : Nat) (t : FlumeT) (code : Code) (syn : Nat) : State :=
  failUnit s c 9 0 t.pc { code := code, addr := some (snowAddr t.sn), syn := syn }

/-- The controllers check and serve the transfer behind a tag, whose accesses have come to them (R404, R405, R391): what fails it, or the state
with its bytes moved and the number of the message that it has become. What its bytes meet at either end fails it with the Snowpack form of
its address (R229). A read's local bytes may lie in an open window: only descriptors wait for one (R155, log entry 17). -/
def flumeMove (s : State) (c : Nat) (t : FlumeT) (ups : List Upset) : State × Except Fail (Option Nat) :=
  let at_ := fun (f : Fail) => Except.error { f with addr := some (snowAddr t.sn) }
  match snowRoute s c t.sn t.len t.write with
  | .refuse x => (countRefused s t.sn t.len, at_ (.of x))
  | .aperture l lq =>
    if (linkOf s l).lost then (s, at_ (.of .lost))
    else match meetReads s [(t.loc, t.len)] ups with
      | (s, some f) => (s, at_ f)
      | (s, none) => (sendMessage s l lq (readBytes s t.loc t.len), .ok (some s.ids))
  | .stacks =>
    if t.write then
      match meetReads s [(t.loc, t.len)] ups with
      | (s, some f) => (s, at_ f)
      | (s, none) => (snowWrite s t.sn t.loc t.len, .ok none)
    else match snowRead s t.sn t.len ups with
      | (s, some f) => (s, .error f)
      | (s, none) => match meetWrites s [(t.loc, t.len)] ups with
        | (s, some f) => (s, at_ f)
        | (s, none) => (storeBytes s t.loc (readBytes s (snowAddr t.sn) t.len), .ok none)

/-- Does the aperture that takes a transfer lack a credit for it (R391)? -/
def apertureFull (s : State) (c : Nat) (t : FlumeT) : Bool :=
  match snowRoute s c t.sn t.len t.write with
  | .aperture l lq => !(linkOf s l).lost && !canSend s l lq
  | _ => false

/-- A transfer crosses Race, is served, and its answer crosses back (R166, R179, R403): not before the scoreboard lets it start, nor before the
transfers issued earlier on its queue (R226). An access that a router discards fails it with that code (R193); one whose answer is discarded
leaves its tag BUSY until its timer expires (R228). -/
def serveFlume (s : State) (c q tag : Nat) (t : FlumeT) (ups : List Upset) : State :=
  let k := coreOf s c
  let mark := fun (s : State) (msg : Option Nat) (gone : Bool) => updCore s c fun k =>
    { k with flume := Tbl.set .idle k.flume (tagIx q tag) (.busy { t with served := true, got := t.len, msg := msg, gone := gone }) }
  let (rd, wr) := ((k.ops.find? fun o => o.seq == t.seq).map fun o => (o.rd, o.wr)).getD ([], [])
  if t.served || queueBehind k q t.seq || !mayStart s c t.seq rd wr [] || apertureFull s c t then s
  else match flumeOut s c t.sn t.len t.write with
    | (s, some x) => flumeFail s c t x 0
    | (s, none) => match flumeMove s c t ups with
      | (s, .error f) =>
        let (s, gone) := flumeBack s c t.sn t.len t.write false
        if gone then mark s none true else failUnit s c 9 0 t.pc f
      | (s, .ok msg) =>
        let (s, gone) := flumeBack s c t.sn t.len t.write (!t.write)
        mark s msg gone

/-- SNOWPACK_ACCESS (R404): the controllers serve the transfer behind a tag. -/
def execSnowpackAccess (c : CoreId) (q : Fin 8) (tag : Fin 16) (ups : List Upset) (s : State) : Outcome :=
  .next (match tagAt (coreOf s c) q tag with
    | .busy t => serveFlume s c q tag t ups
    | _ => s)

/-- The 64-byte blocks of an abandoned write that have reached Snowpack: any (R228). -/
def landSome (sn loc : Nat) : Nat → State → State
  | 0, s => s
  | n + 1, s =>
    let (landed, s) := drawBit s
    landSome sn loc n (if landed then snowWrite s (sn + 64 * n) (loc + 64 * n) 64 else s)

/-- The PARK or RESTORE that runs on the KSE and moves its data through Flume queue `q` (R66). -/
def kseStream (k : Core) (q : Nat) : Option Running :=
  (engOf k .kse).run.filter fun r => decide (bits r.desc.w0 4 4 ≠ 0) && bits r.desc.w0 48 3 == q

/-- FLUME_TIMEOUT (R228): TMO × 256 ns after the issue. A completion recognised in the same cycle is taken; else the transfer is abandoned
and fails, and which bytes of an unserved write have reached Snowpack stays open. A stream of the KSE fails its descriptor (R79; log entry 91:
the manual gives its timer no length and its tag no number). -/
def execFlumeTimeout (c : CoreId) (q : Fin 8) (tag : Fin 16) (completed : Bool) (s : State) : Outcome :=
  .next (match tagAt (coreOf s c) q tag with
    | .busy t =>
      let s := advanceTo s (t.issued + 256 * t.tmo)
      if completed && t.served && !t.gone && flumeSent s t then updCore (flumeDone s c q tag t) c fun k => slackUp k .grace 1
      else
        let s := if t.write && !t.served && decide (snowRoute s c t.sn t.len true = .stacks) then landSome t.sn t.loc (t.len / 64) s else s
        let s := match t.msg with | some n => abandonMessage s n | none => s
        flumeFail s c t .timeout 0
    | _ => match kseStream (coreOf s c) q with
      | some r => if completed then updCore s c fun k => slackUp k .grace 1
        else failDesc s c .kse r.desc { code := .timeout, addr := some (snowAddr (bits r.desc.w3 0 40)) }
      | none => s)

/-! ### Power tokens (R230) -/

/-- TOKEN.ACQ (R230): the float grants in the order of the requests, and no grant is partial; without a grant the bundle stalls. -/
def execTokenAcq (c : CoreId) (regv : Bool) (n : BitVec 10) (s : State) : Outcome :=
  if !countOk regv 10 n.toNat then .fault .illFormed
  else turn s c 3 (.tokenAcq c regv n) fun s => match countValue (coreOf s c) regv 10 n.toNat with
      | none => failInstr s c 10 (.of .length)
      | some v =>
        let s := updRegion s (c.val / 256) fun x =>
          { x with tok := { x.tok with granted := x.tok.granted + v, waiting := x.tok.waiting.filter fun w => w.1 ≠ c.val } }
        updCore s c fun k => { k with acquired := k.acquired + v }

/-- The tokens that core `c` may release. -/
def releasable (s : State) (c : Nat) : Nat := (coreOf s c).acquired - (heldTokens (coreOf s c) - effShare s c)

/-- TOKEN.REL (R230). -/
def execTokenRel (c : CoreId) (regv : Bool) (n : BitVec 10) (s : State) : Outcome :=
  if !countOk regv 10 n.toNat then .fault .illFormed
  else turn s c 3 (.tokenRel c regv n) fun s => match countValue (coreOf s c) regv 10 n.toNat with
      | none => failInstr s c 10 (.of .length)
      | some v =>
        if releasable s c < v then failInstr s c 10 (.of .state)
        else
          let s := updCore s c fun k => { k with acquired := k.acquired - v }
          updRegion s (c.val / 256) fun x => { x with tok := { x.tok with granted := x.tok.granted - v } }

/-- DESCRIPTOR_COMPLETE (R47): event, counter, tokens and handles; one that comes late is counted (R242). A PARK completes once its messages
have entered the replay buffer (R66, R391). -/
def execDescriptorComplete (c : CoreId) (eng : Eng) (late : Bool) (s : State) : Outcome :=
  .next (match (engOf (coreOf s c) eng).run with
    | none => s
    | some r => if !messagesSent s r.msgs.1 r.msgs.2 then s else settle (updCore s c fun k =>
        let k := if late then slackUp k .late 1 else k
        dropOp (signalHeader { k with engs := Tbl.upd {} k.engs eng.num fun x => { x with run := none } } r.desc.w0) r.desc.seq) c)

end Sys2Proof.Machine
end

