-- ==== Sys2Proof/Machine/Race.lean ====
section
/-!
DEFINITION. The Race fabric (05): packets forwarded, checked at their destination (04 R151-R158), written and answered; the
timers of R190; route changes and LOST notices.
-/
namespace Sys2Proof.Machine

/-- The core whose router stands at a node; a hub's nearest router for a hub. -/
def nodeCore : Node → Nat
  | .router x y => (y / 16 * 8 + x / 16) * 256 + y % 16 * 16 + x % 16
  | .hub r => r * 256 + 7 * 16 + 7

/-- The number of a packet's source in a record (R190). -/
def Packet.srcNum (p : Packet) : Nat := match p.src with | .core c => c | .edge n => n

/-- A router discards a packet: a record, and a RESPONSE with the code to the packet's source unless it is a RESPONSE itself (R190, R193). -/
def discardPacket (s : State) (p : Packet) (n : Node) (code : Code) : State :=
  let s := dropPacket s p.id
  let s := if code = .timeout then timerRec s n.region p.dest p.srcNum p.plane else lostRec s n.region p.dest
  if p.kind = .response then s else respond s p.acc p.src (nodeCore n) code

/-- Changes the packet of an identifier. -/
def updPacket (s : State) (id : Nat) (f : Packet → Packet) : State :=
  { s with race := { s.race with packets := s.race.packets.map fun q => if q.id = id then f q else q } }

/-- When the wait of a packet for a credit expires: TIMEOUT of its router's region, as it stood when the wait began, after that moment (R189,
R190). -/
def waitEnd (s : State) (p : Packet) : Nat := p.waiting.getD (s.glb.time + raceTimeout s (packetNode p).region)

/-- The head flit of a packet waits for a credit, from now on unless it waits already (R190). -/
def holdPacket (s : State) (id : Nat) : State := updPacket s id fun q => { q with waiting := some (waitEnd s q) }

/-- PACKET_FORWARD (R183, R188, R193): without a credit the head flit waits; else the packet leaves the router at its head. -/
def execPacketForward (pkt : Nat) (credit : Bool) (s : State) : Outcome :=
  .next (match packetOf s pkt with
    | none => s
    | some p => match p.path with
      | [] => s
      | n :: rest =>
        if overtakes s p then s
        else
          if !credit then holdPacket s pkt
          else if rest.any (fun m => decide (rest.head? = some m) && !vddnOn s m.region) then
            discardPacket s p n .lost
          else
            let s := raceCount s n.region p.plane fun x =>
              { x with flits := bumpBy x.flits (flitsOf p.plane p.payload.length) }
            updPacket s pkt fun q => { q with path := rest, waiting := none })

/-! ### Data at the destination (R110, R156, R177, R581) -/

/-- A destination refuses an access: its record, merged under R164, its counter, and the RESPONSE. -/
def refuseAccess (s : State) (p : Packet) (src c : Nat) (code : Code) : State := respond (refusalRec s p src c code) p.acc p.src c code

/-- The accepted access. -/
def incomingOf (s : State) (acc : Nat) : Option Incoming := s.race.incoming.find? fun i => i.acc == acc
/-- Forgets an accepted access. -/
def dropIncoming (s : State) (acc : Nat) : State :=
  { s with race := { s.race with incoming := s.race.incoming.filter fun i => i.acc ≠ acc } }

/-- Adds one arriving word into the word at `a` (R110, R579): a word that carries no term leaves it as it was. -/
def addWord (s : State) (a : Nat) (bs : List Byte) : State × Option Fail :=
  let t := laccOf (leNat bs)
  let w := laccOf (readNum s a 16)
  let good := fun (x : Lacc) => decide (x.res ≠ 7) && decide (x.res = mod7 x.sum)
  if !t.touched then (s, (laccRead t).map (wordFail a t))
  else if !good w then (s, some (wordFail a w .residue))
  else if !good t then (s, some (wordFail a t .residue))
  else if w.ovf || t.ovf then (s, some { code := .overflow, addr := some a })
  else addTerm s a t.unit t.sum

/-- Adds the words of a payload, in order. -/
def addWords (s : State) (a : Nat) (bs : List Byte) (ups : List Upset) : State × Option Fail :=
  runAll (fun s i =>
    match meetReads s [(a + 16 * i, 16)] ups with
    | (s, some f) => (s, some f)
    | (s, none) => addWord s (a + 16 * i) (slice bs (16 * i) 16)) s (List.range (bs.length / 16))

/-- The accepted access has written its last byte: its RESPONSE, and the RECV that accepted it (R180, R222). -/
def finishIncoming (s : State) (i : Incoming) (code : Code) : State :=
  let s := respond (dropIncoming s i.acc) i.acc i.src i.core code
  let s := updCore s i.core fun k => { k with arms := k.arms.map fun p =>
    if p.1 = i.win ∧ i.recv.isSome ∧ p.2.cur.map (·.seq) = i.recv then (p.1, { p.2 with openAccesses := p.2.openAccesses - 1 }) else p }
  settle s i.core

/-- One packet's payload of an accepted access lands (R177, R581). -/
def land (s : State) (i : Incoming) (bs : List Byte) (ups : List Upset) : State :=
  let a := i.dest + i.got
  let next := fun (s : State) (failed : Option Code) =>
    let j := { i with got := i.got + bs.length, failed := failed, due := s.glb.time + raceTimeout s (i.core / 256) }
    if i.len ≤ j.got then finishIncoming s j (failed.getD .ok)
    else { s with race := { s.race with incoming := s.race.incoming.map fun x => if x.acc = i.acc then j else x } }
  if i.kind = .accum then
    match addWords s a bs ups with
    | (s, none) => next s i.failed
    | (s, some f) =>
      let s := respond (dropIncoming s i.acc) i.acc i.src i.core f.code
      failCore s i.core { coreRec s i.core with code := f.code, cls := .step, unit := 9, aform := bnat f.addr.isSome
                                                addr := f.addr.getD 0, syndrome := f.syn } false
  else
    let (s, bad) := writePlain s i.core a bs ups
    next s (if i.failed.isSome then i.failed else bad)

/-- A read accepted at core `c`: its data leave as READ_DATA on plane K in packets of 512 bytes, with WIN 0xF and the RIF's send slot `slot`
for a window and the length of the whole access in the first, then its RESPONSE (R175, R179, R180). Data that cannot be read end it with ECC
(R581). Where the entry of plane K is BLOCKED no packet leaves, and the read ends with WINDOW (R172; DEDUCED, log entry 92). -/
def readOut (s : State) (p : Packet) (src c loc slot : Nat) (ups : List Upset) : Nat → Nat → State
  | 0, _ => s
  | n + 1, off =>
    let rt := routeOf s (c / 256) (src / 256) .k
    if rt.mode = 0 then respond s p.acc p.src c .window
    else if p.length ≤ off then respond s p.acc p.src c .ok
    else
      let k := min 512 (p.length - off)
      match meetReads s [(p.dest + off, k)] ups with
      | (s, some f) => respond (infoAt s c f) p.acc p.src c .ecc
      | (s, none) =>
        let s := addPacket s { id := 0, acc := p.acc, plane := .k, kind := .readData, src := .core c, dst := .core src
                               dest := loc + off, win := 15, epoch := slot, first := decide (off = 0)
                               last := decide (p.length ≤ off + k), mode := rt.mode, waypoint := rt.waypoint
                               length := if off = 0 then p.length else k, payload := readBytes s (p.dest + off) k
                               path := routeNodes s c src rt }
        readOut s p src c loc slot ups n (off + 512)

/-- A header is accepted: the count, the arming, and its data (R177, R222). -/
def acceptAccess (s : State) (p : Packet) (src c : Nat) (ups : List Upset) : State :=
  let s := raceCount s (c / 256) p.plane fun x => { x with ej := bump x.ej }
  let isRead := decide (p.kind = .readReq)
  let armed := alwaysArmed s c p.win
  let recv := if armed then none else (armOf (coreOf s c) p.win).cur.map (·.seq)
  let s := if armed then s
    else updCore s c fun k => { k with arms := Tbl.upd {} k.arms p.win fun a =>
      { a with left := a.left - 1, openAccesses := if isRead then a.openAccesses else a.openAccesses + 1 } }
  if isRead then
    let (loc, slot) := match accessOf s p.acc with | some a => (a.loc, a.slot) | none => (0, 0)
    settle (readOut s p src c loc slot ups (p.length / 512 + 2) 0) c
  else
    let i : Incoming := { acc := p.acc, src := p.src, core := c, win := p.win, kind := p.kind, plane := p.plane, dest := p.dest
                          len := p.length, got := 0, recv := recv }
    land { s with race := { s.race with incoming := s.race.incoming ++ [i] } } i p.payload ups

/-- Does a packet stand before its destination core with nothing of its order ahead of it? -/
def arrived (s : State) (p : Packet) : Bool := p.path.isEmpty && !overtakes s p

/-- ACCESS_HEADER (R151, R197): the FIRST packet of an access meets the checks of its destination; one that must wait waits for a credit
(R158, R188). A core that the present shape does not have answers WINDOW, and the record is that of the source (R26). -/
def execAccessHeader (pkt : Nat) (ups : List Upset) (s : State) : Outcome :=
  .next (match packetOf s pkt with
    | none => s
    | some p => match p.src, p.dst with
      | .core src, .core c =>
        if !(arrived s p && p.first && [Kind.write, .accum, .readReq].contains p.kind) then s
        else match verdict s p src c with
          | .wait => holdPacket s pkt
          | .refuse x =>
            if coreExists s c then refuseAccess (dropPacket s pkt) p src c x else respond (dropPacket s pkt) p.acc p.src c x
          | .accept => acceptAccess (dropPacket s pkt) p src c ups
      | _, _ => s)

/-- ACCESS_PACKET (R177): a later packet is written, or discarded when its access is not accepted any more. -/
def execAccessPacket (pkt : Nat) (ups : List Upset) (s : State) : Outcome :=
  .next (match packetOf s pkt with
    | none => s
    | some p =>
      if !(arrived s p && !p.first && [Kind.write, .accum].contains p.kind) then s
      else match incomingOf s p.acc with
        | none => dropPacket s pkt
        | some i => land (dropPacket s pkt) i p.payload ups)

/-! ### Answers at the source (R179, R180) -/

/-- The access is recorded with OK. -/
def recordOk (s : State) (a : Access) : State :=
  let s := dropAccess s a.id
  match a.src with
  | .core c => sendAnswered s c a.send
  | .edge _ => s

/-- A core discards a READ_DATA packet that names no transfer of it, or a byte outside the recorded range, with a FORMAT record (R179). -/
def strayData (s : State) (p : Packet) : State :=
  match p.dst with
  | .core c => logRec s { coreRec s c with code := .format, cls := .refusal, unit := 9, aform := 1, addr := p.dest, syndrome := p.srcNum }
  | .edge _ => s

/-- READ_DATA (R179): written into the recorded range of the transfer that its send slot names; data of an abandoned transfer are discarded.
A local word or burst covered in part that cannot be read fails the SEND with ECC (R130, R136). -/
def execReadData (pkt : Nat) (ups : List Upset) (s : State) : Outcome :=
  .next (match packetOf s pkt with
    | none => s
    | some p =>
      if !(arrived s p && decide (p.kind = .readData)) then s
      else
        let s := dropPacket s pkt
        match accessOf s p.acc with
        | none => if s.ids ≤ p.acc then strayData s p else s
        | some a =>
          if a.src ≠ p.dst || a.kind ≠ .readReq || p.win ≠ 15 || p.epoch ≠ a.slot || decide (p.dest < a.loc)
              || decide (a.loc + a.len < p.dest + p.payload.length) then strayData s p
          else match meetWrites s [(p.dest, p.payload.length)] ups with
            | (s, some f) => failAccessWith s a.id f
            | (s, none) =>
              let s := storeBytes s p.dest p.payload
              let a' := { a with got := a.got + p.payload.length }
              if a.respOk && decide (a.len ≤ a'.got) then recordOk s a
              else { s with race := { s.race with accesses := s.race.accesses.map fun x => if x.id = a.id then a' else x } })

/-- RESPONSE (R180): recorded at the source, which waits for one of that access; an OK that comes before the last byte of a read is held. -/
def execResponse (pkt : Nat) (s : State) : Outcome :=
  .next (match packetOf s pkt with
    | none => s
    | some p =>
      if !(arrived s p && decide (p.kind = .response)) then s
      else
        let s := dropPacket s pkt
        match accessOf s p.acc with
        | none => s
        | some a =>
          if a.src ≠ p.dst then s
          else if p.status ≠ .ok then failAccess s a.id p.status
          else if a.kind = .readReq && decide (a.got < a.len) then
            { s with race := { s.race with accesses := s.race.accesses.map fun x =>
              if x.id = a.id then { x with respOk := true } else x } }
          else recordOk s a)

/-! ### Timers (R190, R191) -/

/-- Does the head flit of a packet wait for a credit: of the next router, or of a destination that withholds it? -/
def waitsForCredit (s : State) (p : Packet) : Bool :=
  p.waiting.isSome || (match p.src, p.dst with
    | .core src, .core c => arrived s p && p.first && [Kind.write, .accum, .readReq].contains p.kind
        && decide (verdict s p src c = .wait)
    | _, _ => false)

/-- CREDIT_WAIT_EXPIRY (R190): TIMEOUT after the wait began the router discards the whole packet, unless the credit came in the same cycle
(R191). -/
def execCreditWaitExpiry (pkt : Nat) (came : Bool) (s : State) : Outcome :=
  .next (match packetOf s pkt with
    | none => s
    | some p =>
      if !waitsForCredit s p then s
      else
        let n := packetNode p
        let s := advanceTo s (waitEnd s p)
        if came then
          updPacket (raceCount s n.region p.plane fun x => { x with grace := bump x.grace }) pkt fun q => { q with waiting := none }
        else
          discardPacket (raceCount s n.region p.plane fun x => { x with cto := bump x.cto }) p n .timeout)

/-- CONTINUATION_WAIT_EXPIRY (R190): TIMEOUT after the last packet written the destination abandons an access whose next packet does not
come. -/
def execContinuationWaitExpiry (acc : Nat) (came : Bool) (s : State) : Outcome :=
  .next (match incomingOf s acc with
    | none => s
    | some i =>
      let r := i.core / 256
      let s := advanceTo s i.due
      if came then raceCount s r i.plane fun x => { x with grace := bump x.grace }
      else
        let s := raceCount (dropIncoming s acc) r i.plane fun x => { x with cto := bump x.cto }
        let src := match i.src with | .core c => c | .edge n => n
        logRec s { coreRec s i.core with code := .timeout, cls := .refusal, unit := 9, aform := 1, addr := i.dest
                                         syndrome := src + at_ 16 i.plane.num })

/-- RESPONSE_WAIT_EXPIRY (R190): the source fails an access that has no RESPONSE 4 × TIMEOUT after its LAST packet was injected. -/
def execResponseWaitExpiry (acc : Nat) (came : Bool) (s : State) : Outcome :=
  .next (match accessOf s acc with
    | none => s
    | some a => match a.src with
      | .edge _ => failAccess s acc .timeout
      | .core c =>
        let s := advanceTo s a.due
        if came then raceCount s (c / 256) a.plane fun x => { x with grace := bump x.grace } else failAccess s acc .timeout)

/-! ### Route changes and lost regions (R187, R193) -/

/-- Outstanding accesses from region `r` to region `d` on plane `p`. -/
def outstanding (s : State) (r d : Nat) (p : Plane) : Bool :=
  s.race.accesses.any fun a => a.plane == p && fld a.dest 42 6 == d && match a.src with
    | .core c => c / 256 == r
    | .edge _ => false

/-- Lets the SENDs of the cores of region `r` start that a route change held. -/
def settleRegion (s : State) (r : Nat) : State :=
  ((s.cores.map (·.1)).filter fun c => c / 256 == r).foldl settle s

/-- Does a step of R193 before this plane's wait: the entries of planes C and T, then the notices, then those of A and K? -/
def reloadBehind (s : State) (p : Plane) : Bool :=
  (p == .a || p == .k) && (!s.race.notices.isEmpty || s.race.reloads.any fun r => r.plane == .c || r.plane == .t)

/-- ROUTE_RELOAD (R187, R193): the new entry applies once no access is outstanding on the old route. -/
def execRouteReload (src dst : RegionId) (plane : Plane) (s : State) : Outcome :=
  .next (match s.race.reloads.find? fun r => r.src == src.val && r.dst == dst.val && r.plane == plane with
    | none => s
    | some r =>
      if outstanding s src dst plane || reloadBehind s plane then s
      else
        let s := { s with race := { s.race with reloads := s.race.reloads.filter fun x => x ≠ r } }
        let s := updRegion s src fun x => { x with race := { x.race with
          routes := Tbl.set {} x.race.routes (4 * dst.val + plane.num) { mode := r.mode, waypoint := r.waypoint } } }
        settleRegion s src)

/-- LOST_NOTICE (R193): once the entries of planes C and T are rewritten, each RIF of a notified region fails its accesses into the lost
region, and those whose route passes it while its VDDN is off. -/
def execLostNotice (notified lost : RegionId) (s : State) : Outcome :=
  .next (if (regionOf s lost).org.shape ≠ .lost || !s.race.notices.contains (notified.val, lost.val)
      || s.race.reloads.any (fun r => r.plane == .c || r.plane == .t) then s
    else
      let s := { s with race := { s.race with notices := s.race.notices.filter (· ≠ (notified.val, lost.val)) } }
      let hit := s.race.accesses.filter fun a =>
        (match a.src with | .core c => c / 256 == notified.val | .edge _ => false)
          && (fld a.dest 42 6 == lost.val || (!vddnOn s lost && a.via.contains lost.val))
      hit.foldl (fun s a => failAccess s a.id .lost) s)

end Sys2Proof.Machine
end

