-- ==== Sys2Proof/Machine/Tail.lean ====
section
/-!
DEFINITION. Tailrace links (10 R387-R397): flits received, acknowledgements and replays, messages written into the window of a
remote stage queue, and the link and queue registers.
-/
namespace Sys2Proof.Machine

/-- BAR0 offset of a register of link `l` (R395). -/
def tlrAddr (l off : Nat) : Nat := 0x200000 + 0x10000 * l + off

/-- The controller of a link (R398) as an edge block (R175). -/
def linkEdge (l : Nat) : Nat := 0x10 + l / 2

/-- A record of CLASS LINK that names link `l`. -/
def linkRec (s : State) (l : Nat) (code : Code) : State :=
  logRec s { code := code, cls := .link, origin := .edge, edgeid := 0x50 + l }

/-- Is the range of a Flume write in the aperture of queue `q`? -/
def inAperture (x : LQueue) (t : FlumeT) : Bool :=
  t.write && bits x.tx 40 24 ≠ 0 && decide (bits x.tx 0 40 ≤ t.sn) && decide (t.sn + t.len ≤ bits x.tx 0 40 + bits x.tx 40 24 * 65536)

/-- The Flume transfers of all cores that `p` picks: their core and transfer. -/
def flumesWith (s : State) (p : FlumeT → Bool) : List (Nat × FlumeT) :=
  s.cores.flatMap fun k => k.2.flume.filterMap fun f => match f.2 with
    | .busy t => if p t then some (k.1, t) else none
    | _ => none

/-- Is the transfer still there: an earlier failure may have stopped its core. -/
def flumeThere (s : State) (c : Nat) (t : FlumeT) : Bool := (coreOf s c).flume.any fun f => f.2 == .busy t

/-- Those transfers fail with a code. -/
def failFlumes (s : State) (p : FlumeT → Bool) (code : Code) : State :=
  (flumesWith s p).foldl (fun s x => if flumeThere s x.1 x.2 then flumeFail s x.1 x.2 code 0 else s) s

/-- The cores whose KSE runs a PARK that `p` picks, with what runs. -/
def parksWith (s : State) (p : Running → Bool) : List (Nat × Running) :=
  s.cores.filterMap fun k => match (engOf k.2 .kse).run with
    | some r => if p r then some (k.1, r) else none
    | none => none

/-- Those PARKs fail with a code (R66, R229). -/
def failParks (s : State) (p : Running → Bool) (code : Code) : State :=
  (parksWith s p).foldl (fun s x =>
    if (engOf (coreOf s x.1) .kse).run = some x.2 then
      failDesc s x.1 .kse x.2.desc { code := code, addr := some (snowAddr (bits x.2.desc.w3 0 40)) } else s) s

/-- The numbers of the messages of some queues of link `l` that still have flits to send. -/
def waitingIds (s : State) (l : Nat) (qs : List Nat) : List Nat := qs.flatMap fun q => (queueOf s l q).sendq.map (·.id)

/-- The messages of some queues of link `l` go, and the writes and the PARKs that made them fail with a code; with `flight`, so do those whose
messages have all left and which are not complete. -/
def dropMessages (s : State) (l : Nat) (qs : List Nat) (waiting flight : Bool) (code : Code) : State :=
  let gone := waitingIds s l qs
  let within := fun (t : FlumeT) => qs.any fun q => inAperture (queueOf s l q) t
  let parks := fun (r : Running) => (gone.any fun n => decide (r.msgs.1 ≤ n) && decide (n < r.msgs.2))
    || (flight && decide (r.msgs.1 < r.msgs.2) && qs.any fun q =>
      touch (bits (queueOf s l q).tx 0 40, bits (queueOf s l q).tx 40 24 * 65536) (bits r.desc.w3 0 40, 1))
  let s := qs.foldl (fun s q => updQueue s l q fun x => { x with sendq := [] }) s
  let s := failFlumes s (fun t => (waiting && !t.served && within t) || t.msg.any gone.contains || (flight && t.msg.isSome && within t)) code
  failParks s parks code

/-- A queue is disabled (R394): a QCFG flit leaves as soon as the link carries flits, and the Flume writes that wait on it fail with FENCED. -/
def disableQueue (s : State) (l q : Nat) : State :=
  if !(queueOf s l q).en then s
  else
    let s := dropMessages s l [q] true false .fenced
    let s := updQueue s l q fun x => { x with en := false, partialMsg := none, inbox := [], held := 0, toPublish := 0, owe := 0 }
    settleLink (updLink s l fun x => { x with cfgDue := true }) l

/-- The enabled queues whose window lies on a core that `p` picks. -/
def queuesAt (s : State) (p : Nat → Bool) : List (Nat × Nat) :=
  s.links.flatMap fun l => (l.2.queues.filter fun q => q.2.en && decide (q.2.rx ≠ 0) && p (bits q.2.rx 34 14)).map fun q => (l.1, q.1)

/-! ### Sending: acknowledgements, replays, credits -/

/-- The far end acknowledges every flit before `ack` (R389): flits leave the replay buffer, and a final flit sets TXACKED. -/
def acked (s : State) (l ack : Nat) : State :=
  let b := (linkOf s l).replay
  match b.head? with
  | none => s
  | some f =>
    let n := (ack + 4096 - f.seq) % 4096
    if n = 0 ∨ b.length < n then s
    else
      let s := updLink s l fun x => { x with replay := x.replay.drop n, replays := 0, ackAt := s.glb.time }
      (b.take n).foldl (fun s f => if f.type = 1 && f.eom then updQueue s l f.queue fun x => { x with txacked := f.mseq } else s) s

/-- What a link sends of itself while it trains (R387). -/
def trainingItems (l : Nat) (s : State) : State := { s with out := s.out ++ [.training s.glb.serial l steppingCode] }

/-- Every unacknowledged flit leaves again, or after 8 replays in a row the link retrains (R389). -/
def replay (s : State) (l : Nat) : State :=
  let x := linkOf s l
  if x.replay.isEmpty then s
  else if 8 ≤ x.replays then
    raiseIrq (updLink (linkCount s l 6) l fun x => { x with up := false, training := true, replays := 0, trainAt := s.glb.time }) (32 + l) |> trainingItems l
  else
    let s := updLink (linkCount s l 5) l fun x => { x with replays := x.replays + 1, ackAt := s.glb.time }
    x.replay.foldl (fun s f => emitFlit (linkCount s l 0) l f) s

/-- What every arriving header carries (R388): ACK, NAK, and credits of queue CQ; the decoder may have corrected the flit (R397). -/
def takeHeader (s : State) (l : Nat) (f : Flit) : State :=
  let s := if f.corrected then linkCount s l 2 else s
  let s := acked s l f.ack.toNat
  let s := if f.cred = 0 then s else updQueue s l f.cq fun x => { x with credit := min (x.credit + f.cred.toNat) 65535 }
  if f.nak then replay s l else s

/-- A flit does not come as awaited: it is discarded, and the next header carries NAK once (R389). -/
def missFlit (s : State) (l : Nat) : State :=
  if (linkOf s l).skipping then s
  else
    updLink s l fun x => { x with skipping := true, nakDue := true }

/-- Queue `q` owes the far end `n` credits more (R390). -/
def returnCredits (s : State) (l q n : Nat) : State := settleLink (updQueue s l q fun x => { x with owe := x.owe + n }) l

/-- A DATA or QCFG flit: `f` acts when its SEQ is the one expected (R389). Then the link sends what it can. -/
def takeFlit (l : Nat) (x : Flit) (s : State) (f : State → State) : State :=
  if !(linkOf s l).up then s
  else
    let s := takeHeader s l x
    settleLink (if x.seq.toNat = (linkOf s l).rxSeq then
      f (updLink (linkCount s l 1) l fun y => { y with rxSeq := (y.rxSeq + 1) % 4096, skipping := false, ackDue := true })
    else missFlit s l) l

/-! ### Receiving: the window of a queue (R392) -/

/-- The checks of R151 on an access of the controller of link `l` to the window of a queue; check 5 passes while the image binds
the block to the step owner, by the queue itself (R178). -/
def queueCode (link : Link) (x : LQueue) (dest n : Nat) (write : Bool) (s : State) : Option Code :=
  let c := bits x.rx 34 14
  let k := coreOf s c
  let w := windowOf k (bits x.rx 52 4)
  let (sp, lo, len) := windowRange k w
  let off := fld dest 0 30
  match ownerOf s c with
  | none => some .window
  | some m => firstFail
      [(decide ((regionOf s (c / 256)).org.realm.map (·.val) = some link.realm), .window),
       (decide ((millOf s m).dstate = .opened) && decide ((millOf s m).st ≠ .fenced), .fenced),
       (w.opened && (if write then w.dir % 2 == 1 else w.dir / 2 == 1) && w.epoch == bits x.rx 56 8, .window),
       (decide (fld dest 30 4 = sp) && decide (lo ≤ off) && decide (off < lo + len), .window),
       (decide (off + n ≤ lo + len), .length), (!(write && w.accum), .format)]

/-- A write of the controller into the window; one that is not answered OK disables the queue (R394). -/
def queueWrite (s : State) (l q dest : Nat) (bs : List Byte) (ups : List Upset) : State × Bool :=
  let x := queueOf s l q
  match edgeWrite s (linkEdge l) (bits x.rx 34 14) (bits x.rx 52 4) dest .k bs (queueCode (linkOf s l) x dest bs.length true) ups with
  | (s, some _) => (disableQueue s l q, false)
  | (s, none) => (s, true)

/-- Does the destination of a queue withhold its credits, its step owner being in RESTART (R158, R188)? -/
def queueHeld (s : State) (x : LQueue) : Bool :=
  match ownerOf s (bits x.rx 34 14) with
  | some m => decide ((millOf s m).st = .restart)
  | none => false

/-- A whole message: it goes into slot count mod NSLOT with its length and its number (R392). -/
def deliver (s : State) (l q : Nat) (bs : List Byte) (ups : List Upset) : State :=
  let x := queueOf s l q
  let n := x.prod.toNat + x.toPublish
  let dest := bits x.rx 0 52 + 64 + n % x.nslot * (x.slotb * 64)
  match queueWrite s l q dest (leBytes 4 bs.length ++ leBytes 4 n ++ List.replicate 56 0 ++ bs) ups with
  | (s, false) => s
  | (s, true) => updQueue s l q fun x => { x with toPublish := x.toPublish + 1, held := x.held + 1 }

/-- The messages that waited for the destination's credits are written, in order. -/
def deliverHeld (s : State) (l q : Nat) (ups : List Upset) : State :=
  let ms := (queueOf s l q).inbox
  ms.foldl (fun s bs => if (queueOf s l q).en then deliver s l q bs ups else s) (updQueue s l q fun x => { x with inbox := [] })

/-- IDLE (R388). -/
def execIdle (link : Fin 8) (f : Flit) (s : State) : Outcome := .next (if (linkOf s link).up then settleLink (takeHeader s link f) link else s)

/-- DATA (R389, R390, R392): a flit of a message; one for a queue that is disabled or has no window (R394), that fits no message, or whose LEN
is none of R388's is discarded with a record (log entry 54). -/
def execData (link : Fin 8) (f : Flit) (ups : List Upset) (s : State) : Outcome :=
  .next (takeFlit link f s fun s =>
    let l := link.val
    let q := f.queue.val
    let x := queueOf s l q
    let part := if f.som then some [] else x.partialMsg
    if !x.en || decide (x.rx = 0) then linkRec s l .fenced
    else if f.len = 0 ∨ 240 < f.len.toNat then linkRec (updQueue s l q fun x => { x with partialMsg := none }) l .format
    else match part with
      | none => linkRec s l .protocol
      | some bs =>
        let bs := bs ++ slice f.payload 0 f.len.toNat
        if x.slotb * 64 - 64 < bs.length then linkRec (updQueue s l q fun x => { x with partialMsg := none }) l .protocol
        else if f.eom then
          let s := updQueue s l q fun x => { x with partialMsg := none }
          if queueHeld s x || !x.inbox.isEmpty then updQueue s l q fun x => { x with inbox := x.inbox ++ [bs] } else deliver s l q bs ups
        else updQueue s l q fun x => { x with partialMsg := some bs })

/-- QCFG (R388): what the far end advertises; a queue it disables has no credit left (DEDUCED, log entry 54). -/
def execQcfg (link : Fin 8) (f : Flit) (s : State) : Outcome :=
  .next (takeFlit link f s fun s => (List.range 16).foldl (fun s q =>
    let en := num f.payload (8 * q) 1 % 2 == 1
    updQueue s link q fun x =>
      { x with farEn := en, farSlotb := num f.payload (8 * q + 2) 2, credit := if en then x.credit else 0 }) s)

/-- FLIT_DISCARD (R389): the flit is uncorrectable or fails its CRC. -/
def execFlitDiscard (link : Fin 8) (why : BadFlit) (s : State) : Outcome :=
  .next (if !(linkOf s link).up then s
    else settleLink (missFlit (match why with
      | .uncorrectable => linkCount s link 3
      | .crc c => linkCount (if c then linkCount s link 2 else s) link 4) link) link)

/-- REPLAY_TIMER (R389): ACK has not advanced for 2 µs; an advance in the same cycle is taken. -/
def execReplayTimer (link : Fin 8) (advanced : Bool) (s : State) : Outcome :=
  .next (let x := linkOf s link
    if !x.up || x.replay.isEmpty then s
    else
      let s := advanceTo s (x.ackAt + 2000)
      if advanced then updLink (linkCount s link 7) link fun x => { x with ackAt := s.glb.time } else replay s link)

/-- RETRAIN_TIMEOUT (R389): 50 ms without success, and the link is LOST: the Flume writes waiting on it or in flight to it fail, and messages
under reception go (R392, R394). The receive domain changes to the root (R465). A first training that takes longer goes on: the manual gives it no end (log entry 54). -/
def execRetrainTimeout (link : Fin 8) (s : State) : Outcome :=
  .next (
    let l := link.val
    let x := linkOf s l
    if !x.training || x.fresh then s
    else
      let s := advanceTo s (x.trainAt + 50000000)
      let s := if x.localClk then s else countStop s
      let s := updLink s l fun x => { x with training := false, up := false, lost := true, localClk := true }
      let s := (List.range 16).foldl (fun s q => updQueue s l q fun x => { x with partialMsg := none }) s
      let s := raiseIrq (linkRec s l .lost) (32 + l)
      dropMessages s l ((x.queues.filter fun q => q.2.en).map (·.1)) true true .lost)

/-- TRAINING_COMPLETE (R387): the link carries flits, those first that waited: QCFG, the credits, the messages. The receive domain takes the
recovered clock again (R465; that a LOST link is one without signal is log entry 54). -/
def execTrainingComplete (link : Fin 8) (peer : BitVec 32) (s : State) : Outcome :=
  .next (
    let l := link.val
    let x := linkOf s l
    if !x.training then s
    else
      let s := if x.localClk then countStop s else s
      settleLink (raiseIrq (updLink s l fun x =>
        { x with training := false, up := true, localClk := false, peer := peer, fresh := false, ackAt := s.glb.time }) (32 + l)) l)

/-- PROD_UPDATE (R392): every RESPONSE of the oldest unpublished message is there, and the controller writes PROD. While the destination
withholds its credits nothing moves; then the messages that waited are written first (R158, R188). -/
def execProdUpdate (link : Fin 8) (q : Fin 16) (ups : List Upset) (s : State) : Outcome :=
  .next (
    if queueHeld s (queueOf s link q) then s else
    let s := deliverHeld s link q ups
    let x := queueOf s link q
    if !x.en || x.toPublish = 0 then s
    else match queueWrite s link q (bits x.rx 0 52) (leBytes 8 (x.prod + 1).toNat) ups with
      | (s, false) => s
      | (s, true) => updQueue s link q fun x => { x with prod := x.prod + 1, toPublish := x.toPublish - 1 })

/-- CONS_POLL (R392): the controller reads CONS and returns the slots freed. A refusal disables the queue as that of a write does
(DEDUCED, log entry 54), and while the destination withholds its credits the read waits. -/
def execConsPoll (link : Fin 8) (q : Fin 16) (ups : List Upset) (s : State) : Outcome :=
  .next (
    let x := queueOf s link q
    let c := bits x.rx 34 14
    let dest := bits x.rx 0 52 + 8
    if !x.en || decide (x.rx = 0) || queueHeld s x then s
    else match edgeRead s (linkEdge link) c (bits x.rx 52 4) dest 8 (queueCode (linkOf s link) x dest 8 false) ups with
      | (s, .error _) => disableQueue s link q
      | (s, .ok bs) =>
        let new : Word := BitVec.ofNat 64 (leNat bs)
        let n := min (new - x.cons).toNat x.held
        returnCredits (updQueue s link q fun x => { x with cons := new, held := x.held - n }) link q n)

/-! ### Registers (R393-R396) -/

/-- Is the aperture a multiple of 64 KiB inside the realm's allocation? -/
def apertureOwned (s : State) (l : Nat) (tx : Word) : Bool :=
  let base := bits tx 0 40
  let hi := base + bits tx 40 24 * 65536
  let rs := (realmOf s (linkOf s l).realm).ranges
  decide (base % 65536 = 0) && coveredBy rs (rs.length + 1) base hi

/-- The checks of R393. -/
def enableCode (s : State) (l : Nat) (x : LQueue) (w : Word) : Option Code :=
  let c := bits x.rx 34 14
  let k := coreOf s c
  let win := windowOf k (bits x.rx 52 4)
  let (sp, lo, len) := windowRange k win
  let nslot := bits w 8 16
  let slotb := bits w 24 16
  let owner := ownerOf s c
  let home := match leafOf s c with
    | none => false
    | some m => decide (bits x.rx 0 52 < 2 ^ 48) && decide ((millOf s m).cfg.realm = (linkOf s l).realm)
        && decide ((slotOf s (millOf s m).cfg.slot).st = .loaded) && owner.any fun o => !(millOf s o).cfg.flumes.isEmpty
  let none_ := decide (x.rx = 0)
  firstFail
    [((linkOf s l).realmValid, .state),
     (decide (1 ≤ nslot) && decide (nslot ≤ 65534) && decide (2 ≤ slotb) && decide (slotb ≤ 65534) && decide (bits w 1 7 = 0)
        && decide (bits w 40 24 = 0), .format),
     (none_ || home, .state),
     (none_ || (win.opened && decide (win.dir = 3) && !win.accum && decide (win.epoch = bits x.rx 56 8)
        && decide (bits x.rx 0 52 = coreAddr c sp lo) && owner.any fun o => beneath s win.src o || beneath s o win.src), .window),
     (none_ || decide (64 + nslot * slotb * 64 ≤ len), .length),
     (decide (bits x.tx 40 24 = 0) || apertureOwned s l x.tx, .length)]

/-- TLR_QCFG with EN = 1 (R393). A queue that is enabled already keeps its settings (DESIGN CHOICE, log entry 54). -/
def execTlrQcfgEnable (link : Fin 8) (q : Fin 16) (w : Word) (s : State) : Outcome :=
  .next (
    let l := link.val
    let x := queueOf s l q
    if !tlrOpen s l || x.en then s
    else match enableCode s l x w with
      | some code => logHost s code (tlrAddr l (0x100 + 0x20 * q.val)) none
      | none =>
        let n := bits w 8 16
        let s := updQueue s l q fun x =>
          { x with en := true, nslot := n, slotb := bits w 24 16, prod := 0, cons := 0, held := 0, toPublish := 0, partialMsg := none, inbox := []
                   owe := n }
        settleLink (updLink s l fun x => { x with cfgDue := true }) l)

/-- TLR_QCFG with EN = 0 (R394): NSLOT and SLOTB take what is written (R396). -/
def execTlrQcfgDisable (link : Fin 8) (q : Fin 16) (w : Word) (s : State) : Outcome :=
  .next (if tlrOpen s link then
    updQueue (disableQueue s link q) link q fun x => { x with nslot := bits w 8 16, slotb := bits w 24 16 }
  else s)

/-- What a link keeps of the far end and of its flits begins anew (log entry 54): no credit, nothing advertised, SEQ and ACK 0, an empty replay
buffer; the queues enabled here are advertised and their free slots returned. -/
def freshLink (s : State) (l : Nat) : State :=
  let s := (List.range 16).foldl (fun s q => updQueue s l q fun x =>
    { x with credit := 0, farEn := false, farSlotb := 0, owe := if x.en then x.nslot - x.held else 0 }) s
  updLink s l fun x =>
    { x with txSeq := 0, rxSeq := 0, replay := [], replays := 0, skipping := false, nakDue := false, ackDue := false
             cfgDue := x.queues.any fun q => q.2.en }

/-- TLR_CFG (R395). EN = 1 starts training; EN = 0 idles the transmitters, and the messages not yet sent are lost (log entry 54). -/
def execTlrCfg (link : Fin 8) (w : Word) (s : State) : Outcome :=
  .next (
    let l := link.val
    let x := linkOf s l
    let en := bit w 0
    let valid := bit w 1
    let realm := bits w 4 4
    let moved := valid != x.realmValid || realm != x.realm
    if !tlrOpen s l || (moved && x.queues.any fun q => q.2.en) || (valid && !(realmOf s realm).present) then s
    else
      let s := updLink s l fun x => { x with realmValid := valid, realm := realm }
      if en && !x.en then
        trainingItems l (updLink (freshLink s l) l fun x =>
          { x with en := true, training := true, fresh := true, lost := false, trainAt := s.glb.time })
      else if !en && x.en then
        let s := dropMessages s l (List.range 16) false false .lost
        let s := updLink (freshLink s l) l fun x => { x with en := false, training := false, up := false, lost := false, localClk := false }
        if x.up then raiseIrq s (32 + l) else s
      else s)

end Sys2Proof.Machine
end

