-- ==== Sys2Proof/Machine/Hopper.lean ====
section
/-!
DEFINITION. The Hopper's operations (07 R266-R276; 11 R431; 13 R510): loading an image, loading weights, unloading, and the tier 4
reload of shards.
-/
namespace Sys2Proof.Machine

/-! ### Host memory (R431) -/

/-- What a bus-master read comes to: bytes, a stop with a code, or no completion yet. -/
inductive DmaRes where
  | data (bs : List Byte) | stop (code : Code) | wait
deriving DecidableEq, Repr

/-- What an answer of host memory means. -/
def dmaRes : DmaAnswer → DmaRes
  | .data bs => .data bs
  | .unsupported => .stop .unsupported
  | .poisoned => .stop .ecc
  | .later => .wait

/-- A read starts: STATE while Bus Master Enable is 0. -/
def dmaRead (s : State) (a : DmaAnswer) : DmaRes := if s.glb.busMaster then dmaRes a else .stop .state

/-- A read stays outstanding. -/
def dmaWait (s : State) (j : DmaJob) : State := { s with glb := { s.glb with dma := s.glb.dma ++ [(s.glb.time, j)] } }

/-! ### Clearing the cores and regions of an image (R276) -/

/-- Steps 3 and 4 of R276 over cores and regions: memories from stack offset `lo` on, tables, A and K routes, windows of link queues. -/
def clearRegions (s : State) (cs gs : List Nat) (lo : Nat) : State :=
  let s := (queuesAt s cs.contains).foldl (fun s q => disableQueue s q.1 q.2) s
  let s := cs.foldl (fun s c => updCore (zeroCore s c lo) c fun k => { cnt := k.cnt, dead := k.dead }) s
  let s := { s with race := { s.race with
    incoming := s.race.incoming.filter fun i => !cs.contains i.core
    reloads := s.race.reloads.filter fun r => !(gs.contains r.src && (r.plane == .a || r.plane == .k)) } }
  gs.foldl (fun s g => updRegion s g fun x => { x with tok := {}, race := { x.race with
    routes := x.race.routes.filter fun p => decide (p.1 % 4 ≠ 0) && decide (p.1 % 4 ≠ 1) } }) s

/-- The mills of the image in slot `n`. -/
def slotMills (s : State) (n : Nat) : List Nat :=
  (s.mills.filter fun p => p.2.st ≠ .unused && p.2.cfg.slot = n).map (·.1)
/-- The step owners of the image in slot `n`. -/
def slotOwners (s : State) (n : Nat) : List Nat := (slotMills s n).filter fun m => (millOf s m).cfg.owner
/-- The cores of the image in slot `n`. -/
def slotCores (s : State) (n : Nat) : List Nat := sortNat ((slotMills s n).flatMap fun m => rectCores (millOf s m).cfg)
/-- The regions of the image in slot `n`. -/
def slotRegions (s : State) (n : Nat) : List Nat := setBits (slotOf s n).regions.toNat 64

/-- The rest of an unload once every step owner is fenced (R276): `lo` is the stack offset from which zeros are written. -/
def clearSlot (s : State) (n lo : Nat) : State :=
  let ms := slotMills s n
  let s := ms.foldl (fun s m => match serveOf s m with
    | some r => if r.role = 1 then s else endServing s m .fenced true
    | none => s) s
  let s := clearRegions s (slotCores s n) (slotRegions s n) lo
  let s := ms.foldl (fun s m => updPool (updBatch (updMill s m fun _ => {}) m fun _ => {}) m fun _ => {}) s
  updSlot s n fun _ => {}

/-- Is no step owner of slot `n` draining, and no access of its cores outstanding? -/
def slotQuiet (s : State) (n : Nat) : Bool :=
  (slotOwners s n).all (fun m => decide ((millOf s m).dstate ≠ .draining)) && settled s (slotCores s n)

/-- Fences every step owner of slot `n` (R276 step 1). -/
def fenceSlot (s : State) (n : Nat) : State := (slotOwners s n).foldl fenceOwner s

/-- An operation of the Hopper begins. -/
def hopStart (s : State) (op : HopOp) (n : Nat) : State :=
  { s with hop := { s.hop with op := op, slot := n, progress := 0, fetches := [] } }

/-- The UNLOAD in progress goes on when the drains are over (R276). -/
def goOnUnload (s : State) : State :=
  let n := s.hop.slot
  if s.hop.op = .unload && s.bst.shut ≠ .unloading && slotQuiet s n then
    let k := (slotRegions s n).length
    let s := clearSlot s n 0
    refresh (hopEnd { s with hop := { s.hop with progress := k } } .ok 0 0)
  else s

/-- UNLOAD starts: the code of its mailbox command, and the state. -/
def beginUnload (s : State) (n : Nat) : Code × State :=
  if s.hop.op ≠ .idle then (.busy, s)
  else if (slotOf s n).st ≠ .staged && (slotOf s n).st ≠ .loaded then (.state, s)
  else (.ok, goOnUnload (fenceSlot (hopStart s .unload n) n))

/-! ### Loading an image (R266-R271) -/

/-- The slot is FREE again and the load ends with a code. -/
def loadStop (s : State) (code : Code) (sect record : Nat) : State :=
  hopEnd (updSlot s s.hop.slot fun _ => {}) code sect record

/-- A retention entry that matches makes every STACK shard loaded, and is consumed (R476). -/
def useRetained (s : State) (n : Nat) : State :=
  let x := slotOf s n
  if s.hop.retain.any fun e => e.meas == x.meas && e.regions == x.regions then
    let s := { s with hop := { s.hop with retain := s.hop.retain.filter fun e => !(e.meas == x.meas && e.regions == x.regions) } }
    updSlot s n fun x => { x with loaded := ((shardsOf x.image).zipIdx.filter fun p => p.1.kind == 0).map (·.2) }
  else s

/-- The second pass (R269): the bytes must give the digest that the header names. All regions are written, then rolled back when
they do not (DESIGN CHOICE, log entry 55: the manual leaves open how far distribution is by then). -/
def loadSecond (s : State) (r : DmaRes) : State :=
  let n := s.hop.slot
  let img := (slotOf s n).image
  let k := (usedRegions img).length
  match r with
  | .wait => dmaWait s .image2
  | .stop code => loadStop s code 0 0
  | .data bs =>
    if slice img 88 64 == shake256 ((bs.take (signOff img)).drop 256) 64 then
      let s := useRetained (installImage s n img) n
      hopEnd { s with hop := { s.hop with progress := k } } .ok 0 0
    else
      let s := clearRegions s (imgCores (millRecs img)) (usedRegions img) 0
      loadStop { s with hop := { s.hop with progress := k } } .auth 0 0

/-- The first pass and the checks of R267. The bytes are those that host memory returns for the command's `len` bytes. -/
def loadFirst (s : State) (len : Nat) (r : DmaRes) (second : DmaAnswer) : State :=
  let n := s.hop.slot
  match r with
  | .wait => dmaWait s (.image1 len)
  | .stop code => loadStop s code 0 0
  | .data bs =>
    let img := bs.take len
    match checkImage s img len n with
    | some (code, sect, record) => loadStop s code sect record
    | none =>
      let s := updSlot s n fun _ => imgSlot img
      loadSecond s (dmaRead s second)

/-- The lowest FREE slot (R266). -/
def freeSlot (s : State) : Option Nat := (List.range 64).find? fun n => (slotOf s n).st = .free

/-- LOAD_IMAGE starts. -/
def beginLoad (s : State) (len : Nat) (first second : DmaAnswer) : Code × State :=
  if s.hop.op ≠ .idle then (.busy, s)
  else match freeSlot s with
    | none => (.capacity, s)
    | some n =>
      let s := updSlot (hopStart s .loadImage n) n fun _ => { st := .loading }
      let s := { s with hop := { s.hop with realms := s.realms } }
      (.ok, loadFirst s len (dmaRead s first) second)

/-! ### Loading weights (R273-R275, 10 R374) -/

/-- The loading stops with a code at manifest record `i`; what is loaded stays so (R274). -/
def weightsStop (s : State) (code : Code) (sect record : Nat) : State :=
  let s := { s with glb := { s.glb with dma := s.glb.dma.filter fun j => match j.2 with | .shard _ => false | _ => true } }
  hopEnd { s with hop := { s.hop with fetches := [] } } code sect record

/-- Ring index of a region (R17). -/
def ringOf (r : Nat) : Nat := min (min (r % 8) (7 - r % 8)) (min (r / 8) (7 - r / 8))

/-- Rank of a shard: STACK shards by the ring of their region, then SNOWPACK shards (DESIGN CHOICE, log entry 56: where the
manual places these is open), each in manifest order. -/
def shardRank (x : Shard) : Nat := if x.kind = 0 then ringOf (x.core / 256) else 4

/-- The record to obtain next. -/
def nextShard (x : Slot) : Option (Nat × Shard) :=
  let recs := (shardsOf x.image).zipIdx.filter fun p => p.1.size ≠ 0 && !x.loaded.contains p.2
  ((sortBy (fun a b => decide (shardRank a.1 < shardRank b.1)) recs).head?).map fun p => (p.2, p.1)

/-- Bytes that one FETCH asks for at most (R374). -/
def fetchMax : Nat := 1048576

/-- Sends FETCHes for a shard until 16 are outstanding or all of it is asked for; at most `n`. -/
def sendFetches (rec : Nat) (x : Shard) : Nat → State → State
  | 0, s => s
  | n + 1, s =>
    let mine := s.hop.fetches
    let off := mine.foldl (fun t f => t + f.len) 0
    let open_ := mine.countP fun f => decide (f.got.length < f.len)
    if x.size ≤ off ∨ 16 ≤ open_ then s
    else
      let len := min fetchMax (x.size - off)
      let xid := s.hop.nextXid
      let s := { s with hop := { s.hop with fetches := mine ++ [{ xid := xid, index := rec, off := off, len := len, since := s.glb.time }], nextXid := (xid + 1) % 2 ^ 32 } }
      sendFetches rec x n (gmlSend s (slotOf s s.hop.slot).session 0x20 0
        (leBytes 4 xid ++ leBytes 4 len ++ leBytes 8 off ++ slice x.id 0 16))

/-- May the session of the command serve FETCHes (R374)? -/
def fetchSession (s : State) (n : Nat) : Bool :=
  match sessionOf s (slotOf s n).session with
  | some x => decide (x.role = 1) && decide (x.realm = (slotOf s n).realm) && x.closing.isNone && x.ending.isNone
  | none => false

/-- Zeros over the bytes below the boundary that no STACK shard covers (R275 step 1). -/
def zeroGaps (s : State) (img : List Byte) (c : Nat) : State :=
  let hi := boundaryIn img c * 65536
  let mine := sortBy (fun (a b : Nat × Nat) => decide (a.1 < b.1))
    (((shardsOf img).filter fun x => x.kind == 0 && x.core == c && x.size != 0).map fun x => (x.off, x.size))
  let zero := fun (s : State) (a b : Nat) =>
    let s := zeroBytes s (coreAddr c 0 a) (b - a)
    { s with poison := s.poison.filter fun p => !(decide (coreAddr c 0 a ≤ p) && decide (p < coreAddr c 0 b)) }
  let (s, last) := mine.foldl (fun (st : State × Nat) r => (zero st.1 st.2 r.1, r.1 + r.2)) (s, 0)
  zero s last hi

/-- The extent of a stored tensor with its stored FMT (R275). -/
def storedExtent (s : State) (b : List Byte) : Nat × Nat :=
  let off := num b 4 4 * 16
  let hd := readBytes s (coreAddr (num b 0 2) 0 off) 16
  (off, tensorBytes (num b 8 4) (num b 12 4) hd)

/-- The checks of R275 step 2 on record `i` of SPILL, with the CAP of R258; an overlap counts against the later record of two (log
entry 74). -/
def storedOk (s : State) (img : List Byte) (recs : List (List Byte)) (i : Nat) (b : List Byte) : Bool :=
  let c := num b 0 2
  let x := storedExtent s b
  let t := tensAt s { space := 0, off := x.1, addr := coreAddr c 0 x.1, left := x.2 } (num b 8 4) (num b 12 4)
  decide (t.fmt ≤ 4) && !t.repl && tscaleOk t.ts && t.cap == num b 16 2 && decide (x.1 + x.2 ≤ boundaryIn img c * 65536)
    && (recs.zipIdx.all fun y => decide (i ≤ y.2) || num y.1 0 2 != c || !touch (storedExtent s y.1) x)
    && (List.range t.rows).all fun row =>
      (List.range t.kblk).all (fun j => (t.scale s row j).isSome
        && (List.range 32).all fun e => (elemTwice t.fmt (elemCode s t.fmt (t.block row j) e)).isSome)
      && match t.sideRow s row with
        | .ok r => !r.replay && (match t.entries s row r.count with | .ok _ => true | .error _ => false)
        | .error _ => false

/-- Every shard is loaded: the zeros, the checks, and the slot LOADED (R275). -/
def finishWeights (s : State) : State :=
  let n := s.hop.slot
  let img := (slotOf s n).image
  let s := (imgCores (millRecs img)).foldl (fun s c => zeroGaps s img c) s
  let recs := records (sectBody img 8) 32
  match recs.zipIdx.find? fun p => !storedOk s img recs p.2 p.1 with
  | some p => weightsStop s .format 8 p.2
  | none => slotLoaded (weightsStop s .ok 0 0) n

/-- Asks for the next shard, or finishes. A shard whose source the command does not name stops it with STATE (DESIGN CHOICE, log
entry 56). -/
def goOnWeights (s : State) : State :=
  let n := s.hop.slot
  match nextShard (slotOf s n) with
  | none => finishWeights s
  | some (i, x) =>
    if x.source = 1 then
      if s.hop.hostAddr = 0 || !s.glb.busMaster then weightsStop s .state 0xC i else dmaWait s (.shard i)
    else if fetchSession s n then sendFetches i x 17 { s with hop := { s.hop with fetches := [] } }
    else weightsStop s .state 0xC i

/-- LOAD_WEIGHTS starts. -/
def beginWeights (s : State) (n : Nat) (session : BitVec 32) (addr : Nat) : Code × State :=
  if s.hop.op ≠ .idle then (.busy, s)
  else if (slotOf s n).st ≠ .staged then (.state, s)
  else
    let s := updSlot (hopStart s .loadWeights n) n fun x => { x with session := session, retried := [] }
    (.ok, goOnWeights { s with hop := { s.hop with hostAddr := addr } })

/-- Writes a shard (R273 step 3). Of a SNOWPACK shard the bytes in an enabled aperture stay unwritten (R393), and Snowpack refuses it as it
refuses any access to a zone that is being zeroed, or to a stack out of service (R401, R413). -/
def writeShard (s : State) (x : Shard) (bs : List Byte) : Except Code State :=
  if x.kind = 0 then .ok (storeBytes s (coreAddr x.core 0 x.off) bs)
  else match snowShut s x.off bs.length with
    | some code => .error code
    | none => .ok ((outsideApertures s x.off bs.length).foldl (fun s r =>
        snowWritten (writeBytes (countSnow s 1 r.1 r.2) (snowAddr r.1) (slice bs (r.1 - x.off) r.2)) r.1 r.2) s)

/-- The bytes of record `i` are there: digest, write, mark; a first mismatch obtains them again (R273, R274). -/
def shardIn (s : State) (i : Nat) (bs : List Byte) : State :=
  let n := s.hop.slot
  let x := slotOf s n
  match (shardsOf x.image)[i]? with
  | none => s
  | some sh =>
    if bs.length = sh.size && shake256 bs 64 == sh.digest then
      match writeShard s sh bs with
      | .error code => weightsStop (countRefused s sh.off sh.size) code 0xC i
      | .ok s =>
        let s := updSlot s n fun x => { x with loaded := insertNat i x.loaded }
        goOnWeights { s with hop := { s.hop with progress := s.hop.progress + 1, fetches := [] } }
    else if x.retried.contains i then weightsStop s .auth 0xC i
    else goOnWeights (updSlot s n fun x => { x with retried := x.retried ++ [i] })

/-- SHARD_OBTAINED (R273): the DMA of a HOST shard delivers its bytes. A FETCH shard is obtained by its last FETCH reply. -/
def execShardObtained (rec : Nat) (bytes : List Byte) (s : State) : Outcome :=
  .next (if s.glb.dma.any (·.2 == .shard rec) then
      shardIn { s with glb := { s.glb with dma := s.glb.dma.filter (·.2 ≠ .shard rec) } } rec bytes
    else s)

/-! ### Tier 4: reloading shards (R510) -/

/-- Does `a` lie on the stack of a logical core of the row of core `c`, in its column or east of it? -/
def onMovedStack (c a : Nat) : Bool :=
  decide (a < 2 ^ 51) && decide (fld a 30 4 = 0) && decide (fld a 34 14 / 16 = c / 16) && decide (c ≤ fld a 34 14)

/-- Where the byte at `a` of such a stack stands once logical core `c` and those east of it read the next stack: one column to the west, if
below the boundary there; each KV partition is written with zeros (R21, R510 step 2). -/
def stackAfterShift (s : State) (c a : Nat) : Option Nat :=
  let k := fld a 34 14
  if c < k ∧ fld a 0 30 < (coreOf s (k - 1)).boundary * 65536 then some (a - 2 ^ 34) else none

/-- Logical core `c` and those east of it in its row read the next stack. -/
def moveStacks (s : State) (c : Nat) : State :=
  let here := s.mem.filter fun p => onMovedStack c p.1
  let move := fun (as : List Nat) => as.filterMap fun a => if onMovedStack c a then stackAfterShift s c a else some a
  let s' := (s.hop.slots.filter fun p => !p.2.badBursts.isEmpty).foldl (fun s p => updSlot s p.1 fun x => { x with badBursts := move x.badBursts }) s
  let s' := updRegion s' (c / 256) fun r => { r with mem := { r.mem with
    writeBacks := move r.mem.writeBacks
    ueSeen := r.mem.ueSeen.filterMap fun p => ((move [p.1]).head?).map fun a => (a, p.2)
    ceSeen := r.mem.ceSeen.filterMap fun p => ((move [p.1]).head?).map fun a => (a, p.2) } }
  { s' with
    mem := (here.filterMap fun p => (stackAfterShift s c p.1).map fun a => (a, p.2)).foldl (fun m p => Memory.put m p.1 [p.2])
      (s.mem.filter fun p => !onMovedStack c p.1)
    poison := move s.poison }

/-- A dead stack of logical core `c`: the row shifts with STACK = 1, or is dropped; the logical cores whose stacks moved, after those of `before`, which
a row that is dropped leads on to their next names. -/
def shiftStack (s : State) (before : List Nat) (c : Nat) : List Nat × State :=
  let g := c / 256
  let x := (regionOf s g).org
  let p := physRow x (c / 16 % 16)
  let w := rowOf x p
  let d := c % 16
  let note := fun (s : State) (code : Code) (col : Nat) =>
    addMoraine (logRec s { code := code, cls := .tier, origin := .miller, phys := true, region := some g, row := some p
                           col := some col, syndrome := col + 32 }) { kind := 2, source := 1, region := g, row := p, col := col }
  if w.defect then
    (if x.shape = .full then before.filterMap (coreAfterDrop g (c / 16 % 16)) else before, dropRow (note s .capacity (stackCol w d)) g p)
  else
    let moved := (List.range 16).filterMap fun i => if d ≤ i then some (c / 16 * 16 + i) else none
    (before ++ moved, moveStacks (takeOut (note s .ok d) g p d true) c)

/-- The rows of the dead stacks of slot `n` are repaired one after the other (R510 step 2), at most `k`. -/
def shiftStacks : Nat → State → Nat → List Nat → List Nat × State
  | 0, s, _, moved => (moved, s)
  | k + 1, s, n, moved =>
    match (slotOf s n).deadStacks with
    | [] => (moved, s)
    | c :: cs =>
      let (moved, s) := shiftStack (updSlot s n fun x => { x with deadStacks := cs }) moved c
      shiftStacks k s n moved

/-- The rows of dead stacks that no image waits for are repaired (R509, R510). -/
def goOnStacks (s : State) : State :=
  if !(s.glb.fw && isUp s) then s
  else (s.regions.filter fun p => !p.2.org.deadStacks.isEmpty).foldl (fun s p =>
    p.2.org.deadStacks.head?.elim s fun c =>
      (shiftStack (updRegion s p.1 fun x => { x with org := { x.org with deadStacks := x.org.deadStacks.tail } }) [] c).2) s

/-- Does the record's shard lie on the stack of a moved core, or have bytes in the DRAM row of a burst that cannot be read? -/
def shardGone (moved bursts : List Nat) (x : Shard) : Bool :=
  x.kind == 0 && (moved.contains x.core || bursts.any fun b => fld b 34 14 == x.core &&
    (touch (b, 64) (coreAddr x.core 0 x.off, x.size)
      || (List.range ((x.off % 64 + x.size + 63) / 64)).any fun i => sameRow b (coreAddr x.core 0 (x.off / 64 * 64 + 64 * i))))

/-- The prefix entries of serving mill `m` are EMPTY and its pages free (R510 step 4). -/
def emptyPool (s : State) (m : Nat) : State :=
  let s := (reqsOf s m).foldl (fun s q => if (reqOf s q).endPark && (reqOf s q).st.terminal then letGo s q else s) s
  let s := (List.range (poolOf s m).pfxent).foldl (fun s i =>
    writePfx s m i { hash := [], page := 0, parent := 0, refs := 0, valid := false, lastuse := 0 }) s
  updPool s m fun p => { p with used := [], reserved := 0 }

/-- The step owners of slot `n`, no serving mills and not failed themselves, whose step in progress a shift of the rows of these dead
stacks stops (R36): it starts again once the slot is LOADED. The batch of a serving mill ends instead, with its requests (R510 step 1). That
R36 and R510 are met in this way is the model's choice (log entry 81). -/
def shiftedOwners (s : State) (n : Nat) (dead : List Nat) : List Nat :=
  let shifts := dead.filter fun c => let x := (regionOf s (c / 256)).org; !(rowOf x (physRow x (c / 16 % 16))).defect
  (slotOwners s n).filter fun m =>
    let k := millOf s m
    k.inStep && decide (k.tier ≠ 4) && decide (k.dstate = .opened) && (serveOf s m).isNone
      && (coresOf s m).any fun c => shifts.any fun d => d / 16 == c / 16

/-- SHARD_RELOAD (R510): tier 4 for a slot with a dead stack or a weight burst that cannot be read. Every mill of the image is fenced and its
requests end, as R510 step 1 has it, where R36 speaks of a stop and a restart of the other owners of the row (log entry 81). -/
def execShardReload (slot : Fin 64) (s : State) : Outcome :=
  .next (
    let n := slot.val
    let x := slotOf s n
    if (x.deadStacks.isEmpty && x.badBursts.isEmpty) || (x.st ≠ .loaded && x.st ≠ .staged) || s.hop.op ≠ .idle then s
    else
      let begun := (slotOwners s n).filter fun m => (millOf s m).tier = 4
      let begun := if begun.isEmpty then (slotOwners s n).take 1 else begun
      let again := (shiftedOwners s n x.deadStacks).filter (!begun.contains ·)
      let s := stageSlot s n
      let (moved, s) := shiftStacks x.deadStacks.length s n []
      let bad := (slotOf s n).badBursts
      let s := bad.foldl retireRow s
      let gone := ((shardsOf x.image).zipIdx.filter fun p => shardGone moved bad p.1).map (·.2)
      let s := updSlot s n fun y =>
        { y with loaded := y.loaded.filter (!gone.contains ·), deadStacks := [], badBursts := [], reloading := begun, resume := again }
      let s := ((slotMills s n).filter fun m => (serveOf s m).isSome).foldl emptyPool s
      let fetchOnly := gone.all fun i => match (shardsOf x.image)[i]? with | some sh => sh.source == 0 | none => true
      if fetchOnly && (sessionOf s x.session).isSome then (beginWeights s n x.session 0).2 else s)

end Sys2Proof.Machine
end

