-- ==== Sys2Proof/Machine/Serve.lean ====
section
/-!
DEFINITION. What a Millpond unit does with the commands that reach it in order (08 R288, R299, R309-R312; 10 R370-R374): SUBMIT, CANCEL,
PARK, RESUME, STATUS and the replies to FETCH.
-/
namespace Sys2Proof.Machine

/-- The unit of session `n`, by its port (R352). -/
def unitOfSession (x : Session) : Nat := x.port / 4

/-- An ERROR that refuses a command; BUSY and CAPACITY are counted (R316, R375). -/
def refuse (s : State) (x : Session) (code : Code) (rtype offset : Nat) (rseq : BitVec 32) (key : Nat) : State :=
  let s := gmlError s x.id code rtype offset rseq key
  if code = .busy then mpdCount s (unitOfSession x) 1 1 else if code = .capacity then mpdCount s (unitOfSession x) 2 1 else s

/-- The first failing check: its code and the offset of its field. -/
def firstWrong : List (Bool × Code × Nat) → Option (Code × Nat)
  | [] => none
  | (good, c, o) :: rest => if good then firstWrong rest else some (c, o)

/-- `n` token IDs at `off` of a body. -/
def tokensIn (b : List Byte) (off n : Nat) : List (BitVec 32) := (List.range n).map fun i => BitVec.ofNat 32 (num b (off + 4 * i) 4)

/-! ### SUBMIT (R288) -/

/-- The serving mill of a class and its state, as rows 1 to 5 of R288 see them. -/
def submitMill (s : State) (img cls : Nat) : Nat := match classOf s img cls with | some k => k.serveMill | none => 0

/-- Rows 1 to 5 of R288, and the pool of R286. -/
def submitRows5 (s : State) (x : Session) (img cls : Nat) : Option (Code × Nat) :=
  let m := submitMill s img cls
  let st := millState s m
  firstWrong
    [(decide (img < 64) && decide ((slotOf s img).st = .loaded) && (slotOf s img).realm == x.realm, .state, 32),
     ((classOf s img cls).isSome, .format, 33),
     ((match serveOf s m with | some r => r.unit == unitOfSession x | none => false), .unsupported, 33),
     (decide (st ≠ .fenced) && decide (st ≠ .failed), .fenced, 0),
     (decide (st ≠ .halted), .halted, 0),
     (decide ((poolOf s m).pages ≠ 0) && decide ((poolOf s m).vocab ≠ 0), .state, 0)]

/-- Rows 6 and 7 of R288: counts, tokens, sampling parameters, deadline. -/
def submitRows7 (s : State) (m maxlen total p g : Nat) (toks : List (BitVec 32)) (temp topk deadline : Nat) : Option (Code × Nat) :=
  firstWrong
    [(decide (p ≠ 0xFFFFFFFF), .length, 72), (decide (g ≠ 0xFFFFFFFF), .length, 76), (decide (total ≤ maxlen), .length, 0),
     (toks.all fun t => decide (t.toNat < (poolOf s m).vocab), .format, 0), ((tempMag temp).isSome, .format, 36),
     (decide (topk ≤ 256), .format, 38), (decide (s.glb.time ≤ deadline), .deadline, 48)]

/-- The lowest FREE entry of unit `u`. -/
def freeEntry (s : State) (u : Nat) : Option Nat :=
  ((List.range 8192).map fun i => u * 8192 + i).find? fun q => (reqOf s q).st = .free

/-- The completion record of a SUBMIT that takes no entry (R288, R372). -/
def doneAtOnce (s : State) (x : Session) (tag p : Nat) : State :=
  gmlSend s x.id 0x11 0 (leBytes 8 tag ++ leBytes 2 0xFFFF ++ [1, 0] ++ leBytes 4 0 ++ leBytes 4 p ++ leBytes 4 0
    ++ [BitVec.ofNat 8 (ReqSt.num .done), 0, 0, 0] ++ leBytes 4 (p + 0xFFFFFFFF) ++ leBytes 8 0)

/-- The whole SUBMIT has arrived (R288, R371): `b` is the fixed part of its first message. -/
def submitIn (s : State) (x : Session) (rseq : BitVec 32) (b : List Byte) (toks : List (BitVec 32)) : State :=
  let img := num b 0 1
  let cls := num b 1 1
  let tag := num b 32 8
  let p := num b 40 4
  let g := num b 44 4
  let m := submitMill s img cls
  let no := fun (e : Code × Nat) => refuse s x e.1 0x10 e.2 rseq tag
  match classOf s img cls, submitRows5 s x img cls with
  | some k, none =>
    if p = 0 ∨ g = 0 then doneAtOnce s x tag p
    else match submitRows7 s m k.maxlen (p + g) p g toks (num b 4 2) (num b 6 2) (num b 16 8) with
      | some e => no e
      | none =>
        match freeEntry s (unitOfSession x) with
        | none => no (if k.onfull = 2 then .capacity else .busy, 0)
        | some q =>
          let s := updReq s q fun _ =>
            { st := .admitted, realm := x.realm, prio := k.prio, cls := cls, img := img, mill := m, deadline := num b 16 8, enq := s.glb.time
              maxlen := p + g, sublen := p, session := x.id, outcur := p, seed := BitVec.ofNat 64 (num b 24 8), greedy := (num b 2 1).testBit 0
              temp := BitVec.ofNat 16 (num b 4 2), topk := BitVec.ofNat 16 (num b 6 2), topp := BitVec.ofNat 16 (num b 8 2)
              stop := tokensIn b 48 4, tag := BitVec.ofNat 64 tag, tokens := toks, lookup := true, firstLen := p, rseq := rseq }
          let s := admitDraft (mpdCount s (unitOfSession x) 0 1) q
          gmlSend s x.id 0x10 1 (leBytes 8 tag ++ leBytes 2 q ++ List.replicate 6 0)
  | _, some e => no e
  | none, none => no (.format, 33)

/-! ### CANCEL, PARK (R299, R309) -/

/-- Does session `x` own request `q`? -/
def owns (s : State) (x : Session) (q : Nat) : Bool :=
  decide (q < 32768) && decide ((reqOf s q).st ≠ .free) && (reqOf s q).session == x.id

/-- CANCEL (R299). -/
def cancelIn (s : State) (x : Session) (rseq : BitVec 32) (b : List Byte) : State :=
  let q := num b 0 2
  if !owns s x q || (reqOf s q).st.terminal then refuse s x .state 0x12 32 rseq q
  else match (reqOf s q).st with
    | .parked => endReq (updReq (releasePark s q) q fun y => { y with finalSeq := none, endPark := false }) q .cancelled .ok false
    | .admitted => endReq s q .cancelled .ok false
    | _ => updReq s q fun y => { y with cancel := true, cancelAtPark := y.cancelAtPark || (y.park && !y.cancel) }

/-- PARK (R309-R311). Before its restore step a request holds no pages: space is taken once that step has retired (DESIGN CHOICE, log
entry 68). -/
def parkIn (s : State) (x : Session) (rseq : BitVec 32) (b : List Byte) : State :=
  let q := num b 0 2
  let r := reqOf s q
  if !owns s x q || decide (r.st ≠ .decode) || r.park then refuse s x .state 0x13 32 rseq q
  else
    let ttl := if (num b 2 1).testBit 0 then num b 4 4 else match classOf s r.img r.cls with | some k => k.ttl | none => 0
    if ttl = 0xFFFFFFFF then refuse s x .length 0x13 36 rseq q
    else if r.restore then updReq s q fun y => { y with park := true, ttl := ttl, rseq := rseq }
    else match startPark s q ttl with
      | some s => s
      | none => refuse s x .capacity 0x13 0 rseq q

/-! ### RESUME (R312) -/

/-- May the request be resumed by this session: PARKED, of its realm and unit, and not being resumed already? -/
def resumable (s : State) (x : Session) (q : Nat) : Bool :=
  let r := reqOf s q
  decide (q < 32768) && decide (r.st = .parked) && r.realm == x.realm && unitOfReq q == unitOfSession x && !r.restore

/-- The request as the RESUME leaves it: appended tokens, MAXLEN, and what is new. Committed tokens that no message has carried yet are still
sent, the appended ones never (R307). -/
def resumed (r : Req) (x : Session) (rseq : BitVec 32) (b : List Byte) (toks : List (BitVec 32)) (maxlen : Nat) : Req :=
  { r with tokens := r.tokens ++ toks, sublen := r.sublen + toks.length, maxlen := maxlen
           skips := if toks.isEmpty then r.skips else r.skips ++ [(r.tokens.length, toks.length)]
           deadline := if (num b 2 1).testBit 0 then num b 16 8 else r.deadline
           seed := if (num b 2 1).testBit 1 then BitVec.ofNat 64 (num b 24 8) else r.seed
           session := x.id, rseq := rseq, code := .ok, endPark := false, finalSeq := none, cancel := false, cancelAtPark := false }

/-- The whole RESUME has arrived (R312). The positions of a summary count against MAXLEN (DEDUCED, log entry 68). -/
def resumeIn (s : State) (x : Session) (rseq : BitVec 32) (b : List Byte) (toks : List (BitVec 32)) : State :=
  let q := num b 0 2
  let na := num b 4 4
  let g := num b 8 4
  let no := fun (e : Code × Nat) => refuse s x e.1 0x14 e.2 rseq q
  if !resumable s x q then no (.state, 32)
  else
    let r := reqOf s q
    let maxlen := r.curlen + na + g
    let deadline := if (num b 2 1).testBit 0 then num b 16 8 else r.deadline
    match classOf s r.img r.cls, submitRows5 s x r.img r.cls with
    | some k, none =>
      match submitRows7 s r.mill k.maxlen maxlen na g toks 0 0 deadline with
      | some e => no (e.1, if e.2 = 72 then 36 else if e.2 = 76 then 40 else e.2)
      | none =>
        let yes := fun (s : State) => flush (gmlSend s x.id 0x14 1 (leBytes 2 q ++ List.replicate 6 0)) q
        let s' := updReq s q fun r => resumed r x rseq b toks maxlen
        if (poolOf s r.mill).pages < pagesFor maxlen then no (.capacity, 0)
        else match resumeFits s' q with
          | (true, s'') => yes s''
          | (false, s'') =>
            if k.onfull = 0 then yes (updReq s'' q fun y => { y with restore := true })
            else
              -- the request stays as it was, PARKED
              refuse (updReq s'' q fun _ => r) x (if k.onfull = 1 then .busy else .capacity) 0x14 0 rseq q
    | _, some e => no (e.1, 0)
    | none, none => no (.state, 32)

/-! ### STATUS (R373) -/

/-- The violations of the window that is open, and the ms of quarantine that remain. -/
def quarLeft (s : State) (x : Session) : Nat := match x.quarUntil with | some t => (t - s.glb.time + 999999) / 1000000 | none => 0

/-- STATUS. -/
def statusIn (s : State) (x : Session) (b : List Byte) : State :=
  let q := num b 2 2
  let r := reqOf s q
  let (code, data) : Nat × List Byte :=
    match num b 0 1 with
    | 0 => (0, leBytes 8 s.glb.time ++ [BitVec.ofNat 8 s.glb.st.num, BitVec.ofNat 8 (grade s), if Config.steppingB0 then 2 else 1])
    | 1 =>
      if owns s x q then
        (0, [BitVec.ofNat 8 r.st.num, BitVec.ofNat 8 r.code.num, 0, 0] ++ leBytes 4 r.curlen ++ leBytes 4 r.outcur ++ leBytes 4 r.maxlen
          ++ leBytes 8 r.parkexp)
      else (Code.num .state, [])
    | _ => (0, leBytes 4 x.txSeq.toNat ++ leBytes 4 x.unacked.length ++ leBytes 4 x.viol ++ leBytes 4 (quarLeft s x))
  gmlSend s x.id 0x15 1 ([BitVec.ofNat 8 (num b 0 1), BitVec.ofNat 8 code] ++ leBytes 2 q ++ leBytes 4 (num b 4 4) ++ slice data 0 32)

/-! ### Multi-message commands (R370, R371) -/

/-- Tokens that the staging area of a unit holds: 16 MiB. -/
def stagingMax : Nat := 4194304

/-- Tokens staged or promised on unit `u`. -/
def stagedOn (s : State) (u : Nat) : Nat :=
  s.sluice.sessions.foldl (fun n y => match y.staged with
    | some t => if unitOfSession y = u && !t.refused then n + t.total else n
    | none => n) 0

/-- Changes the pending command of a session. -/
def setStaged (s : State) (x : Session) (t : Option Staged) : State := updSession s x.id fun y => { y with staged := t }

/-- The last message of a command has arrived. -/
def commandIn (s : State) (x : Session) (rseq : BitVec 32) (t : Staged) : State :=
  if t.isResume then resumeIn s x rseq t.fixed t.tokens else submitIn s x rseq t.fixed t.tokens

/-- The first message of a SUBMIT or RESUME: BUSY during a shut-down (R519), then the staging check. -/
def firstMessage (s : State) (x : Session) (rseq : BitVec 32) (isResume more : Bool) (b : List Byte) : State :=
  let fixed := if isResume then 32 else 64
  let total := if isResume then num b 4 4 else num b 40 4
  let nt := num b 12 4
  let key := if isResume then num b 0 2 else num b 32 8
  let t : Staged :=
    { key := BitVec.ofNat 64 key, isResume := isResume, fixed := b.take fixed, tokens := tokensIn b fixed nt, total := total, refused := false }
  let bad : Option Code := if s.bst.shut ≠ .none then some .busy else if stagingMax < total then some .length
    else if stagingMax < stagedOn s (unitOfSession x) + total then some .busy else none
  match bad with
  | some code =>
    let s := refuse s x code (if isResume then 0x14 else 0x10) (if code = .length then (if isResume then 36 else 72) else 0) rseq key
    if more then setStaged s x (some { t with tokens := [], refused := true }) else s
  | none => if more then setStaged s x (some t) else commandIn s x rseq t

/-- A continuation: `t` is the command pending. -/
def nextMessage (s : State) (x : Session) (rseq : BitVec 32) (more : Bool) (t : Staged) (b : List Byte) : State :=
  let t' := if t.refused then t else { t with tokens := t.tokens ++ tokensIn b 16 (num b 8 4) }
  if more then setStaged s x (some t')
  else
    let s := setStaged s x none
    if t.refused then s else commandIn s x rseq t'

/-! ### Replies to FETCH (R374) -/

/-- All FETCHes of the shard are answered in full: the shard is there; else more are sent. -/
def fetchGoesOn (s : State) (i : Nat) : State :=
  match (shardsOf (slotOf s s.hop.slot).image)[i]? with
  | none => s
  | some sh =>
    let f := s.hop.fetches
    if f.all (fun y => decide (y.got.length = y.len)) && decide (f.foldl (fun t y => t + y.len) 0 = sh.size) then
      shardIn s i (f.flatMap (·.got))
    else sendFetches i sh 17 s

/-- A reply to a FETCH. One that names no FETCH outstanding on this session is refused with STATE (DESIGN CHOICE, log entry 67). -/
def fetchIn (s : State) (x : Session) (rseq : BitVec 32) (b : List Byte) : State :=
  let xid := num b 0 4
  let mine := decide (s.hop.op = .loadWeights) && (slotOf s s.hop.slot).session == x.id
  match s.hop.fetches.find? fun y => y.xid == xid && decide (y.got.length < y.len) with
  | none => refuse s x .state 0x20 32 rseq 0
  | some f =>
    if !mine then refuse s x .state 0x20 32 rseq 0
    else if num b 4 1 ≠ 0 then weightsStop s ((Code.ofNum (num b 4 1)).getD .protocol) 0xC f.index
    else if num b 8 8 ≠ f.off + f.got.length ∨ f.len < f.got.length + num b 16 4 then weightsStop s .protocol 0xC f.index
    else
      let f := { f with got := f.got ++ slice b 24 (num b 16 4), since := s.glb.time }
      fetchGoesOn { s with hop := { s.hop with fetches := s.hop.fetches.map fun y => if y.xid = xid then f else y } } f.index

end Sys2Proof.Machine
end

