-- ==== Sys2Proof/Machine/Gml.lean ====
section
/-!
DEFINITION. GML on the Sluice ports (10 R352-R381): frames and their checks, sessions, reliable delivery, violations and quarantine, and
the timers of sessions.
-/
namespace Sys2Proof.Machine

/-! ### Acknowledgements and retransmission (R365-R369) -/

/-- Is sequence number `a` before `b`, modulo 2^32 and within 2^31? -/
def seqBefore (a b : BitVec 32) : Bool := decide (0 < (b - a).toNat) && decide ((b - a).toNat ≤ 2 ^ 31)

/-- Messages that wait for the window leave, as far as it allows; at most `n`. A CLOSE that answers the partner's ends the session (R364). -/
def sendWaiting : Nat → State → BitVec 32 → State
  | 0, s, _ => s
  | k + 1, s, n =>
    match sessionOf s n with
    | none => s
    | some x =>
      match x.waiting with
      | [] => s
      | m :: ms =>
        if 64 ≤ x.unacked.length then s
        else
          let s := gmlSend (updSession s n fun y => { y with waiting := ms }) n m.type m.flags m.body
          if m.type = 2 && m.flags % 2 = 1 then endSession s n (x.ending.getD .ok) else sendWaiting k s n

/-- The requests of session `n`. -/
def sessionReqs (s : State) (n : BitVec 32) : List Nat := (s.pond.reqs.filter fun p => p.2.st ≠ .free && p.2.session == n).map (·.1)

/-- The partner has every message before `ack` (R366, R367): they are let go, the completion records among them free their entries (R372,
R284), and what waited leaves. -/
def takeAck (s : State) (n : BitVec 32) (ack : BitVec 32) : State :=
  match sessionOf s n with
  | none => s
  | some x =>
    let gone := x.unacked.filter fun m => seqBefore m.seq ack
    if gone.isEmpty then s
    else
      let s := updSession s n fun y => { y with unacked := y.unacked.filter fun m => !seqBefore m.seq ack }
      let s := (sessionReqs s n).foldl (fun s q =>
        let r := reqOf s q
        if r.st.terminal && gone.any fun m => r.finalSeq == some m.seq then freeReq s q else s) s
      let s := sendWaiting 64 s n
      (sessionReqs s n).foldl flush s

/-- Sends a message again (R367). -/
def resend (s : State) (n : BitVec 32) (m : TxMsg) : State :=
  match sessionOf s n with
  | none => s
  | some x =>
    let s := updSession s n fun y => { y with unacked := y.unacked.map fun k =>
      if k.seq == m.seq then { k with sent := k.sent + 1, due := s.glb.time + rtoOf s x.port, retry := retryOf s x.port } else k }
    portCount (emitGml s x m.type (m.flags + 8) m.seq m.body) x.port 9

/-- A NAK reports a gap (R367): every message from ACK up to the highest set bit of SACK whose bit is clear. -/
def takeNak (s : State) (n : BitVec 32) (ack : BitVec 32) (sack : Nat) : State :=
  match sessionOf s n with
  | none => s
  | some x =>
    if sack = 0 then s
    else (x.unacked.filter fun m =>
      let d := (m.seq - ack).toNat
      decide (d ≤ Nat.log2 sack + 1) && (decide (d = 0) || !sack.testBit (d - 1))).foldl (fun s m => resend s n m) s

/-! ### Violations and quarantine (R376-R378) -/

/-- Is the session QUARANTINED now? -/
def quarantined (s : State) (x : Session) : Bool := match x.quarUntil with | some t => decide (s.glb.time < t) | none => false

/-- A counted violation of session `n` (R377); a quarantine that begins is a cause of the port's vector (R429). Its window is measured by SLU_VIOL as it was when the window opened (R384). In quarantine the
count stands still, and it is 0 again once the quarantine is over (log entry 67). -/
def countViolation (s : State) (n : BitVec 32) : State :=
  match sessionOf s n with
  | none => s
  | some x =>
    if quarantined s x then s
    else
      let now := s.glb.time
      let live := x.quarUntil.isNone && match x.violAt with | some t => decide (now < t) | none => false
      let v := if live then x.violSet else (portOf s x.port).viol
      let count := if live then x.viol + 1 else 1
      let s := updSession s n fun y =>
        { y with viol := count, violAt := if live then y.violAt else some (now + bits v 16 24 * 1000000), violSet := v, quarUntil := none }
      if count < bits v 0 16 then s
      else if bits v 40 24 = 0 then closeSession s n .quarantined
      else
        let s := updSession s n fun y => { y with quarUntil := some (now + bits v 40 24 * 1000000), quarSeq := none }
        raiseIrq (portCount s x.port 11) (16 + x.port)

/-- KEY of an ERROR about a message (R375): the TAG or the REQ of its command. -/
def msgKey (msg : List Byte) : Nat :=
  let b := msg.drop 32
  let cont := (num msg 2 2).testBit 2
  match num msg 1 1 with
  | 0x10 => if cont then num b 0 8 else num b 32 8
  | 0x14 => if cont then num b 0 8 else num b 0 2
  | 0x12 | 0x13 => num b 0 2
  | 0x15 => num b 2 2
  | _ => 0

/-- A message fails check 4 or 5: counted, logged with its source, answered (R376, R378). -/
def violation (s : State) (x : Session) (offset : Nat) (msg : List Byte) (src : Source) : State :=
  let s := logViolation (portCount s x.port 8) x.port (Code.num .protocol) offset src (msg.take 32)
  let s := gmlError s x.id .protocol (num msg 1 1) offset (BitVec.ofNat 32 (num msg 8 4)) (msgKey msg)
  countViolation s x.id

/-- A message of a QUARANTINED session is not delivered; ERROR QUARANTINED at most once per 1 ms, about the first one refused since (R377). -/
def refuseQuarantined (s : State) (x : Session) (msg : List Byte) : State :=
  let first := x.quarSeq.getD (BitVec.ofNat 32 (num msg 8 4), num msg 1 1, msgKey msg)
  if (match x.quarErrAt with | some t => decide (s.glb.time < t + 1000000) | none => false) then
    updSession s x.id fun y => { y with quarSeq := some first }
  else
    gmlError (updSession s x.id fun y => { y with quarSeq := none, quarErrAt := some s.glb.time }) x.id .quarantined first.2.1 0 first.1
      first.2.2

/-! ### The body (checks 4 and 5 of R376) -/

/-- The first offset at fault among checks. -/
def firstOffset : List (Bool × Nat) → Option Nat
  | [] => none
  | (good, o) :: rest => if good then firstOffset rest else some o

/-- A body of `fixed` bytes and `k` tokens or data bytes in all `n`, padded with zeros to a multiple of 8. -/
def lengthOk (b : List Byte) (n : Nat) : Bool := decide (b.length = roundUp n 8) && zeros b n b.length

/-- The multi-message part of check 4: no command is pending when CONT = 0, one is when CONT = 1, and its type and KEY are those of the message;
the offset of the field at fault. `t`: the command pending. It holds for every sequenced message (log entry 67). -/
def pendingFault (type : Nat) (cont : Bool) (b : List Byte) (t : Option Staged) : Option Nat :=
  match cont, t with
  | false, none => none
  | false, some _ | true, none => some 2
  | true, some t => firstOffset [(decide (type = if t.isResume then 0x14 else 0x10), 1), (BitVec.ofNat 64 (num b 0 8) == t.key, 32)]

/-- Check 5, by type; the offset of the field at fault. `t`: the command pending. -/
def bodyFault (type : Nat) (more cont : Bool) (b : List Byte) (t : Option Staged) : Option Nat :=
  let only := fun (checks : List (Bool × Nat)) => firstOffset ((!more, 2) :: checks)
  let first := fun (fixed ntAt total : Nat) (checks : List (Bool × Nat)) =>
    firstOffset ([(lengthOk b (fixed + 4 * num b ntAt 4), 24)] ++ checks
      ++ [(if more then decide (num b ntAt 4 ≤ total) else decide (num b ntAt 4 = total), 32 + ntAt)])
  match type with
  | 0x02 => only [(decide (b.length = 8), 24), (zeros b 1 8, 33)]
  | 0x10 | 0x14 =>
    if cont then
      match t with
      | none => some 2
      | some t => firstOffset
        [(lengthOk b (16 + 4 * num b 8 4), 24),
         (zeros b 12 16, 44),
         (t.refused || (if more then decide (t.tokens.length + num b 8 4 ≤ t.total) else decide (t.tokens.length + num b 8 4 = t.total)), 40)]
    else if type = 0x10 then
      first 64 12 (num b 40 4) [(decide (num b 2 1 < 2), 34), (zeros b 3 4, 35), (zeros b 10 12, 42)]
    else first 32 12 (num b 4 4) [(decide (num b 2 1 < 4), 34), (zeros b 3 4, 35)]
  | 0x12 => only [(decide (b.length = 8), 24), (zeros b 2 8, 34)]
  | 0x13 => only [(decide (b.length = 8), 24), (decide (num b 2 1 < 2), 34), (zeros b 3 4, 35)]
  | 0x15 => only [(decide (b.length = 8), 24), (decide (num b 0 1 ≤ 2), 32), (zeros b 1 2, 33)]
  | 0x20 => only [(lengthOk b (24 + num b 16 4), 24), (zeros b 5 8, 37), (decide (num b 16 4 ≠ 0) || decide (num b 4 1 ≠ 0), 48),
      (zeros b 20 24, 52)]
  | _ => only [(decide (b.length = 24), 24), (zeros b 2 4, 34), (zeros b 12 16, 44)]

/-- Reserved fields of the header: FLAGS [15:4], bit 63 of SACK, the last four bytes. -/
def headerFault (msg : List Byte) : Option Nat :=
  firstOffset [(decide (num msg 2 2 < 16), 2), (decide (num msg 16 8 < 2 ^ 63), 16), (zeros msg 28 32, 28)]

/-! ### Delivery in order -/

/-- CLOSE from the partner (R364): the session ends when the reply has left, which waits while 64 messages are unacknowledged (R369). -/
def closeIn (s : State) (x : Session) (resp : Bool) (b msg : List Byte) (src : Source) : State :=
  let code := (Code.ofNum (num b 0 1)).getD .protocol
  if resp then match x.closing with
    | some code => endSession s x.id code
    | none => violation s x 2 msg src
  else if x.ending.isSome then s
  else
    let s := gmlSend (updSession s x.id fun y => { y with ending := some code }) x.id 2 1 (closeBody .ok)
    if 64 ≤ x.unacked.length then s else endSession s x.id code

/-- An ERROR from a partner is logged with its CODE, and that is all (R375, R378). -/
def errorIn (s : State) (x : Session) (b msg : List Byte) (src : Source) : State :=
  logViolation s x.port (num b 0 1) (num b 4 4) src (msg.take 32)

/-- A sequenced message reaches the unit in its turn; it came from `src`. Checks 4 and 5 come first (R376), then the quarantine (R377). -/
def deliverGml (s : State) (n : BitVec 32) (msg : List Byte) (src : Source) : State :=
  match sessionOf s n with
  | none => s
  | some x =>
    let type := num msg 1 1
    let flags := num msg 2 2
    let seq := BitVec.ofNat 32 (num msg 8 4)
    let b := slice msg 32 (num msg 24 4)
    if msg.isEmpty then s
    else match (pendingFault type (flags.testBit 2) b x.staged).or
        ((headerFault msg).or (bodyFault type (flags.testBit 1) (flags.testBit 2) b x.staged)) with
      | some o => violation s x o msg src
      | none =>
        if type ≠ 2 ∧ quarantined s x then refuseQuarantined (if type = 0x3F then errorIn s x b msg src else s) x msg
        else match type, flags.testBit 2, x.staged with
        | 0x02, _, _ => closeIn s x (flags.testBit 0) b msg src
        | 0x10, true, some t | 0x14, true, some t => nextMessage s x seq (flags.testBit 1) t b
        | 0x10, _, _ => firstMessage s x seq false (flags.testBit 1) b
        | 0x14, _, _ => firstMessage s x seq true (flags.testBit 1) b
        | 0x12, _, _ => cancelIn s x seq b
        | 0x13, _, _ => parkIn s x seq b
        | 0x15, _, _ => statusIn s x b
        | 0x20, _, _ => fetchIn s x seq b
        | _, _, _ => errorIn s x b msg src

/-- A message is accepted: the acknowledgement of it leaves within ACKDLY (R366). -/
def oweAck (s : State) (n : BitVec 32) : State :=
  updSession s n fun y => { y with ackDue := y.ackDue.or (some (s.glb.time + bits (portOf s y.port).tmr 24 8 * 100)) }

/-- Held messages that now follow without a gap are released; at most `k`. -/
def release : Nat → State → BitVec 32 → State
  | 0, s, _ => s
  | k + 1, s, n =>
    match sessionOf s n with
    | none => s
    | some x =>
      match x.held.find? fun h => h.1 == x.rxSeq with
      | none => s
      | some h =>
        let s := updSession s n fun y => { y with rxSeq := y.rxSeq + 1, held := y.held.filter fun g => g.1 != h.1 }
        release k (deliverGml (oweAck s n) n h.2.1 h.2.2) n

/-- Bytes in the holding pool of unit `u` (R365). -/
def heldBytes (s : State) (u : Nat) : Nat :=
  s.sluice.sessions.foldl (fun t y => if unitOfSession y = u then t + y.held.foldl (fun k h => k + h.2.1.length) 0 else t) 0

/-- A NAK when a message before `top` is missing for which none has gone within RTO (R366). -/
def nakGap (s : State) (n top : BitVec 32) : State :=
  match sessionOf s n with
  | none => s
  | some x =>
    let missing := ((List.range ((top - x.rxSeq).toNat + 1)).map fun i => x.rxSeq + BitVec.ofNat 32 i).filter fun q =>
      !x.held.any fun h => h.1 == q
    let old := x.naks.filter fun p => missing.contains p.1 && decide (s.glb.time < p.2)
    let due := missing.filter fun q => !old.any fun p => p.1 == q
    if due.isEmpty then s
    else gmlAck (updSession s n fun y => { y with naks := old ++ due.map fun q => (q, s.glb.time + rtoOf s x.port) }) n true

/-- The last message held, when a gap is still open before it: a NAK reports the gap (R366). -/
def nakHeld (s : State) (n : BitVec 32) : State :=
  match sessionOf s n with
  | none => s
  | some x =>
    let far := x.held.foldl (fun d h => max d (h.1 - x.rxSeq).toNat) 0
    if x.held.isEmpty then s else nakGap s n (x.rxSeq + BitVec.ofNat 32 far)

/-- A sequenced message takes its place (R365): `bytes` is empty when the message has failed a check and only its SEQ counts. -/
def sequence (s : State) (x : Session) (seq : BitVec 32) (bytes msg : List Byte) (src : Source) : State :=
  let n := x.id
  let d := (seq - x.rxSeq).toNat
  if 2 ^ 31 ≤ d then gmlAck s n false
  else if d = 0 then
    let s := oweAck (updSession s n fun y => { y with rxSeq := y.rxSeq + 1 }) n
    nakHeld (release 64 (deliverGml s n bytes src) n) n
  else if d ≤ 63 then
    if x.held.any fun h => h.1 == seq then s
    else if 4 * 2 ^ 20 < heldBytes s (unitOfSession x) + bytes.length then nakGap s n seq
    else nakGap (updSession s n fun y => { y with held := y.held ++ [(seq, bytes, src)] }) n seq
  else violation s x 8 msg src

/-! ### Opening a session (R362, R363) -/

/-- An OPEN is refused with an untagged ERROR. -/
def openRefused (s : State) (f : Frame) (code : Code) (offset : Nat) : State :=
  let s := if code = .auth then secCount s 2 else s
  emitUntagged s f.port.val f.subB f.src 0x3F 0 0 (errorBody code 1 offset 0 0)

/-- The lowest free session slot of unit `u`. -/
def freeSession (s : State) (u : Nat) : Option Nat :=
  (List.range 2048).find? fun i => !s.sluice.sessions.any fun x => bits x.id 30 2 == u && bits x.id 19 11 == i

/-- The session ID of a slot: the generations run from 1 to 2^19 - 1, so that no session is 0 (DESIGN CHOICE, log entry 67). -/
def sessionId (s : State) (u i : Nat) : BitVec 32 :=
  BitVec.ofNat 32 (at_ 30 u + at_ 19 i + (1 + Tbl.get 0 s.sluice.gens (u * 2048 + i)))

/-- An OPEN request (R362, R363, R533, R543). Form is checked before keys (DESIGN CHOICE, log entry 67). -/
def openIn (s : State) (f : Frame) (msg : List Byte) : State :=
  let b := slice msg 32 (num msg 24 4)
  let p := f.port.val
  let u := p / 4
  let pnonce := slice b 16 32
  let again := s.sluice.opened.find? fun x =>
    x.port == p && x.subB == f.subB && x.src == f.src && x.pnonce == pnonce && decide (s.glb.time ≤ x.time + 1000000000)
  match again with
  | some x => portCount { s with out := s.out ++ [.gml p (senderOf s p f.subB) f.src x.reply] } p 1
  | none =>
    let realm := num b 0 1
    let role := num b 1 1
    let form := firstOffset
      [(decide (num msg 2 2 % 8 = 0) && decide (num msg 2 2 < 16), 2), (decide (num msg 4 4 = 0), 4), (decide (num msg 8 4 = 0), 8), (zeros msg 28 32, 28), (decide (b.length = 168), 24), (decide (realm < 16), 32),
       (decide (role ≤ 1), 33), (zeros b 2 8, 34), (zeros b 162 168, 194)]
    let r := realmOf s realm
    let key := r.keys.find? fun k => k.keyid == BitVec.ofNat 64 (num b 8 8)
    let good := r.present && !s.sec.idfail && match key with
      | some k => k.roles.getLsbD role && edVerify k.key "GML-OPEN" (msg.take 80) (slice b 48 114)
      | none => false
    match form with
    | some o => openRefused s f .format o
    | none =>
      if !good then openRefused s f .auth 0
      else match freeSession s u with
        | none => openRefused s f .busy 0
        | some i =>
          let id := sessionId s u i
          let (dnonce, s) := drawBytes s 32
          let head := gmlHeader 1 1 id 0 1 0 168
          let front := [BitVec.ofNat 8 0] ++ List.replicate 7 0 ++ dnonce ++ leBytes 2 (maxBody s p) ++ leBytes 2 64 ++ leBytes 4 0
          let sig := edSign s.sec.privKey "GML-OPEN-RESP" (head ++ front ++ pnonce)
          let reply := head ++ front ++ sig ++ List.replicate 6 0 ++ List.replicate 16 0
          let x : Session :=
            { id := id, port := p, subB := f.subB, realm := realm, role := role, keyid := BitVec.ofNat 64 (num b 8 8)
              key := kmac256 r.secret (pnonce ++ dnonce ++ leBytes 4 id.toNat) 32 "GML-KEY"
              src := f.src }
          let late := s.sluice.opened.filter fun y => decide (s.glb.time ≤ y.time + 1000000000)
          let y : Opened := { port := p, subB := f.subB, src := f.src, pnonce := pnonce, time := s.glb.time, reply := reply }
          let s := secCount (secCount s 1) 4
          portCount { s with sluice := { s.sluice with sessions := s.sluice.sessions ++ [x], opened := late ++ [y] }
                             out := s.out ++ [.gml p (senderOf s p f.subB) f.src reply] } p 1

/-! ### Frames (R353-R355, R376) -/

/-- The bytes of a frame on the wire, without the padding that a short UDP datagram may have: the MAC header and the tags, in UDP mode the IP
and UDP headers, the payload and the FCS. -/
def frameSize (f : Frame) : Nat :=
  18 + 4 * f.env.tags.length + (match f.src.family.val with | 0 => 0 | 1 => 28 | _ => 48) + f.bytes.length

/-- Is the frame one that the MAC supports, of 64 to 9,216 bytes (R353)? A short UDP datagram is padded. Another frame counts as one that fails
R355 (DESIGN CHOICE, log entry 67). -/
def sizeOk (f : Frame) : Bool := (decide (64 ≤ frameSize f) || decide (f.src.family ≠ 0)) && decide (frameSize f ≤ 9216)

/-- Is it a frame of the precision time service that the port keeps: on port 0 with PTP = 1, EtherType 0x88F7 or UDP port 319 or 320, and a right
FCS (R355, R379)? The GML checks do not apply to it. -/
def ptpFrame (s : State) (f : Frame) : Bool :=
  decide (f.port = 0) && bit (portOf s 0).cfg 8 && f.env.fcs && decide (f.env.uncorrectable = 0) && sizeOk f
    && (if f.src.family = 0 then f.env.etype == 0x88F7 else f.env.udp == 319 || f.env.udp == 320)

/-- Does the port keep the frame for GML (R355)? -/
def keeps (s : State) (f : Frame) : Bool :=
  let x := portOf s f.port.val
  let e := f.env
  let v6 := bit x.cfg 5
  !ptpFrame s f && sizeOk f && e.fcs && decide (e.uncorrectable = 0) && e.mac == x.mac.setWidth 48
    && e.tags == (if bit x.cfg 7 then [BitVec.ofNat 12 (bits x.cfg 12 12)] else [])
    && (if !bit x.cfg 4 then decide (f.src.family = 0) && decide (e.etype.toNat = bits x.gml 0 16)
        else f.src.family == (if v6 then 2 else 1) && e.etype == (if v6 then 0x86DD else 0x0800) && e.plain
          && (if v6 then e.ip == x.ip1 ++ x.ip0 else decide (e.ip.toNat % 2 ^ 32 = bits x.ip0 0 32))
          && decide (e.udp.toNat = bits x.gml 16 16) && (e.sum == .right || e.sum == .zero && !v6))

/-- The RS codewords of a frame are counted (R385). -/
def countCodewords (s : State) (f : Frame) : State :=
  let add := fun (s : State) (i n : Nat) => if n = 0 then s else updPort s f.port.val fun x => { x with cnt := Tbl.upd 0 x.cnt i fun c => bumpBy c n }
  add (add s 4 f.env.corrected) 5 f.env.uncorrectable

/-- A frame that the port does not keep is discarded without answer and counted (R354, R355). -/
def discardFrame (s : State) (f : Frame) : State :=
  portCount (countCodewords s f) f.port.val (if f.env.fcs && decide (f.env.uncorrectable = 0) then 3 else 2)

/-- A frame of the precision time service is kept and counted. What its message does is the meaning of PTP_EVENT_MESSAGE (R379). -/
def ptpIn (s : State) (f : Frame) : State := portCount (countCodewords s f) f.port.val 0

/-- The types that R360 gives. -/
def gmlTypes : List Nat := [0x01, 0x02, 0x03, 0x04, 0x10, 0x11, 0x12, 0x13, 0x14, 0x15, 0x20, 0x3F]

/-- Check 1: the offset at fault. -/
def frameFault (s : State) (p : Nat) (m : List Byte) : Option Nat :=
  firstOffset [(decide (num m 0 1 = 1), 0), (gmlTypes.contains (num m 1 1), 1),
    (decide (num m 24 4 % 8 = 0) && decide (num m 24 4 ≤ maxBody s p) && decide (48 + num m 24 4 ≤ m.length), 24)]

/-- May a partner send this type with this RESP (check 4)? -/
def directionOk (type : Nat) (resp : Bool) : Bool :=
  match type with
  | 0x02 => true
  | 0x20 => resp
  | 0x03 | 0x04 | 0x10 | 0x12 | 0x13 | 0x14 | 0x15 | 0x3F => !resp
  | _ => false

/-- Does the unit take frames from the port now: enabled, clocked, the sub-port up, in the states READY to DEGRADED? -/
def portTakes (s : State) (p : Nat) (subB : Bool) : Bool :=
  let x := portOf s p
  millerUp s && bit s.clk.gate p && bit s.clk.gate (28 + p / 4) && bit x.cfg 0 && (if subB then x.linkB else x.linkA)

/-- A message whose tag has been verified, or needs none: the acknowledgement it carries, then its place (R356, R365, R366). -/
def verified (s : State) (f : Frame) (x : Session) (msg : List Byte) : State :=
  let n := x.id
  let type := num msg 1 1
  let seq := BitVec.ofNat 32 (num msg 8 4)
  let s := updSession s n fun y => { y with src := f.src }
  let s := takeAck s n (BitVec.ofNat 32 (num msg 12 4))
  match sessionOf s n with
  | none => s
  | some x =>
    let wrong := !directionOk type ((num msg 2 2).testBit 0)
    if type = 3 ∨ type = 4 then
      if wrong then violation s x 2 msg f.src
      else if seq ≠ 0 then violation s x 8 msg f.src
      else match (headerFault msg).or (firstOffset [(decide (num msg 2 2 % 8 < 2), 2), (decide (num msg 24 4 = 0), 24)]) with
        | some o => violation s x o msg f.src
        | none => if type = 4 then takeNak s n (BitVec.ofNat 32 (num msg 12 4)) (num msg 16 8) else s
    else if wrong then
      let s := violation s x (if type = 0x11 then 1 else 2) msg f.src
      if (seq - x.rxSeq).toNat ≤ 63 then sequence s x seq [] msg f.src else s
    else sequence s x seq msg msg f.src

/-- A frame that the port keeps, through the checks of R376. -/
def gmlFrame (s : State) (f : Frame) : State :=
  let p := f.port.val
  let s := portCount (countCodewords s f) p 0
  let named := s.sluice.sessions.find? fun x => x.id.toNat == num f.bytes 4 4 && x.port == p && x.subB == f.subB
  match frameFault s p f.bytes with
  | some o =>
    let s := logViolation (portCount s p 6) p (Code.num .protocol) o f.src (f.bytes.take 32)
    match named with
    | some x => gmlError s x.id .protocol (num f.bytes 1 1) o (BitVec.ofNat 32 (num f.bytes 8 4)) (msgKey f.bytes)
    | none => s
  | none =>
    let len := num f.bytes 24 4
    let msg := f.bytes.take (32 + len)
    if num msg 1 1 = 1 && num msg 4 4 = 0 && !(num msg 2 2).testBit 0 then openIn s f msg
    else match named with
      | none => logViolation (portCount s p 6) p (Code.num .protocol) 4 f.src (msg.take 32)
      | some x =>
        -- OPEN carries no tag, so that check 3 does not apply: its reply comes from the wrong side, and a request names no session (log entry 67)
        if num msg 1 1 = 1 then (if (num msg 2 2).testBit 0 then violation s x 2 msg f.src else openIn s f msg)
        else
          let s := secCount s 5
          if kmac256 x.key msg 16 "GML-P2D" == slice f.bytes (32 + len) 16 then verified s f x msg
          else logViolation (portCount s p 7) p (Code.num .auth) (32 + len) f.src (msg.take 32)

/-- A command that brings a frame: its TYPE is the command's, or one that no command has (log entry 67). -/
def gmlRow (type : Nat) (f : Frame) (s : State) : Outcome :=
  .next (
    let t := num f.bytes 1 1
    if !portTakes s f.port.val f.subB then s
    else if ptpFrame s f then ptpIn s f
    else if !keeps s f then discardFrame s f
    else if t == type || t == 0x11 || !gmlTypes.contains t then gmlFrame s f else s)

/-- OPEN (R362, R363). -/
def execOpen (f : Frame) (s : State) : Outcome := gmlRow 0x01 f s
/-- CLOSE (R364). -/
def execClose (f : Frame) (s : State) : Outcome := gmlRow 0x02 f s
/-- ACK (R366). -/
def execAck (f : Frame) (s : State) : Outcome := gmlRow 0x03 f s
/-- NAK (R367). -/
def execNak (f : Frame) (s : State) : Outcome := gmlRow 0x04 f s
/-- SUBMIT (R288, R370). -/
def execSubmit (f : Frame) (s : State) : Outcome := gmlRow 0x10 f s
/-- CANCEL (R299). -/
def execCancel (f : Frame) (s : State) : Outcome := gmlRow 0x12 f s
/-- PARK (R309, R311). -/
def execGmlPark (f : Frame) (s : State) : Outcome := gmlRow 0x13 f s
/-- RESUME (R312). -/
def execResume (f : Frame) (s : State) : Outcome := gmlRow 0x14 f s
/-- STATUS (R373). -/
def execStatus (f : Frame) (s : State) : Outcome := gmlRow 0x15 f s
/-- FETCH reply (R374). -/
def execFetchReply (f : Frame) (s : State) : Outcome := gmlRow 0x20 f s
/-- ERROR from a partner (R375). -/
def execError (f : Frame) (s : State) : Outcome := gmlRow 0x3F f s

/-! ### Timers -/

/-- ACKDLY_EXPIRY (R366): nothing has carried the acknowledgement. -/
def execAckdlyExpiry (session : BitVec 32) (s : State) : Outcome :=
  .next (match sessionOf s session with
    | some x => match x.ackDue with
      | some t => gmlAck (advanceTo s t) session false
      | none => s
    | none => s)

/-- RTO_EXPIRY (R367, R368). -/
def execRtoExpiry (session : BitVec 32) (seq : BitVec 32) (acked : Bool) (s : State) : Outcome :=
  .next (match sessionOf s session with
    | none => s
    | some x =>
      match x.unacked.find? fun m => m.seq == seq with
      | none => s
      | some m =>
        let s := advanceTo s m.due
        if acked then portCount s x.port 10
        else if m.retry + 1 ≤ m.sent then endSession s session .timeout
        else resend s session m)

/-- CLOSE_TIMEOUT (R364): 10 ms after the CLOSE left. -/
def execCloseTimeout (session : BitVec 32) (s : State) : Outcome :=
  .next (match sessionOf s session with
    | some x => match x.closing, x.closeAt with
      | some code, some t => endSession (advanceTo s (t + 10000000)) session code
      | _, _ => s
    | none => s)

/-- FETCH_TIMEOUT (R374): no reply for 100 ms. -/
def execFetchTimeout (xid : BitVec 32) (s : State) : Outcome :=
  .next (match s.hop.fetches.find? fun y => y.xid == xid.toNat && decide (y.got.length < y.len) with
    | some y => if s.hop.op = .loadWeights then weightsStop (advanceTo s (y.since + 100000000)) .timeout 0xC y.index else s
    | none => s)

/-- VWIN_EXPIRY (R377): the window passes and the count returns to 0. -/
def execVwinExpiry (session : BitVec 32) (s : State) : Outcome :=
  .next (match sessionOf s session with
    | some x => match x.violAt with
      | some t => if quarantined s x then s else updSession (advanceTo s t) session fun y => { y with viol := 0, violAt := none }
      | none => s
    | none => s)

/-- QTIME_EXPIRY (R377): the quarantine ends and the count returns to 0. -/
def execQtimeExpiry (session : BitVec 32) (s : State) : Outcome :=
  .next (match sessionOf s session with
    | some x => match x.quarUntil with
      | some t => updSession (advanceTo s t) session fun y => { y with viol := 0, violAt := none, quarUntil := none, quarSeq := none }
      | none => s
    | none => s)

/-! ### The port -/

/-- FRAME_DISCARD (R354, R355): a frame that fails one of the conditions. -/
def execFrameDiscard (f : Frame) (s : State) : Outcome :=
  .next (if portTakes s f.port.val f.subB && !ptpFrame s f && !keeps s f then discardFrame s f else s)

/-- The device sends a Delay_Req, at time `t` in 1/16 ns (R379). -/
def sendDelayReq (s : State) (t : Nat) : State :=
  let p := s.sluice.ptp
  portCount { s with sluice := { s.sluice with ptp := { p with req := some (p.seq, t), seq := p.seq + 1 } }
                     out := s.out ++ [.delayReq p.seq] } 0 1

/-- The Miller disciplines GLB_TIME by an offset from the master in 1/16 ns (R380): a step forward while every slot is FREE, else it slews; an
offset above 1 ms with an image in a slot is reported. -/
def discipline (s : State) (offset : Int) : State :=
  let noImage := s.hop.slots.all fun p => p.2.st = .free
  if noImage && decide (offset < 0) then
    { s with glb := { s.glb with time := s.glb.time + offset.natAbs / 16 }, sluice := { s.sluice with ptp := { s.sluice.ptp with slew := 0 } } }
  else
    let s := { s with sluice := { s.sluice with ptp := { s.sluice.ptp with slew := -offset * 10000 } } }
    if !noImage && decide (16000000 < offset.natAbs) then { s with out := s.out ++ [.offset offset] } else s

/-- PTP_EVENT_MESSAGE (R379): port 0 with PTP = 1 takes the time-stamp of an event message, `frac` sixteenths past GLB_TIME. The slave clock
sends a Delay_Req when it knows when a Sync left its master, and takes the offset from the answer (log entry 97). -/
def execPtpEventMessage (m : PtpMsg) (frac : Fin 16) (s : State) : Outcome :=
  .next (
    if !(portTakes s 0 false && bit (portOf s 0).cfg 8) then s
    else
      let s := portCount s 0 0
      let t := 16 * s.glb.time + frac.val
      let p := s.sluice.ptp
      let put := fun (y : Ptp) => { s with sluice := { s.sluice with ptp := y } }
      match m, p.sync, p.req with
      | .sync q two origin, _, _ =>
        let s := put { p with sync := some (q, t, if two then none else some origin), req := none }
        if two then s else sendDelayReq s t
      | .followUp q origin, some (q', t2, none), _ => if q = q' then sendDelayReq (put { p with sync := some (q, t2, some origin) }) t else s
      | .delayResp q t4, some (_, t2, some t1), some (q', t3) =>
        if q = q' then discipline (put { p with req := none }) ((((t2 : Int) - t1) - ((t4 : Int) - t3)) / 2) else s
      | _, _, _ => s)

/-- A record that a port went down (R484); the manual names no code (DESIGN CHOICE, log entry 69). -/
def portDown (s : State) (p : Nat) : State := logRec s { code := .lost, cls := .link, origin := .edge, edgeid := 0x40 + p }

/-- The cause of a port's vector, a change of its link, when there is one (R429). -/
def linkChange (s t : State) (p : Nat) : State :=
  if (portOf s p).linkA = (portOf t p).linkA ∧ (portOf s p).linkB = (portOf t p).linkB then t else raiseIrq t (16 + p)

/-- The lanes of a sub-port in breakout mode, and all of them outside it (R352). -/
def laneMask (breakout subB : Bool) : BitVec 8 := if !breakout then 0xFF else if subB then 0xF0 else 0x0F

/-- LOSS_OF_SIGNAL (R357, R382): a lane has lost signal for 1 us. Its port or sub-port is down; with lane 0 the receive domain takes the local
reference. -/
def execLossOfSignal (port : Fin 16) (lane : Fin 8) (s : State) : Outcome :=
  .next (
    let p := port.val
    let x := portOf s p
    let subB := bit x.cfg 1 && decide (4 ≤ lane.val)
    if !bit x.cfg 0 || bit x.los lane.val || !millerUp s then s
    else
      let was := if subB then x.linkB else x.linkA
      let s := updPort s p fun x =>
        { x with los := x.los ||| BitVec.ofNat 8 (2 ^ lane.val), linkA := x.linkA && subB, linkB := x.linkB && !subB }
      let s := if lane = 0 && !x.localClk then countStop (updPort s p fun x => { x with localClk := true }) else s
      let s := if lane = 0 && s.clk.port.toNat = p then loseRef s true else s
      if was then raiseIrq (portDown s p) (16 + p) else s)

/-- BLOCK_LOCK (R357): 1 ms of unbroken block lock of the port, or of a sub-port in breakout mode; the domain takes the recovered clock again. -/
def execBlockLock (port : Fin 16) (subB : Bool) (s : State) : Outcome :=
  .next (
    let p := port.val
    let x := portOf s p
    let b := bit x.cfg 1 && subB
    let lanes := laneMask (bit x.cfg 1) subB
    if !bit x.cfg 0 || x.los &&& lanes = 0 || !millerUp s then s
    else
      let s := linkChange s (updPort s p fun x => { x with los := x.los &&& ~~~lanes, linkA := x.linkA || !b, linkB := x.linkB || b }) p
      let s := if !b && s.clk.port.toNat = p then gainRef s true else s
      if x.localClk && !b then countStop (updPort s p fun x => { x with localClk := false }) else s)

/-- SLU_CFG (R381): no field but EN changes while EN = 1; PMD 3, and with VLAN = 1 a VID outside 1 to 4,094, are not written. An enabled port
is up at once (DESIGN CHOICE, log entry 69: no command marks the end of its start-up). EN = 0 ends its sessions with LOST. -/
def execSluCfg (port : Fin 16) (w : Word) (s : State) : Outcome :=
  .next (
    let p := port.val
    let old := (portOf s p).cfg
    let new := w &&& (if p = 0 then 0xFFFFFF else 0xFFFEFF)
    let vid := bits new 12 12
    if !sluOpen s p || bits new 2 2 = 3 || (bit new 7 && (vid = 0 || vid = 4095)) then s
    else if bit old 0 && (old ^^^ new) &&& 0xFFFFFE ≠ 0 then s
    else
      let s := updPort s p fun x => { x with cfg := new }
      if bit new 0 && !bit old 0 then
        let s := linkChange s (updPort s p fun x => { x with linkA := true, linkB := bit new 1, los := 0, localClk := false }) p
        if s.clk.port.toNat = p then gainRef s true else s
      else if !bit new 0 && bit old 0 then
        let s := linkChange s (updPort s p fun x => { x with linkA := false, linkB := false, los := 0, localClk := false }) p
        let s := if s.clk.port.toNat = p then loseRef s true else s
        ((s.sluice.sessions.filter fun x => x.port == p).map (·.id)).foldl (fun s n => endSession s n .lost) s
      else s)

end Sys2Proof.Machine
end

