-- ==== Sys2Proof/Machine/Boot.lean ====
section
/-!
DEFINITION. How the device comes up and goes down: the Moraine map (13 R516, R517), entry into BOOT (14 R526-R533), bring-up
(13 R518), regions switched on and off (12 R437, R438), power-down (15 R566), park (12 R474) and FAULT (13 R514).
-/
namespace Sys2Proof.Machine

/-! ### The Moraine map -/

/-- The 16 bytes of an entry (R516). -/
def mEntryBytes (e : MEntry) : List Byte :=
  [BitVec.ofNat 8 e.kind, BitVec.ofNat 8 e.source, BitVec.ofNat 8 e.region, BitVec.ofNat 8 e.row, BitVec.ofNat 8 e.col,
   BitVec.ofNat 8 e.sub, 0, 0] ++ leBytes 4 e.detail ++ leBytes 4 e.boot

/-- The valid copy of the map (R516). -/
def moraineBytes (s : State) : List Byte :=
  ascii "YKMM" ++ leBytes 2 1 ++ leBytes 2 0 ++ leBytes 4 s.moraine.length
    ++ [BitVec.ofNat 8 Config.factoryGrade.val, BitVec.ofNat 8 steppingCode, 0, 0] ++ leBytes 4 s.bootno ++ List.replicate 44 0
    ++ s.moraine.flatMap mEntryBytes

/-- The map's digest in quotes (R517). -/
def moraineDigest (s : State) : List Byte := shake256 (moraineBytes s) 64

/-- The entries of a kind in physical row `p` of region `g`. -/
def rowEntries (s : State) (g p kind : Nat) : List MEntry :=
  s.moraine.filter fun e => e.kind == kind && e.region == g && e.row == p

/-- The row map entry of physical row `p` of region `g` (R21, R22, R517). -/
def mapRow (s : State) (g p : Nat) : Row :=
  let dead := rowEntries s g p 2
  let cols := sortNat ((rowEntries s g p 1 ++ dead).map (·.col))
  if 2 ≤ cols.length ∨ (rowEntries s g p 3) ≠ [] then { outCol := 31, defect := !cols.isEmpty }
  else match cols.head? with
    | none => {}
    | some d => if d = 16 then { defect := true } else { outCol := d, stackDead := !dead.isEmpty, defect := true }

/-- Shape, dropped row and row map of region `g` from the map, and whether it may be powered (R23, R513, R517). -/
def mapShape (s : State) (g : Nat) : RegShape × Bool :=
  let old := (regionOf s g).org
  let rows := (List.range 16).foldl (fun t p => Tbl.set {} t p (mapRow s g p)) []
  let dropped := (rows.filter fun r => r.2.outCol = 31).map (·.1)
  let barred := s.moraine.any fun e => e.kind == 7 && e.region == g
  let x := { old with fenced := false, realm := none, rows := rows }
  if barred || old.off || decide (2 ≤ dropped.length) then ({ x with shape := .lost, dropRow := 0, off := true }, !barred && !old.off)
  else match dropped with
    | [] => ({ x with shape := .full, dropRow := 0 }, true)
    | p :: _ => ({ x with shape := .short, dropRow := p }, true)

/-! ### Regions switched on and off -/

/-- The plane-C and plane-T entries of region `a` that the Miller writes (R171): XY, a detour round regions whose VDDN is off, BLOCKED
for LOST regions. -/
def millerRoutes (s : State) (a : Nat) : Tbl Route :=
  (List.range 64).flatMap fun b =>
    if a = b ∨ (regionOf s b).org.shape = .lost then []
    else
      let xy : Route := { mode := 1 }
      let r := if routeOk s a b xy then xy else detour s a b xy
      [(4 * b + 2, r), (4 * b + 3, r)]

/-- Writes those entries. -/
def writeMillerRoutes (s : State) (a : Nat) : State :=
  updRegion s a fun x => { x with race := { x.race with routes := millerRoutes s a } }

/-- FIRNLIM of every region that is powered: the largest OP of the active THROTTLE rules that target it (R470). -/
def setFirnLimits (s : State) : State :=
  let active := (s.frn.rules.filter fun r => bit s.frn.active r.1 && bits r.2.w 48 3 == 2).map (·.2.w)
  (List.range 64).foldl (fun s g =>
    let lim := if vddcOn s g then ((active.filter fun w => bits w 52 7 == g || bits w 52 7 == 64).map fun w => min 5 (bits w 59 3)).foldl max 0
      else 0
    if (pwrOf s g).firnlim = lim then s else limitChanged (updPwr s g fun x => { x with firnlim := lim }) g) s

/-- The rails of region `g` are on and its domain runs at OP5 (R437). -/
def powerRegion (s : State) (g : Nat) : State :=
  updRegion s g fun x =>
    { x with race := { hub := true }
             pwr := { x.pwr with rails := 0xF, op := 5, raising := none, mv := 550, ilimScale := 16, ilimHold := false, droopHold := false
                                 quietAt := s.glb.time } }

/-- Are the power-goods of the rail groups that feed region `g` there (R437 step 1): PG_CORE, which stands for VDDC, VDDS and VDDN (R563), and the
PG_VDDM of its group? -/
def railsGood (s : State) (g : Nat) : Bool := s.pins.pgCore && bit s.pins.pgVddm (groupOf g)

/-- REGION_POWER_UP (R437): all four rails, the domain at OP5; the power-goods of the region's rail groups are there. -/
def execRegionPowerUp (r : RegionId) (s : State) : Outcome :=
  .next (
    let g := r.val
    let x := (regionOf s g).org
    if !millerUp s || x.off || (x.shape ≠ .full && x.shape ≠ .short) || (pwrOf s g).rails = 0xF
        || !railsGood s g then s
    else setFirnLimits (writeMillerRoutes (powerRegion s g) g))

/-- What lies on VDDS of region `g` is gone: SRAMs, programs, and the registers of R580. -/
def loseSram (s : State) (g : Nat) : State :=
  let lo := coreAddr (256 * g) 0 0
  let hi := coreAddr (256 * (g + 1)) 0 0
  { s with
    mem := s.mem.filter fun p => !(decide (lo ≤ p.1) && decide (p.1 < hi) && decide (fld p.1 30 4 ≠ 0))
    prog := Memory.zero s.prog (progAddr (256 * g)) (65536 * 256)
    cores := Tbl.clear s.cores (256 * g) (256 * (g + 1))
    regions := Tbl.upd {} s.regions g fun x => { x with mem := {} } }

/-- REGION_POWER_DOWN (R438): the Miller switches off a region that no image holds. `keepStacks`: VDDM stays on. -/
def execRegionPowerDown (r : RegionId) (keepStacks : Bool) (s : State) : Outcome :=
  .next (
    let g := r.val
    let held := s.hop.slots.any fun p => decide (p.2.st ≠ .free) && bit p.2.regions g
    if !millerUp s || !vddcOn s g || held then s
    else
      let s := loseSram s g
      let s := if keepStacks then s else loseStacks s g
      let s := updRegion s g fun x =>
        { x with race := {}
                 pwr := { x.pwr with rails := if keepStacks then 1 else 0, raising := none, ilimHold := false, droopHold := false } }
      setFirnLimits (rerouteOff s g))

/-! ### Down -/

/-- What is left of a region: on the way to PARKED the stacks stay up; a region that tripped or lost its supply stays off until
STANDBY (R462, R513). -/
def downRegion (parked : Bool) (x : Region) : Region :=
  if parked then { org := { off := x.org.off, lastLoss := x.org.lastLoss, pendingScrub := x.org.pendingScrub }
                   pwr := { rails := x.pwr.rails &&& 1 } }
  else { org := { lastLoss := x.org.lastLoss } }

/-- Regions after power-down, in canonical form. -/
def downRegions (parked : Bool) (t : Tbl Region) : Tbl Region :=
  (t.map fun p => (p.1, downRegion parked p.2)).filter fun p => p.2 ≠ {}

/-- Calibration stops without effect and the rules it suspended resume (log entry 59). -/
def endCalibration (f : Frn) : Frn :=
  { f with phase := 0, mask := 0, chans := (f.chans.map fun p =>
      (p.1, { p.2 with suspended := false, sum := 0, cntLeft := 0, zeroIn := none, fullIn := none })).filter fun p => p.2 ≠ {} }

/-- The rails go down and the device is in STANDBY, or in PARKED with VDDM up (R474, R566). Firn, the module record store and the
trip latches keep what they hold; every other register is back at its reset value, and memories are lost but for the stacks in
PARKED. -/
def powerDown (s : State) (parked interlock : Bool) : State :=
  let keep := fun a => parked && decide (a < 2 ^ 51) && decide (fld a 30 4 = 0)
  { ({} : State) with
    pending := s.pending, free := s.free, ids := s.ids, out := s.out
    mem := s.mem.filter fun p => keep p.1
    poison := s.poison.filter fun a => keep a
    glb := { st := if parked then .parked else .standby }
    regions := downRegions parked s.regions
    hop := { retain := if parked then s.hop.retain else [] }
    snow := { ctl := (s.snow.ctl.map fun p => (p.1, ({ failed := p.2.failed } : Snw))).filter fun p => p.2 ≠ {} }
    thm := { trip := s.thm.trip, tripHbm := s.thm.tripHbm, tripField := s.thm.tripField }
    frn := endCalibration s.frn
    bst := { clean := s.bst.clean, results := s.bst.results, mapDig := s.bst.mapDig, table := s.bst.table }
    moraine := s.moraine, bootno := s.bootno
    pins := { pwrReq := s.pins.pwrReq, rstLow := s.pins.rstLow, perst := s.pins.perst, lowAt := s.pins.lowAt, faultLow := s.pins.faultLow, enVddm := parked
              pgVddm := if parked then s.pins.pgVddm else 0, interlock := interlock } }

/-- The device enters FAULT (R8, R514): all mills stop, transmitters are idle, and Firn keeps a DEVICE record. Realms are lost (14). -/
def enterFault (s : State) (code : Code) : State :=
  let s := setDevState { s with glb := { s.glb with fw := false }, pins := { s.pins with faultLow := true } } .fault
  let s := logFirn s { code := code, cls := .device, origin := .firn }
  let s := (s.cores.map (·.1)).foldl stopCore s
  { s with
    mills := (s.mills.map fun p => (p.1, { p.2 with
      st := if p.2.inStep && p.2.st ≠ .fenced then .failed else p.2.st, inStep := false, startAt := none, ended := [] })).filter
        fun p => p.2 ≠ {}
    race := {}
    pond := { units := s.pond.units, poolSel := s.pond.poolSel
              pools := s.pond.pools.map fun p => (p.1, { p.2 with used := [], reserved := 0 }) }
    realms := [], sluice := { s.sluice with sessions := [] }
    links := (s.links.map fun p => (p.1, { p.2 with up := false, training := false })).filter fun p => p.2 ≠ {} }

/-- PLL_LOCK_LOSS (R464). The manual names no code for the record (DESIGN CHOICE, log entry 60). -/
def execPllLockLoss (s : State) : Outcome :=
  .next (if timeRuns s && decide (s.glb.st ≠ .fault) then enterFault { s with clk := { s.clk with lock := false } } .lost else s)
/-- MILLER_WATCHDOG (R514). -/
def execMillerWatchdog (s : State) : Outcome := .next (if s.glb.fw then enterFault s .timeout else s)
/-- MILLER_MEMORY_ERROR (R514). -/
def execMillerMemoryError (s : State) : Outcome :=
  .next (if timeRuns s && decide (s.glb.st ≠ .fault) then enterFault s .ecc else s)
/-- D0_STOP (R514). -/
def execD0Stop (s : State) : Outcome := .next (if timeRuns s && decide (s.glb.st ≠ .fault) then enterFault s .lost else s)

/-! ### Up -/

/-- The PCIe link trains (R422): to 2.5 to 64 GT/s and to x1, x2 or x4, as the link partner lets it (a free value, log entry 61), in flit mode at 64
GT/s and at a lower speed when the partner supports it. -/
def linkUp (s : State) : State :=
  let draw := fun k => Config.openValue k [s.free]
  let speed := 1 + draw 9 % 6
  { s with free := s.free + 1
           glb := { s.glb with speed := speed, width := 2 ^ (draw 10 % 3), flit := decide (speed = 6) || decide (draw 11 % 2 = 1) } }

/-- What the boot ROM does before it serves the mailbox (R526, R530, R531, R533). -/
def bootRom (s : State) : State :=
  let s := if s.pins.perst then linkUp s else s
  let priv := shake256 (ascii "YKW5-ID" ++ Config.pufResponse) 57
  let pub := edPublic priv
  { s with
    glb := { s.glb with serial := Config.serial, fgrade := Config.factoryGrade.val }
    sec := { s.sec with romDig := shake256 Config.bootRom 64, privKey := priv, devKey := pub
                        idfail := !Config.helperData || pub != Config.certKey } }

/-- The edge logic leaves reset and the device is in BOOT (R565 step 7). -/
def enterBoot (s : State) : State :=
  bootRom { s with glb := { st := .boot, busMaster := s.pins.perst }, pins := { s.pins with seq := .up, fromParked := false } }

/-- Firn starts the power-up sequence (R565, R473). -/
def startUp (s : State) : State :=
  let p := { s.pins with interlock := false, fromParked := decide (s.glb.st = DevState.parked) }
  { s with pins := if s.frn.crystal then { p with seq := .waitEdgeL, enEdgeL := true } else { p with seq := .waitOsc } }

/-- The defects of the Moraine map that the golden signature of block `b` masks out: those of a region, or the stacks of a Snowpack controller (R521). -/
def blockDefects (s : State) (b : Nat) : List Nat :=
  (s.moraine.filter fun e => e.kind ≠ 8 && e.kind ≠ 9 && (if b < 0x40 then e.kind ≠ 10 && e.region == b
    else decide (0x58 ≤ b) && decide (b ≤ 0x5B) && e.kind == 10 && e.region / 6 == b - 0x58)).flatMap fun e => [e.kind, e.row, e.col, e.sub, e.detail]

/-- The result of the self-test of block `b` with draw `n`, beside the stored set (R521, R523): its signature is free. -/
def blockResult (s : State) (b n : Nat) : BlockRes :=
  let sig := Config.selfTest b n
  let gold := Config.goldenSig b Config.steppingB0 s.sec.fwDig (blockDefects s b)
  let old := Tbl.get {} s.bst.results b
  { res := if sig ≠ gold then 2 else if old.res ≠ 3 && old.sig == sig then 0 else 1, sig := sig, gold := gold }

/-- The self-test of blocks, one after the other (R520-R522). The stored set does not change. -/
def testBlocks (s : State) (bs : List Nat) : State :=
  { s with free := s.free + bs.length
           bst := { s.bst with block := bs.getLast?.getD s.bst.block
                               run := bs.zipIdx.foldl (fun t b => Tbl.set {} t b.1 (blockResult s b.1 (s.free + b.2))) s.bst.run } }

/-- A stored self-test result that lets a region have the short check (R518 step 4). -/
def quickOk (s : State) : Bool := s.bst.clean && s.bst.mapDig == moraineDigest s && s.bst.table == s.sec.fwDig

/-- One defect that bring-up finds (R518 step 4, log entry 62): in a region that is powered, its entry of the Moraine map with SOURCE
BRINGUP; a DRAM row for which its tier has no spare left is named in an INFO record (R509); a Snowpack stack is taken out of service
(R413). -/
def noteFound (s : State) (f : Config.Found) : State :=
  let here := fun (r : RegionId) (s' : State) => if (mapShape s r.val).2 then s' else s
  match f with
  | .core r row col => here r (addMoraine s { kind := 1, source := 3, region := r.val, row := row.val, col := col.val })
  | .stack r row col => here r (addMoraine s { kind := 2, source := 3, region := r.val, row := row.val, col := col.val })
  | .horizontal r row col => here r (addMoraine s { kind := 3, source := 3, region := r.val, row := row.val, col := col.val })
  | .vertical r row col => here r (addMoraine s { kind := 4, source := 3, region := r.val, row := row.val, col := col.val })
  | .express r side => here r (addMoraine s { kind := 5, source := 3, region := r.val, col := side.val })
  | .stackRow r row col tier dram =>
    let e : MEntry := { kind := 6, source := 3, region := r.val, row := row.val, col := col.val, sub := tier.val, detail := dram.toNat }
    here r (if spareLeft s e then addMoraine s e
      else logRec s { code := .ok, cls := .info, origin := .core, unit := 12, phys := true, region := some r.val, row := some row.val
                      col := some col.val })
  | .region r =>
    here r (if (regionOf s r.val).org.lastLoss.isSome then addMoraine s { kind := 7, source := 3, region := r.val }
      else updRegion (noteLoss s r.val 0 false) r.val fun x => { x with org := { x.org with off := true } })
  | .snowpack t =>
    let k := t.val / 6
    if bit (ctlOf s k).failed (t.val % 6) then s
    else
      let s := updCtl s k fun x => { x with failed := x.failed ||| BitVec.ofNat 6 (2 ^ (t.val % 6)) }
      let s := logRec s { code := .lost, cls := .link, origin := .edge, edgeid := 16 + k, aform := 3, addr := t.val }
      raiseIrq (addMoraine s { kind := 10, source := 3, region := t.val }) (12 + k)

/-- Bring-up (R518) by the firmware that BOOT_FW has started, up to READY. What its checks and tests find is a free value of the
power-on (log entry 62). The stored set is held against the map as the last shut-down left it, before this power-on is counted. A full test runs
the region tests of R521 and leaves the set not CLEAN (R522). -/
def bringUp (s : State) : State :=
  let quick := quickOk s
  let s := { s with bootno := s.bootno + 1, glb := { s.glb with fw := true } }
  let s := { s with bst := { s.bst with quick := quick, clean := quick, shown := true, run := [] }
                    clk := { s.clk with lock := true, gate := s.clk.gate ||| 0x3FF000000 } }
  let s := (Config.foundAtBringup s.bootno).foldl noteFound s
  let s := (List.range 64).foldl (fun s g =>
    let (x, power) := mapShape s g
    let s := updRegion s g fun y => { y with org := x }
    if x.shape = .lost then
      if power && railsGood s g then updRegion s g fun y => { y with race := { hub := true }, pwr := { y.pwr with rails := 3 } } else s
    else if railsGood s g then powerRegion s g else s) s
  let s := (List.range 64).foldl (fun s a => if vddnOn s a then writeMillerRoutes s a else s) s
  let s := (List.range 4).foldl (fun s k => updCtl s k fun x => { x with ready := 0x3F &&& ~~~x.failed }) s
  let s := (List.range 16).foldl (fun s p =>
    if h : p < 16 then updPort s p fun x => { x with mac := (Config.assignedMac ⟨p, h⟩).setWidth 64 } else s) s
  let s := if quick then s else testBlocks s ((List.range 64).filter (vddcOn s))
  let s := setDevState (raiseIrq (setFirnLimits s) 7) .ready
  let kept := s.frn.kept
  let s := { s with frn := endCalibration { s.frn with kept := [] } }
  kept.foldl (fun s r => match r.region with
    | none => enterGlobal s r none
    | some g => let (i, s) := pushRegion s g r; enterGlobal s r (some (g, i))) s

end Sys2Proof.Machine
end

