-- ==== Sys2Proof/Machine/Firn.lean ====
section
/-!
DEFINITION. Firn (12 R467-R472): samples, filters and rules, calibration, the test DAC; the references of the root PLL (R464); the
trip of a sluice field (R463); and how a mailbox command completes (14 R536).
-/
namespace Sys2Proof.Machine

/-- The mailbox command in progress completes (R536): results, code, tag, DONE, cause 0. -/
def mlrDone (s : State) (code : Code) (res : List Word) : State :=
  raiseIrq { s with mlr := { s.mlr with
    res := (res.zipIdx.filter fun p => p.1 ≠ 0).map fun p => (p.2, p.1)
    code := code, rtag := s.mlr.tag, opdone := s.mlr.op, busy := false, done := true
    cntOk := if code = .ok then bump s.mlr.cntOk else s.mlr.cntOk
    cntErr := if code = .ok then s.mlr.cntErr else bump s.mlr.cntErr } } 0

/-! ### Calibration (R472) -/

/-- The channels of the phase under way. -/
def calChannels (s : State) : List Nat := setBits s.frn.mask.toNat 128

/-- Has the channel completed phase ZERO since READY was last entered (R539)? -/
def zeroDone (s : State) (c : Chan) : Bool := c.zeroIn == some s.glb.readies
/-- And phase FULL? -/
def fullDone (s : State) (c : Chan) : Bool := c.fullIn == some s.glb.readies

/-- OFFSET for the gain of channel `c`: that of phase ZERO when it has been completed. -/
def calOffset (s : State) (c : Chan) : Nat := if zeroDone s c then c.newOffset else c.offset

/-- GAIN of phase FULL; none where the channel fails. The mean is the exact sum over 1,024 samples, and a half rounds up (DESIGN CHOICE,
log entry 59). -/
def calGain (s : State) (c : Chan) : Option Nat :=
  let high := c.sum - 1024 * calOffset s c
  if c.tryFscale = 0 ∨ high < 256 * 1024 then none
  else
    let d := c.tryFscale * high
    let g := (2 * (65535 * 1024 * 1024 * c.applied) + d) / (2 * d)
    if 0xFFFF < g then none else some g

/-- Bits of `chs` that lie in [lo, lo + 64), as a result word. -/
def maskWord (chs : List Nat) (lo : Nat) : Word :=
  BitVec.ofNat 64 (((chs.filter fun c => decide (lo ≤ c) && decide (c < lo + 64)).map fun c => 2 ^ (c - lo)).foldl (· + ·) 0)

/-- The end of a phase, once every channel has its samples. A channel that fails keeps its previous values. -/
def endPhase (s : State) : State :=
  let chs := calChannels s
  if s.frn.phase = 1 then
    let s := chs.foldl (fun s n => updChan s n fun c => { c with newOffset := c.sum / 1024, zeroIn := some s.glb.readies, sum := 0 }) s
    mlrDone { s with frn := { s.frn with phase := 0, mask := 0 } } .ok []
  else
    let failed := chs.filter fun n => (calGain s (chanOf s n)).isNone
    let s := chs.foldl (fun s n => updChan s n fun c => match calGain s c with
      | some g => { c with newGain := g, newFscale := c.tryFscale, fullIn := some s.glb.readies, sum := 0 }
      | none => { c with sum := 0 }) s
    mlrDone { s with frn := { s.frn with phase := 0, mask := 0 } } (if failed.isEmpty then .ok else .format)
      [maskWord failed 0, maskWord failed 64]

/-- One sample of a channel under calibration. -/
def calSample (s : State) (n : Nat) (raw : BitVec 12) : State :=
  if s.frn.phase = 0 || !s.glb.fw || !s.frn.mask.getLsbD n || (chanOf s n).cntLeft = 0 then s
  else
    let s := updChan s n fun c => { c with sum := c.sum + raw.toNat, cntLeft := c.cntLeft - 1 }
    if (calChannels s).all fun k => (chanOf s k).cntLeft = 0 then endPhase s else s

/-! ### Samples and rules (R469-R471) -/

/-- The calibrated value of a sample (R469). -/
def calValue (c : Chan) (raw : BitVec 12) : Nat :=
  (max 0 (min 65535 (((raw.toNat : Int) - c.offset) * c.gain / 1024))).toNat

/-- One step of a filter held with 8 fraction bits (R469). -/
def filterStep (f cal k : Nat) : Nat :=
  if k = 0 then cal * 256 else ((f : Int) + ((cal : Int) * 256 - f) / 2 ^ k).toNat

/-- The value that a rule compares. -/
def ruleValue (c : Chan) (w : Word) : Nat :=
  match bits w 8 2 with
  | 0 => c.cal
  | 1 => c.f1 / 256
  | _ => c.f2 / 256

/-- The regions that a rule targets. -/
def ruleRegions (w : Word) : List Nat := if bits w 52 7 = 64 then List.range 64 else [bits w 52 7]

/-- Leaves STANDBY or PARKED for BOOT when a WAKE rule becomes active (R473). -/
def wakeUp (s : State) : State :=
  if (s.glb.st = .standby ∨ s.glb.st = .parked) ∧ s.pins.seq = .down ∧ s.pins.rstLow = false then startUp s else s

/-- What rule `n` does when it becomes active on a value (R470). -/
def fireRule (s : State) (n : Nat) (w : Word) (v : Nat) : State :=
  let s := { s with frn := { s.frn with active := s.frn.active ||| BitVec.ofNat 64 (2 ^ n), fired := s.frn.fired ||| BitVec.ofNat 64 (2 ^ n) } }
  let s := logFirn s { cls := .info, origin := .firn, aform := 3, addr := n + at_ 8 (bits w 0 7) + at_ 16 v }
  match bits w 48 3 with
  | 1 => if timeRuns s then raiseIrq s 2 else s
  | 2 => setFirnLimits s
  | 3 => (ruleRegions w).foldl (fun s g => if bits (pwrOf s g).rails 1 3 = 0 then s else openRegion s g) s
  | 4 => wakeUp s
  | _ => s

/-- Rule `n` meets a new sample of its source. -/
def evalRule (s : State) (n : Nat) : State :=
  let r := Tbl.get {} s.frn.rules n
  let v := ruleValue (chanOf s (bits r.w 0 7)) r.w
  let th := bits r.w 16 16
  let hy := bits r.w 32 16
  let above := decide (bits r.w 10 2 = 1)
  let setRun := fun (s : State) (k : Nat) => { s with frn := { s.frn with rules := Tbl.set {} s.frn.rules n { r with run := k } } }
  if bits r.w 10 2 = 0 then s
  else if bit s.frn.active n then
    if (above && decide (v + hy < th)) || (!above && decide (th + hy < v)) then
      let s := setRun { s with frn := { s.frn with active := s.frn.active &&& ~~~BitVec.ofNat 64 (2 ^ n) } } 0
      if bits r.w 48 3 = 2 then setFirnLimits s else s
    else s
  else if (above && decide (th < v)) || (!above && decide (v < th)) then
    if bits r.w 12 4 ≤ r.run + 1 then fireRule (setRun s 0) n r.w v else setRun s (r.run + 1)
  else setRun s 0

/-- What a sample of channel `n` converts to: while the test DAC feeds the channel, 4 x CODE within 3 codes, the deviation being the sample's (R471). -/
def sampleRaw (s : State) (n : Nat) (raw : BitVec 12) : BitVec 12 :=
  if bit s.frn.tdac 7 && bits s.frn.tdac 0 7 == n then BitVec.ofNat 12 (min 4095 (4 * bits s.frn.tdac 16 10 + raw.toNat % 7 - 3)) else raw

/-- FIRN_SAMPLE (R469-R472): a conversion of a channel. While the test DAC feeds the channel, or a calibration suspends it, its filters
hold and its rules rest. -/
def execFirnSample (channel : Fin 128) (raw : BitVec 12) (s : State) : Outcome :=
  .next (
    if s.glb.st = .off then s
    else
      let n := channel.val
      let raw := sampleRaw s n raw
      let s := updChan s n fun c => { c with raw := raw, cal := calValue c raw }
      if (chanOf s n).suspended then calSample s n raw
      else if bit s.frn.tdac 7 && bits s.frn.tdac 0 7 == n then s
      else
        let s := updChan s n fun c => { c with f1 := filterStep c.f1 c.cal c.k1.toNat, f2 := filterStep c.f2 c.cal c.k2.toNat }
        (List.range 64).foldl (fun s k =>
          let w := (Tbl.get {} s.frn.rules k).w
          if bits w 10 2 ≠ 0 ∧ bits w 0 7 = n then evalRule s k else s) s)

/-- Does a rule word hold no reserved value, DEBOUNCE of at least 1, and a TARGET within range (R482)? A THROTTLE names one of the six
points (DEDUCED, log entry 63). -/
def ruleOk (w : Word) : Bool :=
  let act := bits w 48 3
  let target := bits w 52 7
  decide (bits w 8 2 ≠ 3) && decide (bits w 10 2 ≠ 3) && decide (bits w 12 4 ≠ 0) && decide (act ≤ 5)
    && (if act = 2 ∨ act = 3 then decide (target ≤ 64) else if act = 5 then decide (target ≤ 3) else decide (target = 0))
    && (act ≠ 2 || decide (bits w 59 3 ≤ 5))

/-- FRN_RULE (R470, R482): a rule is rewritten and is inactive. -/
def execFrnRule (n : Fin 64) (w : Word) (s : State) : Outcome :=
  .next (
    if !hostReach s then s
    else if !ruleOk w then logHost s .format (0x20800 + 8 * n.val) none
    else setFirnLimits { s with frn := { s.frn with
      rules := Tbl.set {} s.frn.rules n.val { w := w &&& 0x3FF7FFFFFFFFFF7F }
      active := s.frn.active &&& ~~~BitVec.ofNat 64 (2 ^ n.val) } })

/-- Is a CALIBRATE running: a phase under way, or a table on its way? -/
def calibrating (s : State) : Bool := decide (s.frn.phase ≠ 0) || (s.mlr.busy && s.mlr.op == 0x42)

/-- FRN_TDAC (R471, R482). -/
def execFrnTdac (w : Word) (s : State) : Outcome :=
  .next (
    if !hostReach s then s
    else if bit w 7 && calibrating s then logHost s .state 0x20A10 none
    else { s with frn := { s.frn with tdac := (w &&& 0x3FF00FF).setWidth 26 } })

/-- CRYSTAL_SWITCH (R467, R469): the OSC_DLY delay ends; the calibration is loaded, and a power-up that waits goes on. -/
def execCrystalSwitch (s : State) : Outcome :=
  .next (
    if s.glb.st = .off ∨ s.frn.crystal then s
    else
      let s := s.frn.stored.foldl (fun s p => match p.2 with
        | some (o, g, f) => updChan s p.1 fun c => { c with offset := o, gain := g, fscale := f }
        | none => s) s
      let s := { s with frn := { s.frn with crystal := true, uncal := s.frn.stored.isEmpty } }
      if s.pins.seq = .waitOsc then { s with pins := { s.pins with seq := .waitEdgeL, enEdgeL := true } } else s)

/-! ### Trips outside the regions -/

/-- FIELD_TRIP (R463): every rail but VDDF goes, and the device is in STANDBY under R567. A power-up under way goes on from its first step (R569;
DESIGN CHOICE, log entry 60). -/
def execFieldTrip (field : Fin 12) (s : State) : Outcome :=
  .next (
    if s.glb.st = .off then s
    else
      let s := { s with thm := { s.thm with tripField := s.thm.tripField ||| BitVec.ofNat 12 (2 ^ field.val) } }
      let up := rising s
      if s.glb.st = .standby && !up then s
      else
        let s := powerDown s false true
        if up then let s := startUp s; { s with pins := { s.pins with interlock := true } } else s)

/-- THM_TRIP and THM_TRIP_EDGE (R481): a 1 clears a latch; it powers nothing. -/
def execThmTrip (edge : Bool) (w : Word) (s : State) : Outcome :=
  .next (
    if !hostReach s then s
    else if edge then
      { s with thm := { s.thm with tripHbm := s.thm.tripHbm &&& ~~~w.setWidth 24
                                   tripField := s.thm.tripField &&& ~~~BitVec.ofNat 12 (bits w 32 12) } }
    else { s with thm := { s.thm with trip := s.thm.trip &&& ~~~w } })

/-! ### The references of the root PLL (R464, R480) -/

/-- REFERENCE_LOSS: the active reference is lost. -/
def execReferenceLoss (s : State) : Outcome := .next (loseRef s s.clk.active)

/-- REFERENCE_RESTORED: a reference is there again. -/
def execReferenceRestored (port : Bool) (s : State) : Outcome := .next (gainRef s port)

/-- CLK_REF (R464, R480): a write that names a port with EN = 0 is discarded, whatever its SRC. LOS_PORT is that of the port named: its lane 0 has lost
signal. The PLL takes the reference of SRC; where that is not there it takes the other with AUTO, or holds over. -/
def execClkRef (w : Word) (s : State) : Outcome :=
  .next (
    let p := bits w 1 4
    if !hostReach s || !bit (portOf s p).cfg 0 then s
    else
      let s := { s with clk := { s.clk with
        src := bit w 0, port := BitVec.ofNat 4 p, auto := bit w 5
        losPort := if s.clk.port.toNat = p then s.clk.losPort else bit (portOf s p).los 0 } }
      let act := if !refThere s s.clk.src && s.clk.auto && refThere s (!s.clk.src) then !s.clk.src else s.clk.src
      { s with clk := { s.clk with active := act, holdover := !refThere s act } })

end Sys2Proof.Machine
end

