-- ==== Sys2Proof/Machine/Realms.lean ====
section
/-!
DEFINITION. Realms (14 R540-R545): the checks of a descriptor, its application, and the end of a realm.
-/
namespace Sys2Proof.Machine

/-- Fields of a descriptor (R540). -/
structure RealmDesc where
  realm : Nat
  update : Bool
  reqsign : Bool
  owner : Bool
  parts : BitVec 64
  ranges : List (Nat × Nat)
  keys : List PartnerKey
deriving DecidableEq, Repr

/-- The partner-key records of a descriptor. -/
def keyRecords (d : List Byte) : List (List Byte) := recordsAt d (128 + 16 * num d 6 1) 72 (num d 7 1)

/-- Reads a descriptor. -/
def realmDesc (d : List Byte) : RealmDesc :=
  { realm := num d 4 1 % 16, update := (num d 5 1).testBit 0, reqsign := (num d 5 1).testBit 1, owner := (num d 5 1).testBit 2
    parts := BitVec.ofNat 64 (num d 8 8)
    ranges := (recordsAt d 128 16 (num d 6 1)).map fun b => (num b 0 8, num b 8 8)
    keys := (keyRecords d).map fun b =>
      { keyid := BitVec.ofNat 64 (num b 0 8), key := slice b 8 57, roles := BitVec.ofNat 8 (num b 65 1) } }

/-- Is a key a canonical point of the prime-order subgroup other than the neutral element (R541)? -/
def keyOk (k : List Byte) : Bool :=
  match ptOf k with
  | none => false
  | some p => ptEq (ptMul edL 446 p) (0, 1, 1) && !ptEq p (0, 1, 1)

/-- Check 2 of R541. -/
def descForm (d : List Byte) : Bool :=
  let x := realmDesc d
  d.take 4 == ascii "YKRD" && decide (num d 4 1 < 16) && decide (num d 5 1 < 8) && decide (num d 6 1 ≤ 8) && decide (num d 7 1 ≤ 32)
    && zeros d 48 64 && zeros d 121 128 && (keyRecords d).all (fun b => zeros b 66 72 && decide (num b 65 1 ≠ 0) && decide (num b 65 1 < 4))
    && (!x.reqsign || x.owner) && (x.owner || zeros d 64 121) && (!x.owner || keyOk (slice d 64 57)) && x.keys.all (fun k => keyOk k.key)
    && decide ((x.keys.map (·.keyid)).Nodup)

/-- Does an image hold region `g`? -/
def regionHeld (s : State) (g : Nat) : Bool := s.hop.slots.any fun p => decide (p.2.st ≠ .free) && bit p.2.regions g
/-- Is an image slot of realm `k` not FREE? A LOADING slot whose header has not been read is no realm's yet. -/
def realmHeld (s : State) (k : Nat) : Bool :=
  s.hop.slots.any fun p => decide (p.2.st ≠ .free) && !(p.2.st == .loading && p.2.image.isEmpty) && p.2.realm == k

/-- Check 4 of R541. -/
def partsFree (s : State) (x : RealmDesc) : Bool :=
  (List.range 64).all fun g =>
    let o := (regionOf s g).org
    let mine := decide (o.realm.map (·.val) = some x.realm)
    let want := bit x.parts g
    (!want || (o.realm.isNone || mine) && !o.pendingScrub) && (want == mine || !regionHeld s g)

/-- The links of realm `k`. -/
def realmLinks (s : State) (k : Nat) : List Nat := (s.links.filter fun l => l.2.realmValid && l.2.realm == k).map (·.1)

/-- The ranges of an allocation in ascending order. -/
def byBase (l : List (Nat × Nat)) : List (Nat × Nat) := sortBy (fun a b => decide (a.1 < b.1)) l

/-- The checks of R541 on a descriptor of `len` bytes. -/
def checkRealm (s : State) (d : List Byte) (len : Nat) : Option Code :=
  let x := realmDesc d
  let old := realmOf s x.realm
  let others := (s.realms.filter fun p => p.1 ≠ x.realm).flatMap fun p => p.2.ranges
  firstFail
    [(decide (len = 128 + 16 * num d 6 1 + 72 * num d 7 1) && decide (d.length = len), .length),
     (descForm d, .format),
     (x.update == old.present, .state),
     (partsFree s x, .state),
     (x.ranges.all fun r => decide (r.2 ≠ 0) && decide (r.1 % 65536 = 0) && decide (r.2 % 65536 = 0) && decide (r.1 + r.2 ≤ 0xBE00000000),
      .length),
     ((x.ranges.zipIdx.all fun r => (x.ranges.take r.2).all fun q => !touch q r.1) && x.ranges.all fun r => others.all fun q => !touch q r,
      .capacity),
     (!x.update || byBase x.ranges == byBase old.ranges
        || !realmHeld s x.realm && (realmLinks s x.realm).all (fun l => (linkOf s l).queues.all fun q => !q.2.en), .state)]

/-- Zeros over the stacks, SRAMs and program memories of region `g` (R544 step 3); a LOST region's VDDM header opens instead (R545). -/
def scrubRegion (s : State) (g : Nat) : State :=
  let lo := coreAddr (256 * g) 0 0
  let hi := coreAddr (256 * (g + 1)) 0 0
  if (regionOf s g).org.shape = .lost then
    updRegion (loseStacks s g) g fun x => { x with org := { x.org with pendingScrub := true }, pwr := { x.pwr with rails := x.pwr.rails &&& 0xE } }
  else
    { s with mem := Memory.zero s.mem lo (hi - lo), prog := Memory.zero s.prog (progAddr (256 * g)) (65536 * 256)
             poison := s.poison.filter fun a => !(decide (lo ≤ a) && decide (a < hi)) }

/-- The partition leaves its realm. -/
def leaveRealm (s : State) (g : Nat) : State :=
  updRegion (scrubRegion s g) g fun x => { x with org := { x.org with realm := none } }

/-- The partitions of realm `k`. -/
def realmParts (s : State) (k : Nat) : List Nat := (List.range 64).filter fun g => (regionOf s g).org.realm.map (·.val) = some k

/-- The registration of a session's key is gone, or no longer has its role (R542). -/
def keyGone (keys : List PartnerKey) (x : Session) : Bool := !keys.any fun k => k.keyid == x.keyid && k.roles.getLsbD x.role

/-- Applies a descriptor (R542). -/
def applyRealm (s : State) (d : List Byte) : State :=
  let x := realmDesc d
  let s := ((realmParts s x.realm).filter fun g => !bit x.parts g).foldl leaveRealm s
  let s := (setBits x.parts.toNat 64).foldl (fun s g =>
    updRegion s g fun y => { y with org := { y.org with realm := if h : x.realm < 16 then some ⟨x.realm, h⟩ else none } }) s
  let (salt, s) := if x.update then ((realmOf s x.realm).salt, s) else drawBytes s 32
  let s := updRealm s x.realm fun _ =>
    { present := true, parts := x.parts, ranges := x.ranges, secret := slice d 16 32, reqsign := x.reqsign
      owner := if x.owner then some (slice d 64 57) else none, keys := x.keys, salt := salt, ownerBytes := slice d 64 64 }
  closeSessions s (fun y => y.realm == x.realm && keyGone x.keys y) .auth

/-- REALM_CREATE has its descriptor, or not (R541, R542). -/
def realmIn (s : State) (len : Nat) (r : DmaRes) : State :=
  match r with
  | .wait => dmaWait s (.realm len)
  | .stop code => mlrDone s code []
  | .data bs =>
    match checkRealm s (bs.take len) len with
    | some code => mlrDone s code []
    | none => mlrDone (applyRealm s (bs.take len)) .ok []

/-- REALM_DESTROY after the common checks (R544): its sessions send their CLOSE and end at once (R364). -/
def destroyRealm (s : State) (k : Nat) : State :=
  if !(realmOf s k).present || realmHeld s k then mlrDone s .state []
  else
    let ids := (s.sluice.sessions.filter fun x => x.realm == k).map (·.id)
    let s := ids.foldl (fun s n => endSession s n .fenced) (closeSessions s (fun x => x.realm == k) .fenced)
    let s := (realmLinks s k).foldl (fun s l =>
      updLink ((List.range 16).foldl (fun s q => disableQueue s l q) s) l fun x => { x with realmValid := false }) s
    let s := (realmParts s k).foldl leaveRealm s
    let s := (realmOf s k).ranges.foldl (fun s r => snowWritten (zeroBytes s (snowAddr r.1) r.2) r.1 r.2) s
    mlrDone (updRealm s k fun _ => {}) .ok []

end Sys2Proof.Machine
end

