-- ==== Sys2Proof/Machine/Mailbox.lean ====
section
/-!
DEFINITION. The mailbox (14 R526-R548) and what its commands start: firmware, images, weights, quotes, the Moraine map, certificates,
calibration, fences of regions, realms, park (12 R474) and shut-down (13 R519-R524).
-/
namespace Sys2Proof.Machine

/-! ### BOOT_FW (R527-R529) -/

/-- The checks of R528 on a firmware image of `len` bytes. -/
def checkFirmware (f : List Byte) (len : Nat) : Option Code :=
  firstFail
    [(decide (num f 20 4 = len) && decide (f.length = len) && decide (32768 ≤ len) && decide (len ≤ 8388608) && decide (len % 16 = 0), .length),
     (f.take 4 == ascii "YKFW" && decide (num f 4 2 = 1) && zeros f 6 8 && zeros f 24 32 && zeros f 210 256, .format),
     (BitVec.ofNat 64 (num f 8 8) == Config.bootKeyid, .auth),
     (slice f 32 64 == shake256 (f.drop 256) 64, .auth),
     (edVerify Config.bootKey "YKFW" (f.take 96) (slice f 96 114), .auth)]

/-- The firmware image has been read into Miller memory, or not (R528, R529): after a success the firmware runs the bring-up; after a failed check
the memory is zeroed. -/
def firmwareIn (s : State) (len : Nat) (r : DmaRes) : State :=
  match r with
  | .wait => dmaWait s (.firmware len)
  | .stop code => mlrDone s code []
  | .data bs =>
    let f := bs.take len
    match checkFirmware f len with
    | some code => mlrDone (secCount { s with glb := { s.glb with bootcode := code }, sec := { s.sec with fwMem := [] } } 0) code []
    | none =>
      bringUp (mlrDone { s with
        glb := { s.glb with bootcode := .ok }
        sec := { s.sec with fwMem := f, svn := num f 16 4, fwLen := len, fwKeyid := BitVec.ofNat 64 (num f 8 8), fwDig := slice f 32 64 } } .ok [])

/-! ### Quotes (R546, R547) -/

/-- Codes of R266. -/
def SlotSt.num : SlotSt → Nat
  | .free => 0 | .loading => 1 | .staged => 2 | .loaded => 3

/-- The manifest digest of an image (R264). -/
def manifestDigest (img : List Byte) : List Byte :=
  if (sectionsOf img).any fun x => x.type == 0xC then shake256 (sectBody img 0xC) 64 else List.replicate 64 0

/-- The slots that a quote shows. -/
def quoteSlots (s : State) (mask : Nat) : List Nat :=
  (List.range 64).filter fun n => let x := slotOf s n; (x.st = .staged ∨ x.st = .loaded) && mask.testBit x.realm
/-- The realms that a quote shows. -/
def quoteRealms (s : State) (mask : Nat) : List Nat := (List.range 16).filter fun k => (realmOf s k).present && mask.testBit k

/-- An image entry. -/
def quoteImage (s : State) (n : Nat) : List Byte :=
  let x := slotOf s n
  [BitVec.ofNat 8 n, BitVec.ofNat 8 x.st.num, BitVec.ofNat 8 x.realm, BitVec.ofNat 8 (bnat x.signed), 0, 0, 0, 0]
    ++ leBytes 8 x.regions.toNat ++ slice x.meas 0 64 ++ manifestDigest x.image

/-- The 72 bytes of a key record (R540). -/
def keyBytes (k : PartnerKey) : List Byte := leBytes 8 k.keyid.toNat ++ slice k.key 0 57 ++ [k.roles] ++ List.replicate 6 0

/-- A realm entry. -/
def quoteRealm (s : State) (k : Nat) : List Byte :=
  let x := realmOf s k
  let keys := sortBy (fun (a b : PartnerKey) => decide (a.keyid.toNat < b.keyid.toNat)) x.keys
  [BitVec.ofNat 8 k, BitVec.ofNat 8 (bnat x.reqsign + 2 * bnat x.owner.isSome)] ++ List.replicate 6 0 ++ leBytes 8 x.parts.toNat
    ++ shake256 (slice x.ownerBytes 0 64 ++ keys.flatMap keyBytes) 64

/-- The length of a quote. -/
def quoteLen (s : State) (mask : Nat) : Nat := 496 + 144 * (quoteSlots s mask).length + 80 * (quoteRealms s mask).length

/-- The snapshot before the nonce. -/
def quotePre (s : State) (mask : Nat) : List Byte :=
  ascii "YKQT" ++ leBytes 2 1 ++ [BitVec.ofNat 8 (quoteSlots s mask).length, BitVec.ofNat 8 (quoteRealms s mask).length]
    ++ leBytes 4 (quoteLen s mask)
    ++ [BitVec.ofNat 8 steppingCode, BitVec.ofNat 8 (grade s), BitVec.ofNat 8 s.glb.fgrade, BitVec.ofNat 8 s.glb.st.num]
    ++ leBytes 8 s.glb.time ++ leBytes 8 s.glb.serial.toNat ++ leBytes 4 s.bootno ++ leBytes 4 s.sec.svn ++ leBytes 8 s.sec.fwKeyid.toNat

/-- The snapshot after the nonce. -/
def quotePost (s : State) (mask : Nat) : List Byte :=
  slice s.sec.romDig 0 64 ++ slice s.sec.fwDig 0 64 ++ moraineDigest s ++ slice s.sec.devKey 0 57 ++ List.replicate 7 0
    ++ (quoteSlots s mask).flatMap (quoteImage s) ++ (quoteRealms s mask).flatMap (quoteRealm s)

/-- The nonce has been read, or not: the quote is signed and written, unless Bus Master Enable is 0 by then (R431). -/
def nonceIn (s : State) (out : Nat) (pre post : List Byte) (r : DmaRes) : State :=
  match r with
  | .wait => dmaWait s (.nonce out pre post)
  | .stop code => mlrDone s code []
  | .data bs =>
    let q := pre ++ slice bs 0 64 ++ post
    let q := q ++ edSign s.sec.privKey "YKQT" q ++ List.replicate 14 0
    if s.glb.busMaster then mlrDone (secCount { s with out := s.out ++ [.host out q] } 4) .ok [BitVec.ofNat 64 q.length]
    else mlrDone s .state []

/-- Writes an output to host memory and completes (R431, R538). -/
def writeHost (s : State) (addr : Nat) (bs : List Byte) : State :=
  if s.glb.busMaster then mlrDone { s with out := s.out ++ [.host addr bs] } .ok [BitVec.ofNat 64 bs.length] else mlrDone s .state []

/-- The certificate chain as READ_CERTS writes it (R548). "Total bytes" is taken as all bytes written (DESIGN CHOICE, log entry 65). -/
def certBytes : List Byte :=
  let body := Config.certificates.flatMap fun c => leBytes 4 c.length ++ c
  leBytes 4 Config.certificates.length ++ leBytes 4 (16 + body.length) ++ List.replicate 8 0 ++ body

/-! ### Calibration (R472, R538) -/

/-- A phase begins on a mask of channels. -/
def beginPhase (s : State) (phase : Nat) (mask : BitVec 128) : State :=
  let s := { s with frn := { s.frn with phase := phase, mask := mask } }
  let s := (calChannels s).foldl (fun s n => updChan s n fun c => { c with suspended := true, sum := 0, cntLeft := 1024 }) s
  if mask = 0 then endPhase s else s

/-- The FULL table has been read, or not: one record per channel of the mask in ascending order. A table of another form completes with
FORMAT (DESIGN CHOICE, log entry 59). -/
def tableIn (s : State) (mask : BitVec 128) (r : DmaRes) : State :=
  let chs := setBits mask.toNat 128
  match r with
  | .wait => dmaWait s .table
  | .stop code => mlrDone s code []
  | .data bs =>
    let recs := recordsAt bs 0 8 chs.length
    if (recs.map fun b => num b 0 1) == chs && recs.all fun b => zeros b 1 2 && zeros b 6 8 then
      beginPhase (recs.foldl (fun s b => updChan s (num b 0 1) fun c => { c with tryFscale := num b 2 2, applied := num b 4 2 }) s) 2 mask
    else mlrDone s .format []

/-- Phase STORE. -/
def storeCal (s : State) (mask : BitVec 128) : State :=
  let chs := setBits mask.toNat 128
  if !chs.all fun n => zeroDone s (chanOf s n) && fullDone s (chanOf s n) then mlrDone s .state []
  else mlrDone (chs.foldl (fun s n =>
    let c := chanOf s n
    let s := updChan s n fun c => { c with offset := c.newOffset, gain := c.newGain, fscale := c.newFscale, suspended := false }
    { s with frn := { s.frn with stored := Tbl.set none s.frn.stored n (some (c.newOffset, c.newGain, c.newFscale)) } }) s) .ok []

/-! ### Fences of regions (R496, R498, R539) -/

/-- The FENCE that waits completes when DSTATE is FENCED for every covered step owner (R538). -/
def goOnFence (s : State) : State :=
  match s.mlr.fencing with
  | none => s
  | some g =>
    if s.glb.fw && (ownersIn s g).all (fun m => decide ((millOf s m).dstate ≠ .draining)) then
      mlrDone { s with mlr := { s.mlr with fencing := none } } .ok []
    else s

/-- FENCE of region `g`. -/
def fenceRegion (s : State) (g : Nat) : State :=
  let x := (regionOf s g).org
  if x.shape = .lost then mlrDone s .lost []
  else
    let s := if x.fenced then s
      else regionRec (updRegion s g fun y => { y with org := { y.org with fenced := true } }) g .fenced .region 0
    let s := refresh ((ownersIn s g).foldl fenceOwner (stopLoading s g .fenced))
    goOnFence { s with mlr := { s.mlr with fencing := some g } }

/-- UNFENCE of region `g`. -/
def unfenceRegion (s : State) (g : Nat) : State :=
  if !(regionOf s g).org.fenced then mlrDone s .state []
  else
    let s := regionRec (updRegion s g fun y => { y with org := { y.org with fenced := false } }) g .ok .region 0
    mlrDone (refresh ((ownersIn s g).foldl tryLift s)) .ok []

/-! ### Shut-down and park (12 R474; 13 R519-R524) -/

/-- The signature set is stored with the blocks that `tested` picks (R523). -/
def storeSet (s : State) (tested : Nat → Bool) (whole : Bool) : State :=
  let res := s.bst.run.filter fun p => tested p.1
  let clean := whole && (List.range 0x61).all fun b => (Tbl.get {} res b).res ≤ 1
  { s with bst := { s.bst with shut := .none, results := res, run := [], clean := clean, mapDig := moraineDigest s, table := s.sec.fwDig } }

/-- The self-test of block `b` (R521, R523). -/
def testBlock (s : State) (b : Nat) : State := testBlocks s [b]

/-- The slots STAGED or LOADED. -/
def heldSlots (s : State) : List Nat := (s.hop.slots.filter fun p => p.2.st = .staged ∨ p.2.st = .loaded).map (·.1)

/-- The unload of the next slot begins, in ascending order; with none left, the rest of R474: sessions, rails. -/
def parkNext (s : State) : State :=
  match sortNat (heldSlots s) with
  | n :: _ => fenceSlot (hopStart s .unload n) n
  | [] => powerDown (closeSessions s (fun _ => true) .fenced) true false

/-- The slot that a park unloads is released once its drains are over: a LOADED one leaves a retention entry, and no stack partition is
written (R474 steps 1 and 2). -/
def parkSlot (s : State) : State :=
  let n := s.hop.slot
  if !slotQuiet s n then s
  else
    let x := slotOf s n
    let s := if x.st = .loaded then { s with hop := { s.hop with retain := s.hop.retain ++ [{ meas := x.meas, regions := x.regions }] } } else s
    let k := (slotRegions s n).length
    let s := clearSlot s n (2 ^ 28)
    parkNext (refresh (hopEnd { s with hop := { s.hop with progress := k } } .ok 0 0))

/-- The unloads of a park begin (R474 step 1), once the Hopper has ended what it does (R267). -/
def beginPark (s : State) : State :=
  if s.hop.op ≠ .idle then s
  else parkNext { s with bst := { s.bst with shut := .unloading }, hop := { s.hop with retain := [] } }

/-- Are the steps that step 1 of R519 lets retire over? A step that is HALTED does not retire and is not waited for (log entry 66). -/
def stepsOver (s : State) : Bool :=
  s.mills.all fun p => !p.2.inStep || (p.2.st ≠ .running && p.2.st ≠ .restart && p.2.dstate ≠ .draining)

/-- The next block of phase 1: regions, then the Firn ADCs. -/
def nextBlock (b : Nat) : Nat := if b = 0x3F then 0x5D else b + 1

/-- A shut-down or park in progress goes on by one step of R519: a phase begins, a block is tested, or the device goes down. -/
def goOnShut (s : State) : State :=
  match s.bst.shut with
  | .none => s
  | .draining =>
    if !stepsOver s then s
    else if s.bst.test then { s with bst := { s.bst with shut := .phase1, block := 0 } }
    else if s.bst.isPark then beginPark s
    else closeSessions { s with bst := { s.bst with shut := .phase2, block := 0x40 } } (fun _ => true) .fenced
  | .phase1 =>
    let b := s.bst.block
    let s := testBlock s b
    if b ≠ 0x60 then { s with bst := { s.bst with block := nextBlock b } }
    else
      let s := raiseIrq s 7
      if s.bst.isPark then
        let s := storeSet s (fun b => decide (b < 0x40) || decide (0x5D ≤ b)) true
        beginPark { s with bst := { s.bst with shut := .draining, test := false } }
      else closeSessions { s with bst := { s.bst with shut := .phase2, block := 0x40 } } (fun _ => true) .fenced
  | .phase2 =>
    let b := s.bst.block
    let s := testBlock s b
    if b ≠ 0x5C then { s with bst := { s.bst with block := b + 1 } }
    else
      let test := s.bst.test
      powerDown (storeSet (raiseIrq s 7) (fun b => test || decide (0x40 ≤ b) && decide (b ≤ 0x5C)) true) false true
  | .unloading => parkSlot s

/-- PARK or SHUTDOWN begins. While one is under way a second completes with STATE (DESIGN CHOICE, log entry 66). -/
def beginShut (s : State) (park test : Bool) : State :=
  if s.hop.op ≠ .idle then mlrDone s .busy []
  else if s.bst.shut ≠ .none then mlrDone s .state []
  else
    let s := mlrDone s .ok []
    let s := { s with bst := { s.bst with shut := .draining, isPark := park, test := test, run := [] } }
    if park && !test then goOnShut (beginPark s) else s

/-- WAKE (R524). -/
def cancelShut (s : State) : State :=
  match s.bst.shut with
  | .draining => mlrDone (storeSet s (fun _ => false) false) .ok []
  | .phase1 =>
    let b := s.bst.block
    let s := testBlock s b
    mlrDone (storeSet s (fun k => (decide (k < 0x40) || decide (0x5D ≤ k)) && decide (k ≤ b)) false) .ok []
  | _ => mlrDone s .state []

/-! ### The doorbell (R535-R539) -/

/-- Argument `k` of the command. -/
def mlrArg (s : State) (k : Nat) : Nat := (Tbl.get 0 s.mlr.args k).toNat

/-- The bits that the table of R538 names, by argument; none for a reserved OP. -/
def argMasks (op : Nat) : Option (List Nat) :=
  let all := 2 ^ 64 - 1
  let m32 := 2 ^ 32 - 1
  match op with
  | 0x01 | 0x10 | 0x50 => some [all, all]
  | 0x11 | 0x43 | 0x44 => some [0x3F]
  | 0x12 => some [0x3F, m32, all]
  | 0x20 => some [all, all, m32, 0xFFFF]
  | 0x21 | 0x22 => some [all, m32]
  | 0x30 | 0x32 => some [1]
  | 0x31 => some []
  | 0x40 => some [0xFFF]
  | 0x41 => some [7]
  | 0x42 => some [3, all, all, all]
  | 0x51 => some [0xF]
  | _ => none

/-- Does the device's state accept the command (R526, R538)? WAKE has its own condition. -/
def stateAccepts (s : State) (op : Nat) : Bool :=
  match op with
  | 0x01 => s.glb.st = .boot
  | 0x42 => s.glb.st = .ready
  | 0x43 | 0x44 => s.glb.st = .loaded || s.glb.st = .running || s.glb.st = .degraded
  | 0x31 => isUp s && match s.bst.shut with
      | .draining => !s.bst.isPark || s.bst.test
      | .phase1 => true
      | _ => false
  | _ => isUp s

/-- Check 3 of R539. -/
def argsOk (s : State) (op : Nat) (masks : List Nat) : Bool :=
  (List.range 8).all (fun k => mlrArg s k &&& (2 ^ 64 - 1 - masks.getD k 0) = 0) &&
    match op with
    | 0x40 => decide (200 ≤ mlrArg s 0) && decide (mlrArg s 0 ≤ 3000)
    | 0x41 => decide (mlrArg s 0 ≤ 5)
    | 0x42 => decide (mlrArg s 0 ≠ 3)
    | _ => true

/-- What the command writes, its length, and the capacity given (check 4 of R539). -/
def outputLen (s : State) (op : Nat) : Option (Nat × Nat) :=
  match op with
  | 0x20 => some (quoteLen s (mlrArg s 3), mlrArg s 2)
  | 0x21 => some ((moraineBytes s).length, mlrArg s 1)
  | 0x22 => some (certBytes.length, mlrArg s 1)
  | _ => none

/-- A command that completes as soon as its operation has begun (R538). -/
def startsWith (s : State) (res : List Word) (f : State → Code × State) : State :=
  let r := f (mlrDone s .ok res)
  if r.1 = .ok then r.2 else mlrDone s r.1 []

/-- The channel mask of CALIBRATE. -/
def calMask (s : State) : BitVec 128 := BitVec.ofNat 128 (mlrArg s 1 + at_ 64 (mlrArg s 2))

/-- A command after the common checks. -/
def mlrRun (s : State) (op : Nat) (a1 a2 : DmaAnswer) : State :=
  let a := mlrArg s
  match op with
  | 0x01 => firmwareIn s (a 1) (dmaRead s a1)
  | 0x10 => startsWith s [BitVec.ofNat 64 ((freeSlot s).getD 0)] fun s => beginLoad s (a 1) a1 a2
  | 0x11 => startsWith s [] fun s => beginUnload s (a 0)
  | 0x12 => startsWith s [] fun s => beginWeights s (a 0) (BitVec.ofNat 32 (a 1)) (a 2)
  | 0x20 => if s.sec.idfail then mlrDone s .auth [] else nonceIn s (a 1) (quotePre s (a 3)) (quotePost s (a 3)) (dmaRead s a1)
  | 0x21 => writeHost s (a 0) (moraineBytes s)
  | 0x22 => writeHost s (a 0) certBytes
  | 0x30 => beginShut s true (a 0 == 1)
  | 0x31 => cancelShut s
  | 0x32 => beginShut s false (a 0 == 1)
  | 0x40 => mlrDone (setPwr s { s.pwr with cap := BitVec.ofNat 12 (a 0) }) .ok []
  | 0x41 => mlrDone (setPwr s { s.pwr with prio := BitVec.ofNat 3 (a 0) }) .ok []
  | 0x42 => if a 0 = 0 then beginPhase s 1 (calMask s) else if a 0 = 1 then tableIn s (calMask s) (dmaRead s a1) else storeCal s (calMask s)
  | 0x43 => fenceRegion s (a 0)
  | 0x44 => unfenceRegion s (a 0)
  | 0x50 => realmIn s (a 1) (dmaRead s a1)
  | _ => destroyRealm s (a 0)

/-- A GO (R536, R539). In FAULT no processor serves the mailbox, and BUSY stays. -/
def mlrGo (s : State) (a1 a2 : DmaAnswer) : State :=
  if s.mlr.busy then logHost s .busy 0x10048 none
  else
    let s := { s with mlr := { s.mlr with busy := true } }
    let s := if s.glb.st = .boot && s.sec.romDig.isEmpty then bootRom s else s
    let op := s.mlr.op.toNat
    if !s.glb.fw && s.glb.st ≠ .boot then s
    else match argMasks op with
      | none => mlrDone s .unsupported []
      | some masks =>
        if !stateAccepts s op then mlrDone s .state []
        else if !argsOk s op masks then mlrDone s .format []
        else match outputLen s op with
          | some (need, cap) => if cap < need then mlrDone s .length [BitVec.ofNat 64 need] else mlrRun s op a1 a2
          | none => mlrRun s op a1 a2

/-- The host writes a command, its arguments (those not named are 0) and GO. While BUSY = 1 the writes are discarded. -/
def mailbox (s : State) (op : Nat) (tag : BitVec 16) (args : List Word) (a1 a2 : DmaAnswer) : Outcome :=
  .next (
    if !hostReach s then s
    else if s.mlr.busy then mlrGo s a1 a2
    else mlrGo { s with mlr := { s.mlr with op := BitVec.ofNat 8 op, tag := tag
                                            args := (args.zipIdx.filter fun p => p.1 ≠ 0).map fun p => (p.2, p.1) } } a1 a2)

/-- BOOT_FW (R528, R529). -/
def execBootFw (tag : BitVec 16) (addr len : Word) (ans : DmaAnswer) (s : State) : Outcome := mailbox s 0x01 tag [addr, len] ans .later
/-- LOAD_IMAGE (R267-R271). -/
def execLoadImage (tag : BitVec 16) (addr len : Word) (first second : DmaAnswer) (s : State) : Outcome :=
  mailbox s 0x10 tag [addr, len] first second
/-- UNLOAD (R276). -/
def execUnload (tag : BitVec 16) (a0 : Word) (s : State) : Outcome := mailbox s 0x11 tag [a0] .later .later
/-- LOAD_WEIGHTS (R273-R275). -/
def execLoadWeights (tag : BitVec 16) (a0 a1 a2 : Word) (s : State) : Outcome := mailbox s 0x12 tag [a0, a1, a2] .later .later
/-- QUOTE (R546, R547). -/
def execQuote (tag : BitVec 16) (a0 a1 a2 a3 : Word) (ans : DmaAnswer) (s : State) : Outcome := mailbox s 0x20 tag [a0, a1, a2, a3] ans .later
/-- READ_MORAINE (R548). -/
def execReadMoraine (tag : BitVec 16) (a0 a1 : Word) (s : State) : Outcome := mailbox s 0x21 tag [a0, a1] .later .later
/-- READ_CERTS (R548). -/
def execReadCerts (tag : BitVec 16) (a0 a1 : Word) (s : State) : Outcome := mailbox s 0x22 tag [a0, a1] .later .later
/-- PARK (R474). -/
def execPark (tag : BitVec 16) (a0 : Word) (s : State) : Outcome := mailbox s 0x30 tag [a0] .later .later
/-- WAKE (R524). -/
def execWake (tag : BitVec 16) (s : State) : Outcome := mailbox s 0x31 tag [] .later .later
/-- SHUTDOWN (R519). -/
def execShutdown (tag : BitVec 16) (a0 : Word) (s : State) : Outcome := mailbox s 0x32 tag [a0] .later .later
/-- SET_CAP (R455). -/
def execSetCap (tag : BitVec 16) (a0 : Word) (s : State) : Outcome := mailbox s 0x40 tag [a0] .later .later
/-- SET_PRIO (R455). -/
def execSetPrio (tag : BitVec 16) (a0 : Word) (s : State) : Outcome := mailbox s 0x41 tag [a0] .later .later
/-- CALIBRATE, phase ZERO (R472). -/
def execCalibrateZero (tag : BitVec 16) (a1 a2 : Word) (s : State) : Outcome := mailbox s 0x42 tag [0, a1, a2] .later .later
/-- CALIBRATE, phase FULL (R472). -/
def execCalibrateFull (tag : BitVec 16) (a1 a2 a3 : Word) (ans : DmaAnswer) (s : State) : Outcome :=
  mailbox s 0x42 tag [1, a1, a2, a3] ans .later
/-- CALIBRATE, phase STORE (R472). -/
def execCalibrateStore (tag : BitVec 16) (a1 a2 : Word) (s : State) : Outcome := mailbox s 0x42 tag [2, a1, a2] .later .later
/-- FENCE of a region (R496, R539). -/
def execRegionFence (tag : BitVec 16) (a0 : Word) (s : State) : Outcome := mailbox s 0x43 tag [a0] .later .later
/-- UNFENCE of a region (R498, R539). -/
def execUnfence (tag : BitVec 16) (a0 : Word) (s : State) : Outcome := mailbox s 0x44 tag [a0] .later .later
/-- REALM_CREATE (R540-R542). -/
def execRealmCreate (tag : BitVec 16) (a0 a1 : Word) (ans : DmaAnswer) (s : State) : Outcome := mailbox s 0x50 tag [a0, a1] ans .later
/-- REALM_DESTROY (R544, R545). -/
def execRealmDestroy (tag : BitVec 16) (a0 : Word) (s : State) : Outcome := mailbox s 0x51 tag [a0] .later .later

/-! ### Host memory answers later (R431) -/

/-- What a bus-master read comes to, for the operation it serves. -/
def dmaIn (s : State) (j : DmaJob) (r : DmaRes) : State :=
  match j with
  | .firmware len => firmwareIn s len r
  | .image1 len => loadFirst s len r .later
  | .image2 => loadSecond s r
  | .shard i => match r with
    | .data bs => shardIn s i bs
    | .stop code => weightsStop s code 0xC i
    | .wait => s
  | .nonce out pre post => nonceIn s out pre post r
  | .table => tableIn s (calMask s) r
  | .realm len => realmIn s len r

/-- The oldest outstanding read ends. -/
def dmaEnd (s : State) (r : DmaRes) : State :=
  match s.glb.dma with
  | [] => s
  | j :: js => if s.glb.fw || s.glb.st = .boot then dmaIn { s with glb := { s.glb with dma := js } } j.2 r else s

/-- DMA_COMPLETION. -/
def execDmaCompletion (ans : DmaAnswer) (s : State) : Outcome := .next (if ans = .later then s else dmaEnd s (dmaRes ans))

/-- DMA_TIMEOUT: 50 ms without a completion; one recognised in the same cycle is taken, and its data come with DMA_COMPLETION. -/
def execDmaTimeout (completed : Bool) (s : State) : Outcome :=
  .next (
    match s.glb.dma with
    | [] => s
    | j :: _ =>
      let s := advanceTo s (j.1 + 50000000)
      if completed then { s with glb := { s.glb with late := bump s.glb.late } } else dmaEnd s (.stop .timeout))

/-- Every outstanding read ends with LOST (R431): as many as are outstanding now. -/
def dmaLost (s : State) : State := (List.range s.glb.dma.length).foldl (fun s _ => dmaEnd s (.stop .lost)) s

end Sys2Proof.Machine
end

