-- ==== Sys2Proof/Machine/Snowpack.lean ====
section
/-!
DEFINITION. Snowpack apart from accesses (11 R400-R421): patrol and write-backs, refresh, temperatures, stacks taken out of service,
the zone map; and the patrol of the core stacks (04 R130, R131, R161).
-/
namespace Sys2Proof.Machine

/-- Is Snowpack powered and in use: READY to DEGRADED (R416)? -/
def snowUp (s : State) : Bool := isUp s

/-! ### Patrol (R410, R411) -/

/-- The first burst at `a` or above that the patrol of controller `k` reads: on a stack in service, in no zone that is being zeroed, in
no enabled TX aperture. The patrol goes up through the addresses (DESIGN CHOICE, log entry 70). -/
def patrolFrom (s : State) (k : Nat) : Nat → Nat → Option Nat
  | 0, _ => none
  | n + 1, a =>
    let z := a / zoneSize
    if 32 ≤ z then none
    else if s.snow.zeroing.contains z then patrolFrom s k n ((z + 1) * zoneSize)
    else
      match (apertures s).find? fun p => decide (p.2.2.1 ≤ a) && decide (a < p.2.2.1 + p.2.2.2) with
      | some p => patrolFrom s k n (p.2.2.1 + p.2.2.2)
      | none =>
        let t := snowStack s.snow.zmap a
        if t / 6 = k && stackUp s t then some a
        else if t / 6 ≠ k && decide (z < 31) && s.snow.zmap.getLsbD z then patrolFrom s k n (a / (6 * 2 ^ 30) * (6 * 2 ^ 30) + 6 * 2 ^ 30)
        else patrolFrom s k n (a / 4096 * 4096 + 4096)

/-- The next burst of the patrol of controller `k` from its position on. -/
def nextPatrol (s : State) (k a : Nat) : Option Nat :=
  if (List.range 6).any fun i => stackUp s (6 * k + i) then patrolFrom s k 8192 a else none

/-- The record of a burst that the patrol cannot correct (R410, R486). -/
def snowPatrolRec (k a : Nat) : Rec :=
  { code := .ecc, cls := .info, origin := .edge, unit := 12, edgeid := 16 + k, aform := 1, addr := snowAddr a, syndrome := 2 + 2 ^ 8 }

/-- What the patrol does with the burst at `a`: a corrected one waits for its write-back, one that cannot be corrected is poisoned and
reported, and one that is poisoned already is counted. -/
def patrolBurst (s : State) (k a : Nat) (found : Burst) : State :=
  if s.snow.poison.contains a then (snowUe s a 3).1
  else
    match found with
    | .clean => s
    | .corrected => (meetSnow a 64 s (.burstCorrected (snowAddr a))).1
    | .uncorrectable =>
      let s := (snowUe s a 2).1
      logRec { s with snow := { s.snow with poison := s.snow.poison ++ [a] } } (snowPatrolRec k a)

/-- SNOWPACK_PATROL (R410): the patrol of a controller reads its next burst, with which the stack's own ECC may report a correction (R409). -/
def execSnowpackPatrol (ctl : Fin 4) (found : Burst) (die : Bool) (s : State) : Outcome :=
  .next (
    let k := ctl.val
    let x := ctlOf s k
    if !snowUp s || x.interval = 0 then s
    else
      match nextPatrol s k x.position with
      | none =>
        if x.position = 0 then s
        else updCtl s k fun x => { x with position := 0, passes := bumpW 32 x.passes }
      | some a =>
        let s := patrolBurst (if die then ctlCount s k 4 1 else s) k a found
        match nextPatrol s k (a + 64) with
        | some _ => updCtl s k fun x => { x with position := a + 64 }
        | none => updCtl s k fun x => { x with position := 0, passes := bumpW 32 x.passes })

/-- SNOWPACK_WRITE_BACK (R411): a corrected burst is written back. -/
def execSnowpackWriteBack (ctl : Fin 4) (addr : BitVec 40) (s : State) : Outcome :=
  .next (
    if snowUp s then updCtl s ctl.val fun x => { x with writeBacks := x.writeBacks.filter (· ≠ addr.toNat) } else s)

/-! ### Stacks out of service (R413, R463) -/

/-- Stack `t` is taken out of service: FAILED, a LINK record with LOST that names it, and an HBM entry of the Moraine map. -/
def failStack (s : State) (t : Nat) : State :=
  let k := t / 6
  let b := BitVec.ofNat 6 (2 ^ (t % 6))
  if bit (ctlOf s k).failed (t % 6) then s
  else
    let s := updCtl s k fun x => { x with failed := x.failed ||| b, ready := x.ready &&& ~~~b, hot := x.hot &&& ~~~b }
    let s := logFirn s { code := .lost, cls := .link, origin := .edge, edgeid := 16 + k, aform := 3, addr := t }
    raiseIrq (addMoraine s { kind := 10, source := 1, region := t }) (12 + k)

/-- Stack `t` reports 105 degrees or more (R463): it is taken out of service, and its bit of THM_TRIP_EDGE is set. -/
def hbmTrip (s : State) (t : Nat) : State :=
  let s := failStack s t
  raiseIrq { s with thm := { s.thm with tripHbm := s.thm.tripHbm ||| BitVec.ofNat 24 (2 ^ t) } } 3

/-- STACK_FATAL_ERROR (R413). -/
def execStackFatalError (stack : Fin 24) (s : State) : Outcome := .next (if snowUp s then failStack s stack.val else s)

/-- HBM_TRIP (R463): a stack reports 105 degrees or more. -/
def execHbmTrip (stack : Fin 24) (s : State) : Outcome :=
  .next (
    if !(snowUp s || decide (s.glb.st = .fault)) then s
    else hbmTrip s stack.val)

/-! ### Refresh and temperature (R414, R415) -/

/-- REFRESH (R414): a per-bank refresh of a stack. -/
def execRefresh (ctl : Fin 4) (stack : Fin 6) (s : State) : Outcome :=
  .next (
    if snowUp s && stackUp s (6 * ctl.val + stack.val) then
      updCtl s ctl.val fun x => { x with refreshes := Tbl.upd 0 x.refreshes stack.val bump }
    else s)

/-- RFM (R414): a refresh management command, counted in SNW_RFM. -/
def execRfm (ctl : Fin 4) (stack : Fin 6) (s : State) : Outcome :=
  .next (if snowUp s && stackUp s (6 * ctl.val + stack.val) then ctlCount s ctl.val 7 1 else s)

/-- SNOWPACK_TEMPERATURE (R415): a reading in 1/16 degree, kept in SNW_TEMP and forwarded to the thermal block. Half rate begins at 95 degrees
and ends at 92; at 105 degrees or more the stack trips (R463). -/
def execSnowpackTemperature (ctl : Fin 4) (stack : Fin 6) (temp : BitVec 12) (s : State) : Outcome :=
  .next (
    let k := ctl.val
    let i := stack.val
    if !snowUp s || !stackUp s (6 * k + i) then s
    else
      let s := updCtl s k fun x => { x with temps := Tbl.set none x.temps i (some temp) }
      let s := { s with thm := { s.thm with snowTemps := Tbl.set 0 s.thm.snowTemps (6 * k + i) temp } }
      let hot := bit (ctlOf s k).hot i
      if 1680 ≤ temp.toNat then hbmTrip s (6 * k + i)
      else if !hot && decide (1520 ≤ temp.toNat) then
        raiseIrq (updCtl s k fun x => { x with hot := x.hot ||| BitVec.ofNat 6 (2 ^ i) }) (12 + k)
      else if hot && decide (temp.toNat ≤ 1472) then updCtl s k fun x => { x with hot := x.hot &&& ~~~BitVec.ofNat 6 (2 ^ i) }
      else s)

/-! ### The zone map (R401, R418) -/

/-- A zone is zeroed: its contents and its poison are gone, and its write-backs with them. The bytes of an enabled aperture are not written
(R393, R412). -/
def zeroZone (s : State) (z : Nat) : State :=
  (outsideApertures s (z * zoneSize) zoneSize).foldl (fun s r => snowWritten (zeroBytes s (snowAddr r.1) r.2) r.1 r.2) s

/-- SNW_ZMAP (R401, R418): the zones whose bit changes are zeroed, and the new map applies. Until ZONE_ZEROED a zone refuses accesses. -/
def execSnwZmap (w : Word) (s : State) : Outcome :=
  .next (
    let v : BitVec 31 := w.setWidth 31
    if !snwOpen s 0 then s
    else if s.hop.slots.any fun p => p.2.st ≠ .free then logHost s .state 0x280010 none
    else
      let changed := setBits (v ^^^ s.snow.zmap).toNat 31
      let s := changed.foldl zeroZone s
      { s with snow := { s.snow with zmap := v, zeroing := sortNat (s.snow.zeroing ++ changed) } })

/-- ZONE_ZEROED (R401). -/
def execZoneZeroed (zone : Fin 32) (s : State) : Outcome :=
  .next { s with snow := { s.snow with zeroing := s.snow.zeroing.filter (· ≠ zone.val) } }

/-! ### The patrol of the core stacks (R130, R131, R161) -/

/-- The first burst of a KV partition at place `p` = core of the region * 2^28 + offset or above, in ascending core ID and offset. -/
def nextKv (s : State) (g p : Nat) : Option Nat :=
  let i := p / 2 ^ 28
  (((List.range 256).filter (i ≤ ·)).find? fun k =>
    coreExists s (256 * g + k)
      && decide (max ((coreOf s (256 * g + k)).boundary * 65536) (if k = i then p % 2 ^ 28 else 0) < 2 ^ 28)).map fun k =>
    k * 2 ^ 28 + max ((coreOf s (256 * g + k)).boundary * 65536) (if k = i then p % 2 ^ 28 else 0)

/-- The record of a burst that the patrol cannot correct (R130, R163, R486). -/
def patrolRec (s : State) (c a : Nat) : Rec :=
  { coreRec s c with code := .ecc, cls := .info, unit := 12, aform := 1, addr := a, syndrome := 2 + 2 ^ 8 }

/-- What the patrol does with the burst at fabric address `a` of core `c`. -/
def patrolKv (s : State) (c a : Nat) (found : Burst) : State :=
  if s.poison.contains a then notePoison s a
  else
    match found with
    | .clean => s
    | .corrected => noteCe s a
    | .uncorrectable =>
      let s := noteUe s a
      logRec { s with poison := s.poison ++ [a] } (patrolRec s c a)

/-- PATROL (R161): the patrol of a region reads its next burst. It pauses while VDDC is off. -/
def execPatrol (r : RegionId) (found : Burst) (s : State) : Outcome :=
  .next (
    let g := r.val
    let x := (regionOf s g).mem
    let wrap := fun (s : State) => updRegion s g fun y => { y with mem := { y.mem with position := 0, passes := bumpW 32 y.mem.passes } }
    if x.interval = 0 || !bit (regionOf s g).pwr.rails 3 then s
    else
      match nextKv s g x.position with
      | none => if x.position = 0 then s else wrap s
      | some p =>
        let c := 256 * g + p / 2 ^ 28
        let s := patrolKv s c (coreAddr c 0 (p % 2 ^ 28)) found
        match nextKv s g (p + 64) with
        | some _ => updRegion s g fun y => { y with mem := { y.mem with position := p + 64 } }
        | none => wrap s)

/-- WRITE_BACK (R131): a corrected burst of a stack is written back. -/
def execWriteBack (c : CoreId) (burst : Nat) (s : State) : Outcome :=
  .next (updRegion s (c.val / 256) fun x =>
    { x with mem := { x.mem with writeBacks := x.mem.writeBacks.filter fun b => !(b == burst && fld b 34 14 == c.val) } })

end Sys2Proof.Machine
end

