-- ==== Sys2Proof/Machine/Registers.lean ====
section
/-!
DEFINITION. Writes of the host to BAR0 and BAR2 (00 R13-R16, 11 R426-R430): registers with a row of their own in the table of commands,
REGISTER_WRITE for all others, and accesses that are Unsupported Requests.
-/
namespace Sys2Proof.Machine

/-! ### The fault log (R487, R489) -/

/-- MERGE_WINDOW_CLOSE (R487): the record whose window closes is copied to the global ring. -/
def execMergeWindowClose (i : Nat) (s : State) : Outcome :=
  .next (
    match s.flt.merging.find? fun m => m.number == i with
    | none => s
    | some m => enterGlobal { s with flt := { s.flt with merging := s.flt.merging.filter fun x => x.number ≠ i } } m.record m.regIdx)

/-- FLT_TAIL (R489). -/
def execFltTail (w : Word) (s : State) : Outcome :=
  .next (
    if !hostReach s then s
    else
      let t := bits w 0 12
      { s with flt := { s.flt with tail := t, unread := (s.flt.next + 4096 - t) % 4096 } })

/-- FLT_SEL (R489): a snapshot of a record of the global ring. -/
def execFltSel (w : Word) (s : State) : Outcome :=
  .next (
    if !hostReach s then s
    else
      let i := bits w 0 12
      { s with flt := { s.flt with sel := i, snap := Tbl.get {} s.flt.ring i, snapTaken := true } })

/-! ### The Millpond (R287, R315, R317) -/

/-- Bits [63:0] of the DRAFT field (R282, R335). -/
def draftWord (d : DraftSt) : Nat :=
  d.ewma + at_ 16 d.hold + at_ 24 d.epoch + at_ 32 d.dcur + at_ 39 (bnat d.held) + at_ 40 (bnat d.ready) + at_ 41 (bnat d.nodraft)
    + at_ 42 (bnat d.dstep) + at_ 43 d.fixup + at_ 48 d.dlag

/-- The 128 bytes of a request-table entry (R282). -/
def reqBytes (r : Req) : List Byte :=
  leBytes 1 r.st.num
    ++ leBytes 1 (bnat r.cancel + 2 * bnat r.park + 4 * bnat r.instep + 8 * bnat r.restore + 16 * bnat r.summary)
    ++ leBytes 1 r.realm ++ leBytes 1 r.prio ++ leBytes 1 r.cls ++ leBytes 1 r.img ++ leBytes 2 r.mill
    ++ leBytes 8 r.deadline ++ leBytes 8 r.enq ++ leBytes 4 r.curlen ++ leBytes 4 r.maxlen ++ leBytes 4 r.sublen
    ++ leBytes 4 r.pages.length ++ leBytes 4 r.resv ++ leBytes 4 (r.pfx.getD 0xFFFFFFFF) ++ leBytes 4 r.session.toNat
    ++ leBytes 4 r.outcur ++ leBytes 8 r.seed.toNat ++ leBytes 8 (draftWord r.draft) ++ leBytes 8 r.parkaddr ++ leBytes 8 r.parkexp
    ++ leBytes 1 r.code.num ++ leBytes 1 (bnat r.greedy) ++ leBytes 2 r.temp.toNat ++ leBytes 2 r.topk.toNat ++ leBytes 2 r.topp.toNat
    ++ ((r.stop ++ List.replicate 4 0xFFFFFFFF).take 4).flatMap (fun (t : BitVec 32) => leBytes 4 t.toNat) ++ leBytes 8 r.tag.toNat ++ leBytes 8 0

/-- What MPD_REQDATA shows of an entry: all zero for one that is FREE (DESIGN CHOICE, log entry 72). -/
def entryBytes (r : Req) : List Byte := if r.st = .free then List.replicate 128 0 else reqBytes r

/-- MPD_REQSEL (R315). -/
def execMpdReqsel (unit : Fin 4) (w : Word) (s : State) : Outcome :=
  .next (
    let u := unit.val
    let q := bits w 0 15
    if !mpdOpen s u then s
    else updUnit s u fun x => { x with sel := q, snap := if unitOfReq q = u then entryBytes (reqOf s q) else List.replicate 128 0 })

/-- Does [PFXOFF, PFXOFF + ceil(PFXENT / 8 / NA) * 256) lie inside the KV partition of every anchor (R287, R293)? -/
def pfxFits (s : State) (m : Nat) (p : Pool) : Bool :=
  let as := anchorsOf s m
  p.pfxent = 0 || as.all fun c => decide ((coreOf s c).boundary * 65536 ≤ p.pfxoff)
    && decide (p.pfxoff + ceilDiv (p.pfxent / 8) as.length * 256 ≤ 2 ^ 28)

/-- The pool of a mill with one of MPD_POOL0-3 written (R317). -/
def poolWith (p : Pool) (k : Nat) (w : Word) : Pool :=
  match k with
  | 0 => { p with pages := bits w 0 20, pageb := bits w 32 32 }
  | 1 => { p with pfxoff := bits w 0 28, pfxent := bits w 32 21 }
  | 2 => { p with vocab := bits w 0 32, sumpos := bits w 32 13 }
  | _ => { p with sumb := bits w 0 32 }

/-- Are the reserved bits of a pool word zero? -/
def poolReserved (k : Nat) (w : Word) : Bool :=
  match k with
  | 0 => bits w 20 12 = 0
  | 1 => bits w 28 4 = 0 && bits w 53 11 = 0
  | 2 => bits w 45 19 = 0
  | _ => bits w 32 32 = 0

/-- The checks of R287; the field ranges of R317 count under check 2 (DEDUCED, log entry 72). -/
def poolCode (s : State) (m : Nat) (k : Nat) (w : Word) : Option Code :=
  let p := poolWith (poolOf s m) k w
  let lt := (serveOf s m).map (·.ltwin)
  let others := (s.pond.pools.filter fun x => x.1 ≠ m).foldl (fun n x => n + x.2.pfxent) 0
  firstFail [
    (decide ((slotOf s (millOf s m).cfg.slot).st = .loaded) && (reqsOf s m).isEmpty, .state),
    (poolReserved k w && decide (p.pfxent % 8 = 0) && decide (p.pfxoff % 256 = 0) && decide (p.sumpos ≤ 4096)
      && decide (p.pages ≠ 0xFFFFF) && decide (p.pageb % 64 = 0) && decide (p.sumb % 64 = 0), .format),
    ((anchorsOf s m).all fun c =>
      let x := Tbl.get {} (coreOf s c).windows (lt.getD 0)
      x.opened && decide (bits x.w1 12 2 = 3), .format),
    (pfxFits s m p, .length),
    (decide (others + p.pfxent ≤ 1048576), .capacity)]

/-- MPD_POOL (R287, R317): a write of MPD_POOL0-3 for the mill that MPD_POOLSEL names. -/
def execMpdPool (k : Fin 4) (w : Word) (s : State) : Outcome :=
  .next (
    let m := s.pond.poolSel
    if !hostReach s || (serveOf s m).isNone then s
    else match poolCode s m k.val w with
      | some code => logHost s code (0xA4008 + 8 * k.val) none
      | none => updPool s m fun p => poolWith p k.val w)

/-! ### Time, interrupts, clock gates (R430, R466, R534) -/

/-- GLB_TIME (R534): forward only, and only while every slot is FREE. -/
def execGlbTime (w : Word) (s : State) : Outcome :=
  .next (
    if hostReach s && (s.hop.slots.all fun p => p.2.st = .free) && decide (s.glb.time ≤ w.toNat) then
      { s with glb := { s.glb with time := w.toNat } }
    else s)

/-- GLB_IRQ_MASK (R430): a vector whose cause has occurred is signalled when its bit is cleared. -/
def execGlbIrqMask (w : Word) (s : State) : Outcome :=
  .next (
    if !hostReach s then s
    else
      let old := s.glb.mask
      let new := w.setWidth 41
      let s := { s with glb := { s.glb with mask := new } }
      (List.range 41).foldl (fun s v => if bit old v && !bit new v && bit s.glb.stat v then signalVector s v else s) s)

/-- Is the block of bit `i` of CLK_GATE in use (R466)? -/
def gateInUse (s : State) (i : Nat) : Bool :=
  if i < 16 then bit (portOf s i).cfg 0
  else if i < 24 then (linkOf s (i - 16)).en
  else if i < 28 then s.hop.slots.any fun p => p.2.st ≠ .free
  else if i < 32 then s.pond.reqs.any fun p => p.2.st ≠ .free && unitOfReq p.1 == i - 28
  else if i = 32 then s.hop.op ≠ .idle
  else !s.sec.privKey.isEmpty || s.realms.any fun p => p.2.present

/-- CLK_GATE (R466, R480). -/
def execClkGate (w : Word) (s : State) : Outcome :=
  .next (
    if !hostReach s then s
    else
      let new := w.setWidth 34
      if (List.range 34).any fun i => bit s.clk.gate i && !bit new i && gateInUse s i then logHost s .state 0x40010 none
      else { s with clk := { s.clk with gate := new } })

/-! ### Unsupported Requests (R16, R426) -/

/-- An access that the port answers with Unsupported Request is logged with its address. -/
def unsupported (s : State) (addr : Nat) : State := logHost s .unsupported addr none

/-- UNSUPPORTED_REQUEST (R16, R426): an unmapped or misaligned access of BAR0. A read delivers no data, a write changes nothing. -/
def execUnsupportedRequest (addr : BitVec 26) (_write : Bool) (s : State) : Outcome :=
  .next (if hostReach s then unsupported s addr.toNat else s)

/-- Is a BAR0 offset unmapped (R427)? -/
def unmapped (a : Nat) : Bool :=
  (decide (0xA4030 ≤ a) && decide (a < 0x100000)) || (decide (0x2C0000 ≤ a) && decide (a < 0x1000000))

/-! ### REGISTER_WRITE (R13) -/

/-- Runs `g` after `f`. -/
def andThen (o : Outcome) (g : State → Outcome) : Outcome :=
  match o with
  | .next s => g s
  | o => o

/-- The word with its field [lo + len - 1 : lo] replaced by that of `w`. -/
def putField (old w : Word) (lo len : Nat) : Word :=
  let m := BitVec.ofNat 64 (at_ lo (2 ^ len - 1))
  (old &&& ~~~m) ||| (w &&& m)

/-- Is the field [lo + len - 1 : lo] within a range? -/
def inRange (w : Word) (lo len a b : Nat) : Bool := decide (a ≤ bits w lo len) && decide (bits w lo len ≤ b)

/-- A write into the GLB block without a row of its own: GLB_IRQ_STAT (R430). -/
def writeGlb (s : State) (o : Nat) (w : Word) : State :=
  if o = 0x100 then { s with glb := { s.glb with stat := s.glb.stat &&& ~~~w.setWidth 41 } } else s

/-- Writes of the mailbox (R535, R536). -/
def writeMlr (s : State) (o : Nat) (w : Word) : State :=
  if o = 0x48 then if bit w 0 then mlrGo s .later .later else s
  else if o = 0x50 then if bit w 1 then { s with mlr := { s.mlr with done := false } } else s
  else if s.mlr.busy then s
  else if o = 0 then { s with mlr := { s.mlr with op := BitVec.ofNat 8 (bits w 0 8), tag := BitVec.ofNat 16 (bits w 16 16) } }
  else if 8 ≤ o ∧ o < 0x48 then { s with mlr := { s.mlr with args := Tbl.set 0 s.mlr.args (o / 8 - 1) w } }
  else s

/-- Writes of Firn without a row of their own: FRN_CHCFG, FRN_FIRED (R482). -/
def writeFrn (s : State) (o : Nat) (w : Word) : State :=
  if 0x400 ≤ o ∧ o < 0x800 then
    updChan s (o / 8 - 128) fun c => { c with k1 := BitVec.ofNat 4 (bits w 0 4), k2 := BitVec.ofNat 4 (bits w 4 4) }
  else if o = 0xA08 then { s with frn := { s.frn with fired := s.frn.fired &&& ~~~w } }
  else s

/-- Is a PWR_ILIM word in range (R478)? -/
def ilimOk (w : Word) : Bool := inRange w 0 9 1 400 && inRange w 16 9 1 80 && inRange w 32 9 1 240 && inRange w 48 9 1 60

/-- Writes of the PWR block (R477-R479). -/
def writePwr (s : State) (o : Nat) (w : Word) : State :=
  if o = 0 then if inRange w 0 12 200 3000 then { s with pwr := { s.pwr with cap := BitVec.ofNat 12 (bits w 0 12) } } else s
  else if o = 8 then if inRange w 0 3 0 5 then { s with pwr := { s.pwr with prio := BitVec.ofNat 3 (bits w 0 3) } } else s
  else if o = 0x18 then
    if inRange w 0 16 1 1000 && inRange w 16 8 20 100 then
      { s with pwr := { s.pwr with vsettle := BitVec.ofNat 16 (bits w 0 16), droopMv := BitVec.ofNat 8 (bits w 16 8) } }
    else s
  else if 0x100 ≤ o ∧ o < 0x300 then
    if ilimOk w then updPwr s (o / 8 - 32) fun x => { x with ilim := w &&& 0x01FF01FF01FF01FF } else s
  else if 0x300 ≤ o ∧ o < 0x500 then
    if inRange w 4 3 0 5 then limitChanged (updPwr s (o / 8 - 96) fun x => { x with hostlim := bits w 4 3 }) (o / 8 - 96) else s
  else s

/-- Writes of the THM block without a row of their own: THM_CFG (R481). -/
def writeThm (s : State) (o : Nat) (w : Word) : State :=
  if o = 0 ∧ inRange w 0 8 60 105 ∧ inRange w 8 8 60 115 ∧ inRange w 16 5 1 20 then
    { s with thm := { s.thm with stkThr := BitVec.ofNat 8 (bits w 0 8), logThr := BitVec.ofNat 8 (bits w 8 8)
                                 hyst := BitVec.ofNat 5 (bits w 16 5) } }
  else s

/-- Writes of FLT and BST without a row of their own: FLT_CTRL, BST_SEL (R489, R525). -/
def writeFlt (s : State) (o : Nat) (w : Word) : State :=
  if o = 0 then
    if inRange w 0 4 1 15 && inRange w 8 8 1 254 then
      { s with flt := { s.flt with retry := BitVec.ofNat 4 (bits w 0 4), stkue := BitVec.ofNat 8 (bits w 8 8) } }
    else s
  else if o = 0x10008 then { s with bst := { s.bst with sel := bits w 0 7 } }
  else s

/-- Writes of the MPD block without a row of their own: MPD_CTRL, MPD_POOLSEL (R314, R317). -/
def writeMpd (s : State) (o : Nat) (w : Word) : State :=
  if o = 0x4000 then { s with pond := { s.pond with poolSel := bits w 0 12 } }
  else if o < 0x4000 ∧ o % 0x1000 = 0 ∧ mpdOpen s (o / 0x1000) ∧ inRange w 0 24 1 0xFFFFFE then
    updUnit s (o / 0x1000) fun x => { x with age := BitVec.ofNat 24 (bits w 0 24) }
  else s

/-- May ETYPE hold this value (R383)? -/
def etypeOk (e : Nat) : Bool := decide (0x600 ≤ e) && !([0x800, 0x86DD, 0x8100, 0x88A8, 0x8808, 0x88F7].contains e)

/-- Writes of a Sluice port without a row of their own (R383, R384). -/
def writeSlu (s : State) (p o : Nat) (w : Word) : State :=
  let en := bit (portOf s p).cfg 0
  if !sluOpen s p then s
  else match o with
    | 0x10 => if !en && etypeOk (bits w 0 16) && inRange w 16 16 1 65534 then updPort s p fun x => { x with gml := w &&& 0xFFFFFFFF } else s
    | 0x18 => if en then s else updPort s p fun x => { x with mac := w &&& 0xFFFFFFFFFFFF }
    | 0x20 => if en then s else updPort s p fun x => { x with ip0 := w }
    | 0x28 => if en then s else updPort s p fun x => { x with ip1 := w }
    | 0x30 =>
      if inRange w 0 16 1 65534 && inRange w 16 4 1 14 && inRange w 24 8 1 254 then updPort s p fun x => { x with tmr := w &&& 0xFF0FFFFF }
      else s
    | 0x38 =>
      if inRange w 0 16 1 65534 && inRange w 16 24 1 0xFFFFFE && inRange w 40 24 0 0xFFFFFE then updPort s p fun x => { x with viol := w }
      else s
    | _ => s

/-- Writes of a Tailrace link without a row of their own: TLR_QTX, TLR_QRX (R396). -/
def writeTlr (s : State) (l o : Nat) (w : Word) : State :=
  let q := (o - 0x100) / 0x20
  if !tlrOpen s l || decide (o < 0x100) || decide (0x300 ≤ o) || (queueOf s l q).en then s
  else if o % 0x20 = 8 then updQueue s l q fun x => { x with tx := w }
  else if o % 0x20 = 0x10 then updQueue s l q fun x => { x with rx := w }
  else s

/-- Writes of a Snowpack controller without a row of their own: SNW_SCRUB (R419). -/
def writeSnw (s : State) (k o : Nat) (w : Word) : State :=
  if o = 0x18 ∧ snwOpen s k ∧ inRange w 0 24 0 0xFFFFFE then updCtl s k fun x => { x with interval := BitVec.ofNat 24 (bits w 0 24) } else s

/-- Are the blocks of region `g` that lie in D(g + 1) clocked (R580)? -/
def regClocked (s : State) (g : Nat) : Bool := hostReach s && s.glb.st ≠ .fault && vddcOn s g

/-- Writes of a region's window: REG_MEM_SCRUB, REG_RACE_CTO, which is locked from the realm checks of a load on (R160, R189, R266). -/
def writeReg (s : State) (g o : Nat) (w : Word) : State :=
  if o = 0x1000 ∧ regClocked s g ∧ inRange w 0 24 0 0xFFFFFE then
    updRegion s g fun x => { x with mem := { x.mem with interval := BitVec.ofNat 24 (bits w 0 24) } }
  else if o = 0x2200 ∧ bit (pwrOf s g).rails 1 ∧ inRange w 0 24 1 0xFFFFFE ∧ !heldRegion s g then
    updRegion s g fun x => { x with race := { x.race with timeout := BitVec.ofNat 24 (bits w 0 24) } }
  else s

/-- Writes of a mill's block without a row of their own: MIL_FAULT, MIL_TOKENS, MIL_WDOG (R446, R495, R503). -/
def writeMil (s : State) (m o : Nat) (w : Word) : State :=
  onMill m s fun s =>
    match o with
    | 0x28 => updMill s m fun k => { k with faults := k.faults &&& ~~~(BitVec.ofNat 32 (at_ 1 (bits w 1 18))) }
    | 0x30 => if inRange w 48 7 1 100 then updMill s m fun k => { k with limit := BitVec.ofNat 7 (bits w 48 7) } else s
    | 0x38 =>
      if inRange w 0 24 0 0xFFFFFE then updMill s m fun k => { k with wdog := { k.wdog with timeout := BitVec.ofNat 24 (bits w 0 24) } }
      else s
    | _ => s

/-- A write of MIL_FENCE as one word (R499): FENCE first, then HALT, RESUME, FAIL and RESET. With FENCE = 0 in a drain all of it is
discarded (R498). -/
def writeMilFence (m : MillId) (w : Word) (s : State) : Outcome :=
  let d := BitVec.ofNat 16 (bits w 16 16)
  if !drainOk d then .next s
  else if !bit w 0 && decide (dstateOf s m = .draining) then execMilFenceLift m d s
  else
    let o := if bit w 0 then execMilFence m d s else execMilFenceLift m d s
    let o := if bit w 1 then andThen o (execMilHalt m) else o
    let o := if bit w 2 then andThen o (execMilResume m) else o
    let o := if bit w 3 then andThen o (execMilFail m) else o
    if bit w 4 then andThen o (execMilReset m) else o

/-- Writes of BAR2 (R425, R430): 16 bytes for each MSI-X entry. A vector that waits in the PBA leaves when its entry is unmasked. -/
def writeMsix (s : State) (o : Nat) (w : Word) : State :=
  let v := o / 16
  if o ≥ 1024 then s
  else
    let e := Tbl.get {} s.glb.msix v
    if o % 16 = 0 then { s with glb := { s.glb with msix := Tbl.set {} s.glb.msix v { e with addr := w } } }
    else
      let masked := bit w 32
      let s := { s with glb := { s.glb with
        msix := Tbl.set {} s.glb.msix v { e with data := BitVec.ofNat 32 (bits w 0 32), masked := masked } } }
      if !masked && bit s.glb.pba v then
        { s with glb := { s.glb with pba := s.glb.pba &&& ~~~BitVec.ofNat 64 (2 ^ v) }, out := s.out ++ [.msix v] }
      else s

/-- A number below `n + 1`, the excess cut off. -/
def cut (n a : Nat) : Fin (n + 1) := ⟨a % (n + 1), Nat.mod_lt a (Nat.succ_pos n)⟩

/-- A write of BAR0 below the region windows: registers with a row of their own go through it. -/
def writeEdge (a : Nat) (w : Word) (s : State) : Outcome :=
  if a = 0x10 then execGlbTime w s
  else if a = 0x108 then execGlbIrqMask w s
  else if a < 0x10000 then .next (writeGlb s a w)
  else if a < 0x20000 then .next (writeMlr s (a - 0x10000) w)
  else if 0x20800 ≤ a ∧ a < 0x20A00 then execFrnRule (cut 63 ((a - 0x20800) / 8)) w s
  else if a = 0x20A10 then execFrnTdac w s
  else if a < 0x30000 then .next (writeFrn s (a - 0x20000) w)
  else if a < 0x40000 then .next (writePwr s (a - 0x30000) w)
  else if a = 0x40000 then execClkRef w s
  else if a = 0x40010 then execClkGate w s
  else if a < 0x50000 then .next s
  else if a = 0x50010 then execThmTrip false w s
  else if a = 0x50018 then execThmTrip true w s
  else if a < 0x60000 then .next (writeThm s (a - 0x50000) w)
  else if a < 0x80000 then .next s
  else if a = 0x80010 then execFltTail w s
  else if a = 0x80020 then execFltSel w s
  else if a < 0xA0000 then .next (writeFlt s (a - 0x80000) w)
  else if a < 0xA4000 ∧ a % 0x1000 = 0x10 then execMpdReqsel (cut 3 ((a - 0xA0000) / 0x1000)) w s
  else if 0xA4008 ≤ a ∧ a < 0xA4028 then execMpdPool (cut 3 ((a - 0xA4008) / 8)) w s
  else if a < 0x100000 then .next (writeMpd s (a - 0xA0000) w)
  else if a < 0x200000 then
    if a % 0x10000 = 0 then execSluCfg (cut 15 ((a - 0x100000) / 0x10000)) w s
    else .next (writeSlu s ((a - 0x100000) / 0x10000) (a % 0x10000) w)
  else if a < 0x280000 then
    let l := cut 7 ((a - 0x200000) / 0x10000)
    let o := a % 0x10000
    if o = 0 then execTlrCfg l w s
    else if 0x100 ≤ o ∧ o < 0x300 ∧ o % 0x20 = 0 then
      if bit w 0 then execTlrQcfgEnable l (cut 15 ((o - 0x100) / 0x20)) w s else execTlrQcfgDisable l (cut 15 ((o - 0x100) / 0x20)) w s
    else .next (writeTlr s l o w)
  else if a = 0x280010 then execSnwZmap w s
  else .next (writeSnw s ((a - 0x280000) / 0x10000) (a % 0x10000) w)

/-- A read of an aligned word of BAR2 (R425): the MSI-X table and the PBA; elsewhere 0. -/
def bar2Read (s : State) (a : Nat) : Option Word :=
  if !hostReach s || a % 8 ≠ 0 || 0x10000 ≤ a then none
  else
    let e := Tbl.get {} s.glb.msix (a / 16)
    some (if a < 0x400 then (if a % 16 = 0 then e.addr else BitVec.ofNat 64 (pack [(0, e.data.toNat), (32, bnat e.masked)]))
      else if a = 0x8000 then s.glb.pba else 0)

/-- A 4-byte read of BAR2 (R425). -/
def bar2Read4 (s : State) (a : Nat) : Option (BitVec 32) :=
  if a % 4 = 0 then (bar2Read s (a / 8 * 8)).map fun w => BitVec.ofNat 32 (bits w (a % 8 * 8) 32) else none

/-- A 4-byte write of BAR2 (R425): the other half of its word keeps its value. -/
def writeHalf (s : State) (a : Nat) (w : Word) : State :=
  let lo := a % 8 * 8
  writeMsix s (a / 8 * 8) (putField ((bar2Read s (a / 8 * 8)).getD 0) (w <<< lo) lo 32)

/-- REGISTER_WRITE (R13-R16, R425-R428): an aligned 64-bit word, or in BAR2 an aligned half of one; bit 26 of the address selects BAR2 (log
entry 71). A half of a BAR0 word is no multiple of 8 bytes and is an Unsupported Request (R426). -/
def execRegisterWrite (addr : BitVec 27) (half : Bool) (w : Word) (s : State) : Outcome :=
  let a := bits addr 0 26
  if !hostReach s then .next s
  else if bit addr 26 then .next (if half then (if a % 4 = 0 then writeHalf s a w else s) else if a % 8 = 0 then writeMsix s a w else s)
  else if half || a % 8 ≠ 0 || unmapped a then .next (unsupported s a)
  else if a < 0x1000000 then writeEdge a w s
  else if a < 0x2000000 then .next (writeReg s ((a - 0x1000000) / 0x40000) (a % 0x40000) w)
  else
    let m : MillId := cut 4095 ((a - 0x2000000) / 0x2000)
    if a % 0x2000 = 0x10 then execMilDoorbell m w s
    else if a % 0x2000 = 0x20 then writeMilFence m w s
    else .next (writeMil s m (a % 0x2000) w)

/-- A BAR0 write request of several words (R426): its aligned words in ascending order, each an access of its own. A REGISTER_WRITE is one of
them (log entry 71). -/
def writeRequest (addr : BitVec 27) (ws : List Word) (s : State) : Outcome :=
  (ws.zipIdx.foldl (fun o w => andThen o (execRegisterWrite (addr + BitVec.ofNat 27 (8 * w.2)) false w.1)) (.next s))

end Sys2Proof.Machine
end

