-- ==== Sys2Proof/Machine/Background.lean ====
section
/-!
DEFINITION. What goes on without a command: time passes, and the drains, unloads and shut-downs that wait go on as soon as they can.
-/
namespace Sys2Proof.Machine

/-- A PCIe link that is down trains as time passes, unless PERST_N is low (R422, log entry 61). -/
def goOnLink (s : State) : State := if timeRuns s && s.pins.perst && decide (s.glb.speed = 0) then linkUp s else s

/-- Drains whose cores have been stopped end once the accesses of those cores are answered (R497, R500). -/
def goOnDrains (s : State) : State :=
  ((owners s).filter fun m => drainStopped s m && settled s (coresOf s m)).foldl endDrain s

/-- Work that waits for other commands to finish, or for time to pass: a shut-down or park, the FENCE of a region, an unload, drains, the repair
of rows that no image waits for, the training of the PCIe link. -/
def background (s : State) : State := goOnLink (goOnStacks (goOnShut (goOnFence (goOnUnload (goOnDrains s)))))

/-- A nanosecond of device time, and the work that waits (log entry 2). -/
def tick (s : State) : State := background (pass s 1)

end Sys2Proof.Machine
end

