-- ==== Sys2Proof/Machine/Pins.lean ====
section
/-!
DEFINITION. The pins and sequences of the module (15 R555-R569), and the resets of the PCIe function (11 R432).
-/
namespace Sys2Proof.Machine

/-- Changes the pins and sequences. -/
def setPins (s : State) (p : Pins) : State := { s with pins := p }

/-- The enables asserted so far are removed (R566, R569): a power-up from PARKED ends in STANDBY. -/
def stopRise (s : State) (interlock : Bool) : State := powerDown s false interlock

/-- VDDF_RISE (R560, R473): Firn samples OSC_DLY and the device is in STANDBY. -/
def execVddfRise (straps : Fin 8) (s : State) : Outcome :=
  .next (
    if s.glb.st ≠ .off then s
    else { s with glb := { st := .standby }, frn := { stored := s.frn.stored, oscDly := BitVec.ofNat 3 straps.val } })

/-- VDDF_LOSS (R7, R475, R482): the device is in OFF. What remains is the module record store: the Moraine map, the self-test set and the
calibration. -/
def execVddfLoss (s : State) : Outcome :=
  .next (
    if s.glb.st = .off then s
    else
      { ({} : State) with
        pending := s.pending, free := s.free, ids := s.ids, out := s.out, frn := { stored := s.frn.stored }
        bst := { clean := s.bst.clean, results := s.bst.results, mapDig := s.bst.mapDig, table := s.bst.table }, moraine := s.moraine, bootno := s.bootno })

/-- PWR_ON_REQ_HIGH (R558, R567): power-up from STANDBY unless R567 holds it back; a rising edge in PARKED is a wake. -/
def execPwrOnReqHigh (s : State) : Outcome :=
  .next (
    let edge := !s.pins.pwrReq
    let lowLong := match s.pins.lowAt with
      | some t => decide (t + 10000000 ≤ s.frn.clock)
      | none => false
    let held := s.pins.interlock && !(edge && lowLong)
    let s' := setPins s { s.pins with pwrReq := true, lowAt := none, interlock := held }
    if s.glb.st = .off then s
    else if s.pins.rstLow || s.pins.seq ≠ .down then s'
    else if s.glb.st = .standby && !held then startUp s'
    else if s.glb.st = .parked && edge then startUp s'
    else s')

/-- PWR_ON_REQ_LOW (R558, R569): power-down to STANDBY; a power-up stops at once. -/
def execPwrOnReqLow (s : State) : Outcome :=
  .next (
    if s.glb.st = .off then s
    else
      let s := setPins s { s.pins with pwrReq := false, lowAt := if s.pins.pwrReq then some s.frn.clock else s.pins.lowAt }
      if s.glb.st = .standby && !rising s then s else stopRise s (s.glb.st = .standby && s.pins.interlock))

/-- MOD_RST_N_LOW (R558): power-down, the trip latches cleared, STANDBY held. -/
def execModRstNLow (s : State) : Outcome :=
  .next (
    if s.glb.st = .off then s
    else
      let s := powerDown { s with pins := { s.pins with rstLow := true, faultLow := false } } false false
      { s with thm := { s.thm with trip := 0, tripHbm := 0, tripField := 0 } })

/-- MOD_RST_N_HIGH (R558). -/
def execModRstNHigh (s : State) : Outcome :=
  .next (
    if s.glb.st = .off ∨ s.pins.rstLow = false then s
    else
      let s := setPins s { s.pins with rstLow := false }
      if s.pins.pwrReq && s.glb.st = .standby && s.pins.seq = .down then startUp s else s)

/-- POWER_GOOD (R565): the power-good that the sequence awaits. PG_VDDM of a group and PG_CORE may also return later (R437, R475). -/
def execPowerGood (pg : Good) (s : State) : Outcome :=
  .next (
    if s.glb.st = .off then s
    else
      let p := s.pins
      let vddm := fun (p : Pins) => if p.pgVddm = 0xFFFF then { p with seq := .waitEdgeH, enEdgeH := true } else { p with seq := .waitVddm }
      match pg with
      | .edgeL => if p.seq = .waitEdgeL then setPins s { p with seq := .waitEdgeA, enEdgeA := true } else s
      | .edgeA => if p.seq = .waitEdgeA then setPins s (vddm { p with enVddm := true }) else s
      | .vddm g =>
        if !p.enVddm then s
        else
          let p := { p with pgVddm := p.pgVddm ||| BitVec.ofNat 16 (2 ^ g.val) }
          setPins s (if p.seq = .waitVddm then vddm p else p)
      | .edgeH => if p.seq = .waitEdgeH then setPins s { p with seq := .waitCore, enCore := true } else s
      | .core =>
        if p.enCore then
          let s := setPins s { p with pgCore := true }
          if p.seq = .waitCore then enterBoot s else s
        else s)

/-- POWER_GOOD_TIMEOUT (R565): the enables go, a DEVICE record is kept, and the device is in STANDBY under R567. -/
def execPowerGoodTimeout (s : State) : Outcome :=
  .next (
    if rising s && s.pins.seq ≠ .waitOsc then logFirn (stopRise s true) { code := .timeout, cls := .device, origin := .firn } else s)

/-- EDGE_POWER_GOOD_LOSS (R568): an edge power-good stays low for 10 us once the device has passed BOOT. PG_CORE that goes low changes nothing but
what the Miller reads of it (R437). -/
def execEdgePowerGoodLoss (pg : Good) (s : State) : Outcome :=
  .next (
    match pg with
    | .edgeL | .edgeA | .edgeH => if s.glb.fw || s.glb.st = .fault then powerDown s false true else s
    | .core => setPins s { s.pins with pgCore := false }
    | .vddm _ => s)

/-- VDDM_POWER_GOOD_LOSS (R475, R568): entries that cover a region of the group are invalid; nothing else changes. -/
def execVddmPowerGoodLoss (g : Fin 16) (s : State) : Outcome :=
  .next (
    let s := setPins s { s.pins with pgVddm := s.pins.pgVddm &&& ~~~BitVec.ofNat 16 (2 ^ g.val) }
    dropRetained s fun e => (List.range 64).any fun r => decide (groupOf r = g.val) && bit e.regions r)

/-! ### The PCIe function -/

/-- Configuration space at its defaults, MSI-X table and PBA cleared, GLB_IRQ_MASK at reset (R432). -/
def resetPcie (s : State) : State :=
  { s with glb := { s.glb with msix := [], pba := 0, mask := 0x1FFFFFFFFFF, busMaster := false } }

/-- A conventional reset takes GRADE anew as the Subsystem ID (R424). -/
def takeGrade (s : State) : State := { s with glb := { s.glb with subsys := grade s } }

/-- The link is down: SPEED 0 (R433), and the function is in D0 when it is up again. -/
def linkOff (s : State) : State := { s with glb := { s.glb with speed := 0, width := 0, flit := false, d3 := false } }

/-- PCIE_RESET (R432): transfers end with LOST, but for D3hot, which R431 does not name. A link that goes down and a hot reset are
conventional resets (R424). -/
def execPcieReset (kind : PcieReset) (s : State) : Outcome :=
  .next (
    if !timeRuns s || !s.pins.perst then s
    else match kind with
      | .d3hot => let s := resetPcie s; { s with glb := { s.glb with d3 := true } }
      | .flr => let s := resetPcie (dmaLost s); { s with glb := { s.glb with d3 := false } }
      | .hotReset => let s := takeGrade (resetPcie (dmaLost s)); { s with glb := { s.glb with d3 := false } }
      | .linkDown => linkOff (takeGrade (resetPcie (dmaLost s))))

/-- PERST_N (R559): low is a conventional reset of the PCIe function; high starts link training, after which the model's host has set Bus
Master Enable (DESIGN CHOICE, log entry 61). A level before BOOT is held. -/
def execPerstN (high : Bool) (s : State) : Outcome :=
  .next (
    if s.glb.st = .off || s.pins.perst == high then s
    else
      let s := setPins s { s.pins with perst := high }
      if !timeRuns s then s
      else if high then let s := linkUp s; { s with glb := { s.glb with busMaster := true } }
      else linkOff (takeGrade (resetPcie (dmaLost s))))

end Sys2Proof.Machine
end

