-- ==== Sys2Proof/Machine/Dispatch.lean ====
section
/-!
DEFINITION. One arm per command: its meaning, or its rejection by name.
-/
namespace Sys2Proof.Machine

def exec (i : Instr) (s : State) : Host.Outcome State Fault Refusal :=
  match i with
  | .nop c slot => Sys2Proof.Machine.execNop c slot s
  | .br c cond ra target => Sys2Proof.Machine.execBr c cond ra target s
  | .loop c ra target => Sys2Proof.Machine.execLoop c ra target s
  | .call c target => Sys2Proof.Machine.execCall c target s
  | .ret c => Sys2Proof.Machine.execRet c s
  | .fence c mask => Sys2Proof.Machine.execFence c mask s
  | .stepEnd c => Sys2Proof.Machine.execStepEnd c s
  | .halt c => Sys2Proof.Machine.execHalt c s
  | .li c rd imm => Sys2Proof.Machine.execLi c rd imm s
  | .lih c rd sh imm => Sys2Proof.Machine.execLih c rd sh imm s
  | .alu c rd ra rb fn => Sys2Proof.Machine.execAlu c rd ra rb fn s
  | .addi c rd ra imm => Sys2Proof.Machine.execAddi c rd ra imm s
  | .bfi c rd ra lo wm1 => Sys2Proof.Machine.execBfi c rd ra lo wm1 s
  | .ld c rd h ra ups => Sys2Proof.Machine.execLd c rd h ra ups s
  | .st c rs h ra ups => Sys2Proof.Machine.execSt c rs h ra ups s
  | .rdsr c rd src => Sys2Proof.Machine.execRdsr c rd src s
  | .issueMe c sg => Sys2Proof.Machine.execIssueMe c sg s
  | .issueSpu c sg => Sys2Proof.Machine.execIssueSpu c sg s
  | .issueAsu c sg => Sys2Proof.Machine.execIssueAsu c sg s
  | .issueNau c sg => Sys2Proof.Machine.execIssueNau c sg s
  | .issueQtz c sg => Sys2Proof.Machine.execIssueQtz c sg s
  | .issueKse c sg => Sys2Proof.Machine.execIssueKse c sg s
  | .issueRtu c sg => Sys2Proof.Machine.execIssueRtu c sg s
  | .issueSmp c sg => Sys2Proof.Machine.execIssueSmp c sg s
  | .setH c h sp => Sys2Proof.Machine.execSetH c h sp s
  | .openW c w sp => Sys2Proof.Machine.execOpenW c w sp s
  | .closeW c w => Sys2Proof.Machine.execCloseW c w s
  | .waitEv c mask any clr => Sys2Proof.Machine.execWaitEv c mask any clr s
  | .waitCnt c cnt regv val sub => Sys2Proof.Machine.execWaitCnt c cnt regv val sub s
  | .send c sg list ups => Sys2Proof.Machine.execSend c sg list ups s
  | .recv c w ev regv n evEn => Sys2Proof.Machine.execRecv c w ev regv n evEn s
  | .flmRd c q tag sg => Sys2Proof.Machine.execFlmRd c q tag sg s
  | .flmWr c q tag sg => Sys2Proof.Machine.execFlmWr c q tag sg s
  | .flmWait c q tag => Sys2Proof.Machine.execFlmWait c q tag s
  | .tokenAcq c regv n => Sys2Proof.Machine.execTokenAcq c regv n s
  | .tokenRel c regv n => Sys2Proof.Machine.execTokenRel c regv n s
  | .matmul c ups => Sys2Proof.Machine.execMatmul c ups s
  | .wide c ups => Sys2Proof.Machine.execWide c ups s
  | .drain c ups => Sys2Proof.Machine.execDrain c ups s
  | .spillW c ups => Sys2Proof.Machine.execSpillW c ups s
  | .spillA c ups => Sys2Proof.Machine.execSpillA c ups s
  | .score c ups => Sys2Proof.Machine.execScore c ups s
  | .select c ups => Sys2Proof.Machine.execSelect c ups s
  | .rmsnorm c ups => Sys2Proof.Machine.execRmsnorm c ups s
  | .layernorm c ups => Sys2Proof.Machine.execLayernorm c ups s
  | .siluMul c ups => Sys2Proof.Machine.execSiluMul c ups s
  | .gelu c ups => Sys2Proof.Machine.execGelu c ups s
  | .add c ups => Sys2Proof.Machine.execAdd c ups s
  | .mul c ups => Sys2Proof.Machine.execMul c ups s
  | .exp c ups => Sys2Proof.Machine.execExp c ups s
  | .recip c ups => Sys2Proof.Machine.execRecip c ups s
  | .rsqrt c ups => Sys2Proof.Machine.execRsqrt c ups s
  | .softmaxFin c ups => Sys2Proof.Machine.execSoftmaxFin c ups s
  | .adamw c ups => Sys2Proof.Machine.execAdamw c ups s
  | .quant c ups => Sys2Proof.Machine.execQuant c ups s
  | .append c ups => Sys2Proof.Machine.execAppend c ups s
  | .ksePark c ups => Sys2Proof.Machine.execKsePark c ups s
  | .kseRestore c ups => Sys2Proof.Machine.execKseRestore c ups s
  | .gate c ups => Sys2Proof.Machine.execGate c ups s
  | .dispatch c ups => Sys2Proof.Machine.execDispatch c ups s
  | .localReduce c ups => Sys2Proof.Machine.execLocalReduce c ups s
  | .merge c ups => Sys2Proof.Machine.execMerge c ups s
  | .verify c ups => Sys2Proof.Machine.execVerify c ups s
  | .descriptorComplete c eng late => Sys2Proof.Machine.execDescriptorComplete c eng late s
  | .packetForward pkt credit => Sys2Proof.Machine.execPacketForward pkt credit s
  | .accessHeader pkt ups => Sys2Proof.Machine.execAccessHeader pkt ups s
  | .accessPacket pkt ups => Sys2Proof.Machine.execAccessPacket pkt ups s
  | .readData pkt ups => Sys2Proof.Machine.execReadData pkt ups s
  | .response pkt => Sys2Proof.Machine.execResponse pkt s
  | .creditWaitExpiry pkt arrived => Sys2Proof.Machine.execCreditWaitExpiry pkt arrived s
  | .continuationWaitExpiry acc arrived => Sys2Proof.Machine.execContinuationWaitExpiry acc arrived s
  | .responseWaitExpiry acc arrived => Sys2Proof.Machine.execResponseWaitExpiry acc arrived s
  | .routeReload src dst plane => Sys2Proof.Machine.execRouteReload src dst plane s
  | .lostNotice notified lost => Sys2Proof.Machine.execLostNotice notified lost s
  | .flumeComplete c q tag => Sys2Proof.Machine.execFlumeComplete c q tag s
  | .flumeTimeout c q tag completed => Sys2Proof.Machine.execFlumeTimeout c q tag completed s
  | .milDoorbell m w => Sys2Proof.Machine.execMilDoorbell m w s
  | .stepStart m => Sys2Proof.Machine.execStepStart m s
  | .stepRetire m => Sys2Proof.Machine.execStepRetire m s
  | .watchdogExpiry c issued => Sys2Proof.Machine.execWatchdogExpiry c issued s
  | .stepRestart m => Sys2Proof.Machine.execStepRestart m s
  | .millReset m found => Sys2Proof.Machine.execMillReset m found s
  | .coreShift r row col unreadable => Sys2Proof.Machine.execCoreShift r row col unreadable s
  | .shardReload slot => Sys2Proof.Machine.execShardReload slot s
  | .drainExpiry m retiring => Sys2Proof.Machine.execDrainExpiry m retiring s
  | .milFence m drain => Sys2Proof.Machine.execMilFence m drain s
  | .milFenceLift m drain => Sys2Proof.Machine.execMilFenceLift m drain s
  | .milHalt m => Sys2Proof.Machine.execMilHalt m s
  | .milResume m => Sys2Proof.Machine.execMilResume m s
  | .milFail m => Sys2Proof.Machine.execMilFail m s
  | .milReset m => Sys2Proof.Machine.execMilReset m s
  | .bootFw tag addr len ans => Sys2Proof.Machine.execBootFw tag addr len ans s
  | .loadImage tag addr len first second => Sys2Proof.Machine.execLoadImage tag addr len first second s
  | .unload tag a0 => Sys2Proof.Machine.execUnload tag a0 s
  | .loadWeights tag a0 a1 a2 => Sys2Proof.Machine.execLoadWeights tag a0 a1 a2 s
  | .shardObtained rec bytes => Sys2Proof.Machine.execShardObtained rec bytes s
  | .quote tag a0 a1 a2 a3 ans => Sys2Proof.Machine.execQuote tag a0 a1 a2 a3 ans s
  | .readMoraine tag a0 a1 => Sys2Proof.Machine.execReadMoraine tag a0 a1 s
  | .readCerts tag a0 a1 => Sys2Proof.Machine.execReadCerts tag a0 a1 s
  | .park tag a0 => Sys2Proof.Machine.execPark tag a0 s
  | .wake tag => Sys2Proof.Machine.execWake tag s
  | .shutdown tag a0 => Sys2Proof.Machine.execShutdown tag a0 s
  | .setCap tag a0 => Sys2Proof.Machine.execSetCap tag a0 s
  | .setPrio tag a0 => Sys2Proof.Machine.execSetPrio tag a0 s
  | .calibrateZero tag a1 a2 => Sys2Proof.Machine.execCalibrateZero tag a1 a2 s
  | .calibrateFull tag a1 a2 a3 ans => Sys2Proof.Machine.execCalibrateFull tag a1 a2 a3 ans s
  | .calibrateStore tag a1 a2 => Sys2Proof.Machine.execCalibrateStore tag a1 a2 s
  | .regionFence tag a0 => Sys2Proof.Machine.execRegionFence tag a0 s
  | .unfence tag a0 => Sys2Proof.Machine.execUnfence tag a0 s
  | .realmCreate tag a0 a1 ans => Sys2Proof.Machine.execRealmCreate tag a0 a1 ans s
  | .realmDestroy tag a0 => Sys2Proof.Machine.execRealmDestroy tag a0 s
  | .dmaCompletion ans => Sys2Proof.Machine.execDmaCompletion ans s
  | .dmaTimeout completed => Sys2Proof.Machine.execDmaTimeout completed s
  | .open_ f => Sys2Proof.Machine.execOpen f s
  | .close f => Sys2Proof.Machine.execClose f s
  | .ack f => Sys2Proof.Machine.execAck f s
  | .nak f => Sys2Proof.Machine.execNak f s
  | .submit f => Sys2Proof.Machine.execSubmit f s
  | .cancel f => Sys2Proof.Machine.execCancel f s
  | .gmlPark f => Sys2Proof.Machine.execGmlPark f s
  | .resume f => Sys2Proof.Machine.execResume f s
  | .status f => Sys2Proof.Machine.execStatus f s
  | .fetchReply f => Sys2Proof.Machine.execFetchReply f s
  | .error f => Sys2Proof.Machine.execError f s
  | .frameDiscard f => Sys2Proof.Machine.execFrameDiscard f s
  | .ptpEventMessage m frac => Sys2Proof.Machine.execPtpEventMessage m frac s
  | .ackdlyExpiry session => Sys2Proof.Machine.execAckdlyExpiry session s
  | .rtoExpiry session seq acked => Sys2Proof.Machine.execRtoExpiry session seq acked s
  | .closeTimeout session => Sys2Proof.Machine.execCloseTimeout session s
  | .fetchTimeout xid => Sys2Proof.Machine.execFetchTimeout xid s
  | .vwinExpiry session => Sys2Proof.Machine.execVwinExpiry session s
  | .qtimeExpiry session => Sys2Proof.Machine.execQtimeExpiry session s
  | .lossOfSignal port lane => Sys2Proof.Machine.execLossOfSignal port lane s
  | .blockLock port subB => Sys2Proof.Machine.execBlockLock port subB s
  | .schedulingPass unit => Sys2Proof.Machine.execSchedulingPass unit s
  | .prefixLookup req => Sys2Proof.Machine.execPrefixLookup req s
  | .stepRing m => Sys2Proof.Machine.execStepRing m s
  | .commit m ups => Sys2Proof.Machine.execCommit m ups s
  | .parkExpiry req resumed => Sys2Proof.Machine.execParkExpiry req resumed s
  | .idle link f => Sys2Proof.Machine.execIdle link f s
  | .data link f ups => Sys2Proof.Machine.execData link f ups s
  | .qcfg link f => Sys2Proof.Machine.execQcfg link f s
  | .replayTimer link advanced => Sys2Proof.Machine.execReplayTimer link advanced s
  | .retrainTimeout link => Sys2Proof.Machine.execRetrainTimeout link s
  | .trainingComplete link peer => Sys2Proof.Machine.execTrainingComplete link peer s
  | .prodUpdate link q ups => Sys2Proof.Machine.execProdUpdate link q ups s
  | .consPoll link q ups => Sys2Proof.Machine.execConsPoll link q ups s
  | .tlrQcfgEnable link q w => Sys2Proof.Machine.execTlrQcfgEnable link q w s
  | .tlrQcfgDisable link q w => Sys2Proof.Machine.execTlrQcfgDisable link q w s
  | .tlrCfg link w => Sys2Proof.Machine.execTlrCfg link w s
  | .snowpackAccess c q tag ups => Sys2Proof.Machine.execSnowpackAccess c q tag ups s
  | .snowpackPatrol ctl found die => Sys2Proof.Machine.execSnowpackPatrol ctl found die s
  | .snowpackWriteBack ctl addr => Sys2Proof.Machine.execSnowpackWriteBack ctl addr s
  | .refresh ctl stack => Sys2Proof.Machine.execRefresh ctl stack s
  | .rfm ctl stack => Sys2Proof.Machine.execRfm ctl stack s
  | .snowpackTemperature ctl stack temp => Sys2Proof.Machine.execSnowpackTemperature ctl stack temp s
  | .hbmTrip stack => Sys2Proof.Machine.execHbmTrip stack s
  | .snwZmap w => Sys2Proof.Machine.execSnwZmap w s
  | .zoneZeroed zone => Sys2Proof.Machine.execZoneZeroed zone s
  | .patrol r found => Sys2Proof.Machine.execPatrol r found s
  | .writeBack c burst => Sys2Proof.Machine.execWriteBack c burst s
  | .regionPowerUp r => Sys2Proof.Machine.execRegionPowerUp r s
  | .regionPowerDown r keepStacks => Sys2Proof.Machine.execRegionPowerDown r keepStacks s
  | .opRaise r => Sys2Proof.Machine.execOpRaise r s
  | .opLower r => Sys2Proof.Machine.execOpLower r s
  | .estimatorWindow r vddc vdds vddm vddn => Sys2Proof.Machine.execEstimatorWindow r vddc vdds vddm vddn s
  | .quietMillisecond r => Sys2Proof.Machine.execQuietMillisecond r s
  | .gainCorrection r rail estimate => Sys2Proof.Machine.execGainCorrection r rail estimate s
  | .droop r => Sys2Proof.Machine.execDroop r s
  | .droopHoldEnd r => Sys2Proof.Machine.execDroopHoldEnd r s
  | .capEvaluation p10 p1s => Sys2Proof.Machine.execCapEvaluation p10 p1s s
  | .thermalEvaluation stk log dead => Sys2Proof.Machine.execThermalEvaluation stk log dead s
  | .trip r => Sys2Proof.Machine.execTrip r s
  | .fieldTrip field => Sys2Proof.Machine.execFieldTrip field s
  | .railLoss r rails => Sys2Proof.Machine.execRailLoss r rails s
  | .firnSample channel raw => Sys2Proof.Machine.execFirnSample channel raw s
  | .referenceLoss => Sys2Proof.Machine.execReferenceLoss s
  | .pllLockLoss => Sys2Proof.Machine.execPllLockLoss s
  | .millerWatchdog => Sys2Proof.Machine.execMillerWatchdog s
  | .millerMemoryError => Sys2Proof.Machine.execMillerMemoryError s
  | .d0Stop => Sys2Proof.Machine.execD0Stop s
  | .crystalSwitch => Sys2Proof.Machine.execCrystalSwitch s
  | .vddfRise straps => Sys2Proof.Machine.execVddfRise straps s
  | .pwrOnReqHigh => Sys2Proof.Machine.execPwrOnReqHigh s
  | .pwrOnReqLow => Sys2Proof.Machine.execPwrOnReqLow s
  | .modRstNLow => Sys2Proof.Machine.execModRstNLow s
  | .modRstNHigh => Sys2Proof.Machine.execModRstNHigh s
  | .perstN high => Sys2Proof.Machine.execPerstN high s
  | .powerGood pg => Sys2Proof.Machine.execPowerGood pg s
  | .powerGoodTimeout => Sys2Proof.Machine.execPowerGoodTimeout s
  | .edgePowerGoodLoss pg => Sys2Proof.Machine.execEdgePowerGoodLoss pg s
  | .pcieReset kind => Sys2Proof.Machine.execPcieReset kind s
  | .mergeWindowClose n => Sys2Proof.Machine.execMergeWindowClose n s
  | .fltTail w => Sys2Proof.Machine.execFltTail w s
  | .fltSel w => Sys2Proof.Machine.execFltSel w s
  | .mpdReqsel unit w => Sys2Proof.Machine.execMpdReqsel unit w s
  | .mpdPool k w => Sys2Proof.Machine.execMpdPool k w s
  | .glbTime w => Sys2Proof.Machine.execGlbTime w s
  | .glbIrqMask w => Sys2Proof.Machine.execGlbIrqMask w s
  | .clkGate w => Sys2Proof.Machine.execClkGate w s
  | .clkRef w => Sys2Proof.Machine.execClkRef w s
  | .sluCfg port w => Sys2Proof.Machine.execSluCfg port w s
  | .frnRule n w => Sys2Proof.Machine.execFrnRule n w s
  | .frnTdac w => Sys2Proof.Machine.execFrnTdac w s
  | .thmTrip edge w => Sys2Proof.Machine.execThmTrip edge w s
  | .unsupportedRequest addr write => Sys2Proof.Machine.execUnsupportedRequest addr write s
  | .registerWrite addr half w => Sys2Proof.Machine.execRegisterWrite addr half w s
  | .stackFatalError stack => Sys2Proof.Machine.execStackFatalError stack s
  | .referenceRestored port => Sys2Proof.Machine.execReferenceRestored port s
  | .vddfLoss => Sys2Proof.Machine.execVddfLoss s
  | .vddmPowerGoodLoss g => Sys2Proof.Machine.execVddmPowerGoodLoss g s
  | .flitDiscard link why => Sys2Proof.Machine.execFlitDiscard link why s
  | .opRaiseStart r => Sys2Proof.Machine.execOpRaiseStart r s

end Sys2Proof.Machine
end

