-- ==== Sys2Proof/Machine/Regs.lean ====
section
/-!
DEFINITION. What a read of a BAR0 register returns: the fields of the state in the places that the register tables give them. A read
changes nothing, and the table of commands has no row for it; statements about registers are made in terms of `regRead`.
-/
namespace Sys2Proof.Machine

/-- Word `k` of bytes. -/
def wordAt (bs : List Byte) (k : Nat) : Nat := num bs (8 * k) 8

/-- GLB_STATUS.LAT_MISMATCH (R240). -/
def latMismatch (s : State) : Bool :=
  s.hop.slots.any fun p => (p.2.st = .staged || p.2.st = .loaded) && p.2.latid != 0 && p.2.latid != steppingCode

/-- GLB (R430, R433, R534). -/
def readGlb (s : State) (o : Nat) : Nat :=
  let g := s.glb
  match o with
  | 0x0 => pack [(0, steppingCode), (8, grade s), (10, g.fgrade)]
  | 0x8 => pack [(0, g.st.num), (4, bnat (latMismatch s)), (8, g.bootcode.num)]
  | 0x10 => g.time
  | 0x18 => g.serial.toNat
  | 0x100 => g.stat.toNat
  | 0x108 => g.mask.toNat
  | 0x200 => pack [(0, g.speed), (4, g.width), (7, bnat g.flit)]
  | 0x208 => g.late
  | _ => 0

/-- MLR (R535). -/
def readMlr (s : State) (o : Nat) : Nat :=
  let x := s.mlr
  if o = 0 then pack [(0, x.op.toNat), (16, x.tag.toNat)]
  else if o < 0x48 then (Tbl.get 0 x.args (o / 8 - 1)).toNat
  else if o = 0x50 then pack [(0, bnat x.busy), (1, bnat x.done), (8, x.code.num), (16, x.rtag.toNat), (32, x.opdone.toNat)]
  else if 0x58 ≤ o ∧ o < 0x78 then (Tbl.get 0 x.res (o / 8 - 11)).toNat
  else if o = 0x100 then x.cntOk
  else if o = 0x108 then x.cntErr
  else 0

/-- FRN (R482). -/
def readFrn (s : State) (o : Nat) : Nat :=
  if o < 0x400 then
    let c := chanOf s (o / 8)
    pack [(0, c.raw.toNat), (16, c.cal), (32, c.f1 / 256), (48, c.f2 / 256)]
  else if o < 0x800 then
    let c := chanOf s (o / 8 - 128)
    pack [(0, c.k1.toNat), (4, c.k2.toNat), (16, c.fscale), (32, c.offset), (48, c.gain)]
  else if o < 0xA00 then (Tbl.get {} s.frn.rules (o / 8 - 256)).w.toNat
  else if o = 0xA00 then s.frn.active.toNat
  else if o = 0xA08 then s.frn.fired.toNat
  else if o = 0xA10 then s.frn.tdac.toNat
  else if o = 0xA18 then pack [(0, s.frn.oscDly.toNat), (3, bnat s.frn.uncal)]
  else 0

/-- PWR_REG of region `g` (R479). -/
def readPwrReg (s : State) (g : Nat) : Nat :=
  let x := pwrOf s g
  pack [(0, x.op), (3, bnat x.raising.isSome), (4, x.hostlim), (8, s.pwr.caplim), (12, x.thmlim), (16, x.ilimlim), (20, x.firnlim),
    (24, poolScale s g), (32, x.rails.toNat)]

/-- PWR (R477-R479). -/
def readPwr (s : State) (o : Nat) : Nat :=
  let p := s.pwr
  if o = 0 then p.cap.toNat
  else if o = 8 then p.prio.toNat
  else if o = 0x10 then
    pack [(0, p.p10.toNat), (16, p.p1s.toNat), (32, p.cscale), (40, p.mscale), (48, p.lscale), (52, p.caplim), (55, bnat p.unmet)]
  else if o = 0x18 then pack [(0, p.vsettle.toNat), (16, p.droopMv.toNat)]
  else if 0x100 ≤ o ∧ o < 0x300 then (pwrOf s (o / 8 - 32)).ilim.toNat
  else if 0x300 ≤ o ∧ o < 0x500 then readPwrReg s (o / 8 - 96)
  else if 0x800 ≤ o ∧ o < 0xC00 then
    let x := pwrOf s ((o - 0x800) / 16)
    if o % 16 = 0 then x.ilimEvt else x.droopEvt
  else 0

/-- CLK (R480). -/
def readClk (s : State) (o : Nat) : Nat :=
  let c := s.clk
  match o with
  | 0x0 => pack [(0, bnat c.src), (1, c.port.toNat), (5, bnat c.auto)]
  | 0x8 => pack [(0, bnat c.lock), (1, bnat c.holdover), (2, bnat c.active), (3, bnat c.losRef), (4, bnat c.losPort)]
  | 0x10 => c.gate.toNat
  | 0x18 => c.stops
  | _ => 0

/-- THM (R481). -/
def readThm (s : State) (o : Nat) : Nat :=
  let t := s.thm
  if o = 0 then pack [(0, t.stkThr.toNat), (8, t.logThr.toNat), (16, t.hyst.toNat)]
  else if o = 8 then
    pack [(0, t.hotreg), (6, bnat t.valid), (16, t.hottemp.toNat), (32, (List.range 64).countP fun g => (pwrOf s g).thmlim ≠ 0)]
  else if o = 0x10 then t.trip.toNat
  else if o = 0x18 then pack [(0, t.tripHbm.toNat), (32, t.tripField.toNat)]
  else if 0x100 ≤ o ∧ o < 0x300 then pack [(0, (pwrOf s (o / 8 - 32)).maxStk.toNat), (16, (pwrOf s (o / 8 - 32)).maxLog.toNat)]
  else 0

/-- Code of an operation (R278). -/
def HopOp.num : HopOp → Nat
  | .idle => 0 | .loadImage => 1 | .loadWeights => 2 | .unload => 3

/-- HOP (R278, R279). -/
def readHop (s : State) (o : Nat) : Nat :=
  let h := s.hop
  if !hopOpen s then 0
  else if o = 0 then pack [(0, h.op.num), (4, h.slot), (16, h.err.num), (32, h.progress)]
  else if o = 8 then pack [(0, h.sect), (32, h.record)]
  else if 0x100 ≤ o ∧ o < 0x300 then
    let x := slotOf s (o / 8 - 32)
    pack [(0, x.st.num), (2, bnat x.signed), (4, x.realm), (8, x.latid), (32, (shardsLeft x).length)]
  else if 0x300 ≤ o ∧ o < 0x500 then (slotOf s (o / 8 - 96)).regions.toNat
  else if 0x1000 ≤ o ∧ o < 0x2000 then wordAt (slotOf s ((o - 0x1000) / 64)).meas (o / 8 % 8)
  else 0

/-- A mask with bit k for each realm k that `p` picks. -/
def realmMask (s : State) (p : Realm → Bool) : Nat := pack ((List.range 16).map fun k => (k, bnat (p (realmOf s k))))

/-- SEC (R549, R550). -/
def readSec (s : State) (o : Nat) : Nat :=
  let x := s.sec
  if !secOpen s then 0
  else if o = 0 then
    pack [(0, bnat x.idfail), (8, realmMask s (·.present)), (24, realmMask s fun r => r.present && r.reqsign),
      (40, realmMask s fun r => r.present && r.owner.isSome)]
  else if o = 8 then pack [(0, x.svn), (32, x.fwLen)]
  else if o = 0x10 then x.fwKeyid.toNat
  else if 0x40 ≤ o ∧ o < 0x80 then wordAt x.fwDig (o / 8 - 8)
  else if 0x80 ≤ o ∧ o < 0xC0 then wordAt x.romDig (o / 8 - 16)
  else if 0xC0 ≤ o ∧ o < 0x100 then wordAt x.devKey (o / 8 - 24)
  else if 0x100 ≤ o ∧ o < 0x130 then Tbl.get 0 x.cnt (o / 8 - 32)
  else 0

/-- FLT (R489). -/
def readFlt (s : State) (o : Nat) : Nat :=
  let f := s.flt
  if o = 0 then pack [(0, f.retry.toNat), (8, f.stkue.toNat)]
  else if o = 8 then pack [(0, f.next), (32, min f.total (2 ^ 32 - 1))]
  else if o = 0x10 then f.tail
  else if o = 0x18 then pack [(0, f.overrun), (32, f.unread)]
  else if o = 0x20 then f.sel
  else if 0x40 ≤ o ∧ o < 0x80 then wordAt (recBytes f.snap) (o / 8 - 8)
  else 0

/-- BST_STATUS.PHASE (R525). -/
def Shut.num : Shut → Nat
  | .phase1 => 1 | .phase2 => 2 | .none | .draining | .unloading => 0

/-- BST (R525). Until the firmware reads the stored set, the results read 0; a reserved block number reads NOTRUN. -/
def readBst (s : State) (o : Nat) : Nat :=
  let b := s.bst
  let x := Tbl.get {} b.results b.sel
  match o with
  | 0x0 => if b.shown then pack [(0, b.shut.num), (2, bnat b.quick), (3, bnat b.clean), (8, b.block),
      (16, b.results.countP fun p => p.2.res == 2)] else 0
  | 0x8 => b.sel
  | 0x10 => if 0x60 < b.sel then 3 else if b.shown then x.res else 0
  | 0x18 => if b.shown then bits x.sig 0 64 else 0
  | 0x20 => if b.shown then bits x.sig 64 64 else 0
  | 0x28 => if b.shown then bits x.gold 0 64 else 0
  | 0x30 => if b.shown then bits x.gold 64 64 else 0
  | _ => 0

/-- The requests of unit `u` that `p` picks. -/
def countReqs (s : State) (u : Nat) (p : Req → Bool) : Nat := s.pond.reqs.countP fun x => unitOfReq x.1 == u && p x.2

/-- The registers of Millpond unit `u` (R314-R316). -/
def readUnit (s : State) (u o : Nat) : Nat :=
  let x := unitOf s u
  if !mpdOpen s u then 0
  else if o = 0 then x.age.toNat
  else if o = 8 then
    pack [(0, countReqs s u fun r => r.st ≠ .free), (16, countReqs s u fun r => r.st = .admitted && !r.lookup),
      (32, countReqs s u fun r => r.st = .parked)]
  else if o = 0x10 then x.sel
  else if 0x80 ≤ o ∧ o < 0x100 then wordAt x.snap (o / 8 - 16)
  else if 0x100 ≤ o ∧ o < 0x180 then Tbl.get 0 x.cnt (o / 8 - 32)
  else 0

/-- The pool registers (R317). -/
def readPool (s : State) (o : Nat) : Nat :=
  let m := s.pond.poolSel
  let p := poolOf s m
  if o = 0 then m
  else if (serveOf s m).isNone then 0
  else match o with
    | 0x8 => pack [(0, p.pages), (32, p.pageb)]
    | 0x10 => pack [(0, p.pfxoff), (32, p.pfxent)]
    | 0x18 => pack [(0, p.vocab), (32, p.sumpos)]
    | 0x20 => p.sumb
    | 0x28 => pack [(0, freePages p), (20, p.reserved), (40, (List.range p.pfxent).countP fun i => (readPfx s m i).valid)]
    | _ => 0

/-- The registers of Sluice port `p` (R381-R386). -/
def readSlu (s : State) (p o : Nat) : Nat :=
  let x := portOf s p
  if !sluOpen s p then 0
  else if 0x100 ≤ o ∧ o < 0x160 then Tbl.get 0 x.cnt (o / 8 - 32)
  else if 0x400 ≤ o ∧ o < 0x800 then wordAt (Tbl.get [] x.vlog ((o - 0x400) / 64)) (o / 8 % 8)
  else match o with
    | 0x0 => x.cfg.toNat
    | 0x8 => pack [(0, bnat x.linkA), (1, bnat x.linkB), (2, bnat (x.los != 0)), (3, bnat x.localClk)]
    | 0x10 => x.gml.toNat
    | 0x18 => x.mac.toNat
    | 0x20 => x.ip0.toNat
    | 0x28 => x.ip1.toNat
    | 0x30 => x.tmr.toNat
    | 0x38 => x.viol.toNat
    | 0x200 => pack [(0, x.vnext), (32, x.vtotal)]
    | _ => 0

/-- The registers of Tailrace link `l` (R395-R397). -/
def readTlr (s : State) (l o : Nat) : Nat :=
  let x := linkOf s l
  let q := queueOf s l ((o - 0x100) / 0x20)
  if !tlrOpen s l then 0
  else if o = 0 then pack [(0, bnat x.en), (1, bnat x.realmValid), (4, x.realm)]
  else if o = 8 then pack [(0, bnat x.up), (1, bnat x.training), (2, bnat x.lost), (32, x.peer.toNat)]
  else if 0x100 ≤ o ∧ o < 0x300 then
    match o % 0x20 with
    | 0x0 => pack [(0, bnat q.en), (8, q.nslot), (24, q.slotb)]
    | 0x8 => q.tx.toNat
    | 0x10 => q.rx.toNat
    | _ => pack [(0, q.credit), (32, q.txacked.toNat)]
  else if 0x400 ≤ o ∧ o < 0x440 then Tbl.get 0 x.cnt (o / 8 - 128)
  else 0

/-- The registers of Snowpack controller `k` (R417-R421). -/
def readSnw (s : State) (k o : Nat) : Nat :=
  let x := ctlOf s k
  if !snwOpen s k then 0
  else if o = 0 then
    pack [(0, x.ready.toNat), (8, x.failed.toNat), (16, x.hot.toNat), (24, bnat (!s.snow.zeroing.isEmpty))]
  else if o = 0x10 then (if k = 0 then s.snow.zmap.toNat else 0)
  else if o = 0x18 then pack [(0, x.interval.toNat), (32, x.passes)]
  else if 0x100 ≤ o ∧ o < 0x130 then
    match Tbl.get none x.temps (o / 8 - 32) with
    | some t => pack [(0, t.toNat), (12, 1)]
    | none => 0
  else if 0x200 ≤ o ∧ o < 0x240 then Tbl.get 0 x.cnt (o / 8 - 64)
  else 0

/-- Code of a shape (R27). -/
def Shape.num : Shape → Nat
  | .full => 0 | .short => 1 | .lost => 2 | .unknown => 3

/-- REG_SHAPE (R27): FENCED also while the region drains. -/
def readShape (s : State) (g : Nat) : Nat :=
  let x := (regionOf s g).org
  pack [(0, x.shape.num), (4, if x.shape = .short then x.dropRow else 0), (16, (x.realm.map (·.val)).getD 0), (20, bnat x.realm.isSome),
    (21, bnat x.fenced)]

/-- REG_ROWMAP0 and REG_ROWMAP1 (R27): rows `p` to `p + 7`. -/
def readRowmap (s : State) (g p : Nat) : Nat :=
  pack ((List.range 8).map fun k =>
    let r := rowOf (regionOf s g).org (p + k)
    (8 * k, r.outCol + 32 * bnat r.stackDead + 64 * bnat r.defect))

/-- REG_ROUTE of region `g` for region `d` (R195). After bring-up, from which on its hub is in service, the region's own entry reads
XY. -/
def readRoute (s : State) (g d : Nat) : Nat :=
  if g = d then (if (regionOf s g).race.hub then pack [(0, 1), (16, 1), (32, 1), (48, 1)] else 0)
  else pack ((List.range 4).flatMap fun p =>
    let r := Tbl.get {} (regionOf s g).race.routes (d * 4 + p)
    [(16 * p, r.mode), (16 * p + 8, r.waypoint)])

/-- The counters of a plane (R196). -/
def readRace (c : RaceCnt) (o : Nat) : Nat := [c.flits, c.cstall, c.inj, c.ej, c.refused, c.cto, c.grace].getD (o / 8) 0

/-- The counter block of core `c` (R80, R242). The clock gate of a core does not gate it (R580). -/
def readCore (s : State) (c o : Nat) : Nat :=
  let x := (coreOf s c).cnt
  if !coreExists s c then 0
  else if 0x100 ≤ o ∧ o < 0x178 then Tbl.get 0 x.slack (o / 8 - 32)
  else match o with
    | 0x0 => x.zblk
    | 0x8 => x.sat
    | 0x10 => x.spuOvf
    | 0x18 => x.spuOutl
    | 0x20 => pack [(0, x.errCode.num), (8, x.errEng), (12, x.errOp), (16, x.errPc), (32, x.errTime)]
    | _ => 0

/-- REG_MEMPLAN (R159). -/
def readMemplan (s : State) (c : Nat) : Nat :=
  if coreExists s c then pack [(0, (coreOf s c).boundary), (16, (coreOf s c).csm)] else 0

/-- The window of region `g` (R27, R80, R159-R162, R189, R195, R196, R488). The shape registers and the fault ring are never gated; the
Race registers are gated while VDDN is off, the rest while VDDC is off and in FAULT (R580). -/
def readReg (s : State) (g o : Nat) : Nat :=
  let x := regionOf s g
  if o = 0 then readShape s g
  else if o = 8 then readRowmap s g 0
  else if o = 0x10 then readRowmap s g 8
  else if o = 0x18 then pack [(0, x.log.next), (32, min x.log.total (2 ^ 32 - 1))]
  else if 0x4000 ≤ o ∧ o < 0x8000 then wordAt (recBytes (Tbl.get {} x.log.ring ((o - 0x4000) / 64))) (o / 8 % 8)
  else if 0x2000 ≤ o ∧ o < 0x3100 then
    if !bit x.pwr.rails 1 then 0
    else if o < 0x2200 then readRoute s g (o / 8 % 64)
    else if o = 0x2200 then x.race.timeout.toNat
    else if o = 0x2208 then pack [(0, bnat (s.race.reloads.any fun r => r.src == g)), (1, bnat x.race.hub)]
    else if 0x3000 ≤ o then readRace (Tbl.get {} x.race.cnt ((o - 0x3000) / 64)) (o % 64)
    else 0
  else if !regClocked s g then 0
  else if o = 0x1000 then pack [(0, x.mem.interval.toNat), (32, x.mem.passes)]
  else if o = 0x1008 then x.mem.stkCe
  else if o = 0x1010 then x.mem.stkUe
  else if o = 0x1018 then x.mem.sramCe
  else if o = 0x1020 then x.mem.sramUe
  else if 0x10000 ≤ o ∧ o < 0x10800 then readMemplan s (256 * g + (o - 0x10000) / 8)
  else if 0x20000 ≤ o then readCore s (256 * g + (o - 0x20000) / 512) (o % 512)
  else 0

/-- The latest failure among a mill and its descendants, the lower mill ID on a tie (R38). -/
def lastFailure (s : State) (m : Nat) : Code :=
  ((descendants s m).foldl (fun (b : Code × Nat) k =>
    let x := millOf s k
    if x.lastCode ≠ .ok && (b.1 = .ok || decide (b.2 < x.lastTime)) then (x.lastCode, x.lastTime) else b) (.ok, 0)).1

/-- MIL_STEP (R37): the minimum over the members of a compound mill; a mill beneath a step owner counts its steps (DEDUCED, log entry 73). -/
def stepCount (s : State) (m : Nat) : Nat :=
  match ownerUp s m with
  | some o => (millOf s o).steps
  | none =>
    let l := ((descendants s m).filter fun k => (millOf s k).cfg.owner).map fun k => (millOf s k).steps
    l.foldl min (l.headD 0)

/-- DSTATE of R499. -/
def DrainSt.num : DrainSt → Nat
  | .opened => 0 | .draining => 1 | .fenced => 2

/-- MIL_FAULT (R495). -/
def readFaults (k : Mill) : Nat := pack [(0, k.faults.toNat), (24, if k.cfg.owner then min k.f 31 else 0)]

/-- The block of mill `m` (R37, R38, R446, R495, R499, R503). -/
def readMil (s : State) (m o : Nat) : Nat :=
  let k := millOf s m
  let cs := coresOf s m
  if k.st = .unused then 0
  else match o with
    | 0x0 => pack [(0, bnat k.cfg.compound), (1, bnat k.cfg.owner), (2, bnat k.cfg.xact), (4, k.cfg.parent), (16, k.cfg.realm),
        (32, cs.length - 1)]
    | 0x8 => pack [(0, (millState s m).num), (4, bnat ((descendants s m).any fun d => readFaults (millOf s d) ≠ 0)),
        (8, (lastFailure s m).num)]
    | 0x18 => stepCount s m
    | 0x20 => pack [(0, bnat k.fence), (1, bnat (decide (k.st = .halted))), (8, (dstateOf s m).num), (16, k.drain.toNat), (32, k.late)]
    | 0x28 => readFaults k
    | 0x30 => pack [(0, cs.foldl (fun n c => n + (coreOf s c).share) 0),
        (24, cs.foldl (fun n c => n + effShare s c + (coreOf s c).acquired) 0), (48, k.limit.toNat)]
    | 0x38 => pack [(0, k.wdog.timeout.toNat), (24, k.wdog.cause), (28, k.wdog.nlag), (32, k.wdog.lag0), (48, k.wdog.detail),
        (56, k.wdog.late)]
    | _ => 0

/-- A read of an aligned BAR0 word (R13, R16, R427): none is an Unsupported Request. -/
def regRead (s : State) (a : Nat) : Option Word :=
  if !hostReach s || a % 8 ≠ 0 || unmapped a || 0x4000000 ≤ a then none
  else some (BitVec.ofNat 64 (
    if a < 0x10000 then readGlb s a
    else if a < 0x20000 then readMlr s (a - 0x10000)
    else if a < 0x30000 then readFrn s (a - 0x20000)
    else if a < 0x40000 then readPwr s (a - 0x30000)
    else if a < 0x50000 then readClk s (a - 0x40000)
    else if a < 0x60000 then readThm s (a - 0x50000)
    else if a < 0x70000 then readHop s (a - 0x60000)
    else if a < 0x80000 then readSec s (a - 0x70000)
    else if a < 0x90000 then readFlt s (a - 0x80000)
    else if a < 0xA0000 then readBst s (a - 0x90000)
    else if a < 0xA4000 then readUnit s ((a - 0xA0000) / 0x1000) (a % 0x1000)
    else if a < 0x100000 then readPool s (a - 0xA4000)
    else if a < 0x200000 then readSlu s ((a - 0x100000) / 0x10000) (a % 0x10000)
    else if a < 0x280000 then readTlr s ((a - 0x200000) / 0x10000) (a % 0x10000)
    else if a < 0x1000000 then readSnw s ((a - 0x280000) / 0x10000) (a % 0x10000)
    else if a < 0x2000000 then readReg s ((a - 0x1000000) / 0x40000) (a % 0x40000)
    else readMil s ((a - 0x2000000) / 0x2000) (a % 0x2000)))

/-- Are the open-drain outputs released whatever the device holds: in OFF, and while MOD_RST_N is low (R555)? -/
def outputsReleased (s : State) : Bool := s.glb.st = .off || s.pins.rstLow

/-- DEV_READY (R555, R557). -/
def devReady (s : State) : Bool := isUp s && !outputsReleased s

/-- FAULT_N: low from the entry into FAULT until MOD_RST_N or OFF (R557; R555's table has it released in a STANDBY that PWR_ON_REQ brings: DEDUCED, log
entry 99). -/
def faultN (s : State) : Bool := !s.pins.faultLow || outputsReleased s

/-- THERM_TRIP_N: low while a trip latch is set (R462, R555). -/
def thermTripN (s : State) : Bool :=
  outputsReleased s || s.thm.trip = 0 && s.thm.tripHbm = 0 && s.thm.tripField = 0

/-- ALARM_N[k]: low while a PIN rule of target `k` is active (R470). -/
def alarmN (s : State) (k : Fin 4) : Bool :=
  outputsReleased s || (List.range 64).all fun n =>
    let w := (Tbl.get {} s.frn.rules n).w
    !(bit s.frn.active n && decide (bits w 48 3 = 5) && decide (bits w 52 7 = k.val))

/-- What configuration space identifies the module by (R424): Vendor ID, Device ID, Revision ID, Class code, Subsystem Vendor ID and
Subsystem ID. -/
def configIdentity (s : State) : List Nat := [0x1F3C, 0x0A55, steppingCode, 0x120000, 0x1F3C, s.glb.subsys]

/-- The size in bytes of base address register `i` with the one above it (R425): 64-bit non-prefetchable memory. BAR4 and BAR5 are not implemented
and read as 0. -/
def barSize (i : Nat) : Option Nat := match i with | 0 => some (2 ^ 26) | 2 => some (2 ^ 16) | _ => none

/-- The type bits of base address register `i` (R425), as the PCI specification codes them (PRESUMED, log entry 37): a 64-bit non-prefetchable memory
space, or nothing. -/
def barType (i : Nat) : Nat := if (barSize i).isSome then 4 else 0

end Sys2Proof.Machine
end

