-- ==== Sys2Proof/Safety.lean ====
section
/-!
DEFINITION. What the statements mean by a safe state (both memories in canonical form, a queue of well-formed commands), and the
words they share: which part of the state a command may change, and how a core goes on to its next bundle.
-/
namespace Sys2Proof.Machine

/-- The byte memory and the program memory are in canonical form. -/
def State.memOk (s : State) : Bool := Memory.wf s.mem && Memory.wf s.prog

/-- Every waiting command is well formed. -/
def State.queueOk (s : State) : Bool := s.pending.all Instr.wellFormed

/-- Nothing but entry `c` of the table of cores differs. -/
def OnlyCore (c : Nat) (s t : State) : Prop := t = { s with cores := t.cores } ∧ ∀ j, j ≠ c → coreOf t j = coreOf s j

/-- The command of instruction `i` takes effect in slot `k` of core `c` now: the core issues bundles, or finishes one that it has begun; the
bundle at its program counter, within the program, holds the instruction in that slot, and it is the slot's turn (R199, R202, R203); and
no slot of a bundle that begins now has to wait (R203, R243). -/
def TakesEffect (s : State) (c : CoreId) (k : Fin 4) (i : Instr) : Prop :=
  mayIssue s c = true ∧ (coreOf s c).scc.pc < (coreOf s c).len ∧ inTurn s c k i = true ∧
    ((coreOf s c).scc.done = [] → bundleStall s c = none)

/-- A bundle follows the present one of core `c` (R208). -/
def MoreFollow (s : State) (c : Nat) : Prop := (coreOf s c).scc.pc + 1 < (coreOf s c).len

/-- The slot that a command of slot 1 or 2 takes (R204). -/
def slot12 (s : State) (c : CoreId) (i : Instr) : Fin 4 := if inTurn s c 1 i then 1 else 2

/-- The bundle of core `c` has issued in `n` core cycles (R241, R242): the program counter, the scalars and the return stack are as
given, the cycles are counted, the stall timer restarts (R501), no stall is left, and nothing else differs in any part of the state. -/
def Issued (c n pc : Nat) (regs : Tbl Word) (stack : List Nat) (s t : State) : Prop :=
  OnlyCore c s t ∧
  coreOf t c = { coreOf s c with
    scc := { (coreOf s c).scc with pc := pc, regs := regs, stack := stack, cycles := (coreOf s c).scc.cycles + n
                                   done := [], since := s.glb.time }
    cnt := (slackUp (coreOf s c) .run n).cnt, stall := 0, detail := 0 }

/-- The bundle has issued in one core cycle and the next one follows; scalar `rd` is `v`, every other scalar as before, and
nothing else differs in any part of the state. -/
def WroteScalar (c : Nat) (rd : Fin 32) (v : Word) (s t : State) : Prop :=
  Issued c 1 ((coreOf s c).scc.pc + 1) (coreOf t c).scc.regs (coreOf s c).scc.stack s t ∧
  ∀ i, sreg (coreOf t c) i = if i = rd.val then v else sreg (coreOf s c) i

/-- The outcome is a next state of which `p` holds. -/
def Next (o : Outcome) (p : State → Prop) : Prop := ∃ t, o = .next t ∧ p t

/-- Core `c` stalls for one core cycle: the stall counter `i` and the cause and detail of R502 say why; nothing else differs. -/
def Stalled (c : Nat) (i : Slack) (cause detail : Nat) (s t : State) : Prop :=
  OnlyCore c s t ∧
  coreOf t c = { coreOf s c with
    scc := { (coreOf s c).scc with cycles := (coreOf s c).scc.cycles + 1 }
    cnt := (slackUp (coreOf s c) i 1).cnt, stall := cause, detail := detail }

/-- The condition of a BR, as R207 states it. -/
def Taken (x : Cond) (v : Word) : Prop :=
  match x with
  | .always => True
  | .eqz => v = 0
  | .nez => v ≠ 0
  | .ltz => v.toInt < 0
  | .gez => 0 ≤ v.toInt

end Sys2Proof.Machine
end

