-- ==== Sys2Proof/Certificates/Slice0/Obligations.lean ====
section
/-!
DEFINITION. The statements for the provers: what a step does with its queue, what reset leaves, the invariant of memory, and for
every command of the table what it does and what it leaves alone.
-/
open Sys2Proof Sys2Proof.Machine

/-! ### The block -/

/-- Tier 1. A step with a command at the front of the queue is that command's effect on the state with the rest of the queue. -/
def Obligations.StepRunsFrontCommand : Prop :=
  ∀ (s : State) (c : Instr) (rest : List Instr), s.pending = c :: rest → step s = exec c { s with pending := rest }

/-- Nothing waits to go on in the background: no shut-down, no unload, no FENCE of a region, no step that drains, no dead stack outside the images,
and the PCIe link is up or PERST_N is low. -/
def BackgroundQuiet (s : State) : Prop :=
  s.bst.shut = .none ∧ s.hop.op ≠ .unload ∧ s.mlr.fencing = none ∧ (∀ p ∈ s.mills, p.2.dstate ≠ .draining) ∧
  (∀ p ∈ s.regions, p.2.org.deadStacks = []) ∧ (s.glb.speed ≠ 0 ∨ s.pins.perst = false)

/-- Tier 1. With no command waiting a step answers the state after a nanosecond of device time and what goes on in the background (log entry 2,
the model's choice). Where nothing waits to go on there, that state has in OFF the counts that it had (R7); where GLB_TIME runs it stands one
higher, and Firn's clock by what the local clock counts meanwhile, which is one when nothing is left to slew (R380). -/
def Obligations.IdleStepLetsTimePass : Prop :=
  ∀ s : State, s.pending = [] → step s = .next (tick s) ∧ tick s = background (pass s 1) ∧
    (BackgroundQuiet s →
      (s.glb.st = .off → (tick s).glb.time = s.glb.time ∧ (tick s).frn.clock = s.frn.clock) ∧
      (timeRuns s = true → (tick s).glb.time = s.glb.time + 1 ∧ (tick s).frn.clock = s.frn.clock + (slewed s.sluice.ptp 1).1)) ∧
    (s.sluice.ptp.slew = 0 → s.sluice.ptp.part = 0 → (slewed s.sluice.ptp 1).1 = 1)

/-- Reset: STATE is BOOT (R534), no time has passed, every region is UNKNOWN, every mill is UNUSED and every slot FREE, all 41
causes are masked and none is pending, the mailbox is idle, no record has been written, and the memories list nothing: that a byte which nothing
has written reads 0 is the model's choice (log entries 1 and 7). -/
def ResetStateHolds : Prop :=
  State.reset.glb.st = .boot ∧ State.reset.glb.time = 0 ∧ State.reset.glb.stat = 0 ∧ State.reset.glb.mask = 0x1FFFFFFFFFF ∧
  (∀ r, (regionOf State.reset r).org.shape = .unknown) ∧ (∀ m, (millOf State.reset m).st = .unused) ∧
  (∀ n, (slotOf State.reset n).st = .free) ∧ State.reset.mlr.busy = false ∧ State.reset.flt.total = 0 ∧
  State.reset.flt.retry = 3 ∧ State.reset.flt.stkue = 0x10 ∧ State.reset.mem = [] ∧ State.reset.prog = [] ∧ State.reset.pending = []

/-- The invariant of the next statement holds at reset. -/
def ResetMemoryCanonicalHolds : Prop := State.reset.memOk = true ∧ State.reset.queueOk = true

/-- Tier 1. Reset: STATE is BOOT (R534), no time has passed, every region is UNKNOWN, every mill is UNUSED and every slot FREE, all 41
causes are masked and none is pending, the mailbox is idle, no record has been written, and the memories list nothing: that a byte which
nothing has written reads 0 is the model's choice (log entries 1 and 7). The invariant of the next statement holds at reset. -/
def Obligations.ResetState : Prop := ResetStateHolds ∧ ResetMemoryCanonicalHolds

/-- Tier 3. Every step keeps the byte memory and the program memory in canonical form: addresses rise strictly and no zero is listed. -/
def Obligations.StepKeepsMemoryCanonical : Prop :=
  ∀ s t : State, s.memOk = true → step s = .next t → t.memOk = true

/-- Tier 2. No command touches the queue: what waits behind a command waits there still after it. -/
def Obligations.CommandsKeepQueue : Prop :=
  ∀ (c : Instr) (s t : State), exec c s = .next t → t.pending = s.pending

/-- A command stops with a fault only where its encoding is one that the Hopper rejects at load (R213, R233); every other
command, whatever the state, answers a next state. -/
def OnlyRejectedEncodingsStopHolds : Prop :=
  ∀ (c : Instr) (s : State),
    (c.wellFormed = true → ∃ t, exec c s = .next t) ∧ (c.wellFormed = false → exec c s = .fault .illFormed)

/-! ### The control slot (06) -/

/-- LI, LIH, ALU, ADDI and BFI (R206, R207), when they take effect and a bundle follows: the scalar they write, in full, and that
nothing else changes. A result is there for the next bundle, and that of MUL after 3 core cycles (R217, R241). -/
def ScalarArithmeticHolds : Prop :=
  ∀ (s : State) (c : CoreId) (rd ra rb : Fin 32), MoreFollow s c →
    let a := sreg (coreOf s c) ra
    let b := sreg (coreOf s c) rb
    let old := sreg (coreOf s c) rd
    let ready := fun (t : Nat) => updCore s c fun k => setPend k rd t false
    let writes := fun (i : Instr) (v : Word) => TakesEffect s c 0 i → Next (exec i s) (WroteScalar c rd v (ready 0))
    let alu := fun (f : AluFn) (v : Word) => TakesEffect s c 0 (.alu c rd ra rb f) → Next (exec (.alu c rd ra rb f) s)
      (WroteScalar c rd v (ready (if f = .mul then (coreOf s c).scc.cycles + 3 else 0)))
    (∀ imm : BitVec 21, writes (.li c rd imm) (imm.signExtend 64)) ∧
    (∀ (sh : Fin 4) (imm : BitVec 16), ∃ v : Word, writes (.lih c rd sh imm) v ∧
      ∀ i < 64, v.getLsbD i = if 16 * sh.val ≤ i ∧ i < 16 * sh.val + 16 then imm.getLsbD (i - 16 * sh.val) else old.getLsbD i) ∧
    (∀ imm : BitVec 16, writes (.addi c rd ra imm) (a + imm.signExtend 64)) ∧
    (∀ lo wm1 : Fin 64, lo.val + wm1.val ≤ 63 → ∃ v : Word, writes (.bfi c rd ra lo wm1) v ∧
      ∀ i < 64, v.getLsbD i = if lo.val ≤ i ∧ i ≤ lo.val + wm1.val then a.getLsbD (i - lo.val) else old.getLsbD i) ∧
    alu .add (a + b) ∧ alu .sub (a - b) ∧ alu .and (a &&& b) ∧ alu .or (a ||| b) ∧ alu .xor (a ^^^ b) ∧
    alu .shl (a <<< (b.toNat % 64)) ∧ alu .shr (a >>> (b.toNat % 64)) ∧ alu .sra (a.sshiftRight (b.toNat % 64)) ∧ alu .mul (a * b) ∧
    alu .min (if a.toInt < b.toInt then a else b) ∧ alu .max (if a.toInt < b.toInt then b else a) ∧
    alu .slt (if a.toInt < b.toInt then 1 else 0) ∧ alu .sltu (if a.toNat < b.toNat then 1 else 0)

/-- RDSR (R207): what each of its sources reads. That the tokens are those of the effective share and those acquired, and what is free of
them, is the model's choice (log entry 25; R444, R446). -/
def RdsrReadsTheStateNamedHolds : Prop :=
  ∀ (s : State) (c : CoreId) (rd : Fin 32), MoreFollow s c →
    let reads := fun (src : SrSrc) (v : Nat) =>
      TakesEffect s c 0 (.rdsr c rd src) → Next (exec (.rdsr c rd src) s)
        (WroteScalar c rd (BitVec.ofNat 64 v) (updCore s c fun k => setPend k rd 0 false))
    (∀ i : Fin 16, reads (.counter i) (Tbl.get 0 (coreOf s c).scc.cnts i).toNat) ∧
    reads .cycles (coreOf s c).scc.cycles ∧ reads .time s.glb.time ∧ reads .coreId c.val ∧
    (∀ m, ownerOf s c = some m → reads .stepNo ((millOf s m).steps + 1)) ∧
    reads .tokensHeld (effShare s c + (coreOf s c).acquired) ∧
    reads .tokensFree (effShare s c + (coreOf s c).acquired - heldTokens (coreOf s c))

/-- Tier 2. LI, LIH, ALU, ADDI and BFI (R206, R207), when they take effect and a bundle follows: the scalar they write, in full, and that
nothing else changes. A result is there for the next bundle, and that of MUL after 3 core cycles (R217, R241). RDSR (R207): what each of
its sources reads. That the tokens are those of the effective share and those acquired, and what is free of them, is the model's choice
(log entry 25; R444, R446). -/
def Obligations.ScalarResults : Prop := ScalarArithmeticHolds ∧ RdsrReadsTheStateNamedHolds

/-- Tier 2. NOP, BR, LOOP, CALL and RET when they take effect and their destination lies within the program (R203, R207, R208): the
program counter, the return stack and the scalar of LOOP; nothing else changes. A NOP in slots 1-3 changes nothing. -/
def Obligations.BranchesAndCalls : Prop :=
  ∀ (s : State) (c : CoreId) (ra : Fin 32) (target : BitVec 12),
    let k := coreOf s c
    let v := sreg k ra
    let goes := fun (i : Instr) (n pc : Nat) (regs : Tbl Word) (stack : List Nat) =>
      TakesEffect s c 0 i → Next (exec i s) (Issued c n pc regs stack s)
    (MoreFollow s c → goes (.nop c 0) 1 (k.scc.pc + 1) k.scc.regs k.scc.stack) ∧
    (∀ slot : Fin 4, slot ≠ 0 → exec (.nop c slot) s = .next s) ∧
    (∀ x, Taken x v → target.toNat < k.len → goes (.br c x ra target) 2 target.toNat k.scc.regs k.scc.stack) ∧
    (∀ x, ¬ Taken x v → MoreFollow s c → goes (.br c x ra target) 1 (k.scc.pc + 1) k.scc.regs k.scc.stack) ∧
    (v - 1 ≠ 0 → target.toNat < k.len →
      goes (.loop c ra target) 1 target.toNat (Tbl.set 0 k.scc.regs ra (v - 1)) k.scc.stack) ∧
    (v - 1 = 0 → MoreFollow s c → goes (.loop c ra target) 1 (k.scc.pc + 1) (Tbl.set 0 k.scc.regs ra 0) k.scc.stack) ∧
    (k.scc.stack.length < 8 → target.toNat < k.len →
      goes (.call c target) 2 target.toNat k.scc.regs ((k.scc.pc + 1) :: k.scc.stack)) ∧
    (∀ d rest, k.scc.stack = d :: rest → d < k.len → goes (.ret c) 2 d k.scc.regs rest)

/-- Tier 2. R208: the return stack holds 8 entries, no destination lies beyond the program, and neither does a bundle that issues: each
breach fails the scalar control core (unit 0xA) with FORMAT, at the present bundle, or at bundle L - 1 past the end. There no instruction
of any slot is executed, and every instruction of the control slot that falls through from bundle L - 1 fails so; an LD or an ST whose access
fails there fails with that. -/
def Obligations.ReturnStackAndProgramEnd : Prop :=
  ∀ (s : State) (c : CoreId) (rd ra rb : Fin 32) (target : BitVec 12),
    let k := coreOf s c
    let fails := fun (i : Instr) (pc : Nat) =>
      ∃ u, OnlyCore c s u ∧ exec i s = .next (failUnit u c 0xA 0 pc { code := .format })
    (mayIssue s c = true → k.len ≤ k.scc.pc →
      ∀ (n : Fin 4) (w : Nat) (i : Instr), decodeSlot c n w = some i → i.wellFormed = true → (n = 0 ∨ i ≠ .nop c n) →
        fails i (k.len - 1)) ∧
    (TakesEffect s c 0 (.call c target) → k.scc.stack.length = 8 → fails (.call c target) k.scc.pc) ∧
    (TakesEffect s c 0 (.ret c) → k.scc.stack = [] → fails (.ret c) k.scc.pc) ∧
    (k.len ≤ target.toNat →
      (∀ x, Taken x (sreg k ra) → TakesEffect s c 0 (.br c x ra target) → fails (.br c x ra target) k.scc.pc) ∧
      (sreg k ra - 1 ≠ 0 → TakesEffect s c 0 (.loop c ra target) → fails (.loop c ra target) k.scc.pc) ∧
      (TakesEffect s c 0 (.call c target) → fails (.call c target) k.scc.pc)) ∧
    (∀ d rest, k.scc.stack = d :: rest → k.len ≤ d → TakesEffect s c 0 (.ret c) → fails (.ret c) k.scc.pc) ∧
    (k.scc.pc + 1 = k.len → ∀ i : Instr, TakesEffect s c 0 i →
      (i = .nop c 0 ∨ (∃ x, ¬ Taken x (sreg k ra) ∧ i = .br c x ra target) ∨ (sreg k ra - 1 = 0 ∧ i = .loop c ra target) ∨
        (∃ m, i = .fence c m) ∨ (∃ v, i = .li c rd v) ∨ (∃ h v, i = .lih c rd h v) ∨ (∃ f, i = .alu c rd ra rb f) ∨
        (∃ v, i = .addi c rd ra v) ∨ (∃ lo n : Fin 64, lo.val + n.val ≤ 63 ∧ i = .bfi c rd ra lo n) ∨ (∃ x, i = .rdsr c rd x)) →
      fails i (k.len - 1)) ∧
    (k.scc.pc + 1 = k.len → ∀ (h : Fin 64) (ups : List Upset) (wr : Bool),
      let i := if wr then Instr.st c rd h ra ups else .ld c rd h ra ups
      csmWaits s c h (sreg k ra).toNat wr = false → TakesEffect s c 0 (if wr then .st c rd h ra [] else .ld c rd h ra []) →
        (∃ u e, exec i s = .next (failUnit u c 0xA 0 (k.len - 1) e)) ∧
        (∀ a, narrowAddr s c h (sreg k ra).toNat wr = .ok a → fld a 34 14 = c.val → s.poison = [] → ups = [] →
          ∃ u, OnlyCore c { s with mem := u.mem } u ∧ exec i s = .next (failUnit u c 0xA 0 (k.len - 1) { code := .format })))

/-- Tier 2. FENCE (R207), STEP.END (R231) and HALT (R232). FENCE waits for the first of the selected units that is not idle (cause 0xD),
STEP.END for a core with no outstanding work (0xE); a bundle that waits stalls for one core cycle, and nothing else changes. FENCE then
goes on. STEP.END ends the core's step: DONE tags become IDLE, acquired tokens return to the float, the step owner has the report, and
memory stays. HALT stops at that bundle, the step owner enters HALTED with cause 40, and a record of CLASS STEP and code HALTED names the
core and the bundle. -/
def Obligations.FenceStepEndHalt : Prop :=
  ∀ (s : State) (c : CoreId) (m : Nat), ownerOf s c = some m →
    let k := coreOf s c
    let slots := fun (i : Instr) => i = .stepEnd c ∨ i = .halt c ∨ ∃ mask, i = .fence c mask
    (∀ mask : BitVec 9,
      (waitsFor s c (.fence c mask) = none ↔ ∀ i < 9, mask.getLsbD i = true → unitIdle k (i + 1) = true) ∧
      (∀ i < 9, mask.getLsbD i = true → unitIdle k (i + 1) = false →
        (∀ j < i, mask.getLsbD j = true → unitIdle k (j + 1) = true) →
        waitsFor s c (.fence c mask) = some (.fence, 0xD, i + 1)) ∧
      (TakesEffect s c 0 (.fence c mask) → MoreFollow s c →
        Next (exec (.fence c mask) s) (Issued c 1 (k.scc.pc + 1) k.scc.regs k.scc.stack s))) ∧
    waitsFor s c (.stepEnd c) = (if coreIdle k = true then none else some (.fin, 0xE, 0)) ∧
    (∀ i x, slots i → mayIssue s c = true → k.scc.pc < k.len → inTurn s c 0 i = true → k.scc.done = [] → bundleStall s c = some x →
      x.1 ≠ .token → Next (exec i s) (Stalled c x.1 x.2.1 x.2.2 s)) ∧
    (TakesEffect s c 0 (.stepEnd c) → Next (exec (.stepEnd c) s) fun t =>
        t = { s with cores := t.cores, regions := t.regions, mills := t.mills } ∧
        (∀ j, j ≠ c.val → coreOf t j = coreOf s j) ∧
        coreOf t c = { k with flume := [], acquired := 0, stall := 0, detail := 0, cnt := (slackUp k .run 1).cnt
                              scc := { k.scc with run := .ended, cycles := k.scc.cycles + 1, done := [], since := s.glb.time } } ∧
        (∀ r, r ≠ c.val / 256 → regionOf t r = regionOf s r) ∧
        (regionOf t (c.val / 256)).tok.granted = (regionOf s (c.val / 256)).tok.granted - k.acquired ∧
        (∀ n, n ≠ m → millOf t n = millOf s n) ∧
        millOf t m = { millOf s m with ended := insertNat c (millOf s m).ended }) ∧
    ((millOf s m).dstate ≠ .draining → TakesEffect s c 0 (.halt c) → Next (exec (.halt c) s) fun t =>
        millOf t m = { millOf s m with st := .halted } ∧ t.mem = s.mem ∧ bit t.glb.stat 40 = true ∧
        (coreOf t c).scc.pc = k.scc.pc + 1 ∧
        ∃ r : Rec, Tbl.get {} t.flt.ring s.flt.next = r ∧ r.code = .halted ∧ r.cls = .step ∧ r.pc = some k.scc.pc ∧ r.mill = some m ∧
          r.region = some (c.val / 256) ∧ r.row = some (c.val / 16 % 16) ∧ r.col = some (c.val % 16))

/-- LD and ST (R209) of the own core, in every space (R139, R140), when no upset or poison is met: LD writes the 8 bytes at
BASE × 16 + s[RA] to the scalar; ST stores s[RS] there, lowest byte first, and every byte of memory outside those 8 reads as before. In
spaces 0x1, 0x2 and 0x4 the address is that of the handle's own space; a scalar that an LD writes is there 4 core cycles later, and 5
through space 0x3 (R217, R241). An uncorrectable error of the word read fails the LD with ECC, and names it (R136). -/
def LoadAndStoreHolds : Prop :=
  ∀ (s : State) (c : CoreId) (rd ra : Fin 32) (h : Fin 64), MoreFollow s c →
    let k := coreOf s c
    let e := handleOf k h
    let off := (sreg k ra).toNat
    let late := updCore s c fun k => setPend k rd (k.scc.cycles + if e.space = 3 then 5 else 4) true
    (off % 8 = 0 → e.valid = true → (e.space = 1 ∨ e.space = 2 ∨ e.space = 4) → off + 8 ≤ e.len → e.base + e.len ≤ spaceSize e.space →
      (e.rd = true → narrowAddr s c h off false = .ok (coreAddr c e.space (e.base + off))) ∧
      (e.wr = true → narrowAddr s c h off true = .ok (coreAddr c e.space (e.base + off)))) ∧
    (∀ a, fld a 34 14 = c.val → fld a 30 4 ≠ 0 →
      (narrowAddr s c h off false = .ok a → TakesEffect s c 0 (.ld c rd h ra []) →
        (s.poison = [] → Next (exec (.ld c rd h ra []) s) fun t =>
          WroteScalar c rd (BitVec.ofNat 64 (leNat (readBytes s a 8))) late t ∧ t.mem = s.mem) ∧
        (∀ y, ∃ u, exec (.ld c rd h ra [.sramLost a y]) s =
          .next (failUnit u c 0xA 0 k.scc.pc { code := .ecc, addr := some a, syn := y.toNat + at_ 8 (sramMem a) }) ∧ u.mem = s.mem)) ∧
      (narrowAddr s c h off true = .ok a → s.poison = [] → TakesEffect s c 0 (.st c rd h ra []) →
        Next (exec (.st c rd h ra []) s) fun t =>
          Issued c 1 (k.scc.pc + 1) k.scc.regs k.scc.stack { s with mem := t.mem } t ∧
          (∀ i < 8, readByte t (a + i) = BitVec.ofNat 8 ((sreg k rd).toNat / 256 ^ i)) ∧
          ∀ x, (x < a ∨ a + 8 ≤ x) → readByte t x = readByte s x))

/-- The failures of R209, in its order: a displacement that is no multiple of 8, a handle that is not VALID or names space 0x0,
a handle without the right, an access beyond the handle's length. Nothing is read or written; the scalar control core fails. -/
def LoadAndStoreRefusedHolds : Prop :=
  ∀ (s : State) (c : CoreId) (rd ra : Fin 32) (h : Fin 64),
    let k := coreOf s c
    let e := handleOf k h
    let off := (sreg k ra).toNat
    let fails := fun (i : Instr) (x : Code) =>
      ∃ a u, OnlyCore c s u ∧ exec i s = .next (failUnit u c 0xA 0 k.scc.pc { code := x, addr := a })
    let ld := fun (x : Code) => TakesEffect s c 0 (.ld c rd h ra []) → ∀ ups, fails (.ld c rd h ra ups) x
    let st := fun (x : Code) => TakesEffect s c 0 (.st c rd h ra []) → ∀ ups, fails (.st c rd h ra ups) x
    (off % 8 ≠ 0 → ld .format ∧ st .format) ∧
    (off % 8 = 0 → (e.valid = false ∨ e.space = 0) → ld .format ∧ st .format) ∧
    (off % 8 = 0 → e.valid = true → e.space ≠ 0 → (e.rd = false → ld .window) ∧ (e.wr = false → st .window)) ∧
    (off % 8 = 0 → e.valid = true → e.space ≠ 0 → e.len < off + 8 → (e.rd = true → ld .length) ∧ (e.wr = true → st .length))

/-- Tier 2. LD and ST (R209) of the own core, in every space (R139, R140), when no upset or poison is met: LD writes the 8 bytes at BASE ×
16 + s[RA] to the scalar; ST stores s[RS] there, lowest byte first, and every byte of memory outside those 8 reads as before. In spaces
0x1, 0x2 and 0x4 the address is that of the handle's own space; a scalar that an LD writes is there 4 core cycles later, and 5 through
space 0x3 (R217, R241). An uncorrectable error of the word read fails the LD with ECC, and names it (R136). The failures of R209, in its
order: a displacement that is no multiple of 8, a handle that is not VALID or names space 0x0, a handle without the right, an access
beyond the handle's length. Nothing is read or written; the scalar control core fails. -/
def Obligations.LoadAndStore : Prop := LoadAndStoreHolds ∧ LoadAndStoreRefusedHolds

/-! ### The engine-issue slots (06) -/

/-- The constructor of the ISSUE command of an engine. -/
def issueCommand (e : Eng) (c : CoreId) (sg : Fin 8) : Instr :=
  match e with
  | .me => .issueMe c sg | .spu => .issueSpu c sg | .asu => .issueAsu c sg | .nau => .issueNau c sg
  | .qtz => .issueQtz c sg | .kse => .issueKse c sg | .rtu => .issueRtu c sg | .smp => .issueSmp c sg

/-- Tier 2. ISSUE.ME, SPU, ASU, NAU, QTZ, KSE, RTU and SMP (R41, R42, R204, R211): the descriptor, whose words are s[4 SG] to
s[4 SG + 3], joins the end of the engine's queue; no memory, no scalar and no other engine changes. The bundle waits (cause 3) until the
queue of 4 has room for every ISSUE to that engine that the bundle holds. That a descriptor which runs holds none of the 4 places is the
model's choice (log entry 85). -/
def Obligations.IssueQueuesDescriptor : Prop :=
  ∀ (s : State) (c : CoreId) (sg : Fin 8) (e : Eng),
    let i := issueCommand e c sg
    let k := coreOf (begun s c (slot12 s c i)) c
    let d : Desc := { w0 := sreg k (4 * sg.val), w1 := sreg k (4 * sg.val + 1), w2 := sreg k (4 * sg.val + 2)
                      w3 := sreg k (4 * sg.val + 3), pc := k.scc.pc, seq := k.seq }
    waitsFor s c i = (if (engOf (coreOf s c) e).queue.length + issuesTo s c e ≤ 4 then none else some (.queue, 3, e.num)) ∧
    (TakesEffect s c (slot12 s c i) i → Next (exec i s) fun t =>
      OnlyCore c s t ∧ (coreOf t c).scc = k.scc ∧ (coreOf t c).handles = k.handles ∧ (coreOf t c).windows = k.windows ∧
      engOf (coreOf t c) e = { queue := (engOf k e).queue ++ [d], run := (engOf k e).run } ∧
      ∀ f, f ≠ e → engOf (coreOf t c) f = engOf k f)

/-- SETH, OPENW and CLOSEW (R144, R147, R150, R154): when the checks hold, the entry is installed, opened or closed, and no
other handle or window, no scalar and no memory changes; a check that fails fails the scalar control core with its code. SETH waits for
the operations that name the handle (cause 2), CLOSEW for the accesses that the window has accepted (cause 7). -/
def HandlesAndWindowsHolds : Prop :=
  ∀ (s : State) (c : CoreId) (h : Fin 64) (w sp : Fin 16),
    let seth : Instr := .setH c h sp
    let openw : Instr := .openW c w sp
    let closew : Instr := .closeW c w
    let now := fun (i : Instr) => TakesEffect s c (slot12 s c i) i
    let core := fun (i : Instr) => coreOf (begun s c (slot12 s c i)) c
    let k := coreOf s c
    let e : Handle := { w0 := sreg k (2 * sp.val), w1 := sreg k (2 * sp.val + 1) }
    let x : Window := { opened := true, w0 := sreg k (2 * sp.val), w1 := sreg k (2 * sp.val + 1) }
    let fails := fun (i : Instr) (code : Code) =>
      exec i s = .next (failInstr (begun s c (slot12 s c i)) c 0xA { code := code })
    waitsFor s c seth = (if handleIdle s c h = true then none else some (.score, 2, h.val)) ∧
    (now seth →
      (checkHandle s c h e = none → Next (exec seth s) fun t =>
        OnlyCore c s t ∧ coreOf t c = { core seth with handles := (coreOf t c).handles } ∧
        ∀ i, handleOf (coreOf t c) i = if i = h.val then e else handleOf k i) ∧
      (∀ code, checkHandle s c h e = some code → fails seth code)) ∧
    (now openw →
      (checkWindow s c w x = none → Next (exec openw s) fun t =>
        OnlyCore c s t ∧ coreOf t c = { core openw with windows := (coreOf t c).windows } ∧
        ∀ i, windowOf (coreOf t c) i = if i = w.val then x else windowOf k i) ∧
      (∀ code, checkWindow s c w x = some code → fails openw code)) ∧
    (waitsFor s c closew = some (.score, 7, w.val) ↔ (windowOf k w).opened = true ∧ (w.val = 15 → (csmOf s c).1 = 0) ∧
      ∃ i ∈ s.race.incoming, i.core = c.val ∧ i.win = w.val) ∧
    (now closew →
      ((windowOf k w).opened = true → (w.val = 15 → (csmOf s c).1 = 0) → Next (exec closew s) fun t =>
        OnlyCore c s t ∧ coreOf t c = { core closew with windows := (coreOf t c).windows } ∧
        ∀ i, windowOf (coreOf t c) i = if i = w.val then { windowOf k w with opened := false } else windowOf k i) ∧
      (((windowOf k w).opened = false ∨ (w.val = 15 ∧ (csmOf s c).1 ≠ 0)) → fails closew .state))

/-- R144 for a handle that breaks each of its checks, and nothing else: a reserved space fails FORMAT, an end beyond the space
LENGTH, a write handle over the weight partition WINDOW, a handle that an open window names STATE. (Window 15 over a slice of chip shared
memory, whose entry is 0, names none: R141.) -/
def HandleChecksInOrderHolds : Prop :=
  ∀ (s : State) (c h : Nat) (e : Handle), e.valid = true →
    (4 < e.space → checkHandle s c h e = some .format) ∧
    (bits e.w0 7 1 = 0 → bits e.w0 34 30 = 0 → bits e.w1 27 37 = 0 → e.space ≤ 2 →
      (spaceSize e.space < e.base + e.len → checkHandle s c h e = some .length) ∧
      (e.base + e.len ≤ spaceSize e.space → bits e.w1 0 27 ≠ 0x7FFFFFF →
        (e.wr = true → e.space = 0 → e.len ≠ 0 → e.base < (coreOf s c).boundary * 65536 → checkHandle s c h e = some .window) ∧
        (e.wr = false → ((∀ p ∈ (coreOf s c).windows, p.2.opened = true → p.2.len ≠ 0 → p.2.handle ≠ h) → checkHandle s c h e = none) ∧
          (∀ p ∈ (coreOf s c).windows, p.2.opened = true → p.2.len ≠ 0 → p.2.handle = h → checkHandle s c h e = some .state))))

/-- Tier 2. SETH, OPENW and CLOSEW (R144, R147, R150, R154): when the checks hold, the entry is installed, opened or closed, and no other
handle or window, no scalar and no memory changes; a check that fails fails the scalar control core with its code. SETH waits for the
operations that name the handle (cause 2), CLOSEW for the accesses that the window has accepted (cause 7). R144 for a handle that breaks
each of its checks, and nothing else: a reserved space fails FORMAT, an end beyond the space LENGTH, a write handle over the weight
partition WINDOW, a handle that an open window names STATE. (Window 15 over a slice of chip shared memory, whose entry is 0, names none:
R141.) -/
def Obligations.HandlesAndWindows : Prop := HandlesAndWindowsHolds ∧ HandleChecksInOrderHolds

/-! ### The move/sync slot (06) -/

/-- WAIT.EV and WAIT.CNT (R213-R215): when they take effect the events or the count are taken as CLR or SUB says, and nothing
else changes; a register count at or above the field's all-ones value fails with LENGTH. What they wait for is a stall of their bundle,
and any stalled bundle, whatever its slots hold, stalls for one core cycle with the first cause of R243, while nothing else changes. -/
def WaitsHolds : Prop :=
  ∀ (s : State) (c : CoreId) (mask : BitVec 16) (cnt : Fin 16) (n : BitVec 16) (r : Fin 32),
    let k := coreOf (begun s c 3) c
    let e := k.scc.evs
    let count := (Tbl.get 0 k.scc.cnts cnt).toNat
    let now := TakesEffect s c 3
    let counted := fun (sub : Bool) (v : Nat) (t : State) =>
      OnlyCore c s t ∧ coreOf t c = { k with scc := { k.scc with cnts := (coreOf t c).scc.cnts } } ∧
      ∀ i, (Tbl.get 0 (coreOf t c).scc.cnts i).toNat = if i = cnt.val ∧ sub = true then count - v else (Tbl.get 0 k.scc.cnts i).toNat
    (∀ any clr : Bool, waitsFor s c (.waitEv c mask any clr) = none ↔ if any then e &&& mask ≠ 0 else e &&& mask = mask) ∧
    (∀ sub : Bool, waitsFor s c (.waitCnt c cnt false n sub) = if n.toNat ≤ count then none else some (.count, 0xB, cnt.val)) ∧
    (mask ≠ 0 → ∀ any clr : Bool, now (.waitEv c mask any clr) → Next (exec (.waitEv c mask any clr) s) fun t =>
      OnlyCore c s t ∧ coreOf t c = { k with scc := { k.scc with evs := if clr then e &&& ~~~mask else e } }) ∧
    (n ≠ 0xFFFF → ∀ sub : Bool, n.toNat ≤ count → now (.waitCnt c cnt false n sub) →
      Next (exec (.waitCnt c cnt false n sub) s) (counted sub n.toNat)) ∧
    (∀ sub : Bool, now (.waitCnt c cnt true (BitVec.ofNat 16 r) sub) →
      ((sreg k r).toNat < 0xFFFF → (sreg k r).toNat ≤ count →
        Next (exec (.waitCnt c cnt true (BitVec.ofNat 16 r) sub) s) (counted sub (sreg k r).toNat)) ∧
      (0xFFFF ≤ (sreg k r).toNat → exec (.waitCnt c cnt true (BitVec.ofNat 16 r) sub) s =
        .next (failInstr (begun s c 3) c 0xA { code := .length }))) ∧
    (∀ (j : Fin 4) (w : Nat) (i : Instr) (x : Stall), decodeSlot c j w = some i → i.wellFormed = true → i ≠ .nop c j ∨ j = 0 →
      mayIssue s c = true → k.scc.pc < k.len → inTurn s c j i = true → (coreOf s c).scc.done = [] → bundleStall s c = some x →
      x.1 ≠ .token → Next (exec i s) (Stalled c x.1 x.2.1 x.2.2 s))

/-- R213: the immediate counts at their all-ones values, a count register field above 31, and a WAIT.EV with MASK = 0 are
rejected at load, and so is a BFI whose field passes bit 63 (R207): the model stops on them by name. -/
def RejectedEncodingsHolds : Prop :=
  ∀ (s : State) (c : CoreId) (w : Fin 16) (any clr : Bool) (rd ra : Fin 32) (lo wm1 : Fin 64),
    exec (.waitEv c 0 any clr) s = .fault .illFormed ∧
    exec (.waitCnt c w false 0xFFFF clr) s = .fault .illFormed ∧
    exec (.recv c w w false 0xFFFF clr) s = .fault .illFormed ∧
    exec (.tokenAcq c false 0x3FF) s = .fault .illFormed ∧ exec (.tokenRel c false 0x3FF) s = .fault .illFormed ∧
    exec (.waitCnt c w true 32 clr) s = .fault .illFormed ∧ exec (.recv c w w true 32 clr) s = .fault .illFormed ∧
    exec (.tokenAcq c true 32) s = .fault .illFormed ∧ exec (.tokenRel c true 32) s = .fault .illFormed ∧
    (63 < lo.val + wm1.val → exec (.bfi c rd ra lo wm1) s = .fault .illFormed)

/-- Tier 2. A command stops with a fault only where its encoding is one that the Hopper rejects at load (R213, R233); every other command,
whatever the state, answers a next state. R213: the immediate counts at their all-ones values, a count register field above 31, and a
WAIT.EV with MASK = 0 are rejected at load, and so is a BFI whose field passes bit 63 (R207): the model stops on them by name. -/
def Obligations.OnlyRejectedEncodingsStop : Prop := OnlyRejectedEncodingsStopHolds ∧ RejectedEncodingsHolds

/-- The words of a SEND of one access, from the scalars of its group (R219). -/
def sendWord (k : Core) (sg : Fin 8) (i : Nat) : Word := sreg k (4 * sg.val + i)

/-- A SEND that makes no access (R167, R219, R221): one of 0 bytes completes at once with its event and counter; one whose fields
fail a check fails the RIF with that code, and sends nothing; with 8 SENDs in the RIF the bundle waits (cause 4). -/
def SendAtIssueHolds : Prop :=
  ∀ (s : State) (c : CoreId) (sg : Fin 8),
    let k := coreOf (begun s c 3) c
    let w := fun i => sendWord k sg i
    (∀ list, waitsFor s c (.send c sg list []) = if k.sends.length < 8 then none else some (.sendq, 4, 0)) ∧
    (TakesEffect s c 3 (.send c sg false []) → bits (w 2) 10 54 = 0 →
      (k.sends = [] → k.ops = [] → k.arms = [] → sendLen (w 1) = 0 → checkSend s c (w 0) (w 1) (w 3) = none →
        Next (exec (.send c sg false []) s) fun t =>
          t = { s with cores := t.cores, ids := s.ids + 1 } ∧ (∀ j, j ≠ c.val → coreOf t j = coreOf s j) ∧
          coreOf t c = { signalDone k (bit (w 2) 4) (bits (w 2) 0 4) (bit (w 2) 5) (bits (w 2) 6 4) with seq := k.seq + 1 }) ∧
      (∀ f ups, checkSend s c (w 0) (w 1) (w 3) = some f → exec (.send c sg false ups) s = .next (failInstr (begun s c 3) c 9 f)))

/-- The packets of one access from core `c` (R170, R175, R176): they carry the bytes `bs` in order, 512 in every one but the last; each names
its place at the destination, and all go the way that the route entry of the source gives. -/
def PacketsOf (s : State) (c : CoreId) (kind : Kind) (w0 w1 : Word) (bs : List Byte) (ps : List Packet) : Prop :=
  let d := sendDest w0
  let rt := routeOf s (c.val / 256) (fld d 42 6) (sendPlane w1)
  (ps.map (·.payload)).flatten = bs ∧ ps.length = max 1 ((bs.length + 511) / 512) ∧
  ∀ i p, ps[i]? = some p → p.src = .core c ∧ p.dst = .core (fld d 34 14) ∧ p.kind = kind ∧ p.plane = sendPlane w1 ∧ p.dest = d + 512 * i ∧
    p.win = bits w0 52 4 ∧ p.epoch = bits w0 56 8 ∧ p.mode = rt.mode ∧ p.waypoint = rt.waypoint ∧
    p.path = routeNodes s c (fld d 34 14) rt ∧ p.first = decide (i = 0) ∧ p.last = decide (i + 1 = ps.length) ∧
    (i + 1 < ps.length → p.payload.length = 512) ∧ p.length = if i = 0 then sendLen w1 else p.payload.length

/-- A SEND of N > 0 bytes that passes its checks and may start (R166, R176, R179, R180, R219, R221): WRITE and ACCUM put the bytes of
their source on the plane that they name, and READ a request on plane K that carries no byte; the access is outstanding at the core with its
destination, its length and, for READ, the local destination; the SEND waits in the RIF for its one RESPONSE, and no event, counter, scalar
or byte of memory changes. -/
def SendAccessesHolds : Prop :=
  ∀ (s : State) (c : CoreId) (sg : Fin 8),
    let k := coreOf (begun s c 3) c
    let w := fun i => sendWord k sg i
    let kind : Kind := if sendKind (w 1) = 0 then .write else if sendKind (w 1) = 1 then .accum else .readReq
    let bs := if kind = .readReq then [] else readBytes s (placeOf s c (lo32 (w 1))).addr (sendLen (w 1))
    TakesEffect s c 3 (.send c sg false []) → bits (w 2) 10 54 = 0 → sendLen (w 1) ≠ 0 → checkSend s c (w 0) (w 1) (w 3) = none →
    heldAtSource s c (w 0) (w 1) = false → accumBad s c (w 1) = none → s.poison = [] → k.sends = [] → k.ops = [] → k.arms = [] →
    Next (exec (.send c sg false []) s) fun t =>
      t.mem = s.mem ∧ (∀ j, j ≠ c.val → coreOf t j = coreOf s j) ∧ (coreOf t c).scc = k.scc ∧
      (∃ ps, t.race.packets = s.race.packets ++ ps ∧ PacketsOf s c kind (w 0) (w 1) bs ps) ∧
      (∃ a x, t.race.accesses = s.race.accesses ++ [a] ∧ a.src = .core c ∧ a.kind = kind ∧ a.plane = sendPlane (w 1) ∧
        a.dest = sendDest (w 0) ∧ a.len = sendLen (w 1) ∧ a.loc = (placeOf s c (lo32 (w 3))).addr ∧ a.got = 0 ∧
        (coreOf t c).sends = [x] ∧ x.id = a.send ∧ x.started = true ∧ x.left = 1)

/-- The record of a send list that lies at `a`, by its place (R220): its words. -/
def recordWord (s : State) (a i j : Nat) : Word := BitVec.ofNat 64 (readNum s (a + 16 + 32 * i + 8 * j) 8)

/-- A SEND with LIST = 1 (R176, R220, R221): a word that must be 0 fails with FORMAT. A list whose header and records the handle holds
sends the accesses of its records in list order, but for those of 0 bytes, and completes at once when none is left; a COUNT above 65,534
fails with LENGTH, and a record that is no WRITE or ACCUM, or whose W2 is not 0, with FORMAT, before any packet leaves. -/
def SendListsHolds : Prop :=
  ∀ (s : State) (c : CoreId) (sg : Fin 8),
    let k := coreOf (begun s c 3) c
    let w := fun i => sendWord k sg i
    let a := (placeOf s c (lo32 (w 0))).addr
    let n := readNum s a 4
    let r := fun i j => recordWord s a i j
    let whole := fun m => checkOperand s c (plainOp (lo32 (w 0)) [1, 2, 4] (some 9) true false m) = none
    let plain := hi32 (w 0) = 0 ∧ w 1 = 0 ∧ w 3 = 0 ∧ orfOk (lo32 (w 0)) = true
    let live := (List.range n).filter fun i => decide (sendLen (r i 1) ≠ 0)
    let fails := fun code => ∃ u, u.race = s.race ∧ u.mem = s.mem ∧
      exec (.send c sg true []) s = .next (failUnit u c 9 0 k.scc.pc { code := code, addr := some a })
    TakesEffect s c 3 (.send c sg true []) → bits (w 2) 10 54 = 0 →
      (¬ plain → exec (.send c sg true []) s = .next (failInstr (begun s c 3) c 9 { code := .format })) ∧
      (plain → k.sends = [] → k.ops = [] → k.arms = [] → whole 16 →
        (65534 < n → fails .length) ∧
        (n ≤ 65534 → whole (16 + 32 * n) →
          ((∃ i < n, r i 2 ≠ 0 ∨ 2 ≤ sendKind (r i 1)) → fails .format) ∧
          (s.poison = [] → (∀ i < n, r i 2 = 0 ∧ sendKind (r i 1) ≤ 1 ∧ checkSend s c (r i 0) (r i 1) (r i 3) = none ∧
              accumBad s c (r i 1) = none ∧ heldAtSource s c (r i 0) (r i 1) = false) →
            Next (exec (.send c sg true []) s) fun t =>
              t.mem = s.mem ∧ (∀ j, j ≠ c.val → coreOf t j = coreOf s j) ∧
              (∃ as, t.race.accesses = s.race.accesses ++ as ∧
                as.map (fun x => (x.kind, x.plane, x.dest, x.len)) = live.map fun i =>
                  (if sendKind (r i 1) = 0 then Kind.write else Kind.accum, sendPlane (r i 1), sendDest (r i 0), sendLen (r i 1))) ∧
              (live = [] → (coreOf t c).sends = [] ∧
                (coreOf t c).scc = (signalDone k (bit (w 2) 4) (bits (w 2) 0 4) (bit (w 2) 5) (bits (w 2) 6 4)).scc) ∧
              (live ≠ [] → (coreOf t c).scc = k.scc ∧ (coreOf t c).sends.map (fun x => (x.started, x.left)) = [(true, live.length)]))))

/-- The value of a count of 16 bits: an immediate, or the scalar that it names (R213). -/
def CountIs (k : Core) (regv : Bool) (n : BitVec 16) (v : Nat) : Prop :=
  if regv then n.toNat < 32 ∧ (sreg k n.toNat).toNat = v else n.toNat = v

/-- RECV (R213, R222, R223), with an immediate count or a scalar: a count of 0 completes at once with the event; a scalar of 0xFFFF or
more fails with LENGTH. A RECV on a window that is not open, or that is armed at all times, fails with STATE. On an idle open window, with no
earlier operation of the core outstanding, it arms the window for the count. -/
def ReceiveHolds : Prop :=
  ∀ (s : State) (c : CoreId) (w ev : Fin 16) (regv : Bool) (n : BitVec 16) (v : Nat) (evEn : Bool),
    let k := coreOf (begun s c 3) c
    let i : Instr := .recv c w ev regv n evEn
    TakesEffect s c 3 i → CountIs k regv n v →
      (regv = true → 0xFFFF ≤ v → exec i s = .next (failInstr (begun s c 3) c 9 { code := .length })) ∧
      (v < 0xFFFF →
        (v = 0 → Next (exec i s) fun t => OnlyCore c s t ∧ coreOf t c = signalDone k evEn ev false 0) ∧
        (v ≠ 0 → ((windowOf k w).opened = false ∨ alwaysArmed s c w = true) →
          exec i s = .next (failInstr (begun s c 3) c 9 { code := .state })) ∧
        (v ≠ 0 → (windowOf k w).opened = true → alwaysArmed s c w = false → k.ops = [] → k.sends = [] → k.arms = [] →
          Next (exec i s) fun t => OnlyCore c s t ∧ (coreOf t c).scc = k.scc ∧ (armOf (coreOf t c) w).left = v ∧
            (armOf (coreOf t c) w).waiting = [] ∧
            (armOf (coreOf t c) w).cur = some { n := v, ev := ev, evEn := evEn, seq := k.seq }))

/-- Tier 2. A SEND that makes no access (R167, R219, R221): one of 0 bytes completes at once with its event and counter; one whose fields
fail a check fails the RIF with that code, and sends nothing; with 8 SENDs in the RIF the bundle waits (cause 4). A SEND of N > 0 bytes
that passes its checks and may start (R166, R176, R179, R180, R219, R221): WRITE and ACCUM put the bytes of their source on the plane
that they name, and READ a request on plane K that carries no byte; the access is outstanding at the core with its destination, its
length and, for READ, the local destination; the SEND waits in the RIF for its one RESPONSE, and no event, counter, scalar or byte of
memory changes. A SEND with LIST = 1 (R176, R220, R221): a word that must be 0 fails with FORMAT. A list whose header and records the
handle holds sends the accesses of its records in list order, but for those of 0 bytes, and completes at once when none is left; a COUNT
above 65,534 fails with LENGTH, and a record that is no WRITE or ACCUM, or whose W2 is not 0, with FORMAT, before any packet leaves.
RECV (R213, R222, R223), with an immediate count or a scalar: a count of 0 completes at once with the event; a scalar of 0xFFFF or more
fails with LENGTH. A RECV on a window that is not open, or that is armed at all times, fails with STATE. On an idle open window, with no
earlier operation of the core outstanding, it arms the window for the count. -/
def Obligations.SendAndRecv : Prop := SendAtIssueHolds ∧ SendAccessesHolds ∧ SendListsHolds ∧ ReceiveHolds

/-- FLM.RD, FLM.WR and FLM.WAIT (R224-R227): a transfer of 0 bytes makes its tag DONE at once, with its event; one of N bytes
makes it BUSY with the transfer, and its bundle waits for a free token (cause 8); a failing check fails the RIF with its code and the
Snowpack address. FLM.WAIT waits for a BUSY tag (cause 0xC), makes a DONE one IDLE and fails with STATE on an IDLE one. Memory stays, and
no scalar changes. -/
def FlumeInstructionsHolds : Prop :=
  ∀ (s : State) (c : CoreId) (q : Fin 8) (tag : Fin 16) (sg : Fin 8) (write : Bool),
    let k := coreOf (begun s c 3) c
    let w := fun i => sendWord k sg i
    let i : Instr := if write then .flmWr c q tag sg else .flmRd c q tag sg
    let wait : Instr := .flmWait c q tag
    let len := bits (w 1) 32 24
    let code := checkFlume s c write q tag (w 0) (w 1) (w 2) (w 3)
    let tagged := fun (x : Tag) (scc : Scc) (t : State) => OnlyCore c s t ∧ (coreOf t c).scc = scc ∧
      ∀ q' : Fin 8, ∀ tag' : Fin 16, tagAt (coreOf t c) q' tag' = if q' = q ∧ tag' = tag then x else tagAt k q' tag'
    (waitsFor s c i = if code = none ∧ len ≠ 0 ∧ freeTokens s c = 0 then some (.token, 8, 0) else none) ∧
    (TakesEffect s c 3 i →
      (code = none → len = 0 → Next (exec i s) (tagged .done (signalDone k (bit (w 2) 28) (bits (w 2) 24 4) false 0).scc)) ∧
      (code = none → len ≠ 0 → Next (exec i s) (tagged (.busy
        { write := write, sn := bits (w 0) 0 40, loc := (placeOf s c (lo32 (w 1))).addr, len := len, tmo := bits (w 2) 0 24
          issued := s.glb.time, ev := bits (w 2) 24 4, evEn := bit (w 2) 28, seq := k.seq, pc := k.scc.pc }) k.scc)) ∧
      (∀ x, code = some x → exec i s =
        .next (failInstr (begun s c 3) c 9 { code := x, addr := some (snowAddr (bits (w 0) 0 40)) }))) ∧
    (waitsFor s c wait = if (tagAt k q tag).isBusy = true then some (.flume, 0xC, 16 * q.val + tag.val) else none) ∧
    (TakesEffect s c 3 wait →
      (tagAt k q tag = .done → Next (exec wait s) (tagged .idle k.scc)) ∧
      (tagAt k q tag = .idle → exec wait s = .next (failInstr (begun s c 3) c 9 { code := .state })))

/-- TOKEN.ACQ and TOKEN.REL (R213, R230): the float grants all or nothing, in the order of the requests; the tokens of a TOKEN.ACQ
whose bundle has issued on another core count as granted (R203). A bundle that asks in
vain stalls with cause 8, and its request waits. A release returns tokens to the float, and fails with STATE when the core has not that
many that no running operation needs. -/
def PowerTokensHolds : Prop :=
  ∀ (s : State) (c : CoreId) (n : BitVec 10), n ≠ 0x3FF → n ≠ 0 →
    let acq : Instr := .tokenAcq c false n
    let rel : Instr := .tokenRel c false n
    let k := coreOf (begun s c 3) c
    let g := c.val / 256
    let r := regionOf s g
    let only := fun (t : State) => t = { s with cores := t.cores, regions := t.regions } ∧
      (∀ j, j ≠ c.val → coreOf t j = coreOf s j) ∧ (∀ j, j ≠ g → regionOf t j = regionOf s j)
    (waitsFor s c acq = none ↔ (r.tok.waiting = [] ∨ ∃ x rest, r.tok.waiting = x :: rest ∧ x.1 = c.val) ∧ r.pwr.ilimHold = false ∧
      floatUsed s c + n.toNat ≤ effFloat s g) ∧
    (TakesEffect s c 3 acq → waitsFor s c acq = none →
      Next (exec acq s) fun t => only t ∧ coreOf t c = { k with acquired := k.acquired + n.toNat } ∧
        regionOf t g = { r with tok := { r.tok with granted := r.tok.granted + n.toNat
                                                    waiting := r.tok.waiting.filter fun w => w.1 ≠ c.val } }) ∧
    (mayIssue s c = true → k.scc.pc < k.len → inTurn s c 3 acq = true → (coreOf s c).scc.done = [] →
      bundleStall s c = some (.token, 8, 0) → (∀ w ∈ r.tok.waiting, w.1 ≠ c.val) → Next (exec acq s) fun t =>
        only t ∧ (coreOf t c).acquired = k.acquired ∧ (coreOf t c).stall = 8 ∧
        (regionOf t g).tok.waiting = r.tok.waiting ++ [(c.val, n.toNat)] ∧ (regionOf t g).tok.granted = r.tok.granted) ∧
    (TakesEffect s c 3 rel →
      (n.toNat ≤ releasable s c → Next (exec rel s) fun t =>
        only t ∧ coreOf t c = { k with acquired := k.acquired - n.toNat } ∧
          regionOf t g = { r with tok := { r.tok with granted := r.tok.granted - n.toNat } }) ∧
      (releasable s c < n.toNat → exec rel s = .next (failInstr (begun s c 3) c 0xA { code := .state })))

/-- Tier 2. WAIT.EV and WAIT.CNT (R213-R215): when they take effect the events or the count are taken as CLR or SUB says, and nothing else
changes; a register count at or above the field's all-ones value fails with LENGTH. What they wait for is a stall of their bundle, and
any stalled bundle, whatever its slots hold, stalls for one core cycle with the first cause of R243, while nothing else changes.
TOKEN.ACQ and TOKEN.REL (R213, R230): the float grants all or nothing, in the order of the requests; the tokens of a TOKEN.ACQ whose
bundle has issued on another core count as granted (R203). A bundle that asks in vain stalls with cause 8, and its request waits. A
release returns tokens to the float, and fails with STATE when the core has not that many that no running operation needs. -/
def Obligations.WaitsAndTokens : Prop := WaitsHolds ∧ PowerTokensHolds

/-! ### Descriptors (02, 03) -/

/-- A descriptor command: its engine and OP, the command, its check of what it reads before data move, and its work. -/
structure EngineCommand where
  eng : Eng
  op : Nat
  make : CoreId → List Upset → Instr
  structs : Nat → State → Desc → Option Fail
  run : Nat → State → Desc → State × Option Fail

/-- An operation of the normalisation unit whose elements do not depend on each other, by its OP: its exact value (R62, R63). -/
def elementwise : List (Nat × (CoreId → List Upset → Instr) × (Fl → Fl → Ex)) :=
  [(2, .siluMul, siluMulEx), (3, .gelu, fun a _ => geluEx a), (4, .add, addEx), (5, .mul, mulEx), (6, .exp, fun a _ => expEx a),
   (7, .recip, fun a _ => divEx (.fin false (2 ^ 149)) a), (8, .rsqrt, fun a _ => rsqrtEx a)]

/-- The descriptor commands of the table. -/
def engineCommands : List EngineCommand :=
  [⟨.me, 0, .matmul, fun _ => noStructs, runMatmul⟩, ⟨.me, 1, .wide, fun _ => noStructs, runWide⟩,
   ⟨.me, 2, .drain, fun _ => noStructs, runDrain⟩, ⟨.spu, 0, .spillW, fun _ => noStructs, runSpillW⟩,
   ⟨.spu, 1, .spillA, fun _ => noStructs, runSpillA⟩, ⟨.asu, 0, .score, scoreStructs, fun c => runScore c []⟩,
   ⟨.asu, 1, .select, selectStructs, runSelect⟩,
   ⟨.nau, 0, .rmsnorm, fun _ => noStructs, fun c s d => runRows c (normAux 1 d) (rmsEx (decode32 (hi32 d.w2))) s d⟩,
   ⟨.nau, 1, .layernorm, fun _ => noStructs, fun c s d => runRows c (normAux 2 d) (layerEx (decode32 (hi32 d.w2))) s d⟩]
  ++ elementwise.map (fun x => ⟨.nau, x.1, x.2.1, fun _ => noStructs, fun c => runElems c x.2.2⟩) ++
  [⟨.nau, 9, .softmaxFin, fun _ => noStructs,
    fun c => runRows c (fun s pc i => [plainAt s true pc (2 * i), plainAt s true pc (2 * i + 1)]) softmaxEx⟩,
   ⟨.nau, 10, .adamw, adamStructs, runAdamw⟩, ⟨.qtz, 0, .quant, fun _ => noStructs, runQuant⟩,
   ⟨.kse, 0, .append, appendStructs, fun c => runAppend c []⟩, ⟨.kse, 1, .ksePark, moveStructs, fun c => runPark c []⟩,
   ⟨.kse, 2, .kseRestore, moveStructs, fun c => runRestore c []⟩, ⟨.rtu, 0, .gate, fun _ => noStructs, runGate⟩,
   ⟨.rtu, 1, .dispatch, fun _ => noStructs, runDispatch⟩, ⟨.smp, 0, .localReduce, fun _ => noStructs, runLocal⟩,
   ⟨.smp, 1, .merge, fun _ => noStructs, runMerge⟩, ⟨.smp, 2, .verify, verifyStructs, runVerify⟩]

/-- Core `c` may start descriptors (R75, R451), engine `e` runs none, and `d` is at the head of its queue before `rest`. -/
def HeadOf (s : State) (c : Nat) (e : Eng) (d : Desc) (rest : List Desc) : Prop :=
  (coreOf s c).scc.working = true ∧ held s c = false ∧ engOf (coreOf s c) e = { queue := d :: rest, run := none }

/-- The encoding of `d` passes step 1 of R577. -/
def EncodingOk (s : State) (c : Nat) (e : Eng) (d : Desc) : Prop :=
  (planOf s c e d).encoding = true ∧ bits d.w0 0 4 = e.num ∧ bits d.w0 20 12 = 0

/-- No earlier operation, no open window and no earlier transfer of its Flume queue stands in the way of `d` (R216, R155, R66). -/
def Unhindered (s : State) (c : Nat) (e : Eng) (d : Desc) : Prop :=
  let p := planOf s c e d
  mayStart s c d.seq p.reads p.writes (match (coreOf s c).ops.find? fun o => o.seq == d.seq with | some o => o.acc | none => []) = true ∧
  windowBlocks s c ((p.operands.filter (·.wr)).map (fun x => operandRange s c x) ++ p.more) = false ∧
  ∀ q, p.flq = some q → queueBehind (coreOf s c) q d.seq = false

/-- The tokens that `d` costs are there (R78, R445). -/
def TokensThere (s : State) (c : Nat) (e : Eng) (d : Desc) : Prop :=
  (planOf s c e d).tokens ≤ freeTokens s c ∧ (regionOf s (c / 256)).pwr.ilimHold = false

/-- Every count of `d` is in range, and none is 0 (R577 steps 2 and 3). -/
def CountsOk (s : State) (c : Nat) (e : Eng) (d : Desc) : Prop := ∀ n ∈ (planOf s c e d).counts, countBad n = false ∧ n.1 ≠ 0

/-- Every check of R577 that needs no data is passed, nothing stands in the way, the tokens are there, and no burst is poisoned. -/
def MayBegin (s : State) (c : Nat) (e : Eng) (d : Desc) : Prop :=
  EncodingOk s c e d ∧ CountsOk s c e d ∧ Unhindered s c e d ∧ TokensThere s c e d ∧ s.poison = []

/-- Descriptor `d` has failed with `f`: LASTERR of the core names it (R80), and the core's step fails (R47). -/
def Failed (s : State) (c : Nat) (e : Eng) (d : Desc) (f : Fail) (o : Outcome) : Prop := o = .next (failDesc s c e d f)

/-- Engine `e` of core `c` runs `d` with its tokens and the messages that its work has sent, the rest of its queue behind; nothing else of
the core differs. -/
def Started (u : State) (c : Nat) (e : Eng) (d : Desc) (rest : List Desc) (tokens : Nat) (msgs : Nat × Nat) (t : State) : Prop :=
  OnlyCore c u t ∧ coreOf t c = { coreOf u c with engs := (coreOf t c).engs } ∧
  engOf (coreOf t c) e = { queue := rest, run := some { desc := d, tokens := tokens, msgs := msgs } } ∧
  ∀ f, f ≠ e → engOf (coreOf t c) f = engOf (coreOf u c) f

/-- Tier 2. What R577 and R78 say of the start of a descriptor, for every operation of every engine. A sound descriptor with a count of 0
completes at once without touching memory and with its event and counter (R45). Any other waits for earlier operations and windows, which
changes nothing, and then for its tokens, which counts a cycle of waiting; an ILIM hold (R448) keeps it back and counts none. Once it may start, in order: an encoding that breaks the rules
fails with FORMAT, a count at its all-ones value or above its maximum with LENGTH, and an operand that fails its checks fails the
descriptor with their code. A PARK whose messages the credits of an aperture's queue do not cover waits (R66, R391). That a descriptor with a
count of 0 waits for nothing, and that a malformed one is checked only once it may start, is the model's choice (log entry 85). -/
def Obligations.DescriptorStartChecks : Prop :=
  (∀ x ∈ engineCommands, ∀ (s : State) (c : CoreId) (d : Desc) (rest : List Desc) (ups : List Upset),
    HeadOf s c x.eng d rest → descOp d = x.op → (x.op = 1 → x.eng = .kse → parkHeld s c = false) →
    let p := planOf s c x.eng d
    let o := exec (x.make c ups) s
    let noop := EncodingOk s c x.eng d ∧ (∀ n ∈ p.counts, countBad n = false) ∧ ∃ n ∈ p.counts, n.1 = 0
    (noop → Next o fun t =>
      OnlyCore c s t ∧ (coreOf t c).scc = (signalHeader (coreOf s c) d.w0).scc ∧
      engOf (coreOf t c) x.eng = { queue := rest, run := none } ∧ (coreOf t c).ops = (coreOf s c).ops.filter fun y => y.seq ≠ d.seq) ∧
    (¬ noop → ¬ Unhindered s c x.eng d → o = .next s) ∧
    (¬ noop → Unhindered s c x.eng d → freeTokens s c < p.tokens → Next o fun t =>
      OnlyCore c s t ∧ coreOf t c = { coreOf s c with cnt := (slackUp (coreOf s c) .headtok 1).cnt }) ∧
    (¬ noop → Unhindered s c x.eng d → p.tokens ≤ freeTokens s c → (regionOf s (c.val / 256)).pwr.ilimHold = true → o = .next s) ∧
    (Unhindered s c x.eng d → TokensThere s c x.eng d →
      (¬ EncodingOk s c x.eng d → Failed s c x.eng d { code := .format } o) ∧
      (EncodingOk s c x.eng d → (∃ n ∈ p.counts, countBad n = true) → Failed s c x.eng d { code := .length } o) ∧
      (EncodingOk s c x.eng d → CountsOk s c x.eng d → ∀ f, checkOperands s c p.operands = some f → Failed s c x.eng d f o))) ∧
  (∀ (s : State) (c : CoreId) (ups : List Upset), parkHeld s c = true → exec (.ksePark c ups) s = .next s)

/-- The start of every operation of every engine when every check of R577 passes and no upset is met: either its work finds a
failure in the data it reads and the descriptor fails with it, or the work is done, memory being what the work makes it, and the
engine runs the descriptor until it completes (R47). An error that the reads of its operands meet fails it before any data move (R129). -/
def DescriptorRunsHolds : Prop :=
  ∀ x ∈ engineCommands, ∀ (s : State) (c : CoreId) (d : Desc) (rest : List Desc),
    HeadOf s c x.eng d rest → descOp d = x.op → (x.op = 1 → x.eng = .kse → parkHeld s c = false) →
    MayBegin s c x.eng d → checkOperands s c (planOf s c x.eng d).operands = none →
    let p := planOf s c x.eng d
    (∀ f, x.structs c s d = some f → Failed s c x.eng d f (exec (x.make c []) s)) ∧
    (x.structs c s d = none →
      (∀ ups u f, meetReads s ((p.operands.filter (·.rd)).flatMap (operandReads s c) ++ p.lists) ups = (u, some f) →
        Failed u c x.eng d f (exec (x.make c ups) s)) ∧
      (∀ u f, x.run c s d = (u, some f) → Failed u c x.eng d f (exec (x.make c []) s)) ∧
      (∀ u, x.run c s d = (u, none) → Next (exec (x.make c []) s) (Started u c x.eng d rest p.tokens (s.ids, u.ids))))

/-- The operations of the normalisation unit that work element by element (R62, R63): with A, B and D apart, element i of D
is the exact value of elements i of A and B, rounded once to D's format (and moved by the free distance in fast mode), and every byte of
memory outside D reads as before. They meet no failure in their data, so that they always run. -/
def ElementwiseResultsHolds : Prop :=
  ∀ x ∈ elementwise, ∀ (s : State) (c : CoreId) (d : Desc) (rest : List Desc),
    HeadOf s c .nau d rest → descOp d = x.1 → MayBegin s c .nau d → checkOperands s c (planOf s c .nau d).operands = none →
    let n := nauRows d * nauCols d
    let pa := (placeOf s c (lo32 d.w1)).addr
    let pb := (placeOf s c (hi32 d.w1)).addr
    let pd := (placeOf s c (lo32 d.w2)).addr
    let wi := plainBytes (nauIn32 d)
    let wo := plainBytes (nauOut32 d)
    (pd + n * wo ≤ pa ∨ pa + n * wi ≤ pd) → (nauUsesB x.1 = true → pd + n * wo ≤ pb ∨ pb + n * wi ≤ pd) →
    Next (exec (x.2.1 c []) s) fun t =>
      engOf (coreOf t c) .nau = { queue := rest, run := some { desc := d, tokens := (planOf s c .nau d).tokens, msgs := (s.ids, s.ids) } } ∧
      (∀ i < n,
        let a := plainAt s (nauIn32 d) pa i
        let b := if nauUsesB x.1 then plainAt s (nauIn32 d) pb i else 0
        plainAt t (nauOut32 d) pd i = nauRound (nauExact s c d) (precOf (nauOut32 d)) x.1 (nauParams d ++ [a, b])
          ((decodePlain (nauIn32 d) a).finite && (decodePlain (nauIn32 d) b).finite)
          (x.2.2 (decodePlain (nauIn32 d) a) (decodePlain (nauIn32 d) b))) ∧
      ∀ y, (y < pd ∨ pd + n * wo ≤ y) → readByte t y = readByte s y

/-- RMSNORM, LAYERNORM and SOFTMAX_FIN (R62) meet no failure in their data: once their checks pass they run, and every byte of
memory outside D reads as before. -/
def RowOperationsRunHolds : Prop :=
  ∀ x ∈ [(0, Instr.rmsnorm), (1, Instr.layernorm), (9, Instr.softmaxFin)], ∀ (s : State) (c : CoreId) (d : Desc) (rest : List Desc),
    HeadOf s c .nau d rest → descOp d = x.1 → MayBegin s c .nau d → checkOperands s c (planOf s c .nau d).operands = none →
    let n := nauRows d * nauCols d * plainBytes (nauOut32 d)
    let pd := (placeOf s c (lo32 d.w2)).addr
    Next (exec (x.2 c []) s) fun t =>
      engOf (coreOf t c) .nau = { queue := rest, run := some { desc := d, tokens := (planOf s c .nau d).tokens, msgs := (s.ids, s.ids) } } ∧
      ∀ y, (y < pd ∨ pd + n ≤ y) → readByte t y = readByte s y

/-- Tier 2. The operations of the normalisation unit that work element by element (R62, R63): with A, B and D apart, element i of D is the
exact value of elements i of A and B, rounded once to D's format (and moved by the free distance in fast mode), and every byte of memory
outside D reads as before. They meet no failure in their data, so that they always run. RMSNORM, LAYERNORM and SOFTMAX_FIN (R62) meet no
failure in their data: once their checks pass they run, and every byte of memory outside D reads as before. -/
def Obligations.EngineResults : Prop := ElementwiseResultsHolds ∧ RowOperationsRunHolds

/-- Two byte ranges share no byte. -/
def Apart (a b : Nat × Nat) : Prop := a.1 + a.2 ≤ b.1 ∨ b.1 + b.2 ≤ a.1

/-- The result of MATMUL (R55, R57, R84, R97-R99, R105, R108). `x m k` is the element k of row m of A times its block scale, or the
INT8 value of a replay row times its scale, and `y n k` that of row n of B, in units of 2^-10. Word (m, n) of L holds, in units of 2^-20,
what it held (0 after INIT) plus the exact sum of x m k × y n k over every k, with its residue. With OUTMODE 1, 2 or 3 the word times both tensor
scales is rounded once into D. Every other byte of memory reads as before. The premises: L and D lie apart from what is read, the words of
L are sound and in the block unit, and no sum leaves the 112 bits. -/
def MatmulResultHolds : Prop :=
  ∀ (s : State) (c : CoreId) (d : Desc) (rest : List Desc) (x y : Nat → Nat → Int),
    HeadOf s c .me d rest → descOp d = 0 → MayBegin s c .me d → checkOperands s c (planOf s c .me d).operands = none →
    let a := tensAt s (meA s c d) (meM d) (meKblk d)
    let b := tensAt s (meB s c d) (meN d) (meKblk d)
    let pl := (placeOf s c (lo32 d.w3)).addr
    let pd := (placeOf s c (lo32 d.w2)).addr
    let size := if meOut d = 0 then 0 else if meOut d = 1 then 2 else 4
    let words := meM d * meN d
    let reads := (a.addr, tensorBytes (meM d) (meKblk d) (readBytes s a.addr 16)) ::
      (b.addr, tensorBytes (meN d) (meKblk d) (readBytes s b.addr 16)) :: a.replayRanges s
    let word := fun (u : State) (i : Nat) => laccOf (readNum u (pl + 16 * i) 16)
    let upto := fun (m n k : Nat) => (if meInit d then 0 else (word s (m * meN d + n)).sum) +
      ((List.range k).map fun j => x m j * y n j).sum
    (∀ r ∈ reads, Apart r (pl, 16 * words) ∧ Apart r (pd, size * words)) → Apart (pl, 16 * words) (pd, size * words) →
    (∀ m < meM d, ∀ k < 32 * meKblk d, spillA10 s a m k = .ok (x m k)) →
    (∀ n < meN d, ∀ k < 32 * meKblk d, b.value10 s n k = some (y n k)) →
    (meInit d = false → ∀ i < words, laccRead (word s i) = none ∧ ((word s i).touched = true → (word s i).unit = false)) →
    (∀ m < meM d, ∀ n < meN d, ∀ j ≤ meKblk d, -(2 ^ 111) ≤ upto m n (32 * j) ∧ upto m n (32 * j) < 2 ^ 111) →
    Next (exec (.matmul c []) s) fun t =>
      engOf (coreOf t c) .me = { queue := rest, run := some { desc := d, tokens := (planOf s c .me d).tokens, msgs := (s.ids, s.ids) } } ∧
      (∀ m < meM d, ∀ n < meN d,
        let v := upto m n (32 * meKblk d)
        word t (m * meN d + n) = { sum := v, res := mod7 v, ovf := false, unit := false, touched := true } ∧
        (meOut d ≠ 0 → readNum t (pd + size * (m * meN d + n)) size =
          encodeFl (if meOut d = 1 then 8 else 24) (decide (v < 0)) (v.natAbs * tsMag a.ts * tsMag b.ts) (2 ^ 318) false)) ∧
      ∀ z, (z < pl ∨ pl + 16 * words ≤ z) → (z < pd ∨ pd + size * words ≤ z) → readByte t z = readByte s z

/-- DESCRIPTOR_COMPLETE (R47): the running descriptor of the engine is done: the engine is free, the event is set and the
counter raised as the header asks, its operation leaves the scoreboard, and no memory changes; one that comes late is counted (R242). With
no SEND and no RECV waiting on the core nothing else differs. A PARK whose messages have not all been sent does not complete (R66). -/
def DescriptorCompletesHolds : Prop :=
  ∀ (s : State) (c : CoreId) (e : Eng) (late : Bool) (r : Running), (engOf (coreOf s c) e).run = some r →
    (messagesSent s r.msgs.1 r.msgs.2 = false → exec (.descriptorComplete c e late) s = .next s) ∧
    (messagesSent s r.msgs.1 r.msgs.2 = true → (coreOf s c).sends = [] → (coreOf s c).arms = [] →
      Next (exec (.descriptorComplete c e late) s) fun t =>
        OnlyCore c s t ∧ engOf (coreOf t c) e = { queue := (engOf (coreOf s c) e).queue, run := none } ∧
        (coreOf t c).scc = (signalHeader (coreOf s c) r.desc.w0).scc ∧
        (coreOf t c).cnt = (if late then (slackUp (coreOf s c) .late 1).cnt else (coreOf s c).cnt) ∧
        (coreOf t c).ops = (coreOf s c).ops.filter fun y => y.seq ≠ r.desc.seq)

/-- Tier 2. The start of every operation of every engine when every check of R577 passes and no upset is met: either its work finds a
failure in the data it reads and the descriptor fails with it, or the work is done, memory being what the work makes it, and the engine
runs the descriptor until it completes (R47). An error that the reads of its operands meet fails it before any data move (R129). The
result of MATMUL (R55, R57, R84, R97-R99, R105, R108). `x m k` is the element k of row m of A times its block scale, or the INT8 value
of a replay row times its scale, and `y n k` that of row n of B, in units of 2^-10. Word (m, n) of L holds, in units of 2^-20, what it
held (0 after INIT) plus the exact sum of x m k × y n k over every k, with its residue. With OUTMODE 1, 2 or 3 the word times both
tensor scales is rounded once into D. Every other byte of memory reads as before. The premises: L and D lie apart from what is read, the
words of L are sound and in the block unit, and no sum leaves the 112 bits. DESCRIPTOR_COMPLETE (R47): the running descriptor of the
engine is done: the engine is free, the event is set and the counter raised as the header asks, its operation leaves the scoreboard, and
no memory changes; one that comes late is counted (R242). With no SEND and no RECV waiting on the core nothing else differs. A PARK
whose messages have not all been sent does not complete (R66). -/
def Obligations.DescriptorsRunAndComplete : Prop := DescriptorRunsHolds ∧ MatmulResultHolds ∧ DescriptorCompletesHolds

/-- The words of partial-sum memory (R99): a sum of 112 bits that is written with its residue is read back whole, with no
failure, unless it had overflowed. -/
def PartialSumWordHolds : Prop :=
  ∀ a : Lacc, a.res < 7 → -(2 ^ 111) ≤ a.sum → a.sum < 2 ^ 111 → a.res = mod7 a.sum →
    laccOf (laccBits a) = a ∧ (a.ovf = false → laccRead a = none) ∧ (a.ovf = true → laccRead a = some .overflow)

/-- R88, R89: a finite FP32 or BF16 encoding, read exactly and rounded to its own format, is itself, so that a result that the
format holds is never moved by rounding. -/
def RoundingKeepsRepresentableHolds : Prop :=
  (∀ n < 2 ^ 32, (decode32 n).finite = true → roundEx 24 (decode32 n).ex = n) ∧
  (∀ n < 2 ^ 16, (decode16 n).finite = true → roundEx 8 (decode16 n).ex = n)

/-- Tier 2. The words of partial-sum memory (R99): a sum of 112 bits that is written with its residue is read back whole, with no failure,
unless it had overflowed. R88, R89: a finite FP32 or BF16 encoding, read exactly and rounded to its own format, is itself, so that a
result that the format holds is never moved by rounding. -/
def Obligations.ExactNumbers : Prop := PartialSumWordHolds ∧ RoundingKeepsRepresentableHolds

/-! ### Race (05) -/

/-- Two places of the fabric with a link between them: routers that differ by one in one coordinate (R169). -/
def Adjacent (a b : Node) : Prop :=
  match a, b with
  | .router x y, .router u v => (x = u ∧ (y + 1 = v ∨ v + 1 = y)) ∨ (y = v ∧ (x + 1 = u ∨ u + 1 = x))
  | _, _ => False

/-- Tier 2. XY routing (R169, R170): the path of mode XY begins at the source's router, ends at the destination's, goes over one link at
a time, first along the row and then along the column, and is no longer than it must be. Where no region is SHORT and the Moraine map names
no dead vertical link (R22) a packet takes exactly that path. -/
def Obligations.XYPath : Prop :=
  ∀ a b : CoreId, ∃ p : List Node, pathOf a b 1 0 = p ∧
    (∀ s : State, (∀ r, (regionOf s r).org.shape ≠ .short) → (∀ e ∈ s.moraine, e.kind ≠ 4) → routeNodes s a b { mode := 1 } = p) ∧
    p.head? = some (.router (coreX a) (coreY a)) ∧ p.getLast? = some (.router (coreX b) (coreY b)) ∧ p.IsChain Adjacent ∧
    (p.length : Int) = ((coreX a : Int) - coreX b).natAbs + ((coreY a : Int) - coreY b).natAbs + 1 ∧
    ∀ n ∈ p, ∃ x y, n = .router x y ∧ (y = coreY a ∨ x = coreX b)

/-- The packets of `s` but for those of identifier `id`. -/
def others (s : State) (id : Nat) : List Packet := s.race.packets.filter fun q => q.id ≠ id

/-- A RESPONSE for access `acc` with code `x` has joined the packets. -/
def Answered (t : State) (acc : Nat) (x : Code) : Prop := ∃ q ∈ t.race.packets, q.acc = acc ∧ q.kind = .response ∧ q.status = x

/-- The packets of `s` when the head flit of those of identifier `id` waits: each keeps the moment at which its wait expires, or takes the moment
TIMEOUT of its router's region from now (R189, R190). -/
def Waiting (s : State) (id : Nat) : List Packet := s.race.packets.map fun q =>
  if q.id = id then { q with waiting := some (q.waiting.getD (s.glb.time + raceTimeout s (packetNode q).region)) } else q

/-- The record at the present place of the global ring. -/
def newRec (s t : State) : Rec := Tbl.get {} t.flt.ring s.flt.next

/-- Tier 2. PACKET_FORWARD (R183, R188, R193) of a packet that no earlier one of its order stands before: with a credit toward a powered
router it leaves the router at its head and its flits are counted; without a credit it waits there, for TIMEOUT from now on unless it waits
already, and while it waits the router's region counts its 2 fabric cycles of every nanosecond (R189, R196); toward a region whose VDDN is
off it is discarded with a LINK record of the router with no syndrome (R486), and its source is answered LOST unless it is a RESPONSE. That
the record names the router before the unpowered region is the model's reading (DEDUCED, log entry 22). Cores and memory stay. A packet that
an earlier one stands before stays where it is (R185). -/
def Obligations.PacketForward : Prop :=
  ∀ (s : State) (p : Packet) (n : Node) (rest : List Node), packetOf s p.id = some p → p.path = n :: rest →
    (overtakes s p = true → ∀ credit, exec (.packetForward p.id credit) s = .next s) ∧
    (overtakes s p = false →
      ((∀ m, rest.head? = some m → vddnOn s m.region = true) → Next (exec (.packetForward p.id true) s) fun t =>
        t = { s with race := t.race, regions := t.regions } ∧ t.race.accesses = s.race.accesses ∧ t.race.incoming = s.race.incoming ∧
        t.race.packets = s.race.packets.map (fun q => if q.id = p.id then { q with path := rest, waiting := none } else q) ∧
        (Tbl.get {} (regionOf t n.region).race.cnt p.plane.num).flits =
          bumpBy (Tbl.get {} (regionOf s n.region).race.cnt p.plane.num).flits (flitsOf p.plane p.payload.length)) ∧
      Next (exec (.packetForward p.id false) s) (fun t =>
        t = { s with race := t.race } ∧ t.race.accesses = s.race.accesses ∧ t.race.incoming = s.race.incoming ∧
        t.race.packets = Waiting s p.id) ∧
      (s.race.packets = [p] → p.waiting.isSome = true → s.cores ≠ [] → regionOf s n.region ≠ {} → s.sluice.ptp.slew = 0 →
        s.sluice.ptp.part = 0 → (Tbl.get {} (regionOf (pass s 1) n.region).race.cnt p.plane.num).cstall =
          bumpBy (Tbl.get {} (regionOf s n.region).race.cnt p.plane.num).cstall 2) ∧
      (∀ m, rest.head? = some m → vddnOn s m.region = false → Next (exec (.packetForward p.id true) s) fun t =>
        t.mem = s.mem ∧ t.cores = s.cores ∧ (newRec s t).code = .lost ∧ (newRec s t).cls = .link ∧ (newRec s t).origin = .router ∧
        (newRec s t).region = some n.region ∧ (newRec s t).addr = p.dest ∧ (newRec s t).syndrome = 0 ∧
        ∀ c, p.kind ≠ .response → p.src = .core c → (routeOf s (nodeCore n / 256) (c / 256) .c).mode ≠ 0 → Answered t p.acc .lost))

/-- Tier 2. The checks of R151 at a window (checks 3 to 9), in order: each breach has its code, and an access that breaks none is
accepted. `off` is the offset of the first byte. -/
def Obligations.WindowChecks : Prop :=
  ∀ (s : State) (c w src : Nat) (kind : Kind) (epoch dest len : Nat), (kind = .write ∨ kind = .accum ∨ kind = .readReq) →
    let k := coreOf s c
    let x := windowOf k w
    let r := windowRange k x
    let off := fld dest 0 30
    let code := windowCode s c w src kind epoch dest len
    (x.opened = false → code = some .window) ∧
    (x.opened = true → kind = .readReq → x.dir < 2 → code = some .window) ∧
    (x.opened = true → kind ≠ .readReq → x.dir % 2 = 0 → code = some .window) ∧
    (x.opened = true → (∀ l, leafOf s src = some l → beneath s x.src l = false) → code = some .window) ∧
    (x.opened = true → epoch ≠ x.epoch → code = some .window) ∧
    (x.opened = true → (fld dest 30 4 ≠ r.1 ∨ off < r.2.1 ∨ r.2.1 + r.2.2 ≤ off) → code = some .window) ∧
    (∀ l, x.opened = true → leafOf s src = some l → beneath s x.src l = true → epoch = x.epoch → fld dest 30 4 = r.1 →
      r.2.1 ≤ off → off < r.2.1 + r.2.2 → (if kind = .readReq then x.dir / 2 = 1 else x.dir % 2 = 1) →
      (r.2.1 + r.2.2 < off + len → code = some .length) ∧
      (off + len ≤ r.2.1 + r.2.2 →
        (kind = .readReq → code = none) ∧
        (kind = .write → (x.accum = true → code = some .format) ∧ (x.accum = false → code = none)) ∧
        (kind = .accum → (x.accum = false → code = some .format) ∧
          (x.accum = true → (off % 16 = 0 ∧ len % 16 = 0 → code = none) ∧ (off % 16 ≠ 0 ∨ len % 16 ≠ 0 → code = some .format)))))

/-- The FIRST packet of an access stands before core `c`, from core `src`. -/
def AtDoor (s : State) (p : Packet) (src c : Nat) : Prop :=
  packetOf s p.id = some p ∧ p.src = .core src ∧ p.dst = .core c ∧ p.path = [] ∧ overtakes s p = false ∧ p.first = true ∧
  (p.kind = .write ∨ p.kind = .accum ∨ p.kind = .readReq)

/-- ACCESS_HEADER (R26, R151, R158, R164, R177, R197): at a core that the present shape does not have it is answered WINDOW and nothing
is written or counted there; a header with a reserved or inconsistent field is refused with FORMAT; toward
cores of different realms, or of none, the verdict is WINDOW; an access that
the checks refuse writes nothing, is counted, and its source is answered with the code; one that must wait is left without a credit; an
accepted write of one packet through an always armed window writes its bytes and no other, and its source is answered OK. -/
def AccessHeaderHolds : Prop :=
  ∀ (s : State) (p : Packet) (src c : Nat), AtDoor s p src c →
    (coreExists s c = false → verdict s p src c = .refuse .window) ∧
    (coreExists s c = true → p.sound = false → verdict s p src c = .refuse .format) ∧
    (coreExists s c = true → p.sound = true →
      ((regionOf s (src / 256)).org.realm = none ∨ (regionOf s (src / 256)).org.realm ≠ (regionOf s (c / 256)).org.realm) →
      verdict s p src c = .refuse .window) ∧
    (∀ x, verdict s p src c = .refuse x → (routeOf s (c / 256) (src / 256) .c).mode ≠ 0 →
      ∀ ups, Next (exec (.accessHeader p.id ups) s) fun t =>
        t.mem = s.mem ∧ t.cores = s.cores ∧ t.race.incoming = s.race.incoming ∧ t.race.accesses = s.race.accesses ∧
        Answered t p.acc x ∧ (coreExists s c = false → t = { s with race := t.race, ids := t.ids }) ∧ (coreExists s c = true → (Tbl.get {} (regionOf t (c / 256)).race.cnt p.plane.num).refused =
          bump (Tbl.get {} (regionOf s (c / 256)).race.cnt p.plane.num).refused)) ∧
    (verdict s p src c = .wait → ∀ ups, Next (exec (.accessHeader p.id ups) s) fun t => t = { s with race := t.race } ∧
      t.race.packets = Waiting s p.id) ∧
    (verdict s p src c = .accept → p.kind = .write → p.length = p.payload.length → 0 < p.length → alwaysArmed s c p.win = true →
      s.poison = [] → (coreOf s c).arms = [] → (coreOf s c).sends = [] → incomingOf s p.acc = none →
      (routeOf s (c / 256) (src / 256) .c).mode ≠ 0 →
      Next (exec (.accessHeader p.id []) s) fun t =>
        (∀ i < p.payload.length, readByte t (p.dest + i) = p.payload.getD i 0) ∧
        (∀ y, (y < p.dest ∨ p.dest + p.payload.length ≤ y) → readByte t y = readByte s y) ∧
        Answered t p.acc .ok ∧ t.race.incoming = s.race.incoming)

/-- ACCESS_PACKET (R177, R581): a later packet of an access that is not accepted any more is discarded and writes nothing; one of
a write in progress that meets no damage and is not the last writes its bytes after those already written, and no others. -/
def AccessPacketHolds : Prop :=
  ∀ (s : State) (p : Packet), packetOf s p.id = some p → arrived s p = true → p.first = false → (p.kind = .write ∨ p.kind = .accum) →
    (incomingOf s p.acc = none → ∀ ups, Next (exec (.accessPacket p.id ups) s) fun t =>
      t = { s with race := t.race } ∧ t.race.packets = others s p.id) ∧
    (∀ i, incomingOf s p.acc = some i → i.kind = .write → s.poison = [] → i.got + p.payload.length < i.len →
      Next (exec (.accessPacket p.id []) s) fun t =>
        t.cores = s.cores ∧ t.race.packets = others s p.id ∧
        incomingOf t p.acc = some { i with got := i.got + p.payload.length, due := s.glb.time + raceTimeout s (i.core / 256) } ∧
        (∀ k < p.payload.length, readByte t (i.dest + i.got + k) = p.payload.getD k 0) ∧
        ∀ y, (y < i.dest + i.got ∨ i.dest + i.got + p.payload.length ≤ y) → readByte t y = readByte s y)

/-- Tier 2. ACCESS_HEADER (R26, R151, R158, R164, R177, R197): at a core that the present shape does not have it is answered WINDOW and
nothing is written or counted there; a header with a reserved or inconsistent field is refused with FORMAT; toward cores of different
realms, or of none, the verdict is WINDOW; an access that the checks refuse writes nothing, is counted, and its source is answered with
the code; one that must wait is left without a credit; an accepted write of one packet through an always armed window writes its bytes
and no other, and its source is answered OK. ACCESS_PACKET (R177, R581): a later packet of an access that is not accepted any more is
discarded and writes nothing; one of a write in progress that meets no damage and is not the last writes its bytes after those already
written, and no others. -/
def Obligations.AccessesAtTheirDestination : Prop := AccessHeaderHolds ∧ AccessPacketHolds

/-- READ_DATA packet `p` fits access `a` (R179): it names the access's core, its send slot and a range inside the one recorded. -/
def FitsRead (p : Packet) (a : Access) : Prop :=
  a.src = p.dst ∧ a.kind = .readReq ∧ p.win = 15 ∧ p.epoch = a.slot ∧ a.loc ≤ p.dest ∧ p.dest + p.payload.length ≤ a.loc + a.len

/-- Tier 2. READ_DATA and RESPONSE at the source of an access (R179-R181): read data are written where the READ recorded them; data that
name no transfer, or bytes outside its range, are discarded with a FORMAT record; data and answers of an access that is not waited for any
more change nothing but the fabric; an OK that comes before the last byte of a read is held; an OK of the last access completes its SEND
with its event and counter; an answer with another code fails the SEND with it, naming the access's address. -/
def Obligations.AnswersAtTheSource : Prop :=
  ∀ (s : State) (p : Packet) (c : CoreId), packetOf s p.id = some p → arrived s p = true → p.dst = .core c →
    (p.kind = .readData →
      (accessOf s p.acc = none → p.acc < s.ids →
        Next (exec (.readData p.id []) s) fun t => t = { s with race := t.race } ∧ t.race.packets = others s p.id) ∧
      (((accessOf s p.acc = none ∧ s.ids ≤ p.acc) ∨ ∃ a, accessOf s p.acc = some a ∧ ¬ FitsRead p a) →
        Next (exec (.readData p.id []) s) fun t => t.mem = s.mem ∧ t.cores = s.cores ∧ t.race.packets = others s p.id ∧
          t.race.accesses = s.race.accesses ∧ (newRec s t).code = .format ∧ (newRec s t).cls = .refusal ∧ (newRec s t).addr = p.dest) ∧
      (∀ a, accessOf s p.acc = some a → FitsRead p a → a.respOk = false → s.poison = [] → Next (exec (.readData p.id []) s) fun t =>
        t.cores = s.cores ∧ t.race.packets = others s p.id ∧
        accessOf t p.acc = some { a with got := a.got + p.payload.length } ∧
        (∀ k < p.payload.length, readByte t (p.dest + k) = p.payload.getD k 0) ∧
        ∀ y, (y < p.dest ∨ p.dest + p.payload.length ≤ y) → readByte t y = readByte s y)) ∧
    (p.kind = .response →
      ((accessOf s p.acc = none ∨ ∃ a, accessOf s p.acc = some a ∧ a.src ≠ p.dst) →
        Next (exec (.response p.id) s) fun t => t = { s with race := t.race } ∧ t.race.packets = others s p.id ∧
          t.race.accesses = s.race.accesses) ∧
      (∀ a, accessOf s p.acc = some a → a.src = p.dst → p.status = .ok → a.kind = .readReq → a.got < a.len →
        Next (exec (.response p.id) s) fun t => t = { s with race := t.race } ∧ accessOf t p.acc = some { a with respOk := true }) ∧
      (∀ a x, accessOf s p.acc = some a → a.src = p.dst → p.status = .ok → a.kind ≠ .readReq → (coreOf s c).arms = [] →
        (coreOf s c).sends = [x] → x.id = a.send → x.started = true →
        Next (exec (.response p.id) s) fun t => t = { s with race := t.race, cores := t.cores } ∧ accessOf t p.acc = none ∧
          (∀ j, j ≠ c.val → coreOf t j = coreOf s j) ∧
          coreOf t c = (if x.left ≤ 1 then dropOp (signalDone { coreOf s c with sends := [] } x.evEn x.ev x.cntEn x.cnt) x.seq
            else { coreOf s c with sends := [{ x with left := x.left - 1 }] })) ∧
      (∀ a x, accessOf s p.acc = some a → a.src = p.dst → p.status ≠ .ok →
        (coreOf s c).sends.find? (fun y => y.id == a.send) = some x →
        ∃ u, u = { s with race := u.race } ∧ accessOf u p.acc = none ∧
          exec (.response p.id) s = .next (failUnit u c 9 0 x.pc { code := p.status, addr := some a.dest })))

/-- The three waits of R190 when they expire, TIMEOUT (R189) as it stood when they began after that, 4 × TIMEOUT for a RESPONSE: a head flit that waits
for a credit is discarded with a REFUSAL record of code TIMEOUT and its source is answered; an accepted access whose next packet did not
come is forgotten, with a record; an access that has no RESPONSE fails its SEND with TIMEOUT. What came in the same cycle is taken, and
only counted (R191). Memory stays, and so does everything but the passing of time. -/
def RaceTimersHolds : Prop :=
  (∀ (s : State) (p : Packet), packetOf s p.id = some p → waitsForCredit s p = true →
    let n := packetNode p
    let u := advanceTo s (p.waiting.getD (s.glb.time + raceTimeout s n.region))
    (Next (exec (.creditWaitExpiry p.id true) s) fun t => t = { u with race := t.race, regions := t.regions } ∧
      (t.race.packets = s.race.packets.map fun q => if q.id = p.id then { q with waiting := none } else q) ∧
      (Tbl.get {} (regionOf t n.region).race.cnt p.plane.num).grace = bump (Tbl.get {} (regionOf s n.region).race.cnt p.plane.num).grace) ∧
    (Next (exec (.creditWaitExpiry p.id false) s) fun t => t.mem = s.mem ∧ t.cores = u.cores ∧
      (newRec s t).code = .timeout ∧ (newRec s t).cls = .refusal ∧ (newRec s t).addr = p.dest ∧
      ∀ c, p.src = .core c → p.kind ≠ .response → (routeOf s (nodeCore n / 256) (c / 256) .c).mode ≠ 0 → Answered t p.acc .timeout)) ∧
  (∀ (s : State) (acc : Nat) (i : Incoming), incomingOf s acc = some i →
    let u := advanceTo s i.due
    (Next (exec (.continuationWaitExpiry acc true) s) fun t => t = { u with regions := t.regions }) ∧
    Next (exec (.continuationWaitExpiry acc false) s) fun t => t.mem = s.mem ∧ t.cores = u.cores ∧ incomingOf t acc = none ∧
      (newRec s t).code = .timeout ∧ (newRec s t).cls = .refusal ∧ (newRec s t).addr = i.dest) ∧
  ∀ (s : State) (a : Access) (c : Nat), accessOf s a.id = some a → a.src = .core c →
    let u := advanceTo s a.due
    (Next (exec (.responseWaitExpiry a.id true) s) fun t => t = { u with regions := t.regions }) ∧
    ∀ x, (coreOf s c).sends.find? (fun y => y.id == a.send) = some x →
      exec (.responseWaitExpiry a.id false) s =
        .next (failUnit (dropAccess u a.id) c 9 0 x.pc { code := .timeout, addr := some a.dest })

/-- ROUTE_RELOAD (R187, R193) changes the entry once no access is outstanding on the old route, and for planes A and K once the
entries of C and T and the notices of R193 are through, and not before. LOST_NOTICE (R193), once the entries of planes C and T are
rewritten, fails with LOST the accesses of the notified region into the lost one, and no others. -/
def RoutesAndLostRegionsHolds : Prop :=
  (∀ (s : State) (src dst : RegionId) (plane : Plane) (r : Reload),
      s.race.reloads.find? (fun x => x.src == src.val && x.dst == dst.val && x.plane == plane) = some r →
    ((outstanding s src dst plane = true ∨ reloadBehind s plane = true) → exec (.routeReload src dst plane) s = .next s) ∧
    (outstanding s src dst plane = false → reloadBehind s plane = false → (∀ c, (coreOf s c).sends = [] ∧ (coreOf s c).arms = []) →
      Next (exec (.routeReload src dst plane) s) fun t => t.mem = s.mem ∧ t.race.accesses = s.race.accesses ∧ r ∉ t.race.reloads ∧
      (src ≠ dst → routeOf t src dst plane = { mode := r.mode, waypoint := r.waypoint }))) ∧
  ∀ (s : State) (n lost : RegionId),
    ((n.val, lost.val) ∉ s.race.notices → exec (.lostNotice n lost) s = .next s) ∧
    ((n.val, lost.val) ∈ s.race.notices → (regionOf s lost).org.shape = .lost →
      (∀ r ∈ s.race.reloads, r.plane = .a ∨ r.plane = .k) →
      ((∀ a ∈ s.race.accesses, fld a.dest 42 6 ≠ lost.val ∧ lost.val ∉ a.via) → Next (exec (.lostNotice n lost) s) fun t =>
        t = { s with race := t.race } ∧ t.race.accesses = s.race.accesses ∧ (n.val, lost.val) ∉ t.race.notices) ∧
      ∀ (a : Access) (c : Nat) (x : SendSt), s.race.accesses = [a] → a.src = .core c → c / 256 = n.val → fld a.dest 42 6 = lost.val →
        (coreOf s c).sends.find? (fun y => y.id == a.send) = some x →
        ∃ u, u = { s with race := u.race } ∧ u.race.accesses = [] ∧
          exec (.lostNotice n lost) s = .next (failUnit u c 9 0 x.pc { code := .lost, addr := some a.dest }))

/-- Tier 2. The three waits of R190 when they expire, TIMEOUT (R189) as it stood when they began after that, 4 × TIMEOUT for a RESPONSE: a
head flit that waits for a credit is discarded with a REFUSAL record of code TIMEOUT and its source is answered; an accepted access
whose next packet did not come is forgotten, with a record; an access that has no RESPONSE fails its SEND with TIMEOUT. What came in the
same cycle is taken, and only counted (R191). Memory stays, and so does everything but the passing of time. ROUTE_RELOAD (R187, R193)
changes the entry once no access is outstanding on the old route, and for planes A and K once the entries of C and T and the notices of
R193 are through, and not before. LOST_NOTICE (R193), once the entries of planes C and T are rewritten, fails with LOST the accesses of
the notified region into the lost one, and no others. -/
def Obligations.RaceTimersAndRoutes : Prop := RaceTimersHolds ∧ RoutesAndLostRegionsHolds

/-- SNOWPACK_ACCESS, FLUME_COMPLETE and FLUME_TIMEOUT (R226-R229, R404): a transfer that the controllers do not serve leaves its
failure with its Snowpack address; a read that they serve copies its bytes; one that a router discards fails with the router's code (R193); a served transfer that completes makes its tag DONE and sets
its event, but one whose answer was discarded does not complete; one that times out, TMO × 256 ns after its issue, fails the RIF with TIMEOUT, and one that completes in the same cycle is
taken. -/
def FlumeTransfersHolds : Prop :=
  ∀ (s : State) (c : CoreId) (q : Fin 8) (tag : Fin 16) (x : FlumeT), tagAt (coreOf s c) q tag = .busy x →
    let fails := fun (u : State) (code : Code) => failUnit u c 9 0 x.pc { code := code, addr := some (snowAddr x.sn) }
    let late := advanceTo s (x.issued + 256 * x.tmo)
    let free := x.served = false ∧ (coreOf s c).ops = [] ∧ queueBehind (coreOf s c) q x.seq = false
    let powered := ∀ r < 64, vddnOn s r = true
    (∀ ups code, free → powered → snowRoute s c x.sn x.len x.write = .refuse code →
      ∃ u, u = { s with snow := u.snow, regions := u.regions } ∧ exec (.snowpackAccess c q tag ups) s = .next (fails u code)) ∧
    (∀ ups u code, free → apertureFull s c x = false → flumeOut s c x.sn x.len x.write = (u, some code) →
      exec (.snowpackAccess c q tag ups) s = .next (fails u code)) ∧
    (free → powered → x.write = false → snowRoute s c x.sn x.len false = .stacks → s.poison = [] → s.snow.poison = [] →
      Next (exec (.snowpackAccess c q tag []) s) fun t =>
        (∀ i < x.len, readByte t (x.loc + i) = readByte s (snowAddr x.sn + i)) ∧
        (∀ y, (y < x.loc ∨ x.loc + x.len ≤ y) → readByte t y = readByte s y) ∧
        tagAt (coreOf t c) q tag = .busy { x with served := true, got := x.len, msg := none, gone := false }) ∧
    ((coreOf s c).sends = [] → (coreOf s c).arms = [] → x.served = true → x.gone = false → flumeSent s x = true →
      (Next (exec (.flumeComplete c q tag) s) fun t => OnlyCore c s t ∧ tagAt (coreOf t c) q tag = .done ∧
        (coreOf t c).scc = (signalDone (coreOf s c) x.evEn x.ev false 0).scc) ∧
      (x.msg = none → Next (exec (.flumeTimeout c q tag true) s) fun t => OnlyCore c late t ∧ tagAt (coreOf t c) q tag = .done)) ∧
    ((x.served = false ∨ x.gone = true ∨ flumeSent s x = false) → exec (.flumeComplete c q tag) s = .next s) ∧
    (x.write = false → x.msg = none → exec (.flumeTimeout c q tag false) s = .next (fails late .timeout))

/-- Tier 2. FLM.RD, FLM.WR and FLM.WAIT (R224-R227): a transfer of 0 bytes makes its tag DONE at once, with its event; one of N bytes makes
it BUSY with the transfer, and its bundle waits for a free token (cause 8); a failing check fails the RIF with its code and the Snowpack
address. FLM.WAIT waits for a BUSY tag (cause 0xC), makes a DONE one IDLE and fails with STATE on an IDLE one. Memory stays, and no
scalar changes. SNOWPACK_ACCESS, FLUME_COMPLETE and FLUME_TIMEOUT (R226-R229, R404): a transfer that the controllers do not serve leaves
its failure with its Snowpack address; a read that they serve copies its bytes; one that a router discards fails with the router's code
(R193); a served transfer that completes makes its tag DONE and sets its event, but one whose answer was discarded does not complete;
one that times out, TMO × 256 ns after its issue, fails the RIF with TIMEOUT, and one that completes in the same cycle is taken. -/
def Obligations.Flume : Prop := FlumeInstructionsHolds ∧ FlumeTransfersHolds

/-! ### Steps, recovery and fences (01, 06, 13) -/

/-- The next place of the global ring holds a record of which `p` holds (R487, R489). -/
def Logged (s t : State) (p : Rec → Prop) : Prop := p (Tbl.get {} t.flt.ring s.flt.next)

/-- A control write to mill `m` reaches an entry in use of a device that is up (R37). -/
def Reaches (s : State) (m : MillId) : Prop := isUp s = true ∧ hostReach s = true ∧ (millOf s m).st ≠ .unused

/-- Nothing of any mill, core, region or memory differs. -/
def NoEffect (s t : State) : Prop := t.mills = s.mills ∧ t.cores = s.cores ∧ t.mem = s.mem ∧ t.hop.slots = s.hop.slots ∧ t.pond = s.pond

/-- The step of owner `m` may be started by host software (R39, R200). -/
def Startable (s : State) (m : MillId) : Prop :=
  (millOf s m).cfg.owner = true ∧ serveOf s m = none ∧ (millOf s m).st = .idle ∧ unfitFor s m = false ∧ s.bst.shut = .none

/-- Tier 2. MIL_DOORBELL (R39, R200, R201, R490): for a step owner in IDLE, with ENTRY inside every core's program, the step is due 32 ns
later, with F at 0 and ENTRY and ARG kept. A doorbell to any other entry in use is discarded and logged with STATE, an ENTRY beyond a
program with LENGTH; a doorbell to an UNUSED entry has no effect. -/
def Obligations.Doorbell : Prop :=
  ∀ (s : State) (m : MillId) (w : Word),
    (Reaches s m →
      (Startable s m → (∀ c ∈ coresOf s m, bits w 0 12 < (coreOf s c).len) → Next (exec (.milDoorbell m w) s) fun t =>
        millOf t m = { millOf s m with st := .running, inStep := true, f := 0, entry := bits w 0 12, reset2 := false, ended := []
                                       arg := BitVec.ofNat 32 (bits w 32 32), startAt := some (s.glb.time + 32) } ∧
        (∀ k, k ≠ m.val → millOf t k = millOf s k) ∧ t.cores = s.cores ∧ t.mem = s.mem ∧ t.regions = s.regions) ∧
      (Startable s m → (∃ c ∈ coresOf s m, (coreOf s c).len ≤ bits w 0 12) → Next (exec (.milDoorbell m w) s) fun t =>
        NoEffect s t ∧ Logged s t fun r => r.code = .length ∧ r.cls = .host ∧ r.mill = some m.val) ∧
      (((millOf s m).cfg.owner = false ∨ (millOf s m).st ≠ .idle) → Next (exec (.milDoorbell m w) s) fun t =>
        NoEffect s t ∧ Logged s t fun r => r.code = .state ∧ r.cls = .host ∧ r.mill = some m.val)) ∧
    ((millOf s m).st = .unused → exec (.milDoorbell m w) s = .next s)

/-- STEP_START (R201): at the start time every core of the step owner begins at ENTRY with ARG in s0 and its other scalars kept,
with no event, count or return address, no queued work and no token acquired; the copy of R148 is taken; cores outside the step only
count the cycles that pass (R242), and no memory changes. -/
def StepStartHolds : Prop :=
  ∀ (s : State) (m : MillId) (at' : Nat), (millOf s m).startAt = some at' → (millOf s m).inStep = true → (millOf s m).st ≠ .halted →
    (millOf s m).dstate = .opened → Next (exec (.stepStart m) s) fun t =>
      (timeRuns s = true → t.glb.time = max s.glb.time at') ∧ t.mem = s.mem ∧
      (millOf t m).st = .running ∧ (millOf t m).startAt = none ∧ (∀ k, k ≠ m.val → millOf t k = millOf s k) ∧
      (∀ c ∈ coresOf s m,
        (coreOf t c).scc.pc = (millOf s m).entry ∧ (coreOf t c).scc.run = .running ∧ (coreOf t c).scc.cycles = 0 ∧
        (coreOf t c).scc.evs = 0 ∧ (coreOf t c).scc.cnts = [] ∧ (coreOf t c).scc.stack = [] ∧
        sreg (coreOf t c) 0 = (millOf s m).arg.zeroExtend 64 ∧ (∀ i, i ≠ 0 → sreg (coreOf t c) i = sreg (coreOf s c) i) ∧
        (coreOf t c).handles = (coreOf s c).handles ∧ (coreOf t c).windows = (coreOf s c).windows ∧
        (coreOf t c).copy.handles = (coreOf s c).handles ∧ (coreOf t c).copy.windows = (coreOf s c).windows ∧
        (coreOf t c).engs = [] ∧ (coreOf t c).sends = [] ∧ (coreOf t c).flume = [] ∧ (coreOf t c).acquired = 0) ∧
      ∀ c, c ∉ coresOf s m → coreOf t c = coreOf (advanceTo s at') c

/-- STEP_RETIRE (R231, R490): once every core has sent its report the step owner is IDLE, its step count rises by one, F is 0 and
its cores are outside a step, with what they now hold as the copy to which a fence of R498 takes them back; until then nothing happens. No
memory changes, and no other mill. -/
def StepRetireHolds : Prop :=
  ∀ (s : State) (m : MillId),
    ((millOf s m).inStep = true → (millOf s m).startAt = none → (millOf s m).st = .running → (millOf s m).dstate = .opened →
      (∀ c ∈ coresOf s m, c ∈ (millOf s m).ended) → Next (exec (.stepRetire m) s) fun t =>
        millOf t m = { millOf s m with st := .idle, steps := (millOf s m).steps + 1, f := 0, inStep := false, ended := []
                                       reset2 := false, startAt := none } ∧
        (∀ k, k ≠ m.val → millOf t k = millOf s k) ∧ t.mem = s.mem ∧ (∀ c ∈ coresOf s m, (coreOf t c).scc.run = .outside ∧
          (coreOf t c).copy.handles = (coreOf s c).handles ∧ (coreOf t c).copy.windows = (coreOf s c).windows) ∧
        ∀ c, c ∉ coresOf s m → coreOf t c = coreOf s c) ∧
    ((∃ c ∈ coresOf s m, c ∉ (millOf s m).ended) → exec (.stepRetire m) s = .next s)

/-- Tier 2. STEP_START (R201): at the start time every core of the step owner begins at ENTRY with ARG in s0 and its other scalars kept,
with no event, count or return address, no queued work and no token acquired; the copy of R148 is taken; cores outside the step only
count the cycles that pass (R242), and no memory changes. STEP_RETIRE (R231, R490): once every core has sent its report the step owner
is IDLE, its step count rises by one, F is 0 and its cores are outside a step, with what they now hold as the copy to which a fence of
R498 takes them back; until then nothing happens. No memory changes, and no other mill. -/
def Obligations.StepStartAndRetire : Prop := StepStartHolds ∧ StepRetireHolds

/-- WATCHDOG_EXPIRY (R501-R504) and what follows a failure (R490), TIMEOUT µs after the core's last bundle issue: an issue
recognised in the same cycle only counts in LATE. Else the step owner's watchdog register names the first laggard, which is that core where its timer stands highest, the cause and
detail of its stall and how many laggards the record names, F rises by one, memory stays where no request ends, and with RETRY of FLT_CTRL
the step is restarted by tier 1 or 2, or the step owner is FAILED with TIMEOUT, as the table of R490 says; the fault bit of TIMEOUT is
set. The STEP record of a failure that begins tier 1 carries TIER 1 (R483); that there is no TIER record beside it is the model's reading (log
entry 28). -/
def WatchdogAndEscalationHolds : Prop :=
  ∀ (s : State) (c : CoreId) (m : Nat), ownerOf s c = some m → (millOf s m).st = .running → (millOf s m).inStep = true →
    (millOf s m).dstate = .opened → (coreOf s c).scc.run = .running → (millOf s m).wdog.timeout ≠ 0 →
    (∀ g ∈ regionsOf s m, (regionOf s g).org.shape ≠ .lost) →
    let f := (millOf s m).f + 1
    let retry := s.flt.retry.toNat
    let stepRecord := fun (t : State) (tier : Nat) =>
      Logged s t fun r => r.code = .timeout ∧ r.cls = .step ∧ r.mill = some m ∧ r.tier = tier
    let u := advanceTo s ((coreOf s c).scc.since + 1000 * (millOf s m).wdog.timeout.toNat)
    (Next (exec (.watchdogExpiry c true) s) fun t =>
      millOf t m = { millOf s m with wdog := { (millOf s m).wdog with late := bumpW 8 (millOf s m).wdog.late } } ∧
      t = { u with mills := t.mills }) ∧
    Next (exec (.watchdogExpiry c false) s) fun t =>
      (millOf t m).f = f ∧ (millOf t m).wdog.nlag = (laggards u m).length ∧ some (millOf t m).wdog.lag0 = (laggards u m).head? ∧
      ((∀ k ∈ coresOf s m, k ≠ c.val → (coreOf s k).scc.run = .running → stalledBefore s c.val k = true) → (millOf t m).wdog.lag0 = c.val) ∧
      ((millOf t m).wdog.cause, (millOf t m).wdog.detail) = stallCause u (millOf t m).wdog.lag0 ∧ (millOf t m).faults.getLsbD 6 = true ∧
      (serveOf s m = none → t.mem = s.mem) ∧
      (f = retry + 1 → (millOf t m).st = .restart ∧ (millOf t m).tier = 2 ∧ stepRecord t 0) ∧
      ((f ≤ retry ∨ (retry + 1 < f ∧ f ≤ 2 * retry + 1)) → (millOf t m).st = .restart ∧ (millOf t m).tier = 1 ∧ stepRecord t 1) ∧
      (2 * retry + 2 ≤ f → (millOf t m).st = .failed ∧ (millOf t m).lastCode = .timeout ∧ (millOf t m).inStep = false)

/-- STEP_RESTART (R492) and MILL_RESET (R493, R499): once every access of the cores is answered, each core has the handles, the
windows and the scalars s1-s31 of its copy and is outside a step, and the step is due 32 ns later; memory keeps what the attempt wrote.
The tier 2 reset marks that it was made; one that host software asked for ends in IDLE; a word that cannot be corrected is zeroed and the
step owner is FAILED with ECC; a store copy of the image that does not hold its BODY_DIGEST fails it with AUTH (R272). A core that fails its
write-read test is dead (R506), whatever becomes of the reset, which else goes on to tier 3. -/
def RestartAndResetHolds : Prop :=
  ∀ (s : State) (m : MillId), (millOf s m).st = .restart → (millOf s m).startAt = none → (millOf s m).shiftFence = false →
    settled s (coresOf s m) = true → (batchOf s m).rung = false →
    let found := fun (c : CoreId) (zeroed : List Nat) (dead : Bool) =>
      Instr.millReset m [{ core := c, corrected := 0, zeroed := zeroed, dead := dead, badBundles := [] }]
    let restored := fun (t : State) => ∀ c ∈ coresOf s m,
      (coreOf t c).handles = (coreOf s c).copy.handles ∧ (coreOf t c).windows = (coreOf s c).copy.windows ∧
      (coreOf t c).scc.run = .outside ∧ ∀ i, i ≠ 0 → sreg (coreOf t c) i = Tbl.get 0 (coreOf s c).copy.regs i
    ((millOf s m).tier = 1 → Next (exec (.stepRestart m) s) fun t =>
      (millOf t m).st = .restart ∧ (millOf t m).startAt = some (s.glb.time + 32) ∧ (millOf t m).f = (millOf s m).f ∧ t.mem = s.mem ∧
      restored t ∧ ∀ c, c ∉ coresOf s m → coreOf t c = coreOf s c) ∧
    ((millOf s m).tier = 2 →
      (storeGood s (millOf s m).cfg.slot = false → serveOf s m = none → Next (exec (.millReset m []) s) fun t =>
        (millOf t m).st = .failed ∧ (millOf t m).lastCode = .auth ∧ t.mem = s.mem) ∧
      (∀ c : CoreId, c.val ∈ coresOf s m → serveOf s m = none →
        (storeGood s (millOf s m).cfg.slot = false → Next (exec (found c [] true) s) fun t =>
          (coreOf t c).dead = true ∧ (millOf t m).st = .failed ∧ (millOf t m).lastCode = .auth ∧ t.mem = s.mem) ∧
        (storeGood s (millOf s m).cfg.slot = true → (∀ c ∈ coresOf s m, (coreOf s c).blank = false) →
          Next (exec (found c [] true) s) fun t =>
            (coreOf t c).dead = true ∧ (millOf t m).st = .restart ∧ (millOf t m).tier = 3 ∧ t.mem = s.mem)) ∧
      (storeGood s (millOf s m).cfg.slot = true → (∀ c ∈ coresOf s m, (coreOf s c).blank = false) →
        ((millOf s m).hostReset = false → Next (exec (.millReset m []) s) fun t =>
          (millOf t m).reset2 = true ∧ (millOf t m).startAt = some (s.glb.time + 32) ∧ (millOf t m).st = .restart ∧ t.mem = s.mem ∧
          restored t) ∧
        ((millOf s m).hostReset = true → Next (exec (.millReset m []) s) fun t =>
          (millOf t m).st = .idle ∧ (millOf t m).inStep = false ∧ t.mem = s.mem ∧ restored t) ∧
        (∀ (c : CoreId) (a : Nat), c.val ∈ coresOf s m → a % 8 = 0 → serveOf s m = none →
          Next (exec (found c [a] false) s) fun t =>
            (millOf t m).st = .failed ∧ (millOf t m).lastCode = .ecc ∧ (∀ i < 8, readByte t (a + i) = 0) ∧
            ∀ y, (y < a ∨ a + 8 ≤ y) → readByte t y = readByte s y)))

/-- Tier 2. WATCHDOG_EXPIRY (R501-R504) and what follows a failure (R490), TIMEOUT µs after the core's last bundle issue: an issue
recognised in the same cycle only counts in LATE. Else the step owner's watchdog register names the first laggard, which is that core
where its timer stands highest, the cause and detail of its stall and how many laggards the record names, F rises by one, memory stays
where no request ends, and with RETRY of FLT_CTRL the step is restarted by tier 1 or 2, or the step owner is FAILED with TIMEOUT, as the
table of R490 says; the fault bit of TIMEOUT is set. The STEP record of a failure that begins tier 1 carries TIER 1 (R483); that there
is no TIER record beside it is the model's reading (log entry 28). STEP_RESTART (R492) and MILL_RESET (R493, R499): once every access of
the cores is answered, each core has the handles, the windows and the scalars s1-s31 of its copy and is outside a step, and the step is
due 32 ns later; memory keeps what the attempt wrote. The tier 2 reset marks that it was made; one that host software asked for ends in
IDLE; a word that cannot be corrected is zeroed and the step owner is FAILED with ECC; a store copy of the image that does not hold its
BODY_DIGEST fails it with AUTH (R272). A core that fails its write-read test is dead (R506), whatever becomes of the reset, which else
goes on to tier 3. -/
def Obligations.FailuresAndRecovery : Prop := WatchdogAndEscalationHolds ∧ RestartAndResetHolds

/-- CORE_SHIFT (R20, R21, R506, R507): a dead spare is only recorded; with no step owner in the row, a dead core of a row without a
defect is taken out of the row, whose OUT_COL and DEFECT say so, and the Moraine map has its CORE entry; a row that has a defect already is
dropped, and the region is SHORT. A core that is already out, and a dropped row, change nothing. A step owner in the row is fenced without drain,
its step kept, and the row does not shift before every access of its cores is answered. -/
def CoreShiftHolds : Prop :=
  (∀ (s : State) (r : RegionId) (row : Fin 16) (col : Fin 17) (u : Bool), logRow (regionOf s r).org row = none →
    exec (.coreShift r row col u) s = .next s) ∧
  ∀ (s : State) (r : RegionId) (row : Fin 16) (col : Fin 17) (y : Nat), logRow (regionOf s r).org row = some y → s.moraine = [] →
    let w := rowOf (regionOf s r).org row
    let listed := fun (t : State) => t.moraine = [{ kind := 1, source := 1, region := r.val, row := row.val, col := col.val, boot := s.bootno }]
    (w.outCol = col.val → col.val < 16 → ∀ u, exec (.coreShift r row col u) s = .next s) ∧
    (col.val = 16 → w.outCol = 16 → w.defect = false → ∀ u, Next (exec (.coreShift r row col u) s) fun t =>
      listed t ∧ rowOf (regionOf t r).org row = { w with defect := true } ∧ t.cores = s.cores ∧ t.mem = s.mem) ∧
    (w.outCol ≠ col.val → (col.val < 16 ∨ w.outCol ≠ 16) → w.defect = false → ownersIn s r = [] →
      Next (exec (.coreShift r row col false) s) fun t =>
        listed t ∧ rowOf (regionOf t r).org row = { outCol := col.val, stackDead := false, defect := true } ∧ t.mem = s.mem ∧
        ∀ p, p ≠ row.val → rowOf (regionOf t r).org p = rowOf (regionOf s r).org p) ∧
    (∀ m, w.outCol ≠ col.val → (col.val < 16 ∨ w.outCol ≠ 16) → w.defect = false → ownersIn s r = [m] →
      (∃ c ∈ coresOf s m, c / 16 = 16 * r.val + y) → settled s (coresOf s m) = false → (millOf s m).dstate = .opened →
      (millOf s m).shiftFence = false → (millOf s m).st = .running → (millOf s m).inStep = true → ∀ u,
      Next (exec (.coreShift r row col u) s) fun t =>
        (millOf t m).st = .fenced ∧ (millOf t m).dstate = .fenced ∧ (millOf t m).shiftFence = true ∧ (millOf t m).inStep = true ∧
        t.regions = s.regions ∧ t.moraine = s.moraine ∧ t.mem = s.mem ∧ ∀ c ∈ coresOf s m, (coreOf t c).scc.working = false) ∧
    (w.outCol ≠ col.val → col.val < 16 → w.defect = true → (regionOf s r).org.shape = .full → ∀ u,
      Next (exec (.coreShift r row col u) s) fun t =>
        (regionOf t r).org.shape = .short ∧ (regionOf t r).org.dropRow = row.val ∧ (rowOf (regionOf t r).org row).outCol = 31)

/-- SHARD_RELOAD (R510): for a weight burst that cannot be read the slot is STAGED, what was due is done, and no shard is marked
loaded that was not. With nothing due, with the slot neither LOADED nor STAGED, or with the Hopper at work, nothing happens. -/
def ShardReloadHolds : Prop :=
  ∀ (s : State) (n : Fin 64),
    let x := slotOf s n
    ((x.deadStacks = [] ∧ x.badBursts = [] ∨ (x.st ≠ .loaded ∧ x.st ≠ .staged) ∨ s.hop.op ≠ .idle) → exec (.shardReload n) s = .next s) ∧
    (x.deadStacks = [] → x.badBursts ≠ [] → (x.st = .loaded ∨ x.st = .staged) → s.hop.op = .idle → sessionOf s x.session = none →
      Next (exec (.shardReload n) s) fun t =>
        (slotOf t n).st = .staged ∧ (slotOf t n).badBursts = [] ∧ (∀ i ∈ (slotOf t n).loaded, i ∈ x.loaded) ∧ t.hop.op = .idle)

/-- Tier 2. CORE_SHIFT (R20, R21, R506, R507): a dead spare is only recorded; with no step owner in the row, a dead core of a row without a
defect is taken out of the row, whose OUT_COL and DEFECT say so, and the Moraine map has its CORE entry; a row that has a defect already
is dropped, and the region is SHORT. A core that is already out, and a dropped row, change nothing. A step owner in the row is fenced
without drain, its step kept, and the row does not shift before every access of its cores is answered. SHARD_RELOAD (R510): for a weight
burst that cannot be read the slot is STAGED, what was due is done, and no shard is marked loaded that was not. With nothing due, with
the slot neither LOADED nor STAGED, or with the Hopper at work, nothing happens. -/
def Obligations.CoreShiftAndShardReload : Prop := CoreShiftHolds ∧ ShardReloadHolds

/-- MIL_FENCE with FENCE = 1 and 0, and DRAIN_EXPIRY (R496-R499, R505), of a step owner: a step that is RUNNING drains; a step
owner without a step is FENCED at once; when the last fence is lifted it is IDLE, its cores as at the last retirement; a lift during a
drain is discarded with STATE; a DRAIN out of range discards the write. A drain that expires, DRAIN µs after it began, with every access
answered discards the step, and one that retires in the same cycle is taken. -/
def FencesHolds : Prop :=
  ∀ (s : State) (m : MillId) (d : BitVec 16), Reaches s m → (millOf s m).cfg.owner = true →
    let k := millOf s m
    ((d = 0 ∨ d = 0xFFFF) → exec (.milFence m d) s = .next s ∧ exec (.milFenceLift m d) s = .next s) ∧
    (d ≠ 0 → d ≠ 0xFFFF →
      (k.dstate = .opened → k.inStep = true → k.st = .running → Next (exec (.milFence m d) s) fun t =>
        millOf t m = { k with st := .fenced, dstate := .draining, fence := true, drain := d, drainAt := s.glb.time } ∧ t.cores = s.cores ∧ t.mem = s.mem) ∧
      (k.dstate = .opened → k.inStep = false → serveOf s m = none → Next (exec (.milFence m d) s) fun t =>
        (millOf t m).st = .fenced ∧ (millOf t m).dstate = .fenced ∧ (millOf t m).fence = true ∧ t.cores = s.cores ∧ t.mem = s.mem) ∧
      (k.dstate = .fenced → covered (updMill s m fun k => { k with fence := false, drain := d }) m = false →
        Next (exec (.milFenceLift m d) s) fun t =>
          (millOf t m).st = .idle ∧ (millOf t m).dstate = .opened ∧ (millOf t m).fence = false ∧ t.mem = s.mem ∧
          ∀ c ∈ coresOf s m, (coreOf t c).handles = (coreOf s c).copy.handles ∧ (coreOf t c).windows = (coreOf s c).copy.windows) ∧
      (k.dstate = .draining → Next (exec (.milFenceLift m d) s) fun t =>
        NoEffect s t ∧ Logged s t fun r => r.code = .state ∧ r.cls = .host ∧ r.mill = some m.val)) ∧
    (k.dstate = .draining → k.inStep = true → serveOf s m = none →
      (settled s (coresOf s m) = true → Next (exec (.drainExpiry m false) s) fun t =>
        (millOf t m).inStep = false ∧ (millOf t m).dstate ≠ .draining ∧ t.mem = s.mem ∧
        (timeRuns s = true → t.glb.time = max s.glb.time (k.drainAt + 1000 * k.drain.toNat))) ∧
      (allEnded s m = true → (batchOf s m).rung = false → Next (exec (.drainExpiry m true) s) fun t =>
        (millOf t m).steps = k.steps + 1 ∧ (millOf t m).late = bumpW 8 k.late ∧ (millOf t m).inStep = false ∧ t.mem = s.mem))

/-- Tier 2. R505: a retirement that is recognised in the cycle in which DRAIN expires is taken. The step owner's step count rises and the grace counter
with it, its cores keep what they now hold, and the step commits under R301: where it carries a batch the batch is retired and no request has
ended, the drain going on until COMMIT has committed the batch; where it carries none the drain is over. -/
def Obligations.LateRetirement : Prop :=
  ∀ (s : State) (m : MillId), (millOf s m).dstate = .draining → allEnded s m = true →
    let k := millOf s m
    let b := batchOf s m
    Next (exec (.drainExpiry m true) s) fun t =>
      (millOf t m).steps = k.steps + 1 ∧ (millOf t m).late = bumpW 8 k.late ∧ (millOf t m).inStep = false ∧ (millOf t m).f = 0 ∧
      (∀ c ∈ coresOf s m, (coreOf t c).copy.handles = (coreOf s c).handles ∧ (coreOf t c).copy.windows = (coreOf s c).windows) ∧
      (timeRuns s = true → t.glb.time = max s.glb.time (k.drainAt + 1000 * k.drain.toNat)) ∧
      (b.rung = false → (millOf t m).dstate ≠ .draining) ∧
      (b.rung = true → (millOf t m).dstate = .draining ∧ batchOf t m = { b with retired := true, time := t.glb.time } ∧ t.mem = s.mem ∧
        (∀ q, reqOf t q = reqOf s q) ∧ ∀ ups, Next (exec (.commit m ups) t) fun v =>
          (batchOf v m).rung = false ∧ (millOf v m).dstate ≠ .draining)

/-- HALT, RESUME, FAIL and RESET of MIL_FENCE (R499): HALT takes a RUNNING step owner to HALTED, with cause 40; RESUME takes it back
and its halted cores go on; FAIL takes it to FAILED with HALTED; RESET takes it to RESTART for a tier 2 reset that ends in IDLE. In any
other state each is discarded with STATE. Memory stays. -/
def HaltResumeFailResetHolds : Prop :=
  ∀ (s : State) (m : MillId), Reaches s m → (millOf s m).cfg.owner = true →
    let k := millOf s m
    let refused := fun (i : Instr) => Next (exec i s) fun t =>
      NoEffect s t ∧ Logged s t fun r => r.code = .state ∧ r.cls = .host ∧ r.mill = some m.val
    (k.st = .running → Next (exec (.milHalt m) s) fun t =>
      millOf t m = { k with st := .halted } ∧ bit t.glb.stat 40 = true ∧ t.mem = s.mem ∧
      ∀ c ∈ coresOf s m, (coreOf t c).scc.run ≠ .running) ∧
    (k.st ≠ .running → refused (.milHalt m)) ∧
    (k.st = .halted → Next (exec (.milResume m) s) fun t =>
      millOf t m = { k with st := .running } ∧ t = { s with mills := t.mills, cores := t.cores } ∧
      ∀ c ∈ coresOf s m, (coreOf t c).scc.run ≠ .halted) ∧
    (k.st = .halted → k.inStep = true → k.dstate = .opened → Next (exec (.milFail m) s) fun t =>
      (millOf t m).st = .failed ∧ (millOf t m).lastCode = .halted ∧ (millOf t m).inStep = false ∧
        (serveOf s m = none → t.mem = s.mem)) ∧
    (k.st ≠ .halted → refused (.milResume m) ∧ refused (.milFail m)) ∧
    ((k.st = .failed ∨ k.st = .halted) → (slotOf s k.cfg.slot).st = .loaded →
      (∀ g ∈ regionsOf s m, (regionOf s g).org.shape ≠ .lost) → Next (exec (.milReset m) s) fun t =>
        (millOf t m).st = .restart ∧ (millOf t m).tier = 2 ∧ (millOf t m).hostReset = true ∧ (millOf t m).inStep = false ∧ t.mem = s.mem) ∧
    (k.st ≠ .failed → k.st ≠ .halted → refused (.milReset m))

/-- Tier 2. MIL_FENCE with FENCE = 1 and 0, and DRAIN_EXPIRY (R496-R499, R505), of a step owner: a step that is RUNNING drains; a step owner
without a step is FENCED at once; when the last fence is lifted it is IDLE, its cores as at the last retirement; a lift during a drain
is discarded with STATE; a DRAIN out of range discards the write. A drain that expires, DRAIN µs after it began, with every access
answered discards the step, and one that retires in the same cycle is taken. HALT, RESUME, FAIL and RESET of MIL_FENCE (R499): HALT
takes a RUNNING step owner to HALTED, with cause 40; RESUME takes it back and its halted cores go on; FAIL takes it to FAILED with
HALTED; RESET takes it to RESTART for a tier 2 reset that ends in IDLE. In any other state each is discarded with STATE. Memory stays. -/
def Obligations.MillControl : Prop := FencesHolds ∧ HaltResumeFailResetHolds

/-! ### The mailbox (14; 07; 12; 13) -/

/-- A mailbox command: its OP (R538), its tag and its arguments. -/
def mailboxCall : Instr → Option (Nat × BitVec 16 × List Word)
  | .bootFw t a l _ => some (0x01, t, [a, l])
  | .loadImage t a l _ _ => some (0x10, t, [a, l])
  | .unload t a => some (0x11, t, [a])
  | .loadWeights t a b c => some (0x12, t, [a, b, c])
  | .quote t a b c d _ => some (0x20, t, [a, b, c, d])
  | .readMoraine t a b => some (0x21, t, [a, b])
  | .readCerts t a b => some (0x22, t, [a, b])
  | .park t a => some (0x30, t, [a])
  | .wake t => some (0x31, t, [])
  | .shutdown t a => some (0x32, t, [a])
  | .setCap t a => some (0x40, t, [a])
  | .setPrio t a => some (0x41, t, [a])
  | .calibrateZero t a b => some (0x42, t, [0, a, b])
  | .calibrateFull t a b c _ => some (0x42, t, [1, a, b, c])
  | .calibrateStore t a b => some (0x42, t, [2, a, b])
  | .regionFence t a => some (0x43, t, [a])
  | .unfence t a => some (0x44, t, [a])
  | .realmCreate t a b _ => some (0x50, t, [a, b])
  | .realmDestroy t a => some (0x51, t, [a])
  | _ => none

/-- The host reaches the mailbox, it is not busy, and Miller firmware serves it in a device that is up. -/
def MailboxFree (s : State) : Prop := hostReach s = true ∧ s.mlr.busy = false ∧ s.glb.fw = true ∧ isUp s = true

/-- The command of OP `op` and tag `tag` has completed with a code (R536). -/
def Ended (t : State) (op : Nat) (tag : BitVec 16) (code : Code) : Prop :=
  t.mlr.busy = false ∧ t.mlr.done = true ∧ t.mlr.code = code ∧ t.mlr.rtag = tag ∧ t.mlr.opdone = BitVec.ofNat 8 op

/-- Every argument bit that R538 does not name is 0. -/
def ArgumentsNamed (op : Nat) (args : List Word) : Prop :=
  ∃ masks, argMasks op = some masks ∧ ∀ k < 8, (args.getD k 0).toNat &&& (2 ^ 64 - 1 - masks.getD k 0) = 0

/-- The states in which R538 accepts a command, by its OP. WAKE is accepted during step 1 or phase 1 of a SHUTDOWN, or of a PARK with test. -/
def Accepted (s : State) (op : Nat) : Prop :=
  let up := s.glb.st = .ready ∨ s.glb.st = .loaded ∨ s.glb.st = .running ∨ s.glb.st = .degraded
  if op = 0x01 then s.glb.st = .boot
  else if op = 0x42 then s.glb.st = .ready
  else if op = 0x43 ∨ op = 0x44 then s.glb.st = .loaded ∨ s.glb.st = .running ∨ s.glb.st = .degraded
  else if op = 0x31 then up ∧ (s.bst.shut = .phase1 ∨ (s.bst.shut = .draining ∧ (s.bst.isPark = true → s.bst.test = true)))
  else up

/-- The host reaches the mailbox, it is not busy, and a processor serves it: Miller firmware, or in BOOT the boot ROM, which has run (R526). -/
def MailboxServed (s : State) : Prop :=
  hostReach s = true ∧ s.mlr.busy = false ∧ (s.glb.fw = true ∨ s.glb.st = .boot) ∧ (s.glb.st = .boot → s.sec.romDig ≠ [])

/-- The checks of R539, common to every mailbox command: while BUSY = 1 the GO is discarded and logged with BUSY; in every device state
that R538 does not allow for its OP a command completes with STATE; an argument bit that is not named completes with FORMAT. None of them
changes a mill, a core, a memory or the power registers. Where no processor serves the mailbox BUSY stays 1. -/
def MailboxChecksHolds : Prop :=
  ∀ (s : State) (i : Instr) (op : Nat) (tag : BitVec 16) (args : List Word), mailboxCall i = some (op, tag, args) →
    (hostReach s = true → s.mlr.busy = true → Next (exec i s) fun t =>
      t.mlr = s.mlr ∧ NoEffect s t ∧ Logged s t fun r => r.code = .busy ∧ r.cls = .host ∧ r.addr = 0x10048) ∧
    (MailboxServed s → ¬ Accepted s op → Next (exec i s) fun t =>
      Ended t op tag .state ∧ NoEffect s t ∧ t.pwr = s.pwr ∧ t.glb.st = s.glb.st) ∧
    (MailboxServed s → Accepted s op → ¬ ArgumentsNamed op args → Next (exec i s) fun t =>
      Ended t op tag .format ∧ NoEffect s t ∧ t.pwr = s.pwr) ∧
    (hostReach s = true → s.mlr.busy = false → s.glb.fw = false → s.glb.st ≠ .boot → Next (exec i s) fun t =>
      t.mlr.busy = true ∧ NoEffect s t ∧ t.pwr = s.pwr) ∧
    (hostReach s = false → exec i s = .next s)

/-- SET_CAP and SET_PRIO (R455, R538, R539): a value in range goes to its register, the command completes with OK, and no other
power register changes; a value outside completes with FORMAT and changes none. -/
def CapAndPriorityHolds : Prop :=
  ∀ (s : State) (tag : BitVec 16) (v : Word), MailboxFree s →
    (200 ≤ v.toNat → v.toNat ≤ 3000 → Next (exec (.setCap tag v) s) fun t =>
      Ended t 0x40 tag .ok ∧ t.pwr = { s.pwr with cap := BitVec.ofNat 12 v.toNat } ∧ NoEffect s t) ∧
    ((v.toNat < 200 ∨ 3000 < v.toNat) → Next (exec (.setCap tag v) s) fun t => Ended t 0x40 tag .format ∧ t.pwr = s.pwr) ∧
    (v.toNat ≤ 5 → Next (exec (.setPrio tag v) s) fun t =>
      Ended t 0x41 tag .ok ∧ t.pwr = { s.pwr with prio := BitVec.ofNat 3 v.toNat } ∧ NoEffect s t) ∧
    (5 < v.toNat → Next (exec (.setPrio tag v) s) fun t => Ended t 0x41 tag .format ∧ t.pwr = s.pwr)

/-- Tier 2. CALIBRATE (R472, R538) of one channel `n` below 64, in READY: phase ZERO begins averaging it, its rules suspended, and the
command stays in progress; phase FULL reads its table and does the same with the table's scale and current; phase STORE, after both in
the present stay in READY, puts the new offset, gain and scale in force and into the record store, and before both completes with STATE. -/
def Obligations.Calibration : Prop :=
  ∀ (s : State) (tag : BitVec 16) (n : Fin 64), MailboxFree s → s.glb.st = .ready →
    let mask := BitVec.ofNat 64 (2 ^ n.val)
    let c := chanOf s n
    let averaging := fun (phase : Nat) (t : State) => t.mlr.busy = true ∧ t.frn.phase = phase ∧
      t.frn.mask = BitVec.ofNat 128 (2 ^ n.val) ∧ (chanOf t n).suspended = true ∧ (chanOf t n).cntLeft = 1024 ∧ (chanOf t n).sum = 0 ∧
      ∀ k, k ≠ n.val → chanOf t k = chanOf s k
    Next (exec (.calibrateZero tag mask 0) s) (averaging 1) ∧
    (∀ (a : Word) (scale current : BitVec 16), s.glb.busMaster = true →
      Next (exec (.calibrateFull tag mask 0 a
        (.data ([BitVec.ofNat 8 n.val, 0] ++ leBytes 2 scale.toNat ++ leBytes 2 current.toNat ++ [0, 0]))) s) fun t =>
        averaging 2 t ∧ (chanOf t n).tryFscale = scale.toNat ∧ (chanOf t n).applied = current.toNat) ∧
    (zeroDone s c = true → fullDone s c = true → Next (exec (.calibrateStore tag mask 0) s) fun t =>
      Ended t 0x42 tag .ok ∧ chanOf t n = { c with offset := c.newOffset, gain := c.newGain, fscale := c.newFscale, suspended := false } ∧
      Tbl.get none t.frn.stored n = some (c.newOffset, c.newGain, c.newFscale)) ∧
    ((zeroDone s c = false ∨ fullDone s c = false) → Next (exec (.calibrateStore tag mask 0) s) fun t =>
      Ended t 0x42 tag .state ∧ t.frn = s.frn)

/-- Tier 2. QUOTE, READ_MORAINE and READ_CERTS (R539, R546-R548): with Bus Master Enable and room for it the output goes to host memory at
the address given, the command completes with OK and its length; without room it completes with LENGTH and the length needed, and
nothing is written. A quote holds the nonce between what it says of the device before and after it, then the signature. -/
def Obligations.QuoteMoraineCerts : Prop :=
  ∀ (s : State) (tag : BitVec 16) (addr len : Word), MailboxFree s → s.glb.busMaster = true →
    let wrote := fun (t : State) (op : Nat) (bs : List Byte) =>
      Ended t op tag .ok ∧ Out.host addr.toNat bs ∈ t.out ∧ Tbl.get 0 t.mlr.res 0 = BitVec.ofNat 64 bs.length
    let short := fun (t : State) (op n : Nat) => Ended t op tag .length ∧ Tbl.get 0 t.mlr.res 0 = BitVec.ofNat 64 n ∧
      ∀ a bs, Out.host a bs ∈ t.out → Out.host a bs ∈ s.out
    len.toNat < 2 ^ 32 →
    ((moraineBytes s).length ≤ len.toNat → Next (exec (.readMoraine tag addr len) s) fun t => wrote t 0x21 (moraineBytes s)) ∧
    (len.toNat < (moraineBytes s).length → Next (exec (.readMoraine tag addr len) s) fun t => short t 0x21 (moraineBytes s).length) ∧
    (Next (exec (.readCerts tag addr len) s) fun t =>
      if certBytes.length ≤ len.toNat then wrote t 0x22 certBytes else short t 0x22 certBytes.length) ∧
    (∀ (nonce : Word) (mask : BitVec 16) (bs : List Byte), s.sec.idfail = false → bs.length = 64 →
      (quoteLen s mask.toNat ≤ len.toNat → Next (exec (.quote tag nonce addr len (mask.setWidth 64) (.data bs)) s) fun t =>
        ∃ sig, wrote t 0x20 (quotePre s mask.toNat ++ bs ++ quotePost s mask.toNat ++ sig) ∧
          sig = edSign s.sec.privKey "YKQT" (quotePre s mask.toNat ++ bs ++ quotePost s mask.toNat) ++ List.replicate 14 0) ∧
      (len.toNat < quoteLen s mask.toNat → Next (exec (.quote tag nonce addr len (mask.setWidth 64) (.data bs)) s) fun t =>
        short t 0x20 (quoteLen s mask.toNat))) ∧
    (∀ (nonce : Word) (mask : BitVec 16) (bs : List Byte), s.sec.idfail = true → quoteLen s mask.toNat ≤ len.toNat →
      Next (exec (.quote tag nonce addr len (mask.setWidth 64) (.data bs)) s) fun t => Ended t 0x20 tag .auth)

/-- SHUTDOWN, PARK and WAKE (R474, R519, R524): a shut-down and a park with test begin by letting steps retire, and the command
completes; a park without test of a device that holds no image takes the device to PARKED at once; WAKE ends what has not gone too far;
with the Hopper at work a shut-down and a park complete with BUSY (R267, R474), and a WAKE with nothing under way with STATE. A second shut-down or
park while one is under way completes with STATE by the model's choice (log entry 66). -/
def ShutDownParkWakeHolds : Prop :=
  ∀ (s : State) (tag : BitVec 16), MailboxFree s →
    (∀ a : Word, a.toNat ≤ 1 → (s.hop.op ≠ .idle ∨ s.bst.shut ≠ .none) →
      let code : Code := if s.hop.op ≠ .idle then .busy else .state
      (Next (exec (.shutdown tag a) s) fun t => Ended t 0x32 tag code ∧ t.bst = s.bst ∧ NoEffect s t) ∧
      Next (exec (.park tag a) s) fun t => Ended t 0x30 tag code ∧ t.bst = s.bst ∧ NoEffect s t) ∧
    (s.hop.op = .idle → s.bst.shut = .none →
      (∀ a : Word, a.toNat ≤ 1 → Next (exec (.shutdown tag a) s) fun t => Ended t 0x32 tag .ok ∧ t.bst.shut = .draining ∧
        t.bst.isPark = false ∧ t.bst.test = decide (a = 1) ∧ NoEffect s t) ∧
      (Next (exec (.park tag 1) s) fun t => Ended t 0x30 tag .ok ∧ t.bst.shut = .draining ∧ t.bst.isPark = true ∧ t.bst.test = true ∧
        NoEffect s t) ∧
      (s.hop.slots = [] → s.sluice.sessions = [] → Next (exec (.park tag 0) s) fun t => t.glb.st = .parked ∧ t.mills = [] ∧ t.cores = [] ∧
        ∀ c off, c < 2 ^ 14 → off < 2 ^ 28 → readByte t (coreAddr c 0 off) = readByte s (coreAddr c 0 off)) ∧
      (Next (exec (.wake tag) s) fun t => Ended t 0x31 tag .state ∧ NoEffect s t)) ∧
    (s.bst.shut = .draining → s.bst.isPark = false → Next (exec (.wake tag) s) fun t =>
      Ended t 0x31 tag .ok ∧ t.bst.shut = .none ∧ t.bst.clean = false ∧ NoEffect s t)

/-- Tier 2. The checks of R539, common to every mailbox command: while BUSY = 1 the GO is discarded and logged with BUSY; in every device
state that R538 does not allow for its OP a command completes with STATE; an argument bit that is not named completes with FORMAT. None
of them changes a mill, a core, a memory or the power registers. Where no processor serves the mailbox BUSY stays 1. SET_CAP and
SET_PRIO (R455, R538, R539): a value in range goes to its register, the command completes with OK, and no other power register changes;
a value outside completes with FORMAT and changes none. SHUTDOWN, PARK and WAKE (R474, R519, R524): a shut-down and a park with test
begin by letting steps retire, and the command completes; a park without test of a device that holds no image takes the device to PARKED
at once; WAKE ends what has not gone too far; with the Hopper at work a shut-down and a park complete with BUSY (R267, R474), and a WAKE
with nothing under way with STATE. A second shut-down or park while one is under way completes with STATE by the model's choice (log
entry 66). -/
def Obligations.MailboxChecksAndPower : Prop := MailboxChecksHolds ∧ CapAndPriorityHolds ∧ ShutDownParkWakeHolds

/-- FENCE and UNFENCE of a region (R496, R498, R539): the region is marked and a REGION record says so; with no step owner in it the
command completes at once, and with one that drains it stays in progress; a LOST region completes FENCE with LOST, and UNFENCE of a
region that is not fenced completes with STATE. That the records are one REGION record each, with CODE FENCED and OK, is the model's choice
(log entry 80). -/
def RegionFencesHolds : Prop :=
  ∀ (s : State) (tag : BitVec 16) (g : RegionId), MailboxFree s → (s.glb.st = .loaded ∨ s.glb.st = .running ∨ s.glb.st = .degraded) →
    let a : Word := BitVec.ofNat 64 g.val
    ((regionOf s g).org.shape = .lost → Next (exec (.regionFence tag a) s) fun t => Ended t 0x43 tag .lost ∧ NoEffect s t) ∧
    ((regionOf s g).org.shape ≠ .lost → (regionOf s g).org.fenced = false →
      (ownersIn s g = [] → Next (exec (.regionFence tag a) s) fun t => Ended t 0x43 tag .ok ∧ (regionOf t g).org.fenced = true ∧
        t.mem = s.mem ∧ Logged s t fun r => r.code = .fenced ∧ r.cls = .region ∧ r.region = some g.val) ∧
      (∀ m, ownersIn s g = [m] → (millOf s m).dstate = .opened → (millOf s m).st = .running → (millOf s m).inStep = true →
        Next (exec (.regionFence tag a) s) fun t => t.mlr.busy = true ∧ t.mlr.fencing = some g.val ∧ (regionOf t g).org.fenced = true ∧
          (millOf t m).dstate = .draining)) ∧
    ((regionOf s g).org.fenced = true → ownersIn s g = [] → Next (exec (.unfence tag a) s) fun t => Ended t 0x44 tag .ok ∧
      (regionOf t g).org.fenced = false ∧ t.mem = s.mem ∧ Logged s t fun r => r.code = .ok ∧ r.cls = .region ∧ r.region = some g.val) ∧
    ((regionOf s g).org.fenced = false → Next (exec (.unfence tag a) s) fun t => Ended t 0x44 tag .state ∧ NoEffect s t)

/-- REALM_CREATE and REALM_DESTROY (R540-R545): a descriptor that the checks of R541 pass makes the realm present with its
partitions and ranges; another completes with the code of the check that fails, and no realm changes. A realm that is not present, or
that an image holds, cannot be destroyed; one without partitions, links and ranges is gone. -/
def RealmsHolds : Prop :=
  ∀ (s : State) (tag : BitVec 16) (addr len : Word) (bs : List Byte) (k : Fin 16), MailboxFree s → s.glb.busMaster = true →
    let d := bs.take len.toNat
    (Next (exec (.realmCreate tag addr len (.data bs)) s) fun t =>
      match checkRealm s d len.toNat with
      | some code => Ended t 0x50 tag code ∧ t.realms = s.realms ∧ t.regions = s.regions ∧ t.mem = s.mem
      | none => Ended t 0x50 tag .ok ∧ (realmOf t (realmDesc d).realm).present = true ∧
          (realmOf t (realmDesc d).realm).parts = (realmDesc d).parts ∧ (realmOf t (realmDesc d).realm).ranges = (realmDesc d).ranges) ∧
    (((realmOf s k).present = false ∨ realmHeld s k = true) → Next (exec (.realmDestroy tag (BitVec.ofNat 64 k.val)) s) fun t =>
      Ended t 0x51 tag .state ∧ t.realms = s.realms ∧ t.mem = s.mem) ∧
    ((realmOf s k).present = true → realmHeld s k = false → realmParts s k = [] → s.links = [] → (realmOf s k).ranges = [] →
      s.sluice.sessions = [] → Next (exec (.realmDestroy tag (BitVec.ofNat 64 k.val)) s) fun t =>
        Ended t 0x51 tag .ok ∧ realmOf t k = {} ∧ (∀ j, j ≠ k.val → realmOf t j = realmOf s j) ∧ t.mem = s.mem)

/-- Tier 2. FENCE and UNFENCE of a region (R496, R498, R539): the region is marked and a REGION record says so; with no step owner in it the
command completes at once, and with one that drains it stays in progress; a LOST region completes FENCE with LOST, and UNFENCE of a
region that is not fenced completes with STATE. That the records are one REGION record each, with CODE FENCED and OK, is the model's
choice (log entry 80). REALM_CREATE and REALM_DESTROY (R540-R545): a descriptor that the checks of R541 pass makes the realm present
with its partitions and ranges; another completes with the code of the check that fails, and no realm changes. A realm that is not
present, or that an image holds, cannot be destroyed; one without partitions, links and ranges is gone. -/
def Obligations.RegionFencesAndRealms : Prop := RegionFencesHolds ∧ RealmsHolds

/-- Tier 2. BOOT_FW (R526-R529) in BOOT, once the boot ROM has run: the firmware image that host memory returns is checked in the order of
R528; the first check that fails is the command's code and BOOTCODE, and the device stays in BOOT; when none fails the firmware runs and
its version and the image in Miller memory are kept (R528), and BOOTNO rises as the bring-up begins (the model's choice, log entry 51). Without
Bus Master Enable the command completes with STATE. -/
def Obligations.BootFirmware : Prop :=
  ∀ (s : State) (tag : BitVec 16) (addr len : Word) (bs : List Byte), hostReach s = true → s.mlr.busy = false → s.glb.st = .boot →
    s.glb.fw = false → s.sec.romDig ≠ [] →
    let f := bs.take len.toNat
    (s.glb.busMaster = true → Next (exec (.bootFw tag addr len (.data bs)) s) fun t =>
      match checkFirmware f len.toNat with
      | some code => Ended t 0x01 tag code ∧ t.glb.bootcode = code ∧ t.glb.st = .boot ∧ t.glb.fw = false ∧ t.sec.fwMem = [] ∧ t.mem = s.mem
      | none => Ended t 0x01 tag .ok ∧ t.glb.bootcode = .ok ∧ t.glb.fw = true ∧ t.glb.st = .ready ∧ t.sec.svn = num f 16 4 ∧ t.sec.fwMem = f ∧
          t.bootno = s.bootno + 1) ∧
    (s.glb.busMaster = false → Next (exec (.bootFw tag addr len (.data bs)) s) fun t => Ended t 0x01 tag .state ∧ t.glb.st = .boot)

/-- Tier 2. LOAD_IMAGE, UNLOAD and LOAD_WEIGHTS (R266-R276, R538): with the Hopper at work each completes with BUSY; without a FREE slot
LOAD_IMAGE completes with CAPACITY, else it completes with the lowest one, which is LOADING until host memory answers; UNLOAD needs a
slot that is STAGED or LOADED, and without mills in it frees it; LOAD_WEIGHTS needs a STAGED slot, and a HOST shard is read from host
memory, or stops the loading with STATE when there is no address. What a shard whose source the command does not name does is the model's choice
(log entry 56). -/
def Obligations.ImagesAndWeights : Prop :=
  ∀ (s : State) (tag : BitVec 16) (addr len : Word) (n : Fin 64), MailboxFree s →
    let a : Word := BitVec.ofNat 64 n.val
    (s.hop.op ≠ .idle → ∀ f g b c, b.toNat < 2 ^ 32 →
      (Next (exec (.loadImage tag addr len f g) s) fun t => Ended t 0x10 tag .busy ∧ t.hop = s.hop) ∧
      (Next (exec (.unload tag a) s) fun t => Ended t 0x11 tag .busy ∧ t.hop = s.hop) ∧
      Next (exec (.loadWeights tag a b c) s) fun t => Ended t 0x12 tag .busy ∧ t.hop = s.hop) ∧
    (s.hop.op = .idle →
      ((∀ k < 64, (slotOf s k).st ≠ .free) → ∀ f g, Next (exec (.loadImage tag addr len f g) s) fun t =>
        Ended t 0x10 tag .capacity ∧ t.hop = s.hop) ∧
      ((slotOf s n).st = .free → (∀ k < n.val, (slotOf s k).st ≠ .free) → s.glb.busMaster = true → ∀ g,
        Next (exec (.loadImage tag addr len .later g) s) fun t => Ended t 0x10 tag .ok ∧ Tbl.get 0 t.mlr.res 0 = a ∧
          (slotOf t n).st = .loading ∧ t.hop.op = .loadImage ∧ t.hop.slot = n.val ∧ t.glb.dma = s.glb.dma ++ [(s.glb.time, .image1 len.toNat)] ∧
          t.mem = s.mem) ∧
      (((slotOf s n).st = .free ∨ (slotOf s n).st = .loading) →
        (Next (exec (.unload tag a) s) fun t => Ended t 0x11 tag .state ∧ t.hop = s.hop)) ∧
      (((slotOf s n).st = .staged ∨ (slotOf s n).st = .loaded) → slotMills s n = [] → s.bst.shut = .none →
        slotCores s n = [] → slotRegions s n = [] → Next (exec (.unload tag a) s) fun t => Ended t 0x11 tag .ok ∧
          slotOf t n = {} ∧ t.hop.op = .idle ∧ t.hop.err = .ok ∧ t.mem = s.mem ∧ ∀ k, k ≠ n.val → slotOf t k = slotOf s k) ∧
      ((slotOf s n).st ≠ .staged → ∀ b c, b.toNat < 2 ^ 32 → Next (exec (.loadWeights tag a b c) s) fun t =>
        Ended t 0x12 tag .state ∧ t.hop = s.hop) ∧
      ((slotOf s n).st = .staged → ∀ (i : Nat) (x : Shard) (b c : Word), b.toNat < 2 ^ 32 → nextShard (slotOf s n) = some (i, x) →
        x.source = 1 →
        (c ≠ 0 → s.glb.busMaster = true → Next (exec (.loadWeights tag a b c) s) fun t => Ended t 0x12 tag .ok ∧
          t.hop.op = .loadWeights ∧ t.hop.slot = n.val ∧ t.hop.hostAddr = c.toNat ∧ t.glb.dma = s.glb.dma ++ [(s.glb.time, .shard i)]) ∧
        (c = 0 → Next (exec (.loadWeights tag a b c) s) fun t => Ended t 0x12 tag .ok ∧ t.hop.op = .idle ∧ t.hop.err = .state ∧
          t.hop.sect = 0xC ∧ t.hop.record = i)))

/-- What shard `i`, placed on a stack as record `x`, does with the bytes that are obtained for it (R273, R274). -/
def ShardTaken (s : State) (i : Nat) (x : Shard) (bs : List Byte) (t : State) : Prop :=
  (bs.length = x.size ∧ shake256 bs 64 = x.digest →
    (∀ k < bs.length, readByte t (coreAddr x.core 0 x.off + k) = bs.getD k 0) ∧
    (∀ y, (y < coreAddr x.core 0 x.off ∨ coreAddr x.core 0 x.off + bs.length ≤ y) → readByte t y = readByte s y) ∧
    i ∈ (slotOf t s.hop.slot).loaded) ∧
  ((bs.length ≠ x.size ∨ shake256 bs 64 ≠ x.digest) → t.mem = s.mem ∧
    ((slotOf s s.hop.slot).retried.contains i = true → t.hop.op = .idle ∧ t.hop.err = .auth ∧ t.hop.record = i) ∧
    ((slotOf s s.hop.slot).retried.contains i = false → i ∈ (slotOf t s.hop.slot).retried))

/-- Record `i` of the manifest is placed on a stack as `x`, and shards are left to obtain before and after it. -/
def MoreShards (s : State) (i : Nat) (x : Shard) : Prop :=
  (shardsOf (slotOf s s.hop.slot).image)[i]? = some x ∧ x.kind = 0 ∧ nextShard (slotOf s s.hop.slot) ≠ none ∧
  nextShard { slotOf s s.hop.slot with loaded := insertNat i (slotOf s s.hop.slot).loaded } ≠ none

/-- Tier 2. SHARD_OBTAINED, DMA_COMPLETION and DMA_TIMEOUT (R273, R274, R431): bytes of a STACK shard with its length and digest are
written to the place the manifest names and the shard is marked, and, while shards remain, no byte outside it changes; a first mismatch
only has it obtained again, a second stops the loading with AUTH. The data of the oldest read reach the operation that waits for them: a
shard, a quote's nonce, a realm descriptor. A read of the mailbox that host memory refuses, that is poisoned or that times out, 50 ms
after it began, completes the command with UNSUPPORTED, ECC or TIMEOUT; a quote whose nonce comes after Bus Master Enable was cleared ends with
STATE; a completion recognised in the same cycle is taken; with no read
outstanding, or with a completion that is still to come, nothing happens. -/
def Obligations.HostMemoryAnswers : Prop :=
  (∀ (s : State) (i : Nat) (bs : List Byte) (x : Shard), (∃ j ∈ s.glb.dma, j.2 = .shard i) → MoreShards s i x →
    Next (exec (.shardObtained i bs) s) (ShardTaken s i x bs)) ∧
  (∀ (s : State) (i : Nat) (bs : List Byte), (∀ j ∈ s.glb.dma, j.2 ≠ .shard i) → exec (.shardObtained i bs) s = .next s) ∧
  (∀ (s : State) (at' : Nat) (j : DmaJob) (js : List (Nat × DmaJob)), s.glb.dma = (at', j) :: js → (s.glb.fw = true ∨ s.glb.st = .boot) →
    let u := advanceTo s (at' + 50000000)
    let refused := (j = .table ∨ (∃ n, j = .realm n) ∨ (∃ n, j = .firmware n) ∨ ∃ o p q, j = .nonce o p q)
    let ended := fun (v : State) (i : Instr) (code : Code) => Next (exec i s) fun t =>
      Ended t s.mlr.op.toNat s.mlr.tag code ∧ t.glb.dma = js ∧ NoEffect v t
    (refused → ended s (.dmaCompletion .unsupported) .unsupported ∧ ended s (.dmaCompletion .poisoned) .ecc ∧
      ended u (.dmaTimeout false) .timeout) ∧
    (∀ o p q bs, j = .nonce o p q →
      (s.glb.busMaster = false → ended s (.dmaCompletion (.data bs)) .state) ∧
      (s.glb.busMaster = true → ended s (.dmaCompletion (.data bs)) .ok ∧ Next (exec (.dmaCompletion (.data bs)) s) fun t =>
        ∃ sig, Out.host o (p ++ slice bs 0 64 ++ q ++ sig) ∈ t.out)) ∧
    (∀ n bs, j = .realm n → (∀ code, checkRealm s (bs.take n) n = some code → ended s (.dmaCompletion (.data bs)) code) ∧
      (checkRealm s (bs.take n) n = none → Next (exec (.dmaCompletion (.data bs)) s) fun t =>
        Ended t s.mlr.op.toNat s.mlr.tag .ok ∧ (realmOf t (realmDesc (bs.take n)).realm).present = true)) ∧
    (∀ i x bs, j = .shard i → MoreShards s i x → Next (exec (.dmaCompletion (.data bs)) s) (ShardTaken s i x bs)) ∧
    exec (.dmaTimeout true) s = .next { u with glb := { u.glb with late := bump u.glb.late } } ∧
    exec (.dmaCompletion .later) s = .next s) ∧
  ∀ s : State, s.glb.dma = [] → (∀ came, exec (.dmaTimeout came) s = .next s) ∧ ∀ a, exec (.dmaCompletion a) s = .next s

/-! ### GML sessions (10; 08) -/

/-- The port keeps frame `f` (R355), and it reaches session `x` with a message whose tag is right (R358-R361): the header with these fields,
the body, the tag. -/
def Brings (s : State) (f : Frame) (x : Session) (type flags : Nat) (seq ack : BitVec 32) (sack : Nat) (body : List Byte) : Prop :=
  let msg := gmlHeader type flags x.id seq ack sack body.length ++ body
  portTakes s f.port.val f.subB = true ∧ keeps s f = true ∧ sessionOf s x.id = some x ∧ x.port = f.port.val ∧ x.subB = f.subB ∧
  f.bytes = msg ++ kmac256 x.key msg 16 "GML-P2D" ∧ body.length % 8 = 0 ∧ body.length ≤ maxBody s f.port.val

/-- The message is the one that the session awaits, nothing is held or unacknowledged, no command of several messages is pending, and the
session is not QUARANTINED. -/
def Delivers (s : State) (f : Frame) (x : Session) (type flags : Nat) (ack : BitVec 32) (body : List Byte) : Prop :=
  Brings s f x type flags x.rxSeq ack 0 body ∧ x.unacked = [] ∧ x.held = [] ∧ x.staged = none ∧ quarantined s x = false

/-- The message has been received in its place, and no message has left on the session. -/
def Received (t : State) (f : Frame) (x : Session) : Prop :=
  ∃ y, sessionOf t x.id = some y ∧ y.rxSeq = x.rxSeq + 1 ∧ y.src = f.src ∧ y.unacked = [] ∧ y.txSeq = x.txSeq

/-- A message of this type as it first leaves on the session, with its retransmission timer (R367, R384). -/
def firstSent (s : State) (x : Session) (type flags : Nat) (body : List Byte) : TxMsg :=
  { seq := x.txSeq, type := type, flags := flags, body := body, sent := 1, due := s.glb.time + rtoOf s x.port, retry := retryOf s x.port }

/-- The message has been received in its place, and one message of this type has left on the session with the next SEQ. -/
def Replied (s t : State) (f : Frame) (x : Session) (type flags : Nat) (body : List Byte) : Prop :=
  ∃ y, sessionOf t x.id = some y ∧ y.rxSeq = x.rxSeq + 1 ∧ y.src = f.src ∧ y.txSeq = x.txSeq + 1 ∧
    y.unacked = [firstSent s x type flags body]

/-- The message has been received in its place, and one of this type has left on the session with the next SEQ, before any other. -/
def RepliedFirst (s t : State) (f : Frame) (x : Session) (type flags : Nat) (body : List Byte) : Prop :=
  ∃ y, sessionOf t x.id = some y ∧ y.rxSeq = x.rxSeq + 1 ∧ y.src = f.src ∧ y.unacked.head? = some (firstSent s x type flags body)

/-- The command has been refused with an ERROR of this code, and no request has changed. -/
def Refused (s t : State) (f : Frame) (x : Session) (code : Code) : Prop :=
  (∃ body, Replied s t f x 0x3F 0 body ∧ body.head? = some (BitVec.ofNat 8 code.num)) ∧ (∀ q, reqOf t q = reqOf s q) ∧
  t.pond.pools = s.pond.pools ∧ t.mem = s.mem ∧ t.mills = s.mills ∧ t.cores = s.cores

/-- OPEN (R362, R363), whose form is right: with the key of a present realm that verifies its signature, for the role asked, it
opens a session in the lowest free slot of the port's unit, with sequence numbers from 1; otherwise it is answered with an untagged
ERROR AUTH and opens none. One that repeats the source and the PNONCE of an OPEN answered within the last second gets the same answer
again and opens none. No request changes. In which order the form and the keys are checked, and when an OPEN repeats another, is the model's
choice (log entry 67). -/
def GmlOpenHolds : Prop :=
  ∀ (s : State) (f : Frame) (ack : BitVec 32) (b tag : List Byte),
    let head := gmlHeader 1 0 0 0 ack 0 168
    let realm := num b 0 1
    let role := num b 1 1
    let p := f.port.val
    let repeats := fun (y : Opened) => y.port = p ∧ y.subB = f.subB ∧ y.src = f.src ∧ y.pnonce = slice b 16 32 ∧
      s.glb.time ≤ y.time + 1000000000
    portTakes s p f.subB = true → keeps s f = true → f.bytes = head ++ b ++ tag → b.length = 168 → tag.length = 16 →
    (∀ old y new, s.sluice.opened = old ++ y :: new → (∀ z ∈ old, ¬ repeats z) → repeats y → Next (exec (.open_ f) s) fun t => NoEffect s t ∧
      t.sluice.sessions = s.sluice.sessions ∧ t.out = s.out ++ [.gml p (senderOf s p f.subB) f.src y.reply]) ∧
    (∀ slot, (∀ y ∈ s.sluice.opened, ¬ repeats y) → realm < 16 → role ≤ 1 → zeros b 2 8 = true → zeros b 162 168 = true →
      freeSession s (p / 4) = some slot → Next (exec (.open_ f) s) fun t => NoEffect s t ∧
      if ((realmOf s realm).present = true ∧ s.sec.idfail = false ∧ ∃ k,
          ((realmOf s realm).keys.find? fun k => k.keyid == BitVec.ofNat 64 (num b 8 8)) = some k ∧ k.roles.getLsbD role = true ∧
          edVerify k.key "GML-OPEN" (head ++ b.take 48) (slice b 48 114) = true) then
        ∃ x reply, t.sluice.sessions = s.sluice.sessions ++ [x] ∧ x.id = sessionId s (p / 4) slot ∧ x.port = p ∧
          x.subB = f.subB ∧ x.realm = realm ∧ x.role = role ∧ x.keyid = BitVec.ofNat 64 (num b 8 8) ∧ x.src = f.src ∧
          x.txSeq = 1 ∧ x.rxSeq = 1 ∧ x.unacked = [] ∧ x.held = [] ∧ x.staged = none ∧ x.viol = 0 ∧
          t.out = s.out ++ [.gml p (senderOf s p f.subB) f.src reply] ∧ num reply 1 1 = 1 ∧ num reply 2 2 = 1 ∧
          num reply 4 4 = x.id.toNat ∧ num reply 32 1 = 0 ∧
          { port := p, subB := f.subB, src := f.src, pnonce := slice b 16 32, time := s.glb.time, reply := reply } ∈ t.sluice.opened
      else t.sluice.sessions = s.sluice.sessions ∧
        ∃ bs, t.out = s.out ++ [.gml p (senderOf s p f.subB) f.src bs] ∧ num bs 1 1 = 0x3F ∧ num bs 32 1 = Code.num .auth)

/-- Tier 2. Acknowledgements (R365-R368): ACK lets go every message before it, and frees a request whose completion record is among them;
NAK has the messages of the gaps sent again; ACKDLY_EXPIRY, when it is due, sends the acknowledgement; RTO_EXPIRY, when the timer of a message
ends, sends it again, ends the session with TIMEOUT once it has been sent RETRY + 1 times, RETRY as it was when the timer started, and
counts a late acknowledgement that it covers. -/
def Obligations.GmlAcknowledgements : Prop :=
  (∀ (s : State) (f : Frame) (x : Session) (ack : BitVec 32), Brings s f x 3 0 0 ack 0 [] → x.waiting = [] →
    (sessionReqs s x.id = [] → Next (exec (.ack f) s) fun t => NoEffect s t ∧
      sessionOf t x.id = some { x with src := f.src, unacked := x.unacked.filter fun m => !seqBefore m.seq ack }) ∧
    (∀ q m, sessionReqs s x.id = [q] → m ∈ x.unacked → seqBefore m.seq ack = true → (reqOf s q).finalSeq = some m.seq →
      ((reqOf s q).st = .done ∨ (reqOf s q).st = .expired ∨ (reqOf s q).st = .cancelled ∨ (reqOf s q).st = .failed) →
      Next (exec (.ack f) s) fun t => reqOf t q = {} ∧ t.mem = s.mem ∧ ∀ j, j ≠ q → reqOf t j = reqOf s j)) ∧
  (∀ (s : State) (f : Frame) (x : Session) (ack : BitVec 32) (sack : Nat), Brings s f x 4 0 0 ack sack [] → x.waiting = [] →
    sessionReqs s x.id = [] → 0 < sack → sack < 2 ^ 63 → (x.unacked.map (·.seq)).Nodup →
    Next (exec (.nak f) s) fun t => NoEffect s t ∧ ∃ y, sessionOf t x.id = some y ∧
      y.unacked = (x.unacked.filter fun m => !seqBefore m.seq ack).map fun m =>
        let d := (m.seq - ack).toNat
        if d ≤ Nat.log2 sack + 1 ∧ ¬ (1 ≤ d ∧ sack.testBit (d - 1) = true) then
          { m with sent := m.sent + 1, due := s.glb.time + rtoOf s x.port, retry := retryOf s x.port } else m) ∧
  (∀ (s : State) (x : Session), sessionOf s x.id = some x →
    (∀ e, x.ackDue = some e → let u := advanceTo s e; Next (exec (.ackdlyExpiry x.id) s) fun t => NoEffect u t ∧
      (timeRuns s = true → e ≤ t.glb.time) ∧ sessionOf t x.id = some { x with ackDue := none } ∧
      ∃ bs, t.out = u.out ++ [.gml x.port (senderOf s x.port x.subB) x.src bs] ∧ num bs 1 1 = 3 ∧ num bs 12 4 = x.rxSeq.toNat) ∧
    (x.ackDue = none → exec (.ackdlyExpiry x.id) s = .next s) ∧
    (∀ m, m ∈ x.unacked → (x.unacked.map (·.seq)).Nodup →
      let u := advanceTo s m.due
      (m.sent ≤ m.retry → Next (exec (.rtoExpiry x.id m.seq false) s) fun t => NoEffect u t ∧ (timeRuns s = true → m.due ≤ t.glb.time) ∧
        sessionOf t x.id = some { x with
          ackDue := none
          unacked := x.unacked.map fun k => if k.seq = m.seq then
            { k with sent := k.sent + 1, due := u.glb.time + rtoOf s x.port, retry := retryOf s x.port } else k } ∧
        ∃ bs, t.out = u.out ++ [.gml x.port (senderOf s x.port x.subB) x.src bs] ∧ num bs 1 1 = m.type % 256 ∧ num bs 8 4 = m.seq.toNat) ∧
      (m.retry < m.sent → Next (exec (.rtoExpiry x.id m.seq false) s) fun t => sessionOf t x.id = none ∧
        Tbl.get .ok t.sluice.ends (slotIx x.id) = .timeout) ∧
      (Next (exec (.rtoExpiry x.id m.seq true) s) fun t => NoEffect u t ∧ t.sluice.sessions = s.sluice.sessions ∧ t.out = u.out ∧
        Tbl.get 0 (portOf t x.port).cnt 10 = bump (Tbl.get 0 (portOf s x.port).cnt 10)))) ∧
  ∀ (s : State) (n seq : BitVec 32) (acked : Bool), sessionOf s n = none →
    exec (.ackdlyExpiry n) s = .next s ∧ exec (.rtoExpiry n seq acked) s = .next s

/-- CLOSE, CLOSE_TIMEOUT, STATUS and ERROR (R364, R373, R375, R378): a CLOSE is answered and ends the session with its code; so do,
with the code of the device's own CLOSE, the reply to it and the 10 ms after it; what the session's requests in a step do is marked as
cancelled. A reply to no CLOSE is a violation. STATUS answers with the device, a request that the session owns, or the session; an ERROR
from the partner is logged with its CODE, a reserved one too, and that is all. -/
def GmlCloseStatusErrorHolds : Prop :=
  (∀ (s : State) (f : Frame) (x : Session) (ack : BitVec 32) (code : Byte),
    let ended := fun (u : State) (c : Code) (i : Instr) => Next (exec i s) fun t => sessionOf t x.id = none ∧
      (∀ n, n ≠ x.id → sessionOf t n = sessionOf s n) ∧ Tbl.get .ok t.sluice.ends (slotIx x.id) = c ∧
      Tbl.get 0 t.sluice.gens (slotIx x.id) = (Tbl.get 0 s.sluice.gens (slotIx x.id) + 1) % (2 ^ 19 - 1) ∧
      (∀ q, (reqOf s q).session = x.id → ((reqOf s q).st = .prefill ∨ (reqOf s q).st = .decode) →
        reqOf t q = { reqOf s q with cancel := true
                                     cancelAtPark := (reqOf s q).cancelAtPark || ((reqOf s q).park && !(reqOf s q).cancel) }) ∧
      (sessionReqs s x.id = [] → NoEffect u t)
    let closes := fun (flags : Nat) => Delivers s f x 2 flags ack (code :: List.replicate 7 0)
    (closes 0 → x.ending = none → ended s ((Code.ofNum code.toNat).getD .protocol) (.close f)) ∧
    (∀ c, closes 1 → x.closing = some c → ended s c (.close f)) ∧
    (closes 1 → x.closing = none → Next (exec (.close f) s) fun t => NoEffect s t ∧
      Tbl.get 0 (portOf t x.port).cnt 8 = bump (Tbl.get 0 (portOf s x.port).cnt 8)) ∧
    (∀ c e, sessionOf s x.id = some x → x.closing = some c → x.closeAt = some e →
      ended (advanceTo s (e + 10000000)) c (.closeTimeout x.id)) ∧
    (sessionOf s x.id = some x → (x.closing = none ∨ x.closeAt = none) → exec (.closeTimeout x.id) s = .next s) ∧
    (sessionOf s x.id = none → exec (.closeTimeout x.id) s = .next s)) ∧
  (∀ (s : State) (f : Frame) (x : Session) (ack : BitVec 32) (q : BitVec 16),
    let r := reqOf s q.toNat
    let status := fun (what : Byte) (code : Code) (data : List Byte) =>
      Delivers s f x 0x15 0 ack ([what, 0] ++ leBytes 2 q.toNat ++ [0, 0, 0, 0]) → Next (exec (.status f) s) fun t => NoEffect s t ∧
        Replied s t f x 0x15 1 ([what, BitVec.ofNat 8 code.num] ++ leBytes 2 q.toNat ++ [0, 0, 0, 0] ++ slice data 0 32)
    status 0 .ok (leBytes 8 s.glb.time ++ [BitVec.ofNat 8 s.glb.st.num, BitVec.ofNat 8 (grade s), if Config.steppingB0 then 2 else 1]) ∧
    (q.toNat < 32768 → r.st ≠ .free → r.session = x.id → status 1 .ok ([BitVec.ofNat 8 r.st.num, BitVec.ofNat 8 r.code.num, 0, 0]
      ++ leBytes 4 r.curlen ++ leBytes 4 r.outcur ++ leBytes 4 r.maxlen ++ leBytes 8 r.parkexp)) ∧
    ((32768 ≤ q.toNat ∨ r.st = .free ∨ r.session ≠ x.id) → status 1 .state []) ∧
    status 2 .ok (leBytes 4 x.txSeq.toNat ++ [0, 0, 0, 0] ++ leBytes 4 x.viol ++ leBytes 4 (quarLeft s x))) ∧
  ∀ (s : State) (f : Frame) (x : Session) (ack : BitVec 32) (b : List Byte), Delivers s f x 0x3F 0 ack b →
    b.length = 24 → zeros b 2 4 = true → zeros b 12 16 = true →
    Next (exec (.error f) s) fun t => NoEffect s t ∧ Received t f x ∧
      (portOf t x.port).vtotal = bumpW 32 (portOf s x.port).vtotal ∧
      num (Tbl.get [] (portOf t x.port).vlog (portOf s x.port).vnext) 8 1 = num b 0 1

/-- Tier 2. OPEN (R362, R363), whose form is right: with the key of a present realm that verifies its signature, for the role asked, it
opens a session in the lowest free slot of the port's unit, with sequence numbers from 1; otherwise it is answered with an untagged
ERROR AUTH and opens none. One that repeats the source and the PNONCE of an OPEN answered within the last second gets the same answer
again and opens none. No request changes. In which order the form and the keys are checked, and when an OPEN repeats another, is the
model's choice (log entry 67). CLOSE, CLOSE_TIMEOUT, STATUS and ERROR (R364, R373, R375, R378): a CLOSE is answered and ends the session
with its code; so do, with the code of the device's own CLOSE, the reply to it and the 10 ms after it; what the session's requests in a
step do is marked as cancelled. A reply to no CLOSE is a violation. STATUS answers with the device, a request that the session owns, or
the session; an ERROR from the partner is logged with its CODE, a reserved one too, and that is all. -/
def Obligations.GmlOpenCloseStatus : Prop := GmlOpenHolds ∧ GmlCloseStatusErrorHolds

/-- The class, its serving mill and the mill's record, as rows 1 to 5 of R288 want them. -/
def Serves (s : State) (x : Session) (img cls : Nat) (k : ClassRec) (r : ServeRec) : Prop :=
  img < 64 ∧ (slotOf s img).st = .loaded ∧ (slotOf s img).realm = x.realm ∧ classOf s img cls = some k ∧
  serveOf s k.serveMill = some r ∧ r.unit = x.port / 4 ∧ millState s k.serveMill ≠ .fenced ∧ millState s k.serveMill ≠ .failed ∧
  millState s k.serveMill ≠ .halted ∧ (poolOf s k.serveMill).pages ≠ 0 ∧ (poolOf s k.serveMill).vocab ≠ 0

/-- The body of a SUBMIT in one message, with its `p` tokens, padded (R370). -/
def SubmitForm (b : List Byte) (p : Nat) : Prop :=
  num b 40 4 = p ∧ num b 12 4 = p ∧ b.length = roundUp (64 + 4 * p) 8 ∧ zeros b (64 + 4 * p) b.length = true ∧ num b 2 1 < 2 ∧
  zeros b 3 4 = true ∧ zeros b 10 12 = true

/-- Tier 2. SUBMIT in one message (R288, R371, R372): when every check holds, the lowest FREE entry of the unit is ADMITTED with the fields of
the SUBMIT, which is answered with the entry (CURLEN 0 and OUTCUR P at admission are the model's reading, log entry 31); with no prompt or nothing to generate it is answered as done and takes no entry; an image,
class, mill, count, token or deadline that does not fit, and a unit without a FREE entry, is refused with its code. -/
def Obligations.GmlSubmit : Prop :=
  ∀ (s : State) (f : Frame) (x : Session) (ack : BitVec 32) (b : List Byte) (p g : Nat), Delivers s f x 0x10 0 ack b →
    SubmitForm b p → num b 44 4 = g → s.bst.shut = .none → stagedOn s (x.port / 4) + p ≤ 4194304 →
    let img := num b 0 1
    let cls := num b 1 1
    let toks := tokensIn b 64 p
    let refused := fun (code : Code) => Next (exec (.submit f) s) fun t => Refused s t f x code
    (((slotOf s img).st ≠ .loaded ∨ 64 ≤ img ∨ (slotOf s img).realm ≠ x.realm) → refused .state) ∧
    (img < 64 → (slotOf s img).st = .loaded → (slotOf s img).realm = x.realm →
      (classOf s img cls = none → refused .format) ∧
      (∀ k r, classOf s img cls = some k → serveOf s k.serveMill = some r →
        (r.unit ≠ x.port / 4 → refused .unsupported) ∧
        (r.unit = x.port / 4 →
          ((millState s k.serveMill = .fenced ∨ millState s k.serveMill = .failed) → refused .fenced) ∧
          (millState s k.serveMill = .halted → refused .halted)))) ∧
    (∀ k r, Serves s x img cls k r →
      let m := k.serveMill
      ((p = 0 ∨ g = 0) → Next (exec (.submit f) s) fun t => t.pond = s.pond ∧ t.mem = s.mem ∧
        ∃ body, Replied s t f x 0x11 0 body ∧ num body 0 8 = num b 32 8 ∧ num body 8 2 = 0xFFFF ∧ num body 24 1 = ReqSt.num .done) ∧
      (0 < p → 0 < g → g ≠ 0xFFFFFFFF → k.maxlen < p + g → refused .length) ∧
      (0 < p → 0 < g → g ≠ 0xFFFFFFFF → p + g ≤ k.maxlen →
        ((∃ u ∈ toks, (poolOf s m).vocab ≤ u.toNat) → refused .format) ∧
        ((∀ u ∈ toks, u.toNat < (poolOf s m).vocab) → (tempMag (num b 4 2)).isSome = true → num b 6 2 ≤ 256 →
          (num b 16 8 < s.glb.time → refused .deadline) ∧
          (s.glb.time ≤ num b 16 8 →
            (freeEntry s (x.port / 4) = none → refused (if k.onfull = 2 then .capacity else .busy)) ∧
            ∀ q, freeEntry s (x.port / 4) = some q → Next (exec (.submit f) s) fun t =>
              reqOf t q = { st := .admitted, realm := x.realm, prio := k.prio, cls := cls, img := img, mill := m, deadline := num b 16 8
                            enq := s.glb.time, maxlen := p + g, sublen := p, session := x.id, outcur := p
                            seed := BitVec.ofNat 64 (num b 24 8), greedy := decide (num b 2 1 = 1), temp := BitVec.ofNat 16 (num b 4 2)
                            topk := BitVec.ofNat 16 (num b 6 2), topp := BitVec.ofNat 16 (num b 8 2), stop := tokensIn b 48 4
                            tag := BitVec.ofNat 64 (num b 32 8), tokens := toks, lookup := true, firstLen := p, rseq := x.rxSeq
                            draft := (reqOf t q).draft } ∧
              (∀ j, j ≠ q → reqOf t j = reqOf s j) ∧ t.mem = s.mem ∧ t.mills = s.mills ∧ t.cores = s.cores ∧
              Replied s t f x 0x10 1 (leBytes 8 (num b 32 8) ++ leBytes 2 q ++ List.replicate 6 0)))))

/-- CANCEL and PARK (R299, R309-R311, R313): a CANCEL of a request that the session owns ends it at once while it is ADMITTED or PARKED,
and is kept pending while it may be in a step; a PARK of a request in DECODE takes the first range with room, or is refused with
CAPACITY; one of a request whose restore step is still to come waits for that step (the model's choice, log entry 68); any other is refused
with STATE, and an all-ones time to live with LENGTH. -/
def GmlCancelAndParkHolds : Prop :=
  ∀ (s : State) (f : Frame) (x : Session) (ack : BitVec 32) (q : BitVec 16),
    let n := q.toNat
    let r := reqOf s n
    let mine := n < 32768 ∧ r.st ≠ .free ∧ r.session = x.id
    (Delivers s f x 0x12 0 ack (leBytes 2 n ++ List.replicate 6 0) →
      ((¬ mine ∨ r.st = .done ∨ r.st = .expired ∨ r.st = .cancelled ∨ r.st = .failed) →
        Next (exec (.cancel f) s) fun t => Refused s t f x .state) ∧
      (mine → (r.st = .prefill ∨ r.st = .decode) → Next (exec (.cancel f) s) fun t => reqOf t n = { r with cancel := true, cancelAtPark := r.cancelAtPark || (r.park && !r.cancel) } ∧
        (∀ j, j ≠ n → reqOf t j = reqOf s j) ∧ t.mem = s.mem ∧ t.pond.pools = s.pond.pools ∧ Received t f x) ∧
      (mine → (r.st = .admitted ∨ r.st = .parked) → Next (exec (.cancel f) s) fun t => (reqOf t n).st = .cancelled ∧
        (reqOf t n).code = .ok ∧ (reqOf t n).pages = [] ∧ (reqOf t n).resv = 0 ∧ ∀ j, j ≠ n → reqOf t j = reqOf s j)) ∧
    ∀ (own : Bool) (secs : BitVec 32), Delivers s f x 0x13 0 ack (leBytes 2 n ++ [BitVec.ofNat 8 (bnat own), 0] ++ leBytes 4 secs.toNat) →
      ((¬ mine ∨ r.st ≠ .decode ∨ r.park = true) → Next (exec (.gmlPark f) s) fun t => Refused s t f x .state) ∧
      (∀ k, mine → r.st = .decode → r.park = false → classOf s r.img r.cls = some k →
        let ttl := if own then secs.toNat else k.ttl
        let sum := k.parkmode == 1 || (k.parkmode == 2 && decide (k.parkthresh < r.pages.length))
        (ttl = 0xFFFFFFFF → Next (exec (.gmlPark f) s) fun t => Refused s t f x .length) ∧
        (ttl ≠ 0xFFFFFFFF → r.restore = true → Next (exec (.gmlPark f) s) fun t =>
          reqOf t n = { r with park := true, ttl := ttl, rseq := x.rxSeq } ∧ (∀ j, j ≠ n → reqOf t j = reqOf s j) ∧ t.mem = s.mem ∧
          Received t f x) ∧
        (ttl ≠ 0xFFFFFFFF → r.restore = false → parkSpace s r.mill (parkBytes s r sum) = none →
          Next (exec (.gmlPark f) s) fun t => Refused s t f x .capacity) ∧
        ∀ a, ttl ≠ 0xFFFFFFFF → r.restore = false → parkSpace s r.mill (parkBytes s r sum) = some a → Next (exec (.gmlPark f) s) fun t =>
          reqOf t n = { r with park := true, summary := sum, parkaddr := a, parklen := parkBytes s r sum, ttl := ttl
                               parkPages := r.pages.length, draft := (reqOf t n).draft } ∧
          (∀ j, j ≠ n → reqOf t j = reqOf s j) ∧ t.mem = s.mem ∧ Received t f x)

/-- RESUME in one message (R312): a request that is not PARKED in this realm and unit is refused with STATE; one that is, and whose
checks hold, takes its pages and goes on from its parked state with the tokens appended, in PREFILL while some are not ingested and else
in DECODE; a summary stands for the first SUMPOS positions, in place of those of an earlier summary; when the pages do not fit, it queues, or is refused with BUSY or CAPACITY, as its class says. MAXLEN is CURLEN + appended + new.
What the positions that a summary stands for hold is the model's reading (log entry 68). -/
def GmlResumeHolds : Prop :=
  ∀ (s : State) (f : Frame) (x : Session) (ack : BitVec 32) (b : List Byte) (na g : Nat), Delivers s f x 0x14 0 ack b →
    num b 4 4 = na → num b 12 4 = na → num b 8 4 = g → b.length = roundUp (32 + 4 * na) 8 →
    zeros b (32 + 4 * na) b.length = true → num b 2 1 < 4 → zeros b 3 4 = true → s.bst.shut = .none →
    stagedOn s (x.port / 4) + na ≤ 4194304 →
    let q := num b 0 2
    let r := reqOf s q
    let can := q < 32768 ∧ r.st = .parked ∧ r.realm = x.realm ∧ q / 8192 = x.port / 4 ∧ r.restore = false
    let extra := if r.summary then (poolOf s r.mill).sumpos else 0
    let before := if r.summary then r.lead else 0
    let maxlen := r.curlen + na + g
    let toks := tokensIn b 32 na
    let deadline := if num b 2 1 % 2 = 1 then num b 16 8 else r.deadline
    (¬ can → Next (exec (.resume f) s) fun t => Refused s t f x .state) ∧
    (∀ k v, can → Serves s x r.img r.cls k v → r.mill = k.serveMill → na ≠ 0xFFFFFFFF → g ≠ 0xFFFFFFFF → maxlen ≤ k.maxlen →
      (∀ u ∈ toks, u.toNat < (poolOf s r.mill).vocab) → s.glb.time ≤ deadline → pagesFor maxlen ≤ (poolOf s r.mill).pages →
      (pagesFor maxlen ≤ freePages (poolOf s r.mill) → Next (exec (.resume f) s) fun t =>
        (reqOf t q).tokens = List.replicate extra 0 ++ (r.tokens ++ toks).drop before ∧ (reqOf t q).curlen = r.curlen - before + extra ∧
        (reqOf t q).maxlen = maxlen ∧ (reqOf t q).deadline = deadline ∧ (reqOf t q).session = x.id ∧ (reqOf t q).restore = true ∧
        (reqOf t q).resv = pagesFor maxlen ∧
        (r.summary = false → (reqOf t q).st = if r.curlen < r.tokens.length + na then .prefill else .decode) ∧
        (r.summary = true → (reqOf t q).st = .prefill) ∧
        (poolOf t r.mill).reserved = (poolOf s r.mill).reserved + pagesFor maxlen ∧ (∀ j, j ≠ q → reqOf t j = reqOf s j) ∧
        t.mem = s.mem ∧ RepliedFirst s t f x 0x14 1 (leBytes 2 q ++ List.replicate 6 0)) ∧
      (freePages (poolOf s r.mill) < pagesFor maxlen → (poolOf s r.mill).pfxent = 0 →
        (k.onfull = 0 → Next (exec (.resume f) s) fun t => (reqOf t q).st = .parked ∧ (reqOf t q).restore = true ∧ t.mem = s.mem ∧
          RepliedFirst s t f x 0x14 1 (leBytes 2 q ++ List.replicate 6 0)) ∧
        (k.onfull ≠ 0 → Next (exec (.resume f) s) fun t => Refused s t f x (if k.onfull = 1 then .busy else .capacity))))

/-- Tier 2. CANCEL and PARK (R299, R309-R311, R313): a CANCEL of a request that the session owns ends it at once while it is ADMITTED or
PARKED, and is kept pending while it may be in a step; a PARK of a request in DECODE takes the first range with room, or is refused with
CAPACITY; one of a request whose restore step is still to come waits for that step (the model's choice, log entry 68); any other is
refused with STATE, and an all-ones time to live with LENGTH. RESUME in one message (R312): a request that is not PARKED in this realm
and unit is refused with STATE; one that is, and whose checks hold, takes its pages and goes on from its parked state with the tokens
appended, in PREFILL while some are not ingested and else in DECODE; a summary stands for the first SUMPOS positions, in place of those
of an earlier summary; when the pages do not fit, it queues, or is refused with BUSY or CAPACITY, as its class says. MAXLEN is CURLEN +
appended + new. What the positions that a summary stands for hold is the model's reading (log entry 68). -/
def Obligations.GmlCancelParkResume : Prop := GmlCancelAndParkHolds ∧ GmlResumeHolds

/-- Tier 2. FETCH replies (R274, R374): data that follow without a gap join the transfer they name; a code ends the loading of weights with it,
data out of place with PROTOCOL, and no reply for 100 ms with TIMEOUT, at the record being fetched; a reply that no FETCH of the session
awaits is refused (log entry 67), and a time-out of a transfer that is complete or unknown does nothing. -/
def Obligations.GmlFetch : Prop :=
  (∀ (s : State) (f : Frame) (x : Session) (ack : BitVec 32) (b : List Byte), Delivers s f x 0x20 1 ack b →
    let n := num b 16 4
    b.length = roundUp (24 + n) 8 → zeros b (24 + n) b.length = true → zeros b 5 8 = true → zeros b 20 24 = true →
    (n ≠ 0 ∨ num b 4 1 ≠ 0) →
    let awaited := s.hop.fetches.find? fun y => y.xid == num b 0 4 && decide (y.got.length < y.len)
    ((awaited = none ∨ s.hop.op ≠ .loadWeights ∨ (slotOf s s.hop.slot).session ≠ x.id) →
      Next (exec (.fetchReply f) s) fun t => Refused s t f x .state ∧ t.hop = s.hop) ∧
    (∀ y, s.hop.op = .loadWeights → (slotOf s s.hop.slot).session = x.id → awaited = some y →
      let stops := fun (code : Code) => Next (exec (.fetchReply f) s) fun t => t.hop.op = .idle ∧ t.hop.err = code ∧
        t.hop.record = y.index ∧ t.hop.fetches = [] ∧ t.hop.slots = s.hop.slots ∧ t.mem = s.mem
      (∀ code, code ≠ .ok → num b 4 1 = code.num → stops code) ∧
      (num b 4 1 = 0 → (num b 8 8 ≠ y.off + y.got.length ∨ y.len < y.got.length + n) → stops .protocol) ∧
      (num b 4 1 = 0 → num b 8 8 = y.off + y.got.length → y.got.length + n < y.len → Next (exec (.fetchReply f) s) fun t =>
        { y with got := y.got ++ slice b 24 n, since := s.glb.time } ∈ t.hop.fetches ∧ t.mem = s.mem ∧ t.hop.op = .loadWeights ∧
        t.hop.slots = s.hop.slots))) ∧
  ∀ (s : State) (xid : BitVec 32),
    (∀ y, (s.hop.fetches.find? fun y => y.xid == xid.toNat && decide (y.got.length < y.len)) = some y → s.hop.op = .loadWeights →
      Next (exec (.fetchTimeout xid) s) fun t => (timeRuns s = true → y.since + 100000000 ≤ t.glb.time) ∧ t.hop.op = .idle ∧
        t.hop.err = .timeout ∧ t.hop.record = y.index ∧ t.hop.fetches = [] ∧ t.hop.slots = s.hop.slots ∧ t.mem = s.mem) ∧
    ((s.hop.op ≠ .loadWeights ∨ ∀ y ∈ s.hop.fetches, y.xid = xid.toNat → y.len ≤ y.got.length) → exec (.fetchTimeout xid) s = .next s)

/-- Tier 2. The checks of a kept frame (R365, R376, R377): a message with a wrong tag is counted in SLU_BADTAG and logged with AUTH, and is
otherwise as if it had not come; a repeated message is acknowledged again and not delivered; one that leaves a gap of less than 64 is held
and reported with a NAK; a reserved field that is not 0 is a violation, answered with ERROR PROTOCOL and counted, and at VTHRESH the session
is QUARANTINED for QTIME, which is a cause of the port's vector (R429). On a QUARANTINED session such a message is still a violation, which the
count leaves out, and one that passes its checks is refused with QUARANTINED. A SEQ beyond the window is a violation too. A port that is off
takes no frame. -/
def Obligations.GmlFrameChecks : Prop :=
  (∀ (s : State) (f : Frame) (x : Session) (seq ack : BitVec 32) (body tag : List Byte),
    let msg := gmlHeader 0x12 0 x.id seq ack 0 body.length ++ body
    portTakes s f.port.val f.subB = true → keeps s f = true → sessionOf s x.id = some x → x.port = f.port.val → x.subB = f.subB →
    f.bytes = msg ++ tag → tag.length = 16 → body.length % 8 = 0 → body.length ≤ maxBody s f.port.val →
    kmac256 x.key msg 16 "GML-P2D" ≠ tag → Next (exec (.cancel f) s) fun t => NoEffect s t ∧ t.sluice.sessions = s.sluice.sessions ∧
      t.out = s.out ∧ Tbl.get 0 (portOf t x.port).cnt 7 = bump (Tbl.get 0 (portOf s x.port).cnt 7) ∧
      num (Tbl.get [] (portOf t x.port).vlog (portOf s x.port).vnext) 8 1 = Code.num .auth) ∧
  (∀ (s : State) (f : Frame) (x : Session) (seq ack : BitVec 32) (body : List Byte), Brings s f x 0x12 0 seq ack 0 body → x.unacked = [] →
    let d := (seq - x.rxSeq).toNat
    (2 ^ 31 ≤ d → Next (exec (.cancel f) s) fun t => NoEffect s t ∧ sessionOf t x.id = some { x with src := f.src, ackDue := none } ∧
      ∃ bs, t.out = s.out ++ [.gml x.port (senderOf s x.port x.subB) f.src bs] ∧ num bs 1 1 = 3) ∧
    (1 ≤ d → d ≤ 63 → x.held = [] → x.naks = [] → heldBytes s (x.port / 4) + 32 + body.length ≤ 4 * 2 ^ 20 →
      Next (exec (.cancel f) s) fun t => NoEffect s t ∧ (∃ y, sessionOf t x.id = some y ∧ y.rxSeq = x.rxSeq ∧
        y.held = [(seq, gmlHeader 0x12 0 x.id seq ack 0 body.length ++ body, f.src)] ∧
        y.naks = (List.range d).map fun i => (x.rxSeq + BitVec.ofNat 32 i, s.glb.time + rtoOf s x.port)) ∧
      ∃ bs, t.out = s.out ++ [.gml x.port (senderOf s x.port x.subB) f.src bs] ∧ num bs 1 1 = 4) ∧
    (63 < d → d < 2 ^ 31 → Next (exec (.cancel f) s) fun t => NoEffect s t ∧
      Tbl.get 0 (portOf t x.port).cnt 8 = bump (Tbl.get 0 (portOf s x.port).cnt 8))) ∧
  (∀ (s : State) (f : Frame) (x : Session) (ack : BitVec 32) (body : List Byte), Delivers s f x 0x12 16 ack body →
    x.violAt = none → let v := (portOf s x.port).viol
    (1 < bits v 0 16 ∨ bits v 40 24 ≠ 0) → Next (exec (.cancel f) s) fun t => NoEffect s t ∧
      Tbl.get 0 (portOf t x.port).cnt 8 = bump (Tbl.get 0 (portOf s x.port).cnt 8) ∧
      (∃ b, Replied s t f x 0x3F 0 b ∧ b.head? = some (BitVec.ofNat 8 (Code.num .protocol))) ∧
      ∃ y, sessionOf t x.id = some y ∧ y.viol = 1 ∧ y.violAt = some (s.glb.time + bits v 16 24 * 1000000) ∧ y.violSet = v ∧
        y.quarUntil = (if bits v 0 16 ≤ 1 then some (s.glb.time + bits v 40 24 * 1000000) else none) ∧
        (bits v 0 16 ≤ 1 → bit t.glb.stat (16 + x.port) = true)) ∧
  (∀ (s : State) (f : Frame) (x : Session) (ack : BitVec 32) (flags : Nat) (body : List Byte), Brings s f x 0x12 flags x.rxSeq ack 0 body →
    x.unacked = [] → x.held = [] → x.staged = none → quarantined s x = true →
    (flags = 16 → Next (exec (.cancel f) s) fun t => NoEffect s t ∧
      Tbl.get 0 (portOf t x.port).cnt 8 = bump (Tbl.get 0 (portOf s x.port).cnt 8) ∧
      (∃ b, Replied s t f x 0x3F 0 b ∧ b.head? = some (BitVec.ofNat 8 (Code.num .protocol))) ∧
      ∃ y, sessionOf t x.id = some y ∧ y.viol = x.viol ∧ y.quarUntil = x.quarUntil) ∧
    (∀ q : BitVec 16, flags = 0 → body = leBytes 2 q.toNat ++ List.replicate 6 0 → x.quarErrAt = none → Next (exec (.cancel f) s) fun t =>
      Refused s t f x .quarantined)) ∧
  ∀ (s : State) (f : Frame), portTakes s f.port.val f.subB = false →
    ∀ i ∈ [Instr.open_ f, .close f, .ack f, .nak f, .submit f, .cancel f, .gmlPark f, .resume f, .status f, .fetchReply f, .error f,
        .frameDiscard f], exec i s = .next s

/-- Session windows and Sluice ports (R354, R355, R357, R377, R381, R382, R385): at the end of the violation window, and of a quarantine,
the count returns to 0; a frame that the port does not keep is discarded and counted, whatever command brings it, and a frame of the precision
time service on port 0 is kept and counted and meets no other check; a lane without signal
takes its port or sub-port down, and lane 0 puts the receive domain on the local clock, until block lock; each change of clock counts a
stop, and each change of a port's link is a cause of its vector (R429); SLU_CFG is written whole, or not at all while an enabled port would change otherwise, and EN = 0 ends the port's sessions with LOST.
A port that is enabled is up at once by the model's choice, and the record of a port that goes down too (log entry 69); that a frame below 64 or
above 9,216 bytes is one that the port does not keep is another (log entry 67). -/
def GmlTimersAndPortsHolds : Prop :=
  (∀ (s : State) (x : Session), sessionOf s x.id = some x →
    (∀ e, x.violAt = some e → quarantined s x = false → Next (exec (.vwinExpiry x.id) s) fun t => NoEffect (advanceTo s e) t ∧
      (timeRuns s = true → t.glb.time = max s.glb.time e) ∧ sessionOf t x.id = some { x with viol := 0, violAt := none }) ∧
    ((x.violAt = none ∨ quarantined s x = true) → exec (.vwinExpiry x.id) s = .next s) ∧
    (∀ e, x.quarUntil = some e → Next (exec (.qtimeExpiry x.id) s) fun t => NoEffect (advanceTo s e) t ∧
      (timeRuns s = true → t.glb.time = max s.glb.time e) ∧
      sessionOf t x.id = some { x with viol := 0, violAt := none, quarUntil := none, quarSeq := none }) ∧
    (x.quarUntil = none → exec (.qtimeExpiry x.id) s = .next s)) ∧
  (∀ (s : State) (f : Frame), portTakes s f.port.val f.subB = true →
    ((9216 < frameSize f ∨ (frameSize f < 64 ∧ f.src.family = 0)) → keeps s f = false ∧ ptpFrame s f = false) ∧
    ((keeps s f = true ∨ ptpFrame s f = true) → exec (.frameDiscard f) s = .next s) ∧
    (ptpFrame s f = true → f.port = 0 ∧ bit (portOf s 0).cfg 8 = true ∧ ∀ i ∈ [Instr.open_ f, .close f, .ack f, .nak f, .submit f, .cancel f,
        .gmlPark f, .resume f, .status f, .fetchReply f, .error f], Next (exec i s) fun t =>
      t = { s with sluice := { s.sluice with ports := t.sluice.ports } } ∧ (∀ q, q ≠ 0 → portOf t q = portOf s q) ∧
      portOf t 0 = { portOf s 0 with cnt := (portOf t 0).cnt } ∧ ∀ k, k ≠ 4 → k ≠ 5 → Tbl.get 0 (portOf t 0).cnt k =
        if k = 0 then bump (Tbl.get 0 (portOf s 0).cnt 0) else Tbl.get 0 (portOf s 0).cnt k) ∧
    (keeps s f = false → ptpFrame s f = false → ∀ i ∈ [Instr.open_ f, .close f, .ack f, .nak f, .submit f, .cancel f, .gmlPark f, .resume f, .status f,
        .fetchReply f, .error f, .frameDiscard f], Next (exec i s) fun t =>
      let x := portOf s f.port.val
      t = { s with sluice := { s.sluice with ports := t.sluice.ports } } ∧ (∀ q, q ≠ f.port.val → portOf t q = portOf s q) ∧
      portOf t f.port.val = { x with cnt := (portOf t f.port.val).cnt } ∧ ∀ k, Tbl.get 0 (portOf t f.port.val).cnt k =
        let n := Tbl.get 0 x.cnt k
        let by' := fun (j : Nat) => if j = 0 then n else bumpBy n j
        if k = 4 then by' f.env.corrected else if k = 5 then by' f.env.uncorrectable
        else if k = (if f.env.fcs = true ∧ f.env.uncorrectable = 0 then 3 else 2) then bump n else n)) ∧
  (∀ (s : State) (p : Fin 16) (lane : Fin 8) (subB : Bool), let x := portOf s p
    let inB := bit x.cfg 1 && decide (4 ≤ lane.val)
    let b := bit x.cfg 1 && subB
    let lanes := laneMask (bit x.cfg 1) subB
    (millerUp s = true → bit x.cfg 0 = true → bit x.los lane = false → Next (exec (.lossOfSignal p lane) s) fun t => NoEffect s t ∧
      portOf t p = { x with los := x.los ||| BitVec.ofNat 8 (2 ^ lane.val), linkA := x.linkA && inB, linkB := x.linkB && !inB
                            localClk := x.localClk || decide (lane = 0) } ∧
      t.clk.stops = (if lane = 0 ∧ x.localClk = false then bump s.clk.stops else s.clk.stops) ∧
      ((if inB then x.linkB else x.linkA) = true → bit t.glb.stat (16 + p.val) = true ∧
        Logged s t fun r => r.cls = .link ∧ r.edgeid = 0x40 + p.val) ∧
      ∀ q, q ≠ p.val → portOf t q = portOf s q) ∧
    ((millerUp s = false ∨ bit x.cfg 0 = false ∨ bit x.los lane = true) → exec (.lossOfSignal p lane) s = .next s) ∧
    (millerUp s = true → bit x.cfg 0 = true → x.los &&& lanes ≠ 0 → Next (exec (.blockLock p subB) s) fun t => NoEffect s t ∧
      portOf t p = { x with los := x.los &&& ~~~lanes, linkA := x.linkA || !b, linkB := x.linkB || b, localClk := x.localClk && b } ∧
      t.clk.stops = (if x.localClk = true ∧ b = false then bump s.clk.stops else s.clk.stops) ∧
      ((if b then x.linkB else x.linkA) = false → bit t.glb.stat (16 + p.val) = true) ∧
      ∀ q, q ≠ p.val → portOf t q = portOf s q) ∧
    ((millerUp s = false ∨ bit x.cfg 0 = false ∨ x.los &&& lanes = 0) → exec (.blockLock p subB) s = .next s)) ∧
  ∀ (s : State) (p : Fin 16) (w : Word),
    let x := portOf s p
    let new := w &&& (if p.val = 0 then 0xFFFFFF else 0xFFFEFF)
    let good := bits new 2 2 ≠ 3 ∧ (bit new 7 = true → bits new 12 12 ≠ 0 ∧ bits new 12 12 ≠ 4095)
    let clash := bit x.cfg 0 = true ∧ (x.cfg ^^^ new) &&& 0xFFFFFE ≠ 0
    ((sluOpen s p = false ∨ ¬ good ∨ clash) → exec (.sluCfg p w) s = .next s) ∧
    (sluOpen s p = true → good → ¬ clash → Next (exec (.sluCfg p w) s) fun t => (∀ q, q ≠ p.val → portOf t q = portOf s q) ∧
      (bit x.cfg 0 = bit new 0 → NoEffect s t ∧ portOf t p = { x with cfg := new }) ∧
      (bit x.cfg 0 = false → bit new 0 = true → NoEffect s t ∧
        portOf t p = { x with cfg := new, linkA := true, linkB := bit new 1, los := 0, localClk := false } ∧
        (x.linkA = false → bit t.glb.stat (16 + p.val) = true)) ∧
      (bit x.cfg 0 = true → bit new 0 = false →
        portOf t p = { x with cfg := new, linkA := false, linkB := false, los := 0, localClk := false } ∧
        (x.linkA = true → bit t.glb.stat (16 + p.val) = true) ∧ (∀ y ∈ t.sluice.sessions, y.port ≠ p.val) ∧
        ∀ y ∈ s.sluice.sessions, y.port = p.val → Tbl.get .ok t.sluice.ends (slotIx y.id) = .lost))

/-- PTP_EVENT_MESSAGE (R379, R380): port 0 with PTP = 1 keeps the time-stamp of a Sync; when it knows when the Sync left its master, from
the Sync of a one-step master or from the Follow_Up of a two-step one, it sends a Delay_Req; the answer to that gives the offset of
GLB_TIME: with an image in a slot GLB_TIME slews, and more than 1 ms is reported; with every slot FREE a clock that is behind steps
forward, and never back. Anything else is counted and no more. How the clock is driven is the model's reading (log entry 97). -/
def PreciseTimeHolds : Prop :=
  ∀ (s : State) (frac : Fin 16) (q : BitVec 16),
    let on := portTakes s 0 false = true ∧ bit (portOf s 0).cfg 8 = true
    let now := 16 * s.glb.time + frac.val
    let p := s.sluice.ptp
    let noImage := s.hop.slots.all (fun y => decide (y.2.st = .free))
    let asks := fun (t : State) => t.sluice.ptp.req = some (p.seq, now) ∧ t.sluice.ptp.seq = p.seq + 1 ∧ t.out = s.out ++ [.delayReq p.seq]
    (¬ on → ∀ m, exec (.ptpEventMessage m frac) s = .next s) ∧
    (on → ∀ m, Next (exec (.ptpEventMessage m frac) s) fun t => NoEffect s t ∧ t.sluice.sessions = s.sluice.sessions ∧
      s.glb.time ≤ t.glb.time ∧ Tbl.get 0 (portOf t 0).cnt 0 = bump (Tbl.get 0 (portOf s 0).cnt 0)) ∧
    (on → ∀ origin,
      (Next (exec (.ptpEventMessage (.sync q true origin) frac) s) fun t => t.glb = s.glb ∧ t.out = s.out ∧
        t.sluice.ptp = { p with sync := some (q, now, none), req := none }) ∧
      (Next (exec (.ptpEventMessage (.sync q false origin) frac) s) fun t => t.glb = s.glb ∧ asks t ∧
        t.sluice.ptp.sync = some (q, now, some origin)) ∧
      ∀ at', p.sync = some (q, at', none) → Next (exec (.ptpEventMessage (.followUp q origin) frac) s) fun t => t.glb = s.glb ∧ asks t ∧
        t.sluice.ptp.sync = some (q, at', some origin)) ∧
    (on → ∀ (q' : BitVec 16) (t1 t2 t3 t4 : Nat), p.sync = some (q', t2, some t1) → p.req = some (q, t3) →
      let offset := (((t2 : Int) - t1) - ((t4 : Int) - t3)) / 2
      Next (exec (.ptpEventMessage (.delayResp q t4) frac) s) fun t => t.sluice.ptp.req = none ∧
        (noImage = true → offset < 0 → t.glb.time = s.glb.time + offset.natAbs / 16 ∧ t.sluice.ptp.slew = 0) ∧
        ((noImage = false ∨ 0 ≤ offset) → t.glb = s.glb ∧ t.sluice.ptp.slew = -offset * 10000 ∧
          t.out = if noImage = false ∧ 16000000 < offset.natAbs then s.out ++ [.offset offset] else s.out))

/-- Tier 2. Session windows and Sluice ports (R354, R355, R357, R377, R381, R382, R385): at the end of the violation window, and of a
quarantine, the count returns to 0; a frame that the port does not keep is discarded and counted, whatever command brings it, and a
frame of the precision time service on port 0 is kept and counted and meets no other check; a lane without signal takes its port or sub-
port down, and lane 0 puts the receive domain on the local clock, until block lock; each change of clock counts a stop, and each change
of a port's link is a cause of its vector (R429); SLU_CFG is written whole, or not at all while an enabled port would change otherwise,
and EN = 0 ends the port's sessions with LOST. A port that is enabled is up at once by the model's choice, and the record of a port that
goes down too (log entry 69); that a frame below 64 or above 9,216 bytes is one that the port does not keep is another (log entry 67).
PTP_EVENT_MESSAGE (R379, R380): port 0 with PTP = 1 keeps the time-stamp of a Sync; when it knows when the Sync left its master, from
the Sync of a one-step master or from the Follow_Up of a two-step one, it sends a Delay_Req; the answer to that gives the offset of
GLB_TIME: with an image in a slot GLB_TIME slews, and more than 1 ms is reported; with every slot FREE a clock that is behind steps
forward, and never back. Anything else is counted and no more. How the clock is driven is the model's reading (log entry 97). -/
def Obligations.GmlTimersAndPorts : Prop := GmlTimersAndPortsHolds ∧ PreciseTimeHolds

/-! ### The Millpond (08; 09) -/

/-- Request `q` is in a state that runs steps, and neither a step nor a batch holds it. -/
def Idles (s : State) (q : Nat) : Prop :=
  ((reqOf s q).st = .admitted ∨ (reqOf s q).st = .prefill ∨ (reqOf s q).st = .decode) ∧ busyReq s q = false

/-- The class of request `q`, which does not park it at its end. -/
def PlainClass (s : State) (q : Nat) (k : ClassRec) : Prop :=
  classOf s (reqOf s q).img (reqOf s q).cls = some k ∧ k.onend = 0 ∧ k.draft = 0 ∧ (reqOf s q).park = false

/-- Mill `m` is a serving mill with the record `r`, without a draft mill, with one anchor `c`, whose window LTWIN is open to the unit
both ways. -/
def ServesAt (s : State) (m c : Nat) (r : ServeRec) : Prop :=
  serveOf s m = some r ∧ r.role = 0 ∧ r.draftMill = m ∧ anchorsOf s m = [c] ∧ (millOf s m).dstate = .opened ∧
  (millOf s m).st ≠ .fenced ∧ (windowOf (coreOf s c) r.ltwin).opened = true ∧ (windowOf (coreOf s c) r.ltwin).dir = 3 ∧
  (windowOf (coreOf s c) r.ltwin).accum = false

/-- Route `rt` from router `a` to router `b` is open: it is not BLOCKED, and VDDN is on in every region of the path (R172, R193). -/
def RouteOpen (s : State) (rt : Route) (a b : Nat) : Prop :=
  rt.mode ≠ 0 ∧ ∀ x ∈ (routeNodes s a b rt).tail, vddnOn s x.region = true

/-- The way of a packet from router `a` to router `b` on plane `p` is open, by the entry that holds. -/
def WayOpen (s : State) (p : Plane) (a b : Nat) : Prop := RouteOpen s (routeOf s (a / 256) (b / 256) p) a b

/-- An access of edge block `n` on plane `p` reaches core `c`, which exists in the present shape, by the route that holds for new accesses
(R26, R187), and its RESPONSE comes back (R180). -/
def EdgeOpen (s : State) (n c : Nat) (p : Plane) : Prop :=
  let d := edgeDoor s n c p
  coreExists s c = true ∧ RouteOpen s (newRoute s (d / 256) (c / 256) p) d c ∧ WayOpen s .c c d

/-- No burst of the `n` bytes from `a` on is poisoned. -/
def Unpoisoned (s : State) (a n : Nat) : Prop := ∀ b ∈ s.poison, b + 64 ≤ a ∨ a + n ≤ b

/-- Tier 2. SCHEDULING_PASS (R290, R298, R299, R302, R303, R305) for the one request of a unit: past its deadline it is EXPIRED, with a CANCEL
pending it is CANCELLED, when no step holds it; one in DECODE that is ready, on a mill that may start a step, becomes the batch of that
mill, with its last token as the one new position, and the length table stands in LTWIN on the anchor. During a shut-down no batch forms. -/
def Obligations.SchedulingPass : Prop :=
  (∀ (s : State) (u : Fin 4) (q : Nat) (k : ClassRec), unitReqs s u = [q] → unitMills s u = [] → Idles s q → PlainClass s q k →
    (sessionOf s (reqOf s q).session).isSome = true →
    ((reqOf s q).deadline < s.glb.time → Next (exec (.schedulingPass u) s) fun t => (reqOf t q).st = .expired ∧
      (reqOf t q).code = .deadline ∧ (reqOf t q).pages = [] ∧ (∀ j, j ≠ q → reqOf t j = reqOf s j) ∧ t.mills = s.mills) ∧
    (s.glb.time ≤ (reqOf s q).deadline → (reqOf s q).cancel = true → (reqOf s q).cancelAtPark = false → Next (exec (.schedulingPass u) s) fun t =>
      (reqOf t q).st = .cancelled ∧ (reqOf t q).code = .ok ∧ (reqOf t q).pages = [] ∧ (∀ j, j ≠ q → reqOf t j = reqOf s j) ∧
      t.mills = s.mills)) ∧
  (∀ (s : State) (u : Fin 4) (m q c : Nat) (r : ServeRec) (k : ClassRec), unitReqs s u = [q] → unitMills s u = [m] → reqsOf s m = [q] →
    ServesAt s m c r → PlainClass s q k → Idles s q → s.bst.shut = .none → canStart s m = true → (batchOf s m).recs = [] → 1 ≤ r.maxbatch →
    let x := reqOf s q
    let w := ltRange s m c
    x.mill = m → x.st = .decode → x.restore = false → x.lookup = false → x.cancel = false → s.glb.time ≤ x.deadline → x.draft.ready = false →
    x.draft.proposal = false → x.draft.fixup = 0 → x.fresh = false → 1 ≤ x.curlen → x.curlen ≤ x.tokens.length → x.outcur = x.curlen →
    x.pages.length = pagesFor x.curlen → 288 ≤ w.2.2 → EdgeOpen s r.unit c .a →
    Unpoisoned s (coreAddr c w.1 w.2.1) 208 → Next (exec (.schedulingPass u) s) fun t =>
      let b := batchOf t m
      b.kind = 1 ∧ b.groups = [0] ∧ b.tokens = [x.tokens.getD (x.curlen - 1) 0] ∧ b.pagesAdded = [] ∧ b.resoff = 208 ∧ b.rung = false ∧
      b.recs = [{ req := q, flags := 1 + (if x.greedy then 32 else 0), epoch := (x.draft.epoch + 1) % 256, pos0 := x.curlen - 1, nnew := 1
                  dlen := 0, nadd := 0, addoff := 0, tokoff := 0, npages := x.pages.length, snaddr := 0 }] ∧
      readBytes t (coreAddr c w.1 w.2.1) (lengthTable t m).length = lengthTable t m ∧
      (∀ a, (a < coreAddr c w.1 w.2.1 ∨ coreAddr c w.1 w.2.1 + (lengthTable t m).length ≤ a) → readByte t a = readByte s a) ∧
      t.mills = s.mills ∧ ∀ j, j ≠ q → reqOf t j = reqOf s j) ∧
  (∀ (s : State) (u : Fin 4), unitReqs s u = [] → (unitMills s u = [] ∨ s.bst.shut ≠ .none) → exec (.schedulingPass u) s = .next s)

/-- Tier 2. PREFIX_LOOKUP (R284, R289, R293, R295, R296): an ADMITTED request takes the pages of the longest run of blocks that hit and
reserves the rest of what it may need; it is then in PREFILL from the first position that does not hit. A request that the pool could
never hold is refused with CAPACITY, one that does not fit now waits or is refused, as its class says (that
CURLEN then counts the positions that hit is log entry 31). -/
def Obligations.PrefixLookup : Prop :=
  (∀ (s : State) (q : ReqId) (k : ClassRec) (x : Session),
    let r := reqOf s q
    let p := poolOf s r.mill
    let is := if p.pfxent = 0 then [] else pfxRun s r.mill [] noEntry (reqHashes s r)
    let want := pagesFor r.maxlen - is.length
    r.st = .admitted → r.lookup = true → classOf s r.img r.cls = some k → sessionOf s r.session = some x → x.unacked.length < 64 →
    r.shared = 0 → r.entries = [] → r.pages = [] →
    (∀ ups, ups = [] ∨ p.pfxent = 0 → want ≤ p.pages - is.length → want ≤ freePages p → Next (exec (.prefixLookup ⟨q, ups⟩) s) fun t =>
      (reqOf t q).st = .prefill ∧ (reqOf t q).lookup = false ∧ (reqOf t q).entries = is ∧ (reqOf t q).shared = is.length ∧
      (reqOf t q).curlen = 64 * is.length ∧ (reqOf t q).computed = 64 * is.length ∧ (reqOf t q).resv = want ∧
      (poolOf t r.mill).reserved = p.reserved + want ∧ (∀ j, j ≠ q.val → reqOf t j = reqOf s j) ∧ (is = [] → t.mem = s.mem)) ∧
    (p.pfxent = 0 → p.pages < pagesFor r.maxlen → ∀ ups, Next (exec (.prefixLookup ⟨q, ups⟩) s) fun t => reqOf t q = {} ∧ t.mem = s.mem ∧
      ∃ y m, sessionOf t r.session = some y ∧ m ∈ y.unacked ∧ m.type = 0x3F ∧ m.body.head? = some (BitVec.ofNat 8 (Code.num .capacity))) ∧
    (p.pfxent = 0 → pagesFor r.maxlen ≤ p.pages → freePages p < pagesFor r.maxlen →
      (k.onfull = 0 → ∀ ups, Next (exec (.prefixLookup ⟨q, ups⟩) s) fun t => reqOf t q = { r with lookup := false } ∧ t.mem = s.mem ∧
        poolOf t r.mill = p) ∧
      (k.onfull ≠ 0 → ∀ ups, Next (exec (.prefixLookup ⟨q, ups⟩) s) fun t => reqOf t q = {} ∧ t.mem = s.mem))) ∧
  ∀ (s : State) (q : ReqId), ((reqOf s q).st ≠ .admitted ∨ (reqOf s q).lookup = false) → ∀ ups, exec (.prefixLookup ⟨q, ups⟩) s = .next s

/-- STEP_RING and PARK_EXPIRY (R305, R313): the unit starts the step of its mill with the batch that waits, by the entry of its kind,
and its requests are in the step; a batch already rung, none, or a mill that cannot start, does nothing. At the end of its time to live a
parked request's entry is FREE; a RESUME recognised in the same cycle is taken and counted. -/
def StepRingAndParkExpiryHolds : Prop :=
  (∀ (s : State) (m : MillId) (r : ServeRec), serveOf s m = some r →
    let b := batchOf s m
    (b.recs ≠ [] → b.rung = false → canStart s m = true → s.bst.shut = .none → Next (exec (.stepRing m) s) fun t =>
      millOf t m = { millOf s m with
        st := .running, inStep := true, f := 0, reset2 := false, ended := [], startAt := some (s.glb.time + 32)
        entry := if b.kind = 0 then r.entries.1 else if b.kind = 1 then r.entries.2.1 else r.entries.2.2
        arg := BitVec.ofNat 32 (b.recs.length + at_ 16 b.groups.length + at_ 24 b.kind) } ∧
      batchOf t m = { b with rung := true } ∧ t.mem = s.mem ∧ t.cores = s.cores ∧ (∀ k, k ≠ m.val → millOf t k = millOf s k) ∧
      (r.role ≠ 1 → ∀ x ∈ b.recs, (reqOf t x.req).instep = true) ∧
      (r.role = 1 → ∀ x ∈ b.recs, (reqOf t x.req).draft.dstep = true) ∧
      ∀ q, (∀ x ∈ b.recs, x.req ≠ q) → reqOf t q = reqOf s q) ∧
    ((b.recs = [] ∨ b.rung = true ∨ canStart s m = false ∨ s.bst.shut ≠ .none) → exec (.stepRing m) s = .next s)) ∧
  ∀ (s : State) (q : ReqId),
    ((reqOf s q).st = .parked →
      (Next (exec (.parkExpiry q false) s) fun t => reqOf t q = {} ∧ t.mem = s.mem ∧ (∀ j, j ≠ q.val → reqOf t j = reqOf s j) ∧
        (timeRuns s = true → t.glb.time = max s.glb.time (reqOf s q).parkexp)) ∧
      Next (exec (.parkExpiry q true) s) fun t => t.pond.reqs = s.pond.reqs ∧ t.mem = s.mem ∧
        Tbl.get 0 (unitOf t (q.val / 8192)).cnt 14 = bump (Tbl.get 0 (unitOf s (q.val / 8192)).cnt 14)) ∧
    ((reqOf s q).st ≠ .parked → ∀ b, exec (.parkExpiry q b) s = .next s)

/-- COMMIT (R298, R304-R306) of a DECODE step that carried one request and has retired: the token of its result joins the request,
which goes on, or is DONE by a stop token or at its full length; a result that R306 calls malformed fails it with FORMAT, and a deadline
that has passed expires it and discards the token. A read of the results that is refused fails the batch with its code by the model's
choice (log entry 88). A step that has not retired commits nothing. -/
def CommitHolds : Prop :=
  (∀ (s : State) (m : MillId) (q c : Nat) (r : ServeRec) (k : ClassRec) (x : LtRec) (y : Session) (tok : BitVec 32),
    let b := batchOf s m
    let v := reqOf s q
    let w := ltRange s m c
    let a := coreAddr c w.1 (w.2.1 + b.resoff)
    let base := x.pos0 + x.nnew
    let d := edgeDoor s r.unit c .k
    ServesAt s m c r → b.rung = true → b.retired = true → b.kind = 1 → b.recs = [x] → x.req = q → x.dlen = 0 → (x.flags = 1 ∨ x.flags = 33) →
    b.resoff + 80 ≤ w.2.2 → PlainClass s q k → v.st = .decode → v.instep = true → v.cancel = false → v.mill = m →
    sessionOf s v.session = some y → y.unacked = [] → v.outcur = base → v.skips = [] → base < v.maxlen →
    base ≤ v.tokens.length →
    (((newRoute s (d / 256) (c / 256) .k).mode = 0 ∨ coreExists s c = false) → ∀ ups, Next (exec (.commit m ups) s) fun t => batchOf t m = {} ∧
      (reqOf t q).st = .failed ∧ (reqOf t q).code = .window ∧ (reqOf t q).tokens = v.tokens ∧ ∀ j, j ≠ q → reqOf t j = reqOf s j) ∧
    (EdgeOpen s r.unit c .k → WayOpen s .k c d → Unpoisoned s a 80 → num (readBytes s a 80) 0 2 = q → num (readBytes s a 80) 8 4 = tok.toNat →
    (num (readBytes s a 80) 2 1 = 1 → b.time ≤ v.deadline → Next (exec (.commit m []) s) fun t => batchOf t m = {} ∧
      (reqOf t q).instep = false ∧ (reqOf t q).tokens = v.tokens.take base ++ [tok] ∧ (reqOf t q).curlen = base + 1 ∧
      (reqOf t q).computed = base ∧ (reqOf t q).outcur = base + 1 ∧ (∀ j, j ≠ q → reqOf t j = reqOf s j) ∧ t.mills = s.mills ∧
      (let ends := (v.stop.contains tok && tok != 0xFFFFFFFF) || decide (base + 1 = v.maxlen)
       (reqOf t q).st = (if ends then .done else .decode) ∧ (ends = false → t.mem = s.mem) ∧
       (ends = true → (reqOf t q).code = .ok ∧ (reqOf t q).pages = [])) ∧
      ∃ z u, sessionOf t v.session = some z ∧ z.unacked = [u] ∧ u.type = 0x11 ∧ num u.body 12 4 = 1 ∧ num u.body 40 4 = tok.toNat) ∧
    (num (readBytes s a 80) 2 1 ≠ 1 → b.time ≤ v.deadline → Next (exec (.commit m []) s) fun t => batchOf t m = {} ∧
      (reqOf t q).st = .failed ∧ (reqOf t q).code = .format ∧ (reqOf t q).tokens = v.tokens ∧ ∀ j, j ≠ q → reqOf t j = reqOf s j) ∧
    (v.deadline < b.time → Next (exec (.commit m []) s) fun t => batchOf t m = {} ∧ (reqOf t q).st = .expired ∧
      (reqOf t q).code = .deadline ∧ (reqOf t q).tokens = v.tokens ∧ ∀ j, j ≠ q → reqOf t j = reqOf s j))) ∧
  ∀ (s : State) (m : MillId) (ups : List Upset), ((batchOf s m).rung = false ∨ (batchOf s m).retired = false) →
    exec (.commit m ups) s = .next s

/-- Tier 2. STEP_RING and PARK_EXPIRY (R305, R313): the unit starts the step of its mill with the batch that waits, by the entry of its
kind, and its requests are in the step; a batch already rung, none, or a mill that cannot start, does nothing. At the end of its time to
live a parked request's entry is FREE; a RESUME recognised in the same cycle is taken and counted. COMMIT (R298, R304-R306) of a DECODE
step that carried one request and has retired: the token of its result joins the request, which goes on, or is DONE by a stop token or
at its full length; a result that R306 calls malformed fails it with FORMAT, and a deadline that has passed expires it and discards the
token. A read of the results that is refused fails the batch with its code by the model's choice (log entry 88). A step that has not
retired commits nothing. -/
def Obligations.StepRingAndCommit : Prop := StepRingAndParkExpiryHolds ∧ CommitHolds

/-! ### Tailrace links (10) -/

/-- The window of queue `x` of link `l` takes an access of `n` bytes of its controller at `dest`, the way there and back is open, and neither the
step owner withholds credits nor do messages wait for them (R151, R158, R392). -/
def QueueTakes (s : State) (l : Nat) (x : LQueue) (dest n : Nat) : Prop :=
  let c := bits x.rx 34 14
  let w := windowOf (coreOf s c) (bits x.rx 52 4)
  let r := windowRange (coreOf s c) w
  0 < n ∧ x.en = true ∧ x.rx ≠ 0 ∧ w.opened = true ∧ w.dir = 3 ∧ w.accum = false ∧ w.epoch = bits x.rx 56 8 ∧
  fld dest 30 4 = r.1 ∧ r.2.1 ≤ fld dest 0 30 ∧ fld dest 0 30 + n ≤ r.2.1 + r.2.2 ∧
  (regionOf s (c / 256)).org.realm.map (·.val) = some (linkOf s l).realm ∧ EdgeOpen s (linkEdge l) c .k ∧
  Unpoisoned s dest n ∧ x.inbox = [] ∧
  ∃ m, ownerOf s c = some m ∧ (millOf s m).dstate = .opened ∧ (millOf s m).st ≠ .fenced ∧ (millOf s m).st ≠ .restart

/-- The destination of queue `x` withholds its credits: its step owner is in RESTART (R158, R188). -/
def Withheld (s : State) (x : LQueue) : Prop := ∃ m, ownerOf s (bits x.rx 34 14) = some m ∧ (millOf s m).st = .restart

/-- No way leads from the controller of link `l` to the core of queue `x`, which no RESTART holds: every entry is BLOCKED (R172), or the present
shape has no such core (R26). -/
def Unreached (s : State) (l : Nat) (x : LQueue) : Prop :=
  let c := bits x.rx 34 14
  ¬ Withheld s x ∧ x.inbox = [] ∧ ((newRoute s (edgeDoor s (linkEdge l) c .k / 256) (c / 256) .k).mode = 0 ∨ coreExists s c = false)

/-- Every byte outside the `n` bytes from `a` on reads as before. -/
def OnlyBytes (a n : Nat) (s t : State) : Prop := ∀ b, (b < a ∨ a + n ≤ b) → readByte t b = readByte s b

/-- Link `l` has nothing to send: no message waits, no credit is owed, and the header of the next flit says nothing new. -/
def Quiet (s : State) (l : Nat) : Prop :=
  let x := linkOf s l
  x.cfgDue = false ∧ x.nakDue = false ∧ x.ackDue = false ∧ ∀ q ∈ x.queues, q.2.sendq = [] ∧ q.2.owe = 0

/-- The codeword of flit `h` with these fields of its header (R388). -/
def flitWord (h : TxFlit) (ack : Nat) (nak : Bool) (cq cred : Nat) : List Byte :=
  let b := flitBytes h ack nak cq cred
  b ++ leBytes 16 (Config.flitParity b).toNat

/-- An IDLE flit as it leaves: what its header says (R388). -/
def idleWord (ack : Nat) (nak : Bool) (cq cred : Nat) : List Byte :=
  flitWord { type := 0, seq := 0, queue := 0, som := false, eom := false, mseq := 0, payload := [] } ack nak cq cred

/-- What link `l` sends again: every flit that is not acknowledged, with the present acknowledgement (R389). -/
def resent (s : State) (l : Nat) : List Out := (linkOf s l).replay.map fun h => .flit l (flitWord h (linkOf s l).rxSeq false 0 0)

/-- The flits of a link that has nothing to send (R388-R390, R392). IDLE: the header gives credits to the queue it names, up to
65,535; an ACK lets go the flits before it, and the last flit of a message sets TXACKED; a NAK has all that is left sent again, and after 8
replays the link retrains. DATA as awaited: it is acknowledged, and a message of one flit stands in slot count mod NSLOT of the window with
its length and number, or waits while the destination withholds its credits; one for a queue that is not enabled, or whose LEN is not 1 to 240, is discarded with a record. QCFG sets what the
far end advertises. A flit that is not as awaited, or is discarded by its check, is reported with NAK once. When IDLE flits leave, and the
records, are the model's choices (log entries 54 and 98). -/
def TailraceFlitsHolds : Prop :=
  ∀ (s : State) (l : Fin 8) (f : Flit),
    let x := linkOf s l
    let next := (x.rxSeq + 1) % 4096
    let missed := fun (t : State) => t.out = if x.skipping then s.out else s.out ++ [.flit l (idleWord x.rxSeq true 0 0)]
    (x.up = false → ∀ ups c, ∀ i ∈ [Instr.idle l f, .data l f ups, .qcfg l f, .flitDiscard l (.crc c), .flitDiscard l .uncorrectable],
      exec i s = .next s) ∧
    (x.up = true → Quiet s l →
      (f.nak = false → f.cred ≠ 0 → x.replay = [] → Next (exec (.idle l f) s) fun t => t = { s with links := t.links } ∧
        queueOf t l f.cq = { queueOf s l f.cq with credit := min ((queueOf s l f.cq).credit + f.cred.toNat) 65535 } ∧
        (∀ k, k ≠ f.cq.val → queueOf t l k = queueOf s l k) ∧ ∀ k, k ≠ l.val → linkOf t k = linkOf s k) ∧
      (∀ h rest, f.nak = false → f.cred = 0 → x.replay = h :: rest → f.ack.toNat = (h.seq + 1) % 4096 → h.seq < 4096 → h.type = 1 →
        h.eom = true → Next (exec (.idle l f) s) fun t => t = { s with links := t.links } ∧ (linkOf t l).replay = rest ∧
          (linkOf t l).replays = 0 ∧ (linkOf t l).ackAt = s.glb.time ∧ (queueOf t l h.queue).txacked = h.mseq) ∧
      (∀ h rest, f.nak = true → f.cred = 0 → x.replay = h :: rest → f.ack.toNat = h.seq → h.seq < 4096 → Next (exec (.idle l f) s) fun t =>
        NoEffect s t ∧ (linkOf t l).replay = x.replay ∧
        (x.replays < 8 → (linkOf t l).up = true ∧ (linkOf t l).replays = x.replays + 1 ∧ t.out = s.out ++ resent s l) ∧
        (8 ≤ x.replays → (linkOf t l).up = false ∧ (linkOf t l).training = true ∧ (linkOf t l).trainAt = s.glb.time)) ∧
      (f.nak = false → f.cred = 0 → x.replay = [] →
        let q := queueOf s l f.queue
        let k := f.len.toNat
        let taken := fun (t : State) => (linkOf t l).rxSeq = next ∧ (linkOf t l).skipping = false ∧
          t.out.getLast? = some (.flit l (idleWord next false 0 0))
        (f.seq.toNat = x.rxSeq →
          ((q.en = false ∨ q.rx = 0) → ∀ ups, Next (exec (.data l f ups) s) fun t => NoEffect s t ∧ taken t ∧
            Logged s t fun r => r.code = .fenced ∧ r.cls = .link ∧ r.edgeid = 0x50 + l.val) ∧
          (q.en = true → q.rx ≠ 0 → (k = 0 ∨ 240 < k) → ∀ ups, Next (exec (.data l f ups) s) fun t => NoEffect s t ∧ taken t ∧
            queueOf t l f.queue = { q with partialMsg := none } ∧
            Logged s t fun r => r.code = .format ∧ r.cls = .link ∧ r.edgeid = 0x50 + l.val) ∧
          (q.en = true → q.rx ≠ 0 → 0 < k → k ≤ 240 → f.som = true → f.eom = false → 64 + k ≤ q.slotb * 64 → ∀ ups,
            Next (exec (.data l f ups) s) fun t => NoEffect s t ∧ taken t ∧
              queueOf t l f.queue = { q with partialMsg := some (slice f.payload 0 k) }) ∧
          (let n := q.prod.toNat + q.toPublish
           let dest := bits q.rx 0 52 + 64 + n % q.nslot * (q.slotb * 64)
           QueueTakes s l q dest (64 + k) → 0 < k → k ≤ 240 → f.som = true → f.eom = true → 64 + k ≤ q.slotb * 64 →
           Next (exec (.data l f []) s) fun t => taken t ∧
             readNum t dest 4 = k ∧ readNum t (dest + 4) 4 = n % 2 ^ 32 ∧ readBytes t (dest + 64) k = slice f.payload 0 k ∧
             OnlyBytes dest (64 + k) s t ∧ t.mills = s.mills ∧ t.cores = s.cores ∧
             queueOf t l f.queue = { q with partialMsg := none, toPublish := q.toPublish + 1, held := q.held + 1 }) ∧
          (q.en = true → q.rx ≠ 0 → Withheld s q → 0 < k → k ≤ 240 → f.som = true → f.eom = true → 64 + k ≤ q.slotb * 64 → ∀ ups,
            Next (exec (.data l f ups) s) fun t => NoEffect s t ∧ taken t ∧
              queueOf t l f.queue = { q with partialMsg := none, inbox := q.inbox ++ [slice f.payload 0 k] }) ∧
          Next (exec (.qcfg l f) s) fun t => t = { s with links := t.links, out := t.out } ∧ taken t ∧ ∀ k < 16,
            let en := num f.payload (8 * k) 1 % 2 = 1
            queueOf t l k = { queueOf s l k with
              farEn := decide en, farSlotb := num f.payload (8 * k + 2) 2, credit := if en then (queueOf s l k).credit else 0 }) ∧
        (f.seq.toNat ≠ x.rxSeq → ∀ ups, ∀ i ∈ [Instr.data l f ups, .qcfg l f], Next (exec i s) fun t => NoEffect s t ∧
          linkOf t l = { x with skipping := true, cnt := (linkOf t l).cnt } ∧ missed t)) ∧
      ∀ why, Next (exec (.flitDiscard l why) s) fun t => NoEffect s t ∧
        linkOf t l = { x with skipping := true, cnt := (linkOf t l).cnt } ∧ missed t ∧
        (∀ i, Tbl.get 0 (linkOf t l).cnt i = let n := Tbl.get 0 x.cnt i
          if why = .uncorrectable ∧ i = 3 ∨ (∃ c, why = .crc c) ∧ i = 4 ∨ why = .crc true ∧ i = 2 then bump n else n))

/-- The timers and the training of a link (R387, R389, R394): the replay timer, 2 us after ACK last advanced, has all that is
unacknowledged sent again, or counts an advance of ACK in the same cycle; training that ends brings the link up; a training anew that takes
50 ms makes it LOST, with a record and with messages under reception gone. The receive domain of a LOST link runs from the root, and a change to
it or back counts a stop (R465). A link that is not training does neither; that the first training has no end, and that a LOST link is one without
signal, are the model's choices (log entry 54). -/
def TailraceTimersHolds : Prop :=
  ∀ (s : State) (l : Fin 8),
    let x := linkOf s l
    (x.up = true → x.replay ≠ [] →
      let u := advanceTo s (x.ackAt + 2000)
      (Quiet s l → x.replays < 8 → Next (exec (.replayTimer l false) s) fun t => NoEffect u t ∧ (linkOf t l).up = true ∧
        (linkOf t l).replays = x.replays + 1 ∧ (linkOf t l).replay = x.replay ∧ t.out = u.out ++ resent s l) ∧
      (8 ≤ x.replays → Next (exec (.replayTimer l false) s) fun t => NoEffect u t ∧ (linkOf t l).up = false ∧
        (linkOf t l).training = true ∧ (linkOf t l).trainAt = u.glb.time ∧ (linkOf t l).replay = x.replay) ∧
      Next (exec (.replayTimer l true) s) fun t => t = { u with links := t.links } ∧ (∀ k, k ≠ l.val → linkOf t k = linkOf s k) ∧
        linkOf t l = { x with cnt := (linkOf t l).cnt, ackAt := u.glb.time } ∧
        Tbl.get 0 (linkOf t l).cnt 7 = bump (Tbl.get 0 x.cnt 7)) ∧
    ((x.up = false ∨ x.replay = []) → ∀ b, exec (.replayTimer l b) s = .next s) ∧
    (x.training = true →
      (∀ peer, Next (exec (.trainingComplete l peer) s) fun t => NoEffect s t ∧ (linkOf t l).up = true ∧ (linkOf t l).training = false ∧
        (linkOf t l).fresh = false ∧ (linkOf t l).peer = peer ∧ (linkOf t l).localClk = false ∧
        t.clk.stops = (if x.localClk then bump s.clk.stops else s.clk.stops) ∧ (Quiet s l → (linkOf t l).queues = x.queues)) ∧
      (x.fresh = false → Quiet s l → parksWith s (fun r => decide (r.msgs.1 < r.msgs.2)) = [] →
        (∀ q ∈ x.queues, q.2.en = true → flumesWith s (inAperture (queueOf s l q.1)) = []) → Next (exec (.retrainTimeout l) s) fun t =>
        NoEffect (advanceTo s (x.trainAt + 50000000)) t ∧ (linkOf t l).up = false ∧ (linkOf t l).training = false ∧
        (linkOf t l).lost = true ∧ (linkOf t l).localClk = true ∧
        t.clk.stops = (if x.localClk then (advanceTo s (x.trainAt + 50000000)).clk.stops
          else bump (advanceTo s (x.trainAt + 50000000)).clk.stops) ∧ (∀ k < 16, queueOf t l k = { queueOf s l k with partialMsg := none }) ∧
        Logged s t fun r => r.code = .lost ∧ r.cls = .link ∧ r.edgeid = 0x50 + l.val)) ∧
    ((x.training = false ∨ x.fresh = true) → exec (.retrainTimeout l) s = .next s) ∧
    (x.training = false → ∀ peer, exec (.trainingComplete l peer) s = .next s)

/-- Tier 2. The flits of a link that has nothing to send (R388-R390, R392). IDLE: the header gives credits to the queue it names, up to
65,535; an ACK lets go the flits before it, and the last flit of a message sets TXACKED; a NAK has all that is left sent again, and
after 8 replays the link retrains. DATA as awaited: it is acknowledged, and a message of one flit stands in slot count mod NSLOT of the
window with its length and number, or waits while the destination withholds its credits; one for a queue that is not enabled, or whose
LEN is not 1 to 240, is discarded with a record. QCFG sets what the far end advertises. A flit that is not as awaited, or is discarded
by its check, is reported with NAK once. When IDLE flits leave, and the records, are the model's choices (log entries 54 and 98). The
timers and the training of a link (R387, R389, R394): the replay timer, 2 us after ACK last advanced, has all that is unacknowledged
sent again, or counts an advance of ACK in the same cycle; training that ends brings the link up; a training anew that takes 50 ms makes
it LOST, with a record and with messages under reception gone. The receive domain of a LOST link runs from the root, and a change to it
or back counts a stop (R465). A link that is not training does neither; that the first training has no end, and that a LOST link is one
without signal, are the model's choices (log entry 54). -/
def Obligations.TailraceLinks : Prop := TailraceFlitsHolds ∧ TailraceTimersHolds

/-- Tier 2. Remote stage queues (R392-R396): PROD rises by one in the window once a message waits for it; CONS is read back and the slots
it frees return as credits; an access that is refused disables the queue (that of CONS by the
model's choice, log entry 54, as what EN = 0 and EN = 1 leave of a link), and nothing moves while the destination withholds its credits. A write of EN = 1 that the checks of R393 pass enables the queue
with empty counts, advertises it and returns its slots, and a refused one changes nothing and is logged; a write of EN = 0 disables it and
sets NSLOT and SLOTB. TLR_CFG trains the link afresh, or turns it off, and is discarded while a queue holds its realm or for a realm that
does not exist. -/
def Obligations.TailraceQueues : Prop :=
  ∀ (s : State) (l : Fin 8) (q : Fin 16),
    let y := linkOf s l
    let x := queueOf s l q
    let c := bits x.rx 34 14
    let door := edgeDoor s (linkEdge l) c .k
    (QueueTakes s l x (bits x.rx 0 52) 8 → 0 < x.toPublish → Next (exec (.prodUpdate l q []) s) fun t =>
      readNum t (bits x.rx 0 52) 8 = (x.prod + 1).toNat ∧ OnlyBytes (bits x.rx 0 52) 8 s t ∧ t.mills = s.mills ∧ t.cores = s.cores ∧
      queueOf t l q = { x with prod := x.prod + 1, toPublish := x.toPublish - 1 }) ∧
    ((x.en = false ∨ x.toPublish = 0) → x.inbox = [] → ∀ ups, exec (.prodUpdate l q ups) s = .next s) ∧
    (Withheld s x → ∀ ups, exec (.prodUpdate l q ups) s = .next s ∧ exec (.consPoll l q ups) s = .next s) ∧
    (let dest := bits x.rx 0 52 + 8
     QueueTakes s l x dest 8 → WayOpen s .k c door → Next (exec (.consPoll l q []) s) fun t => NoEffect s t ∧
       let new : Word := BitVec.ofNat 64 (readNum s dest 8)
       let n := min (new - x.cons).toNat x.held
       (y.up = false → t.out = s.out ∧ queueOf t l q = { x with cons := new, held := x.held - n, owe := x.owe + n }) ∧
       (y.up = true → Quiet s l → n ≤ 65534 → queueOf t l q = { x with cons := new, held := x.held - n } ∧
         t.out = if n = 0 then s.out else s.out ++ [.flit l (idleWord y.rxSeq false q n)])) ∧
    ((x.en = false ∨ x.rx = 0) → ∀ ups, exec (.consPoll l q ups) s = .next s) ∧
    (x.en = true → x.rx ≠ 0 → Unreached s l x → ∀ ups, (Next (exec (.consPoll l q ups) s) fun t => (queueOf t l q).en = false) ∧
      (0 < x.toPublish → Next (exec (.prodUpdate l q ups) s) fun t => (queueOf t l q).en = false ∧ t.mem = s.mem)) ∧
    (tlrOpen s l = true →
      (∀ w, x.en = false →
        (y.realmValid = false → Next (exec (.tlrQcfgEnable l q w) s) fun t => NoEffect s t ∧ t.links = s.links ∧
          Logged s t fun r => r.code = .state ∧ r.cls = .host) ∧
        (y.realmValid = true → (bits w 8 16 = 0 ∨ bits w 8 16 = 65535 ∨ bits w 24 16 < 2 ∨ bits w 24 16 = 65535) →
          Next (exec (.tlrQcfgEnable l q w) s) fun t => NoEffect s t ∧ t.links = s.links ∧
            Logged s t fun r => r.code = .format ∧ r.cls = .host) ∧
        (enableCode s l x w = none → Next (exec (.tlrQcfgEnable l q w) s) fun t => NoEffect s t ∧
          let on : LQueue := { x with en := true, nslot := bits w 8 16, slotb := bits w 24 16, prod := 0, cons := 0, held := 0, toPublish := 0
                                      partialMsg := none, inbox := [] }
          (y.up = false → queueOf t l q = { on with owe := bits w 8 16 } ∧ (linkOf t l).cfgDue = true ∧ t.out = s.out ∧
            ∀ k, k ≠ q.val → queueOf t l k = queueOf s l k) ∧
          (y.up = true → Quiet s l → y.replay.length < 2048 → queueOf t l q = on ∧ (linkOf t l).cfgDue = false ∧
            (∀ k, k ≠ q.val → queueOf t l k = queueOf s l k) ∧
            ∃ cw, t.out = s.out ++ [.flit l cw] ∧ num cw 0 1 % 16 = 2 ∧ num cw 6 2 = bits w 8 16 ∧ num cw (8 + 8 * q.val) 1 = 1 ∧
              num cw (10 + 8 * q.val) 2 = bits w 24 16))) ∧
      (∀ w : Word,
        (x.en = true → Quiet s l → flumesWith s (fun t => !t.served && inAperture x t) = [] →
          Next (exec (.tlrQcfgDisable l q w) s) fun t => NoEffect s t ∧ (∀ k, k ≠ q.val → queueOf t l k = queueOf s l k) ∧
            (y.up = false → (linkOf t l).cfgDue = true) ∧
            queueOf t l q = { x with
              en := false, partialMsg := none, inbox := [], held := 0, toPublish := 0, owe := 0, nslot := bits w 8 16, slotb := bits w 24 16 }) ∧
        (x.en = false → Next (exec (.tlrQcfgDisable l q w) s) fun t => t = { s with links := t.links } ∧
          (∀ k, k ≠ q.val → queueOf t l k = queueOf s l k) ∧ queueOf t l q = { x with nslot := bits w 8 16, slotb := bits w 24 16 })) ∧
      ∀ w : Word,
        let valid := bit w 1
        let realm := bits w 4 4
        ((valid = true → (realmOf s realm).present = true) →
          (y.queues.all (fun p => !p.2.en) = true →
            (bit w 0 = true → y.en = false → Next (exec (.tlrCfg l w) s) fun t => NoEffect s t ∧ (linkOf t l).en = true ∧
              (linkOf t l).training = true ∧ (linkOf t l).fresh = true ∧ (linkOf t l).lost = false ∧ (linkOf t l).realmValid = valid ∧
              (linkOf t l).realm = realm ∧ (linkOf t l).txSeq = 0 ∧ (linkOf t l).rxSeq = 0 ∧ (linkOf t l).replay = [] ∧
              (∀ k < 16, (queueOf t l k).credit = 0) ∧ t.out = s.out ++ [.training s.glb.serial l steppingCode]) ∧
            (bit w 0 = false → y.en = true → Next (exec (.tlrCfg l w) s) fun t => (linkOf t l).en = false ∧
              (linkOf t l).training = false ∧ (linkOf t l).up = false ∧ (linkOf t l).lost = false ∧ (linkOf t l).realmValid = valid ∧
              (linkOf t l).realm = realm ∧ (linkOf t l).replay = [] ∧ (∀ k < 16, (queueOf t l k).sendq = [] ∧ (queueOf t l k).credit = 0) ∧
              (Quiet s l → NoEffect s t)) ∧
            (bit w 0 = y.en → Next (exec (.tlrCfg l w) s) fun t => NoEffect s t ∧
              linkOf t l = { y with realmValid := valid, realm := realm })) ∧
          (y.queues.any (fun p => p.2.en) = true → (valid ≠ y.realmValid ∨ realm ≠ y.realm) → exec (.tlrCfg l w) s = .next s)) ∧
        (valid = true → (realmOf s realm).present = false → exec (.tlrCfg l w) s = .next s)) ∧
    (tlrOpen s l = false → ∀ w, exec (.tlrQcfgEnable l q w) s = .next s ∧ exec (.tlrQcfgDisable l q w) s = .next s ∧ exec (.tlrCfg l w) s = .next s)

/-! ### Snowpack, and the patrols (04; 11) -/

/-- Tier 2. The patrols and their write-backs (R130, R131, R161, R410, R411): the next burst of the controller, or of the region, is read. A
clean one changes nothing but the position; a report of the stack's own ECC is counted; a corrected one is counted and waits for its write-back; one that cannot be corrected is
counted, poisoned, and reported with ECC. The position goes on past the burst, or begins again and the pass is counted (the order of the
addresses is the model's choice, log entry 70). A write-back ends the wait. No byte changes. With an interval of 0 no patrol runs. -/
def Obligations.Patrols : Prop :=
  (∀ (s : State) (k : Fin 4) (a : Nat) (found : Burst) (die : Bool),
    let x := ctlOf s k
    let moved := fun (t : State) => Tbl.get 0 (ctlOf t k).cnt 4 = (if die then bump (Tbl.get 0 x.cnt 4) else Tbl.get 0 x.cnt 4) ∧
      (ctlOf t k).position = (if (nextPatrol s k (a + 64)).isSome then a + 64 else 0) ∧
      (ctlOf t k).passes = (if (nextPatrol s k (a + 64)).isSome then x.passes else bumpW 32 x.passes)
    (isUp s = true → x.interval ≠ 0 → nextPatrol s k x.position = some a → a ∉ s.snow.poison → a % 64 = 0 → a < 2 ^ 40 → snowCtl s a = k.val →
      Next (exec (.snowpackPatrol k .clean die) s) (fun t => t = { s with snow := t.snow } ∧ moved t ∧ t.snow.poison = s.snow.poison ∧
        (ctlOf t k).writeBacks = x.writeBacks ∧ ∀ i, i ≠ 4 → Tbl.get 0 (ctlOf t k).cnt i = Tbl.get 0 x.cnt i) ∧
      Next (exec (.snowpackPatrol k .corrected die) s) (fun t => t = { s with snow := t.snow } ∧ moved t ∧ t.snow.poison = s.snow.poison ∧
        a ∈ (ctlOf t k).writeBacks ∧ Tbl.get 0 (ctlOf t k).cnt 2 = bump (Tbl.get 0 x.cnt 2)) ∧
      Next (exec (.snowpackPatrol k .uncorrectable die) s) (fun t => NoEffect s t ∧ moved t ∧ t.snow.poison = s.snow.poison ++ [a] ∧
        Tbl.get 0 (ctlOf t k).cnt 3 = bump (Tbl.get 0 x.cnt 3) ∧
        Logged s t fun r => r.code = .ecc ∧ r.cls = .info ∧ r.addr = snowAddr a)) ∧
    ((isUp s = false ∨ x.interval = 0) → exec (.snowpackPatrol k found die) s = .next s) ∧
    (isUp s = true → ∀ b, Next (exec (.snowpackWriteBack k b) s) fun t => t = { s with snow := t.snow } ∧
      (ctlOf t k).writeBacks = x.writeBacks.filter (· ≠ b.toNat) ∧ ∀ j, j ≠ k.val → ctlOf t j = ctlOf s j)) ∧
  ∀ (s : State) (g : RegionId) (p : Nat) (found : Burst),
    let x := (regionOf s g).mem
    let c := 256 * g.val + p / 2 ^ 28
    let a := coreAddr c 0 (p % 2 ^ 28)
    let moved := fun (t : State) => (regionOf t g).mem.position = (if (nextKv s g (p + 64)).isSome then p + 64 else 0) ∧
      (regionOf t g).mem.passes = (if (nextKv s g (p + 64)).isSome then x.passes else bumpW 32 x.passes)
    (x.interval ≠ 0 → bit (regionOf s g).pwr.rails 3 = true → nextKv s g x.position = some p → p < 2 ^ 36 → p % 64 = 0 → a ∉ s.poison →
      Next (exec (.patrol g .clean) s) (fun t => t = { s with regions := t.regions } ∧ moved t ∧
        (regionOf t g).mem.writeBacks = x.writeBacks ∧ (regionOf t g).mem.stkCe = x.stkCe ∧ (regionOf t g).mem.stkUe = x.stkUe) ∧
      Next (exec (.patrol g .corrected) s) (fun t => t.mem = s.mem ∧ t.cores = s.cores ∧ t.mills = s.mills ∧ moved t ∧ t.poison = s.poison ∧
        a ∈ (regionOf t g).mem.writeBacks ∧ (regionOf t g).mem.stkCe = bump x.stkCe) ∧
      Next (exec (.patrol g .uncorrectable) s) (fun t => t.mem = s.mem ∧ t.cores = s.cores ∧ t.mills = s.mills ∧ moved t ∧
        t.poison = s.poison ++ [a] ∧ (regionOf t g).mem.stkUe = bump x.stkUe ∧
        Logged s t fun r => r.code = .ecc ∧ r.cls = .info ∧ r.addr = a ∧ r.region = some g.val)) ∧
    ((x.interval = 0 ∨ bit (regionOf s g).pwr.rails 3 = false) → exec (.patrol g found) s = .next s) ∧
    ∀ (k : CoreId) (b : Nat), Next (exec (.writeBack k b) s) fun t => t = { s with regions := t.regions } ∧
      (regionOf t (k.val / 256)).mem.writeBacks =
        (regionOf s (k.val / 256)).mem.writeBacks.filter (fun y => !(y == b && fld y 34 14 == k.val)) ∧
      ∀ j, j ≠ k.val / 256 → regionOf t j = regionOf s j

/-- Tier 2. Stacks and zones of Snowpack (R401, R413-R415, R418, R463): refreshes of a stack in service are counted; a stack runs at half
rate from 95 degrees until 92; a fatal error, and a report or a reading of 105 degrees or more, take a stack out of service with a record and an
entry of the Moraine map while that has room (the entry is the model's reading of R516). A write of the zone map, while no image is held, zeroes the zones whose bit changes, apertures of enabled queues apart (R393), which
are busy until ZONE_ZEROED; with an image held it is refused with STATE. -/
def Obligations.SnowpackStacksAndZones : Prop :=
  (∀ (s : State) (k : Fin 4) (i : Fin 6),
    let x := ctlOf s k
    (isUp s = true → stackUp s (6 * k.val + i.val) = true →
      Next (exec (.refresh k i) s) (fun t => t = { s with snow := t.snow } ∧
        ctlOf t k = { x with refreshes := (ctlOf t k).refreshes } ∧
        Tbl.get 0 (ctlOf t k).refreshes i.val = bump (Tbl.get 0 x.refreshes i.val)) ∧
      Next (exec (.rfm k i) s) (fun t => t = { s with snow := t.snow } ∧ ctlOf t k = { x with cnt := (ctlOf t k).cnt } ∧
        Tbl.get 0 (ctlOf t k).cnt 7 = bump (Tbl.get 0 x.cnt 7)) ∧
      ∀ temp, Next (exec (.snowpackTemperature k i temp) s) fun t => NoEffect s t ∧ Tbl.get none (ctlOf t k).temps i.val = some temp ∧
        Tbl.get 0 t.thm.snowTemps (6 * k.val + i.val) = temp ∧ stackUp t (6 * k.val + i.val) = decide (temp.toNat < 105 * 16) ∧
        (105 * 16 ≤ temp.toNat → bit t.thm.tripHbm (6 * k.val + i.val) = true ∧ bit (ctlOf t k).hot i.val = false) ∧
        (temp.toNat < 105 * 16 → bit (ctlOf t k).hot i.val = (if 95 * 16 ≤ temp.toNat then true else if temp.toNat ≤ 92 * 16 then false else bit x.hot i.val)) ∧
        ∀ j : Fin 6, j ≠ i → bit (ctlOf t k).hot j.val = bit x.hot j.val) ∧
    ((isUp s = false ∨ stackUp s (6 * k.val + i.val) = false) →
      ∀ temp, ∀ c ∈ [Instr.refresh k i, .rfm k i, .snowpackTemperature k i temp], exec c s = .next s)) ∧
  (∀ (s : State) (n : Fin 24), isUp s = true →
    let k := n.val / 6
    let i := n.val % 6
    let gone := fun (t : State) => t.mem = s.mem ∧ t.cores = s.cores ∧ t.mills = s.mills ∧ stackUp t n.val = false ∧
      (s.moraine.length < 16384 → (∃ e ∈ t.moraine, e.kind = 10 ∧ e.region = n.val) ∧ ∀ e ∈ s.moraine, e ∈ t.moraine) ∧
      bit (ctlOf t k).failed i = true ∧ bit (ctlOf t k).hot i = false ∧ (∀ j : Fin 24, j ≠ n → stackUp t j.val = stackUp s j.val) ∧
      (s.glb.fw = true → Logged s t fun r => r.code = .lost ∧ r.cls = .link ∧ r.edgeid = 16 + k ∧ r.addr = n.val)
    bit (ctlOf s k).failed i = false →
      Next (exec (.stackFatalError n) s) (fun t => gone t ∧ t.thm = s.thm) ∧
      Next (exec (.hbmTrip n) s) fun t => gone t ∧ t.thm = { s.thm with tripHbm := s.thm.tripHbm ||| BitVec.ofNat 24 (2 ^ n.val) }) ∧
  ∀ (s : State) (w : Word),
    (snwOpen s 0 = false → exec (.snwZmap w) s = .next s) ∧
    (snwOpen s 0 = true → (s.hop.slots.any fun p => p.2.st ≠ .free) = true → Next (exec (.snwZmap w) s) fun t => NoEffect s t ∧
      t.snow = s.snow ∧ Logged s t fun r => r.code = .state ∧ r.cls = .host) ∧
    (snwOpen s 0 = true → (s.hop.slots.any fun p => p.2.st ≠ .free) = false → Next (exec (.snwZmap w) s) fun t =>
      t.snow.zmap = w.setWidth 31 ∧ t.cores = s.cores ∧ t.mills = s.mills ∧
      let changed := fun (z : Nat) => z < 31 ∧ bit w z ≠ bit s.snow.zmap z
      (∀ z, changed z → z ∈ t.snow.zeroing) ∧ (∀ z, z ∈ t.snow.zeroing → changed z ∨ z ∈ s.snow.zeroing) ∧
      let free := fun (a : Nat) => ∀ p ∈ apertures s, a < p.2.2.1 ∨ p.2.2.1 + p.2.2.2 ≤ a
      (∀ z a, changed z → a / zoneSize = z → free a → readByte t (snowAddr a) = 0) ∧
      (∀ b, (∀ z a, changed z → a / zoneSize = z → free a → b ≠ snowAddr a) → readByte t b = readByte s b)) ∧
    ∀ z : Fin 32, exec (.zoneZeroed z) s = .next { s with snow := { s.snow with zeroing := s.snow.zeroing.filter (· ≠ z.val) } }

/-! ### Power, heat and clocks (12; 13) -/

/-- Tier 2. A region's supply and operating points (R437, R438, R441-R443): REGION_POWER_UP turns all four rails on at OP5 with its hub in
service and a route to every region that is not LOST, while the power-goods of its rail groups are there; REGION_POWER_DOWN of a region that no image holds turns them off, and what lay on
them is gone, the stacks too unless VDDM stays on. A raise commands the higher voltage first, at most once per 100 us, and takes the faster
point VSETTLE later; a lowering takes the slower point at once.
That a byte of such a memory then reads 0, that the stacks end with VDDM, and that regions which are off are gone round, are the model's choices
(log entries 7, 52 and 62). -/
def Obligations.RegionSupply : Prop :=
  ∀ (s : State) (g : RegionId), millerUp s = true →
    let x := regionOf s g
    let p := pwrOf s g
    (x.org.off = false → (x.org.shape = .full ∨ x.org.shape = .short) → p.rails ≠ 0xF → s.pins.pgCore = true → bit s.pins.pgVddm (groupOf g) = true →
      Next (exec (.regionPowerUp g) s) fun t => (pwrOf t g).rails = 0xF ∧ (pwrOf t g).op = 5 ∧ (pwrOf t g).mv = 550 ∧
        (regionOf t g).race.hub = true ∧ (regionOf t g).org = x.org ∧ t.mem = s.mem ∧ t.cores = s.cores ∧ t.mills = s.mills ∧
        ∀ b < 64, ((Tbl.get {} (regionOf t g).race.routes (4 * b + 2)).mode ≠ 0 ↔ b ≠ g.val ∧ (regionOf s b).org.shape ≠ .lost)) ∧
    ((x.org.off = true ∨ x.org.shape = .lost ∨ x.org.shape = .unknown ∨ p.rails = 0xF ∨ s.pins.pgCore = false ∨
      bit s.pins.pgVddm (groupOf g) = false) →
      exec (.regionPowerUp g) s = .next s) ∧
    (∀ keep, vddcOn s g = true → (s.hop.slots.any fun y => decide (y.2.st ≠ .free) && bit y.2.regions g) = false →
      Next (exec (.regionPowerDown g keep) s) fun t => (pwrOf t g).rails = (if keep then 1 else 0) ∧ t.mills = s.mills ∧
        (∀ c, coreOf t c = if c / 256 = g.val then {} else coreOf s c) ∧
        ∀ a, readByte t a = if coreAddr (256 * g) 0 0 ≤ a ∧ a < coreAddr (256 * (g + 1)) 0 0 ∧ (fld a 30 4 ≠ 0 ∨ keep = false) then 0
          else readByte s a) ∧
    ((vddcOn s g = false ∨ (s.hop.slots.any fun y => decide (y.2.st ≠ .free) && bit y.2.regions g) = true) →
      ∀ keep, exec (.regionPowerDown g keep) s = .next s) ∧
    (vddcOn s g = true → p.raising = none →
      (opLimit s g < p.op → Next (exec (.opRaiseStart g) s) fun t =>
        let u := match p.lastRise with | some t0 => advanceTo s (t0 + 100000) | none => s
        NoEffect u t ∧ t.glb.time = (match p.lastRise with | some t0 => max s.glb.time (t0 + 100000) | none => s.glb.time) ∧
        pwrOf t g = { pwrOf u g with raising := some t.glb.time, mv := opVolts (p.op - 1) } ∧
        ∀ j, j ≠ g.val → regionOf t j = regionOf u j) ∧
      (p.op ≤ opLimit s g → exec (.opRaiseStart g) s = .next s) ∧
      (p.op < opLimit s g → Next (exec (.opLower g) s) fun t => NoEffect s t ∧ t.clk.stops = bump s.clk.stops ∧
        pwrOf t g = { p with op := p.op + 1, mv := opVolts (p.op + 1) } ∧ ∀ j, j ≠ g.val → regionOf t j = regionOf s j) ∧
      (opLimit s g ≤ p.op → exec (.opLower g) s = .next s)) ∧
    (∀ t0, p.raising = some t0 → Next (exec (.opRaise g) s) fun t =>
      let u := advanceTo s (t0 + s.pwr.vsettle.toNat * 1000)
      NoEffect u t ∧ t.clk.stops = bump s.clk.stops ∧ t.glb.time = max s.glb.time (t0 + s.pwr.vsettle.toNat * 1000) ∧
      pwrOf t g = { pwrOf u g with op := p.op - 1, raising := none, lastRise := some t.glb.time } ∧
      ∀ j, j ≠ g.val → regionOf t j = regionOf u j) ∧
    (p.raising = none → exec (.opRaise g) s = .next s)

/-- Tier 2. Currents, droops, the device cap and heat (R447-R455, R459-R461): a window whose estimate, by the rail's gain, exceeds a limit
slows the region a point and takes a quarter of its scale, down to the hold; each millisecond below 90 % of the limits gives one back; the gain of a rail follows its channel within 0.75 to 1.25
(the ratio is the model's reading, log entry 58); a droop holds the region for 32 core cycles from the last detection; above the cap the first class in the priority order that is not
at its floor gives a step, below 97 % of it the latest step returns; the region hottest above its threshold is throttled a point. -/
def Obligations.CurrentsCapAndHeat : Prop :=
  ∀ s : State, millerUp s = true →
    (∀ g : RegionId, vddcOn s g = true →
      let p := pwrOf s g
      (∀ a b c d : BitVec 16,
        let gain := fun (k : Nat) => Tbl.get 65536 p.gains k
        let es := [(a.toNat * gain 3, bits p.ilim 0 9), (b.toNat * gain 2, bits p.ilim 16 9), (c.toNat * gain 0, bits p.ilim 32 9),
          (d.toNat * gain 1, bits p.ilim 48 9)]
        let excess := ∃ e ∈ es, 65536 * e.2 < e.1
        let quiet := ∀ e ∈ es, 10 * e.1 < 9 * 65536 * e.2
        (quiet → Next (exec (.estimatorWindow g a b c d) s) fun t => NoEffect s t ∧ pwrOf t g = { p with ilimHold := false }) ∧
        (¬ quiet → ¬ excess → Next (exec (.estimatorWindow g a b c d) s) fun t => NoEffect s t ∧
          pwrOf t g = { p with ilimHold := false, quietAt := s.glb.time }) ∧
        (excess → Next (exec (.estimatorWindow g a b c d) s) fun t => NoEffect s t ∧
          (pwrOf t g).ilimlim = min 5 (p.ilimlim + 1) ∧ (pwrOf t g).ilimScale = max 4 (p.ilimScale - 4) ∧
          (pwrOf t g).ilimEvt = bump p.ilimEvt ∧ (pwrOf t g).op = p.op ∧ (pwrOf t g).quietAt = s.glb.time ∧
          ((pwrOf t g).ilimHold = true ↔ p.op = 5 ∧ p.ilimScale = 4))) ∧
      (Next (exec (.quietMillisecond g) s) fun t => let u := advanceTo s (p.quietAt + 1000000)
        NoEffect u t ∧ t.glb.time = max s.glb.time (p.quietAt + 1000000) ∧
        pwrOf t g = { pwrOf u g with ilimlim := p.ilimlim - 1, ilimScale := min 16 (p.ilimScale + 4), quietAt := t.glb.time }) ∧
      (Next (exec (.droop g) s) fun t => NoEffect s t ∧
        pwrOf t g = { p with droopHold := true, droopEvt := bump p.droopEvt, droopAt := s.glb.time }) ∧
      (p.droopHold = true → Next (exec (.droopHoldEnd g) s) fun t =>
        let e := p.droopAt + (32 * opDivisor p.op + 5) / 6
        let u := advanceTo s e
        NoEffect u t ∧ t.glb.time = max s.glb.time e ∧ pwrOf t g = { pwrOf u g with droopHold := false }) ∧
      ∀ (rail : Fin 4) (mean : Nat),
        let n := imonChannel g rail
        (0 < mean → Tbl.get none s.frn.stored n ≠ none → Next (exec (.gainCorrection g rail mean) s) fun t => NoEffect s t ∧
          ∀ j ∈ imonRegions g rail, ∀ k, Tbl.get 65536 (pwrOf t j).gains k =
            let old := Tbl.get 65536 (pwrOf s j).gains k
            if k = rail.val then max 49152 (min 81920 (old * ((chanOf s n).f2 / 256) * (chanOf s n).fscale / (65535 * mean))) else old) ∧
        (mean = 0 → exec (.gainCorrection g rail mean) s = .next s)) ∧
    (∀ p10 p1s : BitVec 12,
      let p := { s.pwr with p10 := p10, p1s := p1s, unmet := s.pwr.unmet && decide (s.pwr.cap.toNat < p10.toNat) }
      let first := (capOrder s.pwr.prio.toNat ++ [Shrink.caplim]).find? fun k => !atFloor s.pwr k
      (s.pwr.cap.toNat < p10.toNat →
        (∀ k, first = some k → Next (exec (.capEvaluation p10 p1s) s) fun t => NoEffect s t ∧ t.pwr = { p with
          steps := k :: p.steps
          cscale := if k = .compute then p.cscale - 1 else p.cscale
          mscale := if k = .memory then p.mscale - 1 else p.mscale
          lscale := if k = .links then p.lscale - 1 else p.lscale
          caplim := if k = .caplim then p.caplim + 1 else p.caplim }) ∧
        (first = none → Next (exec (.capEvaluation p10 p1s) s) fun t => NoEffect s t ∧ t.pwr = { p with unmet := true } ∧
          (s.pwr.unmet = false → Logged s t fun r => r.cls = .info ∧ r.origin = .miller))) ∧
      (p10.toNat ≤ s.pwr.cap.toNat → (97 * s.pwr.cap.toNat ≤ 100 * p10.toNat ∨ s.pwr.cap.toNat ≤ p1s.toNat ∨ s.pwr.steps = []) →
        exec (.capEvaluation p10 p1s) s = .next { s with pwr := p }) ∧
      (100 * p10.toNat < 97 * s.pwr.cap.toNat → p1s.toNat < s.pwr.cap.toNat → ∀ k rest, s.pwr.steps = k :: rest → Shrink.caplim ∉ rest →
        exec (.capEvaluation p10 p1s) s = .next { s with pwr := { p with
          steps := rest
          cscale := if k = .compute then p.cscale + 1 else p.cscale
          mscale := if k = .memory then p.mscale + 1 else p.mscale
          lscale := if k = .links then p.lscale + 1 else p.lscale
          caplim := if k = .caplim then p.caplim - 1 else p.caplim } })) ∧
    ∀ stk log : List (BitVec 12),
      let hot := fun (g : Nat) => max (((stk.getD g 0).toNat : Int) - 16 * s.thm.stkThr.toNat) (((log.getD g 0).toNat : Int) - 16 * s.thm.logThr.toNat)
      Next (exec (.thermalEvaluation stk log []) s) fun t => NoEffect s t ∧ t.thm.valid = true ∧
        (∀ g < 64, (pwrOf t g).maxStk = stk.getD g 0 ∧ (pwrOf t g).maxLog = log.getD g 0 ∧ hot g ≤ hot t.thm.hotreg) ∧
        (∀ g < 64, 0 < hot g → vddcOn s g = true → (pwrOf s g).op ≠ 5 → (pwrOf s g).thmlim < 5 → (∀ j < 64, j ≠ g → hot j ≤ 0) →
          (pwrOf t g).thmlim = (pwrOf s g).thmlim + 1 ∧ ∀ j < 64, j ≠ g → (pwrOf t j).thmlim = (pwrOf s j).thmlim) ∧
        (∀ g < 64, hot g < -(16 * (s.thm.hyst.toNat : Int)) → 9 ≤ (pwrOf s g).cool → 0 < (pwrOf s g).thmlim →
          (∀ j < 64, hot j ≤ 0) → (∀ j < 64, j ≠ g → (pwrOf s j).thmlim = 0) → (pwrOf t g).thmlim = (pwrOf s g).thmlim - 1)

/-- Tier 2. Trips, lost rails and FAULT (R462-R464, R475, R511-R514): a trip or a loss of supply makes the region LOST with its rails off; every
trip enters a TRIP event in the Moraine map and takes the retention entries that cover the region. In PARKED a stack trip also takes VDDM, with the
stacks. A trip during a power-up lets the sequence go on and holds the next one back. A field trip takes every
rail but VDDF and the device is in STANDBY; a power-up under way begins anew. A PLL that loses lock, and a Miller that stops, put the device into
FAULT with a record that Firn keeps: no core runs, no step is in progress, and no byte changes. The codes of those records, what FAULT leaves
and the power-up that begins anew are the model's choices (log entries 43 and 60). -/
def Obligations.TripsAndFaults : Prop :=
  (∀ (s : State) (g : RegionId) (stack : Bool),
    let rails := (pwrOf s g).rails
    let latched := fun (t : State) => t.thm = { s.thm with trip := s.thm.trip ||| BitVec.ofNat 64 (2 ^ g.val) }
    let gone := fun (t : State) => (regionOf t g).org.shape = .lost ∧ (regionOf t g).org.off = true ∧ bits (pwrOf t g).rails 2 2 = 0 ∧
      ∀ j, j ≠ g.val → (regionOf t j).org.shape = (regionOf s j).org.shape
    (s.glb.st = .off → exec (.trip ⟨g, stack⟩) s = .next s) ∧
    (millerUp s = true → (regionOf s g).org.shape ≠ .lost →
      Next (exec (.trip ⟨g, stack⟩) s) (fun t => latched t ∧ gone t ∧ (pwrOf t g).rails = rails &&& 1) ∧
      ∀ r : BitVec 4, rails &&& r ≠ 0 → Next (exec (.railLoss g r) s) fun t => gone t ∧ (pwrOf t g).rails = rails &&& ~~~r &&& 3) ∧
    (s.glb.st = .boot → s.glb.fw = false → Next (exec (.trip ⟨g, stack⟩) s) fun t => latched t ∧ (regionOf t g).org.off = true ∧
      (pwrOf t g).rails = rails &&& 1 ∧ t.mem = s.mem ∧ t.cores = s.cores) ∧
    (∀ e, s.glb.st ≠ .off → Next (exec (.trip ⟨g, stack⟩) s) fun t => e ∈ t.hop.retain → bit e.regions g = false) ∧
    (s.glb.st ≠ .off → s.moraine.length < 16384 → Next (exec (.trip ⟨g, stack⟩) s) fun t => ∃ e ∈ t.moraine, e.kind = 9 ∧ e.region = g.val) ∧
    (s.glb.st = .standby → s.glb.fw = false → Next (exec (.trip ⟨g, stack⟩) s) fun t => latched t ∧ t.mem = s.mem ∧ t.cores = s.cores ∧
      (rising s = true → (regionOf t g).org.off = true ∧ t.pins.interlock = true) ∧
      (s.pins.seq = .down → (regionOf t g).org.off = (regionOf s g).org.off ∧ t.pins = s.pins)) ∧
    (s.glb.st = .parked → s.glb.fw = false → Next (exec (.trip ⟨g, stack⟩) s) fun t => latched t ∧ (regionOf t g).org.off = true ∧
      (pwrOf t g).rails = (if stack then 0 else rails &&& 1) ∧ (rising s = true → t.pins.interlock = true) ∧
      (stack = true → bit rails 0 = true → ∀ a, coreAddr (256 * g) 0 0 ≤ a → a < coreAddr (256 * (g + 1)) 0 0 → fld a 30 4 = 0 → readByte t a = 0)) ∧
    ∀ r : BitVec 4, rails &&& r = 0 → exec (.railLoss g r) s = .next s) ∧
  (∀ (s : State) (f : Fin 12),
    let latch := s.thm.tripField ||| BitVec.ofNat 12 (2 ^ f.val)
    (s.glb.st ≠ .off → s.glb.st ≠ .standby → rising s = false → Next (exec (.fieldTrip f) s) fun t => t.glb.st = .standby ∧ t.mem = [] ∧ t.cores = [] ∧
      t.mills = [] ∧ t.pins.interlock = true ∧ t.pins.enVddm = false ∧ t.thm.tripField = latch ∧ t.thm.trip = s.thm.trip ∧
      t.moraine = s.moraine ∧ t.pending = s.pending) ∧
    (s.glb.st = .standby → s.pins.seq = .down → exec (.fieldTrip f) s = .next { s with thm := { s.thm with tripField := latch } }) ∧
    (s.glb.st ≠ .off → rising s = true → Next (exec (.fieldTrip f) s) fun t => t.glb.st = .standby ∧ t.mem = [] ∧ t.cores = [] ∧
      t.pins.interlock = true ∧ t.pins.enVddm = false ∧ t.pins.enEdgeA = false ∧ t.pins.enEdgeH = false ∧ t.pins.enCore = false ∧
      t.pins.seq = (if s.frn.crystal then .waitEdgeL else .waitOsc) ∧ t.thm.tripField = latch ∧ t.moraine = s.moraine)) ∧
  ∀ s : State,
    let faulted := fun (t : State) (code : Code) => t.glb.st = .fault ∧ t.glb.fw = false ∧ t.mem = s.mem ∧ t.race = {} ∧
      t.sluice.sessions = [] ∧ (∀ c, (coreOf t c).scc.run ≠ .running) ∧ (∀ m, (millOf t m).inStep = false) ∧
      (s.frn.kept.length < 64 → ∃ r, t.frn.kept = s.frn.kept ++ [r] ∧ r.code = code ∧ r.cls = .device ∧ r.time = s.glb.time)
    (timeRuns s = true → s.glb.st ≠ .fault → Next (exec .pllLockLoss s) (fun t => faulted t .lost ∧ t.clk.lock = false) ∧
      Next (exec .millerMemoryError s) (fun t => faulted t .ecc) ∧ Next (exec .d0Stop s) fun t => faulted t .lost) ∧
    (s.glb.fw = true → Next (exec .millerWatchdog s) fun t => faulted t .timeout) ∧
    ((timeRuns s = false ∨ s.glb.st = .fault) → exec .pllLockLoss s = .next s ∧ exec .millerMemoryError s = .next s ∧
      exec .d0Stop s = .next s) ∧
    (s.glb.fw = false → exec .millerWatchdog s = .next s)

/-- Tier 2. Firn and the references (R464, R467, R469-R472, R480-R482): a sample goes through offset, gain and both filters; a rule becomes
active once its comparison has held for DEBOUNCE samples and inactive past its hysteresis; under calibration only the sum grows; the channel that
the test DAC feeds reads 4 x CODE within 3 codes, and its filters and rules rest. A rule word is written whole and inactive, or refused with FORMAT.
A reference that is lost is replaced, with AUTO, or the PLL holds over until one returns; a port with EN = 0 gives no reference, and a write of
CLK_REF that names one is discarded. The crystal takes over once, with the calibration that the record store holds. A THROTTLE rule's range of
points, and that CLK_REF chooses the reference anew, are the model's choices (log entries 63 and 64). -/
def Obligations.FirnAndReferences : Prop :=
  (∀ (s : State) (n : Fin 128) (raw : BitVec 12), s.glb.st ≠ .off →
    let c := chanOf s n
    let cal := (max 0 (min 65535 (((raw.toNat : Int) - c.offset) * c.gain / 1024))).toNat
    let filter := fun (f : Nat) (k : BitVec 4) =>
      if k = 0 then cal * 256 else ((f : Int) + ((cal : Int) * 256 - f) / 2 ^ k.toNat).toNat
    let ruleOn := fun (k : Nat) => bits (Tbl.get {} s.frn.rules k).w 10 2 ≠ 0 ∧ bits (Tbl.get {} s.frn.rules k).w 0 7 = n.val
    (c.suspended = false → (bit s.frn.tdac 7 = false ∨ bits s.frn.tdac 0 7 ≠ n.val) →
      ((∀ k < 64, ¬ ruleOn k) → Next (exec (.firnSample n raw) s) fun t => t = { s with frn := t.frn } ∧
        chanOf t n = { c with raw := raw, cal := cal, f1 := filter c.f1 c.k1, f2 := filter c.f2 c.k2 } ∧
        (∀ j, j ≠ n.val → chanOf t j = chanOf s j) ∧ t.frn.rules = s.frn.rules ∧ t.frn.active = s.frn.active) ∧
      (∀ k < 64, ruleOn k → (∀ j < 64, j ≠ k → ¬ ruleOn j) →
        let r := Tbl.get {} s.frn.rules k
        bits r.w 8 2 = 0 → bits r.w 10 2 = 1 → bits r.w 48 3 = 0 →
        (bit s.frn.active k = false → bits r.w 16 16 < cal → Next (exec (.firnSample n raw) s) fun t => NoEffect s t ∧
          bit t.frn.active k = decide (bits r.w 12 4 ≤ r.run + 1) ∧
          (Tbl.get {} t.frn.rules k).run = if bits r.w 12 4 ≤ r.run + 1 then 0 else r.run + 1) ∧
        (bit s.frn.active k = false → cal ≤ bits r.w 16 16 → Next (exec (.firnSample n raw) s) fun t => NoEffect s t ∧
          bit t.frn.active k = false ∧ (Tbl.get {} t.frn.rules k).run = 0) ∧
        (bit s.frn.active k = true → Next (exec (.firnSample n raw) s) fun t => NoEffect s t ∧
          bit t.frn.active k = decide (bits r.w 16 16 ≤ cal + bits r.w 32 16)))) ∧
    (c.suspended = false → bit s.frn.tdac 7 = true → bits s.frn.tdac 0 7 = n.val → Next (exec (.firnSample n raw) s) fun t =>
      t = { s with frn := t.frn } ∧ t.frn.rules = s.frn.rules ∧ t.frn.active = s.frn.active ∧ (chanOf t n).f1 = c.f1 ∧ (chanOf t n).f2 = c.f2 ∧
      (chanOf t n).raw.toNat ≤ 4 * bits s.frn.tdac 16 10 + 3 ∧ min 4095 (4 * bits s.frn.tdac 16 10 - 3) ≤ (chanOf t n).raw.toNat) ∧
    (c.suspended = true → (bit s.frn.tdac 7 = false ∨ bits s.frn.tdac 0 7 ≠ n.val) → s.frn.phase ≠ 0 → s.glb.fw = true → bit s.frn.mask n = true → 1 < c.cntLeft →
      Next (exec (.firnSample n raw) s) fun t => t = { s with frn := t.frn } ∧
        chanOf t n = { c with raw := raw, cal := cal, sum := c.sum + raw.toNat, cntLeft := c.cntLeft - 1 })) ∧
  (∀ (s : State) (k : Fin 64) (w : Word), hostReach s = true →
    (ruleOk w = true → Next (exec (.frnRule k w) s) fun t => NoEffect s t ∧ t.frn.fired = s.frn.fired ∧
      Tbl.get {} t.frn.rules k = { w := w &&& 0x3FF7FFFFFFFFFF7F, run := 0 } ∧ bit t.frn.active k = false ∧
      ∀ j, j ≠ k.val → Tbl.get {} t.frn.rules j = Tbl.get {} s.frn.rules j) ∧
    (ruleOk w = false → Next (exec (.frnRule k w) s) fun t => NoEffect s t ∧ t.frn.rules = s.frn.rules ∧
      Logged s t fun r => r.code = .format ∧ r.cls = .host) ∧
    ((bit w 7 = false ∨ calibrating s = false) →
      exec (.frnTdac w) s = .next { s with frn := { s.frn with tdac := (w &&& 0x3FF00FF).setWidth 26 } }) ∧
    ((s.frn.phase ≠ 0 ∨ (s.mlr.busy = true ∧ s.mlr.op = 0x42)) → bit w 7 = true → Next (exec (.frnTdac w) s) fun t => NoEffect s t ∧ t.frn = s.frn ∧
      Logged s t fun r => r.code = .state ∧ r.cls = .host) ∧
    exec (.thmTrip false w) s = .next { s with thm := { s.thm with trip := s.thm.trip &&& ~~~w } } ∧
    exec (.thmTrip true w) s = .next { s with thm := { s.thm with
      tripHbm := s.thm.tripHbm &&& ~~~w.setWidth 24, tripField := s.thm.tripField &&& ~~~BitVec.ofNat 12 (bits w 32 12) } } ∧
    (bit (portOf s (bits w 1 4)).cfg 0 = true → Next (exec (.clkRef w) s) fun t => t = { s with clk := t.clk } ∧
      t.clk.src = bit w 0 ∧ t.clk.port = BitVec.ofNat 4 (bits w 1 4) ∧ t.clk.auto = bit w 5 ∧ t.clk.losRef = s.clk.losRef ∧
      t.clk.losPort = (if s.clk.port.toNat = bits w 1 4 then s.clk.losPort else bit (portOf s (bits w 1 4)).los 0) ∧
      let there := fun (port : Bool) => if port then !t.clk.losPort else !t.clk.losRef
      (there (bit w 0) = true → t.clk.active = bit w 0 ∧ t.clk.holdover = false) ∧
      (there (bit w 0) = false → bit w 5 = true → there (!bit w 0) = true → t.clk.active = !bit w 0 ∧ t.clk.holdover = false) ∧
      (there (bit w 0) = false → (bit w 5 = false ∨ there (!bit w 0) = false) → t.clk.active = bit w 0 ∧ t.clk.holdover = true)) ∧
    (bit (portOf s (bits w 1 4)).cfg 0 = false → exec (.clkRef w) s = .next s)) ∧
  ∀ s : State, timeRuns s = true →
    let on := bit (portOf s s.clk.port.toNat).cfg 0
    let lost := fun (port : Bool) => if port then s.clk.losPort || !on else s.clk.losRef
    let hit := { s.clk with losRef := s.clk.losRef || !s.clk.active, losPort := s.clk.losPort || s.clk.active }
    ((s.clk.auto = true ∧ lost (!s.clk.active) = false) →
      exec .referenceLoss s = .next { s with clk := { hit with active := !s.clk.active, holdover := false } }) ∧
    ((s.clk.auto = false ∨ lost (!s.clk.active) = true) → exec .referenceLoss s = .next { s with clk := { hit with holdover := true } }) ∧
    (on = false → exec (.referenceRestored true) s = .next s) ∧
    (∀ port, (port = true → on = true) → Next (exec (.referenceRestored port) s) fun t => t = { s with clk := t.clk } ∧
      t.clk.losRef = (s.clk.losRef && port) ∧ t.clk.losPort = (s.clk.losPort && !port) ∧
      (s.clk.holdover = true → (s.clk.auto = true ∨ s.clk.active = port) → t.clk.active = port ∧ t.clk.holdover = false) ∧
      ((s.clk.holdover = false ∨ (s.clk.auto = false ∧ s.clk.active ≠ port)) → t.clk.active = s.clk.active ∧ t.clk.holdover = s.clk.holdover)) ∧
    (s.frn.crystal = false → Next (exec .crystalSwitch s) fun t => t.frn.crystal = true ∧ t.frn.uncal = s.frn.stored.isEmpty ∧
      NoEffect s t ∧ (s.frn.stored = [] → t.frn.chans = s.frn.chans) ∧
      ∀ n o k f, s.frn.stored = [(n, some (o, k, f))] → chanOf t n = { chanOf s n with offset := o, gain := k, fscale := f }) ∧
    (s.frn.crystal = true → exec .crystalSwitch s = .next s)

/-! ### The module's pins (15; 11) -/

/-- Every rail but VDDF is off, and the memories, cores and mills are gone (R566). -/
def Down (t : State) (interlock : Bool) : Prop :=
  t.glb.st = .standby ∧ t.glb.fw = false ∧ t.mem = [] ∧ t.cores = [] ∧ t.mills = [] ∧ t.pins.seq = .down ∧ t.pins.enEdgeL = false ∧
  t.pins.enEdgeA = false ∧ t.pins.enVddm = false ∧ t.pins.enEdgeH = false ∧ t.pins.enCore = false ∧ t.pins.interlock = interlock

/-- The power-up sequence begins: at once once the crystal runs, else when it takes over (R565). -/
def Rises (s t : State) : Prop :=
  t.mem = s.mem ∧ t.glb = s.glb ∧ t.frn = s.frn ∧ t.pins.interlock = false ∧ t.pins.enEdgeL = (s.frn.crystal || s.pins.enEdgeL) ∧
  t.pins.seq = if s.frn.crystal then .waitEdgeL else .waitOsc

/-- Power-up and power-down (R7, R558, R560, R565-R569): VDDF brings Firn up in STANDBY and its loss leaves only the record store.
PWR_ON_REQ high, or MOD_RST_N high with it, starts the sequence, held back by the interlock until PWR_ON_REQ has been low for 10 ms; each
power-good asserts the next enable, and the last puts the device into BOOT. PWR_ON_REQ low, MOD_RST_N low, a power-good that does not come
and an edge power-good that is lost put it into STANDBY, the last two under the interlock of R567. -/
def PowerSequenceHolds : Prop :=
  ∀ s : State,
    let p := s.pins
    (∀ straps : Fin 8,
      (s.glb.st = .off → exec (.vddfRise straps) s = .next { s with
        glb := { st := .standby }, frn := { stored := s.frn.stored, oscDly := BitVec.ofNat 3 straps.val } }) ∧
      (s.glb.st ≠ .off → exec (.vddfRise straps) s = .next s)) ∧
    (s.glb.st ≠ .off → Next (exec .vddfLoss s) fun t => t.glb = {} ∧ t.mem = [] ∧ t.cores = [] ∧ t.mills = [] ∧ t.frn.stored = s.frn.stored ∧
      t.moraine = s.moraine ∧ t.bst.results = s.bst.results ∧ t.bootno = s.bootno ∧ t.pending = s.pending ∧ t.pins = {}) ∧
    (s.glb.st = .standby → p.rstLow = false → p.seq = .down →
      (p.interlock = false → Next (exec .pwrOnReqHigh s) fun t => Rises s t ∧ t.pins.pwrReq = true) ∧
      (∀ t0, p.interlock = true → p.pwrReq = false → p.lowAt = some t0 →
        (t0 + 10000000 ≤ s.frn.clock → Next (exec .pwrOnReqHigh s) fun t => Rises s t ∧ t.pins.pwrReq = true) ∧
        (s.frn.clock < t0 + 10000000 → Next (exec .pwrOnReqHigh s) fun t => t.glb = s.glb ∧ t.pins.seq = .down ∧ t.pins.interlock = true))) ∧
    (s.glb.st = .parked → p.rstLow = false → p.seq = .down → p.pwrReq = false → Next (exec .pwrOnReqHigh s) fun t => Rises s t ∧
      t.pins.fromParked = true) ∧
    (s.glb.st ≠ .off → (s.glb.st ≠ .standby ∨ rising s = true) → Next (exec .pwrOnReqLow s) fun t =>
      Down t (decide (s.glb.st = .standby) && p.interlock) ∧ t.pins.pwrReq = false ∧ (p.pwrReq = true → t.pins.lowAt = some s.frn.clock)) ∧
    (s.glb.st ≠ .off → Next (exec .modRstNLow s) fun t => Down t false ∧ t.pins.rstLow = true ∧ t.thm.trip = 0 ∧ t.thm.tripHbm = 0 ∧
      t.thm.tripField = 0) ∧
    (s.glb.st = .standby → p.rstLow = true → p.seq = .down → Next (exec .modRstNHigh s) fun t => t.pins.rstLow = false ∧
      (p.pwrReq = true → Rises s t) ∧ (p.pwrReq = false → t = { s with pins := { p with rstLow := false } })) ∧
    (s.glb.st ≠ .off →
      (p.seq = .waitEdgeL → exec (.powerGood .edgeL) s = .next { s with pins := { p with seq := .waitEdgeA, enEdgeA := true } }) ∧
      (p.seq = .waitEdgeA → p.pgVddm ≠ 0xFFFF →
        exec (.powerGood .edgeA) s = .next { s with pins := { p with seq := .waitVddm, enVddm := true } }) ∧
      (∀ g : Fin 16, p.seq = .waitVddm → p.enVddm = true →
        let pg := p.pgVddm ||| BitVec.ofNat 16 (2 ^ g.val)
        exec (.powerGood (.vddm g)) s = .next { s with pins := if pg = 0xFFFF then { p with pgVddm := pg, seq := .waitEdgeH, enEdgeH := true }
          else { p with pgVddm := pg } }) ∧
      (p.seq = .waitEdgeH → exec (.powerGood .edgeH) s = .next { s with pins := { p with seq := .waitCore, enCore := true } }) ∧
      (p.seq = .waitCore → p.enCore = true → Next (exec (.powerGood .core) s) fun t => t.pins.pgCore = true ∧ t.glb.st = .boot ∧ t.glb.fw = false ∧ t.glb.time = 0 ∧
        t.glb.mask = 0x1FFFFFFFFFF ∧ t.pins.seq = .up ∧ t.mem = s.mem ∧ t.sec.romDig = shake256 Config.bootRom 64)) ∧
    (p.seq = .waitEdgeL ∨ p.seq = .waitEdgeA ∨ p.seq = .waitVddm ∨ p.seq = .waitEdgeH ∨ p.seq = .waitCore →
      Next (exec .powerGoodTimeout s) fun t => Down t true ∧
        (s.frn.kept.length < 64 → ∃ r, t.frn.kept = s.frn.kept ++ [r] ∧ r.code = .timeout ∧ r.cls = .device)) ∧
    ((p.seq = .down ∨ p.seq = .up ∨ p.seq = .waitOsc) → exec .powerGoodTimeout s = .next s) ∧
    exec (.edgePowerGoodLoss .core) s = .next { s with pins := { p with pgCore := false } } ∧
    (∀ g : Good, (g = .edgeL ∨ g = .edgeA ∨ g = .edgeH) →
      ((s.glb.fw = true ∨ s.glb.st = .fault) → Next (exec (.edgePowerGoodLoss g) s) fun t => Down t true) ∧
      (s.glb.fw = false → s.glb.st ≠ .fault → exec (.edgePowerGoodLoss g) s = .next s)) ∧
    ∀ g : Fin 16, Next (exec (.vddmPowerGoodLoss g) s) fun t => t = { s with pins := t.pins, hop := t.hop } ∧
      t.pins = { p with pgVddm := p.pgVddm &&& ~~~BitVec.ofNat 16 (2 ^ g.val) } ∧ t.hop = { s.hop with retain := t.hop.retain } ∧
      ∀ e, e ∈ t.hop.retain ↔ e ∈ s.hop.retain ∧ ∀ r < 64, groupOf r = g.val → bit e.regions r = false

/-- PERST_N and the resets of the PCIe function (R432, R559): only the function is reset: the MSI-X table, what is pending in it,
the mask and Bus Master Enable; transfers under way end with LOST, but for D3hot; cores, mills, regions and memory go on. PERST_N before
BOOT is held. SPEED is 0 for a link that is down; a link that trains reaches one of the speeds and widths of R422, in flit mode at 64 GT/s. Which it
reaches is free, and that the host sets Bus Master Enable when the link is up is the model's choice (log entry 61). -/
def PcieFunctionHolds : Prop :=
  (∀ (s : State) (at' : Nat) (j : DmaJob) (k : PcieReset), timeRuns s = true → s.pins.perst = true → (s.glb.fw = true ∨ s.glb.st = .boot) →
    s.glb.dma = [(at', j)] → (j = .table ∨ (∃ n, j = .realm n) ∨ (∃ n, j = .firmware n) ∨ ∃ o p q, j = .nonce o p q) → k ≠ .d3hot →
    ∀ i ∈ [Instr.pcieReset k, .perstN false], Next (exec i s) fun t =>
      Ended t s.mlr.op.toNat s.mlr.tag .lost ∧ t.glb.dma = [] ∧ NoEffect s t) ∧
  ∀ s : State, s.glb.dma = [] →
    let others := fun (t : State) => t = { s with glb := t.glb, pins := t.pins } ∧ t.glb.st = s.glb.st ∧ t.glb.time = s.glb.time ∧ t.glb.stat = s.glb.stat
    let cleared := fun (t : State) => t.glb.msix = [] ∧ t.glb.pba = 0 ∧ t.glb.mask = 0x1FFFFFFFFFF ∧ t.glb.busMaster = false
    (∀ k : PcieReset, timeRuns s = true → s.pins.perst = true → Next (exec (.pcieReset k) s) fun t => others t ∧ cleared t ∧
      t.glb.d3 = (match k with | .d3hot => true | .linkDown | .hotReset | .flr => false) ∧ t.pins = s.pins ∧
      (k = .linkDown → t.glb.speed = 0) ∧ (k ≠ .linkDown → t.glb.speed = s.glb.speed ∧ t.glb.width = s.glb.width ∧ t.glb.flit = s.glb.flit)) ∧
    (∀ k : PcieReset, (timeRuns s = false ∨ s.pins.perst = false) → exec (.pcieReset k) s = .next s) ∧
    (timeRuns s = true → s.pins.perst = true → Next (exec (.perstN false) s) fun t => others t ∧ cleared t ∧ t.glb.speed = 0 ∧
      t.pins = { s.pins with perst := false }) ∧
    (timeRuns s = true → s.pins.perst = false → Next (exec (.perstN true) s) fun t =>
      t = { s with glb := t.glb, pins := t.pins, free := t.free } ∧ t.glb.st = s.glb.st ∧ t.glb.time = s.glb.time ∧ t.glb.stat = s.glb.stat ∧
      t.glb.mask = s.glb.mask ∧ t.glb.msix = s.glb.msix ∧ 1 ≤ t.glb.speed ∧ t.glb.speed ≤ 6 ∧ (t.glb.width = 1 ∨ t.glb.width = 2 ∨ t.glb.width = 4) ∧
      (t.glb.speed = 6 → t.glb.flit = true) ∧ t.glb.busMaster = true ∧ t.pins = { s.pins with perst := true }) ∧
    ((s.glb.st = .standby ∨ s.glb.st = .parked) → ∀ high, s.pins.perst ≠ high →
      exec (.perstN high) s = .next { s with pins := { s.pins with perst := high } }) ∧
    ∀ high, (s.glb.st = .off ∨ s.pins.perst = high) → exec (.perstN high) s = .next s

/-- Tier 2. Power-up and power-down (R7, R558, R560, R565-R569): VDDF brings Firn up in STANDBY and its loss leaves only the record store.
PWR_ON_REQ high, or MOD_RST_N high with it, starts the sequence, held back by the interlock until PWR_ON_REQ has been low for 10 ms;
each power-good asserts the next enable, and the last puts the device into BOOT. PWR_ON_REQ low, MOD_RST_N low, a power-good that does
not come and an edge power-good that is lost put it into STANDBY, the last two under the interlock of R567. PERST_N and the resets of
the PCIe function (R432, R559): only the function is reset: the MSI-X table, what is pending in it, the mask and Bus Master Enable;
transfers under way end with LOST, but for D3hot; cores, mills, regions and memory go on. PERST_N before BOOT is held. SPEED is 0 for a
link that is down; a link that trains reaches one of the speeds and widths of R422, in flit mode at 64 GT/s. Which it reaches is free,
and that the host sets Bus Master Enable when the link is up is the model's choice (log entry 61). -/
def Obligations.PinsAndFunctionResets : Prop := PowerSequenceHolds ∧ PcieFunctionHolds

/-! ### The host's registers (00; 08; 11; 12; 13; 14) -/

/-- Tier 2. Registers of the host port (R13, R16, R315, R317, R426, R430, R466, R487, R489, R534): a record whose merge window closes enters
the global ring; FLT_TAIL and FLT_SEL move and show it; MPD_REQSEL takes a snapshot; a pool word that the checks of R287 pass is written,
and is refused otherwise; GLB_TIME goes forward only; the mask, the clock gates; an access that is not mapped, or not aligned, is logged
with UNSUPPORTED and changes nothing. What has not reached the device does nothing. How an access names its BAR, what its record holds, and which
check of R287 a pool field out of range fails are the model's choices (log entries 71 and 72). -/
def Obligations.HostRegisters : Prop :=
  ∀ (s : State) (w : Word),
    (∀ n m, (s.flt.merging.find? fun x => x.number == n) = some m →
      Next (exec (.mergeWindowClose n) s) fun t => NoEffect s t ∧ t.flt.total = s.flt.total + 1 ∧
        (∀ x ∈ t.flt.merging, x.number ≠ n) ∧ Logged s t fun r => r.code = m.record.code ∧ r.addr = m.record.addr ∧
          r.syndrome = m.record.syndrome ∧ r.seq = s.flt.total + 1) ∧
    (∀ n, (∀ x ∈ s.flt.merging, x.number ≠ n) → exec (.mergeWindowClose n) s = .next s) ∧
    (hostReach s = true →
      exec (.fltTail w) s = .next { s with flt := { s.flt with tail := bits w 0 12, unread := (s.flt.next + 4096 - bits w 0 12) % 4096 } } ∧
      exec (.fltSel w) s = .next { s with flt := { s.flt with
        sel := bits w 0 12, snap := Tbl.get {} s.flt.ring (bits w 0 12), snapTaken := true } } ∧
      (∀ u : Fin 4, bit s.clk.gate (28 + u.val) = true → Next (exec (.mpdReqsel u w) s) fun t => t = { s with pond := t.pond } ∧
        t.pond.reqs = s.pond.reqs ∧ (unitOf t u).sel = bits w 0 15 ∧
        (unitOf t u).snap = if bits w 0 15 / 8192 = u.val ∧ (reqOf s (bits w 0 15)).st ≠ .free then reqBytes (reqOf s (bits w 0 15))
          else List.replicate 128 0) ∧
      (∀ k : Fin 4, (serveOf s s.pond.poolSel).isSome = true →
        (poolCode s s.pond.poolSel k w = none → Next (exec (.mpdPool k w) s) fun t => t = { s with pond := t.pond } ∧
          t.pond.reqs = s.pond.reqs ∧ poolOf t s.pond.poolSel = poolWith (poolOf s s.pond.poolSel) k w ∧
          ∀ m, m ≠ s.pond.poolSel → poolOf t m = poolOf s m) ∧
        (reqsOf s s.pond.poolSel ≠ [] → Next (exec (.mpdPool k w) s) fun t => NoEffect s t ∧
          Logged s t fun r => r.code = .state ∧ r.cls = .host)) ∧
      exec (.glbTime w) s = .next (if (s.hop.slots.all fun p => p.2.st = .free) = true ∧ s.glb.time ≤ w.toNat
        then { s with glb := { s.glb with time := w.toNat } } else s) ∧
      (Next (exec (.glbIrqMask w) s) fun t => t = { s with glb := t.glb, out := t.out } ∧ t.glb.mask = w.setWidth 41 ∧
        t.glb.stat = s.glb.stat ∧ ∀ v < 41, bit s.glb.mask v = true → bit w v = false → bit s.glb.stat v = true →
          (Tbl.get {} s.glb.msix v).masked = false → Out.msix v ∈ t.out) ∧
      ((∀ i < 34, bit s.clk.gate i = true → bit w i = false → gateInUse s i = false) →
        exec (.clkGate w) s = .next { s with clk := { s.clk with gate := w.setWidth 34 } }) ∧
      ((∃ i < 34, bit s.clk.gate i = true ∧ bit w i = false ∧ gateInUse s i = true) → Next (exec (.clkGate w) s) fun t =>
        NoEffect s t ∧ t.clk = s.clk ∧ Logged s t fun r => r.code = .state ∧ r.cls = .host) ∧
      (∀ (a : BitVec 26) (write : Bool), Next (exec (.unsupportedRequest a write) s) fun t => NoEffect s t ∧ t.pwr = s.pwr ∧ t.clk = s.clk ∧
        Logged s t fun r => r.code = .unsupported ∧ r.cls = .host ∧ r.addr = a.toNat) ∧
      (∀ (a : BitVec 26) (half : Bool), (half = true ∨ a.toNat % 8 ≠ 0) → Next (exec (.registerWrite (a.setWidth 27) half w) s) fun t => NoEffect s t ∧ t.pwr = s.pwr ∧
        Logged s t fun r => r.code = .unsupported ∧ r.cls = .host ∧ r.addr = a.toNat) ∧
      exec (.registerWrite 0x30000 false w) s = .next (if 200 ≤ bits w 0 12 ∧ bits w 0 12 ≤ 3000
        then { s with pwr := { s.pwr with cap := BitVec.ofNat 12 (bits w 0 12) } } else s) ∧
      exec (.registerWrite 0x100 false w) s = .next { s with glb := { s.glb with stat := s.glb.stat &&& ~~~w.setWidth 41 } } ∧
      exec (.registerWrite 0x80010 false w) s = exec (.fltTail w) s ∧ exec (.registerWrite 0x108 false w) s = exec (.glbIrqMask w) s) ∧
    (hostReach s = false → ∀ i ∈ [Instr.fltTail w, .fltSel w, .mpdReqsel 0 w, .mpdPool 0 w, .glbTime w, .glbIrqMask w, .clkGate w,
      .unsupportedRequest 0 true, .registerWrite 0 false w], exec i s = .next s)

/-- Tier 2. R368: an expiry of a retransmission timer that is recognised together with the acknowledgement of its message is discarded, and
counted in SLU_LATE_GRACE (offset 0x150, so counter 10); nothing is sent again, and the acknowledgement that comes is taken. That the acknowledgement is a command of its own, after that of the expiry, is the
model's form of one cycle (log entry 2). -/
def Obligations.LateAcknowledgement : Prop :=
  ∀ (s : State) (f : Frame) (x : Session) (ack : BitVec 32) (m : TxMsg), Brings s f x 3 0 0 ack 0 [] → x.waiting = [] →
    sessionReqs s x.id = [] → m ∈ x.unacked → seqBefore m.seq ack = true → (x.unacked.map (·.seq)).Nodup →
    let u := advanceTo s m.due
    Next (exec (.rtoExpiry x.id m.seq true) s) fun t => t.sluice.sessions = s.sluice.sessions ∧ t.out = s.out ∧ NoEffect u t ∧
      Tbl.get 0 (portOf t x.port).cnt 10 = bump (Tbl.get 0 (portOf s x.port).cnt 10) ∧
      Next (exec (.ack f) t) fun v => NoEffect u v ∧
        ∃ y, sessionOf v x.id = some y ∧ m ∉ y.unacked ∧ y.unacked = x.unacked.filter fun k => !seqBefore k.seq ack
end

