-- ==== Sys2Proof/Laws/Table.lean ====
section
/-!
SUPPORT. What reading a table after writing it gives, and that every operation on tables keeps the canonical form.
-/
namespace Sys2Proof.Machine

theorem Tbl.get_nil {α : Type} (d : α) (k : Nat) : Tbl.get d [] k = d := rfl

theorem Tbl.get_cons {α : Type} (d : α) (i : Nat) (v : α) (t : Tbl α) (k : Nat) :
    Tbl.get d ((i, v) :: t) k = if i = k then v else Tbl.get d t k := rfl

theorem Tbl.get_drop_same {α : Type} (d : α) (t : Tbl α) (k : Nat) : Tbl.get d (Tbl.drop t k) k = d := by
  induction t with
  | nil => rfl
  | cons p t ih => obtain ⟨i, v⟩ := p; by_cases h : i = k <;> simp [Tbl.drop, Tbl.get, h, ih]

theorem Tbl.get_drop_other {α : Type} (d : α) (t : Tbl α) (k j : Nat) (h : j ≠ k) :
    Tbl.get d (Tbl.drop t k) j = Tbl.get d t j := by
  induction t with
  | nil => rfl
  | cons p t ih =>
    obtain ⟨i, v⟩ := p
    by_cases e : i = k
    · subst e; simp [Tbl.drop, Tbl.get, ih, Ne.symm h]
    · rw [Tbl.drop, if_neg e, Tbl.get_cons, Tbl.get_cons, ih]

/-- Reading the entry just written gives the value written. -/
@[simp] theorem Tbl.get_set_same {α : Type} [DecidableEq α] (d : α) (t : Tbl α) (k : Nat) (v : α) :
    Tbl.get d (Tbl.set d t k v) k = v := by
  induction t with
  | nil => by_cases h : v = d <;> simp [Tbl.set, Tbl.get, h]
  | cons p t ih =>
    obtain ⟨i, u⟩ := p
    unfold Tbl.set
    split
    · next h => simp [Tbl.get, Nat.ne_of_lt h, ih]
    · split
      · next h => subst h; by_cases e : v = d <;> simp [Tbl.get, e, Tbl.get_drop_same]
      · next h => by_cases e : v = d <;> simp [Tbl.get, e, h, Tbl.get_drop_same]

/-- Every other entry reads as before. -/
theorem Tbl.get_set_other {α : Type} [DecidableEq α] (d : α) (t : Tbl α) (k j : Nat) (v : α) (h : j ≠ k) :
    Tbl.get d (Tbl.set d t k v) j = Tbl.get d t j := by
  induction t with
  | nil => by_cases e : v = d <;> simp [Tbl.set, Tbl.get, e, Ne.symm h]
  | cons p t ih =>
    obtain ⟨i, u⟩ := p
    unfold Tbl.set
    split
    · simp [Tbl.get, ih]
    · split
      · next e => subst e; by_cases e : v = d <;> simp [Tbl.get, e, Tbl.get_drop_other _ _ _ _ h, Ne.symm h]
      · by_cases e : v = d <;> simp [Tbl.get, e, Tbl.get_drop_other _ _ _ _ h, Ne.symm h]

theorem Tbl.get_set {α : Type} [DecidableEq α] (d : α) (t : Tbl α) (k j : Nat) (v : α) :
    Tbl.get d (Tbl.set d t k v) j = if j = k then v else Tbl.get d t j := by
  split
  · next h => subst h; exact Tbl.get_set_same ..
  · next h => exact Tbl.get_set_other _ _ _ _ _ h

@[simp] theorem Tbl.get_upd_same {α : Type} [DecidableEq α] (d : α) (t : Tbl α) (k : Nat) (f : α → α) :
    Tbl.get d (Tbl.upd d t k f) k = f (Tbl.get d t k) := Tbl.get_set_same ..

theorem Tbl.get_upd_other {α : Type} [DecidableEq α] (d : α) (t : Tbl α) (k j : Nat) (f : α → α) (h : j ≠ k) :
    Tbl.get d (Tbl.upd d t k f) j = Tbl.get d t j := Tbl.get_set_other _ _ _ _ _ h

theorem Tbl.get_upd {α : Type} [DecidableEq α] (d : α) (t : Tbl α) (k j : Nat) (f : α → α) :
    Tbl.get d (Tbl.upd d t k f) j = if j = k then f (Tbl.get d t k) else Tbl.get d t j := Tbl.get_set ..

/-- Reading a cleared range gives the default, reading elsewhere what it gave before. -/
theorem Tbl.get_clear {α : Type} (d : α) (t : Tbl α) (lo hi k : Nat) :
    Tbl.get d (Tbl.clear t lo hi) k = if lo ≤ k ∧ k < hi then d else Tbl.get d t k := by
  induction t with
  | nil => simp [Tbl.clear, Tbl.get]
  | cons p t ih =>
    obtain ⟨i, v⟩ := p
    simp only [Tbl.clear] at ih
    by_cases keep : i < lo ∨ hi ≤ i
    · rw [Tbl.clear, List.filter_cons_of_pos (by simpa using keep), Tbl.get_cons, Tbl.get_cons, ih]
      by_cases e : i = k
      · subst e
        rw [if_pos rfl, if_pos rfl, if_neg (by omega)]
      · rw [if_neg e, if_neg e]
    · rw [Tbl.clear, List.filter_cons_of_neg (by simpa using keep), ih, Tbl.get_cons]
      by_cases e : i = k
      · subst e
        rw [if_pos (by omega), if_pos (by omega)]
      · rw [if_neg e]

/-! ### The canonical form -/

theorem Tbl.wfFrom_mono {α : Type} [DecidableEq α] (d : α) (t : Tbl α) (a b : Nat) (h : a ≤ b) (w : Tbl.wfFrom d b t = true) :
    Tbl.wfFrom d a t = true := by
  cases t with
  | nil => rfl
  | cons p t =>
    obtain ⟨i, v⟩ := p
    simp only [Tbl.wfFrom, Bool.and_eq_true, decide_eq_true_eq] at w ⊢
    exact ⟨⟨by omega, w.1.2⟩, w.2⟩

theorem Tbl.wfFrom_filter {α : Type} [DecidableEq α] (d : α) (t : Tbl α) (a : Nat) (f : Nat × α → Bool)
    (w : Tbl.wfFrom d a t = true) : Tbl.wfFrom d a (t.filter f) = true := by
  induction t generalizing a with
  | nil => rfl
  | cons p t ih =>
    obtain ⟨i, v⟩ := p
    simp only [Tbl.wfFrom, Bool.and_eq_true, decide_eq_true_eq] at w
    rw [List.filter_cons]
    split
    · simp only [Tbl.wfFrom, Bool.and_eq_true, decide_eq_true_eq]
      exact ⟨w.1, ih _ w.2⟩
    · exact Tbl.wfFrom_mono d _ a (i + 1) (by omega) (ih _ w.2)

theorem Tbl.drop_eq_filter {α : Type} (t : Tbl α) (k : Nat) : Tbl.drop t k = t.filter fun p => decide (p.1 ≠ k) := by
  induction t with
  | nil => rfl
  | cons p t ih => obtain ⟨i, v⟩ := p; by_cases h : i = k <;> simp [Tbl.drop, h, ih]

theorem Tbl.wfFrom_drop {α : Type} [DecidableEq α] (d : α) (t : Tbl α) (a k : Nat) (w : Tbl.wfFrom d a t = true) :
    Tbl.wfFrom d a (Tbl.drop t k) = true := by
  rw [Tbl.drop_eq_filter]; exact Tbl.wfFrom_filter d t a _ w

theorem Tbl.wfFrom_set {α : Type} [DecidableEq α] (d : α) (t : Tbl α) (a k : Nat) (v : α) (h : a ≤ k)
    (w : Tbl.wfFrom d a t = true) : Tbl.wfFrom d a (Tbl.set d t k v) = true := by
  induction t generalizing a with
  | nil => by_cases e : v = d <;> simp [Tbl.set, Tbl.wfFrom, e, h]
  | cons p t ih =>
    obtain ⟨i, u⟩ := p
    have w' := w
    simp only [Tbl.wfFrom, Bool.and_eq_true, decide_eq_true_eq] at w
    unfold Tbl.set
    split
    · simp only [Tbl.wfFrom, Bool.and_eq_true, decide_eq_true_eq]
      exact ⟨w.1, ih _ (by omega) w.2⟩
    · split
      · next e =>
        subst e
        split
        · exact Tbl.wfFrom_drop d t a i (Tbl.wfFrom_mono d t a (i + 1) (by omega) w.2)
        · next n => simp only [Tbl.wfFrom, Bool.and_eq_true, decide_eq_true_eq]; exact ⟨⟨h, n⟩, w.2⟩
      · split
        · simp only [Tbl.wfFrom, Bool.and_eq_true, decide_eq_true_eq]
          exact ⟨w.1, Tbl.wfFrom_drop d t (i + 1) k w.2⟩
        · next n =>
          simp only [Tbl.wfFrom, Bool.and_eq_true, decide_eq_true_eq]
          exact ⟨⟨h, n⟩, ⟨⟨by omega, w.1.2⟩, w.2⟩⟩

/-- Writing an entry keeps the canonical form. -/
theorem Tbl.wf_set {α : Type} [DecidableEq α] (d : α) (t : Tbl α) (k : Nat) (v : α) (w : Tbl.wf d t = true) :
    Tbl.wf d (Tbl.set d t k v) = true := Tbl.wfFrom_set d t 0 k v (Nat.zero_le k) w

theorem Tbl.wf_upd {α : Type} [DecidableEq α] (d : α) (t : Tbl α) (k : Nat) (f : α → α) (w : Tbl.wf d t = true) :
    Tbl.wf d (Tbl.upd d t k f) = true := Tbl.wf_set d t k _ w

theorem Tbl.wf_filter {α : Type} [DecidableEq α] (d : α) (t : Tbl α) (f : Nat × α → Bool) (w : Tbl.wf d t = true) :
    Tbl.wf d (t.filter f) = true := Tbl.wfFrom_filter d t 0 f w

theorem Tbl.wf_clear {α : Type} [DecidableEq α] (d : α) (t : Tbl α) (lo hi : Nat) (w : Tbl.wf d t = true) :
    Tbl.wf d (Tbl.clear t lo hi) = true := Tbl.wf_filter d t _ w

end Sys2Proof.Machine
end

