-- ==== Sys2Proof/Laws/State.lean ====
section
/-!
SUPPORT. What each field of the state is after each of the operations that change one table or one part of it: the part changed
by its function, every other field as before.
-/
namespace Sys2Proof.Machine

/-! ### updCore -/

@[simp] theorem updCore_pending (s : State) (c : Nat) (f : Core → Core) : (updCore s c f).pending = s.pending := rfl
@[simp] theorem updCore_free (s : State) (c : Nat) (f : Core → Core) : (updCore s c f).free = s.free := rfl
@[simp] theorem updCore_ids (s : State) (c : Nat) (f : Core → Core) : (updCore s c f).ids = s.ids := rfl
@[simp] theorem updCore_mem (s : State) (c : Nat) (f : Core → Core) : (updCore s c f).mem = s.mem := rfl
@[simp] theorem updCore_prog (s : State) (c : Nat) (f : Core → Core) : (updCore s c f).prog = s.prog := rfl
@[simp] theorem updCore_poison (s : State) (c : Nat) (f : Core → Core) : (updCore s c f).poison = s.poison := rfl
@[simp] theorem updCore_glb (s : State) (c : Nat) (f : Core → Core) : (updCore s c f).glb = s.glb := rfl
@[simp] theorem updCore_regions (s : State) (c : Nat) (f : Core → Core) : (updCore s c f).regions = s.regions := rfl
@[simp] theorem updCore_mills (s : State) (c : Nat) (f : Core → Core) : (updCore s c f).mills = s.mills := rfl
@[simp] theorem updCore_race (s : State) (c : Nat) (f : Core → Core) : (updCore s c f).race = s.race := rfl
@[simp] theorem updCore_hop (s : State) (c : Nat) (f : Core → Core) : (updCore s c f).hop = s.hop := rfl
@[simp] theorem updCore_pond (s : State) (c : Nat) (f : Core → Core) : (updCore s c f).pond = s.pond := rfl
@[simp] theorem updCore_sluice (s : State) (c : Nat) (f : Core → Core) : (updCore s c f).sluice = s.sluice := rfl
@[simp] theorem updCore_links (s : State) (c : Nat) (f : Core → Core) : (updCore s c f).links = s.links := rfl
@[simp] theorem updCore_snow (s : State) (c : Nat) (f : Core → Core) : (updCore s c f).snow = s.snow := rfl
@[simp] theorem updCore_pwr (s : State) (c : Nat) (f : Core → Core) : (updCore s c f).pwr = s.pwr := rfl
@[simp] theorem updCore_clk (s : State) (c : Nat) (f : Core → Core) : (updCore s c f).clk = s.clk := rfl
@[simp] theorem updCore_thm (s : State) (c : Nat) (f : Core → Core) : (updCore s c f).thm = s.thm := rfl
@[simp] theorem updCore_frn (s : State) (c : Nat) (f : Core → Core) : (updCore s c f).frn = s.frn := rfl
@[simp] theorem updCore_flt (s : State) (c : Nat) (f : Core → Core) : (updCore s c f).flt = s.flt := rfl
@[simp] theorem updCore_bst (s : State) (c : Nat) (f : Core → Core) : (updCore s c f).bst = s.bst := rfl
@[simp] theorem updCore_moraine (s : State) (c : Nat) (f : Core → Core) : (updCore s c f).moraine = s.moraine := rfl
@[simp] theorem updCore_bootno (s : State) (c : Nat) (f : Core → Core) : (updCore s c f).bootno = s.bootno := rfl
@[simp] theorem updCore_mlr (s : State) (c : Nat) (f : Core → Core) : (updCore s c f).mlr = s.mlr := rfl
@[simp] theorem updCore_sec (s : State) (c : Nat) (f : Core → Core) : (updCore s c f).sec = s.sec := rfl
@[simp] theorem updCore_realms (s : State) (c : Nat) (f : Core → Core) : (updCore s c f).realms = s.realms := rfl
@[simp] theorem updCore_pins (s : State) (c : Nat) (f : Core → Core) : (updCore s c f).pins = s.pins := rfl
@[simp] theorem updCore_out (s : State) (c : Nat) (f : Core → Core) : (updCore s c f).out = s.out := rfl

@[simp] theorem coreOf_updCore_same (s : State) (c : Nat) (f : Core → Core) : coreOf (updCore s c f) c = f (coreOf s c) := Tbl.get_upd_same ..

theorem coreOf_updCore_other (s : State) (c : Nat) (f : Core → Core) (j : Nat) (h : j ≠ c) : coreOf (updCore s c f) j = coreOf s j :=
  Tbl.get_upd_other _ _ _ _ _ h

/-! ### updRegion -/

@[simp] theorem updRegion_pending (s : State) (r : Nat) (f : Region → Region) : (updRegion s r f).pending = s.pending := rfl
@[simp] theorem updRegion_free (s : State) (r : Nat) (f : Region → Region) : (updRegion s r f).free = s.free := rfl
@[simp] theorem updRegion_ids (s : State) (r : Nat) (f : Region → Region) : (updRegion s r f).ids = s.ids := rfl
@[simp] theorem updRegion_mem (s : State) (r : Nat) (f : Region → Region) : (updRegion s r f).mem = s.mem := rfl
@[simp] theorem updRegion_prog (s : State) (r : Nat) (f : Region → Region) : (updRegion s r f).prog = s.prog := rfl
@[simp] theorem updRegion_poison (s : State) (r : Nat) (f : Region → Region) : (updRegion s r f).poison = s.poison := rfl
@[simp] theorem updRegion_glb (s : State) (r : Nat) (f : Region → Region) : (updRegion s r f).glb = s.glb := rfl
@[simp] theorem updRegion_mills (s : State) (r : Nat) (f : Region → Region) : (updRegion s r f).mills = s.mills := rfl
@[simp] theorem updRegion_cores (s : State) (r : Nat) (f : Region → Region) : (updRegion s r f).cores = s.cores := rfl
@[simp] theorem updRegion_race (s : State) (r : Nat) (f : Region → Region) : (updRegion s r f).race = s.race := rfl
@[simp] theorem updRegion_hop (s : State) (r : Nat) (f : Region → Region) : (updRegion s r f).hop = s.hop := rfl
@[simp] theorem updRegion_pond (s : State) (r : Nat) (f : Region → Region) : (updRegion s r f).pond = s.pond := rfl
@[simp] theorem updRegion_sluice (s : State) (r : Nat) (f : Region → Region) : (updRegion s r f).sluice = s.sluice := rfl
@[simp] theorem updRegion_links (s : State) (r : Nat) (f : Region → Region) : (updRegion s r f).links = s.links := rfl
@[simp] theorem updRegion_snow (s : State) (r : Nat) (f : Region → Region) : (updRegion s r f).snow = s.snow := rfl
@[simp] theorem updRegion_pwr (s : State) (r : Nat) (f : Region → Region) : (updRegion s r f).pwr = s.pwr := rfl
@[simp] theorem updRegion_clk (s : State) (r : Nat) (f : Region → Region) : (updRegion s r f).clk = s.clk := rfl
@[simp] theorem updRegion_thm (s : State) (r : Nat) (f : Region → Region) : (updRegion s r f).thm = s.thm := rfl
@[simp] theorem updRegion_frn (s : State) (r : Nat) (f : Region → Region) : (updRegion s r f).frn = s.frn := rfl
@[simp] theorem updRegion_flt (s : State) (r : Nat) (f : Region → Region) : (updRegion s r f).flt = s.flt := rfl
@[simp] theorem updRegion_bst (s : State) (r : Nat) (f : Region → Region) : (updRegion s r f).bst = s.bst := rfl
@[simp] theorem updRegion_moraine (s : State) (r : Nat) (f : Region → Region) : (updRegion s r f).moraine = s.moraine := rfl
@[simp] theorem updRegion_bootno (s : State) (r : Nat) (f : Region → Region) : (updRegion s r f).bootno = s.bootno := rfl
@[simp] theorem updRegion_mlr (s : State) (r : Nat) (f : Region → Region) : (updRegion s r f).mlr = s.mlr := rfl
@[simp] theorem updRegion_sec (s : State) (r : Nat) (f : Region → Region) : (updRegion s r f).sec = s.sec := rfl
@[simp] theorem updRegion_realms (s : State) (r : Nat) (f : Region → Region) : (updRegion s r f).realms = s.realms := rfl
@[simp] theorem updRegion_pins (s : State) (r : Nat) (f : Region → Region) : (updRegion s r f).pins = s.pins := rfl
@[simp] theorem updRegion_out (s : State) (r : Nat) (f : Region → Region) : (updRegion s r f).out = s.out := rfl

@[simp] theorem regionOf_updRegion_same (s : State) (r : Nat) (f : Region → Region) : regionOf (updRegion s r f) r = f (regionOf s r) := Tbl.get_upd_same ..

theorem regionOf_updRegion_other (s : State) (r : Nat) (f : Region → Region) (j : Nat) (h : j ≠ r) : regionOf (updRegion s r f) j = regionOf s j :=
  Tbl.get_upd_other _ _ _ _ _ h

/-! ### updMill -/

@[simp] theorem updMill_pending (s : State) (m : Nat) (f : Mill → Mill) : (updMill s m f).pending = s.pending := rfl
@[simp] theorem updMill_free (s : State) (m : Nat) (f : Mill → Mill) : (updMill s m f).free = s.free := rfl
@[simp] theorem updMill_ids (s : State) (m : Nat) (f : Mill → Mill) : (updMill s m f).ids = s.ids := rfl
@[simp] theorem updMill_mem (s : State) (m : Nat) (f : Mill → Mill) : (updMill s m f).mem = s.mem := rfl
@[simp] theorem updMill_prog (s : State) (m : Nat) (f : Mill → Mill) : (updMill s m f).prog = s.prog := rfl
@[simp] theorem updMill_poison (s : State) (m : Nat) (f : Mill → Mill) : (updMill s m f).poison = s.poison := rfl
@[simp] theorem updMill_glb (s : State) (m : Nat) (f : Mill → Mill) : (updMill s m f).glb = s.glb := rfl
@[simp] theorem updMill_regions (s : State) (m : Nat) (f : Mill → Mill) : (updMill s m f).regions = s.regions := rfl
@[simp] theorem updMill_cores (s : State) (m : Nat) (f : Mill → Mill) : (updMill s m f).cores = s.cores := rfl
@[simp] theorem updMill_race (s : State) (m : Nat) (f : Mill → Mill) : (updMill s m f).race = s.race := rfl
@[simp] theorem updMill_hop (s : State) (m : Nat) (f : Mill → Mill) : (updMill s m f).hop = s.hop := rfl
@[simp] theorem updMill_pond (s : State) (m : Nat) (f : Mill → Mill) : (updMill s m f).pond = s.pond := rfl
@[simp] theorem updMill_sluice (s : State) (m : Nat) (f : Mill → Mill) : (updMill s m f).sluice = s.sluice := rfl
@[simp] theorem updMill_links (s : State) (m : Nat) (f : Mill → Mill) : (updMill s m f).links = s.links := rfl
@[simp] theorem updMill_snow (s : State) (m : Nat) (f : Mill → Mill) : (updMill s m f).snow = s.snow := rfl
@[simp] theorem updMill_pwr (s : State) (m : Nat) (f : Mill → Mill) : (updMill s m f).pwr = s.pwr := rfl
@[simp] theorem updMill_clk (s : State) (m : Nat) (f : Mill → Mill) : (updMill s m f).clk = s.clk := rfl
@[simp] theorem updMill_thm (s : State) (m : Nat) (f : Mill → Mill) : (updMill s m f).thm = s.thm := rfl
@[simp] theorem updMill_frn (s : State) (m : Nat) (f : Mill → Mill) : (updMill s m f).frn = s.frn := rfl
@[simp] theorem updMill_flt (s : State) (m : Nat) (f : Mill → Mill) : (updMill s m f).flt = s.flt := rfl
@[simp] theorem updMill_bst (s : State) (m : Nat) (f : Mill → Mill) : (updMill s m f).bst = s.bst := rfl
@[simp] theorem updMill_moraine (s : State) (m : Nat) (f : Mill → Mill) : (updMill s m f).moraine = s.moraine := rfl
@[simp] theorem updMill_bootno (s : State) (m : Nat) (f : Mill → Mill) : (updMill s m f).bootno = s.bootno := rfl
@[simp] theorem updMill_mlr (s : State) (m : Nat) (f : Mill → Mill) : (updMill s m f).mlr = s.mlr := rfl
@[simp] theorem updMill_sec (s : State) (m : Nat) (f : Mill → Mill) : (updMill s m f).sec = s.sec := rfl
@[simp] theorem updMill_realms (s : State) (m : Nat) (f : Mill → Mill) : (updMill s m f).realms = s.realms := rfl
@[simp] theorem updMill_pins (s : State) (m : Nat) (f : Mill → Mill) : (updMill s m f).pins = s.pins := rfl
@[simp] theorem updMill_out (s : State) (m : Nat) (f : Mill → Mill) : (updMill s m f).out = s.out := rfl

@[simp] theorem millOf_updMill_same (s : State) (m : Nat) (f : Mill → Mill) : millOf (updMill s m f) m = f (millOf s m) := Tbl.get_upd_same ..

theorem millOf_updMill_other (s : State) (m : Nat) (f : Mill → Mill) (j : Nat) (h : j ≠ m) : millOf (updMill s m f) j = millOf s j :=
  Tbl.get_upd_other _ _ _ _ _ h

/-! ### updLink -/

@[simp] theorem updLink_pending (s : State) (l : Nat) (f : Link → Link) : (updLink s l f).pending = s.pending := rfl
@[simp] theorem updLink_free (s : State) (l : Nat) (f : Link → Link) : (updLink s l f).free = s.free := rfl
@[simp] theorem updLink_ids (s : State) (l : Nat) (f : Link → Link) : (updLink s l f).ids = s.ids := rfl
@[simp] theorem updLink_mem (s : State) (l : Nat) (f : Link → Link) : (updLink s l f).mem = s.mem := rfl
@[simp] theorem updLink_prog (s : State) (l : Nat) (f : Link → Link) : (updLink s l f).prog = s.prog := rfl
@[simp] theorem updLink_poison (s : State) (l : Nat) (f : Link → Link) : (updLink s l f).poison = s.poison := rfl
@[simp] theorem updLink_glb (s : State) (l : Nat) (f : Link → Link) : (updLink s l f).glb = s.glb := rfl
@[simp] theorem updLink_regions (s : State) (l : Nat) (f : Link → Link) : (updLink s l f).regions = s.regions := rfl
@[simp] theorem updLink_mills (s : State) (l : Nat) (f : Link → Link) : (updLink s l f).mills = s.mills := rfl
@[simp] theorem updLink_cores (s : State) (l : Nat) (f : Link → Link) : (updLink s l f).cores = s.cores := rfl
@[simp] theorem updLink_race (s : State) (l : Nat) (f : Link → Link) : (updLink s l f).race = s.race := rfl
@[simp] theorem updLink_hop (s : State) (l : Nat) (f : Link → Link) : (updLink s l f).hop = s.hop := rfl
@[simp] theorem updLink_pond (s : State) (l : Nat) (f : Link → Link) : (updLink s l f).pond = s.pond := rfl
@[simp] theorem updLink_sluice (s : State) (l : Nat) (f : Link → Link) : (updLink s l f).sluice = s.sluice := rfl
@[simp] theorem updLink_snow (s : State) (l : Nat) (f : Link → Link) : (updLink s l f).snow = s.snow := rfl
@[simp] theorem updLink_pwr (s : State) (l : Nat) (f : Link → Link) : (updLink s l f).pwr = s.pwr := rfl
@[simp] theorem updLink_clk (s : State) (l : Nat) (f : Link → Link) : (updLink s l f).clk = s.clk := rfl
@[simp] theorem updLink_thm (s : State) (l : Nat) (f : Link → Link) : (updLink s l f).thm = s.thm := rfl
@[simp] theorem updLink_frn (s : State) (l : Nat) (f : Link → Link) : (updLink s l f).frn = s.frn := rfl
@[simp] theorem updLink_flt (s : State) (l : Nat) (f : Link → Link) : (updLink s l f).flt = s.flt := rfl
@[simp] theorem updLink_bst (s : State) (l : Nat) (f : Link → Link) : (updLink s l f).bst = s.bst := rfl
@[simp] theorem updLink_moraine (s : State) (l : Nat) (f : Link → Link) : (updLink s l f).moraine = s.moraine := rfl
@[simp] theorem updLink_bootno (s : State) (l : Nat) (f : Link → Link) : (updLink s l f).bootno = s.bootno := rfl
@[simp] theorem updLink_mlr (s : State) (l : Nat) (f : Link → Link) : (updLink s l f).mlr = s.mlr := rfl
@[simp] theorem updLink_sec (s : State) (l : Nat) (f : Link → Link) : (updLink s l f).sec = s.sec := rfl
@[simp] theorem updLink_realms (s : State) (l : Nat) (f : Link → Link) : (updLink s l f).realms = s.realms := rfl
@[simp] theorem updLink_pins (s : State) (l : Nat) (f : Link → Link) : (updLink s l f).pins = s.pins := rfl
@[simp] theorem updLink_out (s : State) (l : Nat) (f : Link → Link) : (updLink s l f).out = s.out := rfl

@[simp] theorem linkOf_updLink_same (s : State) (l : Nat) (f : Link → Link) : linkOf (updLink s l f) l = f (linkOf s l) := Tbl.get_upd_same ..

theorem linkOf_updLink_other (s : State) (l : Nat) (f : Link → Link) (j : Nat) (h : j ≠ l) : linkOf (updLink s l f) j = linkOf s j :=
  Tbl.get_upd_other _ _ _ _ _ h

/-! ### updRealm -/

@[simp] theorem updRealm_pending (s : State) (k : Nat) (f : Realm → Realm) : (updRealm s k f).pending = s.pending := rfl
@[simp] theorem updRealm_free (s : State) (k : Nat) (f : Realm → Realm) : (updRealm s k f).free = s.free := rfl
@[simp] theorem updRealm_ids (s : State) (k : Nat) (f : Realm → Realm) : (updRealm s k f).ids = s.ids := rfl
@[simp] theorem updRealm_mem (s : State) (k : Nat) (f : Realm → Realm) : (updRealm s k f).mem = s.mem := rfl
@[simp] theorem updRealm_prog (s : State) (k : Nat) (f : Realm → Realm) : (updRealm s k f).prog = s.prog := rfl
@[simp] theorem updRealm_poison (s : State) (k : Nat) (f : Realm → Realm) : (updRealm s k f).poison = s.poison := rfl
@[simp] theorem updRealm_glb (s : State) (k : Nat) (f : Realm → Realm) : (updRealm s k f).glb = s.glb := rfl
@[simp] theorem updRealm_regions (s : State) (k : Nat) (f : Realm → Realm) : (updRealm s k f).regions = s.regions := rfl
@[simp] theorem updRealm_mills (s : State) (k : Nat) (f : Realm → Realm) : (updRealm s k f).mills = s.mills := rfl
@[simp] theorem updRealm_cores (s : State) (k : Nat) (f : Realm → Realm) : (updRealm s k f).cores = s.cores := rfl
@[simp] theorem updRealm_race (s : State) (k : Nat) (f : Realm → Realm) : (updRealm s k f).race = s.race := rfl
@[simp] theorem updRealm_hop (s : State) (k : Nat) (f : Realm → Realm) : (updRealm s k f).hop = s.hop := rfl
@[simp] theorem updRealm_pond (s : State) (k : Nat) (f : Realm → Realm) : (updRealm s k f).pond = s.pond := rfl
@[simp] theorem updRealm_sluice (s : State) (k : Nat) (f : Realm → Realm) : (updRealm s k f).sluice = s.sluice := rfl
@[simp] theorem updRealm_links (s : State) (k : Nat) (f : Realm → Realm) : (updRealm s k f).links = s.links := rfl
@[simp] theorem updRealm_snow (s : State) (k : Nat) (f : Realm → Realm) : (updRealm s k f).snow = s.snow := rfl
@[simp] theorem updRealm_pwr (s : State) (k : Nat) (f : Realm → Realm) : (updRealm s k f).pwr = s.pwr := rfl
@[simp] theorem updRealm_clk (s : State) (k : Nat) (f : Realm → Realm) : (updRealm s k f).clk = s.clk := rfl
@[simp] theorem updRealm_thm (s : State) (k : Nat) (f : Realm → Realm) : (updRealm s k f).thm = s.thm := rfl
@[simp] theorem updRealm_frn (s : State) (k : Nat) (f : Realm → Realm) : (updRealm s k f).frn = s.frn := rfl
@[simp] theorem updRealm_flt (s : State) (k : Nat) (f : Realm → Realm) : (updRealm s k f).flt = s.flt := rfl
@[simp] theorem updRealm_bst (s : State) (k : Nat) (f : Realm → Realm) : (updRealm s k f).bst = s.bst := rfl
@[simp] theorem updRealm_moraine (s : State) (k : Nat) (f : Realm → Realm) : (updRealm s k f).moraine = s.moraine := rfl
@[simp] theorem updRealm_bootno (s : State) (k : Nat) (f : Realm → Realm) : (updRealm s k f).bootno = s.bootno := rfl
@[simp] theorem updRealm_mlr (s : State) (k : Nat) (f : Realm → Realm) : (updRealm s k f).mlr = s.mlr := rfl
@[simp] theorem updRealm_sec (s : State) (k : Nat) (f : Realm → Realm) : (updRealm s k f).sec = s.sec := rfl
@[simp] theorem updRealm_pins (s : State) (k : Nat) (f : Realm → Realm) : (updRealm s k f).pins = s.pins := rfl
@[simp] theorem updRealm_out (s : State) (k : Nat) (f : Realm → Realm) : (updRealm s k f).out = s.out := rfl

@[simp] theorem realmOf_updRealm_same (s : State) (k : Nat) (f : Realm → Realm) : realmOf (updRealm s k f) k = f (realmOf s k) := Tbl.get_upd_same ..

theorem realmOf_updRealm_other (s : State) (k : Nat) (f : Realm → Realm) (j : Nat) (h : j ≠ k) : realmOf (updRealm s k f) j = realmOf s j :=
  Tbl.get_upd_other _ _ _ _ _ h

/-! ### updSlot -/

@[simp] theorem updSlot_pending (s : State) (n : Nat) (f : Slot → Slot) : (updSlot s n f).pending = s.pending := rfl
@[simp] theorem updSlot_free (s : State) (n : Nat) (f : Slot → Slot) : (updSlot s n f).free = s.free := rfl
@[simp] theorem updSlot_ids (s : State) (n : Nat) (f : Slot → Slot) : (updSlot s n f).ids = s.ids := rfl
@[simp] theorem updSlot_mem (s : State) (n : Nat) (f : Slot → Slot) : (updSlot s n f).mem = s.mem := rfl
@[simp] theorem updSlot_prog (s : State) (n : Nat) (f : Slot → Slot) : (updSlot s n f).prog = s.prog := rfl
@[simp] theorem updSlot_poison (s : State) (n : Nat) (f : Slot → Slot) : (updSlot s n f).poison = s.poison := rfl
@[simp] theorem updSlot_glb (s : State) (n : Nat) (f : Slot → Slot) : (updSlot s n f).glb = s.glb := rfl
@[simp] theorem updSlot_regions (s : State) (n : Nat) (f : Slot → Slot) : (updSlot s n f).regions = s.regions := rfl
@[simp] theorem updSlot_mills (s : State) (n : Nat) (f : Slot → Slot) : (updSlot s n f).mills = s.mills := rfl
@[simp] theorem updSlot_cores (s : State) (n : Nat) (f : Slot → Slot) : (updSlot s n f).cores = s.cores := rfl
@[simp] theorem updSlot_race (s : State) (n : Nat) (f : Slot → Slot) : (updSlot s n f).race = s.race := rfl
@[simp] theorem updSlot_pond (s : State) (n : Nat) (f : Slot → Slot) : (updSlot s n f).pond = s.pond := rfl
@[simp] theorem updSlot_sluice (s : State) (n : Nat) (f : Slot → Slot) : (updSlot s n f).sluice = s.sluice := rfl
@[simp] theorem updSlot_links (s : State) (n : Nat) (f : Slot → Slot) : (updSlot s n f).links = s.links := rfl
@[simp] theorem updSlot_snow (s : State) (n : Nat) (f : Slot → Slot) : (updSlot s n f).snow = s.snow := rfl
@[simp] theorem updSlot_pwr (s : State) (n : Nat) (f : Slot → Slot) : (updSlot s n f).pwr = s.pwr := rfl
@[simp] theorem updSlot_clk (s : State) (n : Nat) (f : Slot → Slot) : (updSlot s n f).clk = s.clk := rfl
@[simp] theorem updSlot_thm (s : State) (n : Nat) (f : Slot → Slot) : (updSlot s n f).thm = s.thm := rfl
@[simp] theorem updSlot_frn (s : State) (n : Nat) (f : Slot → Slot) : (updSlot s n f).frn = s.frn := rfl
@[simp] theorem updSlot_flt (s : State) (n : Nat) (f : Slot → Slot) : (updSlot s n f).flt = s.flt := rfl
@[simp] theorem updSlot_bst (s : State) (n : Nat) (f : Slot → Slot) : (updSlot s n f).bst = s.bst := rfl
@[simp] theorem updSlot_moraine (s : State) (n : Nat) (f : Slot → Slot) : (updSlot s n f).moraine = s.moraine := rfl
@[simp] theorem updSlot_bootno (s : State) (n : Nat) (f : Slot → Slot) : (updSlot s n f).bootno = s.bootno := rfl
@[simp] theorem updSlot_mlr (s : State) (n : Nat) (f : Slot → Slot) : (updSlot s n f).mlr = s.mlr := rfl
@[simp] theorem updSlot_sec (s : State) (n : Nat) (f : Slot → Slot) : (updSlot s n f).sec = s.sec := rfl
@[simp] theorem updSlot_realms (s : State) (n : Nat) (f : Slot → Slot) : (updSlot s n f).realms = s.realms := rfl
@[simp] theorem updSlot_pins (s : State) (n : Nat) (f : Slot → Slot) : (updSlot s n f).pins = s.pins := rfl
@[simp] theorem updSlot_out (s : State) (n : Nat) (f : Slot → Slot) : (updSlot s n f).out = s.out := rfl

@[simp] theorem slotOf_updSlot_same (s : State) (n : Nat) (f : Slot → Slot) : slotOf (updSlot s n f) n = f (slotOf s n) := Tbl.get_upd_same ..

theorem slotOf_updSlot_other (s : State) (n : Nat) (f : Slot → Slot) (j : Nat) (h : j ≠ n) : slotOf (updSlot s n f) j = slotOf s j :=
  Tbl.get_upd_other _ _ _ _ _ h

/-! ### updReq -/

@[simp] theorem updReq_pending (s : State) (q : Nat) (f : Req → Req) : (updReq s q f).pending = s.pending := rfl
@[simp] theorem updReq_free (s : State) (q : Nat) (f : Req → Req) : (updReq s q f).free = s.free := rfl
@[simp] theorem updReq_ids (s : State) (q : Nat) (f : Req → Req) : (updReq s q f).ids = s.ids := rfl
@[simp] theorem updReq_mem (s : State) (q : Nat) (f : Req → Req) : (updReq s q f).mem = s.mem := rfl
@[simp] theorem updReq_prog (s : State) (q : Nat) (f : Req → Req) : (updReq s q f).prog = s.prog := rfl
@[simp] theorem updReq_poison (s : State) (q : Nat) (f : Req → Req) : (updReq s q f).poison = s.poison := rfl
@[simp] theorem updReq_glb (s : State) (q : Nat) (f : Req → Req) : (updReq s q f).glb = s.glb := rfl
@[simp] theorem updReq_regions (s : State) (q : Nat) (f : Req → Req) : (updReq s q f).regions = s.regions := rfl
@[simp] theorem updReq_mills (s : State) (q : Nat) (f : Req → Req) : (updReq s q f).mills = s.mills := rfl
@[simp] theorem updReq_cores (s : State) (q : Nat) (f : Req → Req) : (updReq s q f).cores = s.cores := rfl
@[simp] theorem updReq_race (s : State) (q : Nat) (f : Req → Req) : (updReq s q f).race = s.race := rfl
@[simp] theorem updReq_hop (s : State) (q : Nat) (f : Req → Req) : (updReq s q f).hop = s.hop := rfl
@[simp] theorem updReq_sluice (s : State) (q : Nat) (f : Req → Req) : (updReq s q f).sluice = s.sluice := rfl
@[simp] theorem updReq_links (s : State) (q : Nat) (f : Req → Req) : (updReq s q f).links = s.links := rfl
@[simp] theorem updReq_snow (s : State) (q : Nat) (f : Req → Req) : (updReq s q f).snow = s.snow := rfl
@[simp] theorem updReq_pwr (s : State) (q : Nat) (f : Req → Req) : (updReq s q f).pwr = s.pwr := rfl
@[simp] theorem updReq_clk (s : State) (q : Nat) (f : Req → Req) : (updReq s q f).clk = s.clk := rfl
@[simp] theorem updReq_thm (s : State) (q : Nat) (f : Req → Req) : (updReq s q f).thm = s.thm := rfl
@[simp] theorem updReq_frn (s : State) (q : Nat) (f : Req → Req) : (updReq s q f).frn = s.frn := rfl
@[simp] theorem updReq_flt (s : State) (q : Nat) (f : Req → Req) : (updReq s q f).flt = s.flt := rfl
@[simp] theorem updReq_bst (s : State) (q : Nat) (f : Req → Req) : (updReq s q f).bst = s.bst := rfl
@[simp] theorem updReq_moraine (s : State) (q : Nat) (f : Req → Req) : (updReq s q f).moraine = s.moraine := rfl
@[simp] theorem updReq_bootno (s : State) (q : Nat) (f : Req → Req) : (updReq s q f).bootno = s.bootno := rfl
@[simp] theorem updReq_mlr (s : State) (q : Nat) (f : Req → Req) : (updReq s q f).mlr = s.mlr := rfl
@[simp] theorem updReq_sec (s : State) (q : Nat) (f : Req → Req) : (updReq s q f).sec = s.sec := rfl
@[simp] theorem updReq_realms (s : State) (q : Nat) (f : Req → Req) : (updReq s q f).realms = s.realms := rfl
@[simp] theorem updReq_pins (s : State) (q : Nat) (f : Req → Req) : (updReq s q f).pins = s.pins := rfl
@[simp] theorem updReq_out (s : State) (q : Nat) (f : Req → Req) : (updReq s q f).out = s.out := rfl

@[simp] theorem reqOf_updReq_same (s : State) (q : Nat) (f : Req → Req) : reqOf (updReq s q f) q = f (reqOf s q) := Tbl.get_upd_same ..

theorem reqOf_updReq_other (s : State) (q : Nat) (f : Req → Req) (j : Nat) (h : j ≠ q) : reqOf (updReq s q f) j = reqOf s j :=
  Tbl.get_upd_other _ _ _ _ _ h

/-! ### updPool -/

@[simp] theorem updPool_pending (s : State) (m : Nat) (f : Pool → Pool) : (updPool s m f).pending = s.pending := rfl
@[simp] theorem updPool_free (s : State) (m : Nat) (f : Pool → Pool) : (updPool s m f).free = s.free := rfl
@[simp] theorem updPool_ids (s : State) (m : Nat) (f : Pool → Pool) : (updPool s m f).ids = s.ids := rfl
@[simp] theorem updPool_mem (s : State) (m : Nat) (f : Pool → Pool) : (updPool s m f).mem = s.mem := rfl
@[simp] theorem updPool_prog (s : State) (m : Nat) (f : Pool → Pool) : (updPool s m f).prog = s.prog := rfl
@[simp] theorem updPool_poison (s : State) (m : Nat) (f : Pool → Pool) : (updPool s m f).poison = s.poison := rfl
@[simp] theorem updPool_glb (s : State) (m : Nat) (f : Pool → Pool) : (updPool s m f).glb = s.glb := rfl
@[simp] theorem updPool_regions (s : State) (m : Nat) (f : Pool → Pool) : (updPool s m f).regions = s.regions := rfl
@[simp] theorem updPool_mills (s : State) (m : Nat) (f : Pool → Pool) : (updPool s m f).mills = s.mills := rfl
@[simp] theorem updPool_cores (s : State) (m : Nat) (f : Pool → Pool) : (updPool s m f).cores = s.cores := rfl
@[simp] theorem updPool_race (s : State) (m : Nat) (f : Pool → Pool) : (updPool s m f).race = s.race := rfl
@[simp] theorem updPool_hop (s : State) (m : Nat) (f : Pool → Pool) : (updPool s m f).hop = s.hop := rfl
@[simp] theorem updPool_sluice (s : State) (m : Nat) (f : Pool → Pool) : (updPool s m f).sluice = s.sluice := rfl
@[simp] theorem updPool_links (s : State) (m : Nat) (f : Pool → Pool) : (updPool s m f).links = s.links := rfl
@[simp] theorem updPool_snow (s : State) (m : Nat) (f : Pool → Pool) : (updPool s m f).snow = s.snow := rfl
@[simp] theorem updPool_pwr (s : State) (m : Nat) (f : Pool → Pool) : (updPool s m f).pwr = s.pwr := rfl
@[simp] theorem updPool_clk (s : State) (m : Nat) (f : Pool → Pool) : (updPool s m f).clk = s.clk := rfl
@[simp] theorem updPool_thm (s : State) (m : Nat) (f : Pool → Pool) : (updPool s m f).thm = s.thm := rfl
@[simp] theorem updPool_frn (s : State) (m : Nat) (f : Pool → Pool) : (updPool s m f).frn = s.frn := rfl
@[simp] theorem updPool_flt (s : State) (m : Nat) (f : Pool → Pool) : (updPool s m f).flt = s.flt := rfl
@[simp] theorem updPool_bst (s : State) (m : Nat) (f : Pool → Pool) : (updPool s m f).bst = s.bst := rfl
@[simp] theorem updPool_moraine (s : State) (m : Nat) (f : Pool → Pool) : (updPool s m f).moraine = s.moraine := rfl
@[simp] theorem updPool_bootno (s : State) (m : Nat) (f : Pool → Pool) : (updPool s m f).bootno = s.bootno := rfl
@[simp] theorem updPool_mlr (s : State) (m : Nat) (f : Pool → Pool) : (updPool s m f).mlr = s.mlr := rfl
@[simp] theorem updPool_sec (s : State) (m : Nat) (f : Pool → Pool) : (updPool s m f).sec = s.sec := rfl
@[simp] theorem updPool_realms (s : State) (m : Nat) (f : Pool → Pool) : (updPool s m f).realms = s.realms := rfl
@[simp] theorem updPool_pins (s : State) (m : Nat) (f : Pool → Pool) : (updPool s m f).pins = s.pins := rfl
@[simp] theorem updPool_out (s : State) (m : Nat) (f : Pool → Pool) : (updPool s m f).out = s.out := rfl

@[simp] theorem poolOf_updPool_same (s : State) (m : Nat) (f : Pool → Pool) : poolOf (updPool s m f) m = f (poolOf s m) := Tbl.get_upd_same ..

theorem poolOf_updPool_other (s : State) (m : Nat) (f : Pool → Pool) (j : Nat) (h : j ≠ m) : poolOf (updPool s m f) j = poolOf s j :=
  Tbl.get_upd_other _ _ _ _ _ h

/-! ### updBatch -/

@[simp] theorem updBatch_pending (s : State) (m : Nat) (f : Batch → Batch) : (updBatch s m f).pending = s.pending := rfl
@[simp] theorem updBatch_free (s : State) (m : Nat) (f : Batch → Batch) : (updBatch s m f).free = s.free := rfl
@[simp] theorem updBatch_ids (s : State) (m : Nat) (f : Batch → Batch) : (updBatch s m f).ids = s.ids := rfl
@[simp] theorem updBatch_mem (s : State) (m : Nat) (f : Batch → Batch) : (updBatch s m f).mem = s.mem := rfl
@[simp] theorem updBatch_prog (s : State) (m : Nat) (f : Batch → Batch) : (updBatch s m f).prog = s.prog := rfl
@[simp] theorem updBatch_poison (s : State) (m : Nat) (f : Batch → Batch) : (updBatch s m f).poison = s.poison := rfl
@[simp] theorem updBatch_glb (s : State) (m : Nat) (f : Batch → Batch) : (updBatch s m f).glb = s.glb := rfl
@[simp] theorem updBatch_regions (s : State) (m : Nat) (f : Batch → Batch) : (updBatch s m f).regions = s.regions := rfl
@[simp] theorem updBatch_mills (s : State) (m : Nat) (f : Batch → Batch) : (updBatch s m f).mills = s.mills := rfl
@[simp] theorem updBatch_cores (s : State) (m : Nat) (f : Batch → Batch) : (updBatch s m f).cores = s.cores := rfl
@[simp] theorem updBatch_race (s : State) (m : Nat) (f : Batch → Batch) : (updBatch s m f).race = s.race := rfl
@[simp] theorem updBatch_hop (s : State) (m : Nat) (f : Batch → Batch) : (updBatch s m f).hop = s.hop := rfl
@[simp] theorem updBatch_sluice (s : State) (m : Nat) (f : Batch → Batch) : (updBatch s m f).sluice = s.sluice := rfl
@[simp] theorem updBatch_links (s : State) (m : Nat) (f : Batch → Batch) : (updBatch s m f).links = s.links := rfl
@[simp] theorem updBatch_snow (s : State) (m : Nat) (f : Batch → Batch) : (updBatch s m f).snow = s.snow := rfl
@[simp] theorem updBatch_pwr (s : State) (m : Nat) (f : Batch → Batch) : (updBatch s m f).pwr = s.pwr := rfl
@[simp] theorem updBatch_clk (s : State) (m : Nat) (f : Batch → Batch) : (updBatch s m f).clk = s.clk := rfl
@[simp] theorem updBatch_thm (s : State) (m : Nat) (f : Batch → Batch) : (updBatch s m f).thm = s.thm := rfl
@[simp] theorem updBatch_frn (s : State) (m : Nat) (f : Batch → Batch) : (updBatch s m f).frn = s.frn := rfl
@[simp] theorem updBatch_flt (s : State) (m : Nat) (f : Batch → Batch) : (updBatch s m f).flt = s.flt := rfl
@[simp] theorem updBatch_bst (s : State) (m : Nat) (f : Batch → Batch) : (updBatch s m f).bst = s.bst := rfl
@[simp] theorem updBatch_moraine (s : State) (m : Nat) (f : Batch → Batch) : (updBatch s m f).moraine = s.moraine := rfl
@[simp] theorem updBatch_bootno (s : State) (m : Nat) (f : Batch → Batch) : (updBatch s m f).bootno = s.bootno := rfl
@[simp] theorem updBatch_mlr (s : State) (m : Nat) (f : Batch → Batch) : (updBatch s m f).mlr = s.mlr := rfl
@[simp] theorem updBatch_sec (s : State) (m : Nat) (f : Batch → Batch) : (updBatch s m f).sec = s.sec := rfl
@[simp] theorem updBatch_realms (s : State) (m : Nat) (f : Batch → Batch) : (updBatch s m f).realms = s.realms := rfl
@[simp] theorem updBatch_pins (s : State) (m : Nat) (f : Batch → Batch) : (updBatch s m f).pins = s.pins := rfl
@[simp] theorem updBatch_out (s : State) (m : Nat) (f : Batch → Batch) : (updBatch s m f).out = s.out := rfl

@[simp] theorem batchOf_updBatch_same (s : State) (m : Nat) (f : Batch → Batch) : batchOf (updBatch s m f) m = f (batchOf s m) := Tbl.get_upd_same ..

theorem batchOf_updBatch_other (s : State) (m : Nat) (f : Batch → Batch) (j : Nat) (h : j ≠ m) : batchOf (updBatch s m f) j = batchOf s j :=
  Tbl.get_upd_other _ _ _ _ _ h

/-! ### updUnit -/

@[simp] theorem updUnit_pending (s : State) (u : Nat) (f : MpdUnit → MpdUnit) : (updUnit s u f).pending = s.pending := rfl
@[simp] theorem updUnit_free (s : State) (u : Nat) (f : MpdUnit → MpdUnit) : (updUnit s u f).free = s.free := rfl
@[simp] theorem updUnit_ids (s : State) (u : Nat) (f : MpdUnit → MpdUnit) : (updUnit s u f).ids = s.ids := rfl
@[simp] theorem updUnit_mem (s : State) (u : Nat) (f : MpdUnit → MpdUnit) : (updUnit s u f).mem = s.mem := rfl
@[simp] theorem updUnit_prog (s : State) (u : Nat) (f : MpdUnit → MpdUnit) : (updUnit s u f).prog = s.prog := rfl
@[simp] theorem updUnit_poison (s : State) (u : Nat) (f : MpdUnit → MpdUnit) : (updUnit s u f).poison = s.poison := rfl
@[simp] theorem updUnit_glb (s : State) (u : Nat) (f : MpdUnit → MpdUnit) : (updUnit s u f).glb = s.glb := rfl
@[simp] theorem updUnit_regions (s : State) (u : Nat) (f : MpdUnit → MpdUnit) : (updUnit s u f).regions = s.regions := rfl
@[simp] theorem updUnit_mills (s : State) (u : Nat) (f : MpdUnit → MpdUnit) : (updUnit s u f).mills = s.mills := rfl
@[simp] theorem updUnit_cores (s : State) (u : Nat) (f : MpdUnit → MpdUnit) : (updUnit s u f).cores = s.cores := rfl
@[simp] theorem updUnit_race (s : State) (u : Nat) (f : MpdUnit → MpdUnit) : (updUnit s u f).race = s.race := rfl
@[simp] theorem updUnit_hop (s : State) (u : Nat) (f : MpdUnit → MpdUnit) : (updUnit s u f).hop = s.hop := rfl
@[simp] theorem updUnit_sluice (s : State) (u : Nat) (f : MpdUnit → MpdUnit) : (updUnit s u f).sluice = s.sluice := rfl
@[simp] theorem updUnit_links (s : State) (u : Nat) (f : MpdUnit → MpdUnit) : (updUnit s u f).links = s.links := rfl
@[simp] theorem updUnit_snow (s : State) (u : Nat) (f : MpdUnit → MpdUnit) : (updUnit s u f).snow = s.snow := rfl
@[simp] theorem updUnit_pwr (s : State) (u : Nat) (f : MpdUnit → MpdUnit) : (updUnit s u f).pwr = s.pwr := rfl
@[simp] theorem updUnit_clk (s : State) (u : Nat) (f : MpdUnit → MpdUnit) : (updUnit s u f).clk = s.clk := rfl
@[simp] theorem updUnit_thm (s : State) (u : Nat) (f : MpdUnit → MpdUnit) : (updUnit s u f).thm = s.thm := rfl
@[simp] theorem updUnit_frn (s : State) (u : Nat) (f : MpdUnit → MpdUnit) : (updUnit s u f).frn = s.frn := rfl
@[simp] theorem updUnit_flt (s : State) (u : Nat) (f : MpdUnit → MpdUnit) : (updUnit s u f).flt = s.flt := rfl
@[simp] theorem updUnit_bst (s : State) (u : Nat) (f : MpdUnit → MpdUnit) : (updUnit s u f).bst = s.bst := rfl
@[simp] theorem updUnit_moraine (s : State) (u : Nat) (f : MpdUnit → MpdUnit) : (updUnit s u f).moraine = s.moraine := rfl
@[simp] theorem updUnit_bootno (s : State) (u : Nat) (f : MpdUnit → MpdUnit) : (updUnit s u f).bootno = s.bootno := rfl
@[simp] theorem updUnit_mlr (s : State) (u : Nat) (f : MpdUnit → MpdUnit) : (updUnit s u f).mlr = s.mlr := rfl
@[simp] theorem updUnit_sec (s : State) (u : Nat) (f : MpdUnit → MpdUnit) : (updUnit s u f).sec = s.sec := rfl
@[simp] theorem updUnit_realms (s : State) (u : Nat) (f : MpdUnit → MpdUnit) : (updUnit s u f).realms = s.realms := rfl
@[simp] theorem updUnit_pins (s : State) (u : Nat) (f : MpdUnit → MpdUnit) : (updUnit s u f).pins = s.pins := rfl
@[simp] theorem updUnit_out (s : State) (u : Nat) (f : MpdUnit → MpdUnit) : (updUnit s u f).out = s.out := rfl

@[simp] theorem unitOf_updUnit_same (s : State) (u : Nat) (f : MpdUnit → MpdUnit) : unitOf (updUnit s u f) u = f (unitOf s u) := Tbl.get_upd_same ..

theorem unitOf_updUnit_other (s : State) (u : Nat) (f : MpdUnit → MpdUnit) (j : Nat) (h : j ≠ u) : unitOf (updUnit s u f) j = unitOf s j :=
  Tbl.get_upd_other _ _ _ _ _ h

/-! ### updPort -/

@[simp] theorem updPort_pending (s : State) (p : Nat) (f : Port → Port) : (updPort s p f).pending = s.pending := rfl
@[simp] theorem updPort_free (s : State) (p : Nat) (f : Port → Port) : (updPort s p f).free = s.free := rfl
@[simp] theorem updPort_ids (s : State) (p : Nat) (f : Port → Port) : (updPort s p f).ids = s.ids := rfl
@[simp] theorem updPort_mem (s : State) (p : Nat) (f : Port → Port) : (updPort s p f).mem = s.mem := rfl
@[simp] theorem updPort_prog (s : State) (p : Nat) (f : Port → Port) : (updPort s p f).prog = s.prog := rfl
@[simp] theorem updPort_poison (s : State) (p : Nat) (f : Port → Port) : (updPort s p f).poison = s.poison := rfl
@[simp] theorem updPort_glb (s : State) (p : Nat) (f : Port → Port) : (updPort s p f).glb = s.glb := rfl
@[simp] theorem updPort_regions (s : State) (p : Nat) (f : Port → Port) : (updPort s p f).regions = s.regions := rfl
@[simp] theorem updPort_mills (s : State) (p : Nat) (f : Port → Port) : (updPort s p f).mills = s.mills := rfl
@[simp] theorem updPort_cores (s : State) (p : Nat) (f : Port → Port) : (updPort s p f).cores = s.cores := rfl
@[simp] theorem updPort_race (s : State) (p : Nat) (f : Port → Port) : (updPort s p f).race = s.race := rfl
@[simp] theorem updPort_hop (s : State) (p : Nat) (f : Port → Port) : (updPort s p f).hop = s.hop := rfl
@[simp] theorem updPort_pond (s : State) (p : Nat) (f : Port → Port) : (updPort s p f).pond = s.pond := rfl
@[simp] theorem updPort_links (s : State) (p : Nat) (f : Port → Port) : (updPort s p f).links = s.links := rfl
@[simp] theorem updPort_snow (s : State) (p : Nat) (f : Port → Port) : (updPort s p f).snow = s.snow := rfl
@[simp] theorem updPort_pwr (s : State) (p : Nat) (f : Port → Port) : (updPort s p f).pwr = s.pwr := rfl
@[simp] theorem updPort_clk (s : State) (p : Nat) (f : Port → Port) : (updPort s p f).clk = s.clk := rfl
@[simp] theorem updPort_thm (s : State) (p : Nat) (f : Port → Port) : (updPort s p f).thm = s.thm := rfl
@[simp] theorem updPort_frn (s : State) (p : Nat) (f : Port → Port) : (updPort s p f).frn = s.frn := rfl
@[simp] theorem updPort_flt (s : State) (p : Nat) (f : Port → Port) : (updPort s p f).flt = s.flt := rfl
@[simp] theorem updPort_bst (s : State) (p : Nat) (f : Port → Port) : (updPort s p f).bst = s.bst := rfl
@[simp] theorem updPort_moraine (s : State) (p : Nat) (f : Port → Port) : (updPort s p f).moraine = s.moraine := rfl
@[simp] theorem updPort_bootno (s : State) (p : Nat) (f : Port → Port) : (updPort s p f).bootno = s.bootno := rfl
@[simp] theorem updPort_mlr (s : State) (p : Nat) (f : Port → Port) : (updPort s p f).mlr = s.mlr := rfl
@[simp] theorem updPort_sec (s : State) (p : Nat) (f : Port → Port) : (updPort s p f).sec = s.sec := rfl
@[simp] theorem updPort_realms (s : State) (p : Nat) (f : Port → Port) : (updPort s p f).realms = s.realms := rfl
@[simp] theorem updPort_pins (s : State) (p : Nat) (f : Port → Port) : (updPort s p f).pins = s.pins := rfl
@[simp] theorem updPort_out (s : State) (p : Nat) (f : Port → Port) : (updPort s p f).out = s.out := rfl

@[simp] theorem portOf_updPort_same (s : State) (p : Nat) (f : Port → Port) : portOf (updPort s p f) p = f (portOf s p) := Tbl.get_upd_same ..

theorem portOf_updPort_other (s : State) (p : Nat) (f : Port → Port) (j : Nat) (h : j ≠ p) : portOf (updPort s p f) j = portOf s j :=
  Tbl.get_upd_other _ _ _ _ _ h

/-! ### updCtl -/

@[simp] theorem updCtl_pending (s : State) (k : Nat) (f : Snw → Snw) : (updCtl s k f).pending = s.pending := rfl
@[simp] theorem updCtl_free (s : State) (k : Nat) (f : Snw → Snw) : (updCtl s k f).free = s.free := rfl
@[simp] theorem updCtl_ids (s : State) (k : Nat) (f : Snw → Snw) : (updCtl s k f).ids = s.ids := rfl
@[simp] theorem updCtl_mem (s : State) (k : Nat) (f : Snw → Snw) : (updCtl s k f).mem = s.mem := rfl
@[simp] theorem updCtl_prog (s : State) (k : Nat) (f : Snw → Snw) : (updCtl s k f).prog = s.prog := rfl
@[simp] theorem updCtl_poison (s : State) (k : Nat) (f : Snw → Snw) : (updCtl s k f).poison = s.poison := rfl
@[simp] theorem updCtl_glb (s : State) (k : Nat) (f : Snw → Snw) : (updCtl s k f).glb = s.glb := rfl
@[simp] theorem updCtl_regions (s : State) (k : Nat) (f : Snw → Snw) : (updCtl s k f).regions = s.regions := rfl
@[simp] theorem updCtl_mills (s : State) (k : Nat) (f : Snw → Snw) : (updCtl s k f).mills = s.mills := rfl
@[simp] theorem updCtl_cores (s : State) (k : Nat) (f : Snw → Snw) : (updCtl s k f).cores = s.cores := rfl
@[simp] theorem updCtl_race (s : State) (k : Nat) (f : Snw → Snw) : (updCtl s k f).race = s.race := rfl
@[simp] theorem updCtl_hop (s : State) (k : Nat) (f : Snw → Snw) : (updCtl s k f).hop = s.hop := rfl
@[simp] theorem updCtl_pond (s : State) (k : Nat) (f : Snw → Snw) : (updCtl s k f).pond = s.pond := rfl
@[simp] theorem updCtl_sluice (s : State) (k : Nat) (f : Snw → Snw) : (updCtl s k f).sluice = s.sluice := rfl
@[simp] theorem updCtl_links (s : State) (k : Nat) (f : Snw → Snw) : (updCtl s k f).links = s.links := rfl
@[simp] theorem updCtl_pwr (s : State) (k : Nat) (f : Snw → Snw) : (updCtl s k f).pwr = s.pwr := rfl
@[simp] theorem updCtl_clk (s : State) (k : Nat) (f : Snw → Snw) : (updCtl s k f).clk = s.clk := rfl
@[simp] theorem updCtl_thm (s : State) (k : Nat) (f : Snw → Snw) : (updCtl s k f).thm = s.thm := rfl
@[simp] theorem updCtl_frn (s : State) (k : Nat) (f : Snw → Snw) : (updCtl s k f).frn = s.frn := rfl
@[simp] theorem updCtl_flt (s : State) (k : Nat) (f : Snw → Snw) : (updCtl s k f).flt = s.flt := rfl
@[simp] theorem updCtl_bst (s : State) (k : Nat) (f : Snw → Snw) : (updCtl s k f).bst = s.bst := rfl
@[simp] theorem updCtl_moraine (s : State) (k : Nat) (f : Snw → Snw) : (updCtl s k f).moraine = s.moraine := rfl
@[simp] theorem updCtl_bootno (s : State) (k : Nat) (f : Snw → Snw) : (updCtl s k f).bootno = s.bootno := rfl
@[simp] theorem updCtl_mlr (s : State) (k : Nat) (f : Snw → Snw) : (updCtl s k f).mlr = s.mlr := rfl
@[simp] theorem updCtl_sec (s : State) (k : Nat) (f : Snw → Snw) : (updCtl s k f).sec = s.sec := rfl
@[simp] theorem updCtl_realms (s : State) (k : Nat) (f : Snw → Snw) : (updCtl s k f).realms = s.realms := rfl
@[simp] theorem updCtl_pins (s : State) (k : Nat) (f : Snw → Snw) : (updCtl s k f).pins = s.pins := rfl
@[simp] theorem updCtl_out (s : State) (k : Nat) (f : Snw → Snw) : (updCtl s k f).out = s.out := rfl

@[simp] theorem ctlOf_updCtl_same (s : State) (k : Nat) (f : Snw → Snw) : ctlOf (updCtl s k f) k = f (ctlOf s k) := Tbl.get_upd_same ..

theorem ctlOf_updCtl_other (s : State) (k : Nat) (f : Snw → Snw) (j : Nat) (h : j ≠ k) : ctlOf (updCtl s k f) j = ctlOf s j :=
  Tbl.get_upd_other _ _ _ _ _ h

/-! ### updChan -/

@[simp] theorem updChan_pending (s : State) (n : Nat) (f : Chan → Chan) : (updChan s n f).pending = s.pending := rfl
@[simp] theorem updChan_free (s : State) (n : Nat) (f : Chan → Chan) : (updChan s n f).free = s.free := rfl
@[simp] theorem updChan_ids (s : State) (n : Nat) (f : Chan → Chan) : (updChan s n f).ids = s.ids := rfl
@[simp] theorem updChan_mem (s : State) (n : Nat) (f : Chan → Chan) : (updChan s n f).mem = s.mem := rfl
@[simp] theorem updChan_prog (s : State) (n : Nat) (f : Chan → Chan) : (updChan s n f).prog = s.prog := rfl
@[simp] theorem updChan_poison (s : State) (n : Nat) (f : Chan → Chan) : (updChan s n f).poison = s.poison := rfl
@[simp] theorem updChan_glb (s : State) (n : Nat) (f : Chan → Chan) : (updChan s n f).glb = s.glb := rfl
@[simp] theorem updChan_regions (s : State) (n : Nat) (f : Chan → Chan) : (updChan s n f).regions = s.regions := rfl
@[simp] theorem updChan_mills (s : State) (n : Nat) (f : Chan → Chan) : (updChan s n f).mills = s.mills := rfl
@[simp] theorem updChan_cores (s : State) (n : Nat) (f : Chan → Chan) : (updChan s n f).cores = s.cores := rfl
@[simp] theorem updChan_race (s : State) (n : Nat) (f : Chan → Chan) : (updChan s n f).race = s.race := rfl
@[simp] theorem updChan_hop (s : State) (n : Nat) (f : Chan → Chan) : (updChan s n f).hop = s.hop := rfl
@[simp] theorem updChan_pond (s : State) (n : Nat) (f : Chan → Chan) : (updChan s n f).pond = s.pond := rfl
@[simp] theorem updChan_sluice (s : State) (n : Nat) (f : Chan → Chan) : (updChan s n f).sluice = s.sluice := rfl
@[simp] theorem updChan_links (s : State) (n : Nat) (f : Chan → Chan) : (updChan s n f).links = s.links := rfl
@[simp] theorem updChan_snow (s : State) (n : Nat) (f : Chan → Chan) : (updChan s n f).snow = s.snow := rfl
@[simp] theorem updChan_pwr (s : State) (n : Nat) (f : Chan → Chan) : (updChan s n f).pwr = s.pwr := rfl
@[simp] theorem updChan_clk (s : State) (n : Nat) (f : Chan → Chan) : (updChan s n f).clk = s.clk := rfl
@[simp] theorem updChan_thm (s : State) (n : Nat) (f : Chan → Chan) : (updChan s n f).thm = s.thm := rfl
@[simp] theorem updChan_flt (s : State) (n : Nat) (f : Chan → Chan) : (updChan s n f).flt = s.flt := rfl
@[simp] theorem updChan_bst (s : State) (n : Nat) (f : Chan → Chan) : (updChan s n f).bst = s.bst := rfl
@[simp] theorem updChan_moraine (s : State) (n : Nat) (f : Chan → Chan) : (updChan s n f).moraine = s.moraine := rfl
@[simp] theorem updChan_bootno (s : State) (n : Nat) (f : Chan → Chan) : (updChan s n f).bootno = s.bootno := rfl
@[simp] theorem updChan_mlr (s : State) (n : Nat) (f : Chan → Chan) : (updChan s n f).mlr = s.mlr := rfl
@[simp] theorem updChan_sec (s : State) (n : Nat) (f : Chan → Chan) : (updChan s n f).sec = s.sec := rfl
@[simp] theorem updChan_realms (s : State) (n : Nat) (f : Chan → Chan) : (updChan s n f).realms = s.realms := rfl
@[simp] theorem updChan_pins (s : State) (n : Nat) (f : Chan → Chan) : (updChan s n f).pins = s.pins := rfl
@[simp] theorem updChan_out (s : State) (n : Nat) (f : Chan → Chan) : (updChan s n f).out = s.out := rfl

@[simp] theorem chanOf_updChan_same (s : State) (n : Nat) (f : Chan → Chan) : chanOf (updChan s n f) n = f (chanOf s n) := Tbl.get_upd_same ..

theorem chanOf_updChan_other (s : State) (n : Nat) (f : Chan → Chan) (j : Nat) (h : j ≠ n) : chanOf (updChan s n f) j = chanOf s j :=
  Tbl.get_upd_other _ _ _ _ _ h

/-! ### updSession -/

@[simp] theorem updSession_pending (s : State) (n : BitVec 32) (f : Session → Session) : (updSession s n f).pending = s.pending := rfl
@[simp] theorem updSession_free (s : State) (n : BitVec 32) (f : Session → Session) : (updSession s n f).free = s.free := rfl
@[simp] theorem updSession_ids (s : State) (n : BitVec 32) (f : Session → Session) : (updSession s n f).ids = s.ids := rfl
@[simp] theorem updSession_mem (s : State) (n : BitVec 32) (f : Session → Session) : (updSession s n f).mem = s.mem := rfl
@[simp] theorem updSession_prog (s : State) (n : BitVec 32) (f : Session → Session) : (updSession s n f).prog = s.prog := rfl
@[simp] theorem updSession_poison (s : State) (n : BitVec 32) (f : Session → Session) : (updSession s n f).poison = s.poison := rfl
@[simp] theorem updSession_glb (s : State) (n : BitVec 32) (f : Session → Session) : (updSession s n f).glb = s.glb := rfl
@[simp] theorem updSession_regions (s : State) (n : BitVec 32) (f : Session → Session) : (updSession s n f).regions = s.regions := rfl
@[simp] theorem updSession_mills (s : State) (n : BitVec 32) (f : Session → Session) : (updSession s n f).mills = s.mills := rfl
@[simp] theorem updSession_cores (s : State) (n : BitVec 32) (f : Session → Session) : (updSession s n f).cores = s.cores := rfl
@[simp] theorem updSession_race (s : State) (n : BitVec 32) (f : Session → Session) : (updSession s n f).race = s.race := rfl
@[simp] theorem updSession_hop (s : State) (n : BitVec 32) (f : Session → Session) : (updSession s n f).hop = s.hop := rfl
@[simp] theorem updSession_pond (s : State) (n : BitVec 32) (f : Session → Session) : (updSession s n f).pond = s.pond := rfl
@[simp] theorem updSession_links (s : State) (n : BitVec 32) (f : Session → Session) : (updSession s n f).links = s.links := rfl
@[simp] theorem updSession_snow (s : State) (n : BitVec 32) (f : Session → Session) : (updSession s n f).snow = s.snow := rfl
@[simp] theorem updSession_pwr (s : State) (n : BitVec 32) (f : Session → Session) : (updSession s n f).pwr = s.pwr := rfl
@[simp] theorem updSession_clk (s : State) (n : BitVec 32) (f : Session → Session) : (updSession s n f).clk = s.clk := rfl
@[simp] theorem updSession_thm (s : State) (n : BitVec 32) (f : Session → Session) : (updSession s n f).thm = s.thm := rfl
@[simp] theorem updSession_frn (s : State) (n : BitVec 32) (f : Session → Session) : (updSession s n f).frn = s.frn := rfl
@[simp] theorem updSession_flt (s : State) (n : BitVec 32) (f : Session → Session) : (updSession s n f).flt = s.flt := rfl
@[simp] theorem updSession_bst (s : State) (n : BitVec 32) (f : Session → Session) : (updSession s n f).bst = s.bst := rfl
@[simp] theorem updSession_moraine (s : State) (n : BitVec 32) (f : Session → Session) : (updSession s n f).moraine = s.moraine := rfl
@[simp] theorem updSession_bootno (s : State) (n : BitVec 32) (f : Session → Session) : (updSession s n f).bootno = s.bootno := rfl
@[simp] theorem updSession_mlr (s : State) (n : BitVec 32) (f : Session → Session) : (updSession s n f).mlr = s.mlr := rfl
@[simp] theorem updSession_sec (s : State) (n : BitVec 32) (f : Session → Session) : (updSession s n f).sec = s.sec := rfl
@[simp] theorem updSession_realms (s : State) (n : BitVec 32) (f : Session → Session) : (updSession s n f).realms = s.realms := rfl
@[simp] theorem updSession_pins (s : State) (n : BitVec 32) (f : Session → Session) : (updSession s n f).pins = s.pins := rfl
@[simp] theorem updSession_out (s : State) (n : BitVec 32) (f : Session → Session) : (updSession s n f).out = s.out := rfl

/-! ### updEng -/

@[simp] theorem updEng_pending (s : State) (c : Nat) (e : Eng) (f : EngSt → EngSt) : (updEng s c e f).pending = s.pending := rfl
@[simp] theorem updEng_free (s : State) (c : Nat) (e : Eng) (f : EngSt → EngSt) : (updEng s c e f).free = s.free := rfl
@[simp] theorem updEng_ids (s : State) (c : Nat) (e : Eng) (f : EngSt → EngSt) : (updEng s c e f).ids = s.ids := rfl
@[simp] theorem updEng_mem (s : State) (c : Nat) (e : Eng) (f : EngSt → EngSt) : (updEng s c e f).mem = s.mem := rfl
@[simp] theorem updEng_prog (s : State) (c : Nat) (e : Eng) (f : EngSt → EngSt) : (updEng s c e f).prog = s.prog := rfl
@[simp] theorem updEng_poison (s : State) (c : Nat) (e : Eng) (f : EngSt → EngSt) : (updEng s c e f).poison = s.poison := rfl
@[simp] theorem updEng_glb (s : State) (c : Nat) (e : Eng) (f : EngSt → EngSt) : (updEng s c e f).glb = s.glb := rfl
@[simp] theorem updEng_regions (s : State) (c : Nat) (e : Eng) (f : EngSt → EngSt) : (updEng s c e f).regions = s.regions := rfl
@[simp] theorem updEng_mills (s : State) (c : Nat) (e : Eng) (f : EngSt → EngSt) : (updEng s c e f).mills = s.mills := rfl
@[simp] theorem updEng_race (s : State) (c : Nat) (e : Eng) (f : EngSt → EngSt) : (updEng s c e f).race = s.race := rfl
@[simp] theorem updEng_hop (s : State) (c : Nat) (e : Eng) (f : EngSt → EngSt) : (updEng s c e f).hop = s.hop := rfl
@[simp] theorem updEng_pond (s : State) (c : Nat) (e : Eng) (f : EngSt → EngSt) : (updEng s c e f).pond = s.pond := rfl
@[simp] theorem updEng_sluice (s : State) (c : Nat) (e : Eng) (f : EngSt → EngSt) : (updEng s c e f).sluice = s.sluice := rfl
@[simp] theorem updEng_links (s : State) (c : Nat) (e : Eng) (f : EngSt → EngSt) : (updEng s c e f).links = s.links := rfl
@[simp] theorem updEng_snow (s : State) (c : Nat) (e : Eng) (f : EngSt → EngSt) : (updEng s c e f).snow = s.snow := rfl
@[simp] theorem updEng_pwr (s : State) (c : Nat) (e : Eng) (f : EngSt → EngSt) : (updEng s c e f).pwr = s.pwr := rfl
@[simp] theorem updEng_clk (s : State) (c : Nat) (e : Eng) (f : EngSt → EngSt) : (updEng s c e f).clk = s.clk := rfl
@[simp] theorem updEng_thm (s : State) (c : Nat) (e : Eng) (f : EngSt → EngSt) : (updEng s c e f).thm = s.thm := rfl
@[simp] theorem updEng_frn (s : State) (c : Nat) (e : Eng) (f : EngSt → EngSt) : (updEng s c e f).frn = s.frn := rfl
@[simp] theorem updEng_flt (s : State) (c : Nat) (e : Eng) (f : EngSt → EngSt) : (updEng s c e f).flt = s.flt := rfl
@[simp] theorem updEng_bst (s : State) (c : Nat) (e : Eng) (f : EngSt → EngSt) : (updEng s c e f).bst = s.bst := rfl
@[simp] theorem updEng_moraine (s : State) (c : Nat) (e : Eng) (f : EngSt → EngSt) : (updEng s c e f).moraine = s.moraine := rfl
@[simp] theorem updEng_bootno (s : State) (c : Nat) (e : Eng) (f : EngSt → EngSt) : (updEng s c e f).bootno = s.bootno := rfl
@[simp] theorem updEng_mlr (s : State) (c : Nat) (e : Eng) (f : EngSt → EngSt) : (updEng s c e f).mlr = s.mlr := rfl
@[simp] theorem updEng_sec (s : State) (c : Nat) (e : Eng) (f : EngSt → EngSt) : (updEng s c e f).sec = s.sec := rfl
@[simp] theorem updEng_realms (s : State) (c : Nat) (e : Eng) (f : EngSt → EngSt) : (updEng s c e f).realms = s.realms := rfl
@[simp] theorem updEng_pins (s : State) (c : Nat) (e : Eng) (f : EngSt → EngSt) : (updEng s c e f).pins = s.pins := rfl
@[simp] theorem updEng_out (s : State) (c : Nat) (e : Eng) (f : EngSt → EngSt) : (updEng s c e f).out = s.out := rfl

/-! ### updQueue -/

@[simp] theorem updQueue_pending (s : State) (l q : Nat) (f : LQueue → LQueue) : (updQueue s l q f).pending = s.pending := rfl
@[simp] theorem updQueue_free (s : State) (l q : Nat) (f : LQueue → LQueue) : (updQueue s l q f).free = s.free := rfl
@[simp] theorem updQueue_ids (s : State) (l q : Nat) (f : LQueue → LQueue) : (updQueue s l q f).ids = s.ids := rfl
@[simp] theorem updQueue_mem (s : State) (l q : Nat) (f : LQueue → LQueue) : (updQueue s l q f).mem = s.mem := rfl
@[simp] theorem updQueue_prog (s : State) (l q : Nat) (f : LQueue → LQueue) : (updQueue s l q f).prog = s.prog := rfl
@[simp] theorem updQueue_poison (s : State) (l q : Nat) (f : LQueue → LQueue) : (updQueue s l q f).poison = s.poison := rfl
@[simp] theorem updQueue_glb (s : State) (l q : Nat) (f : LQueue → LQueue) : (updQueue s l q f).glb = s.glb := rfl
@[simp] theorem updQueue_regions (s : State) (l q : Nat) (f : LQueue → LQueue) : (updQueue s l q f).regions = s.regions := rfl
@[simp] theorem updQueue_mills (s : State) (l q : Nat) (f : LQueue → LQueue) : (updQueue s l q f).mills = s.mills := rfl
@[simp] theorem updQueue_cores (s : State) (l q : Nat) (f : LQueue → LQueue) : (updQueue s l q f).cores = s.cores := rfl
@[simp] theorem updQueue_race (s : State) (l q : Nat) (f : LQueue → LQueue) : (updQueue s l q f).race = s.race := rfl
@[simp] theorem updQueue_hop (s : State) (l q : Nat) (f : LQueue → LQueue) : (updQueue s l q f).hop = s.hop := rfl
@[simp] theorem updQueue_pond (s : State) (l q : Nat) (f : LQueue → LQueue) : (updQueue s l q f).pond = s.pond := rfl
@[simp] theorem updQueue_sluice (s : State) (l q : Nat) (f : LQueue → LQueue) : (updQueue s l q f).sluice = s.sluice := rfl
@[simp] theorem updQueue_snow (s : State) (l q : Nat) (f : LQueue → LQueue) : (updQueue s l q f).snow = s.snow := rfl
@[simp] theorem updQueue_pwr (s : State) (l q : Nat) (f : LQueue → LQueue) : (updQueue s l q f).pwr = s.pwr := rfl
@[simp] theorem updQueue_clk (s : State) (l q : Nat) (f : LQueue → LQueue) : (updQueue s l q f).clk = s.clk := rfl
@[simp] theorem updQueue_thm (s : State) (l q : Nat) (f : LQueue → LQueue) : (updQueue s l q f).thm = s.thm := rfl
@[simp] theorem updQueue_frn (s : State) (l q : Nat) (f : LQueue → LQueue) : (updQueue s l q f).frn = s.frn := rfl
@[simp] theorem updQueue_flt (s : State) (l q : Nat) (f : LQueue → LQueue) : (updQueue s l q f).flt = s.flt := rfl
@[simp] theorem updQueue_bst (s : State) (l q : Nat) (f : LQueue → LQueue) : (updQueue s l q f).bst = s.bst := rfl
@[simp] theorem updQueue_moraine (s : State) (l q : Nat) (f : LQueue → LQueue) : (updQueue s l q f).moraine = s.moraine := rfl
@[simp] theorem updQueue_bootno (s : State) (l q : Nat) (f : LQueue → LQueue) : (updQueue s l q f).bootno = s.bootno := rfl
@[simp] theorem updQueue_mlr (s : State) (l q : Nat) (f : LQueue → LQueue) : (updQueue s l q f).mlr = s.mlr := rfl
@[simp] theorem updQueue_sec (s : State) (l q : Nat) (f : LQueue → LQueue) : (updQueue s l q f).sec = s.sec := rfl
@[simp] theorem updQueue_realms (s : State) (l q : Nat) (f : LQueue → LQueue) : (updQueue s l q f).realms = s.realms := rfl
@[simp] theorem updQueue_pins (s : State) (l q : Nat) (f : LQueue → LQueue) : (updQueue s l q f).pins = s.pins := rfl
@[simp] theorem updQueue_out (s : State) (l q : Nat) (f : LQueue → LQueue) : (updQueue s l q f).out = s.out := rfl

/-! ### updRow -/

@[simp] theorem updRow_pending (s : State) (g p : Nat) (f : Row → Row) : (updRow s g p f).pending = s.pending := rfl
@[simp] theorem updRow_free (s : State) (g p : Nat) (f : Row → Row) : (updRow s g p f).free = s.free := rfl
@[simp] theorem updRow_ids (s : State) (g p : Nat) (f : Row → Row) : (updRow s g p f).ids = s.ids := rfl
@[simp] theorem updRow_mem (s : State) (g p : Nat) (f : Row → Row) : (updRow s g p f).mem = s.mem := rfl
@[simp] theorem updRow_prog (s : State) (g p : Nat) (f : Row → Row) : (updRow s g p f).prog = s.prog := rfl
@[simp] theorem updRow_poison (s : State) (g p : Nat) (f : Row → Row) : (updRow s g p f).poison = s.poison := rfl
@[simp] theorem updRow_glb (s : State) (g p : Nat) (f : Row → Row) : (updRow s g p f).glb = s.glb := rfl
@[simp] theorem updRow_mills (s : State) (g p : Nat) (f : Row → Row) : (updRow s g p f).mills = s.mills := rfl
@[simp] theorem updRow_cores (s : State) (g p : Nat) (f : Row → Row) : (updRow s g p f).cores = s.cores := rfl
@[simp] theorem updRow_race (s : State) (g p : Nat) (f : Row → Row) : (updRow s g p f).race = s.race := rfl
@[simp] theorem updRow_hop (s : State) (g p : Nat) (f : Row → Row) : (updRow s g p f).hop = s.hop := rfl
@[simp] theorem updRow_pond (s : State) (g p : Nat) (f : Row → Row) : (updRow s g p f).pond = s.pond := rfl
@[simp] theorem updRow_sluice (s : State) (g p : Nat) (f : Row → Row) : (updRow s g p f).sluice = s.sluice := rfl
@[simp] theorem updRow_links (s : State) (g p : Nat) (f : Row → Row) : (updRow s g p f).links = s.links := rfl
@[simp] theorem updRow_snow (s : State) (g p : Nat) (f : Row → Row) : (updRow s g p f).snow = s.snow := rfl
@[simp] theorem updRow_pwr (s : State) (g p : Nat) (f : Row → Row) : (updRow s g p f).pwr = s.pwr := rfl
@[simp] theorem updRow_clk (s : State) (g p : Nat) (f : Row → Row) : (updRow s g p f).clk = s.clk := rfl
@[simp] theorem updRow_thm (s : State) (g p : Nat) (f : Row → Row) : (updRow s g p f).thm = s.thm := rfl
@[simp] theorem updRow_frn (s : State) (g p : Nat) (f : Row → Row) : (updRow s g p f).frn = s.frn := rfl
@[simp] theorem updRow_flt (s : State) (g p : Nat) (f : Row → Row) : (updRow s g p f).flt = s.flt := rfl
@[simp] theorem updRow_bst (s : State) (g p : Nat) (f : Row → Row) : (updRow s g p f).bst = s.bst := rfl
@[simp] theorem updRow_moraine (s : State) (g p : Nat) (f : Row → Row) : (updRow s g p f).moraine = s.moraine := rfl
@[simp] theorem updRow_bootno (s : State) (g p : Nat) (f : Row → Row) : (updRow s g p f).bootno = s.bootno := rfl
@[simp] theorem updRow_mlr (s : State) (g p : Nat) (f : Row → Row) : (updRow s g p f).mlr = s.mlr := rfl
@[simp] theorem updRow_sec (s : State) (g p : Nat) (f : Row → Row) : (updRow s g p f).sec = s.sec := rfl
@[simp] theorem updRow_realms (s : State) (g p : Nat) (f : Row → Row) : (updRow s g p f).realms = s.realms := rfl
@[simp] theorem updRow_pins (s : State) (g p : Nat) (f : Row → Row) : (updRow s g p f).pins = s.pins := rfl
@[simp] theorem updRow_out (s : State) (g p : Nat) (f : Row → Row) : (updRow s g p f).out = s.out := rfl

/-! ### writeBytes -/

@[simp] theorem writeBytes_pending (s : State) (a : Nat) (bs : List Byte) : (writeBytes s a bs).pending = s.pending := rfl
@[simp] theorem writeBytes_free (s : State) (a : Nat) (bs : List Byte) : (writeBytes s a bs).free = s.free := rfl
@[simp] theorem writeBytes_ids (s : State) (a : Nat) (bs : List Byte) : (writeBytes s a bs).ids = s.ids := rfl
@[simp] theorem writeBytes_prog (s : State) (a : Nat) (bs : List Byte) : (writeBytes s a bs).prog = s.prog := rfl
@[simp] theorem writeBytes_poison (s : State) (a : Nat) (bs : List Byte) : (writeBytes s a bs).poison = s.poison := rfl
@[simp] theorem writeBytes_glb (s : State) (a : Nat) (bs : List Byte) : (writeBytes s a bs).glb = s.glb := rfl
@[simp] theorem writeBytes_regions (s : State) (a : Nat) (bs : List Byte) : (writeBytes s a bs).regions = s.regions := rfl
@[simp] theorem writeBytes_mills (s : State) (a : Nat) (bs : List Byte) : (writeBytes s a bs).mills = s.mills := rfl
@[simp] theorem writeBytes_cores (s : State) (a : Nat) (bs : List Byte) : (writeBytes s a bs).cores = s.cores := rfl
@[simp] theorem writeBytes_race (s : State) (a : Nat) (bs : List Byte) : (writeBytes s a bs).race = s.race := rfl
@[simp] theorem writeBytes_hop (s : State) (a : Nat) (bs : List Byte) : (writeBytes s a bs).hop = s.hop := rfl
@[simp] theorem writeBytes_pond (s : State) (a : Nat) (bs : List Byte) : (writeBytes s a bs).pond = s.pond := rfl
@[simp] theorem writeBytes_sluice (s : State) (a : Nat) (bs : List Byte) : (writeBytes s a bs).sluice = s.sluice := rfl
@[simp] theorem writeBytes_links (s : State) (a : Nat) (bs : List Byte) : (writeBytes s a bs).links = s.links := rfl
@[simp] theorem writeBytes_snow (s : State) (a : Nat) (bs : List Byte) : (writeBytes s a bs).snow = s.snow := rfl
@[simp] theorem writeBytes_pwr (s : State) (a : Nat) (bs : List Byte) : (writeBytes s a bs).pwr = s.pwr := rfl
@[simp] theorem writeBytes_clk (s : State) (a : Nat) (bs : List Byte) : (writeBytes s a bs).clk = s.clk := rfl
@[simp] theorem writeBytes_thm (s : State) (a : Nat) (bs : List Byte) : (writeBytes s a bs).thm = s.thm := rfl
@[simp] theorem writeBytes_frn (s : State) (a : Nat) (bs : List Byte) : (writeBytes s a bs).frn = s.frn := rfl
@[simp] theorem writeBytes_flt (s : State) (a : Nat) (bs : List Byte) : (writeBytes s a bs).flt = s.flt := rfl
@[simp] theorem writeBytes_bst (s : State) (a : Nat) (bs : List Byte) : (writeBytes s a bs).bst = s.bst := rfl
@[simp] theorem writeBytes_moraine (s : State) (a : Nat) (bs : List Byte) : (writeBytes s a bs).moraine = s.moraine := rfl
@[simp] theorem writeBytes_bootno (s : State) (a : Nat) (bs : List Byte) : (writeBytes s a bs).bootno = s.bootno := rfl
@[simp] theorem writeBytes_mlr (s : State) (a : Nat) (bs : List Byte) : (writeBytes s a bs).mlr = s.mlr := rfl
@[simp] theorem writeBytes_sec (s : State) (a : Nat) (bs : List Byte) : (writeBytes s a bs).sec = s.sec := rfl
@[simp] theorem writeBytes_realms (s : State) (a : Nat) (bs : List Byte) : (writeBytes s a bs).realms = s.realms := rfl
@[simp] theorem writeBytes_pins (s : State) (a : Nat) (bs : List Byte) : (writeBytes s a bs).pins = s.pins := rfl
@[simp] theorem writeBytes_out (s : State) (a : Nat) (bs : List Byte) : (writeBytes s a bs).out = s.out := rfl

/-! ### zeroBytes -/

@[simp] theorem zeroBytes_pending (s : State) (a n : Nat) : (zeroBytes s a n).pending = s.pending := rfl
@[simp] theorem zeroBytes_free (s : State) (a n : Nat) : (zeroBytes s a n).free = s.free := rfl
@[simp] theorem zeroBytes_ids (s : State) (a n : Nat) : (zeroBytes s a n).ids = s.ids := rfl
@[simp] theorem zeroBytes_prog (s : State) (a n : Nat) : (zeroBytes s a n).prog = s.prog := rfl
@[simp] theorem zeroBytes_poison (s : State) (a n : Nat) : (zeroBytes s a n).poison = s.poison := rfl
@[simp] theorem zeroBytes_glb (s : State) (a n : Nat) : (zeroBytes s a n).glb = s.glb := rfl
@[simp] theorem zeroBytes_regions (s : State) (a n : Nat) : (zeroBytes s a n).regions = s.regions := rfl
@[simp] theorem zeroBytes_mills (s : State) (a n : Nat) : (zeroBytes s a n).mills = s.mills := rfl
@[simp] theorem zeroBytes_cores (s : State) (a n : Nat) : (zeroBytes s a n).cores = s.cores := rfl
@[simp] theorem zeroBytes_race (s : State) (a n : Nat) : (zeroBytes s a n).race = s.race := rfl
@[simp] theorem zeroBytes_hop (s : State) (a n : Nat) : (zeroBytes s a n).hop = s.hop := rfl
@[simp] theorem zeroBytes_pond (s : State) (a n : Nat) : (zeroBytes s a n).pond = s.pond := rfl
@[simp] theorem zeroBytes_sluice (s : State) (a n : Nat) : (zeroBytes s a n).sluice = s.sluice := rfl
@[simp] theorem zeroBytes_links (s : State) (a n : Nat) : (zeroBytes s a n).links = s.links := rfl
@[simp] theorem zeroBytes_snow (s : State) (a n : Nat) : (zeroBytes s a n).snow = s.snow := rfl
@[simp] theorem zeroBytes_pwr (s : State) (a n : Nat) : (zeroBytes s a n).pwr = s.pwr := rfl
@[simp] theorem zeroBytes_clk (s : State) (a n : Nat) : (zeroBytes s a n).clk = s.clk := rfl
@[simp] theorem zeroBytes_thm (s : State) (a n : Nat) : (zeroBytes s a n).thm = s.thm := rfl
@[simp] theorem zeroBytes_frn (s : State) (a n : Nat) : (zeroBytes s a n).frn = s.frn := rfl
@[simp] theorem zeroBytes_flt (s : State) (a n : Nat) : (zeroBytes s a n).flt = s.flt := rfl
@[simp] theorem zeroBytes_bst (s : State) (a n : Nat) : (zeroBytes s a n).bst = s.bst := rfl
@[simp] theorem zeroBytes_moraine (s : State) (a n : Nat) : (zeroBytes s a n).moraine = s.moraine := rfl
@[simp] theorem zeroBytes_bootno (s : State) (a n : Nat) : (zeroBytes s a n).bootno = s.bootno := rfl
@[simp] theorem zeroBytes_mlr (s : State) (a n : Nat) : (zeroBytes s a n).mlr = s.mlr := rfl
@[simp] theorem zeroBytes_sec (s : State) (a n : Nat) : (zeroBytes s a n).sec = s.sec := rfl
@[simp] theorem zeroBytes_realms (s : State) (a n : Nat) : (zeroBytes s a n).realms = s.realms := rfl
@[simp] theorem zeroBytes_pins (s : State) (a n : Nat) : (zeroBytes s a n).pins = s.pins := rfl
@[simp] theorem zeroBytes_out (s : State) (a n : Nat) : (zeroBytes s a n).out = s.out := rfl

/-! ### copyBytes -/

@[simp] theorem copyBytes_pending (s : State) (src dst n : Nat) : (copyBytes s src dst n).pending = s.pending := rfl
@[simp] theorem copyBytes_free (s : State) (src dst n : Nat) : (copyBytes s src dst n).free = s.free := rfl
@[simp] theorem copyBytes_ids (s : State) (src dst n : Nat) : (copyBytes s src dst n).ids = s.ids := rfl
@[simp] theorem copyBytes_prog (s : State) (src dst n : Nat) : (copyBytes s src dst n).prog = s.prog := rfl
@[simp] theorem copyBytes_poison (s : State) (src dst n : Nat) : (copyBytes s src dst n).poison = s.poison := rfl
@[simp] theorem copyBytes_glb (s : State) (src dst n : Nat) : (copyBytes s src dst n).glb = s.glb := rfl
@[simp] theorem copyBytes_regions (s : State) (src dst n : Nat) : (copyBytes s src dst n).regions = s.regions := rfl
@[simp] theorem copyBytes_mills (s : State) (src dst n : Nat) : (copyBytes s src dst n).mills = s.mills := rfl
@[simp] theorem copyBytes_cores (s : State) (src dst n : Nat) : (copyBytes s src dst n).cores = s.cores := rfl
@[simp] theorem copyBytes_race (s : State) (src dst n : Nat) : (copyBytes s src dst n).race = s.race := rfl
@[simp] theorem copyBytes_hop (s : State) (src dst n : Nat) : (copyBytes s src dst n).hop = s.hop := rfl
@[simp] theorem copyBytes_pond (s : State) (src dst n : Nat) : (copyBytes s src dst n).pond = s.pond := rfl
@[simp] theorem copyBytes_sluice (s : State) (src dst n : Nat) : (copyBytes s src dst n).sluice = s.sluice := rfl
@[simp] theorem copyBytes_links (s : State) (src dst n : Nat) : (copyBytes s src dst n).links = s.links := rfl
@[simp] theorem copyBytes_snow (s : State) (src dst n : Nat) : (copyBytes s src dst n).snow = s.snow := rfl
@[simp] theorem copyBytes_pwr (s : State) (src dst n : Nat) : (copyBytes s src dst n).pwr = s.pwr := rfl
@[simp] theorem copyBytes_clk (s : State) (src dst n : Nat) : (copyBytes s src dst n).clk = s.clk := rfl
@[simp] theorem copyBytes_thm (s : State) (src dst n : Nat) : (copyBytes s src dst n).thm = s.thm := rfl
@[simp] theorem copyBytes_frn (s : State) (src dst n : Nat) : (copyBytes s src dst n).frn = s.frn := rfl
@[simp] theorem copyBytes_flt (s : State) (src dst n : Nat) : (copyBytes s src dst n).flt = s.flt := rfl
@[simp] theorem copyBytes_bst (s : State) (src dst n : Nat) : (copyBytes s src dst n).bst = s.bst := rfl
@[simp] theorem copyBytes_moraine (s : State) (src dst n : Nat) : (copyBytes s src dst n).moraine = s.moraine := rfl
@[simp] theorem copyBytes_bootno (s : State) (src dst n : Nat) : (copyBytes s src dst n).bootno = s.bootno := rfl
@[simp] theorem copyBytes_mlr (s : State) (src dst n : Nat) : (copyBytes s src dst n).mlr = s.mlr := rfl
@[simp] theorem copyBytes_sec (s : State) (src dst n : Nat) : (copyBytes s src dst n).sec = s.sec := rfl
@[simp] theorem copyBytes_realms (s : State) (src dst n : Nat) : (copyBytes s src dst n).realms = s.realms := rfl
@[simp] theorem copyBytes_pins (s : State) (src dst n : Nat) : (copyBytes s src dst n).pins = s.pins := rfl
@[simp] theorem copyBytes_out (s : State) (src dst n : Nat) : (copyBytes s src dst n).out = s.out := rfl

end Sys2Proof.Machine
end

