-- ==== Sys2Proof/Laws/Cores.lean ====
section
/-!
SUPPORT. What starting, stopping and restoring the cores of a step leaves alone (04 R148, 06 R201, R230, 13 R492): the state apart
from cores and the token pools of regions, and every other core.
-/
namespace Sys2Proof.Machine

@[simp] theorem coreOf_updRegion (s : State) (r : Nat) (f : Region → Region) (d : Nat) : coreOf (updRegion s r f) d = coreOf s d := rfl

/-- A change of core `c` shows in core `c` and in no other. -/
theorem coreOf_updCore (s : State) (c : Nat) (f : Core → Core) (d : Nat) :
    coreOf (updCore s c f) d = if d = c then f (coreOf s c) else coreOf s d := by
  unfold coreOf
  simp only [updCore, Tbl.get_upd]

/-! ### returnTokens -/

@[simp] theorem returnTokens_pending (s : State) (c : Nat) : (returnTokens s c).pending = s.pending := by
  rfl
@[simp] theorem returnTokens_free (s : State) (c : Nat) : (returnTokens s c).free = s.free := by
  rfl
@[simp] theorem returnTokens_ids (s : State) (c : Nat) : (returnTokens s c).ids = s.ids := by
  rfl
@[simp] theorem returnTokens_mem (s : State) (c : Nat) : (returnTokens s c).mem = s.mem := by
  rfl
@[simp] theorem returnTokens_prog (s : State) (c : Nat) : (returnTokens s c).prog = s.prog := by
  rfl
@[simp] theorem returnTokens_poison (s : State) (c : Nat) : (returnTokens s c).poison = s.poison := by
  rfl
@[simp] theorem returnTokens_glb (s : State) (c : Nat) : (returnTokens s c).glb = s.glb := by
  rfl
@[simp] theorem returnTokens_mills (s : State) (c : Nat) : (returnTokens s c).mills = s.mills := by
  rfl
@[simp] theorem returnTokens_race (s : State) (c : Nat) : (returnTokens s c).race = s.race := by
  rfl
@[simp] theorem returnTokens_hop (s : State) (c : Nat) : (returnTokens s c).hop = s.hop := by
  rfl
@[simp] theorem returnTokens_pond (s : State) (c : Nat) : (returnTokens s c).pond = s.pond := by
  rfl
@[simp] theorem returnTokens_sluice (s : State) (c : Nat) : (returnTokens s c).sluice = s.sluice := by
  rfl
@[simp] theorem returnTokens_links (s : State) (c : Nat) : (returnTokens s c).links = s.links := by
  rfl
@[simp] theorem returnTokens_snow (s : State) (c : Nat) : (returnTokens s c).snow = s.snow := by
  rfl
@[simp] theorem returnTokens_pwr (s : State) (c : Nat) : (returnTokens s c).pwr = s.pwr := by
  rfl
@[simp] theorem returnTokens_clk (s : State) (c : Nat) : (returnTokens s c).clk = s.clk := by
  rfl
@[simp] theorem returnTokens_thm (s : State) (c : Nat) : (returnTokens s c).thm = s.thm := by
  rfl
@[simp] theorem returnTokens_frn (s : State) (c : Nat) : (returnTokens s c).frn = s.frn := by
  rfl
@[simp] theorem returnTokens_flt (s : State) (c : Nat) : (returnTokens s c).flt = s.flt := by
  rfl
@[simp] theorem returnTokens_bst (s : State) (c : Nat) : (returnTokens s c).bst = s.bst := by
  rfl
@[simp] theorem returnTokens_moraine (s : State) (c : Nat) : (returnTokens s c).moraine = s.moraine := by
  rfl
@[simp] theorem returnTokens_bootno (s : State) (c : Nat) : (returnTokens s c).bootno = s.bootno := by
  rfl
@[simp] theorem returnTokens_mlr (s : State) (c : Nat) : (returnTokens s c).mlr = s.mlr := by
  rfl
@[simp] theorem returnTokens_sec (s : State) (c : Nat) : (returnTokens s c).sec = s.sec := by
  rfl
@[simp] theorem returnTokens_realms (s : State) (c : Nat) : (returnTokens s c).realms = s.realms := by
  rfl
@[simp] theorem returnTokens_pins (s : State) (c : Nat) : (returnTokens s c).pins = s.pins := by
  rfl
@[simp] theorem returnTokens_out (s : State) (c : Nat) : (returnTokens s c).out = s.out := by
  rfl

/-! ### stopCore -/

@[simp] theorem stopCore_pending (s : State) (c : Nat) : (stopCore s c).pending = s.pending := by
  rfl
@[simp] theorem stopCore_free (s : State) (c : Nat) : (stopCore s c).free = s.free := by
  rfl
@[simp] theorem stopCore_ids (s : State) (c : Nat) : (stopCore s c).ids = s.ids := by
  rfl
@[simp] theorem stopCore_mem (s : State) (c : Nat) : (stopCore s c).mem = s.mem := by
  rfl
@[simp] theorem stopCore_prog (s : State) (c : Nat) : (stopCore s c).prog = s.prog := by
  rfl
@[simp] theorem stopCore_poison (s : State) (c : Nat) : (stopCore s c).poison = s.poison := by
  rfl
@[simp] theorem stopCore_glb (s : State) (c : Nat) : (stopCore s c).glb = s.glb := by
  rfl
@[simp] theorem stopCore_regions (s : State) (c : Nat) : (stopCore s c).regions = s.regions := by
  rfl
@[simp] theorem stopCore_mills (s : State) (c : Nat) : (stopCore s c).mills = s.mills := by
  rfl
@[simp] theorem stopCore_race (s : State) (c : Nat) : (stopCore s c).race = s.race := by
  rfl
@[simp] theorem stopCore_hop (s : State) (c : Nat) : (stopCore s c).hop = s.hop := by
  rfl
@[simp] theorem stopCore_pond (s : State) (c : Nat) : (stopCore s c).pond = s.pond := by
  rfl
@[simp] theorem stopCore_sluice (s : State) (c : Nat) : (stopCore s c).sluice = s.sluice := by
  rfl
@[simp] theorem stopCore_links (s : State) (c : Nat) : (stopCore s c).links = s.links := by
  rfl
@[simp] theorem stopCore_snow (s : State) (c : Nat) : (stopCore s c).snow = s.snow := by
  rfl
@[simp] theorem stopCore_pwr (s : State) (c : Nat) : (stopCore s c).pwr = s.pwr := by
  rfl
@[simp] theorem stopCore_clk (s : State) (c : Nat) : (stopCore s c).clk = s.clk := by
  rfl
@[simp] theorem stopCore_thm (s : State) (c : Nat) : (stopCore s c).thm = s.thm := by
  rfl
@[simp] theorem stopCore_frn (s : State) (c : Nat) : (stopCore s c).frn = s.frn := by
  rfl
@[simp] theorem stopCore_flt (s : State) (c : Nat) : (stopCore s c).flt = s.flt := by
  rfl
@[simp] theorem stopCore_bst (s : State) (c : Nat) : (stopCore s c).bst = s.bst := by
  rfl
@[simp] theorem stopCore_moraine (s : State) (c : Nat) : (stopCore s c).moraine = s.moraine := by
  rfl
@[simp] theorem stopCore_bootno (s : State) (c : Nat) : (stopCore s c).bootno = s.bootno := by
  rfl
@[simp] theorem stopCore_mlr (s : State) (c : Nat) : (stopCore s c).mlr = s.mlr := by
  rfl
@[simp] theorem stopCore_sec (s : State) (c : Nat) : (stopCore s c).sec = s.sec := by
  rfl
@[simp] theorem stopCore_realms (s : State) (c : Nat) : (stopCore s c).realms = s.realms := by
  rfl
@[simp] theorem stopCore_pins (s : State) (c : Nat) : (stopCore s c).pins = s.pins := by
  rfl
@[simp] theorem stopCore_out (s : State) (c : Nat) : (stopCore s c).out = s.out := by
  rfl

/-! ### restoreCore -/

@[simp] theorem restoreCore_pending (s : State) (c : Nat) : (restoreCore s c).pending = s.pending := by
  rfl
@[simp] theorem restoreCore_free (s : State) (c : Nat) : (restoreCore s c).free = s.free := by
  rfl
@[simp] theorem restoreCore_ids (s : State) (c : Nat) : (restoreCore s c).ids = s.ids := by
  rfl
@[simp] theorem restoreCore_mem (s : State) (c : Nat) : (restoreCore s c).mem = s.mem := by
  rfl
@[simp] theorem restoreCore_prog (s : State) (c : Nat) : (restoreCore s c).prog = s.prog := by
  rfl
@[simp] theorem restoreCore_poison (s : State) (c : Nat) : (restoreCore s c).poison = s.poison := by
  rfl
@[simp] theorem restoreCore_glb (s : State) (c : Nat) : (restoreCore s c).glb = s.glb := by
  rfl
@[simp] theorem restoreCore_mills (s : State) (c : Nat) : (restoreCore s c).mills = s.mills := by
  rfl
@[simp] theorem restoreCore_race (s : State) (c : Nat) : (restoreCore s c).race = s.race := by
  rfl
@[simp] theorem restoreCore_hop (s : State) (c : Nat) : (restoreCore s c).hop = s.hop := by
  rfl
@[simp] theorem restoreCore_pond (s : State) (c : Nat) : (restoreCore s c).pond = s.pond := by
  rfl
@[simp] theorem restoreCore_sluice (s : State) (c : Nat) : (restoreCore s c).sluice = s.sluice := by
  rfl
@[simp] theorem restoreCore_links (s : State) (c : Nat) : (restoreCore s c).links = s.links := by
  rfl
@[simp] theorem restoreCore_snow (s : State) (c : Nat) : (restoreCore s c).snow = s.snow := by
  rfl
@[simp] theorem restoreCore_pwr (s : State) (c : Nat) : (restoreCore s c).pwr = s.pwr := by
  rfl
@[simp] theorem restoreCore_clk (s : State) (c : Nat) : (restoreCore s c).clk = s.clk := by
  rfl
@[simp] theorem restoreCore_thm (s : State) (c : Nat) : (restoreCore s c).thm = s.thm := by
  rfl
@[simp] theorem restoreCore_frn (s : State) (c : Nat) : (restoreCore s c).frn = s.frn := by
  rfl
@[simp] theorem restoreCore_flt (s : State) (c : Nat) : (restoreCore s c).flt = s.flt := by
  rfl
@[simp] theorem restoreCore_bst (s : State) (c : Nat) : (restoreCore s c).bst = s.bst := by
  rfl
@[simp] theorem restoreCore_moraine (s : State) (c : Nat) : (restoreCore s c).moraine = s.moraine := by
  rfl
@[simp] theorem restoreCore_bootno (s : State) (c : Nat) : (restoreCore s c).bootno = s.bootno := by
  rfl
@[simp] theorem restoreCore_mlr (s : State) (c : Nat) : (restoreCore s c).mlr = s.mlr := by
  rfl
@[simp] theorem restoreCore_sec (s : State) (c : Nat) : (restoreCore s c).sec = s.sec := by
  rfl
@[simp] theorem restoreCore_realms (s : State) (c : Nat) : (restoreCore s c).realms = s.realms := by
  rfl
@[simp] theorem restoreCore_pins (s : State) (c : Nat) : (restoreCore s c).pins = s.pins := by
  rfl
@[simp] theorem restoreCore_out (s : State) (c : Nat) : (restoreCore s c).out = s.out := by
  rfl

/-! ### startCore -/

@[simp] theorem startCore_pending (entry : Nat) (arg : BitVec 32) (s : State) (c : Nat) : (startCore entry arg s c).pending = s.pending := by
  rfl
@[simp] theorem startCore_free (entry : Nat) (arg : BitVec 32) (s : State) (c : Nat) : (startCore entry arg s c).free = s.free := by
  rfl
@[simp] theorem startCore_ids (entry : Nat) (arg : BitVec 32) (s : State) (c : Nat) : (startCore entry arg s c).ids = s.ids := by
  rfl
@[simp] theorem startCore_mem (entry : Nat) (arg : BitVec 32) (s : State) (c : Nat) : (startCore entry arg s c).mem = s.mem := by
  rfl
@[simp] theorem startCore_prog (entry : Nat) (arg : BitVec 32) (s : State) (c : Nat) : (startCore entry arg s c).prog = s.prog := by
  rfl
@[simp] theorem startCore_poison (entry : Nat) (arg : BitVec 32) (s : State) (c : Nat) : (startCore entry arg s c).poison = s.poison := by
  rfl
@[simp] theorem startCore_glb (entry : Nat) (arg : BitVec 32) (s : State) (c : Nat) : (startCore entry arg s c).glb = s.glb := by
  rfl
@[simp] theorem startCore_regions (entry : Nat) (arg : BitVec 32) (s : State) (c : Nat) : (startCore entry arg s c).regions = s.regions := by
  rfl
@[simp] theorem startCore_mills (entry : Nat) (arg : BitVec 32) (s : State) (c : Nat) : (startCore entry arg s c).mills = s.mills := by
  rfl
@[simp] theorem startCore_race (entry : Nat) (arg : BitVec 32) (s : State) (c : Nat) : (startCore entry arg s c).race = s.race := by
  rfl
@[simp] theorem startCore_hop (entry : Nat) (arg : BitVec 32) (s : State) (c : Nat) : (startCore entry arg s c).hop = s.hop := by
  rfl
@[simp] theorem startCore_pond (entry : Nat) (arg : BitVec 32) (s : State) (c : Nat) : (startCore entry arg s c).pond = s.pond := by
  rfl
@[simp] theorem startCore_sluice (entry : Nat) (arg : BitVec 32) (s : State) (c : Nat) : (startCore entry arg s c).sluice = s.sluice := by
  rfl
@[simp] theorem startCore_links (entry : Nat) (arg : BitVec 32) (s : State) (c : Nat) : (startCore entry arg s c).links = s.links := by
  rfl
@[simp] theorem startCore_snow (entry : Nat) (arg : BitVec 32) (s : State) (c : Nat) : (startCore entry arg s c).snow = s.snow := by
  rfl
@[simp] theorem startCore_pwr (entry : Nat) (arg : BitVec 32) (s : State) (c : Nat) : (startCore entry arg s c).pwr = s.pwr := by
  rfl
@[simp] theorem startCore_clk (entry : Nat) (arg : BitVec 32) (s : State) (c : Nat) : (startCore entry arg s c).clk = s.clk := by
  rfl
@[simp] theorem startCore_thm (entry : Nat) (arg : BitVec 32) (s : State) (c : Nat) : (startCore entry arg s c).thm = s.thm := by
  rfl
@[simp] theorem startCore_frn (entry : Nat) (arg : BitVec 32) (s : State) (c : Nat) : (startCore entry arg s c).frn = s.frn := by
  rfl
@[simp] theorem startCore_flt (entry : Nat) (arg : BitVec 32) (s : State) (c : Nat) : (startCore entry arg s c).flt = s.flt := by
  rfl
@[simp] theorem startCore_bst (entry : Nat) (arg : BitVec 32) (s : State) (c : Nat) : (startCore entry arg s c).bst = s.bst := by
  rfl
@[simp] theorem startCore_moraine (entry : Nat) (arg : BitVec 32) (s : State) (c : Nat) : (startCore entry arg s c).moraine = s.moraine := by
  rfl
@[simp] theorem startCore_bootno (entry : Nat) (arg : BitVec 32) (s : State) (c : Nat) : (startCore entry arg s c).bootno = s.bootno := by
  rfl
@[simp] theorem startCore_mlr (entry : Nat) (arg : BitVec 32) (s : State) (c : Nat) : (startCore entry arg s c).mlr = s.mlr := by
  rfl
@[simp] theorem startCore_sec (entry : Nat) (arg : BitVec 32) (s : State) (c : Nat) : (startCore entry arg s c).sec = s.sec := by
  rfl
@[simp] theorem startCore_realms (entry : Nat) (arg : BitVec 32) (s : State) (c : Nat) : (startCore entry arg s c).realms = s.realms := by
  rfl
@[simp] theorem startCore_pins (entry : Nat) (arg : BitVec 32) (s : State) (c : Nat) : (startCore entry arg s c).pins = s.pins := by
  rfl
@[simp] theorem startCore_out (entry : Nat) (arg : BitVec 32) (s : State) (c : Nat) : (startCore entry arg s c).out = s.out := by
  rfl

/-- No other core changes. -/
theorem stopCore_other (s : State) (c d : Nat) (h : d ≠ c) : coreOf (stopCore s c) d = coreOf s d := by
  simp [stopCore, coreOf_updCore, h]

/-- No other core changes. -/
theorem restoreCore_other (s : State) (c d : Nat) (h : d ≠ c) : coreOf (restoreCore s c) d = coreOf s d := by
  simp [restoreCore, stopCore, returnTokens, coreOf_updCore, h]

/-- No other core changes. -/
theorem returnTokens_other (s : State) (c d : Nat) (h : d ≠ c) : coreOf (returnTokens s c) d = coreOf s d := by
  simp [returnTokens, coreOf_updCore, h]

/-- No other core changes. -/
theorem startCore_other (entry : Nat) (arg : BitVec 32) (s : State) (c d : Nat) (h : d ≠ c) : coreOf (startCore entry arg s c) d = coreOf s d := by
  simp [startCore, coreOf_updCore, h]

/-! ### Folds of stopCore -/

@[simp] theorem foldl_stopCore_pending (cs : List Nat) (s : State) : (cs.foldl stopCore s).pending = s.pending := by
  induction cs generalizing s with
  | nil => rfl
  | cons c cs ih => simp [ih]
@[simp] theorem foldl_stopCore_free (cs : List Nat) (s : State) : (cs.foldl stopCore s).free = s.free := by
  induction cs generalizing s with
  | nil => rfl
  | cons c cs ih => simp [ih]
@[simp] theorem foldl_stopCore_ids (cs : List Nat) (s : State) : (cs.foldl stopCore s).ids = s.ids := by
  induction cs generalizing s with
  | nil => rfl
  | cons c cs ih => simp [ih]
@[simp] theorem foldl_stopCore_mem (cs : List Nat) (s : State) : (cs.foldl stopCore s).mem = s.mem := by
  induction cs generalizing s with
  | nil => rfl
  | cons c cs ih => simp [ih]
@[simp] theorem foldl_stopCore_prog (cs : List Nat) (s : State) : (cs.foldl stopCore s).prog = s.prog := by
  induction cs generalizing s with
  | nil => rfl
  | cons c cs ih => simp [ih]
@[simp] theorem foldl_stopCore_poison (cs : List Nat) (s : State) : (cs.foldl stopCore s).poison = s.poison := by
  induction cs generalizing s with
  | nil => rfl
  | cons c cs ih => simp [ih]
@[simp] theorem foldl_stopCore_glb (cs : List Nat) (s : State) : (cs.foldl stopCore s).glb = s.glb := by
  induction cs generalizing s with
  | nil => rfl
  | cons c cs ih => simp [ih]
@[simp] theorem foldl_stopCore_regions (cs : List Nat) (s : State) : (cs.foldl stopCore s).regions = s.regions := by
  induction cs generalizing s with
  | nil => rfl
  | cons c cs ih => simp [ih]
@[simp] theorem foldl_stopCore_mills (cs : List Nat) (s : State) : (cs.foldl stopCore s).mills = s.mills := by
  induction cs generalizing s with
  | nil => rfl
  | cons c cs ih => simp [ih]
@[simp] theorem foldl_stopCore_race (cs : List Nat) (s : State) : (cs.foldl stopCore s).race = s.race := by
  induction cs generalizing s with
  | nil => rfl
  | cons c cs ih => simp [ih]
@[simp] theorem foldl_stopCore_hop (cs : List Nat) (s : State) : (cs.foldl stopCore s).hop = s.hop := by
  induction cs generalizing s with
  | nil => rfl
  | cons c cs ih => simp [ih]
@[simp] theorem foldl_stopCore_pond (cs : List Nat) (s : State) : (cs.foldl stopCore s).pond = s.pond := by
  induction cs generalizing s with
  | nil => rfl
  | cons c cs ih => simp [ih]
@[simp] theorem foldl_stopCore_sluice (cs : List Nat) (s : State) : (cs.foldl stopCore s).sluice = s.sluice := by
  induction cs generalizing s with
  | nil => rfl
  | cons c cs ih => simp [ih]
@[simp] theorem foldl_stopCore_links (cs : List Nat) (s : State) : (cs.foldl stopCore s).links = s.links := by
  induction cs generalizing s with
  | nil => rfl
  | cons c cs ih => simp [ih]
@[simp] theorem foldl_stopCore_snow (cs : List Nat) (s : State) : (cs.foldl stopCore s).snow = s.snow := by
  induction cs generalizing s with
  | nil => rfl
  | cons c cs ih => simp [ih]
@[simp] theorem foldl_stopCore_pwr (cs : List Nat) (s : State) : (cs.foldl stopCore s).pwr = s.pwr := by
  induction cs generalizing s with
  | nil => rfl
  | cons c cs ih => simp [ih]
@[simp] theorem foldl_stopCore_clk (cs : List Nat) (s : State) : (cs.foldl stopCore s).clk = s.clk := by
  induction cs generalizing s with
  | nil => rfl
  | cons c cs ih => simp [ih]
@[simp] theorem foldl_stopCore_thm (cs : List Nat) (s : State) : (cs.foldl stopCore s).thm = s.thm := by
  induction cs generalizing s with
  | nil => rfl
  | cons c cs ih => simp [ih]
@[simp] theorem foldl_stopCore_frn (cs : List Nat) (s : State) : (cs.foldl stopCore s).frn = s.frn := by
  induction cs generalizing s with
  | nil => rfl
  | cons c cs ih => simp [ih]
@[simp] theorem foldl_stopCore_flt (cs : List Nat) (s : State) : (cs.foldl stopCore s).flt = s.flt := by
  induction cs generalizing s with
  | nil => rfl
  | cons c cs ih => simp [ih]
@[simp] theorem foldl_stopCore_bst (cs : List Nat) (s : State) : (cs.foldl stopCore s).bst = s.bst := by
  induction cs generalizing s with
  | nil => rfl
  | cons c cs ih => simp [ih]
@[simp] theorem foldl_stopCore_moraine (cs : List Nat) (s : State) : (cs.foldl stopCore s).moraine = s.moraine := by
  induction cs generalizing s with
  | nil => rfl
  | cons c cs ih => simp [ih]
@[simp] theorem foldl_stopCore_bootno (cs : List Nat) (s : State) : (cs.foldl stopCore s).bootno = s.bootno := by
  induction cs generalizing s with
  | nil => rfl
  | cons c cs ih => simp [ih]
@[simp] theorem foldl_stopCore_mlr (cs : List Nat) (s : State) : (cs.foldl stopCore s).mlr = s.mlr := by
  induction cs generalizing s with
  | nil => rfl
  | cons c cs ih => simp [ih]
@[simp] theorem foldl_stopCore_sec (cs : List Nat) (s : State) : (cs.foldl stopCore s).sec = s.sec := by
  induction cs generalizing s with
  | nil => rfl
  | cons c cs ih => simp [ih]
@[simp] theorem foldl_stopCore_realms (cs : List Nat) (s : State) : (cs.foldl stopCore s).realms = s.realms := by
  induction cs generalizing s with
  | nil => rfl
  | cons c cs ih => simp [ih]
@[simp] theorem foldl_stopCore_pins (cs : List Nat) (s : State) : (cs.foldl stopCore s).pins = s.pins := by
  induction cs generalizing s with
  | nil => rfl
  | cons c cs ih => simp [ih]
@[simp] theorem foldl_stopCore_out (cs : List Nat) (s : State) : (cs.foldl stopCore s).out = s.out := by
  induction cs generalizing s with
  | nil => rfl
  | cons c cs ih => simp [ih]

/-! ### Folds of restoreCore -/

@[simp] theorem foldl_restoreCore_pending (cs : List Nat) (s : State) : (cs.foldl restoreCore s).pending = s.pending := by
  induction cs generalizing s with
  | nil => rfl
  | cons c cs ih => simp [ih]
@[simp] theorem foldl_restoreCore_free (cs : List Nat) (s : State) : (cs.foldl restoreCore s).free = s.free := by
  induction cs generalizing s with
  | nil => rfl
  | cons c cs ih => simp [ih]
@[simp] theorem foldl_restoreCore_ids (cs : List Nat) (s : State) : (cs.foldl restoreCore s).ids = s.ids := by
  induction cs generalizing s with
  | nil => rfl
  | cons c cs ih => simp [ih]
@[simp] theorem foldl_restoreCore_mem (cs : List Nat) (s : State) : (cs.foldl restoreCore s).mem = s.mem := by
  induction cs generalizing s with
  | nil => rfl
  | cons c cs ih => simp [ih]
@[simp] theorem foldl_restoreCore_prog (cs : List Nat) (s : State) : (cs.foldl restoreCore s).prog = s.prog := by
  induction cs generalizing s with
  | nil => rfl
  | cons c cs ih => simp [ih]
@[simp] theorem foldl_restoreCore_poison (cs : List Nat) (s : State) : (cs.foldl restoreCore s).poison = s.poison := by
  induction cs generalizing s with
  | nil => rfl
  | cons c cs ih => simp [ih]
@[simp] theorem foldl_restoreCore_glb (cs : List Nat) (s : State) : (cs.foldl restoreCore s).glb = s.glb := by
  induction cs generalizing s with
  | nil => rfl
  | cons c cs ih => simp [ih]
@[simp] theorem foldl_restoreCore_mills (cs : List Nat) (s : State) : (cs.foldl restoreCore s).mills = s.mills := by
  induction cs generalizing s with
  | nil => rfl
  | cons c cs ih => simp [ih]
@[simp] theorem foldl_restoreCore_race (cs : List Nat) (s : State) : (cs.foldl restoreCore s).race = s.race := by
  induction cs generalizing s with
  | nil => rfl
  | cons c cs ih => simp [ih]
@[simp] theorem foldl_restoreCore_hop (cs : List Nat) (s : State) : (cs.foldl restoreCore s).hop = s.hop := by
  induction cs generalizing s with
  | nil => rfl
  | cons c cs ih => simp [ih]
@[simp] theorem foldl_restoreCore_pond (cs : List Nat) (s : State) : (cs.foldl restoreCore s).pond = s.pond := by
  induction cs generalizing s with
  | nil => rfl
  | cons c cs ih => simp [ih]
@[simp] theorem foldl_restoreCore_sluice (cs : List Nat) (s : State) : (cs.foldl restoreCore s).sluice = s.sluice := by
  induction cs generalizing s with
  | nil => rfl
  | cons c cs ih => simp [ih]
@[simp] theorem foldl_restoreCore_links (cs : List Nat) (s : State) : (cs.foldl restoreCore s).links = s.links := by
  induction cs generalizing s with
  | nil => rfl
  | cons c cs ih => simp [ih]
@[simp] theorem foldl_restoreCore_snow (cs : List Nat) (s : State) : (cs.foldl restoreCore s).snow = s.snow := by
  induction cs generalizing s with
  | nil => rfl
  | cons c cs ih => simp [ih]
@[simp] theorem foldl_restoreCore_pwr (cs : List Nat) (s : State) : (cs.foldl restoreCore s).pwr = s.pwr := by
  induction cs generalizing s with
  | nil => rfl
  | cons c cs ih => simp [ih]
@[simp] theorem foldl_restoreCore_clk (cs : List Nat) (s : State) : (cs.foldl restoreCore s).clk = s.clk := by
  induction cs generalizing s with
  | nil => rfl
  | cons c cs ih => simp [ih]
@[simp] theorem foldl_restoreCore_thm (cs : List Nat) (s : State) : (cs.foldl restoreCore s).thm = s.thm := by
  induction cs generalizing s with
  | nil => rfl
  | cons c cs ih => simp [ih]
@[simp] theorem foldl_restoreCore_frn (cs : List Nat) (s : State) : (cs.foldl restoreCore s).frn = s.frn := by
  induction cs generalizing s with
  | nil => rfl
  | cons c cs ih => simp [ih]
@[simp] theorem foldl_restoreCore_flt (cs : List Nat) (s : State) : (cs.foldl restoreCore s).flt = s.flt := by
  induction cs generalizing s with
  | nil => rfl
  | cons c cs ih => simp [ih]
@[simp] theorem foldl_restoreCore_bst (cs : List Nat) (s : State) : (cs.foldl restoreCore s).bst = s.bst := by
  induction cs generalizing s with
  | nil => rfl
  | cons c cs ih => simp [ih]
@[simp] theorem foldl_restoreCore_moraine (cs : List Nat) (s : State) : (cs.foldl restoreCore s).moraine = s.moraine := by
  induction cs generalizing s with
  | nil => rfl
  | cons c cs ih => simp [ih]
@[simp] theorem foldl_restoreCore_bootno (cs : List Nat) (s : State) : (cs.foldl restoreCore s).bootno = s.bootno := by
  induction cs generalizing s with
  | nil => rfl
  | cons c cs ih => simp [ih]
@[simp] theorem foldl_restoreCore_mlr (cs : List Nat) (s : State) : (cs.foldl restoreCore s).mlr = s.mlr := by
  induction cs generalizing s with
  | nil => rfl
  | cons c cs ih => simp [ih]
@[simp] theorem foldl_restoreCore_sec (cs : List Nat) (s : State) : (cs.foldl restoreCore s).sec = s.sec := by
  induction cs generalizing s with
  | nil => rfl
  | cons c cs ih => simp [ih]
@[simp] theorem foldl_restoreCore_realms (cs : List Nat) (s : State) : (cs.foldl restoreCore s).realms = s.realms := by
  induction cs generalizing s with
  | nil => rfl
  | cons c cs ih => simp [ih]
@[simp] theorem foldl_restoreCore_pins (cs : List Nat) (s : State) : (cs.foldl restoreCore s).pins = s.pins := by
  induction cs generalizing s with
  | nil => rfl
  | cons c cs ih => simp [ih]
@[simp] theorem foldl_restoreCore_out (cs : List Nat) (s : State) : (cs.foldl restoreCore s).out = s.out := by
  induction cs generalizing s with
  | nil => rfl
  | cons c cs ih => simp [ih]

/-! ### Folds of startCore -/

@[simp] theorem foldl_startCore_pending (entry : Nat) (arg : BitVec 32) (cs : List Nat) (s : State) : (cs.foldl (startCore entry arg) s).pending = s.pending := by
  induction cs generalizing s with
  | nil => rfl
  | cons c cs ih => simp [ih]
@[simp] theorem foldl_startCore_free (entry : Nat) (arg : BitVec 32) (cs : List Nat) (s : State) : (cs.foldl (startCore entry arg) s).free = s.free := by
  induction cs generalizing s with
  | nil => rfl
  | cons c cs ih => simp [ih]
@[simp] theorem foldl_startCore_ids (entry : Nat) (arg : BitVec 32) (cs : List Nat) (s : State) : (cs.foldl (startCore entry arg) s).ids = s.ids := by
  induction cs generalizing s with
  | nil => rfl
  | cons c cs ih => simp [ih]
@[simp] theorem foldl_startCore_mem (entry : Nat) (arg : BitVec 32) (cs : List Nat) (s : State) : (cs.foldl (startCore entry arg) s).mem = s.mem := by
  induction cs generalizing s with
  | nil => rfl
  | cons c cs ih => simp [ih]
@[simp] theorem foldl_startCore_prog (entry : Nat) (arg : BitVec 32) (cs : List Nat) (s : State) : (cs.foldl (startCore entry arg) s).prog = s.prog := by
  induction cs generalizing s with
  | nil => rfl
  | cons c cs ih => simp [ih]
@[simp] theorem foldl_startCore_poison (entry : Nat) (arg : BitVec 32) (cs : List Nat) (s : State) : (cs.foldl (startCore entry arg) s).poison = s.poison := by
  induction cs generalizing s with
  | nil => rfl
  | cons c cs ih => simp [ih]
@[simp] theorem foldl_startCore_glb (entry : Nat) (arg : BitVec 32) (cs : List Nat) (s : State) : (cs.foldl (startCore entry arg) s).glb = s.glb := by
  induction cs generalizing s with
  | nil => rfl
  | cons c cs ih => simp [ih]
@[simp] theorem foldl_startCore_regions (entry : Nat) (arg : BitVec 32) (cs : List Nat) (s : State) : (cs.foldl (startCore entry arg) s).regions = s.regions := by
  induction cs generalizing s with
  | nil => rfl
  | cons c cs ih => simp [ih]
@[simp] theorem foldl_startCore_mills (entry : Nat) (arg : BitVec 32) (cs : List Nat) (s : State) : (cs.foldl (startCore entry arg) s).mills = s.mills := by
  induction cs generalizing s with
  | nil => rfl
  | cons c cs ih => simp [ih]
@[simp] theorem foldl_startCore_race (entry : Nat) (arg : BitVec 32) (cs : List Nat) (s : State) : (cs.foldl (startCore entry arg) s).race = s.race := by
  induction cs generalizing s with
  | nil => rfl
  | cons c cs ih => simp [ih]
@[simp] theorem foldl_startCore_hop (entry : Nat) (arg : BitVec 32) (cs : List Nat) (s : State) : (cs.foldl (startCore entry arg) s).hop = s.hop := by
  induction cs generalizing s with
  | nil => rfl
  | cons c cs ih => simp [ih]
@[simp] theorem foldl_startCore_pond (entry : Nat) (arg : BitVec 32) (cs : List Nat) (s : State) : (cs.foldl (startCore entry arg) s).pond = s.pond := by
  induction cs generalizing s with
  | nil => rfl
  | cons c cs ih => simp [ih]
@[simp] theorem foldl_startCore_sluice (entry : Nat) (arg : BitVec 32) (cs : List Nat) (s : State) : (cs.foldl (startCore entry arg) s).sluice = s.sluice := by
  induction cs generalizing s with
  | nil => rfl
  | cons c cs ih => simp [ih]
@[simp] theorem foldl_startCore_links (entry : Nat) (arg : BitVec 32) (cs : List Nat) (s : State) : (cs.foldl (startCore entry arg) s).links = s.links := by
  induction cs generalizing s with
  | nil => rfl
  | cons c cs ih => simp [ih]
@[simp] theorem foldl_startCore_snow (entry : Nat) (arg : BitVec 32) (cs : List Nat) (s : State) : (cs.foldl (startCore entry arg) s).snow = s.snow := by
  induction cs generalizing s with
  | nil => rfl
  | cons c cs ih => simp [ih]
@[simp] theorem foldl_startCore_pwr (entry : Nat) (arg : BitVec 32) (cs : List Nat) (s : State) : (cs.foldl (startCore entry arg) s).pwr = s.pwr := by
  induction cs generalizing s with
  | nil => rfl
  | cons c cs ih => simp [ih]
@[simp] theorem foldl_startCore_clk (entry : Nat) (arg : BitVec 32) (cs : List Nat) (s : State) : (cs.foldl (startCore entry arg) s).clk = s.clk := by
  induction cs generalizing s with
  | nil => rfl
  | cons c cs ih => simp [ih]
@[simp] theorem foldl_startCore_thm (entry : Nat) (arg : BitVec 32) (cs : List Nat) (s : State) : (cs.foldl (startCore entry arg) s).thm = s.thm := by
  induction cs generalizing s with
  | nil => rfl
  | cons c cs ih => simp [ih]
@[simp] theorem foldl_startCore_frn (entry : Nat) (arg : BitVec 32) (cs : List Nat) (s : State) : (cs.foldl (startCore entry arg) s).frn = s.frn := by
  induction cs generalizing s with
  | nil => rfl
  | cons c cs ih => simp [ih]
@[simp] theorem foldl_startCore_flt (entry : Nat) (arg : BitVec 32) (cs : List Nat) (s : State) : (cs.foldl (startCore entry arg) s).flt = s.flt := by
  induction cs generalizing s with
  | nil => rfl
  | cons c cs ih => simp [ih]
@[simp] theorem foldl_startCore_bst (entry : Nat) (arg : BitVec 32) (cs : List Nat) (s : State) : (cs.foldl (startCore entry arg) s).bst = s.bst := by
  induction cs generalizing s with
  | nil => rfl
  | cons c cs ih => simp [ih]
@[simp] theorem foldl_startCore_moraine (entry : Nat) (arg : BitVec 32) (cs : List Nat) (s : State) : (cs.foldl (startCore entry arg) s).moraine = s.moraine := by
  induction cs generalizing s with
  | nil => rfl
  | cons c cs ih => simp [ih]
@[simp] theorem foldl_startCore_bootno (entry : Nat) (arg : BitVec 32) (cs : List Nat) (s : State) : (cs.foldl (startCore entry arg) s).bootno = s.bootno := by
  induction cs generalizing s with
  | nil => rfl
  | cons c cs ih => simp [ih]
@[simp] theorem foldl_startCore_mlr (entry : Nat) (arg : BitVec 32) (cs : List Nat) (s : State) : (cs.foldl (startCore entry arg) s).mlr = s.mlr := by
  induction cs generalizing s with
  | nil => rfl
  | cons c cs ih => simp [ih]
@[simp] theorem foldl_startCore_sec (entry : Nat) (arg : BitVec 32) (cs : List Nat) (s : State) : (cs.foldl (startCore entry arg) s).sec = s.sec := by
  induction cs generalizing s with
  | nil => rfl
  | cons c cs ih => simp [ih]
@[simp] theorem foldl_startCore_realms (entry : Nat) (arg : BitVec 32) (cs : List Nat) (s : State) : (cs.foldl (startCore entry arg) s).realms = s.realms := by
  induction cs generalizing s with
  | nil => rfl
  | cons c cs ih => simp [ih]
@[simp] theorem foldl_startCore_pins (entry : Nat) (arg : BitVec 32) (cs : List Nat) (s : State) : (cs.foldl (startCore entry arg) s).pins = s.pins := by
  induction cs generalizing s with
  | nil => rfl
  | cons c cs ih => simp [ih]
@[simp] theorem foldl_startCore_out (entry : Nat) (arg : BitVec 32) (cs : List Nat) (s : State) : (cs.foldl (startCore entry arg) s).out = s.out := by
  induction cs generalizing s with
  | nil => rfl
  | cons c cs ih => simp [ih]

/-- A stopped core has nothing queued or running and holds its memories, handles and scalars (R75). -/
theorem stopCore_same (s : State) (c : Nat) :
    (coreOf (stopCore s c) c).engs = [] ∧ (coreOf (stopCore s c) c).flume = [] ∧
    (coreOf (stopCore s c) c).handles = (coreOf s c).handles ∧ (coreOf (stopCore s c) c).windows = (coreOf s c).windows ∧
    (coreOf (stopCore s c) c).scc.regs = (coreOf s c).scc.regs ∧ (coreOf (stopCore s c) c).copy = (coreOf s c).copy := by
  simp [stopCore]

/-- A restored core has the handles and windows of its copy, is outside a step and holds no token that it acquired (R148, R230). -/
theorem restoreCore_same (s : State) (c : Nat) :
    (coreOf (restoreCore s c) c).handles = (coreOf s c).copy.handles ∧ (coreOf (restoreCore s c) c).windows = (coreOf s c).copy.windows ∧
    (coreOf (restoreCore s c) c).copy = (coreOf s c).copy ∧ (coreOf (restoreCore s c) c).scc.run = .outside ∧
    (coreOf (restoreCore s c) c).acquired = 0 := by
  simp [restoreCore, returnTokens, stopCore]

/-- A core that begins a step runs at its entry, with the copy taken (R148, R201). -/
theorem startCore_same (entry : Nat) (arg : BitVec 32) (s : State) (c : Nat) :
    (coreOf (startCore entry arg s c) c).scc.pc = entry ∧ (coreOf (startCore entry arg s c) c).scc.run = .running ∧
    (coreOf (startCore entry arg s c) c).copy.handles = (coreOf s c).handles ∧
    (coreOf (startCore entry arg s c) c).copy.windows = (coreOf s c).windows := by
  simp [startCore]

end Sys2Proof.Machine
end

