-- ==== Sys2Proof/Laws/Memory.lean ====
section
/-!
SUPPORT. Memory: a byte read after a write, and that every memory operation keeps the canonical form.
-/
namespace Sys2Proof.Machine

/-- A byte after bytes were put: the byte put there, or what stood there. -/
theorem Memory.byte_put (m : Memory) (a : Nat) (bs : List Byte) (x : Nat) :
    Memory.byte (Memory.put m a bs) x = if h : a ≤ x ∧ x - a < bs.length then bs[x - a] else Memory.byte m x := by
  induction bs generalizing m a with
  | nil => simp [Memory.put]
  | cons b bs ih =>
    rw [Memory.put, ih]
    by_cases e : x = a
    · subst e
      rw [dif_neg (by omega), dif_pos ⟨Nat.le_refl x, by simp⟩]
      simp [Memory.byte]
    · by_cases g : a + 1 ≤ x ∧ x - (a + 1) < bs.length
      · rw [dif_pos g, dif_pos ⟨by omega, by simp only [List.length_cons]; omega⟩]
        have : x - a = (x - (a + 1)) + 1 := by omega
        simp [this]
      · rw [dif_neg g, dif_neg (by simp only [List.length_cons]; omega), Memory.byte, Memory.byte]
        exact Tbl.get_set_other _ _ _ _ _ e

/-- A put leaves every byte outside its range alone. -/
theorem Memory.byte_put_outside (m : Memory) (a : Nat) (bs : List Byte) (x : Nat) (h : x < a ∨ a + bs.length ≤ x) :
    Memory.byte (Memory.put m a bs) x = Memory.byte m x := by
  rw [Memory.byte_put, dif_neg (by omega)]

/-- Zeroed bytes read 0, the others as before. -/
theorem Memory.byte_zero (m : Memory) (a n x : Nat) :
    Memory.byte (Memory.zero m a n) x = if a ≤ x ∧ x < a + n then 0 else Memory.byte m x :=
  Tbl.get_clear 0 m a (a + n) x

theorem Memory.wf_put (m : Memory) (a : Nat) (bs : List Byte) (w : Memory.wf m = true) :
    Memory.wf (Memory.put m a bs) = true := by
  induction bs generalizing m a with
  | nil => exact w
  | cons b bs ih => exact ih _ _ (Tbl.wf_set 0 m a b w)

theorem Memory.wf_zero (m : Memory) (a n : Nat) (w : Memory.wf m = true) : Memory.wf (Memory.zero m a n) = true :=
  Tbl.wf_clear 0 m _ _ w

theorem Memory.wf_filter (m : Memory) (f : Host.Cell → Bool) (w : Memory.wf m = true) : Memory.wf (m.filter f) = true :=
  Tbl.wf_filter 0 m f w

theorem Memory.wf_putAll (m : Memory) (src dst : Nat) (es : List Host.Cell) (w : Memory.wf m = true) :
    Memory.wf (Memory.putAll m src dst es) = true := by
  induction es generalizing m with
  | nil => exact w
  | cons e es ih => obtain ⟨a, b⟩ := e; exact ih _ (Tbl.wf_set 0 m _ b w)

theorem Memory.wf_copy (m : Memory) (src dst n : Nat) (w : Memory.wf m = true) :
    Memory.wf (Memory.copy m src dst n) = true := Memory.wf_putAll _ _ _ _ (Memory.wf_zero m dst n w)

end Sys2Proof.Machine
end

