-- ==== Sys2Proof/Laws/Report.lean ====
section
/-!
SUPPORT. What the operations that report an event leave alone: interrupt causes (11 R429, R430), fault records (13 R487, R488), the
device state (01 R7), the Moraine map (13 R517). Each changes the fields that its section names, and no others.
-/
namespace Sys2Proof.Machine

/-! ### signalVector: changes glb, out -/

@[simp] theorem signalVector_pending (s : State) (v : Nat) : (signalVector s v).pending = s.pending := by
  unfold signalVector; split <;> rfl
@[simp] theorem signalVector_free (s : State) (v : Nat) : (signalVector s v).free = s.free := by
  unfold signalVector; split <;> rfl
@[simp] theorem signalVector_ids (s : State) (v : Nat) : (signalVector s v).ids = s.ids := by
  unfold signalVector; split <;> rfl
@[simp] theorem signalVector_mem (s : State) (v : Nat) : (signalVector s v).mem = s.mem := by
  unfold signalVector; split <;> rfl
@[simp] theorem signalVector_prog (s : State) (v : Nat) : (signalVector s v).prog = s.prog := by
  unfold signalVector; split <;> rfl
@[simp] theorem signalVector_poison (s : State) (v : Nat) : (signalVector s v).poison = s.poison := by
  unfold signalVector; split <;> rfl
@[simp] theorem signalVector_regions (s : State) (v : Nat) : (signalVector s v).regions = s.regions := by
  unfold signalVector; split <;> rfl
@[simp] theorem signalVector_mills (s : State) (v : Nat) : (signalVector s v).mills = s.mills := by
  unfold signalVector; split <;> rfl
@[simp] theorem signalVector_cores (s : State) (v : Nat) : (signalVector s v).cores = s.cores := by
  unfold signalVector; split <;> rfl
@[simp] theorem signalVector_race (s : State) (v : Nat) : (signalVector s v).race = s.race := by
  unfold signalVector; split <;> rfl
@[simp] theorem signalVector_hop (s : State) (v : Nat) : (signalVector s v).hop = s.hop := by
  unfold signalVector; split <;> rfl
@[simp] theorem signalVector_pond (s : State) (v : Nat) : (signalVector s v).pond = s.pond := by
  unfold signalVector; split <;> rfl
@[simp] theorem signalVector_sluice (s : State) (v : Nat) : (signalVector s v).sluice = s.sluice := by
  unfold signalVector; split <;> rfl
@[simp] theorem signalVector_links (s : State) (v : Nat) : (signalVector s v).links = s.links := by
  unfold signalVector; split <;> rfl
@[simp] theorem signalVector_snow (s : State) (v : Nat) : (signalVector s v).snow = s.snow := by
  unfold signalVector; split <;> rfl
@[simp] theorem signalVector_pwr (s : State) (v : Nat) : (signalVector s v).pwr = s.pwr := by
  unfold signalVector; split <;> rfl
@[simp] theorem signalVector_clk (s : State) (v : Nat) : (signalVector s v).clk = s.clk := by
  unfold signalVector; split <;> rfl
@[simp] theorem signalVector_thm (s : State) (v : Nat) : (signalVector s v).thm = s.thm := by
  unfold signalVector; split <;> rfl
@[simp] theorem signalVector_frn (s : State) (v : Nat) : (signalVector s v).frn = s.frn := by
  unfold signalVector; split <;> rfl
@[simp] theorem signalVector_flt (s : State) (v : Nat) : (signalVector s v).flt = s.flt := by
  unfold signalVector; split <;> rfl
@[simp] theorem signalVector_bst (s : State) (v : Nat) : (signalVector s v).bst = s.bst := by
  unfold signalVector; split <;> rfl
@[simp] theorem signalVector_moraine (s : State) (v : Nat) : (signalVector s v).moraine = s.moraine := by
  unfold signalVector; split <;> rfl
@[simp] theorem signalVector_bootno (s : State) (v : Nat) : (signalVector s v).bootno = s.bootno := by
  unfold signalVector; split <;> rfl
@[simp] theorem signalVector_mlr (s : State) (v : Nat) : (signalVector s v).mlr = s.mlr := by
  unfold signalVector; split <;> rfl
@[simp] theorem signalVector_sec (s : State) (v : Nat) : (signalVector s v).sec = s.sec := by
  unfold signalVector; split <;> rfl
@[simp] theorem signalVector_realms (s : State) (v : Nat) : (signalVector s v).realms = s.realms := by
  unfold signalVector; split <;> rfl
@[simp] theorem signalVector_pins (s : State) (v : Nat) : (signalVector s v).pins = s.pins := by
  unfold signalVector; split <;> rfl
@[simp] theorem signalVector_glb_st (s : State) (v : Nat) : (signalVector s v).glb.st = s.glb.st := by
  unfold signalVector; split <;> rfl
@[simp] theorem signalVector_glb_bootcode (s : State) (v : Nat) : (signalVector s v).glb.bootcode = s.glb.bootcode := by
  unfold signalVector; split <;> rfl
@[simp] theorem signalVector_glb_fgrade (s : State) (v : Nat) : (signalVector s v).glb.fgrade = s.glb.fgrade := by
  unfold signalVector; split <;> rfl
@[simp] theorem signalVector_glb_subsys (s : State) (v : Nat) : (signalVector s v).glb.subsys = s.glb.subsys := by
  unfold signalVector; split <;> rfl
@[simp] theorem signalVector_glb_time (s : State) (v : Nat) : (signalVector s v).glb.time = s.glb.time := by
  unfold signalVector; split <;> rfl
@[simp] theorem signalVector_glb_serial (s : State) (v : Nat) : (signalVector s v).glb.serial = s.glb.serial := by
  unfold signalVector; split <;> rfl
@[simp] theorem signalVector_glb_mask (s : State) (v : Nat) : (signalVector s v).glb.mask = s.glb.mask := by
  unfold signalVector; split <;> rfl
@[simp] theorem signalVector_glb_msix (s : State) (v : Nat) : (signalVector s v).glb.msix = s.glb.msix := by
  unfold signalVector; split <;> rfl
@[simp] theorem signalVector_glb_speed (s : State) (v : Nat) : (signalVector s v).glb.speed = s.glb.speed := by
  unfold signalVector; split <;> rfl
@[simp] theorem signalVector_glb_width (s : State) (v : Nat) : (signalVector s v).glb.width = s.glb.width := by
  unfold signalVector; split <;> rfl
@[simp] theorem signalVector_glb_flit (s : State) (v : Nat) : (signalVector s v).glb.flit = s.glb.flit := by
  unfold signalVector; split <;> rfl
@[simp] theorem signalVector_glb_late (s : State) (v : Nat) : (signalVector s v).glb.late = s.glb.late := by
  unfold signalVector; split <;> rfl
@[simp] theorem signalVector_glb_busMaster (s : State) (v : Nat) : (signalVector s v).glb.busMaster = s.glb.busMaster := by
  unfold signalVector; split <;> rfl
@[simp] theorem signalVector_glb_d3 (s : State) (v : Nat) : (signalVector s v).glb.d3 = s.glb.d3 := by
  unfold signalVector; split <;> rfl
@[simp] theorem signalVector_glb_fw (s : State) (v : Nat) : (signalVector s v).glb.fw = s.glb.fw := by
  unfold signalVector; split <;> rfl
@[simp] theorem signalVector_glb_dma (s : State) (v : Nat) : (signalVector s v).glb.dma = s.glb.dma := by
  unfold signalVector; split <;> rfl
@[simp] theorem signalVector_glb_readies (s : State) (v : Nat) : (signalVector s v).glb.readies = s.glb.readies := by
  unfold signalVector; split <;> rfl

/-! ### raiseIrq: changes glb, out -/

@[simp] theorem raiseIrq_pending (s : State) (v : Nat) : (raiseIrq s v).pending = s.pending := by
  unfold raiseIrq; split
  · rfl
  · dsimp only; split
    · rfl
    · simp
@[simp] theorem raiseIrq_free (s : State) (v : Nat) : (raiseIrq s v).free = s.free := by
  unfold raiseIrq; split
  · rfl
  · dsimp only; split
    · rfl
    · simp
@[simp] theorem raiseIrq_ids (s : State) (v : Nat) : (raiseIrq s v).ids = s.ids := by
  unfold raiseIrq; split
  · rfl
  · dsimp only; split
    · rfl
    · simp
@[simp] theorem raiseIrq_mem (s : State) (v : Nat) : (raiseIrq s v).mem = s.mem := by
  unfold raiseIrq; split
  · rfl
  · dsimp only; split
    · rfl
    · simp
@[simp] theorem raiseIrq_prog (s : State) (v : Nat) : (raiseIrq s v).prog = s.prog := by
  unfold raiseIrq; split
  · rfl
  · dsimp only; split
    · rfl
    · simp
@[simp] theorem raiseIrq_poison (s : State) (v : Nat) : (raiseIrq s v).poison = s.poison := by
  unfold raiseIrq; split
  · rfl
  · dsimp only; split
    · rfl
    · simp
@[simp] theorem raiseIrq_regions (s : State) (v : Nat) : (raiseIrq s v).regions = s.regions := by
  unfold raiseIrq; split
  · rfl
  · dsimp only; split
    · rfl
    · simp
@[simp] theorem raiseIrq_mills (s : State) (v : Nat) : (raiseIrq s v).mills = s.mills := by
  unfold raiseIrq; split
  · rfl
  · dsimp only; split
    · rfl
    · simp
@[simp] theorem raiseIrq_cores (s : State) (v : Nat) : (raiseIrq s v).cores = s.cores := by
  unfold raiseIrq; split
  · rfl
  · dsimp only; split
    · rfl
    · simp
@[simp] theorem raiseIrq_race (s : State) (v : Nat) : (raiseIrq s v).race = s.race := by
  unfold raiseIrq; split
  · rfl
  · dsimp only; split
    · rfl
    · simp
@[simp] theorem raiseIrq_hop (s : State) (v : Nat) : (raiseIrq s v).hop = s.hop := by
  unfold raiseIrq; split
  · rfl
  · dsimp only; split
    · rfl
    · simp
@[simp] theorem raiseIrq_pond (s : State) (v : Nat) : (raiseIrq s v).pond = s.pond := by
  unfold raiseIrq; split
  · rfl
  · dsimp only; split
    · rfl
    · simp
@[simp] theorem raiseIrq_sluice (s : State) (v : Nat) : (raiseIrq s v).sluice = s.sluice := by
  unfold raiseIrq; split
  · rfl
  · dsimp only; split
    · rfl
    · simp
@[simp] theorem raiseIrq_links (s : State) (v : Nat) : (raiseIrq s v).links = s.links := by
  unfold raiseIrq; split
  · rfl
  · dsimp only; split
    · rfl
    · simp
@[simp] theorem raiseIrq_snow (s : State) (v : Nat) : (raiseIrq s v).snow = s.snow := by
  unfold raiseIrq; split
  · rfl
  · dsimp only; split
    · rfl
    · simp
@[simp] theorem raiseIrq_pwr (s : State) (v : Nat) : (raiseIrq s v).pwr = s.pwr := by
  unfold raiseIrq; split
  · rfl
  · dsimp only; split
    · rfl
    · simp
@[simp] theorem raiseIrq_clk (s : State) (v : Nat) : (raiseIrq s v).clk = s.clk := by
  unfold raiseIrq; split
  · rfl
  · dsimp only; split
    · rfl
    · simp
@[simp] theorem raiseIrq_thm (s : State) (v : Nat) : (raiseIrq s v).thm = s.thm := by
  unfold raiseIrq; split
  · rfl
  · dsimp only; split
    · rfl
    · simp
@[simp] theorem raiseIrq_frn (s : State) (v : Nat) : (raiseIrq s v).frn = s.frn := by
  unfold raiseIrq; split
  · rfl
  · dsimp only; split
    · rfl
    · simp
@[simp] theorem raiseIrq_flt (s : State) (v : Nat) : (raiseIrq s v).flt = s.flt := by
  unfold raiseIrq; split
  · rfl
  · dsimp only; split
    · rfl
    · simp
@[simp] theorem raiseIrq_bst (s : State) (v : Nat) : (raiseIrq s v).bst = s.bst := by
  unfold raiseIrq; split
  · rfl
  · dsimp only; split
    · rfl
    · simp
@[simp] theorem raiseIrq_moraine (s : State) (v : Nat) : (raiseIrq s v).moraine = s.moraine := by
  unfold raiseIrq; split
  · rfl
  · dsimp only; split
    · rfl
    · simp
@[simp] theorem raiseIrq_bootno (s : State) (v : Nat) : (raiseIrq s v).bootno = s.bootno := by
  unfold raiseIrq; split
  · rfl
  · dsimp only; split
    · rfl
    · simp
@[simp] theorem raiseIrq_mlr (s : State) (v : Nat) : (raiseIrq s v).mlr = s.mlr := by
  unfold raiseIrq; split
  · rfl
  · dsimp only; split
    · rfl
    · simp
@[simp] theorem raiseIrq_sec (s : State) (v : Nat) : (raiseIrq s v).sec = s.sec := by
  unfold raiseIrq; split
  · rfl
  · dsimp only; split
    · rfl
    · simp
@[simp] theorem raiseIrq_realms (s : State) (v : Nat) : (raiseIrq s v).realms = s.realms := by
  unfold raiseIrq; split
  · rfl
  · dsimp only; split
    · rfl
    · simp
@[simp] theorem raiseIrq_pins (s : State) (v : Nat) : (raiseIrq s v).pins = s.pins := by
  unfold raiseIrq; split
  · rfl
  · dsimp only; split
    · rfl
    · simp
@[simp] theorem raiseIrq_glb_st (s : State) (v : Nat) : (raiseIrq s v).glb.st = s.glb.st := by
  unfold raiseIrq; split
  · rfl
  · dsimp only; split
    · rfl
    · simp
@[simp] theorem raiseIrq_glb_bootcode (s : State) (v : Nat) : (raiseIrq s v).glb.bootcode = s.glb.bootcode := by
  unfold raiseIrq; split
  · rfl
  · dsimp only; split
    · rfl
    · simp
@[simp] theorem raiseIrq_glb_fgrade (s : State) (v : Nat) : (raiseIrq s v).glb.fgrade = s.glb.fgrade := by
  unfold raiseIrq; split
  · rfl
  · dsimp only; split
    · rfl
    · simp
@[simp] theorem raiseIrq_glb_subsys (s : State) (v : Nat) : (raiseIrq s v).glb.subsys = s.glb.subsys := by
  unfold raiseIrq; split
  · rfl
  · dsimp only; split
    · rfl
    · simp
@[simp] theorem raiseIrq_glb_time (s : State) (v : Nat) : (raiseIrq s v).glb.time = s.glb.time := by
  unfold raiseIrq; split
  · rfl
  · dsimp only; split
    · rfl
    · simp
@[simp] theorem raiseIrq_glb_serial (s : State) (v : Nat) : (raiseIrq s v).glb.serial = s.glb.serial := by
  unfold raiseIrq; split
  · rfl
  · dsimp only; split
    · rfl
    · simp
@[simp] theorem raiseIrq_glb_mask (s : State) (v : Nat) : (raiseIrq s v).glb.mask = s.glb.mask := by
  unfold raiseIrq; split
  · rfl
  · dsimp only; split
    · rfl
    · simp
@[simp] theorem raiseIrq_glb_msix (s : State) (v : Nat) : (raiseIrq s v).glb.msix = s.glb.msix := by
  unfold raiseIrq; split
  · rfl
  · dsimp only; split
    · rfl
    · simp
@[simp] theorem raiseIrq_glb_speed (s : State) (v : Nat) : (raiseIrq s v).glb.speed = s.glb.speed := by
  unfold raiseIrq; split
  · rfl
  · dsimp only; split
    · rfl
    · simp
@[simp] theorem raiseIrq_glb_width (s : State) (v : Nat) : (raiseIrq s v).glb.width = s.glb.width := by
  unfold raiseIrq; split
  · rfl
  · dsimp only; split
    · rfl
    · simp
@[simp] theorem raiseIrq_glb_flit (s : State) (v : Nat) : (raiseIrq s v).glb.flit = s.glb.flit := by
  unfold raiseIrq; split
  · rfl
  · dsimp only; split
    · rfl
    · simp
@[simp] theorem raiseIrq_glb_late (s : State) (v : Nat) : (raiseIrq s v).glb.late = s.glb.late := by
  unfold raiseIrq; split
  · rfl
  · dsimp only; split
    · rfl
    · simp
@[simp] theorem raiseIrq_glb_busMaster (s : State) (v : Nat) : (raiseIrq s v).glb.busMaster = s.glb.busMaster := by
  unfold raiseIrq; split
  · rfl
  · dsimp only; split
    · rfl
    · simp
@[simp] theorem raiseIrq_glb_d3 (s : State) (v : Nat) : (raiseIrq s v).glb.d3 = s.glb.d3 := by
  unfold raiseIrq; split
  · rfl
  · dsimp only; split
    · rfl
    · simp
@[simp] theorem raiseIrq_glb_fw (s : State) (v : Nat) : (raiseIrq s v).glb.fw = s.glb.fw := by
  unfold raiseIrq; split
  · rfl
  · dsimp only; split
    · rfl
    · simp
@[simp] theorem raiseIrq_glb_dma (s : State) (v : Nat) : (raiseIrq s v).glb.dma = s.glb.dma := by
  unfold raiseIrq; split
  · rfl
  · dsimp only; split
    · rfl
    · simp
@[simp] theorem raiseIrq_glb_readies (s : State) (v : Nat) : (raiseIrq s v).glb.readies = s.glb.readies := by
  unfold raiseIrq; split
  · rfl
  · dsimp only; split
    · rfl
    · simp

/-- A cause that occurs is pending afterwards (R429). -/
@[simp] theorem raiseIrq_pends (s : State) (v : Nat) (h : v < 41) : bit (raiseIrq s v).glb.stat v = true := by
  have set : ∀ x : BitVec 41, bit (x ||| BitVec.ofNat 41 (2 ^ v)) v = true := fun x => by
    rw [bit, BitVec.getLsbD_or, BitVec.getLsbD_ofNat, Nat.testBit_two_pow_self]
    simp [h]
  unfold raiseIrq
  split
  · assumption
  · dsimp only
    split
    · exact set _
    · unfold signalVector; split <;> exact set _

/-! ### pushRegion: changes regions -/

@[simp] theorem pushRegion_pending (s : State) (g : Nat) (r : Rec) : ((pushRegion s g r).2).pending = s.pending := by
  rfl
@[simp] theorem pushRegion_free (s : State) (g : Nat) (r : Rec) : ((pushRegion s g r).2).free = s.free := by
  rfl
@[simp] theorem pushRegion_ids (s : State) (g : Nat) (r : Rec) : ((pushRegion s g r).2).ids = s.ids := by
  rfl
@[simp] theorem pushRegion_mem (s : State) (g : Nat) (r : Rec) : ((pushRegion s g r).2).mem = s.mem := by
  rfl
@[simp] theorem pushRegion_prog (s : State) (g : Nat) (r : Rec) : ((pushRegion s g r).2).prog = s.prog := by
  rfl
@[simp] theorem pushRegion_poison (s : State) (g : Nat) (r : Rec) : ((pushRegion s g r).2).poison = s.poison := by
  rfl
@[simp] theorem pushRegion_glb (s : State) (g : Nat) (r : Rec) : ((pushRegion s g r).2).glb = s.glb := by
  rfl
@[simp] theorem pushRegion_mills (s : State) (g : Nat) (r : Rec) : ((pushRegion s g r).2).mills = s.mills := by
  rfl
@[simp] theorem pushRegion_cores (s : State) (g : Nat) (r : Rec) : ((pushRegion s g r).2).cores = s.cores := by
  rfl
@[simp] theorem pushRegion_race (s : State) (g : Nat) (r : Rec) : ((pushRegion s g r).2).race = s.race := by
  rfl
@[simp] theorem pushRegion_hop (s : State) (g : Nat) (r : Rec) : ((pushRegion s g r).2).hop = s.hop := by
  rfl
@[simp] theorem pushRegion_pond (s : State) (g : Nat) (r : Rec) : ((pushRegion s g r).2).pond = s.pond := by
  rfl
@[simp] theorem pushRegion_sluice (s : State) (g : Nat) (r : Rec) : ((pushRegion s g r).2).sluice = s.sluice := by
  rfl
@[simp] theorem pushRegion_links (s : State) (g : Nat) (r : Rec) : ((pushRegion s g r).2).links = s.links := by
  rfl
@[simp] theorem pushRegion_snow (s : State) (g : Nat) (r : Rec) : ((pushRegion s g r).2).snow = s.snow := by
  rfl
@[simp] theorem pushRegion_pwr (s : State) (g : Nat) (r : Rec) : ((pushRegion s g r).2).pwr = s.pwr := by
  rfl
@[simp] theorem pushRegion_clk (s : State) (g : Nat) (r : Rec) : ((pushRegion s g r).2).clk = s.clk := by
  rfl
@[simp] theorem pushRegion_thm (s : State) (g : Nat) (r : Rec) : ((pushRegion s g r).2).thm = s.thm := by
  rfl
@[simp] theorem pushRegion_frn (s : State) (g : Nat) (r : Rec) : ((pushRegion s g r).2).frn = s.frn := by
  rfl
@[simp] theorem pushRegion_flt (s : State) (g : Nat) (r : Rec) : ((pushRegion s g r).2).flt = s.flt := by
  rfl
@[simp] theorem pushRegion_bst (s : State) (g : Nat) (r : Rec) : ((pushRegion s g r).2).bst = s.bst := by
  rfl
@[simp] theorem pushRegion_moraine (s : State) (g : Nat) (r : Rec) : ((pushRegion s g r).2).moraine = s.moraine := by
  rfl
@[simp] theorem pushRegion_bootno (s : State) (g : Nat) (r : Rec) : ((pushRegion s g r).2).bootno = s.bootno := by
  rfl
@[simp] theorem pushRegion_mlr (s : State) (g : Nat) (r : Rec) : ((pushRegion s g r).2).mlr = s.mlr := by
  rfl
@[simp] theorem pushRegion_sec (s : State) (g : Nat) (r : Rec) : ((pushRegion s g r).2).sec = s.sec := by
  rfl
@[simp] theorem pushRegion_realms (s : State) (g : Nat) (r : Rec) : ((pushRegion s g r).2).realms = s.realms := by
  rfl
@[simp] theorem pushRegion_pins (s : State) (g : Nat) (r : Rec) : ((pushRegion s g r).2).pins = s.pins := by
  rfl
@[simp] theorem pushRegion_out (s : State) (g : Nat) (r : Rec) : ((pushRegion s g r).2).out = s.out := by
  rfl

/-! ### updRing: changes regions -/

@[simp] theorem updRing_pending (s : State) (g n : Nat) (f : Rec → Rec) : (updRing s g n f).pending = s.pending := by
  unfold updRing; simp
@[simp] theorem updRing_free (s : State) (g n : Nat) (f : Rec → Rec) : (updRing s g n f).free = s.free := by
  unfold updRing; simp
@[simp] theorem updRing_ids (s : State) (g n : Nat) (f : Rec → Rec) : (updRing s g n f).ids = s.ids := by
  unfold updRing; simp
@[simp] theorem updRing_mem (s : State) (g n : Nat) (f : Rec → Rec) : (updRing s g n f).mem = s.mem := by
  unfold updRing; simp
@[simp] theorem updRing_prog (s : State) (g n : Nat) (f : Rec → Rec) : (updRing s g n f).prog = s.prog := by
  unfold updRing; simp
@[simp] theorem updRing_poison (s : State) (g n : Nat) (f : Rec → Rec) : (updRing s g n f).poison = s.poison := by
  unfold updRing; simp
@[simp] theorem updRing_glb (s : State) (g n : Nat) (f : Rec → Rec) : (updRing s g n f).glb = s.glb := by
  unfold updRing; simp
@[simp] theorem updRing_mills (s : State) (g n : Nat) (f : Rec → Rec) : (updRing s g n f).mills = s.mills := by
  unfold updRing; simp
@[simp] theorem updRing_cores (s : State) (g n : Nat) (f : Rec → Rec) : (updRing s g n f).cores = s.cores := by
  unfold updRing; simp
@[simp] theorem updRing_race (s : State) (g n : Nat) (f : Rec → Rec) : (updRing s g n f).race = s.race := by
  unfold updRing; simp
@[simp] theorem updRing_hop (s : State) (g n : Nat) (f : Rec → Rec) : (updRing s g n f).hop = s.hop := by
  unfold updRing; simp
@[simp] theorem updRing_pond (s : State) (g n : Nat) (f : Rec → Rec) : (updRing s g n f).pond = s.pond := by
  unfold updRing; simp
@[simp] theorem updRing_sluice (s : State) (g n : Nat) (f : Rec → Rec) : (updRing s g n f).sluice = s.sluice := by
  unfold updRing; simp
@[simp] theorem updRing_links (s : State) (g n : Nat) (f : Rec → Rec) : (updRing s g n f).links = s.links := by
  unfold updRing; simp
@[simp] theorem updRing_snow (s : State) (g n : Nat) (f : Rec → Rec) : (updRing s g n f).snow = s.snow := by
  unfold updRing; simp
@[simp] theorem updRing_pwr (s : State) (g n : Nat) (f : Rec → Rec) : (updRing s g n f).pwr = s.pwr := by
  unfold updRing; simp
@[simp] theorem updRing_clk (s : State) (g n : Nat) (f : Rec → Rec) : (updRing s g n f).clk = s.clk := by
  unfold updRing; simp
@[simp] theorem updRing_thm (s : State) (g n : Nat) (f : Rec → Rec) : (updRing s g n f).thm = s.thm := by
  unfold updRing; simp
@[simp] theorem updRing_frn (s : State) (g n : Nat) (f : Rec → Rec) : (updRing s g n f).frn = s.frn := by
  unfold updRing; simp
@[simp] theorem updRing_flt (s : State) (g n : Nat) (f : Rec → Rec) : (updRing s g n f).flt = s.flt := by
  unfold updRing; simp
@[simp] theorem updRing_bst (s : State) (g n : Nat) (f : Rec → Rec) : (updRing s g n f).bst = s.bst := by
  unfold updRing; simp
@[simp] theorem updRing_moraine (s : State) (g n : Nat) (f : Rec → Rec) : (updRing s g n f).moraine = s.moraine := by
  unfold updRing; simp
@[simp] theorem updRing_bootno (s : State) (g n : Nat) (f : Rec → Rec) : (updRing s g n f).bootno = s.bootno := by
  unfold updRing; simp
@[simp] theorem updRing_mlr (s : State) (g n : Nat) (f : Rec → Rec) : (updRing s g n f).mlr = s.mlr := by
  unfold updRing; simp
@[simp] theorem updRing_sec (s : State) (g n : Nat) (f : Rec → Rec) : (updRing s g n f).sec = s.sec := by
  unfold updRing; simp
@[simp] theorem updRing_realms (s : State) (g n : Nat) (f : Rec → Rec) : (updRing s g n f).realms = s.realms := by
  unfold updRing; simp
@[simp] theorem updRing_pins (s : State) (g n : Nat) (f : Rec → Rec) : (updRing s g n f).pins = s.pins := by
  unfold updRing; simp
@[simp] theorem updRing_out (s : State) (g n : Nat) (f : Rec → Rec) : (updRing s g n f).out = s.out := by
  unfold updRing; simp

/-! ### enterGlobal: changes glb, out, regions, flt -/

@[simp] theorem enterGlobal_pending (s : State) (r : Rec) (k : Option (Nat × Nat)) : (enterGlobal s r k).pending = s.pending := by
  unfold enterGlobal; cases k <;> simp
@[simp] theorem enterGlobal_free (s : State) (r : Rec) (k : Option (Nat × Nat)) : (enterGlobal s r k).free = s.free := by
  unfold enterGlobal; cases k <;> simp
@[simp] theorem enterGlobal_ids (s : State) (r : Rec) (k : Option (Nat × Nat)) : (enterGlobal s r k).ids = s.ids := by
  unfold enterGlobal; cases k <;> simp
@[simp] theorem enterGlobal_mem (s : State) (r : Rec) (k : Option (Nat × Nat)) : (enterGlobal s r k).mem = s.mem := by
  unfold enterGlobal; cases k <;> simp
@[simp] theorem enterGlobal_prog (s : State) (r : Rec) (k : Option (Nat × Nat)) : (enterGlobal s r k).prog = s.prog := by
  unfold enterGlobal; cases k <;> simp
@[simp] theorem enterGlobal_poison (s : State) (r : Rec) (k : Option (Nat × Nat)) : (enterGlobal s r k).poison = s.poison := by
  unfold enterGlobal; cases k <;> simp
@[simp] theorem enterGlobal_mills (s : State) (r : Rec) (k : Option (Nat × Nat)) : (enterGlobal s r k).mills = s.mills := by
  unfold enterGlobal; cases k <;> simp
@[simp] theorem enterGlobal_cores (s : State) (r : Rec) (k : Option (Nat × Nat)) : (enterGlobal s r k).cores = s.cores := by
  unfold enterGlobal; cases k <;> simp
@[simp] theorem enterGlobal_race (s : State) (r : Rec) (k : Option (Nat × Nat)) : (enterGlobal s r k).race = s.race := by
  unfold enterGlobal; cases k <;> simp
@[simp] theorem enterGlobal_hop (s : State) (r : Rec) (k : Option (Nat × Nat)) : (enterGlobal s r k).hop = s.hop := by
  unfold enterGlobal; cases k <;> simp
@[simp] theorem enterGlobal_pond (s : State) (r : Rec) (k : Option (Nat × Nat)) : (enterGlobal s r k).pond = s.pond := by
  unfold enterGlobal; cases k <;> simp
@[simp] theorem enterGlobal_sluice (s : State) (r : Rec) (k : Option (Nat × Nat)) : (enterGlobal s r k).sluice = s.sluice := by
  unfold enterGlobal; cases k <;> simp
@[simp] theorem enterGlobal_links (s : State) (r : Rec) (k : Option (Nat × Nat)) : (enterGlobal s r k).links = s.links := by
  unfold enterGlobal; cases k <;> simp
@[simp] theorem enterGlobal_snow (s : State) (r : Rec) (k : Option (Nat × Nat)) : (enterGlobal s r k).snow = s.snow := by
  unfold enterGlobal; cases k <;> simp
@[simp] theorem enterGlobal_pwr (s : State) (r : Rec) (k : Option (Nat × Nat)) : (enterGlobal s r k).pwr = s.pwr := by
  unfold enterGlobal; cases k <;> simp
@[simp] theorem enterGlobal_clk (s : State) (r : Rec) (k : Option (Nat × Nat)) : (enterGlobal s r k).clk = s.clk := by
  unfold enterGlobal; cases k <;> simp
@[simp] theorem enterGlobal_thm (s : State) (r : Rec) (k : Option (Nat × Nat)) : (enterGlobal s r k).thm = s.thm := by
  unfold enterGlobal; cases k <;> simp
@[simp] theorem enterGlobal_frn (s : State) (r : Rec) (k : Option (Nat × Nat)) : (enterGlobal s r k).frn = s.frn := by
  unfold enterGlobal; cases k <;> simp
@[simp] theorem enterGlobal_bst (s : State) (r : Rec) (k : Option (Nat × Nat)) : (enterGlobal s r k).bst = s.bst := by
  unfold enterGlobal; cases k <;> simp
@[simp] theorem enterGlobal_moraine (s : State) (r : Rec) (k : Option (Nat × Nat)) : (enterGlobal s r k).moraine = s.moraine := by
  unfold enterGlobal; cases k <;> simp
@[simp] theorem enterGlobal_bootno (s : State) (r : Rec) (k : Option (Nat × Nat)) : (enterGlobal s r k).bootno = s.bootno := by
  unfold enterGlobal; cases k <;> simp
@[simp] theorem enterGlobal_mlr (s : State) (r : Rec) (k : Option (Nat × Nat)) : (enterGlobal s r k).mlr = s.mlr := by
  unfold enterGlobal; cases k <;> simp
@[simp] theorem enterGlobal_sec (s : State) (r : Rec) (k : Option (Nat × Nat)) : (enterGlobal s r k).sec = s.sec := by
  unfold enterGlobal; cases k <;> simp
@[simp] theorem enterGlobal_realms (s : State) (r : Rec) (k : Option (Nat × Nat)) : (enterGlobal s r k).realms = s.realms := by
  unfold enterGlobal; cases k <;> simp
@[simp] theorem enterGlobal_pins (s : State) (r : Rec) (k : Option (Nat × Nat)) : (enterGlobal s r k).pins = s.pins := by
  unfold enterGlobal; cases k <;> simp
@[simp] theorem enterGlobal_glb_st (s : State) (r : Rec) (k : Option (Nat × Nat)) : (enterGlobal s r k).glb.st = s.glb.st := by
  unfold enterGlobal; cases k <;> simp
@[simp] theorem enterGlobal_glb_bootcode (s : State) (r : Rec) (k : Option (Nat × Nat)) : (enterGlobal s r k).glb.bootcode = s.glb.bootcode := by
  unfold enterGlobal; cases k <;> simp
@[simp] theorem enterGlobal_glb_fgrade (s : State) (r : Rec) (k : Option (Nat × Nat)) : (enterGlobal s r k).glb.fgrade = s.glb.fgrade := by
  unfold enterGlobal; cases k <;> simp
@[simp] theorem enterGlobal_glb_subsys (s : State) (r : Rec) (k : Option (Nat × Nat)) : (enterGlobal s r k).glb.subsys = s.glb.subsys := by
  unfold enterGlobal; cases k <;> simp
@[simp] theorem enterGlobal_glb_time (s : State) (r : Rec) (k : Option (Nat × Nat)) : (enterGlobal s r k).glb.time = s.glb.time := by
  unfold enterGlobal; cases k <;> simp
@[simp] theorem enterGlobal_glb_serial (s : State) (r : Rec) (k : Option (Nat × Nat)) : (enterGlobal s r k).glb.serial = s.glb.serial := by
  unfold enterGlobal; cases k <;> simp
@[simp] theorem enterGlobal_glb_mask (s : State) (r : Rec) (k : Option (Nat × Nat)) : (enterGlobal s r k).glb.mask = s.glb.mask := by
  unfold enterGlobal; cases k <;> simp
@[simp] theorem enterGlobal_glb_msix (s : State) (r : Rec) (k : Option (Nat × Nat)) : (enterGlobal s r k).glb.msix = s.glb.msix := by
  unfold enterGlobal; cases k <;> simp
@[simp] theorem enterGlobal_glb_speed (s : State) (r : Rec) (k : Option (Nat × Nat)) : (enterGlobal s r k).glb.speed = s.glb.speed := by
  unfold enterGlobal; cases k <;> simp
@[simp] theorem enterGlobal_glb_width (s : State) (r : Rec) (k : Option (Nat × Nat)) : (enterGlobal s r k).glb.width = s.glb.width := by
  unfold enterGlobal; cases k <;> simp
@[simp] theorem enterGlobal_glb_flit (s : State) (r : Rec) (k : Option (Nat × Nat)) : (enterGlobal s r k).glb.flit = s.glb.flit := by
  unfold enterGlobal; cases k <;> simp
@[simp] theorem enterGlobal_glb_late (s : State) (r : Rec) (k : Option (Nat × Nat)) : (enterGlobal s r k).glb.late = s.glb.late := by
  unfold enterGlobal; cases k <;> simp
@[simp] theorem enterGlobal_glb_busMaster (s : State) (r : Rec) (k : Option (Nat × Nat)) : (enterGlobal s r k).glb.busMaster = s.glb.busMaster := by
  unfold enterGlobal; cases k <;> simp
@[simp] theorem enterGlobal_glb_d3 (s : State) (r : Rec) (k : Option (Nat × Nat)) : (enterGlobal s r k).glb.d3 = s.glb.d3 := by
  unfold enterGlobal; cases k <;> simp
@[simp] theorem enterGlobal_glb_fw (s : State) (r : Rec) (k : Option (Nat × Nat)) : (enterGlobal s r k).glb.fw = s.glb.fw := by
  unfold enterGlobal; cases k <;> simp
@[simp] theorem enterGlobal_glb_dma (s : State) (r : Rec) (k : Option (Nat × Nat)) : (enterGlobal s r k).glb.dma = s.glb.dma := by
  unfold enterGlobal; cases k <;> simp
@[simp] theorem enterGlobal_glb_readies (s : State) (r : Rec) (k : Option (Nat × Nat)) : (enterGlobal s r k).glb.readies = s.glb.readies := by
  unfold enterGlobal; cases k <;> simp

/-! ### logRec: changes glb, out, regions, flt -/

@[simp] theorem logRec_pending (s : State) (r : Rec) : (logRec s r).pending = s.pending := by
  unfold logRec; dsimp only; split <;> simp
@[simp] theorem logRec_free (s : State) (r : Rec) : (logRec s r).free = s.free := by
  unfold logRec; dsimp only; split <;> simp
@[simp] theorem logRec_ids (s : State) (r : Rec) : (logRec s r).ids = s.ids := by
  unfold logRec; dsimp only; split <;> simp
@[simp] theorem logRec_mem (s : State) (r : Rec) : (logRec s r).mem = s.mem := by
  unfold logRec; dsimp only; split <;> simp
@[simp] theorem logRec_prog (s : State) (r : Rec) : (logRec s r).prog = s.prog := by
  unfold logRec; dsimp only; split <;> simp
@[simp] theorem logRec_poison (s : State) (r : Rec) : (logRec s r).poison = s.poison := by
  unfold logRec; dsimp only; split <;> simp
@[simp] theorem logRec_mills (s : State) (r : Rec) : (logRec s r).mills = s.mills := by
  unfold logRec; dsimp only; split <;> simp
@[simp] theorem logRec_cores (s : State) (r : Rec) : (logRec s r).cores = s.cores := by
  unfold logRec; dsimp only; split <;> simp
@[simp] theorem logRec_race (s : State) (r : Rec) : (logRec s r).race = s.race := by
  unfold logRec; dsimp only; split <;> simp
@[simp] theorem logRec_hop (s : State) (r : Rec) : (logRec s r).hop = s.hop := by
  unfold logRec; dsimp only; split <;> simp
@[simp] theorem logRec_pond (s : State) (r : Rec) : (logRec s r).pond = s.pond := by
  unfold logRec; dsimp only; split <;> simp
@[simp] theorem logRec_sluice (s : State) (r : Rec) : (logRec s r).sluice = s.sluice := by
  unfold logRec; dsimp only; split <;> simp
@[simp] theorem logRec_links (s : State) (r : Rec) : (logRec s r).links = s.links := by
  unfold logRec; dsimp only; split <;> simp
@[simp] theorem logRec_snow (s : State) (r : Rec) : (logRec s r).snow = s.snow := by
  unfold logRec; dsimp only; split <;> simp
@[simp] theorem logRec_pwr (s : State) (r : Rec) : (logRec s r).pwr = s.pwr := by
  unfold logRec; dsimp only; split <;> simp
@[simp] theorem logRec_clk (s : State) (r : Rec) : (logRec s r).clk = s.clk := by
  unfold logRec; dsimp only; split <;> simp
@[simp] theorem logRec_thm (s : State) (r : Rec) : (logRec s r).thm = s.thm := by
  unfold logRec; dsimp only; split <;> simp
@[simp] theorem logRec_frn (s : State) (r : Rec) : (logRec s r).frn = s.frn := by
  unfold logRec; dsimp only; split <;> simp
@[simp] theorem logRec_bst (s : State) (r : Rec) : (logRec s r).bst = s.bst := by
  unfold logRec; dsimp only; split <;> simp
@[simp] theorem logRec_moraine (s : State) (r : Rec) : (logRec s r).moraine = s.moraine := by
  unfold logRec; dsimp only; split <;> simp
@[simp] theorem logRec_bootno (s : State) (r : Rec) : (logRec s r).bootno = s.bootno := by
  unfold logRec; dsimp only; split <;> simp
@[simp] theorem logRec_mlr (s : State) (r : Rec) : (logRec s r).mlr = s.mlr := by
  unfold logRec; dsimp only; split <;> simp
@[simp] theorem logRec_sec (s : State) (r : Rec) : (logRec s r).sec = s.sec := by
  unfold logRec; dsimp only; split <;> simp
@[simp] theorem logRec_realms (s : State) (r : Rec) : (logRec s r).realms = s.realms := by
  unfold logRec; dsimp only; split <;> simp
@[simp] theorem logRec_pins (s : State) (r : Rec) : (logRec s r).pins = s.pins := by
  unfold logRec; dsimp only; split <;> simp
@[simp] theorem logRec_glb_st (s : State) (r : Rec) : (logRec s r).glb.st = s.glb.st := by
  unfold logRec; dsimp only; split <;> simp
@[simp] theorem logRec_glb_bootcode (s : State) (r : Rec) : (logRec s r).glb.bootcode = s.glb.bootcode := by
  unfold logRec; dsimp only; split <;> simp
@[simp] theorem logRec_glb_fgrade (s : State) (r : Rec) : (logRec s r).glb.fgrade = s.glb.fgrade := by
  unfold logRec; dsimp only; split <;> simp
@[simp] theorem logRec_glb_subsys (s : State) (r : Rec) : (logRec s r).glb.subsys = s.glb.subsys := by
  unfold logRec; dsimp only; split <;> simp
@[simp] theorem logRec_glb_time (s : State) (r : Rec) : (logRec s r).glb.time = s.glb.time := by
  unfold logRec; dsimp only; split <;> simp
@[simp] theorem logRec_glb_serial (s : State) (r : Rec) : (logRec s r).glb.serial = s.glb.serial := by
  unfold logRec; dsimp only; split <;> simp
@[simp] theorem logRec_glb_mask (s : State) (r : Rec) : (logRec s r).glb.mask = s.glb.mask := by
  unfold logRec; dsimp only; split <;> simp
@[simp] theorem logRec_glb_msix (s : State) (r : Rec) : (logRec s r).glb.msix = s.glb.msix := by
  unfold logRec; dsimp only; split <;> simp
@[simp] theorem logRec_glb_speed (s : State) (r : Rec) : (logRec s r).glb.speed = s.glb.speed := by
  unfold logRec; dsimp only; split <;> simp
@[simp] theorem logRec_glb_width (s : State) (r : Rec) : (logRec s r).glb.width = s.glb.width := by
  unfold logRec; dsimp only; split <;> simp
@[simp] theorem logRec_glb_flit (s : State) (r : Rec) : (logRec s r).glb.flit = s.glb.flit := by
  unfold logRec; dsimp only; split <;> simp
@[simp] theorem logRec_glb_late (s : State) (r : Rec) : (logRec s r).glb.late = s.glb.late := by
  unfold logRec; dsimp only; split <;> simp
@[simp] theorem logRec_glb_busMaster (s : State) (r : Rec) : (logRec s r).glb.busMaster = s.glb.busMaster := by
  unfold logRec; dsimp only; split <;> simp
@[simp] theorem logRec_glb_d3 (s : State) (r : Rec) : (logRec s r).glb.d3 = s.glb.d3 := by
  unfold logRec; dsimp only; split <;> simp
@[simp] theorem logRec_glb_fw (s : State) (r : Rec) : (logRec s r).glb.fw = s.glb.fw := by
  unfold logRec; dsimp only; split <;> simp
@[simp] theorem logRec_glb_dma (s : State) (r : Rec) : (logRec s r).glb.dma = s.glb.dma := by
  unfold logRec; dsimp only; split <;> simp
@[simp] theorem logRec_glb_readies (s : State) (r : Rec) : (logRec s r).glb.readies = s.glb.readies := by
  unfold logRec; dsimp only; split <;> simp

/-- A record that enters the log sets cause 1 and counts in TOTAL (R487, R489). -/
theorem logRec_counts (s : State) (r : Rec) : (logRec s r).flt.total = s.flt.total + 1 ∧ bit (logRec s r).glb.stat 1 = true := by
  unfold logRec
  dsimp only
  split <;> unfold enterGlobal <;> simp

/-! ### logFirn: changes glb, out, regions, flt, frn -/

@[simp] theorem logFirn_pending (s : State) (r : Rec) : (logFirn s r).pending = s.pending := by
  unfold logFirn; split
  · simp
  · split <;> rfl
@[simp] theorem logFirn_free (s : State) (r : Rec) : (logFirn s r).free = s.free := by
  unfold logFirn; split
  · simp
  · split <;> rfl
@[simp] theorem logFirn_ids (s : State) (r : Rec) : (logFirn s r).ids = s.ids := by
  unfold logFirn; split
  · simp
  · split <;> rfl
@[simp] theorem logFirn_mem (s : State) (r : Rec) : (logFirn s r).mem = s.mem := by
  unfold logFirn; split
  · simp
  · split <;> rfl
@[simp] theorem logFirn_prog (s : State) (r : Rec) : (logFirn s r).prog = s.prog := by
  unfold logFirn; split
  · simp
  · split <;> rfl
@[simp] theorem logFirn_poison (s : State) (r : Rec) : (logFirn s r).poison = s.poison := by
  unfold logFirn; split
  · simp
  · split <;> rfl
@[simp] theorem logFirn_mills (s : State) (r : Rec) : (logFirn s r).mills = s.mills := by
  unfold logFirn; split
  · simp
  · split <;> rfl
@[simp] theorem logFirn_cores (s : State) (r : Rec) : (logFirn s r).cores = s.cores := by
  unfold logFirn; split
  · simp
  · split <;> rfl
@[simp] theorem logFirn_race (s : State) (r : Rec) : (logFirn s r).race = s.race := by
  unfold logFirn; split
  · simp
  · split <;> rfl
@[simp] theorem logFirn_hop (s : State) (r : Rec) : (logFirn s r).hop = s.hop := by
  unfold logFirn; split
  · simp
  · split <;> rfl
@[simp] theorem logFirn_pond (s : State) (r : Rec) : (logFirn s r).pond = s.pond := by
  unfold logFirn; split
  · simp
  · split <;> rfl
@[simp] theorem logFirn_sluice (s : State) (r : Rec) : (logFirn s r).sluice = s.sluice := by
  unfold logFirn; split
  · simp
  · split <;> rfl
@[simp] theorem logFirn_links (s : State) (r : Rec) : (logFirn s r).links = s.links := by
  unfold logFirn; split
  · simp
  · split <;> rfl
@[simp] theorem logFirn_snow (s : State) (r : Rec) : (logFirn s r).snow = s.snow := by
  unfold logFirn; split
  · simp
  · split <;> rfl
@[simp] theorem logFirn_pwr (s : State) (r : Rec) : (logFirn s r).pwr = s.pwr := by
  unfold logFirn; split
  · simp
  · split <;> rfl
@[simp] theorem logFirn_clk (s : State) (r : Rec) : (logFirn s r).clk = s.clk := by
  unfold logFirn; split
  · simp
  · split <;> rfl
@[simp] theorem logFirn_thm (s : State) (r : Rec) : (logFirn s r).thm = s.thm := by
  unfold logFirn; split
  · simp
  · split <;> rfl
@[simp] theorem logFirn_bst (s : State) (r : Rec) : (logFirn s r).bst = s.bst := by
  unfold logFirn; split
  · simp
  · split <;> rfl
@[simp] theorem logFirn_moraine (s : State) (r : Rec) : (logFirn s r).moraine = s.moraine := by
  unfold logFirn; split
  · simp
  · split <;> rfl
@[simp] theorem logFirn_bootno (s : State) (r : Rec) : (logFirn s r).bootno = s.bootno := by
  unfold logFirn; split
  · simp
  · split <;> rfl
@[simp] theorem logFirn_mlr (s : State) (r : Rec) : (logFirn s r).mlr = s.mlr := by
  unfold logFirn; split
  · simp
  · split <;> rfl
@[simp] theorem logFirn_sec (s : State) (r : Rec) : (logFirn s r).sec = s.sec := by
  unfold logFirn; split
  · simp
  · split <;> rfl
@[simp] theorem logFirn_realms (s : State) (r : Rec) : (logFirn s r).realms = s.realms := by
  unfold logFirn; split
  · simp
  · split <;> rfl
@[simp] theorem logFirn_pins (s : State) (r : Rec) : (logFirn s r).pins = s.pins := by
  unfold logFirn; split
  · simp
  · split <;> rfl
@[simp] theorem logFirn_glb_st (s : State) (r : Rec) : (logFirn s r).glb.st = s.glb.st := by
  unfold logFirn; split
  · simp
  · split <;> rfl
@[simp] theorem logFirn_glb_bootcode (s : State) (r : Rec) : (logFirn s r).glb.bootcode = s.glb.bootcode := by
  unfold logFirn; split
  · simp
  · split <;> rfl
@[simp] theorem logFirn_glb_fgrade (s : State) (r : Rec) : (logFirn s r).glb.fgrade = s.glb.fgrade := by
  unfold logFirn; split
  · simp
  · split <;> rfl
@[simp] theorem logFirn_glb_subsys (s : State) (r : Rec) : (logFirn s r).glb.subsys = s.glb.subsys := by
  unfold logFirn; split
  · simp
  · split <;> rfl
@[simp] theorem logFirn_glb_time (s : State) (r : Rec) : (logFirn s r).glb.time = s.glb.time := by
  unfold logFirn; split
  · simp
  · split <;> rfl
@[simp] theorem logFirn_glb_serial (s : State) (r : Rec) : (logFirn s r).glb.serial = s.glb.serial := by
  unfold logFirn; split
  · simp
  · split <;> rfl
@[simp] theorem logFirn_glb_mask (s : State) (r : Rec) : (logFirn s r).glb.mask = s.glb.mask := by
  unfold logFirn; split
  · simp
  · split <;> rfl
@[simp] theorem logFirn_glb_msix (s : State) (r : Rec) : (logFirn s r).glb.msix = s.glb.msix := by
  unfold logFirn; split
  · simp
  · split <;> rfl
@[simp] theorem logFirn_glb_speed (s : State) (r : Rec) : (logFirn s r).glb.speed = s.glb.speed := by
  unfold logFirn; split
  · simp
  · split <;> rfl
@[simp] theorem logFirn_glb_width (s : State) (r : Rec) : (logFirn s r).glb.width = s.glb.width := by
  unfold logFirn; split
  · simp
  · split <;> rfl
@[simp] theorem logFirn_glb_flit (s : State) (r : Rec) : (logFirn s r).glb.flit = s.glb.flit := by
  unfold logFirn; split
  · simp
  · split <;> rfl
@[simp] theorem logFirn_glb_late (s : State) (r : Rec) : (logFirn s r).glb.late = s.glb.late := by
  unfold logFirn; split
  · simp
  · split <;> rfl
@[simp] theorem logFirn_glb_busMaster (s : State) (r : Rec) : (logFirn s r).glb.busMaster = s.glb.busMaster := by
  unfold logFirn; split
  · simp
  · split <;> rfl
@[simp] theorem logFirn_glb_d3 (s : State) (r : Rec) : (logFirn s r).glb.d3 = s.glb.d3 := by
  unfold logFirn; split
  · simp
  · split <;> rfl
@[simp] theorem logFirn_glb_fw (s : State) (r : Rec) : (logFirn s r).glb.fw = s.glb.fw := by
  unfold logFirn; split
  · simp
  · split <;> rfl
@[simp] theorem logFirn_glb_dma (s : State) (r : Rec) : (logFirn s r).glb.dma = s.glb.dma := by
  unfold logFirn; split
  · simp
  · split <;> rfl
@[simp] theorem logFirn_glb_readies (s : State) (r : Rec) : (logFirn s r).glb.readies = s.glb.readies := by
  unfold logFirn; split
  · simp
  · split <;> rfl

/-! ### logMerging: changes regions, flt -/

@[simp] theorem logMerging_pending (s : State) (r : Rec) (key : Nat × Nat × Nat) : (logMerging s r key).pending = s.pending := by
  unfold logMerging; dsimp only; split
  · split <;> simp
  · cases r.region <;> simp
@[simp] theorem logMerging_free (s : State) (r : Rec) (key : Nat × Nat × Nat) : (logMerging s r key).free = s.free := by
  unfold logMerging; dsimp only; split
  · split <;> simp
  · cases r.region <;> simp
@[simp] theorem logMerging_ids (s : State) (r : Rec) (key : Nat × Nat × Nat) : (logMerging s r key).ids = s.ids := by
  unfold logMerging; dsimp only; split
  · split <;> simp
  · cases r.region <;> simp
@[simp] theorem logMerging_mem (s : State) (r : Rec) (key : Nat × Nat × Nat) : (logMerging s r key).mem = s.mem := by
  unfold logMerging; dsimp only; split
  · split <;> simp
  · cases r.region <;> simp
@[simp] theorem logMerging_prog (s : State) (r : Rec) (key : Nat × Nat × Nat) : (logMerging s r key).prog = s.prog := by
  unfold logMerging; dsimp only; split
  · split <;> simp
  · cases r.region <;> simp
@[simp] theorem logMerging_poison (s : State) (r : Rec) (key : Nat × Nat × Nat) : (logMerging s r key).poison = s.poison := by
  unfold logMerging; dsimp only; split
  · split <;> simp
  · cases r.region <;> simp
@[simp] theorem logMerging_glb (s : State) (r : Rec) (key : Nat × Nat × Nat) : (logMerging s r key).glb = s.glb := by
  unfold logMerging; dsimp only; split
  · split <;> simp
  · cases r.region <;> simp
@[simp] theorem logMerging_mills (s : State) (r : Rec) (key : Nat × Nat × Nat) : (logMerging s r key).mills = s.mills := by
  unfold logMerging; dsimp only; split
  · split <;> simp
  · cases r.region <;> simp
@[simp] theorem logMerging_cores (s : State) (r : Rec) (key : Nat × Nat × Nat) : (logMerging s r key).cores = s.cores := by
  unfold logMerging; dsimp only; split
  · split <;> simp
  · cases r.region <;> simp
@[simp] theorem logMerging_race (s : State) (r : Rec) (key : Nat × Nat × Nat) : (logMerging s r key).race = s.race := by
  unfold logMerging; dsimp only; split
  · split <;> simp
  · cases r.region <;> simp
@[simp] theorem logMerging_hop (s : State) (r : Rec) (key : Nat × Nat × Nat) : (logMerging s r key).hop = s.hop := by
  unfold logMerging; dsimp only; split
  · split <;> simp
  · cases r.region <;> simp
@[simp] theorem logMerging_pond (s : State) (r : Rec) (key : Nat × Nat × Nat) : (logMerging s r key).pond = s.pond := by
  unfold logMerging; dsimp only; split
  · split <;> simp
  · cases r.region <;> simp
@[simp] theorem logMerging_sluice (s : State) (r : Rec) (key : Nat × Nat × Nat) : (logMerging s r key).sluice = s.sluice := by
  unfold logMerging; dsimp only; split
  · split <;> simp
  · cases r.region <;> simp
@[simp] theorem logMerging_links (s : State) (r : Rec) (key : Nat × Nat × Nat) : (logMerging s r key).links = s.links := by
  unfold logMerging; dsimp only; split
  · split <;> simp
  · cases r.region <;> simp
@[simp] theorem logMerging_snow (s : State) (r : Rec) (key : Nat × Nat × Nat) : (logMerging s r key).snow = s.snow := by
  unfold logMerging; dsimp only; split
  · split <;> simp
  · cases r.region <;> simp
@[simp] theorem logMerging_pwr (s : State) (r : Rec) (key : Nat × Nat × Nat) : (logMerging s r key).pwr = s.pwr := by
  unfold logMerging; dsimp only; split
  · split <;> simp
  · cases r.region <;> simp
@[simp] theorem logMerging_clk (s : State) (r : Rec) (key : Nat × Nat × Nat) : (logMerging s r key).clk = s.clk := by
  unfold logMerging; dsimp only; split
  · split <;> simp
  · cases r.region <;> simp
@[simp] theorem logMerging_thm (s : State) (r : Rec) (key : Nat × Nat × Nat) : (logMerging s r key).thm = s.thm := by
  unfold logMerging; dsimp only; split
  · split <;> simp
  · cases r.region <;> simp
@[simp] theorem logMerging_frn (s : State) (r : Rec) (key : Nat × Nat × Nat) : (logMerging s r key).frn = s.frn := by
  unfold logMerging; dsimp only; split
  · split <;> simp
  · cases r.region <;> simp
@[simp] theorem logMerging_bst (s : State) (r : Rec) (key : Nat × Nat × Nat) : (logMerging s r key).bst = s.bst := by
  unfold logMerging; dsimp only; split
  · split <;> simp
  · cases r.region <;> simp
@[simp] theorem logMerging_moraine (s : State) (r : Rec) (key : Nat × Nat × Nat) : (logMerging s r key).moraine = s.moraine := by
  unfold logMerging; dsimp only; split
  · split <;> simp
  · cases r.region <;> simp
@[simp] theorem logMerging_bootno (s : State) (r : Rec) (key : Nat × Nat × Nat) : (logMerging s r key).bootno = s.bootno := by
  unfold logMerging; dsimp only; split
  · split <;> simp
  · cases r.region <;> simp
@[simp] theorem logMerging_mlr (s : State) (r : Rec) (key : Nat × Nat × Nat) : (logMerging s r key).mlr = s.mlr := by
  unfold logMerging; dsimp only; split
  · split <;> simp
  · cases r.region <;> simp
@[simp] theorem logMerging_sec (s : State) (r : Rec) (key : Nat × Nat × Nat) : (logMerging s r key).sec = s.sec := by
  unfold logMerging; dsimp only; split
  · split <;> simp
  · cases r.region <;> simp
@[simp] theorem logMerging_realms (s : State) (r : Rec) (key : Nat × Nat × Nat) : (logMerging s r key).realms = s.realms := by
  unfold logMerging; dsimp only; split
  · split <;> simp
  · cases r.region <;> simp
@[simp] theorem logMerging_pins (s : State) (r : Rec) (key : Nat × Nat × Nat) : (logMerging s r key).pins = s.pins := by
  unfold logMerging; dsimp only; split
  · split <;> simp
  · cases r.region <;> simp
@[simp] theorem logMerging_out (s : State) (r : Rec) (key : Nat × Nat × Nat) : (logMerging s r key).out = s.out := by
  unfold logMerging; dsimp only; split
  · split <;> simp
  · cases r.region <;> simp

/-! ### logHost: changes glb, out, regions, flt -/

@[simp] theorem logHost_pending (s : State) (code : Code) (addr : Nat) (mill : Option Nat) : (logHost s code addr mill).pending = s.pending := by
  unfold logHost; simp
@[simp] theorem logHost_free (s : State) (code : Code) (addr : Nat) (mill : Option Nat) : (logHost s code addr mill).free = s.free := by
  unfold logHost; simp
@[simp] theorem logHost_ids (s : State) (code : Code) (addr : Nat) (mill : Option Nat) : (logHost s code addr mill).ids = s.ids := by
  unfold logHost; simp
@[simp] theorem logHost_mem (s : State) (code : Code) (addr : Nat) (mill : Option Nat) : (logHost s code addr mill).mem = s.mem := by
  unfold logHost; simp
@[simp] theorem logHost_prog (s : State) (code : Code) (addr : Nat) (mill : Option Nat) : (logHost s code addr mill).prog = s.prog := by
  unfold logHost; simp
@[simp] theorem logHost_poison (s : State) (code : Code) (addr : Nat) (mill : Option Nat) : (logHost s code addr mill).poison = s.poison := by
  unfold logHost; simp
@[simp] theorem logHost_mills (s : State) (code : Code) (addr : Nat) (mill : Option Nat) : (logHost s code addr mill).mills = s.mills := by
  unfold logHost; simp
@[simp] theorem logHost_cores (s : State) (code : Code) (addr : Nat) (mill : Option Nat) : (logHost s code addr mill).cores = s.cores := by
  unfold logHost; simp
@[simp] theorem logHost_race (s : State) (code : Code) (addr : Nat) (mill : Option Nat) : (logHost s code addr mill).race = s.race := by
  unfold logHost; simp
@[simp] theorem logHost_hop (s : State) (code : Code) (addr : Nat) (mill : Option Nat) : (logHost s code addr mill).hop = s.hop := by
  unfold logHost; simp
@[simp] theorem logHost_pond (s : State) (code : Code) (addr : Nat) (mill : Option Nat) : (logHost s code addr mill).pond = s.pond := by
  unfold logHost; simp
@[simp] theorem logHost_sluice (s : State) (code : Code) (addr : Nat) (mill : Option Nat) : (logHost s code addr mill).sluice = s.sluice := by
  unfold logHost; simp
@[simp] theorem logHost_links (s : State) (code : Code) (addr : Nat) (mill : Option Nat) : (logHost s code addr mill).links = s.links := by
  unfold logHost; simp
@[simp] theorem logHost_snow (s : State) (code : Code) (addr : Nat) (mill : Option Nat) : (logHost s code addr mill).snow = s.snow := by
  unfold logHost; simp
@[simp] theorem logHost_pwr (s : State) (code : Code) (addr : Nat) (mill : Option Nat) : (logHost s code addr mill).pwr = s.pwr := by
  unfold logHost; simp
@[simp] theorem logHost_clk (s : State) (code : Code) (addr : Nat) (mill : Option Nat) : (logHost s code addr mill).clk = s.clk := by
  unfold logHost; simp
@[simp] theorem logHost_thm (s : State) (code : Code) (addr : Nat) (mill : Option Nat) : (logHost s code addr mill).thm = s.thm := by
  unfold logHost; simp
@[simp] theorem logHost_frn (s : State) (code : Code) (addr : Nat) (mill : Option Nat) : (logHost s code addr mill).frn = s.frn := by
  unfold logHost; simp
@[simp] theorem logHost_bst (s : State) (code : Code) (addr : Nat) (mill : Option Nat) : (logHost s code addr mill).bst = s.bst := by
  unfold logHost; simp
@[simp] theorem logHost_moraine (s : State) (code : Code) (addr : Nat) (mill : Option Nat) : (logHost s code addr mill).moraine = s.moraine := by
  unfold logHost; simp
@[simp] theorem logHost_bootno (s : State) (code : Code) (addr : Nat) (mill : Option Nat) : (logHost s code addr mill).bootno = s.bootno := by
  unfold logHost; simp
@[simp] theorem logHost_mlr (s : State) (code : Code) (addr : Nat) (mill : Option Nat) : (logHost s code addr mill).mlr = s.mlr := by
  unfold logHost; simp
@[simp] theorem logHost_sec (s : State) (code : Code) (addr : Nat) (mill : Option Nat) : (logHost s code addr mill).sec = s.sec := by
  unfold logHost; simp
@[simp] theorem logHost_realms (s : State) (code : Code) (addr : Nat) (mill : Option Nat) : (logHost s code addr mill).realms = s.realms := by
  unfold logHost; simp
@[simp] theorem logHost_pins (s : State) (code : Code) (addr : Nat) (mill : Option Nat) : (logHost s code addr mill).pins = s.pins := by
  unfold logHost; simp
@[simp] theorem logHost_glb_st (s : State) (code : Code) (addr : Nat) (mill : Option Nat) : (logHost s code addr mill).glb.st = s.glb.st := by
  unfold logHost; simp
@[simp] theorem logHost_glb_bootcode (s : State) (code : Code) (addr : Nat) (mill : Option Nat) : (logHost s code addr mill).glb.bootcode = s.glb.bootcode := by
  unfold logHost; simp
@[simp] theorem logHost_glb_fgrade (s : State) (code : Code) (addr : Nat) (mill : Option Nat) : (logHost s code addr mill).glb.fgrade = s.glb.fgrade := by
  unfold logHost; simp
@[simp] theorem logHost_glb_subsys (s : State) (code : Code) (addr : Nat) (mill : Option Nat) : (logHost s code addr mill).glb.subsys = s.glb.subsys := by
  unfold logHost; simp
@[simp] theorem logHost_glb_time (s : State) (code : Code) (addr : Nat) (mill : Option Nat) : (logHost s code addr mill).glb.time = s.glb.time := by
  unfold logHost; simp
@[simp] theorem logHost_glb_serial (s : State) (code : Code) (addr : Nat) (mill : Option Nat) : (logHost s code addr mill).glb.serial = s.glb.serial := by
  unfold logHost; simp
@[simp] theorem logHost_glb_mask (s : State) (code : Code) (addr : Nat) (mill : Option Nat) : (logHost s code addr mill).glb.mask = s.glb.mask := by
  unfold logHost; simp
@[simp] theorem logHost_glb_msix (s : State) (code : Code) (addr : Nat) (mill : Option Nat) : (logHost s code addr mill).glb.msix = s.glb.msix := by
  unfold logHost; simp
@[simp] theorem logHost_glb_speed (s : State) (code : Code) (addr : Nat) (mill : Option Nat) : (logHost s code addr mill).glb.speed = s.glb.speed := by
  unfold logHost; simp
@[simp] theorem logHost_glb_width (s : State) (code : Code) (addr : Nat) (mill : Option Nat) : (logHost s code addr mill).glb.width = s.glb.width := by
  unfold logHost; simp
@[simp] theorem logHost_glb_flit (s : State) (code : Code) (addr : Nat) (mill : Option Nat) : (logHost s code addr mill).glb.flit = s.glb.flit := by
  unfold logHost; simp
@[simp] theorem logHost_glb_late (s : State) (code : Code) (addr : Nat) (mill : Option Nat) : (logHost s code addr mill).glb.late = s.glb.late := by
  unfold logHost; simp
@[simp] theorem logHost_glb_busMaster (s : State) (code : Code) (addr : Nat) (mill : Option Nat) : (logHost s code addr mill).glb.busMaster = s.glb.busMaster := by
  unfold logHost; simp
@[simp] theorem logHost_glb_d3 (s : State) (code : Code) (addr : Nat) (mill : Option Nat) : (logHost s code addr mill).glb.d3 = s.glb.d3 := by
  unfold logHost; simp
@[simp] theorem logHost_glb_fw (s : State) (code : Code) (addr : Nat) (mill : Option Nat) : (logHost s code addr mill).glb.fw = s.glb.fw := by
  unfold logHost; simp
@[simp] theorem logHost_glb_dma (s : State) (code : Code) (addr : Nat) (mill : Option Nat) : (logHost s code addr mill).glb.dma = s.glb.dma := by
  unfold logHost; simp
@[simp] theorem logHost_glb_readies (s : State) (code : Code) (addr : Nat) (mill : Option Nat) : (logHost s code addr mill).glb.readies = s.glb.readies := by
  unfold logHost; simp

/-! ### secCount: changes sec -/

@[simp] theorem secCount_pending (s : State) (i : Nat) : (secCount s i).pending = s.pending := by
  rfl
@[simp] theorem secCount_free (s : State) (i : Nat) : (secCount s i).free = s.free := by
  rfl
@[simp] theorem secCount_ids (s : State) (i : Nat) : (secCount s i).ids = s.ids := by
  rfl
@[simp] theorem secCount_mem (s : State) (i : Nat) : (secCount s i).mem = s.mem := by
  rfl
@[simp] theorem secCount_prog (s : State) (i : Nat) : (secCount s i).prog = s.prog := by
  rfl
@[simp] theorem secCount_poison (s : State) (i : Nat) : (secCount s i).poison = s.poison := by
  rfl
@[simp] theorem secCount_glb (s : State) (i : Nat) : (secCount s i).glb = s.glb := by
  rfl
@[simp] theorem secCount_regions (s : State) (i : Nat) : (secCount s i).regions = s.regions := by
  rfl
@[simp] theorem secCount_mills (s : State) (i : Nat) : (secCount s i).mills = s.mills := by
  rfl
@[simp] theorem secCount_cores (s : State) (i : Nat) : (secCount s i).cores = s.cores := by
  rfl
@[simp] theorem secCount_race (s : State) (i : Nat) : (secCount s i).race = s.race := by
  rfl
@[simp] theorem secCount_hop (s : State) (i : Nat) : (secCount s i).hop = s.hop := by
  rfl
@[simp] theorem secCount_pond (s : State) (i : Nat) : (secCount s i).pond = s.pond := by
  rfl
@[simp] theorem secCount_sluice (s : State) (i : Nat) : (secCount s i).sluice = s.sluice := by
  rfl
@[simp] theorem secCount_links (s : State) (i : Nat) : (secCount s i).links = s.links := by
  rfl
@[simp] theorem secCount_snow (s : State) (i : Nat) : (secCount s i).snow = s.snow := by
  rfl
@[simp] theorem secCount_pwr (s : State) (i : Nat) : (secCount s i).pwr = s.pwr := by
  rfl
@[simp] theorem secCount_clk (s : State) (i : Nat) : (secCount s i).clk = s.clk := by
  rfl
@[simp] theorem secCount_thm (s : State) (i : Nat) : (secCount s i).thm = s.thm := by
  rfl
@[simp] theorem secCount_frn (s : State) (i : Nat) : (secCount s i).frn = s.frn := by
  rfl
@[simp] theorem secCount_flt (s : State) (i : Nat) : (secCount s i).flt = s.flt := by
  rfl
@[simp] theorem secCount_bst (s : State) (i : Nat) : (secCount s i).bst = s.bst := by
  rfl
@[simp] theorem secCount_moraine (s : State) (i : Nat) : (secCount s i).moraine = s.moraine := by
  rfl
@[simp] theorem secCount_bootno (s : State) (i : Nat) : (secCount s i).bootno = s.bootno := by
  rfl
@[simp] theorem secCount_mlr (s : State) (i : Nat) : (secCount s i).mlr = s.mlr := by
  rfl
@[simp] theorem secCount_realms (s : State) (i : Nat) : (secCount s i).realms = s.realms := by
  rfl
@[simp] theorem secCount_pins (s : State) (i : Nat) : (secCount s i).pins = s.pins := by
  rfl
@[simp] theorem secCount_out (s : State) (i : Nat) : (secCount s i).out = s.out := by
  rfl

/-! ### setDevState: changes glb, out, hop -/

@[simp] theorem setDevState_pending (s : State) (t : DevState) : (setDevState s t).pending = s.pending := by
  unfold setDevState; split
  · rfl
  · dsimp only; split <;> simp
@[simp] theorem setDevState_free (s : State) (t : DevState) : (setDevState s t).free = s.free := by
  unfold setDevState; split
  · rfl
  · dsimp only; split <;> simp
@[simp] theorem setDevState_ids (s : State) (t : DevState) : (setDevState s t).ids = s.ids := by
  unfold setDevState; split
  · rfl
  · dsimp only; split <;> simp
@[simp] theorem setDevState_mem (s : State) (t : DevState) : (setDevState s t).mem = s.mem := by
  unfold setDevState; split
  · rfl
  · dsimp only; split <;> simp
@[simp] theorem setDevState_prog (s : State) (t : DevState) : (setDevState s t).prog = s.prog := by
  unfold setDevState; split
  · rfl
  · dsimp only; split <;> simp
@[simp] theorem setDevState_poison (s : State) (t : DevState) : (setDevState s t).poison = s.poison := by
  unfold setDevState; split
  · rfl
  · dsimp only; split <;> simp
@[simp] theorem setDevState_regions (s : State) (t : DevState) : (setDevState s t).regions = s.regions := by
  unfold setDevState; split
  · rfl
  · dsimp only; split <;> simp
@[simp] theorem setDevState_mills (s : State) (t : DevState) : (setDevState s t).mills = s.mills := by
  unfold setDevState; split
  · rfl
  · dsimp only; split <;> simp
@[simp] theorem setDevState_cores (s : State) (t : DevState) : (setDevState s t).cores = s.cores := by
  unfold setDevState; split
  · rfl
  · dsimp only; split <;> simp
@[simp] theorem setDevState_race (s : State) (t : DevState) : (setDevState s t).race = s.race := by
  unfold setDevState; split
  · rfl
  · dsimp only; split <;> simp
@[simp] theorem setDevState_pond (s : State) (t : DevState) : (setDevState s t).pond = s.pond := by
  unfold setDevState; split
  · rfl
  · dsimp only; split <;> simp
@[simp] theorem setDevState_sluice (s : State) (t : DevState) : (setDevState s t).sluice = s.sluice := by
  unfold setDevState; split
  · rfl
  · dsimp only; split <;> simp
@[simp] theorem setDevState_links (s : State) (t : DevState) : (setDevState s t).links = s.links := by
  unfold setDevState; split
  · rfl
  · dsimp only; split <;> simp
@[simp] theorem setDevState_snow (s : State) (t : DevState) : (setDevState s t).snow = s.snow := by
  unfold setDevState; split
  · rfl
  · dsimp only; split <;> simp
@[simp] theorem setDevState_pwr (s : State) (t : DevState) : (setDevState s t).pwr = s.pwr := by
  unfold setDevState; split
  · rfl
  · dsimp only; split <;> simp
@[simp] theorem setDevState_clk (s : State) (t : DevState) : (setDevState s t).clk = s.clk := by
  unfold setDevState; split
  · rfl
  · dsimp only; split <;> simp
@[simp] theorem setDevState_thm (s : State) (t : DevState) : (setDevState s t).thm = s.thm := by
  unfold setDevState; split
  · rfl
  · dsimp only; split <;> simp
@[simp] theorem setDevState_frn (s : State) (t : DevState) : (setDevState s t).frn = s.frn := by
  unfold setDevState; split
  · rfl
  · dsimp only; split <;> simp
@[simp] theorem setDevState_flt (s : State) (t : DevState) : (setDevState s t).flt = s.flt := by
  unfold setDevState; split
  · rfl
  · dsimp only; split <;> simp
@[simp] theorem setDevState_bst (s : State) (t : DevState) : (setDevState s t).bst = s.bst := by
  unfold setDevState; split
  · rfl
  · dsimp only; split <;> simp
@[simp] theorem setDevState_moraine (s : State) (t : DevState) : (setDevState s t).moraine = s.moraine := by
  unfold setDevState; split
  · rfl
  · dsimp only; split <;> simp
@[simp] theorem setDevState_bootno (s : State) (t : DevState) : (setDevState s t).bootno = s.bootno := by
  unfold setDevState; split
  · rfl
  · dsimp only; split <;> simp
@[simp] theorem setDevState_mlr (s : State) (t : DevState) : (setDevState s t).mlr = s.mlr := by
  unfold setDevState; split
  · rfl
  · dsimp only; split <;> simp
@[simp] theorem setDevState_sec (s : State) (t : DevState) : (setDevState s t).sec = s.sec := by
  unfold setDevState; split
  · rfl
  · dsimp only; split <;> simp
@[simp] theorem setDevState_realms (s : State) (t : DevState) : (setDevState s t).realms = s.realms := by
  unfold setDevState; split
  · rfl
  · dsimp only; split <;> simp
@[simp] theorem setDevState_pins (s : State) (t : DevState) : (setDevState s t).pins = s.pins := by
  unfold setDevState; split
  · rfl
  · dsimp only; split <;> simp
@[simp] theorem setDevState_glb_bootcode (s : State) (t : DevState) : (setDevState s t).glb.bootcode = s.glb.bootcode := by
  unfold setDevState; split
  · rfl
  · dsimp only; split <;> simp
@[simp] theorem setDevState_glb_fgrade (s : State) (t : DevState) : (setDevState s t).glb.fgrade = s.glb.fgrade := by
  unfold setDevState; split
  · rfl
  · dsimp only; split <;> simp
@[simp] theorem setDevState_glb_subsys (s : State) (t : DevState) : (setDevState s t).glb.subsys = s.glb.subsys := by
  unfold setDevState; split
  · rfl
  · dsimp only; split <;> simp
@[simp] theorem setDevState_glb_time (s : State) (t : DevState) : (setDevState s t).glb.time = s.glb.time := by
  unfold setDevState; split
  · rfl
  · dsimp only; split <;> simp
@[simp] theorem setDevState_glb_serial (s : State) (t : DevState) : (setDevState s t).glb.serial = s.glb.serial := by
  unfold setDevState; split
  · rfl
  · dsimp only; split <;> simp
@[simp] theorem setDevState_glb_mask (s : State) (t : DevState) : (setDevState s t).glb.mask = s.glb.mask := by
  unfold setDevState; split
  · rfl
  · dsimp only; split <;> simp
@[simp] theorem setDevState_glb_msix (s : State) (t : DevState) : (setDevState s t).glb.msix = s.glb.msix := by
  unfold setDevState; split
  · rfl
  · dsimp only; split <;> simp
@[simp] theorem setDevState_glb_speed (s : State) (t : DevState) : (setDevState s t).glb.speed = s.glb.speed := by
  unfold setDevState; split
  · rfl
  · dsimp only; split <;> simp
@[simp] theorem setDevState_glb_width (s : State) (t : DevState) : (setDevState s t).glb.width = s.glb.width := by
  unfold setDevState; split
  · rfl
  · dsimp only; split <;> simp
@[simp] theorem setDevState_glb_flit (s : State) (t : DevState) : (setDevState s t).glb.flit = s.glb.flit := by
  unfold setDevState; split
  · rfl
  · dsimp only; split <;> simp
@[simp] theorem setDevState_glb_late (s : State) (t : DevState) : (setDevState s t).glb.late = s.glb.late := by
  unfold setDevState; split
  · rfl
  · dsimp only; split <;> simp
@[simp] theorem setDevState_glb_busMaster (s : State) (t : DevState) : (setDevState s t).glb.busMaster = s.glb.busMaster := by
  unfold setDevState; split
  · rfl
  · dsimp only; split <;> simp
@[simp] theorem setDevState_glb_d3 (s : State) (t : DevState) : (setDevState s t).glb.d3 = s.glb.d3 := by
  unfold setDevState; split
  · rfl
  · dsimp only; split <;> simp
@[simp] theorem setDevState_glb_fw (s : State) (t : DevState) : (setDevState s t).glb.fw = s.glb.fw := by
  unfold setDevState; split
  · rfl
  · dsimp only; split <;> simp
@[simp] theorem setDevState_glb_dma (s : State) (t : DevState) : (setDevState s t).glb.dma = s.glb.dma := by
  unfold setDevState; split
  · rfl
  · dsimp only; split <;> simp

/-- The device is in the state it was put into. -/
@[simp] theorem setDevState_st (s : State) (t : DevState) : (setDevState s t).glb.st = t := by
  unfold setDevState
  split
  · assumption
  · dsimp only
    split <;> simp

/-! ### refresh: changes glb, out, hop -/

@[simp] theorem refresh_pending (s : State) : (refresh s).pending = s.pending := by
  unfold refresh; split
  · simp
  · rfl
@[simp] theorem refresh_free (s : State) : (refresh s).free = s.free := by
  unfold refresh; split
  · simp
  · rfl
@[simp] theorem refresh_ids (s : State) : (refresh s).ids = s.ids := by
  unfold refresh; split
  · simp
  · rfl
@[simp] theorem refresh_mem (s : State) : (refresh s).mem = s.mem := by
  unfold refresh; split
  · simp
  · rfl
@[simp] theorem refresh_prog (s : State) : (refresh s).prog = s.prog := by
  unfold refresh; split
  · simp
  · rfl
@[simp] theorem refresh_poison (s : State) : (refresh s).poison = s.poison := by
  unfold refresh; split
  · simp
  · rfl
@[simp] theorem refresh_regions (s : State) : (refresh s).regions = s.regions := by
  unfold refresh; split
  · simp
  · rfl
@[simp] theorem refresh_mills (s : State) : (refresh s).mills = s.mills := by
  unfold refresh; split
  · simp
  · rfl
@[simp] theorem refresh_cores (s : State) : (refresh s).cores = s.cores := by
  unfold refresh; split
  · simp
  · rfl
@[simp] theorem refresh_race (s : State) : (refresh s).race = s.race := by
  unfold refresh; split
  · simp
  · rfl
@[simp] theorem refresh_pond (s : State) : (refresh s).pond = s.pond := by
  unfold refresh; split
  · simp
  · rfl
@[simp] theorem refresh_sluice (s : State) : (refresh s).sluice = s.sluice := by
  unfold refresh; split
  · simp
  · rfl
@[simp] theorem refresh_links (s : State) : (refresh s).links = s.links := by
  unfold refresh; split
  · simp
  · rfl
@[simp] theorem refresh_snow (s : State) : (refresh s).snow = s.snow := by
  unfold refresh; split
  · simp
  · rfl
@[simp] theorem refresh_pwr (s : State) : (refresh s).pwr = s.pwr := by
  unfold refresh; split
  · simp
  · rfl
@[simp] theorem refresh_clk (s : State) : (refresh s).clk = s.clk := by
  unfold refresh; split
  · simp
  · rfl
@[simp] theorem refresh_thm (s : State) : (refresh s).thm = s.thm := by
  unfold refresh; split
  · simp
  · rfl
@[simp] theorem refresh_frn (s : State) : (refresh s).frn = s.frn := by
  unfold refresh; split
  · simp
  · rfl
@[simp] theorem refresh_flt (s : State) : (refresh s).flt = s.flt := by
  unfold refresh; split
  · simp
  · rfl
@[simp] theorem refresh_bst (s : State) : (refresh s).bst = s.bst := by
  unfold refresh; split
  · simp
  · rfl
@[simp] theorem refresh_moraine (s : State) : (refresh s).moraine = s.moraine := by
  unfold refresh; split
  · simp
  · rfl
@[simp] theorem refresh_bootno (s : State) : (refresh s).bootno = s.bootno := by
  unfold refresh; split
  · simp
  · rfl
@[simp] theorem refresh_mlr (s : State) : (refresh s).mlr = s.mlr := by
  unfold refresh; split
  · simp
  · rfl
@[simp] theorem refresh_sec (s : State) : (refresh s).sec = s.sec := by
  unfold refresh; split
  · simp
  · rfl
@[simp] theorem refresh_realms (s : State) : (refresh s).realms = s.realms := by
  unfold refresh; split
  · simp
  · rfl
@[simp] theorem refresh_pins (s : State) : (refresh s).pins = s.pins := by
  unfold refresh; split
  · simp
  · rfl
@[simp] theorem refresh_glb_bootcode (s : State) : (refresh s).glb.bootcode = s.glb.bootcode := by
  unfold refresh; split
  · simp
  · rfl
@[simp] theorem refresh_glb_fgrade (s : State) : (refresh s).glb.fgrade = s.glb.fgrade := by
  unfold refresh; split
  · simp
  · rfl
@[simp] theorem refresh_glb_subsys (s : State) : (refresh s).glb.subsys = s.glb.subsys := by
  unfold refresh; split
  · simp
  · rfl
@[simp] theorem refresh_glb_time (s : State) : (refresh s).glb.time = s.glb.time := by
  unfold refresh; split
  · simp
  · rfl
@[simp] theorem refresh_glb_serial (s : State) : (refresh s).glb.serial = s.glb.serial := by
  unfold refresh; split
  · simp
  · rfl
@[simp] theorem refresh_glb_mask (s : State) : (refresh s).glb.mask = s.glb.mask := by
  unfold refresh; split
  · simp
  · rfl
@[simp] theorem refresh_glb_msix (s : State) : (refresh s).glb.msix = s.glb.msix := by
  unfold refresh; split
  · simp
  · rfl
@[simp] theorem refresh_glb_speed (s : State) : (refresh s).glb.speed = s.glb.speed := by
  unfold refresh; split
  · simp
  · rfl
@[simp] theorem refresh_glb_width (s : State) : (refresh s).glb.width = s.glb.width := by
  unfold refresh; split
  · simp
  · rfl
@[simp] theorem refresh_glb_flit (s : State) : (refresh s).glb.flit = s.glb.flit := by
  unfold refresh; split
  · simp
  · rfl
@[simp] theorem refresh_glb_late (s : State) : (refresh s).glb.late = s.glb.late := by
  unfold refresh; split
  · simp
  · rfl
@[simp] theorem refresh_glb_busMaster (s : State) : (refresh s).glb.busMaster = s.glb.busMaster := by
  unfold refresh; split
  · simp
  · rfl
@[simp] theorem refresh_glb_d3 (s : State) : (refresh s).glb.d3 = s.glb.d3 := by
  unfold refresh; split
  · simp
  · rfl
@[simp] theorem refresh_glb_fw (s : State) : (refresh s).glb.fw = s.glb.fw := by
  unfold refresh; split
  · simp
  · rfl
@[simp] theorem refresh_glb_dma (s : State) : (refresh s).glb.dma = s.glb.dma := by
  unfold refresh; split
  · simp
  · rfl

/-! ### addMoraine: changes glb, out, regions, flt, moraine -/

@[simp] theorem addMoraine_pending (s : State) (e : MEntry) : (addMoraine s e).pending = s.pending := by
  unfold addMoraine; dsimp only; split
  · split <;> rfl
  · split
    · rfl
    · split
      · rfl
      · split
        · rfl
        · split <;> simp
@[simp] theorem addMoraine_free (s : State) (e : MEntry) : (addMoraine s e).free = s.free := by
  unfold addMoraine; dsimp only; split
  · split <;> rfl
  · split
    · rfl
    · split
      · rfl
      · split
        · rfl
        · split <;> simp
@[simp] theorem addMoraine_ids (s : State) (e : MEntry) : (addMoraine s e).ids = s.ids := by
  unfold addMoraine; dsimp only; split
  · split <;> rfl
  · split
    · rfl
    · split
      · rfl
      · split
        · rfl
        · split <;> simp
@[simp] theorem addMoraine_mem (s : State) (e : MEntry) : (addMoraine s e).mem = s.mem := by
  unfold addMoraine; dsimp only; split
  · split <;> rfl
  · split
    · rfl
    · split
      · rfl
      · split
        · rfl
        · split <;> simp
@[simp] theorem addMoraine_prog (s : State) (e : MEntry) : (addMoraine s e).prog = s.prog := by
  unfold addMoraine; dsimp only; split
  · split <;> rfl
  · split
    · rfl
    · split
      · rfl
      · split
        · rfl
        · split <;> simp
@[simp] theorem addMoraine_poison (s : State) (e : MEntry) : (addMoraine s e).poison = s.poison := by
  unfold addMoraine; dsimp only; split
  · split <;> rfl
  · split
    · rfl
    · split
      · rfl
      · split
        · rfl
        · split <;> simp
@[simp] theorem addMoraine_mills (s : State) (e : MEntry) : (addMoraine s e).mills = s.mills := by
  unfold addMoraine; dsimp only; split
  · split <;> rfl
  · split
    · rfl
    · split
      · rfl
      · split
        · rfl
        · split <;> simp
@[simp] theorem addMoraine_cores (s : State) (e : MEntry) : (addMoraine s e).cores = s.cores := by
  unfold addMoraine; dsimp only; split
  · split <;> rfl
  · split
    · rfl
    · split
      · rfl
      · split
        · rfl
        · split <;> simp
@[simp] theorem addMoraine_race (s : State) (e : MEntry) : (addMoraine s e).race = s.race := by
  unfold addMoraine; dsimp only; split
  · split <;> rfl
  · split
    · rfl
    · split
      · rfl
      · split
        · rfl
        · split <;> simp
@[simp] theorem addMoraine_hop (s : State) (e : MEntry) : (addMoraine s e).hop = s.hop := by
  unfold addMoraine; dsimp only; split
  · split <;> rfl
  · split
    · rfl
    · split
      · rfl
      · split
        · rfl
        · split <;> simp
@[simp] theorem addMoraine_pond (s : State) (e : MEntry) : (addMoraine s e).pond = s.pond := by
  unfold addMoraine; dsimp only; split
  · split <;> rfl
  · split
    · rfl
    · split
      · rfl
      · split
        · rfl
        · split <;> simp
@[simp] theorem addMoraine_sluice (s : State) (e : MEntry) : (addMoraine s e).sluice = s.sluice := by
  unfold addMoraine; dsimp only; split
  · split <;> rfl
  · split
    · rfl
    · split
      · rfl
      · split
        · rfl
        · split <;> simp
@[simp] theorem addMoraine_links (s : State) (e : MEntry) : (addMoraine s e).links = s.links := by
  unfold addMoraine; dsimp only; split
  · split <;> rfl
  · split
    · rfl
    · split
      · rfl
      · split
        · rfl
        · split <;> simp
@[simp] theorem addMoraine_snow (s : State) (e : MEntry) : (addMoraine s e).snow = s.snow := by
  unfold addMoraine; dsimp only; split
  · split <;> rfl
  · split
    · rfl
    · split
      · rfl
      · split
        · rfl
        · split <;> simp
@[simp] theorem addMoraine_pwr (s : State) (e : MEntry) : (addMoraine s e).pwr = s.pwr := by
  unfold addMoraine; dsimp only; split
  · split <;> rfl
  · split
    · rfl
    · split
      · rfl
      · split
        · rfl
        · split <;> simp
@[simp] theorem addMoraine_clk (s : State) (e : MEntry) : (addMoraine s e).clk = s.clk := by
  unfold addMoraine; dsimp only; split
  · split <;> rfl
  · split
    · rfl
    · split
      · rfl
      · split
        · rfl
        · split <;> simp
@[simp] theorem addMoraine_thm (s : State) (e : MEntry) : (addMoraine s e).thm = s.thm := by
  unfold addMoraine; dsimp only; split
  · split <;> rfl
  · split
    · rfl
    · split
      · rfl
      · split
        · rfl
        · split <;> simp
@[simp] theorem addMoraine_frn (s : State) (e : MEntry) : (addMoraine s e).frn = s.frn := by
  unfold addMoraine; dsimp only; split
  · split <;> rfl
  · split
    · rfl
    · split
      · rfl
      · split
        · rfl
        · split <;> simp
@[simp] theorem addMoraine_bst (s : State) (e : MEntry) : (addMoraine s e).bst = s.bst := by
  unfold addMoraine; dsimp only; split
  · split <;> rfl
  · split
    · rfl
    · split
      · rfl
      · split
        · rfl
        · split <;> simp
@[simp] theorem addMoraine_bootno (s : State) (e : MEntry) : (addMoraine s e).bootno = s.bootno := by
  unfold addMoraine; dsimp only; split
  · split <;> rfl
  · split
    · rfl
    · split
      · rfl
      · split
        · rfl
        · split <;> simp
@[simp] theorem addMoraine_mlr (s : State) (e : MEntry) : (addMoraine s e).mlr = s.mlr := by
  unfold addMoraine; dsimp only; split
  · split <;> rfl
  · split
    · rfl
    · split
      · rfl
      · split
        · rfl
        · split <;> simp
@[simp] theorem addMoraine_sec (s : State) (e : MEntry) : (addMoraine s e).sec = s.sec := by
  unfold addMoraine; dsimp only; split
  · split <;> rfl
  · split
    · rfl
    · split
      · rfl
      · split
        · rfl
        · split <;> simp
@[simp] theorem addMoraine_realms (s : State) (e : MEntry) : (addMoraine s e).realms = s.realms := by
  unfold addMoraine; dsimp only; split
  · split <;> rfl
  · split
    · rfl
    · split
      · rfl
      · split
        · rfl
        · split <;> simp
@[simp] theorem addMoraine_pins (s : State) (e : MEntry) : (addMoraine s e).pins = s.pins := by
  unfold addMoraine; dsimp only; split
  · split <;> rfl
  · split
    · rfl
    · split
      · rfl
      · split
        · rfl
        · split <;> simp
@[simp] theorem addMoraine_glb_st (s : State) (e : MEntry) : (addMoraine s e).glb.st = s.glb.st := by
  unfold addMoraine; dsimp only; split
  · split <;> rfl
  · split
    · rfl
    · split
      · rfl
      · split
        · rfl
        · split <;> simp
@[simp] theorem addMoraine_glb_bootcode (s : State) (e : MEntry) : (addMoraine s e).glb.bootcode = s.glb.bootcode := by
  unfold addMoraine; dsimp only; split
  · split <;> rfl
  · split
    · rfl
    · split
      · rfl
      · split
        · rfl
        · split <;> simp
@[simp] theorem addMoraine_glb_fgrade (s : State) (e : MEntry) : (addMoraine s e).glb.fgrade = s.glb.fgrade := by
  unfold addMoraine; dsimp only; split
  · split <;> rfl
  · split
    · rfl
    · split
      · rfl
      · split
        · rfl
        · split <;> simp
@[simp] theorem addMoraine_glb_subsys (s : State) (e : MEntry) : (addMoraine s e).glb.subsys = s.glb.subsys := by
  unfold addMoraine; dsimp only; split
  · split <;> rfl
  · split
    · rfl
    · split
      · rfl
      · split
        · rfl
        · split <;> simp
@[simp] theorem addMoraine_glb_time (s : State) (e : MEntry) : (addMoraine s e).glb.time = s.glb.time := by
  unfold addMoraine; dsimp only; split
  · split <;> rfl
  · split
    · rfl
    · split
      · rfl
      · split
        · rfl
        · split <;> simp
@[simp] theorem addMoraine_glb_serial (s : State) (e : MEntry) : (addMoraine s e).glb.serial = s.glb.serial := by
  unfold addMoraine; dsimp only; split
  · split <;> rfl
  · split
    · rfl
    · split
      · rfl
      · split
        · rfl
        · split <;> simp
@[simp] theorem addMoraine_glb_mask (s : State) (e : MEntry) : (addMoraine s e).glb.mask = s.glb.mask := by
  unfold addMoraine; dsimp only; split
  · split <;> rfl
  · split
    · rfl
    · split
      · rfl
      · split
        · rfl
        · split <;> simp
@[simp] theorem addMoraine_glb_msix (s : State) (e : MEntry) : (addMoraine s e).glb.msix = s.glb.msix := by
  unfold addMoraine; dsimp only; split
  · split <;> rfl
  · split
    · rfl
    · split
      · rfl
      · split
        · rfl
        · split <;> simp
@[simp] theorem addMoraine_glb_speed (s : State) (e : MEntry) : (addMoraine s e).glb.speed = s.glb.speed := by
  unfold addMoraine; dsimp only; split
  · split <;> rfl
  · split
    · rfl
    · split
      · rfl
      · split
        · rfl
        · split <;> simp
@[simp] theorem addMoraine_glb_width (s : State) (e : MEntry) : (addMoraine s e).glb.width = s.glb.width := by
  unfold addMoraine; dsimp only; split
  · split <;> rfl
  · split
    · rfl
    · split
      · rfl
      · split
        · rfl
        · split <;> simp
@[simp] theorem addMoraine_glb_flit (s : State) (e : MEntry) : (addMoraine s e).glb.flit = s.glb.flit := by
  unfold addMoraine; dsimp only; split
  · split <;> rfl
  · split
    · rfl
    · split
      · rfl
      · split
        · rfl
        · split <;> simp
@[simp] theorem addMoraine_glb_late (s : State) (e : MEntry) : (addMoraine s e).glb.late = s.glb.late := by
  unfold addMoraine; dsimp only; split
  · split <;> rfl
  · split
    · rfl
    · split
      · rfl
      · split
        · rfl
        · split <;> simp
@[simp] theorem addMoraine_glb_busMaster (s : State) (e : MEntry) : (addMoraine s e).glb.busMaster = s.glb.busMaster := by
  unfold addMoraine; dsimp only; split
  · split <;> rfl
  · split
    · rfl
    · split
      · rfl
      · split
        · rfl
        · split <;> simp
@[simp] theorem addMoraine_glb_d3 (s : State) (e : MEntry) : (addMoraine s e).glb.d3 = s.glb.d3 := by
  unfold addMoraine; dsimp only; split
  · split <;> rfl
  · split
    · rfl
    · split
      · rfl
      · split
        · rfl
        · split <;> simp
@[simp] theorem addMoraine_glb_fw (s : State) (e : MEntry) : (addMoraine s e).glb.fw = s.glb.fw := by
  unfold addMoraine; dsimp only; split
  · split <;> rfl
  · split
    · rfl
    · split
      · rfl
      · split
        · rfl
        · split <;> simp
@[simp] theorem addMoraine_glb_dma (s : State) (e : MEntry) : (addMoraine s e).glb.dma = s.glb.dma := by
  unfold addMoraine; dsimp only; split
  · split <;> rfl
  · split
    · rfl
    · split
      · rfl
      · split
        · rfl
        · split <;> simp
@[simp] theorem addMoraine_glb_readies (s : State) (e : MEntry) : (addMoraine s e).glb.readies = s.glb.readies := by
  unfold addMoraine; dsimp only; split
  · split <;> rfl
  · split
    · rfl
    · split
      · rfl
      · split
        · rfl
        · split <;> simp

/-! ### noteLoss: changes glb, out, regions, flt, moraine -/

@[simp] theorem noteLoss_pending (s : State) (g rails : Nat) (trip : Bool) : (noteLoss s g rails trip).pending = s.pending := by
  unfold noteLoss; dsimp only; split <;> split <;> simp <;> (try split) <;> simp
@[simp] theorem noteLoss_free (s : State) (g rails : Nat) (trip : Bool) : (noteLoss s g rails trip).free = s.free := by
  unfold noteLoss; dsimp only; split <;> split <;> simp <;> (try split) <;> simp
@[simp] theorem noteLoss_ids (s : State) (g rails : Nat) (trip : Bool) : (noteLoss s g rails trip).ids = s.ids := by
  unfold noteLoss; dsimp only; split <;> split <;> simp <;> (try split) <;> simp
@[simp] theorem noteLoss_mem (s : State) (g rails : Nat) (trip : Bool) : (noteLoss s g rails trip).mem = s.mem := by
  unfold noteLoss; dsimp only; split <;> split <;> simp <;> (try split) <;> simp
@[simp] theorem noteLoss_prog (s : State) (g rails : Nat) (trip : Bool) : (noteLoss s g rails trip).prog = s.prog := by
  unfold noteLoss; dsimp only; split <;> split <;> simp <;> (try split) <;> simp
@[simp] theorem noteLoss_poison (s : State) (g rails : Nat) (trip : Bool) : (noteLoss s g rails trip).poison = s.poison := by
  unfold noteLoss; dsimp only; split <;> split <;> simp <;> (try split) <;> simp
@[simp] theorem noteLoss_mills (s : State) (g rails : Nat) (trip : Bool) : (noteLoss s g rails trip).mills = s.mills := by
  unfold noteLoss; dsimp only; split <;> split <;> simp <;> (try split) <;> simp
@[simp] theorem noteLoss_cores (s : State) (g rails : Nat) (trip : Bool) : (noteLoss s g rails trip).cores = s.cores := by
  unfold noteLoss; dsimp only; split <;> split <;> simp <;> (try split) <;> simp
@[simp] theorem noteLoss_race (s : State) (g rails : Nat) (trip : Bool) : (noteLoss s g rails trip).race = s.race := by
  unfold noteLoss; dsimp only; split <;> split <;> simp <;> (try split) <;> simp
@[simp] theorem noteLoss_hop (s : State) (g rails : Nat) (trip : Bool) : (noteLoss s g rails trip).hop = s.hop := by
  unfold noteLoss; dsimp only; split <;> split <;> simp <;> (try split) <;> simp
@[simp] theorem noteLoss_pond (s : State) (g rails : Nat) (trip : Bool) : (noteLoss s g rails trip).pond = s.pond := by
  unfold noteLoss; dsimp only; split <;> split <;> simp <;> (try split) <;> simp
@[simp] theorem noteLoss_sluice (s : State) (g rails : Nat) (trip : Bool) : (noteLoss s g rails trip).sluice = s.sluice := by
  unfold noteLoss; dsimp only; split <;> split <;> simp <;> (try split) <;> simp
@[simp] theorem noteLoss_links (s : State) (g rails : Nat) (trip : Bool) : (noteLoss s g rails trip).links = s.links := by
  unfold noteLoss; dsimp only; split <;> split <;> simp <;> (try split) <;> simp
@[simp] theorem noteLoss_snow (s : State) (g rails : Nat) (trip : Bool) : (noteLoss s g rails trip).snow = s.snow := by
  unfold noteLoss; dsimp only; split <;> split <;> simp <;> (try split) <;> simp
@[simp] theorem noteLoss_pwr (s : State) (g rails : Nat) (trip : Bool) : (noteLoss s g rails trip).pwr = s.pwr := by
  unfold noteLoss; dsimp only; split <;> split <;> simp <;> (try split) <;> simp
@[simp] theorem noteLoss_clk (s : State) (g rails : Nat) (trip : Bool) : (noteLoss s g rails trip).clk = s.clk := by
  unfold noteLoss; dsimp only; split <;> split <;> simp <;> (try split) <;> simp
@[simp] theorem noteLoss_thm (s : State) (g rails : Nat) (trip : Bool) : (noteLoss s g rails trip).thm = s.thm := by
  unfold noteLoss; dsimp only; split <;> split <;> simp <;> (try split) <;> simp
@[simp] theorem noteLoss_frn (s : State) (g rails : Nat) (trip : Bool) : (noteLoss s g rails trip).frn = s.frn := by
  unfold noteLoss; dsimp only; split <;> split <;> simp <;> (try split) <;> simp
@[simp] theorem noteLoss_bst (s : State) (g rails : Nat) (trip : Bool) : (noteLoss s g rails trip).bst = s.bst := by
  unfold noteLoss; dsimp only; split <;> split <;> simp <;> (try split) <;> simp
@[simp] theorem noteLoss_bootno (s : State) (g rails : Nat) (trip : Bool) : (noteLoss s g rails trip).bootno = s.bootno := by
  unfold noteLoss; dsimp only; split <;> split <;> simp <;> (try split) <;> simp
@[simp] theorem noteLoss_mlr (s : State) (g rails : Nat) (trip : Bool) : (noteLoss s g rails trip).mlr = s.mlr := by
  unfold noteLoss; dsimp only; split <;> split <;> simp <;> (try split) <;> simp
@[simp] theorem noteLoss_sec (s : State) (g rails : Nat) (trip : Bool) : (noteLoss s g rails trip).sec = s.sec := by
  unfold noteLoss; dsimp only; split <;> split <;> simp <;> (try split) <;> simp
@[simp] theorem noteLoss_realms (s : State) (g rails : Nat) (trip : Bool) : (noteLoss s g rails trip).realms = s.realms := by
  unfold noteLoss; dsimp only; split <;> split <;> simp <;> (try split) <;> simp
@[simp] theorem noteLoss_pins (s : State) (g rails : Nat) (trip : Bool) : (noteLoss s g rails trip).pins = s.pins := by
  unfold noteLoss; dsimp only; split <;> split <;> simp <;> (try split) <;> simp
@[simp] theorem noteLoss_glb_st (s : State) (g rails : Nat) (trip : Bool) : (noteLoss s g rails trip).glb.st = s.glb.st := by
  unfold noteLoss; dsimp only; split <;> split <;> simp <;> (try split) <;> simp
@[simp] theorem noteLoss_glb_bootcode (s : State) (g rails : Nat) (trip : Bool) : (noteLoss s g rails trip).glb.bootcode = s.glb.bootcode := by
  unfold noteLoss; dsimp only; split <;> split <;> simp <;> (try split) <;> simp
@[simp] theorem noteLoss_glb_fgrade (s : State) (g rails : Nat) (trip : Bool) : (noteLoss s g rails trip).glb.fgrade = s.glb.fgrade := by
  unfold noteLoss; dsimp only; split <;> split <;> simp <;> (try split) <;> simp
@[simp] theorem noteLoss_glb_subsys (s : State) (g rails : Nat) (trip : Bool) : (noteLoss s g rails trip).glb.subsys = s.glb.subsys := by
  unfold noteLoss; dsimp only; split <;> split <;> simp <;> (try split) <;> simp
@[simp] theorem noteLoss_glb_time (s : State) (g rails : Nat) (trip : Bool) : (noteLoss s g rails trip).glb.time = s.glb.time := by
  unfold noteLoss; dsimp only; split <;> split <;> simp <;> (try split) <;> simp
@[simp] theorem noteLoss_glb_serial (s : State) (g rails : Nat) (trip : Bool) : (noteLoss s g rails trip).glb.serial = s.glb.serial := by
  unfold noteLoss; dsimp only; split <;> split <;> simp <;> (try split) <;> simp
@[simp] theorem noteLoss_glb_mask (s : State) (g rails : Nat) (trip : Bool) : (noteLoss s g rails trip).glb.mask = s.glb.mask := by
  unfold noteLoss; dsimp only; split <;> split <;> simp <;> (try split) <;> simp
@[simp] theorem noteLoss_glb_msix (s : State) (g rails : Nat) (trip : Bool) : (noteLoss s g rails trip).glb.msix = s.glb.msix := by
  unfold noteLoss; dsimp only; split <;> split <;> simp <;> (try split) <;> simp
@[simp] theorem noteLoss_glb_speed (s : State) (g rails : Nat) (trip : Bool) : (noteLoss s g rails trip).glb.speed = s.glb.speed := by
  unfold noteLoss; dsimp only; split <;> split <;> simp <;> (try split) <;> simp
@[simp] theorem noteLoss_glb_width (s : State) (g rails : Nat) (trip : Bool) : (noteLoss s g rails trip).glb.width = s.glb.width := by
  unfold noteLoss; dsimp only; split <;> split <;> simp <;> (try split) <;> simp
@[simp] theorem noteLoss_glb_flit (s : State) (g rails : Nat) (trip : Bool) : (noteLoss s g rails trip).glb.flit = s.glb.flit := by
  unfold noteLoss; dsimp only; split <;> split <;> simp <;> (try split) <;> simp
@[simp] theorem noteLoss_glb_late (s : State) (g rails : Nat) (trip : Bool) : (noteLoss s g rails trip).glb.late = s.glb.late := by
  unfold noteLoss; dsimp only; split <;> split <;> simp <;> (try split) <;> simp
@[simp] theorem noteLoss_glb_busMaster (s : State) (g rails : Nat) (trip : Bool) : (noteLoss s g rails trip).glb.busMaster = s.glb.busMaster := by
  unfold noteLoss; dsimp only; split <;> split <;> simp <;> (try split) <;> simp
@[simp] theorem noteLoss_glb_d3 (s : State) (g rails : Nat) (trip : Bool) : (noteLoss s g rails trip).glb.d3 = s.glb.d3 := by
  unfold noteLoss; dsimp only; split <;> split <;> simp <;> (try split) <;> simp
@[simp] theorem noteLoss_glb_fw (s : State) (g rails : Nat) (trip : Bool) : (noteLoss s g rails trip).glb.fw = s.glb.fw := by
  unfold noteLoss; dsimp only; split <;> split <;> simp <;> (try split) <;> simp
@[simp] theorem noteLoss_glb_dma (s : State) (g rails : Nat) (trip : Bool) : (noteLoss s g rails trip).glb.dma = s.glb.dma := by
  unfold noteLoss; dsimp only; split <;> split <;> simp <;> (try split) <;> simp
@[simp] theorem noteLoss_glb_readies (s : State) (g rails : Nat) (trip : Bool) : (noteLoss s g rails trip).glb.readies = s.glb.readies := by
  unfold noteLoss; dsimp only; split <;> split <;> simp <;> (try split) <;> simp

/-! ### noteFound: changes glb, out, regions, flt, moraine, snow -/

@[simp] theorem noteFound_pending (s : State) (f : Config.Found) : (noteFound s f).pending = s.pending := by
  unfold noteFound; cases f <;> dsimp only <;> repeat (first | rfl | split | simp)
@[simp] theorem noteFound_free (s : State) (f : Config.Found) : (noteFound s f).free = s.free := by
  unfold noteFound; cases f <;> dsimp only <;> repeat (first | rfl | split | simp)
@[simp] theorem noteFound_ids (s : State) (f : Config.Found) : (noteFound s f).ids = s.ids := by
  unfold noteFound; cases f <;> dsimp only <;> repeat (first | rfl | split | simp)
@[simp] theorem noteFound_mem (s : State) (f : Config.Found) : (noteFound s f).mem = s.mem := by
  unfold noteFound; cases f <;> dsimp only <;> repeat (first | rfl | split | simp)
@[simp] theorem noteFound_prog (s : State) (f : Config.Found) : (noteFound s f).prog = s.prog := by
  unfold noteFound; cases f <;> dsimp only <;> repeat (first | rfl | split | simp)
@[simp] theorem noteFound_poison (s : State) (f : Config.Found) : (noteFound s f).poison = s.poison := by
  unfold noteFound; cases f <;> dsimp only <;> repeat (first | rfl | split | simp)
@[simp] theorem noteFound_mills (s : State) (f : Config.Found) : (noteFound s f).mills = s.mills := by
  unfold noteFound; cases f <;> dsimp only <;> repeat (first | rfl | split | simp)
@[simp] theorem noteFound_cores (s : State) (f : Config.Found) : (noteFound s f).cores = s.cores := by
  unfold noteFound; cases f <;> dsimp only <;> repeat (first | rfl | split | simp)
@[simp] theorem noteFound_race (s : State) (f : Config.Found) : (noteFound s f).race = s.race := by
  unfold noteFound; cases f <;> dsimp only <;> repeat (first | rfl | split | simp)
@[simp] theorem noteFound_hop (s : State) (f : Config.Found) : (noteFound s f).hop = s.hop := by
  unfold noteFound; cases f <;> dsimp only <;> repeat (first | rfl | split | simp)
@[simp] theorem noteFound_pond (s : State) (f : Config.Found) : (noteFound s f).pond = s.pond := by
  unfold noteFound; cases f <;> dsimp only <;> repeat (first | rfl | split | simp)
@[simp] theorem noteFound_sluice (s : State) (f : Config.Found) : (noteFound s f).sluice = s.sluice := by
  unfold noteFound; cases f <;> dsimp only <;> repeat (first | rfl | split | simp)
@[simp] theorem noteFound_links (s : State) (f : Config.Found) : (noteFound s f).links = s.links := by
  unfold noteFound; cases f <;> dsimp only <;> repeat (first | rfl | split | simp)
@[simp] theorem noteFound_pwr (s : State) (f : Config.Found) : (noteFound s f).pwr = s.pwr := by
  unfold noteFound; cases f <;> dsimp only <;> repeat (first | rfl | split | simp)
@[simp] theorem noteFound_clk (s : State) (f : Config.Found) : (noteFound s f).clk = s.clk := by
  unfold noteFound; cases f <;> dsimp only <;> repeat (first | rfl | split | simp)
@[simp] theorem noteFound_thm (s : State) (f : Config.Found) : (noteFound s f).thm = s.thm := by
  unfold noteFound; cases f <;> dsimp only <;> repeat (first | rfl | split | simp)
@[simp] theorem noteFound_frn (s : State) (f : Config.Found) : (noteFound s f).frn = s.frn := by
  unfold noteFound; cases f <;> dsimp only <;> repeat (first | rfl | split | simp)
@[simp] theorem noteFound_bst (s : State) (f : Config.Found) : (noteFound s f).bst = s.bst := by
  unfold noteFound; cases f <;> dsimp only <;> repeat (first | rfl | split | simp)
@[simp] theorem noteFound_bootno (s : State) (f : Config.Found) : (noteFound s f).bootno = s.bootno := by
  unfold noteFound; cases f <;> dsimp only <;> repeat (first | rfl | split | simp)
@[simp] theorem noteFound_mlr (s : State) (f : Config.Found) : (noteFound s f).mlr = s.mlr := by
  unfold noteFound; cases f <;> dsimp only <;> repeat (first | rfl | split | simp)
@[simp] theorem noteFound_sec (s : State) (f : Config.Found) : (noteFound s f).sec = s.sec := by
  unfold noteFound; cases f <;> dsimp only <;> repeat (first | rfl | split | simp)
@[simp] theorem noteFound_realms (s : State) (f : Config.Found) : (noteFound s f).realms = s.realms := by
  unfold noteFound; cases f <;> dsimp only <;> repeat (first | rfl | split | simp)
@[simp] theorem noteFound_pins (s : State) (f : Config.Found) : (noteFound s f).pins = s.pins := by
  unfold noteFound; cases f <;> dsimp only <;> repeat (first | rfl | split | simp)
@[simp] theorem noteFound_glb_st (s : State) (f : Config.Found) : (noteFound s f).glb.st = s.glb.st := by
  unfold noteFound; cases f <;> dsimp only <;> repeat (first | rfl | split | simp)
@[simp] theorem noteFound_glb_bootcode (s : State) (f : Config.Found) : (noteFound s f).glb.bootcode = s.glb.bootcode := by
  unfold noteFound; cases f <;> dsimp only <;> repeat (first | rfl | split | simp)
@[simp] theorem noteFound_glb_fgrade (s : State) (f : Config.Found) : (noteFound s f).glb.fgrade = s.glb.fgrade := by
  unfold noteFound; cases f <;> dsimp only <;> repeat (first | rfl | split | simp)
@[simp] theorem noteFound_glb_subsys (s : State) (f : Config.Found) : (noteFound s f).glb.subsys = s.glb.subsys := by
  unfold noteFound; cases f <;> dsimp only <;> repeat (first | rfl | split | simp)
@[simp] theorem noteFound_glb_time (s : State) (f : Config.Found) : (noteFound s f).glb.time = s.glb.time := by
  unfold noteFound; cases f <;> dsimp only <;> repeat (first | rfl | split | simp)
@[simp] theorem noteFound_glb_serial (s : State) (f : Config.Found) : (noteFound s f).glb.serial = s.glb.serial := by
  unfold noteFound; cases f <;> dsimp only <;> repeat (first | rfl | split | simp)
@[simp] theorem noteFound_glb_mask (s : State) (f : Config.Found) : (noteFound s f).glb.mask = s.glb.mask := by
  unfold noteFound; cases f <;> dsimp only <;> repeat (first | rfl | split | simp)
@[simp] theorem noteFound_glb_msix (s : State) (f : Config.Found) : (noteFound s f).glb.msix = s.glb.msix := by
  unfold noteFound; cases f <;> dsimp only <;> repeat (first | rfl | split | simp)
@[simp] theorem noteFound_glb_speed (s : State) (f : Config.Found) : (noteFound s f).glb.speed = s.glb.speed := by
  unfold noteFound; cases f <;> dsimp only <;> repeat (first | rfl | split | simp)
@[simp] theorem noteFound_glb_width (s : State) (f : Config.Found) : (noteFound s f).glb.width = s.glb.width := by
  unfold noteFound; cases f <;> dsimp only <;> repeat (first | rfl | split | simp)
@[simp] theorem noteFound_glb_flit (s : State) (f : Config.Found) : (noteFound s f).glb.flit = s.glb.flit := by
  unfold noteFound; cases f <;> dsimp only <;> repeat (first | rfl | split | simp)
@[simp] theorem noteFound_glb_late (s : State) (f : Config.Found) : (noteFound s f).glb.late = s.glb.late := by
  unfold noteFound; cases f <;> dsimp only <;> repeat (first | rfl | split | simp)
@[simp] theorem noteFound_glb_busMaster (s : State) (f : Config.Found) : (noteFound s f).glb.busMaster = s.glb.busMaster := by
  unfold noteFound; cases f <;> dsimp only <;> repeat (first | rfl | split | simp)
@[simp] theorem noteFound_glb_d3 (s : State) (f : Config.Found) : (noteFound s f).glb.d3 = s.glb.d3 := by
  unfold noteFound; cases f <;> dsimp only <;> repeat (first | rfl | split | simp)
@[simp] theorem noteFound_glb_fw (s : State) (f : Config.Found) : (noteFound s f).glb.fw = s.glb.fw := by
  unfold noteFound; cases f <;> dsimp only <;> repeat (first | rfl | split | simp)
@[simp] theorem noteFound_glb_dma (s : State) (f : Config.Found) : (noteFound s f).glb.dma = s.glb.dma := by
  unfold noteFound; cases f <;> dsimp only <;> repeat (first | rfl | split | simp)
@[simp] theorem noteFound_glb_readies (s : State) (f : Config.Found) : (noteFound s f).glb.readies = s.glb.readies := by
  unfold noteFound; cases f <;> dsimp only <;> repeat (first | rfl | split | simp)

end Sys2Proof.Machine
end

