-- ==== Sys2Proof/Laws/Time.lean ====
section
/-!
SUPPORT. What the passing of time changes (00 Notation, 06 R243, 10 R380, 11 R421, 14 R534): the clock, Firn's count, the slack counters of
cores, the fraction of a core cycle in a region, the throttle counters and what is left to slew. Everything else is as before.
-/
namespace Sys2Proof.Machine

/-! ### countRest: changes regions, cores -/

@[simp] theorem countRest_pending (s : State) (n : Nat) : (countRest s n).pending = s.pending := by
  unfold countRest; split <;> rfl
@[simp] theorem countRest_free (s : State) (n : Nat) : (countRest s n).free = s.free := by
  unfold countRest; split <;> rfl
@[simp] theorem countRest_ids (s : State) (n : Nat) : (countRest s n).ids = s.ids := by
  unfold countRest; split <;> rfl
@[simp] theorem countRest_mem (s : State) (n : Nat) : (countRest s n).mem = s.mem := by
  unfold countRest; split <;> rfl
@[simp] theorem countRest_prog (s : State) (n : Nat) : (countRest s n).prog = s.prog := by
  unfold countRest; split <;> rfl
@[simp] theorem countRest_poison (s : State) (n : Nat) : (countRest s n).poison = s.poison := by
  unfold countRest; split <;> rfl
@[simp] theorem countRest_glb (s : State) (n : Nat) : (countRest s n).glb = s.glb := by
  unfold countRest; split <;> rfl
@[simp] theorem countRest_mills (s : State) (n : Nat) : (countRest s n).mills = s.mills := by
  unfold countRest; split <;> rfl
@[simp] theorem countRest_race (s : State) (n : Nat) : (countRest s n).race = s.race := by
  unfold countRest; split <;> rfl
@[simp] theorem countRest_hop (s : State) (n : Nat) : (countRest s n).hop = s.hop := by
  unfold countRest; split <;> rfl
@[simp] theorem countRest_pond (s : State) (n : Nat) : (countRest s n).pond = s.pond := by
  unfold countRest; split <;> rfl
@[simp] theorem countRest_sluice (s : State) (n : Nat) : (countRest s n).sluice = s.sluice := by
  unfold countRest; split <;> rfl
@[simp] theorem countRest_links (s : State) (n : Nat) : (countRest s n).links = s.links := by
  unfold countRest; split <;> rfl
@[simp] theorem countRest_snow (s : State) (n : Nat) : (countRest s n).snow = s.snow := by
  unfold countRest; split <;> rfl
@[simp] theorem countRest_pwr (s : State) (n : Nat) : (countRest s n).pwr = s.pwr := by
  unfold countRest; split <;> rfl
@[simp] theorem countRest_clk (s : State) (n : Nat) : (countRest s n).clk = s.clk := by
  unfold countRest; split <;> rfl
@[simp] theorem countRest_thm (s : State) (n : Nat) : (countRest s n).thm = s.thm := by
  unfold countRest; split <;> rfl
@[simp] theorem countRest_frn (s : State) (n : Nat) : (countRest s n).frn = s.frn := by
  unfold countRest; split <;> rfl
@[simp] theorem countRest_flt (s : State) (n : Nat) : (countRest s n).flt = s.flt := by
  unfold countRest; split <;> rfl
@[simp] theorem countRest_bst (s : State) (n : Nat) : (countRest s n).bst = s.bst := by
  unfold countRest; split <;> rfl
@[simp] theorem countRest_moraine (s : State) (n : Nat) : (countRest s n).moraine = s.moraine := by
  unfold countRest; split <;> rfl
@[simp] theorem countRest_bootno (s : State) (n : Nat) : (countRest s n).bootno = s.bootno := by
  unfold countRest; split <;> rfl
@[simp] theorem countRest_mlr (s : State) (n : Nat) : (countRest s n).mlr = s.mlr := by
  unfold countRest; split <;> rfl
@[simp] theorem countRest_sec (s : State) (n : Nat) : (countRest s n).sec = s.sec := by
  unfold countRest; split <;> rfl
@[simp] theorem countRest_realms (s : State) (n : Nat) : (countRest s n).realms = s.realms := by
  unfold countRest; split <;> rfl
@[simp] theorem countRest_pins (s : State) (n : Nat) : (countRest s n).pins = s.pins := by
  unfold countRest; split <;> rfl
@[simp] theorem countRest_out (s : State) (n : Nat) : (countRest s n).out = s.out := by
  unfold countRest; split <;> rfl

theorem countThrottle_fold_pending (n : Nat) (ks : List Nat) (s : State) :
    (ks.foldl (fun s k => let h := hotCount (ctlOf s k); if h = 0 then s else ctlCount s k 6 (n * h)) s).pending = s.pending := by
  induction ks generalizing s with
  | nil => rfl
  | cons k ks ih => rw [List.foldl_cons, ih]; dsimp only; split <;> rfl
theorem countThrottle_fold_free (n : Nat) (ks : List Nat) (s : State) :
    (ks.foldl (fun s k => let h := hotCount (ctlOf s k); if h = 0 then s else ctlCount s k 6 (n * h)) s).free = s.free := by
  induction ks generalizing s with
  | nil => rfl
  | cons k ks ih => rw [List.foldl_cons, ih]; dsimp only; split <;> rfl
theorem countThrottle_fold_ids (n : Nat) (ks : List Nat) (s : State) :
    (ks.foldl (fun s k => let h := hotCount (ctlOf s k); if h = 0 then s else ctlCount s k 6 (n * h)) s).ids = s.ids := by
  induction ks generalizing s with
  | nil => rfl
  | cons k ks ih => rw [List.foldl_cons, ih]; dsimp only; split <;> rfl
theorem countThrottle_fold_mem (n : Nat) (ks : List Nat) (s : State) :
    (ks.foldl (fun s k => let h := hotCount (ctlOf s k); if h = 0 then s else ctlCount s k 6 (n * h)) s).mem = s.mem := by
  induction ks generalizing s with
  | nil => rfl
  | cons k ks ih => rw [List.foldl_cons, ih]; dsimp only; split <;> rfl
theorem countThrottle_fold_prog (n : Nat) (ks : List Nat) (s : State) :
    (ks.foldl (fun s k => let h := hotCount (ctlOf s k); if h = 0 then s else ctlCount s k 6 (n * h)) s).prog = s.prog := by
  induction ks generalizing s with
  | nil => rfl
  | cons k ks ih => rw [List.foldl_cons, ih]; dsimp only; split <;> rfl
theorem countThrottle_fold_poison (n : Nat) (ks : List Nat) (s : State) :
    (ks.foldl (fun s k => let h := hotCount (ctlOf s k); if h = 0 then s else ctlCount s k 6 (n * h)) s).poison = s.poison := by
  induction ks generalizing s with
  | nil => rfl
  | cons k ks ih => rw [List.foldl_cons, ih]; dsimp only; split <;> rfl
theorem countThrottle_fold_glb (n : Nat) (ks : List Nat) (s : State) :
    (ks.foldl (fun s k => let h := hotCount (ctlOf s k); if h = 0 then s else ctlCount s k 6 (n * h)) s).glb = s.glb := by
  induction ks generalizing s with
  | nil => rfl
  | cons k ks ih => rw [List.foldl_cons, ih]; dsimp only; split <;> rfl
theorem countThrottle_fold_regions (n : Nat) (ks : List Nat) (s : State) :
    (ks.foldl (fun s k => let h := hotCount (ctlOf s k); if h = 0 then s else ctlCount s k 6 (n * h)) s).regions = s.regions := by
  induction ks generalizing s with
  | nil => rfl
  | cons k ks ih => rw [List.foldl_cons, ih]; dsimp only; split <;> rfl
theorem countThrottle_fold_mills (n : Nat) (ks : List Nat) (s : State) :
    (ks.foldl (fun s k => let h := hotCount (ctlOf s k); if h = 0 then s else ctlCount s k 6 (n * h)) s).mills = s.mills := by
  induction ks generalizing s with
  | nil => rfl
  | cons k ks ih => rw [List.foldl_cons, ih]; dsimp only; split <;> rfl
theorem countThrottle_fold_cores (n : Nat) (ks : List Nat) (s : State) :
    (ks.foldl (fun s k => let h := hotCount (ctlOf s k); if h = 0 then s else ctlCount s k 6 (n * h)) s).cores = s.cores := by
  induction ks generalizing s with
  | nil => rfl
  | cons k ks ih => rw [List.foldl_cons, ih]; dsimp only; split <;> rfl
theorem countThrottle_fold_race (n : Nat) (ks : List Nat) (s : State) :
    (ks.foldl (fun s k => let h := hotCount (ctlOf s k); if h = 0 then s else ctlCount s k 6 (n * h)) s).race = s.race := by
  induction ks generalizing s with
  | nil => rfl
  | cons k ks ih => rw [List.foldl_cons, ih]; dsimp only; split <;> rfl
theorem countThrottle_fold_hop (n : Nat) (ks : List Nat) (s : State) :
    (ks.foldl (fun s k => let h := hotCount (ctlOf s k); if h = 0 then s else ctlCount s k 6 (n * h)) s).hop = s.hop := by
  induction ks generalizing s with
  | nil => rfl
  | cons k ks ih => rw [List.foldl_cons, ih]; dsimp only; split <;> rfl
theorem countThrottle_fold_pond (n : Nat) (ks : List Nat) (s : State) :
    (ks.foldl (fun s k => let h := hotCount (ctlOf s k); if h = 0 then s else ctlCount s k 6 (n * h)) s).pond = s.pond := by
  induction ks generalizing s with
  | nil => rfl
  | cons k ks ih => rw [List.foldl_cons, ih]; dsimp only; split <;> rfl
theorem countThrottle_fold_sluice (n : Nat) (ks : List Nat) (s : State) :
    (ks.foldl (fun s k => let h := hotCount (ctlOf s k); if h = 0 then s else ctlCount s k 6 (n * h)) s).sluice = s.sluice := by
  induction ks generalizing s with
  | nil => rfl
  | cons k ks ih => rw [List.foldl_cons, ih]; dsimp only; split <;> rfl
theorem countThrottle_fold_links (n : Nat) (ks : List Nat) (s : State) :
    (ks.foldl (fun s k => let h := hotCount (ctlOf s k); if h = 0 then s else ctlCount s k 6 (n * h)) s).links = s.links := by
  induction ks generalizing s with
  | nil => rfl
  | cons k ks ih => rw [List.foldl_cons, ih]; dsimp only; split <;> rfl
theorem countThrottle_fold_pwr (n : Nat) (ks : List Nat) (s : State) :
    (ks.foldl (fun s k => let h := hotCount (ctlOf s k); if h = 0 then s else ctlCount s k 6 (n * h)) s).pwr = s.pwr := by
  induction ks generalizing s with
  | nil => rfl
  | cons k ks ih => rw [List.foldl_cons, ih]; dsimp only; split <;> rfl
theorem countThrottle_fold_clk (n : Nat) (ks : List Nat) (s : State) :
    (ks.foldl (fun s k => let h := hotCount (ctlOf s k); if h = 0 then s else ctlCount s k 6 (n * h)) s).clk = s.clk := by
  induction ks generalizing s with
  | nil => rfl
  | cons k ks ih => rw [List.foldl_cons, ih]; dsimp only; split <;> rfl
theorem countThrottle_fold_thm (n : Nat) (ks : List Nat) (s : State) :
    (ks.foldl (fun s k => let h := hotCount (ctlOf s k); if h = 0 then s else ctlCount s k 6 (n * h)) s).thm = s.thm := by
  induction ks generalizing s with
  | nil => rfl
  | cons k ks ih => rw [List.foldl_cons, ih]; dsimp only; split <;> rfl
theorem countThrottle_fold_frn (n : Nat) (ks : List Nat) (s : State) :
    (ks.foldl (fun s k => let h := hotCount (ctlOf s k); if h = 0 then s else ctlCount s k 6 (n * h)) s).frn = s.frn := by
  induction ks generalizing s with
  | nil => rfl
  | cons k ks ih => rw [List.foldl_cons, ih]; dsimp only; split <;> rfl
theorem countThrottle_fold_flt (n : Nat) (ks : List Nat) (s : State) :
    (ks.foldl (fun s k => let h := hotCount (ctlOf s k); if h = 0 then s else ctlCount s k 6 (n * h)) s).flt = s.flt := by
  induction ks generalizing s with
  | nil => rfl
  | cons k ks ih => rw [List.foldl_cons, ih]; dsimp only; split <;> rfl
theorem countThrottle_fold_bst (n : Nat) (ks : List Nat) (s : State) :
    (ks.foldl (fun s k => let h := hotCount (ctlOf s k); if h = 0 then s else ctlCount s k 6 (n * h)) s).bst = s.bst := by
  induction ks generalizing s with
  | nil => rfl
  | cons k ks ih => rw [List.foldl_cons, ih]; dsimp only; split <;> rfl
theorem countThrottle_fold_moraine (n : Nat) (ks : List Nat) (s : State) :
    (ks.foldl (fun s k => let h := hotCount (ctlOf s k); if h = 0 then s else ctlCount s k 6 (n * h)) s).moraine = s.moraine := by
  induction ks generalizing s with
  | nil => rfl
  | cons k ks ih => rw [List.foldl_cons, ih]; dsimp only; split <;> rfl
theorem countThrottle_fold_bootno (n : Nat) (ks : List Nat) (s : State) :
    (ks.foldl (fun s k => let h := hotCount (ctlOf s k); if h = 0 then s else ctlCount s k 6 (n * h)) s).bootno = s.bootno := by
  induction ks generalizing s with
  | nil => rfl
  | cons k ks ih => rw [List.foldl_cons, ih]; dsimp only; split <;> rfl
theorem countThrottle_fold_mlr (n : Nat) (ks : List Nat) (s : State) :
    (ks.foldl (fun s k => let h := hotCount (ctlOf s k); if h = 0 then s else ctlCount s k 6 (n * h)) s).mlr = s.mlr := by
  induction ks generalizing s with
  | nil => rfl
  | cons k ks ih => rw [List.foldl_cons, ih]; dsimp only; split <;> rfl
theorem countThrottle_fold_sec (n : Nat) (ks : List Nat) (s : State) :
    (ks.foldl (fun s k => let h := hotCount (ctlOf s k); if h = 0 then s else ctlCount s k 6 (n * h)) s).sec = s.sec := by
  induction ks generalizing s with
  | nil => rfl
  | cons k ks ih => rw [List.foldl_cons, ih]; dsimp only; split <;> rfl
theorem countThrottle_fold_realms (n : Nat) (ks : List Nat) (s : State) :
    (ks.foldl (fun s k => let h := hotCount (ctlOf s k); if h = 0 then s else ctlCount s k 6 (n * h)) s).realms = s.realms := by
  induction ks generalizing s with
  | nil => rfl
  | cons k ks ih => rw [List.foldl_cons, ih]; dsimp only; split <;> rfl
theorem countThrottle_fold_pins (n : Nat) (ks : List Nat) (s : State) :
    (ks.foldl (fun s k => let h := hotCount (ctlOf s k); if h = 0 then s else ctlCount s k 6 (n * h)) s).pins = s.pins := by
  induction ks generalizing s with
  | nil => rfl
  | cons k ks ih => rw [List.foldl_cons, ih]; dsimp only; split <;> rfl
theorem countThrottle_fold_out (n : Nat) (ks : List Nat) (s : State) :
    (ks.foldl (fun s k => let h := hotCount (ctlOf s k); if h = 0 then s else ctlCount s k 6 (n * h)) s).out = s.out := by
  induction ks generalizing s with
  | nil => rfl
  | cons k ks ih => rw [List.foldl_cons, ih]; dsimp only; split <;> rfl

/-! ### countThrottle: changes snow -/

@[simp] theorem countThrottle_pending (s : State) (n : Nat) : (countThrottle s n).pending = s.pending := by
  unfold countThrottle; split
  · exact countThrottle_fold_pending n _ s
  · rfl
@[simp] theorem countThrottle_free (s : State) (n : Nat) : (countThrottle s n).free = s.free := by
  unfold countThrottle; split
  · exact countThrottle_fold_free n _ s
  · rfl
@[simp] theorem countThrottle_ids (s : State) (n : Nat) : (countThrottle s n).ids = s.ids := by
  unfold countThrottle; split
  · exact countThrottle_fold_ids n _ s
  · rfl
@[simp] theorem countThrottle_mem (s : State) (n : Nat) : (countThrottle s n).mem = s.mem := by
  unfold countThrottle; split
  · exact countThrottle_fold_mem n _ s
  · rfl
@[simp] theorem countThrottle_prog (s : State) (n : Nat) : (countThrottle s n).prog = s.prog := by
  unfold countThrottle; split
  · exact countThrottle_fold_prog n _ s
  · rfl
@[simp] theorem countThrottle_poison (s : State) (n : Nat) : (countThrottle s n).poison = s.poison := by
  unfold countThrottle; split
  · exact countThrottle_fold_poison n _ s
  · rfl
@[simp] theorem countThrottle_glb (s : State) (n : Nat) : (countThrottle s n).glb = s.glb := by
  unfold countThrottle; split
  · exact countThrottle_fold_glb n _ s
  · rfl
@[simp] theorem countThrottle_regions (s : State) (n : Nat) : (countThrottle s n).regions = s.regions := by
  unfold countThrottle; split
  · exact countThrottle_fold_regions n _ s
  · rfl
@[simp] theorem countThrottle_mills (s : State) (n : Nat) : (countThrottle s n).mills = s.mills := by
  unfold countThrottle; split
  · exact countThrottle_fold_mills n _ s
  · rfl
@[simp] theorem countThrottle_cores (s : State) (n : Nat) : (countThrottle s n).cores = s.cores := by
  unfold countThrottle; split
  · exact countThrottle_fold_cores n _ s
  · rfl
@[simp] theorem countThrottle_race (s : State) (n : Nat) : (countThrottle s n).race = s.race := by
  unfold countThrottle; split
  · exact countThrottle_fold_race n _ s
  · rfl
@[simp] theorem countThrottle_hop (s : State) (n : Nat) : (countThrottle s n).hop = s.hop := by
  unfold countThrottle; split
  · exact countThrottle_fold_hop n _ s
  · rfl
@[simp] theorem countThrottle_pond (s : State) (n : Nat) : (countThrottle s n).pond = s.pond := by
  unfold countThrottle; split
  · exact countThrottle_fold_pond n _ s
  · rfl
@[simp] theorem countThrottle_sluice (s : State) (n : Nat) : (countThrottle s n).sluice = s.sluice := by
  unfold countThrottle; split
  · exact countThrottle_fold_sluice n _ s
  · rfl
@[simp] theorem countThrottle_links (s : State) (n : Nat) : (countThrottle s n).links = s.links := by
  unfold countThrottle; split
  · exact countThrottle_fold_links n _ s
  · rfl
@[simp] theorem countThrottle_pwr (s : State) (n : Nat) : (countThrottle s n).pwr = s.pwr := by
  unfold countThrottle; split
  · exact countThrottle_fold_pwr n _ s
  · rfl
@[simp] theorem countThrottle_clk (s : State) (n : Nat) : (countThrottle s n).clk = s.clk := by
  unfold countThrottle; split
  · exact countThrottle_fold_clk n _ s
  · rfl
@[simp] theorem countThrottle_thm (s : State) (n : Nat) : (countThrottle s n).thm = s.thm := by
  unfold countThrottle; split
  · exact countThrottle_fold_thm n _ s
  · rfl
@[simp] theorem countThrottle_frn (s : State) (n : Nat) : (countThrottle s n).frn = s.frn := by
  unfold countThrottle; split
  · exact countThrottle_fold_frn n _ s
  · rfl
@[simp] theorem countThrottle_flt (s : State) (n : Nat) : (countThrottle s n).flt = s.flt := by
  unfold countThrottle; split
  · exact countThrottle_fold_flt n _ s
  · rfl
@[simp] theorem countThrottle_bst (s : State) (n : Nat) : (countThrottle s n).bst = s.bst := by
  unfold countThrottle; split
  · exact countThrottle_fold_bst n _ s
  · rfl
@[simp] theorem countThrottle_moraine (s : State) (n : Nat) : (countThrottle s n).moraine = s.moraine := by
  unfold countThrottle; split
  · exact countThrottle_fold_moraine n _ s
  · rfl
@[simp] theorem countThrottle_bootno (s : State) (n : Nat) : (countThrottle s n).bootno = s.bootno := by
  unfold countThrottle; split
  · exact countThrottle_fold_bootno n _ s
  · rfl
@[simp] theorem countThrottle_mlr (s : State) (n : Nat) : (countThrottle s n).mlr = s.mlr := by
  unfold countThrottle; split
  · exact countThrottle_fold_mlr n _ s
  · rfl
@[simp] theorem countThrottle_sec (s : State) (n : Nat) : (countThrottle s n).sec = s.sec := by
  unfold countThrottle; split
  · exact countThrottle_fold_sec n _ s
  · rfl
@[simp] theorem countThrottle_realms (s : State) (n : Nat) : (countThrottle s n).realms = s.realms := by
  unfold countThrottle; split
  · exact countThrottle_fold_realms n _ s
  · rfl
@[simp] theorem countThrottle_pins (s : State) (n : Nat) : (countThrottle s n).pins = s.pins := by
  unfold countThrottle; split
  · exact countThrottle_fold_pins n _ s
  · rfl
@[simp] theorem countThrottle_out (s : State) (n : Nat) : (countThrottle s n).out = s.out := by
  unfold countThrottle; split
  · exact countThrottle_fold_out n _ s
  · rfl

/-! ### pass: changes glb, regions, cores, sluice, snow, frn -/

@[simp] theorem pass_pending (s : State) (n : Nat) : (pass s n).pending = s.pending := by
  unfold pass; dsimp only; repeat' split
  all_goals simp
@[simp] theorem pass_free (s : State) (n : Nat) : (pass s n).free = s.free := by
  unfold pass; dsimp only; repeat' split
  all_goals simp
@[simp] theorem pass_ids (s : State) (n : Nat) : (pass s n).ids = s.ids := by
  unfold pass; dsimp only; repeat' split
  all_goals simp
@[simp] theorem pass_mem (s : State) (n : Nat) : (pass s n).mem = s.mem := by
  unfold pass; dsimp only; repeat' split
  all_goals simp
@[simp] theorem pass_prog (s : State) (n : Nat) : (pass s n).prog = s.prog := by
  unfold pass; dsimp only; repeat' split
  all_goals simp
@[simp] theorem pass_poison (s : State) (n : Nat) : (pass s n).poison = s.poison := by
  unfold pass; dsimp only; repeat' split
  all_goals simp
@[simp] theorem pass_mills (s : State) (n : Nat) : (pass s n).mills = s.mills := by
  unfold pass; dsimp only; repeat' split
  all_goals simp
@[simp] theorem pass_race (s : State) (n : Nat) : (pass s n).race = s.race := by
  unfold pass; dsimp only; repeat' split
  all_goals simp
@[simp] theorem pass_hop (s : State) (n : Nat) : (pass s n).hop = s.hop := by
  unfold pass; dsimp only; repeat' split
  all_goals simp
@[simp] theorem pass_pond (s : State) (n : Nat) : (pass s n).pond = s.pond := by
  unfold pass; dsimp only; repeat' split
  all_goals simp
@[simp] theorem pass_links (s : State) (n : Nat) : (pass s n).links = s.links := by
  unfold pass; dsimp only; repeat' split
  all_goals simp
@[simp] theorem pass_pwr (s : State) (n : Nat) : (pass s n).pwr = s.pwr := by
  unfold pass; dsimp only; repeat' split
  all_goals simp
@[simp] theorem pass_clk (s : State) (n : Nat) : (pass s n).clk = s.clk := by
  unfold pass; dsimp only; repeat' split
  all_goals simp
@[simp] theorem pass_thm (s : State) (n : Nat) : (pass s n).thm = s.thm := by
  unfold pass; dsimp only; repeat' split
  all_goals simp
@[simp] theorem pass_flt (s : State) (n : Nat) : (pass s n).flt = s.flt := by
  unfold pass; dsimp only; repeat' split
  all_goals simp
@[simp] theorem pass_bst (s : State) (n : Nat) : (pass s n).bst = s.bst := by
  unfold pass; dsimp only; repeat' split
  all_goals simp
@[simp] theorem pass_moraine (s : State) (n : Nat) : (pass s n).moraine = s.moraine := by
  unfold pass; dsimp only; repeat' split
  all_goals simp
@[simp] theorem pass_bootno (s : State) (n : Nat) : (pass s n).bootno = s.bootno := by
  unfold pass; dsimp only; repeat' split
  all_goals simp
@[simp] theorem pass_mlr (s : State) (n : Nat) : (pass s n).mlr = s.mlr := by
  unfold pass; dsimp only; repeat' split
  all_goals simp
@[simp] theorem pass_sec (s : State) (n : Nat) : (pass s n).sec = s.sec := by
  unfold pass; dsimp only; repeat' split
  all_goals simp
@[simp] theorem pass_realms (s : State) (n : Nat) : (pass s n).realms = s.realms := by
  unfold pass; dsimp only; repeat' split
  all_goals simp
@[simp] theorem pass_pins (s : State) (n : Nat) : (pass s n).pins = s.pins := by
  unfold pass; dsimp only; repeat' split
  all_goals simp
@[simp] theorem pass_out (s : State) (n : Nat) : (pass s n).out = s.out := by
  unfold pass; dsimp only; repeat' split
  all_goals simp

@[simp] theorem pass_glb_st (s : State) (n : Nat) : (pass s n).glb.st = s.glb.st := by
  unfold pass; dsimp only; repeat' split
  all_goals simp
@[simp] theorem pass_glb_bootcode (s : State) (n : Nat) : (pass s n).glb.bootcode = s.glb.bootcode := by
  unfold pass; dsimp only; repeat' split
  all_goals simp
@[simp] theorem pass_glb_fgrade (s : State) (n : Nat) : (pass s n).glb.fgrade = s.glb.fgrade := by
  unfold pass; dsimp only; repeat' split
  all_goals simp
@[simp] theorem pass_glb_subsys (s : State) (n : Nat) : (pass s n).glb.subsys = s.glb.subsys := by
  unfold pass; dsimp only; repeat' split
  all_goals simp
@[simp] theorem pass_glb_serial (s : State) (n : Nat) : (pass s n).glb.serial = s.glb.serial := by
  unfold pass; dsimp only; repeat' split
  all_goals simp
@[simp] theorem pass_glb_stat (s : State) (n : Nat) : (pass s n).glb.stat = s.glb.stat := by
  unfold pass; dsimp only; repeat' split
  all_goals simp
@[simp] theorem pass_glb_mask (s : State) (n : Nat) : (pass s n).glb.mask = s.glb.mask := by
  unfold pass; dsimp only; repeat' split
  all_goals simp
@[simp] theorem pass_glb_msix (s : State) (n : Nat) : (pass s n).glb.msix = s.glb.msix := by
  unfold pass; dsimp only; repeat' split
  all_goals simp
@[simp] theorem pass_glb_pba (s : State) (n : Nat) : (pass s n).glb.pba = s.glb.pba := by
  unfold pass; dsimp only; repeat' split
  all_goals simp
@[simp] theorem pass_glb_speed (s : State) (n : Nat) : (pass s n).glb.speed = s.glb.speed := by
  unfold pass; dsimp only; repeat' split
  all_goals simp
@[simp] theorem pass_glb_width (s : State) (n : Nat) : (pass s n).glb.width = s.glb.width := by
  unfold pass; dsimp only; repeat' split
  all_goals simp
@[simp] theorem pass_glb_flit (s : State) (n : Nat) : (pass s n).glb.flit = s.glb.flit := by
  unfold pass; dsimp only; repeat' split
  all_goals simp
@[simp] theorem pass_glb_late (s : State) (n : Nat) : (pass s n).glb.late = s.glb.late := by
  unfold pass; dsimp only; repeat' split
  all_goals simp
@[simp] theorem pass_glb_busMaster (s : State) (n : Nat) : (pass s n).glb.busMaster = s.glb.busMaster := by
  unfold pass; dsimp only; repeat' split
  all_goals simp
@[simp] theorem pass_glb_d3 (s : State) (n : Nat) : (pass s n).glb.d3 = s.glb.d3 := by
  unfold pass; dsimp only; repeat' split
  all_goals simp
@[simp] theorem pass_glb_fw (s : State) (n : Nat) : (pass s n).glb.fw = s.glb.fw := by
  unfold pass; dsimp only; repeat' split
  all_goals simp
@[simp] theorem pass_glb_readies (s : State) (n : Nat) : (pass s n).glb.readies = s.glb.readies := by
  unfold pass; dsimp only; repeat' split
  all_goals simp
@[simp] theorem pass_glb_dma (s : State) (n : Nat) : (pass s n).glb.dma = s.glb.dma := by
  unfold pass; dsimp only; repeat' split
  all_goals simp

/-- The clock after `n` nanoseconds (R534); it stands still while the edge logic has no power. -/
theorem pass_time (s : State) (n : Nat) : (pass s n).glb.time = if timeRuns s then s.glb.time + n else s.glb.time := by
  unfold pass; dsimp only; repeat' split
  all_goals simp_all [timeRuns]

/-- Sessions, ports and what is kept of ended sessions are as before; only the slave clock's slew moves (R380). -/
theorem pass_sluice (s : State) (n : Nat) : ∃ p, (pass s n).sluice = { s.sluice with ptp := p } := by
  unfold pass; dsimp only; repeat' split
  all_goals exact ⟨_, by simp; rfl⟩

/-! ### advanceTo: changes what pass changes -/

@[simp] theorem advanceTo_pending (s : State) (e : Nat) : (advanceTo s e).pending = s.pending := pass_pending ..
@[simp] theorem advanceTo_free (s : State) (e : Nat) : (advanceTo s e).free = s.free := pass_free ..
@[simp] theorem advanceTo_ids (s : State) (e : Nat) : (advanceTo s e).ids = s.ids := pass_ids ..
@[simp] theorem advanceTo_mem (s : State) (e : Nat) : (advanceTo s e).mem = s.mem := pass_mem ..
@[simp] theorem advanceTo_prog (s : State) (e : Nat) : (advanceTo s e).prog = s.prog := pass_prog ..
@[simp] theorem advanceTo_poison (s : State) (e : Nat) : (advanceTo s e).poison = s.poison := pass_poison ..
@[simp] theorem advanceTo_mills (s : State) (e : Nat) : (advanceTo s e).mills = s.mills := pass_mills ..
@[simp] theorem advanceTo_race (s : State) (e : Nat) : (advanceTo s e).race = s.race := pass_race ..
@[simp] theorem advanceTo_hop (s : State) (e : Nat) : (advanceTo s e).hop = s.hop := pass_hop ..
@[simp] theorem advanceTo_pond (s : State) (e : Nat) : (advanceTo s e).pond = s.pond := pass_pond ..
@[simp] theorem advanceTo_links (s : State) (e : Nat) : (advanceTo s e).links = s.links := pass_links ..
@[simp] theorem advanceTo_pwr (s : State) (e : Nat) : (advanceTo s e).pwr = s.pwr := pass_pwr ..
@[simp] theorem advanceTo_clk (s : State) (e : Nat) : (advanceTo s e).clk = s.clk := pass_clk ..
@[simp] theorem advanceTo_thm (s : State) (e : Nat) : (advanceTo s e).thm = s.thm := pass_thm ..
@[simp] theorem advanceTo_flt (s : State) (e : Nat) : (advanceTo s e).flt = s.flt := pass_flt ..
@[simp] theorem advanceTo_bst (s : State) (e : Nat) : (advanceTo s e).bst = s.bst := pass_bst ..
@[simp] theorem advanceTo_moraine (s : State) (e : Nat) : (advanceTo s e).moraine = s.moraine := pass_moraine ..
@[simp] theorem advanceTo_bootno (s : State) (e : Nat) : (advanceTo s e).bootno = s.bootno := pass_bootno ..
@[simp] theorem advanceTo_mlr (s : State) (e : Nat) : (advanceTo s e).mlr = s.mlr := pass_mlr ..
@[simp] theorem advanceTo_sec (s : State) (e : Nat) : (advanceTo s e).sec = s.sec := pass_sec ..
@[simp] theorem advanceTo_realms (s : State) (e : Nat) : (advanceTo s e).realms = s.realms := pass_realms ..
@[simp] theorem advanceTo_pins (s : State) (e : Nat) : (advanceTo s e).pins = s.pins := pass_pins ..
@[simp] theorem advanceTo_out (s : State) (e : Nat) : (advanceTo s e).out = s.out := pass_out ..
@[simp] theorem advanceTo_glb_st (s : State) (e : Nat) : (advanceTo s e).glb.st = s.glb.st := pass_glb_st ..
@[simp] theorem advanceTo_glb_bootcode (s : State) (e : Nat) : (advanceTo s e).glb.bootcode = s.glb.bootcode := pass_glb_bootcode ..
@[simp] theorem advanceTo_glb_fgrade (s : State) (e : Nat) : (advanceTo s e).glb.fgrade = s.glb.fgrade := pass_glb_fgrade ..
@[simp] theorem advanceTo_glb_subsys (s : State) (e : Nat) : (advanceTo s e).glb.subsys = s.glb.subsys := pass_glb_subsys ..
@[simp] theorem advanceTo_glb_serial (s : State) (e : Nat) : (advanceTo s e).glb.serial = s.glb.serial := pass_glb_serial ..
@[simp] theorem advanceTo_glb_stat (s : State) (e : Nat) : (advanceTo s e).glb.stat = s.glb.stat := pass_glb_stat ..
@[simp] theorem advanceTo_glb_mask (s : State) (e : Nat) : (advanceTo s e).glb.mask = s.glb.mask := pass_glb_mask ..
@[simp] theorem advanceTo_glb_msix (s : State) (e : Nat) : (advanceTo s e).glb.msix = s.glb.msix := pass_glb_msix ..
@[simp] theorem advanceTo_glb_pba (s : State) (e : Nat) : (advanceTo s e).glb.pba = s.glb.pba := pass_glb_pba ..
@[simp] theorem advanceTo_glb_speed (s : State) (e : Nat) : (advanceTo s e).glb.speed = s.glb.speed := pass_glb_speed ..
@[simp] theorem advanceTo_glb_width (s : State) (e : Nat) : (advanceTo s e).glb.width = s.glb.width := pass_glb_width ..
@[simp] theorem advanceTo_glb_flit (s : State) (e : Nat) : (advanceTo s e).glb.flit = s.glb.flit := pass_glb_flit ..
@[simp] theorem advanceTo_glb_late (s : State) (e : Nat) : (advanceTo s e).glb.late = s.glb.late := pass_glb_late ..
@[simp] theorem advanceTo_glb_busMaster (s : State) (e : Nat) : (advanceTo s e).glb.busMaster = s.glb.busMaster := pass_glb_busMaster ..
@[simp] theorem advanceTo_glb_d3 (s : State) (e : Nat) : (advanceTo s e).glb.d3 = s.glb.d3 := pass_glb_d3 ..
@[simp] theorem advanceTo_glb_fw (s : State) (e : Nat) : (advanceTo s e).glb.fw = s.glb.fw := pass_glb_fw ..
@[simp] theorem advanceTo_glb_readies (s : State) (e : Nat) : (advanceTo s e).glb.readies = s.glb.readies := pass_glb_readies ..
@[simp] theorem advanceTo_glb_dma (s : State) (e : Nat) : (advanceTo s e).glb.dma = s.glb.dma := pass_glb_dma ..

/-- A moment that a command marks is reached, and the clock never goes back (R534). -/
theorem advanceTo_time (s : State) (e : Nat) (h : timeRuns s = true) :
    e ≤ (advanceTo s e).glb.time ∧ s.glb.time ≤ (advanceTo s e).glb.time := by
  rw [advanceTo, pass_time, if_pos h]; omega

end Sys2Proof.Machine
end

