-- ==== Sys2Proof/Tests/Slice0.lean ====
section
/-!
SUPPORT. The author's own tests: the ill-formed encodings that WellFormed refuses, and for every statement with hypotheses a small
state and operands that meet them, with what the command then does. Expected values are worked out from the rules named.
-/
namespace Sys2Proof.Tests

set_option Elab.async false
open Sys2Proof.Machine

/-! ### Ill-formed encodings (R207, R213) -/

theorem test_illFormed_bfi : (Instr.bfi 5 1 2 32 32).wellFormed = false ∧ (Instr.bfi 5 1 2 31 32).wellFormed = true := by decide +kernel

theorem test_illFormed_waitEv : (Instr.waitEv 5 0 false true).wellFormed = false ∧
    (Instr.waitEv 5 1 false true).wellFormed = true := by decide +kernel

theorem test_illFormed_waitCnt : (Instr.waitCnt 5 0 false 0xFFFF true).wellFormed = false ∧
    (Instr.waitCnt 5 0 true 32 true).wellFormed = false ∧ (Instr.waitCnt 5 0 false 0xFFFE true).wellFormed = true := by decide +kernel

theorem test_illFormed_recv : (Instr.recv 5 0 0 false 0xFFFF true).wellFormed = false ∧
    (Instr.recv 5 0 0 true 32 true).wellFormed = false ∧ (Instr.recv 5 0 0 true 31 true).wellFormed = true := by decide +kernel

theorem test_illFormed_tokenAcq : (Instr.tokenAcq 5 false 0x3FF).wellFormed = false ∧
    (Instr.tokenAcq 5 true 32).wellFormed = false ∧ (Instr.tokenAcq 5 false 0x3FE).wellFormed = true := by decide +kernel

theorem test_illFormed_tokenRel : (Instr.tokenRel 5 false 0x3FF).wellFormed = false ∧
    (Instr.tokenRel 5 true 32).wellFormed = false ∧ (Instr.tokenRel 5 true 31).wellFormed = true := by decide +kernel

/-! ### States that the tests begin from -/

/-- Core `c` as `k`, a step of mill 7 in progress over region 0, the device RUNNING and every rail on. -/
def withCore (c : Nat) (k : Core) : State :=
  { State.reset with
    glb := { st := .running, busMaster := true, time := 5000, fw := true }
    regions := [(c / 256, { org := { shape := .full }, pwr := { rails := 15 }, race := { hub := true }, tok := { float := 40 } })]
    mills := [(7, { st := .running, cfg := { owner := true, slot := 3, region := c / 256, w := 16, h := 16 }, inStep := true })]
    cores := [(c, k)] }

/-- A core that issues bundle `pc` of a program of 20, with the scalars given. -/
def running (pc : Nat) (regs : List Nat) : Core :=
  { len := 20, scc := { pc := pc, run := .running, cycles := 3, regs := (regs.zipIdx.map fun p => (p.2, BitVec.ofNat 64 p.1)).filter (·.2 ≠ 0) } }

/-- Does the outcome answer a next state of which `p` holds? -/
def nextIs (o : Outcome) (p : State → Bool) : Bool := match o with | .next t => p t | _ => false

/-- A slot word: the fields given, each at its lowest bit (R202). -/
def word (fs : List (Nat × Nat)) : Nat := (fs.map fun p => p.1 * 2 ^ p.2).sum

/-- `s` with word `w` in slot `k` of the bundle at the program counter of core `c`, and NOP in the slots that hold nothing. -/
def holds (s : State) (c k w : Nat) : State :=
  { s with prog := s.prog ++ (((List.range 4).map fun i => (progAddr c + 16 * (coreOf s c).scc.pc + 4 * k + i, BitVec.ofNat 8 (w / 256 ^ i))).filter (·.2 ≠ 0)) }

/-- Instruction `i`, spelled by the fields given in slot `k` of core 5's bundle, takes effect, and `p` holds after it. -/
def Runs (s : State) (k : Fin 4) (fs : List (Nat × Nat)) (i : Instr) (p : State → Bool) : Prop :=
  TakesEffect (holds s 5 k.val (word fs)) 5 k i ∧ nextIs (exec i (holds s 5 k.val (word fs))) p = true

/-- The bundle that holds the instruction stalls with the cause and detail given. -/
def Stalls (s : State) (k : Fin 4) (fs : List (Nat × Nat)) (i : Instr) (cause detail : Nat) : Prop :=
  inTurn (holds s 5 k.val (word fs)) 5 k i = true ∧ (bundleStall (holds s 5 k.val (word fs)) 5).isSome = true ∧
  nextIs (exec i (holds s 5 k.val (word fs))) (fun t => (coreOf t 5).stall = cause && (coreOf t 5).detail = detail) = true

/-- The code and unit of the newest record. -/
def lastRec (s : State) : Rec := Tbl.get {} s.flt.ring ((s.flt.next + 255) % 256)

/-- A handle of `n` granules from granule `base` of space `sp`, with the rights RD and WR as given (R143). -/
def mkHandle (sp base n : Nat) (rd wr : Bool) : Handle :=
  { w0 := BitVec.ofNat 64 (sp + 16 + (if rd then 32 else 0) + (if wr then 64 else 0) + 256 * base), w1 := BitVec.ofNat 64 n }

/-- Mill 7 is a step owner of the one core 5. -/
def solo (m : Mill) (k : Core) : State :=
  { withCore 5 k with
    mills := [(7, { m with cfg := { owner := true, slot := 3, x0 := 5, w := 1, h := 1 } })]
    hop := { slots := [(3, { st := .loaded })] } }

/-- A section of an image (R245): its type, its length and its body. -/
def sectOf (type : Nat) (body : List Byte) : List Byte :=
  leBytes 2 type ++ List.replicate 6 0 ++ leBytes 8 body.length ++ body ++ List.replicate (roundUp body.length 16 - body.length) 0

/-- An image of `n` sections, of which only what the tests read is filled in. -/
def imageOf (n : Nat) (sections : List Byte) : List Byte := List.replicate 12 0 ++ leBytes 4 n ++ List.replicate 240 0 ++ sections

/-- A device in READY whose firmware runs. -/
def readyDev : State := { State.reset with glb := { st := .ready, busMaster := true, fw := true, time := 9000 } }

/-- The source of every frame in the tests. -/
def src0 : Source := { family := 0, mac := 0xA, ip := 0, udp := 0 }

/-- The session of the tests: slot 0 of unit 0, generation 1, port 0, realm 2, role CLIENT. -/
def x0 : Session := { id := 1, port := 0, subB := false, realm := 2, role := 0, keyid := 9, key := [1, 2, 3], src := src0, rxSeq := 8, txSeq := 4 }

/-- An image that serves mill 7 in unit 0, with one class that QUEUEs, parks KV and allows 100 positions (R260). -/
def serveImage : List Byte :=
  imageOf 1 (sectOf 0xA (leBytes 4 1 ++ leBytes 4 1 ++ leBytes 8 0
    ++ leBytes 2 7 ++ [0, 0] ++ leBytes 2 4 ++ leBytes 2 7 ++ leBytes 2 1 ++ leBytes 2 2 ++ leBytes 2 3 ++ [14] ++ List.replicate 17 0
    ++ [0, 5, 0, 0, 0, 0, 0, 0] ++ leBytes 4 100 ++ leBytes 4 60 ++ leBytes 4 0 ++ leBytes 4 0 ++ leBytes 2 7 ++ List.replicate 6 0))

/-- A device that serves: mill 7 of core 5 in slot 3 of realm 2 with a pool of 4 pages, port 0 up, session `x`, and the requests `rs`. -/
def serving (x : Session) (rs : Tbl Req) : State :=
  { readyDev with
    clk := { gate := 0x3FFFFFFFF }
    glb := { st := .loaded, busMaster := true, fw := true, time := 9000 }
    regions := [(0, { org := { shape := .full, realm := some 2 }, pwr := { rails := 15 } })]
    mills := [(7, { st := .idle, cfg := { owner := true, realm := 2, slot := 3, x0 := 5, w := 1, h := 1, flumes := [{ rd := true, wr := true, base := 0, len := 0x20000 }] } })]
    cores := [(5, { len := 20 })]
    hop := { slots := [(3, { st := .loaded, realm := 2, image := serveImage })] }
    pond := { reqs := rs, pools := [(7, { pages := 4, pageb := 64, vocab := 1000, used := [3], reserved := 1 })] }
    sluice := { ports := [(0, { cfg := 0x41, linkA := true })], sessions := [x] } }

/-! ### The control slot -/

/-- ALU SUB wraps (R207), BFI inserts the low bits at LO, and LIH, LI and ADDI have their fields where R207 puts them. -/
theorem test_scalar :
    let s := withCore 5 (running 4 [0, 3, 5])
    MoreFollow s 5 ∧
    Runs s 0 [(0x0A, 0), (3, 6), (1, 11), (2, 16), (1, 21)] (.alu 5 3 1 2 .sub) (fun t =>
      sreg (coreOf t 5) 3 = 0xFFFFFFFFFFFFFFFE && (coreOf t 5).scc.pc = 5 && Tbl.get (0, false) (coreOf t 5).scc.pend 3 = (0, false)) ∧
    Runs s 0 [(0x0C, 0), (3, 6), (2, 11), (62, 16), (1, 22)] (.bfi 5 3 2 62 1) (fun t => sreg (coreOf t 5) 3 = 0x4000000000000000) ∧
    Runs s 0 [(0x08, 0), (3, 6), (0x1FFFFE, 11)] (.li 5 3 0x1FFFFE) (fun t => sreg (coreOf t 5) 3 = 0xFFFFFFFFFFFFFFFE) ∧
    Runs s 0 [(0x09, 0), (2, 6), (3, 11), (0x8001, 16)] (.lih 5 2 3 0x8001) (fun t => sreg (coreOf t 5) 2 = 0x8001000000000005) ∧
    Runs s 0 [(0x0B, 0), (3, 6), (2, 11), (0xFFFF, 16)] (.addi 5 3 2 0xFFFF) (fun t => sreg (coreOf t 5) 3 = 4) := by
  unfold MoreFollow Runs TakesEffect; decide +kernel

/-- RDSR: its sixteen counts, the step number and the tokens (R207). -/
theorem test_rdsr :
    let s := withCore 5 { running 4 [] with scc := { (running 4 []).scc with cnts := [(15, 9)] }, share := 10, acquired := 2 }
    MoreFollow s 5 ∧ ownerOf s 5 = some 7 ∧
    Runs s 0 [(0x0F, 0), (3, 6), (15, 11)] (.rdsr 5 3 (.counter 15)) (fun t => sreg (coreOf t 5) 3 = 9) ∧
    Runs s 0 [(0x0F, 0), (3, 6), (19, 11)] (.rdsr 5 3 .stepNo) (fun t => sreg (coreOf t 5) 3 = 1) ∧
    Runs s 0 [(0x0F, 0), (3, 6), (16, 11)] (.rdsr 5 3 .cycles) (fun t => sreg (coreOf t 5) 3 = 3) ∧
    Runs s 0 [(0x0F, 0), (3, 6), (17, 11)] (.rdsr 5 3 .time) (fun t => sreg (coreOf t 5) 3 = 5000) ∧
    Runs s 0 [(0x0F, 0), (3, 6), (18, 11)] (.rdsr 5 3 .coreId) (fun t => sreg (coreOf t 5) 3 = 5) ∧
    Runs s 0 [(0x0F, 0), (3, 6), (20, 11)] (.rdsr 5 3 .tokensHeld) (fun t => sreg (coreOf t 5) 3 = 12) ∧
    Runs s 0 [(0x0F, 0), (3, 6), (21, 11)] (.rdsr 5 3 .tokensFree) (fun t => sreg (coreOf t 5) 3 = 12) := by
  unfold MoreFollow Runs TakesEffect; decide +kernel

/-- Branches, LOOP, CALL and RET to the last bundle of the program, the furthest they may go (R207, R208). -/
theorem test_branches :
    let s := withCore 5 { running 4 [0, 1, 5] with scc := { (running 4 [0, 1, 5]).scc with stack := [19, 3, 3, 3, 3, 3, 3] } }
    MoreFollow s 5 ∧ Taken .nez (sreg (coreOf s 5) 2) ∧ ¬ Taken .eqz (sreg (coreOf s 5) 2) ∧ sreg (coreOf s 5) 1 - 1 = 0 ∧
    Runs s 0 [(1, 0), (2, 6), (2, 9), (19, 16)] (.br 5 .nez 2 19) (fun t => (coreOf t 5).scc.pc = 19 && (coreOf t 5).scc.cycles = 5) ∧
    Runs s 0 [(1, 0), (1, 6), (2, 9), (19, 16)] (.br 5 .eqz 2 19) (fun t => (coreOf t 5).scc.pc = 5 && (coreOf t 5).scc.cycles = 4) ∧
    Runs s 0 [(2, 0), (2, 9), (19, 16)] (.loop 5 2 19) (fun t => (coreOf t 5).scc.pc = 19 && sreg (coreOf t 5) 2 = 4) ∧
    Runs s 0 [(2, 0), (1, 9), (19, 16)] (.loop 5 1 19) (fun t => (coreOf t 5).scc.pc = 5 && sreg (coreOf t 5) 1 = 0) ∧
    Runs s 0 [(3, 0), (19, 16)] (.call 5 19) (fun t => (coreOf t 5).scc.pc = 19 && (coreOf t 5).scc.stack.length = 8) ∧
    Runs s 0 [(4, 0)] (.ret 5) (fun t => (coreOf t 5).scc.pc = 19 && (coreOf t 5).scc.stack.length = 6) ∧
    Runs s 0 [] (.nop 5 0) (fun t => (coreOf t 5).scc.pc = 5) ∧ nextIs (exec (.nop 5 3) s) (fun t => decide (t = s)) := by
  unfold MoreFollow Runs TakesEffect Taken; decide +kernel

/-- The first destination that is not below the program length, a ninth CALL, a RET without a CALL, and a bundle past the end. -/
theorem test_program_end :
    let s := withCore 5 (running 4 [0, 1, 5])
    let full := withCore 5 { running 4 [] with scc := { (running 4 []).scc with stack := [3, 3, 3, 3, 3, 3, 3, 3] } }
    let out := withCore 5 { running 4 [] with scc := { (running 4 []).scc with stack := [20] } }
    let last := withCore 5 (running 19 [])
    let past := withCore 5 (running 20 [])
    TakesEffect (holds s 5 0 (word [(4, 0)])) 5 0 (.ret 5) ∧ TakesEffect (holds full 5 0 (word [(3, 0), (3, 16)])) 5 0 (.call 5 3) ∧
    TakesEffect (holds out 5 0 (word [(4, 0)])) 5 0 (.ret 5) ∧ TakesEffect last 5 0 (.nop 5 0) ∧ mayIssue past 5 = true := by
  unfold TakesEffect; decide +kernel

/-- An engine that runs a descriptor of 3 tokens. -/
def busyEng : EngSt := { queue := [], run := some { desc := { w0 := 0x10, seq := 0 }, tokens := 3 } }

/-- FENCE, STEP.END and HALT (R207, R231, R232). -/
theorem test_fence :
    let s := withCore 5 { running 4 [] with engs := [(8, busyEng)] }
    let b := withCore 5 { running 4 [] with engs := [(1, busyEng)] }
    ownerOf s 5 = some 7 ∧ MoreFollow s 5 ∧ unitIdle (coreOf s 5) 9 = true ∧ unitIdle (coreOf b 5) 1 = false ∧
    Runs s 0 [(5, 0), (0x100, 6)] (.fence 5 0x100) (fun t => (coreOf t 5).scc.pc = 5) ∧
    Stalls b 0 [(5, 0), (0x1FF, 6)] (.fence 5 0x1FF) 0xD 1 := by
  unfold MoreFollow Runs TakesEffect Stalls; decide +kernel

theorem test_stepEnd_halt :
    let s := withCore 5 { running 19 [] with flume := [(2, .done)], acquired := 4 }
    let b := withCore 5 { running 19 [] with engs := [(1, busyEng)] }
    ownerOf s 5 = some 7 ∧ coreIdle (coreOf s 5) = true ∧ coreIdle (coreOf b 5) = false ∧ (millOf s 7).dstate ≠ .draining ∧
    Runs s 0 [(6, 0)] (.stepEnd 5) (fun t => (coreOf t 5).scc.run = .ended && (coreOf t 5).flume = [] && (millOf t 7).ended = [5]) ∧
    Stalls b 0 [(6, 0)] (.stepEnd 5) 0xE 0 ∧
    TakesEffect (holds s 5 0 (word [(7, 0)])) 5 0 (.halt 5) := by
  unfold Runs TakesEffect Stalls; decide +kernel

/-- A scalar that an ALU of the bundle before still computes, and a scalar that an LD is to bring (R217, R243). -/
theorem test_scalar_wait :
    let s := withCore 5 { running 4 [0, 3] with scc := { (running 4 [0, 3]).scc with pend := [(1, (4, false)), (2, (4, true))] } }
    Stalls s 0 [(0x0B, 0), (3, 6), (1, 11), (1, 16)] (.addi 5 3 1 1) 1 1 ∧
    Stalls s 0 [(0x08, 0), (2, 6)] (.li 5 2 0) 1 2 ∧
    Runs s 0 [(0x08, 0), (1, 6)] (.li 5 1 0) (fun t => (coreOf t 5).scc.pc = 5) := by
  unfold Runs TakesEffect Stalls; decide +kernel

/-- The last 8 bytes of a handle of 32 bytes: ST stores the lowest byte first, LD reads them back, and meets an upset (R136, R209). -/
theorem test_ld_st :
    let s := withCore 5 { running 4 [0, 24, 0x1122334455667788] with handles := [(9, mkHandle 1 0x10 2 true true)] }
    let a := coreAddr 5 1 0x118
    MoreFollow s 5 ∧ (handleOf (coreOf s 5) 9).len = 32 ∧ narrowAddr s 5 9 24 false = .ok a ∧ narrowAddr s 5 9 24 true = .ok a ∧
    fld a 34 14 = 5 ∧ fld a 30 4 ≠ 0 ∧ s.poison = [] ∧
    Runs s 0 [(0xE, 0), (2, 6), (9, 11), (1, 17)] (.st 5 2 9 1 []) (fun t =>
      readByte t a = 0x88 && readByte t (a + 7) = 0x11 && (coreOf t 5).scc.pc = 5) ∧
    Runs { s with mem := [(a, 0x88), (a + 7, 0x11)] } 0 [(0xD, 0), (3, 6), (9, 11), (1, 17)] (.ld 5 3 9 1 []) (fun t =>
      sreg (coreOf t 5) 3 = 0x1100000000000088 && Tbl.get (0, false) (coreOf t 5).scc.pend 3 = (7, true)) := by
  unfold MoreFollow Runs TakesEffect; decide +kernel

/-- The failures of R209 in their order, each at the first value that breaks it. -/
theorem test_ld_st_refused :
    let s := withCore 5 { running 4 [0, 25, 0, 0] with
      handles := [(9, mkHandle 1 0x10 3 false true), (10, mkHandle 0 0 3 true true), (11, mkHandle 1 0 2 true true)] }
    let u := withCore 5 { running 4 [0, 32] with handles := [(11, mkHandle 1 0 2 true true)] }
    (handleOf (coreOf s 5) 12).valid = false ∧ (handleOf (coreOf u 5) 11).len < 32 + 8 ∧
    (∀ i ∈ [(Instr.ld 5 3 9 1 [], s, word [(0xD, 0), (3, 6), (9, 11), (1, 17)]), (.st 5 3 10 2 [], s, word [(0xE, 0), (3, 6), (10, 11), (2, 17)]),
      (.st 5 3 12 2 [], s, word [(0xE, 0), (3, 6), (12, 11), (2, 17)]), (.ld 5 3 9 2 [], s, word [(0xD, 0), (3, 6), (9, 11), (2, 17)]),
      (.st 5 3 11 1 [], u, word [(0xE, 0), (3, 6), (11, 11), (1, 17)])], TakesEffect (holds i.2.1 5 0 i.2.2) 5 0 i.1) := by
  unfold TakesEffect; decide +kernel

/-! ### The issue slots -/

/-- A descriptor joins a queue that holds three, and not one that holds four; the bundle waits for room for both of its ISSUEs (R41, R204,
R211). -/
theorem test_issue :
    let d : Desc := {}
    let s := withCore 5 { running 4 [7, 8, 9, 10] with seq := 6, engs := [(4, { queue := [d, d, d] }), (5, { queue := [d, d, d, d] })] }
    let two := holds (holds s 5 1 0x14) 5 2 0x54
    (engOf (coreOf s 5) .nau).queue.length = 3 ∧ (engOf (coreOf s 5) .qtz).queue.length = 4 ∧
    Runs s 1 [(0x14, 0)] (.issueNau 5 0) (fun t =>
      (engOf (coreOf t 5) .nau).queue = [d, d, d, { w0 := 7, w1 := 8, w2 := 9, w3 := 10, pc := 4, seq := 6 }]) ∧
    Stalls s 2 [(0x15, 0)] (.issueQtz 5 0) 3 5 ∧
    bundleStall two 5 = some (.queue, 3, 4) ∧ inTurn two 5 1 (.issueNau 5 0) = true ∧ nextIs (exec (.issueNau 5 0) two) (fun t => (coreOf t 5).stall = 3) := by
  unfold Runs TakesEffect Stalls; decide +kernel

/-- SETH of a good entry and of one past the end of space 1 by a granule; handle 9 in use (R144, R147). -/
theorem test_seth :
    let s := withCore 5 (running 4 [0x2FFFF71, 1, 0x2FFFF71, 2])
    let b := withCore 5 { running 4 [0x2FFFF71, 1] with ops := [{ seq := 0, rd := [9], wr := [] }], handles := [(9, mkHandle 1 0 2 true true)] }
    handleIdle s 5 9 = true ∧ handleIdle b 5 9 = false ∧
    checkHandle s 5 9 { w0 := 0x2FFFF71, w1 := 1 } = none ∧ checkHandle s 5 9 { w0 := 0x2FFFF71, w1 := 2 } = some .length ∧
    Runs s 2 [(0x20, 0), (9, 6), (0, 12)] (.setH 5 9 0) (fun t =>
      handleOf (coreOf t 5) 9 = { w0 := 0x2FFFF71, w1 := 1 } && handleOf (coreOf t 5) 8 = {}) ∧
    TakesEffect (holds s 5 1 (word [(0x20, 0), (9, 6), (1, 12)])) 5 1 (.setH 5 9 1) ∧
    Stalls b 1 [(0x20, 0), (9, 6), (0, 12)] (.setH 5 9 0) 2 9 := by
  unfold Runs TakesEffect Stalls; decide +kernel

/-- The checks of R144, each broken by one value; window 15 over a slice of chip shared memory names no handle. -/
theorem test_handle_checks :
    let w : Window := { opened := true, w0 := 0x200000009, w1 := 0x1007 }
    let s := withCore 5 { running 4 [] with boundary := 1, windows := [(0, w), (15, { opened := true })] }
    (∀ p ∈ (coreOf s 5).windows, p.2.opened = true → p.2.len ≠ 0 → p.2.handle ≠ 0) ∧
    checkHandle s 5 8 (mkHandle 5 0 1 true false) = some .format ∧
    checkHandle s 5 8 (mkHandle 2 0xFFFF 2 true false) = some .length ∧
    checkHandle s 5 8 (mkHandle 0 0xFFF 1 false true) = some .window ∧
    checkHandle s 5 8 (mkHandle 0 0xFFF 1 true false) = none ∧
    checkHandle s 5 0 (mkHandle 0 0xFFF 1 true false) = none ∧
    checkHandle s 5 9 (mkHandle 0 0xFFF 1 true false) = some .state := by decide +kernel

/-- OPENW over the whole of handle 9, and over a granule more; CLOSEW of an open window, a closed one, and one with an access in
progress (R150, R154). -/
theorem test_windows :
    let e : Window := { opened := true, w0 := 0x200000009, w1 := 0x1007 }
    let k := { running 4 [0x200000009, 0x1007, 0x300000009, 0x1007] with handles := [(9, mkHandle 1 0 2 true true)], windows := [(3, e)] }
    let s := withCore 5 k
    let i : Incoming := { acc := 1, src := .core 4, core := 5, win := 3, kind := .write, plane := .a, dest := 0, len := 8, got := 0 }
    let b := { s with race := { incoming := [i] } }
    checkWindow s 5 2 e = none ∧ checkWindow s 5 2 { e with w0 := 0x300000009 } = some .length ∧
    Runs s 1 [(0x21, 0), (2, 6), (0, 10)] (.openW 5 2 0) (fun t => windowOf (coreOf t 5) 2 = e && windowOf (coreOf t 5) 3 = e) ∧
    TakesEffect (holds s 5 1 (word [(0x21, 0), (2, 6), (1, 10)])) 5 1 (.openW 5 2 1) ∧
    Runs s 1 [(0x22, 0), (3, 6)] (.closeW 5 3) (fun t => windowOf (coreOf t 5) 3 = { e with opened := false }) ∧
    TakesEffect (holds s 5 2 (word [(0x22, 0), (2, 6)])) 5 2 (.closeW 5 2) ∧
    Stalls b 2 [(0x22, 0), (3, 6)] (.closeW 5 3) 7 3 := by
  unfold Runs TakesEffect Stalls; decide +kernel

/-! ### The move/sync slot -/

/-- WAIT.EV with all events there, with one of two, and without any; WAIT.CNT at the count, one above it, and LENGTH (R213-R215). -/
theorem test_waits :
    let s := withCore 5 { running 4 [0xFFFF, 9] with scc := { (running 4 [0xFFFF, 9]).scc with evs := 0x0003, cnts := [(15, 9)] } }
    Runs s 3 [(1, 0), (3, 6), (1, 23)] (.waitEv 5 3 false true) (fun t => (coreOf t 5).scc.evs = 0) ∧
    Runs s 3 [(1, 0), (6, 6), (1, 22)] (.waitEv 5 6 true false) (fun t => (coreOf t 5).scc.evs = 3) ∧
    Stalls s 3 [(1, 0), (6, 6), (1, 23)] (.waitEv 5 6 false true) 0xA 2 ∧
    Runs s 3 [(2, 0), (15, 6), (9, 11), (1, 27)] (.waitCnt 5 15 false 9 true) (fun t => Tbl.get 0 (coreOf t 5).scc.cnts 15 = 0) ∧
    Stalls s 3 [(2, 0), (15, 6), (10, 11), (1, 27)] (.waitCnt 5 15 false 10 true) 0xB 15 ∧
    TakesEffect (holds s 5 3 (word [(2, 0), (15, 6), (1, 10), (1, 27)])) 5 3 (.waitCnt 5 15 true 0 true) ∧
    Runs s 3 [(2, 0), (15, 6), (1, 10), (1, 11)] (.waitCnt 5 15 true 1 false) (fun t => Tbl.get 0 (coreOf t 5).scc.cnts 15 = 9) := by
  unfold Runs TakesEffect Stalls; decide +kernel

/-- TOKEN.ACQ of the whole float and of one more; TOKEN.REL of what the core acquired and of one more (R230). -/
theorem test_tokens :
    let s := withCore 5 { running 4 [] with acquired := 4 }
    (regionOf s 0).tok.waiting = [] ∧ (regionOf s 0).pwr.ilimHold = false ∧ effFloat s 0 = 40 ∧ releasable s 5 = 4 ∧
    Runs s 3 [(8, 0), (40, 7)] (.tokenAcq 5 false 40) (fun t => (coreOf t 5).acquired = 44 && (regionOf t 0).tok.granted = 40) ∧
    Stalls s 3 [(8, 0), (41, 7)] (.tokenAcq 5 false 41) 8 0 ∧
    nextIs (exec (.tokenAcq 5 false 41) (holds s 5 3 (word [(8, 0), (41, 7)]))) (fun t => (regionOf t 0).tok.waiting = [(5, 41)]) = true ∧
    TakesEffect (holds s 5 3 (word [(9, 0), (5, 7)])) 5 3 (.tokenRel 5 false 5) ∧
    Runs s 3 [(9, 0), (4, 7)] (.tokenRel 5 false 4) (fun t => (coreOf t 5).acquired = 0) := by
  unfold Runs TakesEffect Stalls; decide +kernel

/-- SEND: 0 bytes, a PLANE of 2, and a full RIF (R167, R219, R221). -/
theorem test_send :
    let s := withCore 5 (running 4 [0, 0, 0x2B3, 0, 0, 0x200000000000000])
    let b := withCore 5 { running 4 [] with sends := List.replicate 8 { id := 1, seq := 0, pc := 0, ev := 0, evEn := false, cnt := 0, cntEn := false } }
    TakesEffect (holds s 5 3 (word [(3, 0), (1, 6)])) 5 3 (.send 5 1 false []) ∧
    Runs s 3 [(3, 0)] (.send 5 0 false []) (fun t => (coreOf t 5).scc.evs = 8 && Tbl.get 0 (coreOf t 5).scc.cnts 10 = 1) ∧
    Stalls b 3 [(3, 0), (1, 9)] (.send 5 0 true []) 4 0 ∧
    (coreOf s 5).sends = [] ∧ (coreOf s 5).ops = [] ∧ (coreOf s 5).arms = [] ∧
    bits (sendWord (coreOf s 5) 0 2) 10 54 = 0 ∧ checkSend s 5 0 0 0 = none ∧
    (checkSend s 5 (sendWord (coreOf s 5) 1 0) (sendWord (coreOf s 5) 1 1) (sendWord (coreOf s 5) 1 3)).map (·.code) = some .format ∧
    8 ≤ (coreOf b 5).sends.length := by
  unfold Runs TakesEffect Stalls; decide +kernel

/-- RECV of 0, of the most that an immediate can name, and on a closed window (R213, R222). -/
theorem test_recv :
    let e : Window := { opened := true, w0 := 0x200000009, w1 := 0x1007 }
    let s := withCore 5 { running 4 [0, 0xFFFF] with handles := [(9, mkHandle 1 0 2 true true)], windows := [(15, e)] }
    TakesEffect (holds s 5 3 (word [(4, 0), (0, 6), (2, 10), (0xFFFE, 15), (1, 31)])) 5 3 (.recv 5 0 2 false 0xFFFE true) ∧
    Runs s 3 [(4, 0), (2, 10), (1, 31)] (.recv 5 0 2 false 0 true) (fun t => (coreOf t 5).scc.evs = 4 && (coreOf t 5).arms = []) ∧
    Runs s 3 [(4, 0), (15, 6), (2, 10), (0xFFFE, 15), (1, 31)] (.recv 5 15 2 false 0xFFFE true) (fun t => (armOf (coreOf t 5) 15).left = 0xFFFE) ∧
    TakesEffect (holds s 5 3 (word [(4, 0), (15, 6), (2, 10), (1, 14), (1, 15), (1, 31)])) 5 3 (.recv 5 15 2 true 1 true) ∧
    (sreg (coreOf s 5) 1).toNat = 0xFFFF ∧
    (windowOf (coreOf s 5) 0).opened = false ∧ (windowOf (coreOf s 5) 15).opened = true ∧ alwaysArmed s 5 15 = false ∧
    alwaysArmed { s with mills := [(7, { st := .running, inStep := true, cfg := { owner := true, slot := 3, w := 16, h := 16, csm := 0x10000 } })] } 5 15 = true := by
  unfold Runs TakesEffect; decide +kernel

/-- FLM.RD of 64 bytes to the end of Snowpack, of 0 bytes, without a token, and with a TMO of 0 (R224, R225). -/
theorem test_flume :
    let k := { running 4 [0xBFFFFFFFC0, 0x4000000009, 1, 0, 0, 9, 1, 0, 0, 9] with handles := [(9, mkHandle 1 0 4 true true)], share := 10 }
    let s := withCore 5 k
    let b := withCore 5 { k with share := 0 }
    TakesEffect (holds s 5 3 (word [(5, 0), (7, 6), (15, 9), (2, 13)])) 5 3 (.flmRd 5 7 15 2) ∧
    Runs s 3 [(5, 0), (7, 6), (15, 9)] (.flmRd 5 7 15 0) (fun t => (tagAt (coreOf t 5) 7 15).isBusy && tagAt (coreOf t 5) 7 14 = .idle) ∧
    Runs s 3 [(6, 0), (7, 6), (15, 9), (1, 13)] (.flmWr 5 7 15 1) (fun t => tagAt (coreOf t 5) 7 15 = .done) ∧
    Stalls b 3 [(5, 0), (7, 6), (15, 9)] (.flmRd 5 7 15 0) 8 0 ∧
    freeTokens s 5 ≠ 0 ∧ freeTokens b 5 = 0 ∧
    checkFlume s 5 false 7 15 0xBFFFFFFFC0 0x4000000009 1 0 = none ∧ checkFlume s 5 false 7 15 0xC000000000 0x4000000009 1 0 = some .length ∧
    checkFlume s 5 false 7 15 0 9 0 0 = some .format := by
  unfold Runs TakesEffect Stalls; decide +kernel

/-- FLM.WAIT on a DONE, a BUSY and an IDLE tag (R227). -/
theorem test_flume_wait :
    let x : FlumeT := { write := false, sn := 0, loc := 0, len := 64, tmo := 1, issued := 0, ev := 0, evEn := false, seq := 0, pc := 0 }
    let s := withCore 5 { running 4 [] with flume := [(18, .done), (19, .busy x)] }
    TakesEffect (holds s 5 3 (word [(7, 0), (1, 6), (4, 9)])) 5 3 (.flmWait 5 1 4) ∧
    Runs s 3 [(7, 0), (1, 6), (2, 9)] (.flmWait 5 1 2) (fun t => tagAt (coreOf t 5) 1 2 = .idle) ∧
    Stalls s 3 [(7, 0), (1, 6), (3, 9)] (.flmWait 5 1 3) 0xC 19 ∧
    tagAt (coreOf s 5) 1 2 = .done ∧ tagAt (coreOf s 5) 1 3 = .busy x ∧ tagAt (coreOf s 5) 1 4 = .idle := by
  unfold Runs TakesEffect Stalls; decide +kernel

/-! ### Descriptors -/

/-- Bytes of 8-byte words from `a`, lowest byte first. -/
def wordsAt (a : Nat) (ws : List Nat) : List Host.Cell :=
  ((ws.flatMap (leBytes 8)).zipIdx.map fun p => (a + p.2, p.1)).filter (·.2 ≠ 0)

/-- Handles 1 and 2 cover spaces 0x1 and 0x2 whole, for reading and writing; handle 0 space 0x0 for reading. -/
def wide : Tbl Handle := [(0, mkHandle 0 0 0x1000 true false), (1, mkHandle 1 0 0x30000 true true), (2, mkHandle 2 0 0x10000 true true)]

/-- The ORF of byte `16 n` of handle `h`. -/
def orf (h n : Nat) : Nat := h + 256 * n

/-- Two ORFs in one word. -/
def orfs (lo hi : Nat) : Nat := lo + 2 ^ 32 * hi

/-- A descriptor of engine `e` with OP `op`: the fields above bit 32 of W0, then W1 to W3. -/
def mkDesc (e : Eng) (op hi w1 w2 w3 : Nat) : Desc :=
  { w0 := BitVec.ofNat 64 (e.num + 16 * op + 0x3300 + 2 ^ 32 * hi), w1 := BitVec.ofNat 64 w1, w2 := BitVec.ofNat 64 w2, w3 := BitVec.ofNat 64 w3, seq := 8 }

/-- Core 5 with `d` at the head of engine `e`; in space 0x1 a tensor header of format `fmt` at 0, a page list at 0x800, and `more`. -/
def headState (e : Eng) (d : Desc) (fmt : Nat) (more : List Host.Cell) : State :=
  let s := withCore 5 { running 4 [] with
    share := 10, handles := wide, engs := [(e.num, { queue := [d, {}] })], ops := [{ seq := 8, rd := [], wr := [] }], seq := 9 }
  { s with
    mem := wordsAt (coreAddr 5 1 0) [0x3F800000 + 2 ^ 32 * fmt]
      ++ wordsAt (coreAddr 5 1 0x800) [1, 0x1000000000000, 0x9C0, 0, 4] ++ more,
    mills := [(7, { st := .running, inStep := true
                    cfg := { owner := true, slot := 3, w := 16, h := 16, flumes := [{ rd := true, wr := true, base := 0, len := 0x10000 }] } })]
    regions := s.regions ++ (List.range 63).map fun r => (r + 1, { pwr := { rails := 15 } })
    snow := { ctl := [(0, { ready := 0x3F }), (1, { ready := 0x3F }), (2, { ready := 0x3F }), (3, { ready := 0x3F })] } }

/-- MayBegin as a check that can be evaluated, with the checks of the operands, of what is read before data move, and of the data. -/
def begins (x : EngineCommand) (s : State) (d : Desc) : Bool :=
  let p := planOf s 5 x.eng d
  (coreOf s 5).scc.working && !held s 5 && decide (engOf (coreOf s 5) x.eng = { queue := [d, {}], run := none }) && decide (descOp d = x.op) &&
  p.encoding && decide (bits d.w0 0 4 = x.eng.num) && decide (bits d.w0 20 12 = 0) && p.counts.all (fun n => !countBad n && decide (n.1 ≠ 0)) &&
  mayStart s 5 d.seq p.reads p.writes [] && !windowBlocks s 5 ((p.operands.filter (·.wr)).map (fun x => operandRange s 5 x) ++ p.more) &&
  p.flq.all (fun q => !queueBehind (coreOf s 5) q d.seq) && decide (p.tokens ≤ freeTokens s 5) && !(regionOf s 0).pwr.ilimHold &&
  s.poison.isEmpty && !parkHeld s 5 && decide (checkOperands s 5 p.operands = none) && decide (x.structs 5 s d = none) &&
  (x.run 5 s d).2.isNone

/-- One operation to start: its descriptor, the format of the header, and more bytes. -/
def start (e : Eng) (op hi w1 w2 w3 fmt : Nat) (more : List Host.Cell) : Eng × Nat × Desc × Nat × List Host.Cell :=
  (e, op, mkDesc e op hi w1 w2 w3, fmt, more)

/-- The descriptors that the tests start, one for each operation, with the format of the header and the bytes that the test adds. -/
def starts : List (Eng × Nat × Desc × Nat × List Host.Cell) :=
  let a1 := coreAddr 5 1
  [(start .me 0 513 (orfs (orf 1 0) (orf 1 0)) 0x100000000 (orf 2 0) 0 []),
   (start .me 1 513 (orfs (orf 1 0) (orf 1 0)) 0x100000000 (orf 2 0) 4 []),
   (start .me 2 4194817 (orfs (orf 1 0) (orf 1 0)) (orf 1 0x100) (orf 2 0) 0 []),
   (start .spu 0 513 (orfs (orf 1 0) (orf 1 0)) 0x100000000 (orf 2 0) 0 []),
   (start .spu 1 513 (orfs (orf 1 0) (orf 1 0)) 0x100000000 (orf 2 0) 0 []),
   (start .asu 0 2163201 (orfs (orf 1 0) (orf 1 0x80)) (orf 1 0x100) (orf 1 0x200) 0 []),
   (start .asu 1 65537 (orfs (orf 1 0) (orf 1 0x200)) (orf 1 0x100) 0 0 (wordsAt (a1 0x2000) [0x100000001, 0, 0x3F800000, 0])),
   (start .kse 0 1 (orfs (orf 1 0) (orf 1 0x80)) 0 0 0 (wordsAt (a1 0x30) [0x3F800000])),
   (start .kse 1 1 (orfs 0 (orf 1 0x80)) 0 0x400 0 []),
   (start .kse 2 1 (orfs 0 (orf 1 0x80)) 0 0x400 0 []),
   (start .qtz 0 513 (orf 1 0) (orfs (orf 1 0x100) 0x3F800000) 0 0 []),
   (start .rtu 0 525313 (orf 1 0) (orf 1 0x100) 0 0 []),
   (start .rtu 1 524289 (orfs (orf 1 0x300) (orf 1 0x200)) (orf 1 0x100) 0 0 []),
   (start .smp 0 1025 (orf 1 0) (orf 1 0x100) 0x1000000000000 0 []),
   (start .smp 1 513 (orfs (orf 1 0x200) (orf 1 0x300)) (orf 1 0x100) 0x1000000000000 0 (wordsAt (a1 0x2000) [0, 1])),
   (start .smp 2 513 (orfs (orf 1 0x200) (orf 1 0x300)) (orf 1 0x100) 0x1000000000000 0 (wordsAt (a1 0x2000) [0, 1] ++ wordsAt (a1 0x3000) [0, 0x100000000]))]
  ++ [0, 1].map (fun op => (start .nau op 1025 (orf 1 0) (orf 1 0x100) (orf 1 0x200) 0 []))
  ++ [2, 4, 5].map (fun op => (start .nau op 1025 (orfs (orf 1 0) (orf 1 0)) (orf 1 0x100) 0 0 []))
  ++ [3, 6, 7, 8].map (fun op => (start .nau op 1025 (orf 1 0) (orf 1 0x100) 0 0 []))
  ++ [(start .nau 9 536871937 (orf 1 0) (orf 1 0x100) (orf 1 0x200) 0 []),
      (start .nau 10 513 (orfs (orf 1 0) (orf 1 0x300)) (orf 1 0x100) (orf 1 0x200) 0 (wordsAt (a1 0x2000) [0, 0x3F80000000000000]))]

/-- Does the operation `e`, `op` of the list above begin? -/
def beginsAt (e : Eng) (op : Nat) : Bool :=
  match starts.find? fun x => x.1 = e && x.2.1 = op, engineCommands.find? fun x => x.eng = e && x.op = op with
  | some (_, _, d, fmt, more), some x => begins x (headState e d fmt more) d
  | _, _ => false

/-- Does the command then answer a state in which the engine runs the descriptor, with the next one behind it? -/
def runsAt (e : Eng) (op : Nat) : Bool :=
  match starts.find? fun x => x.1 = e && x.2.1 = op, engineCommands.find? fun x => x.eng = e && x.op = op with
  | some (_, _, d, fmt, more), some x => nextIs (exec (x.make 5 []) (headState e d fmt more)) fun t =>
      (engOf (coreOf t 5) e).run.any (fun r => decide (r.desc = d)) && decide ((engOf (coreOf t 5) e).queue = [{}])
  | _, _ => false

/-- Every operation of every engine begins on some operands (R577), and completes. -/
theorem test_begins_me :
    (beginsAt .me 0 && beginsAt .me 1 && beginsAt .me 2) = true := by decide +kernel
theorem test_begins_spu :
    (beginsAt .spu 0 && beginsAt .spu 1) = true := by decide +kernel
theorem test_begins_asu :
    (beginsAt .asu 0 && beginsAt .asu 1) = true := by decide +kernel
theorem test_begins_nau_rows :
    (beginsAt .nau 0 && beginsAt .nau 1 && beginsAt .nau 9 && beginsAt .nau 10) = true := by decide +kernel
theorem test_begins_nau :
    ([2, 3, 4, 5, 6, 7, 8].all (beginsAt .nau)) = true := by decide +kernel
theorem test_begins_qtz :
    beginsAt .qtz 0 = true := by decide +kernel
theorem test_begins_kse :
    (beginsAt .kse 0 && beginsAt .kse 1 && beginsAt .kse 2) = true := by decide +kernel
theorem test_begins_rtu :
    (beginsAt .rtu 0 && beginsAt .rtu 1) = true := by decide +kernel
theorem test_begins_smp :
    (beginsAt .smp 0 && beginsAt .smp 1 && beginsAt .smp 2) = true := by decide +kernel

/-- ADD of BF16 1.0 and 2.0 in correctly rounded mode is 3.0, and leaves what lies behind D alone (R62, R63). -/
theorem test_add :
    let d := mkDesc .nau 4 (1 + 2 ^ 9 + 2 ^ 26) (orf 1 0x10 + 2 ^ 32 * orf 1 0x11) (orf 1 0x100) 0
    let a1 := coreAddr 5 1
    let s := headState .nau d 0 (wordsAt (a1 0x1000) [0xAAAABBBB])
    let s := { s with mem := wordsAt (a1 0x100) [0x3F80, 0, 0x4000] ++ wordsAt (a1 0x1000) [0xAAAABBBB] }
    nauExact s 5 d = true ∧
    nextIs (exec (.add 5 []) s) (fun t => readNum t (a1 0x1000) 4 = 0xAAAA4040) := by decide +kernel

/-- The start checks of R577 that fail, each at the first value that breaks it, and a count of 0. -/
theorem test_start_checks :
    let mk := fun (hi : Nat) (w1 : Nat) => mkDesc .nau 4 hi w1 (orf 1 0x100) 0
    let ab := orf 1 0 + 2 ^ 32 * orf 1 0
    let at' := fun (d : Desc) => headState .nau d 0 []
    let poor := fun (d : Desc) => { at' d with cores := [(5, { coreOf (at' d) 5 with share := 0 })] }
    let out := fun (d : Desc) (p : State → Bool) => nextIs (exec (.add 5 []) (at' d)) p
    out (mk (2 ^ 9) ab) (fun t => (coreOf t 5).scc.evs = 8 && Tbl.get 0 (coreOf t 5).scc.cnts 12 = 0 &&
      (engOf (coreOf t 5) .nau).queue = [{}] && (coreOf t 5).ops = []) ∧
    nextIs (exec (.add 5 []) (poor (mk (1 + 2 ^ 9) ab))) (fun t => (engOf (coreOf t 5) .nau).queue.length = 2 && Tbl.get 0 (coreOf t 5).cnt.slack 12 = 1) ∧
    (planOf (at' (mk (1 + 2 ^ 9 + 2 ^ 28) ab)) 5 .nau (mk (1 + 2 ^ 9 + 2 ^ 28) ab)).encoding = false ∧
    (planOf (at' {}) 5 .nau (mk (257 + 2 ^ 9) ab)).counts.any countBad = true ∧
    (planOf (at' {}) 5 .nau (mk (256 + 2 ^ 9) ab)).counts.any countBad = false ∧
    (checkOperands (at' {}) 5 (planOf (at' {}) 5 .nau (mk (1 + 2 ^ 9) (orf 9 0))).operands).map (·.code) = some .format := by decide +kernel

/-- DESCRIPTOR_COMPLETE frees the engine and sets event 3 (R47). -/
theorem test_complete :
    let d := mkDesc .nau 4 0 0 0 0
    let s := withCore 5 { running 4 [] with engs := [(4, { queue := [{}], run := some { desc := d, tokens := 1 } })], ops := [{ seq := 8, rd := [1], wr := [] }] }
    let m := { s with links := [(0, { queues := [(0, { sendq := [{ id := 0, bytes := [1] }] })] })],
                      cores := [(5, { running 4 [] with engs := [(6, { run := some { desc := d, tokens := 1, msgs := (0, 1) } })] })] }
    messagesSent m 0 1 = false ∧ nextIs (exec (.descriptorComplete 5 .kse false) m) (fun t => decide (t = m)) ∧
    (engOf (coreOf s 5) .nau).run.isSome = true ∧ (coreOf s 5).sends = [] ∧ (coreOf s 5).arms = [] ∧
    messagesSent s 0 0 = true ∧
    nextIs (exec (.descriptorComplete 5 .nau true) s) (fun t =>
      (coreOf t 5).scc.evs = 8 && (coreOf t 5).cnt.slack ≠ [] && (engOf (coreOf t 5) .nau).run.isNone && (coreOf t 5).ops = []) := by decide +kernel

/-- A sum at each end of 112 bits, and one that had overflowed (R99); the encodings nearest to a format's ends (R88, R89). -/
theorem test_numbers :
    let w : Int → Bool → Lacc := fun x o => { sum := x, res := mod7 x, ovf := o, unit := false, touched := true }
    laccOf (laccBits (w (2 ^ 111 - 1) false)) = w (2 ^ 111 - 1) false ∧ laccOf (laccBits (w (-2 ^ 111) false)) = w (-2 ^ 111) false ∧
    laccRead (w (2 ^ 111 - 1) false) = none ∧ laccRead (w 0 true) = some .overflow ∧
    roundEx 24 (decode32 1).ex = 1 ∧ roundEx 24 (decode32 0xFF7FFFFF).ex = 0xFF7FFFFF ∧ roundEx 8 (decode16 0x8001).ex = 0x8001 ∧
    roundEx 8 (decode16 0x7F7F).ex = 0x7F7F := by decide +kernel

/-- MATMUL of two rows of 32 FP4 codes of 1.0 at block scales of 1.0, INIT, OUTMODE 2: the word holds 32 in units of 2^-20 and D the FP32
value 32.0; with a block scale of ZERO both are 0 (R55, R84, R97, R108). -/
theorem test_matmul :
    let a1 := coreAddr 5 1
    let d := mkDesc .me 0 (1 + 2 ^ 9 + 2 ^ 23 + 2 ^ 25) (orfs (orf 1 0) (orf 1 0x10)) (orf 1 0x100 + 2 ^ 32) (orf 2 0)
    let row := [0x2222222222222222, 0x2222222222222222]
    let mem := fun (sc : Nat) => wordsAt (a1 0) ([0x3F800000, 0] ++ row ++ [sc]) ++ wordsAt (a1 0x100) ([0x3F800000, 0] ++ row ++ [0x38])
    let at' := fun (sc : Nat) => { headState .me d 0 [] with mem := mem sc }
    let s := at' 0x38
    let a := tensAt s (meA s 5 d) (meM d) (meKblk d)
    let b := tensAt s (meB s 5 d) (meN d) (meKblk d)
    (engineCommands.find? fun x => x.eng = .me && x.op = 0).any (fun x => begins x s d && begins x (at' 0) d) = true ∧
    nextIs (exec (.matmul 5 []) s) (fun t => readNum t (a1 0x1000) 4 = 0x42000000 &&
      decide ((laccOf (readNum t (coreAddr 5 2 0) 16)).sum = 32 * 2 ^ 20)) ∧
    nextIs (exec (.matmul 5 []) (at' 0)) (fun t => readNum t (a1 0x1000) 4 = 0 && (laccOf (readNum t (coreAddr 5 2 0) 16)).touched) ∧
    ((List.range 32).all fun k => (match spillA10 s a 0 k with | .ok v => v = 1024 | .error _ => false) &&
      decide (b.value10 s 0 k = some 1024)) = true ∧
    a.replayRanges s = [] ∧ tensorBytes 1 1 (readBytes s a.addr 16) = 48 ∧ a.addr = a1 0 ∧ b.addr = a1 0x100 ∧
    (placeOf s 5 (lo32 d.w2)).addr = a1 0x1000 ∧ (placeOf s 5 (lo32 d.w3)).addr = coreAddr 5 2 0 ∧
    encodeFl 24 false 0 (2 ^ 318) false = 0 := by decide +kernel

/-- A WRITE of 520 bytes leaves in packets of 512 and 8, a READ as a request on plane K, and both wait for their RESPONSE (R166, R176, R221). -/
theorem test_send_accesses :
    let d := coreAddr 9 1 0 + 3 * 2 ^ 52
    let k := { running 4 [d, 9 + 520 * 2 ^ 32, 0, 0, d, 8 * 2 ^ 32 + 2 ^ 56 + 2 * 2 ^ 58, 0, 9] with handles := [(9, mkHandle 1 0 0x100 true true)] }
    let s := withCore 5 k
    let sound := fun (sg : Fin 8) => decide (checkSend s 5 (sendWord k sg 0) (sendWord k sg 1) (sendWord k sg 3) = none) &&
      !heldAtSource s 5 (sendWord k sg 0) (sendWord k sg 1) && decide (accumBad s 5 (sendWord k sg 1) = none) &&
      decide (bits (sendWord k sg 2) 10 54 = 0) && decide (sendLen (sendWord k sg 1) ≠ 0)
    sound 0 = true ∧ sound 1 = true ∧ s.poison = [] ∧ k.sends = [] ∧ k.ops = [] ∧ k.arms = [] ∧
    Runs s 3 [(3, 0)] (.send 5 0 false []) (fun t => decide (t.race.packets.map (fun p => (p.kind, p.plane, p.dest, p.payload.length, p.length)) =
      [(.write, .a, coreAddr 9 1 0, 512, 520), (.write, .a, coreAddr 9 1 0x200, 8, 8)]) && decide (t.race.accesses.map (·.len) = [520]) &&
      decide ((coreOf t 5).sends.map (·.left) = [1])) ∧
    Runs s 3 [(3, 0), (1, 6)] (.send 5 1 false []) (fun t => decide (t.race.packets.map (fun p => (p.kind, p.plane, p.dest, p.payload.length)) =
      [(.readReq, .k, coreAddr 9 1 0, 0)]) && decide (t.race.accesses.map (·.loc) = [coreAddr 5 1 0])) := by
  unfold Runs TakesEffect; decide +kernel

/-- A send list of a WRITE of 8 bytes and one of 0 bytes makes one access; a COUNT of 65,535 fails with LENGTH, a record that is a READ and a W1
that is not 0 with FORMAT (R220). -/
theorem test_send_list :
    let d := coreAddr 9 1 0 + 3 * 2 ^ 52
    let k := { running 4 [9, 0, 0x10, 0, 9, 1] with handles := [(9, mkHandle 1 0 0x100 true true)] }
    let list := fun (n w1 : Nat) => { withCore 5 k with mem := wordsAt (coreAddr 5 1 0) [n, 0, d, w1, 0, 0, d, 9, 0, 0] }
    let s := list 2 (9 + 8 * 2 ^ 32)
    let send : Instr := .send 5 0 true []
    let ok := fun (i : Nat) => decide (recordWord s (coreAddr 5 1 0) i 2 = 0) && decide (sendKind (recordWord s (coreAddr 5 1 0) i 1) ≤ 1) &&
      decide (checkSend s 5 (recordWord s (coreAddr 5 1 0) i 0) (recordWord s (coreAddr 5 1 0) i 1) (recordWord s (coreAddr 5 1 0) i 3) = none)
    (ok 0 && ok 1) = true ∧ (placeOf s 5 (lo32 (sendWord k 0 0))).addr = coreAddr 5 1 0 ∧ hi32 (sendWord k 0 0) = 0 ∧ orfOk 9 = true ∧
    ([16, 80].all fun m => decide (checkOperand s 5 (plainOp 9 [1, 2, 4] (some 9) true false m) = none)) = true ∧
    bits (sendWord k 0 2) 10 54 = 0 ∧ sendWord k 1 1 ≠ 0 ∧
    Runs s 3 [(3, 0), (1, 9)] send (fun t => decide (t.race.accesses.map (fun a => (a.kind, a.len, a.dest)) = [(.write, 8, coreAddr 9 1 0)]) &&
      decide ((coreOf t 5).sends.map (fun x => (x.started, x.left)) = [(true, 1)])) ∧
    Runs (list 0 0) 3 [(3, 0), (1, 9)] send (fun t => decide ((coreOf t 5).sends = []) && decide ((coreOf t 5).scc.evs = 1)) ∧
    TakesEffect (holds s 5 3 (word [(3, 0), (1, 6), (1, 9)])) 5 3 (.send 5 1 true []) := by
  unfold Runs TakesEffect; decide +kernel

/-! ### Race -/

/-- Cores 5 and 9 of region 0 in one realm; core 9 has a window 3 for writes of 32 bytes of space 0x1 and window 15 over the slice. -/
def pair (r : Race) : State :=
  let s := withCore 5 { running 4 [] with sends := [{ id := 70, seq := 0, pc := 2, started := true, left := 1, ev := 0, evEn := false, cnt := 0, cntEn := false }] }
  { s with
    regions := [(0, { regionOf s 0 with org := { shape := .full, realm := some 2 } })]
    mills := [(7, { st := .running, inStep := true, cfg := { owner := true, slot := 3, w := 16, h := 16, csm := 0x10000 } })]
    cores := [(5, coreOf s 5), (9, { running 4 [] with csm := 1, handles := [(9, mkHandle 1 0 2 true true)]
                                                       windows := [(3, { opened := true, w0 := 0x200000009, w1 := 0x1007 }), (15, { opened := true, w0 := 0x200000009, w1 := 0x3007 })] })]
    race := r, ids := 100 }

/-- A packet of access 60 from core 5 toward core 9. -/
def pkt (kind : Kind) (win dest n : Nat) : Packet :=
  { id := 50, acc := 60, plane := .a, kind := kind, src := .core 5, dst := .core 9, dest := dest, win := win, length := n
    payload := List.replicate n 0xAB }

theorem test_xy : (∀ r, (regionOf State.reset r).org.shape ≠ .short) ∧ pathOf 0 16383 1 0 ≠ [] ∧ (pathOf 0 16383 1 0).length = 255 ∧ (pathOf 0 16383 1 0).getLast? = some (.router 127 127) ∧
    (pathOf 5 5 1 0) = [.router 5 0] :=
  ⟨fun _ h => (nomatch (h : Shape.unknown = Shape.short)), by decide +kernel⟩

/-- A packet goes on, waits for a credit, and is discarded toward a region without power (R183, R188, R193). -/
theorem test_forward :
    let p := { pkt .write 3 (coreAddr 9 1 0) 8 with path := [.router 15 0, .router 16 0] }
    let s := pair { packets := [p] }
    let on := { s with regions := s.regions ++ [(1, { org := { shape := .full }, pwr := { rails := 15 } })] }
    nextIs (exec (.packetForward 50 true) on) (fun t => t.race.packets = [{ p with path := [.router 16 0] }]) ∧
    nextIs (exec (.packetForward 50 false) s) (fun t => t.race.packets = [{ p with waiting := some 105000 }]) ∧
    (let b := pair { packets := [{ p with id := 49 }, p] }
     overtakes b p = true ∧ nextIs (exec (.packetForward 50 true) b) (fun t => decide (t = b))) ∧
    (let q : Packet := { p with waiting := some 105000 }
     let w := { s with race := { packets := [q] } }
     (Tbl.get {} (regionOf (pass w 1) 0).race.cnt 0).cstall = 2 ∧ w.cores ≠ [] ∧ w.sluice.ptp.slew = 0) ∧
    packetOf s 50 = some p ∧ overtakes s p = false ∧ vddnOn on 1 = true ∧ vddnOn s 1 = false ∧ (routeOf s 0 0 .c).mode ≠ 0 := by decide +kernel

/-- The checks of R151 at the edges of a window of 32 bytes. -/
theorem test_window_checks :
    let s := pair {}
    let a := coreAddr 9 1
    let code := windowCode s 9 3 5
    code .write 0 (a 0) 32 = none ∧ code .write 0 (a 31) 1 = none ∧ code .write 0 (a 31) 2 = some .length ∧
    code .write 0 (a 32) 1 = some .window ∧ code .write 1 (a 0) 1 = some .window ∧ code .readReq 0 (a 0) 1 = some .window ∧
    code .accum 0 (a 0) 16 = some .format ∧ windowCode s 9 4 5 .write 0 (a 0) 1 = some .window ∧
    leafOf s 5 = some 7 ∧ beneath s 7 7 = true ∧ leafOf s 300 = none ∧ windowCode s 9 3 300 .write 0 (a 0) 1 = some .window := by
  decide +kernel

/-- An accumulating window takes LACC words whole (R110, R151). -/
theorem test_window_accum :
    let s := pair {}
    let s := { s with cores := [(9, { running 4 [] with handles := [(9, mkHandle 2 0 2 true true)], windows := [(3, { opened := true, w0 := 0x200000009, w1 := 0x5007 })] })] }
    let code := windowCode s 9 3 5
    code .accum 0 (coreAddr 9 2 16) 16 = none ∧ code .accum 0 (coreAddr 9 2 8) 16 = some .format ∧
    code .accum 0 (coreAddr 9 2 0) 8 = some .format ∧ code .write 0 (coreAddr 9 2 0) 8 = some .format := by decide +kernel

/-- Headers: another realm, a refused one, one that waits, and one whose write is accepted and answered (R151, R158, R177). -/
theorem test_header :
    let a := coreAddr 9 1
    let go := pkt .write 15 (a 24) 8
    let no := pkt .write 15 (a 32) 8
    let s := pair { packets := [go] }
    let r := pair { packets := [no] }
    let w := pair { packets := [pkt .write 3 (a 0) 8] }
    let other := { s with regions := [(0, { regionOf s 0 with org := { shape := .full } })] }
    (let gone := { s with regions := [] }
     coreExists gone 9 = false ∧ verdict gone go 5 9 = .refuse .window) ∧ coreExists s 9 = true ∧
    packetOf s 50 = some go ∧ overtakes s go = false ∧ (go.path = [] ∧ go.first = true) ∧ go.sound = true ∧ verdict other go 5 9 = .refuse .window ∧
    ({ go with mode := 4, waypoint := 1, dest := coreAddr 9 1 24 + 2 ^ 48 }).sound = false ∧ ({ go with length := 9 }).sound = false ∧
    verdict r no 5 9 = .refuse .window ∧ verdict w (pkt .write 3 (a 0) 8) 5 9 = .wait ∧ verdict s go 5 9 = .accept ∧
    alwaysArmed s 9 15 = true ∧ (coreOf s 9).arms = [] ∧ (coreOf s 9).sends = [] ∧ incomingOf s 60 = none ∧
    (routeOf s 0 0 .c).mode ≠ 0 := by decide +kernel

/-- A later packet that is not awaited, and one in the middle of a write (R177). -/
theorem test_packet :
    let p := { pkt .write 15 (coreAddr 9 1 0) 8 with first := false, last := false }
    let i : Incoming := { acc := 60, src := .core 5, core := 9, win := 15, kind := .write, plane := .a, dest := coreAddr 9 1 0, len := 32, got := 16 }
    let s := pair { packets := [p] }
    let u := pair { packets := [p], incoming := [i] }
    nextIs (exec (.accessPacket 50 []) s) (fun t => t.race.packets = [] && t.mem = []) ∧
    nextIs (exec (.accessPacket 50 []) u) (fun t => readByte t (coreAddr 9 1 23) = 0xAB && readByte t (coreAddr 9 1 24) = 0 &&
      (incomingOf t 60).any (·.got = 24)) ∧
    packetOf s 50 = some p ∧ arrived s p = true ∧ incomingOf s 60 = none ∧ incomingOf u 60 = some i ∧ i.got + p.payload.length < i.len := by
  decide +kernel

/-- The access that the tests below answer: a READ of 16 bytes. -/
def acc60 : Access := { id := 60, src := .core 5, send := 70, kind := .readReq, plane := .k, dest := coreAddr 9 1 0, len := 16, loc := coreAddr 5 1 0 }

/-- Data and answers at the source (R179-R181). -/
theorem test_answers :
    let d : Packet := { pkt .readData 15 (coreAddr 5 1 8) 8 with src := .core 9, dst := .core 5 }
    let ok : Packet := { d with kind := .response, payload := [] }
    let bad : Packet := { ok with status := .length }
    let s := pair { packets := [d], accesses := [acc60] }
    let gone := pair { packets := [d] }
    let r := pair { packets := [ok], accesses := [acc60] }
    let f := pair { packets := [bad], accesses := [acc60] }
    nextIs (exec (.readData 50 []) s) (fun t => readByte t (coreAddr 5 1 15) = 0xAB && readByte t (coreAddr 5 1 7) = 0 &&
      (accessOf t 60).any (·.got = 8)) ∧
    nextIs (exec (.readData 50 []) gone) (fun t => t.mem = [] && t.race.packets = []) ∧
    nextIs (exec (.response 50) r) (fun t => (accessOf t 60).any (·.respOk)) ∧
    FitsRead d acc60 ∧ ¬ FitsRead { d with win := 14 } acc60 ∧ ¬ FitsRead { d with dest := coreAddr 5 1 9 } acc60 ∧ d.acc < s.ids ∧
    packetOf s 50 = some d ∧ arrived s d = true ∧ accessOf gone 60 = none ∧ accessOf s 60 = some acc60 ∧ acc60.got < acc60.len ∧
    (coreOf f 5).sends.find? (fun y => y.id == acc60.send) ≠ none := by unfold FitsRead; decide +kernel

/-- The waits of R190 at their end, and what came in the same cycle (R191). -/
theorem test_race_timers :
    let p := { pkt .write 3 (coreAddr 9 1 0) 8 with path := [.router 6 0], waiting := some 104990 }
    let i : Incoming := { acc := 60, src := .core 5, core := 9, win := 3, kind := .write, plane := .a, dest := coreAddr 9 1 0, len := 32, got := 16 }
    let s := pair { packets := [p], incoming := [i], accesses := [{ acc60 with due := 404000 }] }
    nextIs (exec (.creditWaitExpiry 50 true) s) (fun t => t.race.packets = [{ p with waiting := none }] && t.glb.time = 104990) ∧
    nextIs (exec (.continuationWaitExpiry 60 true) s) (fun t => t.race.incoming = [i]) ∧
    nextIs (exec (.responseWaitExpiry 60 true) s) (fun t => t.race.accesses.length = 1 && t.glb.time = 404000) ∧
    waitsForCredit s p = true ∧ packetOf s 50 = some p ∧ incomingOf s 60 = some i ∧ accessOf s 60 = some { acc60 with due := 404000 } ∧ (routeOf s 0 0 .c).mode ≠ 0 := by decide +kernel

/-- A route change with an access outstanding, and with none (R187); a notice of a lost region with one access into it, and without
any (R193). -/
theorem test_routes :
    let r : Reload := { src := 0, dst := 1, plane := .k, mode := 2, waypoint := 3 }
    let a : Access := { acc60 with dest := coreAddr 300 1 0 }
    let idle : State := { pair { reloads := [r] } with cores := [] }
    let busy := pair { reloads := [r], accesses := [a] }
    let lost : State := { busy with regions := busy.regions ++ [(1, { org := { shape := .lost } })], race := { accesses := [a], notices := [(0, 1), (0, 2)] } }
    let behind : State := { idle with race := { reloads := [r, { r with plane := .c }] } }
    nextIs (exec (.routeReload 0 1 .k) idle) (fun t => routeOf t 0 1 .k = { mode := 2, waypoint := 3 } && t.race.reloads = []) ∧
    nextIs (exec (.routeReload 0 1 .k) busy) (fun t => t.race.reloads = [r]) ∧ reloadBehind behind .k = true ∧ reloadBehind idle .k = false ∧
    nextIs (exec (.routeReload 0 1 .k) behind) (fun t => decide (t = behind)) ∧
    nextIs (exec (.lostNotice 0 3) lost) (fun t => decide (t = lost)) ∧
    nextIs (exec (.lostNotice 0 2) { lost with regions := [(2, { org := { shape := .lost } })] }) (fun t => t.race.accesses = [a] && t.race.notices = [(0, 1)]) ∧
    (∀ r ∈ lost.race.reloads, r.plane = .a ∨ r.plane = .k) ∧ outstanding busy 0 1 .k = true ∧ outstanding idle 0 1 .k = false ∧ idle.race.reloads = [r] ∧ fld a.dest 42 6 = 1 := by decide +kernel

theorem test_no_cores : ∀ c, (coreOf State.reset c).sends = [] ∧ (coreOf State.reset c).arms = [] := fun _ => ⟨rfl, rfl⟩

/-- Snowpack transfers: refused without a bound range, served, completed, and timed out (R226-R229, R404). -/
theorem test_flume_transfers :
    let x : FlumeT := { write := false, sn := 0, loc := coreAddr 5 1 0, len := 64, tmo := 1, issued := 4900, ev := 3, evEn := true, seq := 0, pc := 2 }
    let at' := fun (y : FlumeT) => { withCore 5 { running 4 [] with flume := [(18, .busy y)] } with
      mills := [(7, { st := .running, inStep := true, cfg := { owner := true, w := 16, h := 16, flumes := [{ rd := true, wr := true, base := 0, len := 64 }] } })]
      snow := { ctl := [(0, { ready := 0x3F }), (1, { ready := 0x3F }), (2, { ready := 0x3F }), (3, { ready := 0x3F })] }
      regions := (List.range 64).map fun r => (r, { org := { shape := .full }, pwr := { rails := 15 } })
      mem := [(snowAddr 0, 0x5A), (snowAddr 63, 0x5B)] }
    let s := at' x
    let done := at' { x with served := true, got := 64 }
    nextIs (exec (.flumeComplete 5 1 2) done) (fun t => tagAt (coreOf t 5) 1 2 = .done && (coreOf t 5).scc.evs = 8) ∧
    nextIs (exec (.flumeTimeout 5 1 2 true) done) (fun t => tagAt (coreOf t 5) 1 2 = .done) ∧
    (let off := { s with regions := [] }
     (flumeOut off 5 0 64 false).2 = some .lost ∧ apertureFull off 5 x = false) ∧
    ((List.range 64).all (vddnOn s)) = true ∧ queueBehind (coreOf s 5) 1 0 = false ∧
    s.snow.poison = [] ∧ s.poison = [] ∧ flumeSent done { x with served := true } = true ∧ tagAt (coreOf s 5) 1 2 = .busy x ∧ (coreOf s 5).ops = [] ∧ snowRoute s 5 64 64 false = .refuse .window ∧
    snowRoute s 5 0 64 false = .stacks := by decide +kernel

/-! ### Steps, recovery and fences -/


/-- A doorbell with the last ENTRY of a program of 20 bundles, and the first beyond it (R201); one out of IDLE, and one to no mill (R39). -/
theorem test_doorbell :
    let s := solo { st := .idle, f := 3 } { len := 20 }
    let none' : State := { s with mills := [] }
    isUp s = true ∧ hostReach s = true ∧ (millOf s 7).st = .idle ∧ serveOf s 7 = none ∧ unfitFor s 7 = false ∧ s.bst.shut = .none ∧
    coresOf s 7 = [5] ∧ (millOf none' 7).st = .unused := by decide +kernel

/-- STEP_START begins the core, and STEP_RETIRE ends the step (R201, R231). -/
theorem test_step :
    let h : Tbl Handle := [(9, mkHandle 1 0 2 true true)]
    let s := solo { st := .running, inStep := true, startAt := some 5032, entry := 19, arg := 0xFFFFFFFF } { running 4 [1, 2] with handles := h, acquired := 3 }
    let e := solo { st := .running, inStep := true, ended := [5], f := 2 } (running 4 [])
    (millOf s 7).startAt = some 5032 ∧ (millOf s 7).inStep = true ∧ (millOf s 7).dstate = .opened ∧ timeRuns s = true ∧
    (∀ c ∈ coresOf e 7, c ∈ (millOf e 7).ended) ∧ (millOf e 7).startAt = none ∧ (∃ c ∈ coresOf s 7, c ∉ (millOf s 7).ended) := by
  decide +kernel

/-- The watchdog at each row of the table of R490, with RETRY 3: F from 3 to 4, from 6 to 7 and from 7 to 8. -/
theorem test_watchdog :
    let s := fun f => solo { st := .running, inStep := true, f := f } { running 4 [] with stall := 0xB, detail := 15 }
    nextIs (exec (.watchdogExpiry 5 true) (s 3)) (fun t => (millOf t 7).wdog.late = 1 && (millOf t 7).f = 3 && t.glb.time = 100000000) ∧
    (let w := solo { st := .running, inStep := true } { running 4 [] with
               stall := 0xD, detail := 1, share := 0,
               handles := [(1, mkHandle 1 0 0x30000 true true)],
               ops := [{ seq := 0, rd := [], wr := [] }],
               engs := [(4, { queue := [{ w0 := BitVec.ofNat 64 (4 + 16 * 4 + 0x3300 + 2 ^ 32 * (1 + 2 ^ 9)), w1 := 1 + 2 ^ 32, w2 := 0x10001, w3 := 0, seq := 0 }] })] }
     stallCause w 5 = (9, 4)) ∧
    ownerOf (s 3) 5 = some 7 ∧ (millOf (s 3) 7).wdog.timeout ≠ 0 ∧ (∀ g ∈ regionsOf (s 3) 7, (regionOf (s 3) g).org.shape ≠ .lost) ∧
    (s 3).flt.retry.toNat = 3 ∧ serveOf (s 3) 7 = none := by decide +kernel

/-- An image of no section, with the SHAKE256 of the empty body, from another implementation of FIPS 202, as its BODY_DIGEST. -/
def bareImage : List Byte :=
  List.replicate 88 0
    ++ leBytes 64 0xbec4b7b3ac2e294086b49a47491c82fcf692b5679d0105cb00f2c0d8ddc45dd72f76d56e64270cb5821bb862ea52cd3f24eb3e74eb3f3b23138da80b2bddb946
    ++ List.replicate 104 0

/-- A restart gives the core its copy back; a tier 2 reset that host software asked for ends in IDLE; one that meets a word that cannot
be corrected zeroes it and fails (R492, R493). -/
theorem test_restart :
    let k : Core := { running 4 [1, 2] with copy := { handles := [(9, mkHandle 1 0 2 true true)], regs := [(1, 7)] } }
    let a := coreAddr 5 1 0
    let s := fun tier host => { solo { st := .restart, inStep := true, tier := tier, hostReset := host, f := 2 } k with
      mem := [(a, 1), (a + 8, 2)], hop := { slots := [(3, { st := .loaded, image := bareImage })] } }
    let torn : State := { s 2 false with hop := { slots := [(3, { st := .loaded })] } }
    (millOf (s 1 false) 7).st = .restart ∧ (millOf (s 1 false) 7).startAt = none ∧ (millOf (s 1 false) 7).shiftFence = false ∧
    settled (s 1 false) (coresOf (s 1 false) 7) = true ∧ (batchOf (s 1 false) 7).rung = false ∧ a % 8 = 0 ∧ serveOf (s 2 false) 7 = none ∧
    storeGood (s 2 false) 3 = true ∧ storeGood torn 3 = false ∧ (∀ c ∈ coresOf (s 2 false) 7, (coreOf (s 2 false) c).blank = false) := by
  decide +kernel

/-- CORE_SHIFT: a dead spare, a dead core of a good row, one already out, and one of a row with a defect (R506, R507). -/
theorem test_core_shift :
    let s := fun (w : Row) => { State.reset with glb := { st := .running }, regions := [(0, { org := { shape := .full, rows := if w = {} then [] else [(3, w)] } })] }
    (let o := { solo { st := .running, inStep := true } (running 4 []) with
               race := { accesses := [{ id := 60, src := .core 5, kind := .write, plane := .a, dest := 0, len := 8 }] } }
     logRow (regionOf o 0).org 0 = some 0 ∧ ownersIn o 0 = [7] ∧ coresOf o 7 = [5] ∧ settled o (coresOf o 7) = false ∧ o.moraine = [] ∧
     rowOf (regionOf o 0).org 0 = {}) ∧
    (let x := { State.reset with glb := { st := .running }, regions := [(0, { org := { shape := .short, dropRow := 3 } })] }
     logRow (regionOf x 0).org 3 = none ∧ nextIs (exec (.coreShift 0 3 5 false) x) (fun t => decide (t = x))) ∧
    logRow (regionOf (s {}) 0).org 3 = some 3 ∧ (s {}).moraine = [] ∧ ownersIn (s {}) 0 = [] ∧ rowOf (regionOf (s {}) 0).org 3 = {} ∧
    logRow (regionOf (s { outCol := 9, defect := true }) 0).org 3 = some 3 := by decide +kernel

/-- SHARD_RELOAD of a slot with a weight burst that cannot be read, and with nothing due (R510). -/
theorem test_shard_reload :
    let s : State := { State.reset with glb := { st := .running }, hop := { slots := [(3, { st := .loaded, badBursts := [64], loaded := [0] })] } }
    (slotOf s 3).deadStacks = [] ∧ (slotOf s 3).badBursts ≠ [] ∧ s.hop.op = .idle ∧ sessionOf s (slotOf s 3).session = none ∧
    (slotOf s 4).badBursts = [] := by decide +kernel

/-- Fences of a step under way and of none, a lift, a lift during a drain, and a drain at its end (R496-R499). -/
theorem test_fences :
    let s := solo { st := .running, inStep := true } (running 4 [])
    let f := solo { st := .fenced, dstate := .fenced, fence := true } {}
    let d := solo { st := .fenced, dstate := .draining, fence := true, inStep := true, ended := [5] } { running 4 [] with scc := { run := .ended } }
    nextIs (exec (.milFence 7 0) s) (fun t => (millOf t 7).dstate = .opened) ∧
    isUp s = true ∧ hostReach s = true ∧ (millOf s 7).st ≠ .unused ∧ (millOf s 7).cfg.owner = true ∧ serveOf s 7 = none ∧
    covered (updMill f 7 fun k => { k with fence := false, drain := 50 }) 7 = false ∧ settled d (coresOf d 7) = true ∧ allEnded d 7 = true ∧
    (batchOf d 7).rung = false := by decide +kernel

/-- A retirement in the cycle in which DRAIN expires, without and with a batch, which COMMIT then ends (R505). -/
theorem test_late_retirement :
    let d := solo { st := .fenced, dstate := .draining, fence := true, inStep := true, ended := [5] } { running 4 [] with scc := { run := .ended } }
    let b := { d with pond := { batches := [(7, { rung := true })] } }
    (millOf d 7).dstate = .draining ∧ allEnded d 7 = true ∧ (batchOf d 7).rung = false ∧ (millOf b 7).dstate = .draining ∧ allEnded b 7 = true ∧
    (batchOf b 7).rung = true := by decide +kernel

/-- HALT, RESUME, FAIL and RESET (R499). -/
theorem test_halt :
    let h := solo { st := .halted, inStep := true } { running 4 [] with scc := { run := .halted } }
    nextIs (exec (.milResume 7) h) (fun t => (millOf t 7).st = .running && (coreOf t 5).scc.run = .running) ∧
    isUp h = true ∧ hostReach h = true ∧ (millOf h 7).cfg.owner = true ∧ (millOf h 7).dstate = .opened ∧ serveOf h 7 = none ∧
    (slotOf h (millOf h 7).cfg.slot).st = .loaded ∧ (∀ g ∈ regionsOf h 7, (regionOf h g).org.shape ≠ .lost) := by decide +kernel

/-- A dead stack of column 5 (R21, R510): the column reads the stack east of it, and its KV partition is zeros. -/
theorem test_stack_shift :
    let s : State := writeBytes (writeBytes { cores := [(5, { boundary := 1 })] } (coreAddr 6 0 10) [7]) (coreAddr 6 0 70000) [9]
    let t := moveStacks s 5
    readByte t (coreAddr 5 0 10) = 7 ∧ readByte t (coreAddr 5 0 70000) = 0 ∧ readByte t (coreAddr 6 0 10) = 0 := by
  decide +kernel

/-! ### The mailbox -/

/-- Did the command of OP `op` and tag 0x77 complete with `code` (R536)? -/
def endedAs (op : Nat) (code : Code) (t : State) : Bool :=
  !t.mlr.busy && t.mlr.done && t.mlr.code = code && t.mlr.rtag = 0x77 && t.mlr.opdone.toNat = op

/-- The mailbox is free: its state is that of MailboxFree. -/
theorem test_mailbox_free : hostReach readyDev = true ∧ readyDev.mlr.busy = false ∧ readyDev.glb.fw = true ∧ isUp readyDev = true ∧
    readyDev.hop.op = .idle ∧ readyDev.bst.shut = .none ∧ readyDev.hop.slots = [] ∧ readyDev.sluice.sessions = [] ∧
    readyDev.sec.idfail = false ∧ readyDev.links = [] := by decide +kernel

/-- The checks of R539: BUSY, STATE, FORMAT, and a host that does not reach the device. -/
theorem test_mailbox_checks :
    let b := { readyDev with mlr := { busy := true, op := 0x21 } }
    let off : State := { readyDev with pins := {} }
    (let boot := { readyDev with glb := { st := .boot }, sec := { romDig := [1] } }
     let dead := { readyDev with glb := { readyDev.glb with fw := false } }
     hostReach boot = true ∧ boot.mlr.busy = false ∧ boot.sec.romDig ≠ [] ∧ hostReach dead = true ∧ dead.glb.st ≠ .boot) ∧
    hostReach b = true ∧ b.mlr.busy = true ∧ hostReach off = false ∧ readyDev.glb.st = .ready ∧ stateAccepts readyDev 0x11 = true ∧
    argMasks 0x11 = some [0x3F] ∧ (64 : Word).toNat &&& (2 ^ 64 - 1 - 0x3F) ≠ 0 := by decide +kernel

/-- The ends of the ranges of SET_CAP and SET_PRIO (R455, R539). -/
theorem test_cap :
    (200 : Word).toNat = 200 ∧ (3000 : Word).toNat ≤ 3000 ∧ (6 : Word).toNat > 5 := by decide +kernel

/-- CALIBRATE of channel 63 (R472). -/
theorem test_calibrate :
    let both : State := { readyDev with frn := { chans := [(63, { zeroIn := some 0, fullIn := some 0, newOffset := 5, newGain := 6, newFscale := 7 })] } }
    let m : Word := 0x8000000000000000
    zeroDone both (chanOf both 63) = true ∧ fullDone both (chanOf both 63) = true ∧ zeroDone readyDev (chanOf readyDev 63) = false ∧
    m = BitVec.ofNat 64 (2 ^ 63) ∧ both.glb.st = .ready := by decide +kernel

/-- READ_MORAINE with just enough room, and with a byte too little (R547, R548). -/
theorem test_moraine :
    (moraineBytes readyDev).length < 2 ^ 32 ∧ 0 < (moraineBytes readyDev).length := by decide +kernel

/-- QUOTE without room, and of a device whose identity failed (R546). -/
theorem test_quote :
    let bs : List Byte := List.replicate 64 1
    let bad : State := { readyDev with sec := { idfail := true } }
    bs.length = 64 ∧ bad.sec.idfail = true := by decide +kernel

/-- SHUTDOWN, PARK and WAKE (R474, R519, R524). -/
theorem test_shutdown :
    let s := { readyDev with bst := { shut := .draining, clean := true } }
    (let b := { readyDev with hop := { op := .unload } }
     hostReach b = true ∧ isUp b = true ∧ b.hop.op ≠ .idle ∧ s.hop.op = .idle) ∧
    hostReach s = true ∧ isUp s = true ∧ s.bst.shut = .draining ∧ s.bst.isPark = false := by decide +kernel

/-- FENCE and UNFENCE of region 0, without a step owner in it, with one whose step runs, and of a LOST region (R496-R498). -/
theorem test_region_fence :
    let s := { solo { st := .running, inStep := true } (running 4 []) with glb := { (withCore 5 {}).glb with time := 9000 } }
    let empty := { s with mills := [] }
    let lost := { s with regions := [(63, { org := { shape := .lost } })] }
    let fenced := { empty with regions := [(0, { org := { shape := .full, fenced := true } })] }
    hostReach s = true ∧ s.glb.fw = true ∧ s.glb.st = .running ∧ ownersIn s 0 = [7] ∧ ownersIn empty 0 = [] ∧ (millOf s 7).dstate = .opened ∧
    (regionOf lost 63).org.shape = .lost ∧ (regionOf fenced 0).org.fenced = true ∧ (regionOf empty 0).org.fenced = false := by decide +kernel

/-- A descriptor of realm 2 without partitions, ranges and keys (R540), and the same with a reserved bit set. -/
def realm2 (flags : Nat) : List Byte := [0x59, 0x4B, 0x52, 0x44, 2] ++ [BitVec.ofNat 8 flags] ++ List.replicate 122 0

/-- REALM_CREATE and REALM_DESTROY (R540-R545). -/
theorem test_realm :
    let has : State := { readyDev with realms := [(2, { present := true })] }
    checkRealm readyDev (realm2 0) 128 = none ∧ checkRealm readyDev (realm2 8) 128 = some .format ∧ (realmOf readyDev 2).present = false ∧
    (realmOf has 2).present = true ∧ realmHeld has 2 = false ∧ realmParts has 2 = [] ∧ (realmOf has 2).ranges = [] := by decide +kernel

/-- BOOT_FW of an image without its MAGIC, and without Bus Master Enable (R526-R528). -/
theorem test_boot :
    let s : State := { State.reset with sec := { romDig := [1] } }
    let n : State := { s with glb := { s.glb with busMaster := false } }
    hostReach s = true ∧ s.mlr.busy = false ∧ s.glb.st = .boot ∧ s.glb.fw = false ∧ s.sec.romDig ≠ [] ∧ s.glb.busMaster = true ∧
    n.glb.busMaster = false ∧ (checkFirmware [0, 0, 0, 0] 4).isSome = true := by decide +kernel


/-- LOAD_IMAGE, UNLOAD and LOAD_WEIGHTS (R266-R276). -/
theorem test_images :
    let busy : State := { readyDev with hop := { op := .unload } }
    let full : State := { readyDev with hop := { slots := (List.range 64).map fun k => (k, { st := .staged }) } }
    let two : State := { readyDev with hop := { slots := [(0, { st := .loaded }), (1, { st := .loading })] } }
    busy.hop.op ≠ .idle ∧ ((List.range 64).all fun k => (slotOf full k).st ≠ .free) = true ∧ (slotOf two 2).st = .free ∧ ((List.range 2).all fun k => (slotOf two k).st ≠ .free) = true ∧
    slotMills two 0 = [] ∧ slotCores two 0 = [] ∧ slotRegions two 0 = [] := by decide +kernel

/-- SHAKE256 of the byte AA, 64 bytes, from another implementation of FIPS 202. -/
def digestAA : List Byte :=
  [0xB9, 0x60, 0x89, 0xC1, 0x46, 0x65, 0x3A, 0xBB, 0x3B, 0x2B, 0x9B, 0x72, 0x2B, 0x59, 0x3E, 0xD0, 0x07, 0xA6, 0x5C, 0x79,
   0x87, 0xA2, 0x35, 0x3F, 0x5E, 0xD0, 0x30, 0x41, 0x94, 0x75, 0x71, 0x8C, 0x10, 0xE7, 0x37, 0xB3, 0x86, 0x37, 0x6E, 0x20,
   0x5E, 0xBB, 0xE9, 0x20, 0x63, 0xB0, 0x40, 0xA8, 0x2C, 0xE5, 0xCA, 0x73, 0x9E, 0xEE, 0x56, 0x4B, 0x86, 0xFB, 0xE9, 0xAB,
   0xDD, 0x70, 0x93, 0x6E]

/-- An image with two shards of one byte from the host for core 5 at offsets 64 and 128 (R262), both with that digest. -/
def shardImage : List Byte :=
  let shard := fun (off : Nat) => leBytes 2 5 ++ [0, 1] ++ List.replicate 4 0 ++ leBytes 8 off ++ leBytes 8 1 ++ List.replicate 16 0 ++ digestAA ++ List.replicate 8 0
  imageOf 1 (sectOf 0xC (leBytes 16 2 ++ shard 64 ++ shard 128))

theorem test_shake256 : shake256 [0xAA] 64 = digestAA := by decide +kernel

/-- LOAD_WEIGHTS reads the first shard from the host, and SHARD_OBTAINED writes it; another length has it obtained again, and then ends
the loading (R273, R274). -/
theorem test_shards :
    let slot : Slot := { st := .staged, image := shardImage }
    let s : State := { readyDev with hop := { slots := [(3, slot)] } }
    let w : State := { s with hop := { op := .loadWeights, slot := 3, hostAddr := 0x1000, slots := [(3, slot)] }, glb := { s.glb with dma := [(8000, .shard 0)] } }
    (nextShard slot).map (fun p => (p.1, p.2.kind, p.2.source, p.2.size, p.2.off)) = some (0, 0, 1, 1, 64) ∧
    (nextShard { slot with loaded := [0] }).isSome = true ∧ (∃ j ∈ w.glb.dma, j.2 = .shard 0) ∧ (∀ j ∈ w.glb.dma, j.2 ≠ .shard 1) ∧
    ((shardsOf shardImage)[0]?).any (fun x => x.digest = digestAA) = true := by decide +kernel

/-- A bus-master read that is refused, poisoned, timed out, and one that completes in the same cycle (R431). -/
theorem test_dma :
    let s : State := { readyDev with glb := { readyDev.glb with dma := [(8000, .realm 128)] }, mlr := { busy := true, op := 0x50, tag := 0x77 } }
    nextIs (exec (.dmaTimeout true) s) (fun t => t.glb.late = 1 && t.glb.time = 50008000 && t.glb.dma = [(8000, .realm 128)]) ∧
    nextIs (exec (.dmaCompletion .later) s) (fun t => decide (t = s)) ∧
    (let q : State := { s with glb := { s.glb with dma := [(8000, .nonce 0x1000 [1] [2])] }, mlr := { busy := true, op := 0x20, tag := 0x77 } }
     q.glb.dma = [(8000, .nonce 0x1000 [1] [2])]) ∧ checkRealm s ((realm2 0).take 128) 128 = none ∧ checkRealm s ((realm2 8).take 128) 128 = some .format ∧
    s.glb.dma ≠ [] ∧ readyDev.glb.dma = [] ∧ s.glb.fw = true := by decide +kernel

/-! ### GML sessions -/

/-- What a port with the reset values of SLU_MAC and SLU_GML keeps (R355). -/
def env0 : Envelope :=
  { corrected := 0, uncorrectable := 0, fcs := true, mac := 0, tags := [], etype := 0x88B5, ip := 0, plain := false, udp := 0, sum := .zero }

/-- A frame that brings a message to `x0` with its right tag (R358-R361). -/
def frameOf (type flags : Nat) (seq ack : BitVec 32) (sack : Nat) (body : List Byte) : Frame :=
  let msg := gmlHeader type flags x0.id seq ack sack body.length ++ body
  { port := 0, subB := false, src := { src0 with mac := 0xB }, env := env0, bytes := msg ++ kmac256 x0.key msg 16 "GML-P2D" }

/-- A serving device keeps such a frame, whatever its bytes, when the MAC supports its length (R353). -/
theorem test_keeps (rs : Tbl Req) (bs : List Byte) (h : 46 ≤ bs.length) (n : bs.length ≤ 9198) :
    keeps (serving x0 rs) { port := 0, subB := false, src := { src0 with mac := 0xB }, env := env0, bytes := bs } = true := by
  have size : sizeOk { port := 0, subB := false, src := { src0 with mac := 0xB }, env := env0, bytes := bs } = true := by
    simp [sizeOk, frameSize, env0, src0]; omega
  have ptp : ptpFrame (serving x0 rs) { port := 0, subB := false, src := { src0 with mac := 0xB }, env := env0, bytes := bs } = false := by
    have off : bit (portOf (serving x0 rs) 0).cfg 8 = false :=
      (show _ = bit (portOf (serving x0 []) 0).cfg 8 from rfl).trans (by decide +kernel)
    simp [ptpFrame, off]
  have one : keeps (serving x0 []) { port := 0, subB := false, src := { src0 with mac := 0xB }, env := env0, bytes := List.replicate 46 0 } = true := by
    decide +kernel
  rw [← one]
  unfold keeps
  simp only [ptp, size, show ptpFrame (serving x0 []) { port := 0, subB := false, src := { src0 with mac := 0xB }, env := env0
                                                        bytes := List.replicate 46 0 } = false from by decide +kernel,
    show sizeOk { port := 0, subB := false, src := { src0 with mac := 0xB }, env := env0, bytes := List.replicate 46 0 } = true from by decide +kernel]
  rfl

/-- The tag of a message has 16 bytes (R359). -/
theorem test_tag_length (k x : List Byte) (c : String) : (kmac256 k x 16 c).length = 16 := by
  unfold kmac256 sponge
  dsimp only
  generalize absorb _ _ _ = a
  show ((squeeze 1 a).take 16).length = 16
  simp [squeeze, leBytes, List.length_flatten, Function.comp_def]

/-- In a serving device the frame meets Brings, whatever the message; the session may differ in what Brings does not read. -/
theorem test_brings (rs : Tbl Req) (type flags : Nat) (seq ack : BitVec 32) (sack : Nat) (body : List Byte) (h : body.length % 8 = 0)
    (n : body.length ≤ 8192) : Brings (serving x0 rs) (frameOf type flags seq ack sack body) x0 type flags seq ack sack body :=
  ⟨(show portTakes (serving x0 rs) 0 false = portTakes (serving x0 []) 0 false from rfl).trans (by decide +kernel),
    test_keeps rs _ (by simp [gmlHeader, leBytes, test_tag_length]) (by simp [gmlHeader, leBytes, test_tag_length]; omega),
    rfl, rfl, rfl, rfl, h,
    n.trans (Nat.le_of_eq ((show maxBody (serving x0 rs) 0 = maxBody (serving x0 []) 0 from rfl).trans (by decide +kernel)).symm)⟩

/-- A message that the session awaits meets Delivers. -/
theorem test_delivers (rs : Tbl Req) (type flags : Nat) (ack : BitVec 32) (body : List Byte) (h : body.length % 8 = 0)
    (n : body.length ≤ 8192) : Delivers (serving x0 rs) (frameOf type flags 8 ack 0 body) x0 type flags ack body :=
  ⟨test_brings rs type flags 8 ack 0 body h n, rfl, rfl, rfl, rfl⟩

/-- The session of the tests at `t`. -/
def sess (t : State) : Session := (sessionOf t 1).getD x0

/-- The TYPE, and the first byte of the body, of the newest message that left on a Sluice port. -/
def lastGml (t : State) : Nat × Nat := match t.out.getLast? with | some (.gml _ _ _ bs) => (num bs 1 1, num bs 32 1) | _ => (0, 0)

/-- ACK of one message of two, with a completed request behind it; NAK of a gap (R365, R366). -/
theorem test_ack :
    let m := fun (n : Nat) => { seq := BitVec.ofNat 32 n, type := 0x11, flags := 0, body := [], sent := 1, due := 9500, retry := 8 : TxMsg }
    let x := { x0 with unacked := [m 4, m 5, m 6] }
    let s := serving x []
    let d := serving x [(9, { st := .done, session := 1, finalSeq := some 4 })]
    x.waiting = [] ∧ sessionReqs s 1 = [] ∧ sessionReqs d 1 = [9] ∧ m 4 ∈ x.unacked ∧ seqBefore 4 5 = true ∧ (reqOf d 9).finalSeq = some 4 ∧
    (x.unacked.map (·.seq)).Nodup ∧ portTakes s 0 false = true ∧ sessionOf s 1 = some x ∧ quarantined s x = false := by decide +kernel

/-- An acknowledgement that is due; a retransmission, the last one, and one that the acknowledgement overtook (R366-R368). -/
theorem test_retransmit :
    let m := fun (n : Nat) => { seq := 4, type := 0x11, flags := 0, body := [], sent := n, due := 9500, retry := 8 : TxMsg }
    let s := fun n => serving { x0 with unacked := [m n], ackDue := some 9200 } []
    nextIs (exec (.rtoExpiry 1 4 true) (s 9)) (fun t => (sess t).unacked = [m 9] && Tbl.get 0 (portOf t 0).cnt 10 = 1) ∧
    bits (portOf (s 8) 0).tmr 16 4 = 8 ∧ ((sess (s 8)).unacked.map (·.seq)).Nodup ∧ (serving x0 []).sluice.sessions.all (·.ackDue.isNone) ∧
    nextIs (exec (.ackdlyExpiry 1) (serving x0 [])) (fun t => decide (t = serving x0 [])) ∧ (sessionOf (s 8) 1).isSome = true ∧ sessionOf (s 8) 2 = none := by decide +kernel

/-- CLOSE, its reply and its time-out; STATUS of a request, and of one that the session does not own; ERROR (R364, R373, R375). -/
theorem test_close_status :
    let r : Req := { st := .decode, session := 1, curlen := 5 }
    let s := serving x0 [(9, r)]
    let c := serving { x0 with closing := some .lost, closeAt := some 8000 } []
    nextIs (exec (.closeTimeout 1) s) (fun t => t.sluice.sessions = [x0]) ∧
    (reqOf s 9).session = 1 ∧ (reqOf s 9).st = .decode ∧ x0.closing = none ∧ x0.ending = none ∧ (sess c).closing = some .lost ∧ (sess c).closeAt = some 8000 ∧ Code.ofNum (Code.num .lost) = some .lost ∧ sessionReqs c 1 = [] ∧
    (let b : List Byte := [5, 0] ++ List.replicate 22 0
     b.length = 24 ∧ zeros b 2 4 = true ∧ zeros b 12 16 = true) := by decide +kernel

/-- An OPEN whose form is right, toward a realm that is not present: AUTH without a session (R363). -/
theorem test_open :
    let b : List Byte := [2, 0] ++ List.replicate 6 0 ++ leBytes 8 9 ++ List.replicate 16 7 ++ List.replicate 136 0
    let f : Frame := { port := 0, subB := false, src := src0, env := env0, bytes := gmlHeader 1 0 0 0 0 0 168 ++ b ++ List.replicate 16 0 }
    let s := { serving x0 [] with sluice := { (serving x0 []).sluice with sessions := [] } }
    let y : Opened := { port := 0, subB := false, src := src0, pnonce := List.replicate 32 0, time := 8000, reply := [7] }
    keeps s f = true ∧ s.sluice.opened = [] ∧ s.glb.time ≤ y.time + 1000000000 ∧
    portTakes s 0 false = true ∧ b.length = 168 ∧ num b 0 1 < 16 ∧ num b 1 1 ≤ 1 ∧ zeros b 2 8 = true ∧ zeros b 162 168 = true ∧
    freeSession s 0 = some 0 ∧ (realmOf s 2).present = false := by decide +kernel

/-- The body of a SUBMIT of `p` tokens that may generate `g` more, with the deadline `d` (R370). -/
def submitBody (p g d : Nat) : List Byte :=
  [3, 0, 1, 0] ++ leBytes 8 0 ++ leBytes 4 p ++ leBytes 8 d ++ leBytes 8 0 ++ leBytes 8 0xCAFE ++ leBytes 4 p ++ leBytes 4 g ++ List.replicate 16 255
    ++ (List.range p).flatMap (fun i => leBytes 4 (990 + i)) ++ List.replicate (roundUp (4 * p) 8 - 4 * p) 0

/-- SUBMIT of as many positions as the class allows, and of one more; a deadline of now, and one that has passed; a token outside the
vocabulary; nothing to generate; an image that is not loaded (R288, R371). -/
theorem test_submit :
    let s := serving x0 []
    (num (submitBody 3 97 9000) 40 4 = 3 ∧ num (submitBody 3 97 9000) 12 4 = 3 ∧ (submitBody 3 97 9000).length = 80 ∧
     zeros (submitBody 3 97 9000) 76 80 = true ∧ num (submitBody 3 97 9000) 2 1 < 2 ∧ zeros (submitBody 3 97 9000) 3 4 = true ∧
     zeros (submitBody 3 97 9000) 10 12 = true ∧ num (submitBody 3 97 9000) 44 4 = 97) ∧
    x0.staged = none ∧ stagedOn s 0 = 0 ∧ (classOf s 3 0).any (fun k => k.serveMill = 7 && k.maxlen = 100) = true ∧
    (serveOf s 7).any (·.unit = 0) = true ∧ (slotOf s 3).realm = 2 ∧ millState s 7 = .idle ∧ (poolOf s 7).pages = 4 ∧ freeEntry s 0 = some 0 ∧
    (slotOf s 4).st ≠ .loaded ∧ classOf s 3 1 = none := by decide +kernel

/-- A mill that is FENCED or HALTED (R288). -/
theorem test_submit_mill :
    let s := fun st => { serving x0 [] with mills := [(7, { millOf (serving x0 []) 7 with st := st })] }
    millState (s .fenced) 7 = .fenced ∧ millState (s .halted) 7 = .halted := by decide +kernel

/-- CANCEL and PARK of a request in DECODE, in ADMITTED, and of no request (R299, R309). -/
theorem test_cancel_park :
    let r : Req := { st := .decode, session := 1, realm := 2, img := 3, mill := 7, pages := [3], curlen := 5 }
    let s := serving x0 [(9, r), (10, { r with st := .admitted }), (11, { r with pages := [] }), (13, { r with restore := true, summary := true })]
    (reqOf s 9).st = .decode ∧ (reqOf s 9).park = false ∧ (reqOf s 10).st = .admitted ∧ (reqOf s 12).st = .free ∧
    (reqOf s 13).restore = true ∧ (classOf s 3 0).any (fun k => k.ttl = 60 && k.parkmode = 0) = true ∧ parkSpace s 7 (parkBytes s r false) = some 0 ∧
    parkSpace s 7 0x20001 = none := by decide +kernel

/-- RESUME of a parked request whose pages fit just, and of one that is not parked (R312). -/
theorem test_resume :
    let r : Req := { st := .parked, session := 1, realm := 2, img := 3, mill := 7, curlen := 5, maxlen := 10, deadline := 9000, parkPages := 1
                     parklen := 64, tokens := [1, 2, 3, 4, 5, 6], sublen := 3, outcur := 6 }
    let s := serving x0 [(9, r)]
    let b := fun (q na g : Nat) => leBytes 2 q ++ [0, 0] ++ leBytes 4 na ++ leBytes 4 g ++ leBytes 4 na ++ leBytes 8 0 ++ leBytes 8 0
      ++ (List.range na).flatMap (fun i => leBytes 4 (990 + i)) ++ List.replicate (roundUp (4 * na) 8 - 4 * na) 0
    let full := { s with pond := { s.pond with pools := [(7, { pages := 4, vocab := 1000, used := [0, 1, 2, 3] })] } }
    let sum := { s with pond := { s.pond with reqs := [(9, { r with summary := true, lead := 2 })]
                                              pools := [(7, { pages := 4, vocab := 1000, used := [3], reserved := 1, sumpos := 3 })] } }
    (num (b 9 2 90) 4 4 = 2 ∧ num (b 9 2 90) 12 4 = 2 ∧ num (b 9 2 90) 8 4 = 90 ∧ (b 9 2 90).length = 40 ∧ zeros (b 9 2 90) 40 40 = true ∧
     num (b 9 2 90) 2 1 < 4 ∧ zeros (b 9 2 90) 3 4 = true) ∧
    pagesFor 97 = 2 ∧ freePages (poolOf s 7) = 2 ∧ freePages (poolOf full 7) = 0 ∧ (poolOf full 7).pfxent = 0 ∧ (reqOf s 9).st = .parked ∧
    (reqOf s 9).restore = false ∧ (reqOf sum 9).lead ≤ (reqOf sum 9).curlen ∧ freePages (poolOf sum 7) = 2 ∧ (poolOf sum 7).sumpos = 3 := by
  decide +kernel

/-- FETCH replies: in place, out of place, with a code, not awaited; and a time-out (R374). -/
theorem test_fetch :
    let s := { serving x0 [] with hop := { op := .loadWeights, slot := 3, fetches := [{ xid := 1, index := 0, off := 0, len := 16, since := 8000 }], slots := [(3, { st := .staged, session := 1 })] } }
    let b := fun (xid code off : Nat) => leBytes 4 xid ++ [BitVec.ofNat 8 code, 0, 0, 0] ++ leBytes 8 off ++ leBytes 4 8 ++ leBytes 4 0 ++ List.replicate 8 0xEE
    nextIs (exec (.fetchTimeout 2) s) (fun t => t.hop = s.hop) ∧
    ((b 1 0 0).length = 32 ∧ zeros (b 1 0 0) 32 32 = true ∧ zeros (b 1 0 0) 5 8 = true ∧ zeros (b 1 0 0) 20 24 = true ∧ num (b 1 0 0) 16 4 = 8) ∧
    (s.hop.fetches.find? fun y => y.xid == 1 && decide (y.got.length < y.len)) = some { xid := 1, index := 0, off := 0, len := 16, since := 8000 } ∧
    (s.hop.fetches.find? fun y => y.xid == 2) = none ∧ (slotOf s 3).session = 1 := by decide +kernel

/-- A repeated message, one 63 ahead, a wrong tag, and a reserved field that quarantines (R365, R376, R377). -/
theorem test_frame_checks :
    let s := serving x0 []
    let q := { s with sluice := { s.sluice with ports := [(0, { cfg := 0x41, linkA := true, viol := 0x0000010003E80001 })] } }
    let c := fun (seq : BitVec 32) (flags : Nat) => frameOf 0x12 flags seq 4 0 (leBytes 2 9 ++ List.replicate 6 0)
    let held : Session := { x0 with viol := 5, quarUntil := some 9900 }
    let k := { q with sluice := { q.sluice with sessions := [held] } }
    quarantined k held = true ∧ held.quarErrAt = none ∧ held.staged = none ∧ sessionOf k 1 = some held ∧
    nextIs (exec (.cancel (c 8 0)) { s with clk := {} }) (fun t => t.out = []) ∧
    ((7 : BitVec 32) - 8).toNat ≥ 2 ^ 31 ∧ ((71 : BitVec 32) - 8).toNat = 63 ∧ x0.held = [] ∧ x0.naks = [] ∧ x0.violAt = none ∧
    heldBytes s 0 + 40 ≤ 4 * 2 ^ 20 ∧ bits (portOf q 0).viol 0 16 = 1 ∧ bits (portOf q 0).viol 40 24 ≠ 0 ∧
    portTakes { s with clk := {} } 0 false = false := by decide +kernel

/-- A tag differs from its complement: the hypothesis of a wrong tag is met, whatever the tag is. -/
theorem test_wrong_tag (tag : List Byte) (h : tag.length = 16) : tag ≠ tag.map (~~~ ·) := by
  cases tag with
  | nil => cases h
  | cons b bs => exact fun e => absurd (List.cons.inj e).1 ((by decide +kernel : ∀ b : Byte, b ≠ ~~~b) b)

/-- The windows of a session, and the lanes and the configuration of port 0 (R354, R355, R357, R377, R381, R382, R385). -/
theorem test_ports :
    let s := serving { x0 with viol := 3, violAt := some 9500, quarUntil := none } []
    let l := { s with sluice := { s.sluice with ports := [(0, { cfg := 0x41, los := 1, localClk := true })] } }
    let off := { s with sluice := { s.sluice with ports := [] } }
    let f := frameOf 0x12 0 8 4 0 []
    let bad : Frame := { f with env := { env0 with etype := 0x88B6, corrected := 2 } }
    let torn : Frame := { f with env := { env0 with fcs := false } }
    let time := { s with sluice := { s.sluice with ports := [(0, { cfg := 0x141, linkA := true })] } }
    let announce : Frame := { f with env := { env0 with etype := 0x88F7 } }
    let short : Frame := { f with bytes := List.replicate 45 0 }
    let long : Frame := { f with bytes := List.replicate 9199 0 }
    nextIs (exec (.frameDiscard f) s) (fun t => decide (t = s)) ∧
    nextIs (exec (.frameDiscard bad) s) (fun t => Tbl.get 0 (portOf t 0).cnt 3 = 1 && Tbl.get 0 (portOf t 0).cnt 4 = 2 && Tbl.get 0 (portOf t 0).cnt 2 = 0) ∧
    nextIs (exec (.cancel torn) s) (fun t => Tbl.get 0 (portOf t 0).cnt 2 = 1 && t.sluice.sessions = s.sluice.sessions) ∧
    nextIs (exec (.frameDiscard short) s) (fun t => Tbl.get 0 (portOf t 0).cnt 3 = 1) ∧
    nextIs (exec (.sluCfg 0 0x01) s) (fun t => (portOf t 0).cfg = 0x41) ∧
    ptpFrame time announce = true ∧ ptpFrame s announce = false ∧ keeps time announce = false ∧ frameSize short < 64 ∧ 9216 < frameSize long ∧
    nextIs (exec (.sluCfg 0 0x41) off) (fun t => bit t.glb.stat 16) ∧ nextIs (exec (.blockLock 0 false) l) (fun t => bit t.glb.stat 16) ∧
    keeps s f = true ∧ keeps s bad = false ∧ keeps s torn = false ∧ bit (portOf s 0).los 0 = false ∧ (portOf l 0).los &&& laneMask false false ≠ 0 ∧
    (sessionOf s 1).isSome = true ∧ quarantined s (sess s) = false ∧ timeRuns s = true ∧ millerUp s = true ∧ bit (portOf s 0).cfg 0 = true ∧
    (portOf s 0).localClk = false ∧ (portOf l 0).localClk = true ∧ sluOpen s 0 = true ∧ bits (0x41 : Word) 2 2 ≠ 3 := by decide +kernel

/-- The slave clock on port 0: a one-step and a two-step Sync, the answer to a Delay_Req with an image in a slot, and with none (R379, R380). -/
theorem test_ptp :
    let on := fun (p : Ptp) => let s := serving x0 []; { s with sluice := { s.sluice with ports := [(0, { cfg := 0x141, linkA := true })], ptp := p } }
    let s := on {}
    let asked : Ptp := { sync := some (4, 1600, some 1200), req := some (6, 2000), seq := 7 }
    let free : State := { on { asked with sync := some (4, 1600, some 2400) } with hop := {} }
    portTakes s 0 false = true ∧ bit (portOf s 0).cfg 8 = true ∧ (asked.sync.isSome && asked.req.isSome) = true ∧
    (free.hop.slots.all (fun y => decide (y.2.st = .free))) = true ∧ ((on asked).hop.slots.all (fun y => decide (y.2.st = .free))) = false ∧
    nextIs (exec (.ptpEventMessage (.sync 4 true 0) 3) (serving x0 [])) (fun t => decide (t = serving x0 [])) := by decide +kernel

/-! ### The Millpond -/

/-- The route entries of a region for region `r`, by XY on every plane. -/
def straightTo (r : Nat) : RegRace := { routes := (List.range 4).map fun p => (4 * r + p, { mode := 1 }) }

/-- The serving device, with regions 1 to 3 on and the way from the edge of region 3 (R18) to region 0 and back open, with window 14 of core 5 open to mill 7 both ways over 512 bytes, and mill 7's batch `b`. -/
def ponding (rs : Tbl Req) (b : Batch) : State :=
  let s := serving x0 rs
  { s with
    regions := [(0, { regionOf s 0 with race := straightTo 3 }), (1, { pwr := { rails := 15 } }), (2, { pwr := { rails := 15 } }),
                (3, { pwr := { rails := 15 }, race := straightTo 0 })]
    cores := [(5, { len := 20, handles := [(1, mkHandle 1 0 64 true true)], windows := [(14, { opened := true, w0 := 0x2000000001, w1 := 0x3007 })] })]
    pond := { s.pond with batches := [(7, b)] } }

/-- A request of mill 7 in the class of the tests. -/
def req7 : Req := { st := .decode, session := 1, realm := 2, img := 3, mill := 7, pages := [3], curlen := 5, maxlen := 10, deadline := 9000, outcur := 5
                    tokens := [11, 12, 13, 14, 15], fresh := false }

/-- A pass over one request: past its deadline, cancelled, or ready, so that its step takes 288 bytes of LTWIN (R298, R299, R302, R303). -/
theorem test_pass :
    let s := ponding [(9, req7)] {}
    let n := fun r => { ponding [(9, r)] {} with mills := [] }
    unitReqs s 0 = [9] ∧ unitMills s 0 = [7] ∧ unitMills (n req7) 0 = [] ∧ reqsOf s 7 = [9] ∧ unitReqs s 1 = [] ∧ unitMills s 1 = [] ∧
    (reqOf s 9).st = .decode ∧ busyReq s 9 = false ∧ busyReq (n req7) 9 = false ∧
    (classOf s 3 0).any (fun k => k.onend = 0 && k.draft = 0) = true ∧ canStart s 7 = true ∧ (batchOf s 7).recs = [] ∧
    (serveOf s 7).any (fun r => r.role = 0 && r.draftMill = 7 && r.ltwin = 14 && decide (1 ≤ r.maxbatch)) = true ∧ anchorsOf s 7 = [5] ∧
    (millOf s 7).dstate = .opened ∧ (windowOf (coreOf s 5) 14).opened = true ∧ (windowOf (coreOf s 5) 14).dir = 3 ∧
    (windowOf (coreOf s 5) 14).accum = false ∧ (ltRange s 7 5) = (1, 0, 512) ∧ pagesFor 5 = 1 ∧ (sessionOf s 1).isSome = true ∧
    EdgeOpen s 0 5 .a ∧ Unpoisoned s (coreAddr 5 1 0) 208 ∧ (reqOf s 9).cancelAtPark = false := by
  unfold EdgeOpen WayOpen RouteOpen Unpoisoned; decide +kernel

/-- The lookup of a request that fits, of one that the pool could never hold, and of one that does not fit now (R284, R289, R295). -/
theorem test_lookup :
    let r : Req := { st := .admitted, session := 1, realm := 2, img := 3, mill := 7, maxlen := 100, deadline := 9000, lookup := true, tokens := [1, 2], sublen := 2 }
    let s := fun r => serving x0 [(9, r)]
    let full := { s r with pond := { (s r).pond with pools := [(7, { pages := 2, used := [0, 1] })] } }
    let drop := { full with hop := { full.hop with slots := [(3, { slotOf full 3 with image := serveImage.set 322 1 })] } }
    (poolOf (s r) 7).pfxent = 0 ∧ pagesFor 100 = 2 ∧ freePages (poolOf (s r) 7) = 2 ∧ freePages (poolOf full 7) = 0 ∧
    (classOf (s r) 3 0).any (·.onfull = 0) = true ∧ (classOf drop 3 0).any (·.onfull = 1) = true ∧ (poolOf (s r) 7).pages = 4 ∧ pagesFor 257 = 5 ∧ x0.unacked = [] := by decide +kernel

/-- The reads of a bucket that holds the block of a request: clean, corrected, and not to be corrected; the next read meets the poison (R129, R295). -/
theorem test_lookup_reads :
    let r : Req := { st := .admitted, session := 1, realm := 2, img := 3, mill := 7, maxlen := 70, deadline := 9000, lookup := true
                     tokens := List.replicate 65 7, sublen := 65, firstLen := 65 }
    let b := serving x0 [(9, r)]
    let s := { b with pond := { b.pond with pools := [(7, { pages := 4, pageb := 64, vocab := 1000, used := [3], pfxent := 8 })] } }
    (serveOf s 7).isSome = true ∧ anchorsOf s 7 = [5] ∧ shareable r = 1 := by decide +kernel

/-- One DECODE record of request 9, whose new position is 4. -/
def ltRec9 : LtRec := { req := 9, flags := 1, epoch := 1, pos0 := 4, nnew := 1, dlen := 0, nadd := 0, addoff := 0, tokoff := 0, npages := 1, snaddr := 0 }

/-- The ring of a batch that waits; none is rung twice; the end of a parked request's time to live (R305, R313). -/
theorem test_ring :
    let b : Batch := { kind := 1, groups := [0], recs := [ltRec9], tokens := [15], resoff := 208 }
    let s := ponding [(9, req7)] b
    let p := serving x0 [(9, { st := .parked, session := 1, realm := 2, img := 3, mill := 7, parkexp := 9500 })]
    (batchOf s 7).recs ≠ [] ∧ canStart s 7 = true ∧ s.bst.shut = .none ∧ (serveOf s 7).isSome = true ∧ (reqOf p 9).st = .parked ∧
    timeRuns p = true ∧ (reqOf p 8).st = .free := by decide +kernel

/-- The commit of a retired DECODE step: one token, a malformed result, and one past the deadline (R304-R306). -/
theorem test_commit :
    let b : Batch := { kind := 1, groups := [0], recs := [ltRec9], tokens := [15], resoff := 208, rung := true, retired := true, time := 9000 }
    let s := fun (r : Req) (b : Batch) (n : Byte) => { ponding [(9, { r with instep := true })] b with
      mem := (writeBytes (ponding [] {}) (coreAddr 5 1 208) ([9, 0, n, 0, 0, 0, 0, 0, 77, 1] ++ List.replicate 70 0)).mem }
    let shut := { s req7 b 1 with regions := [(0, regionOf (s req7 b 1) 0)] }
    (let a := readBytes (s req7 b 1) (coreAddr 5 1 208) 80
     num a 0 2 = 9 ∧ num a 2 1 = 1 ∧ num a 8 4 = 0x14D) ∧ num (readBytes (s req7 b 2) (coreAddr 5 1 208) 80) 2 1 ≠ 1 ∧
    (serveOf (s req7 b 1) 7).any (fun r => r.role = 0 && r.draftMill = 7 && r.ltwin = 14) = true ∧ anchorsOf (s req7 b 1) 7 = [5] ∧
    ltRange (s req7 b 1) 7 5 = (1, 0, 512) ∧ (reqOf (s req7 b 1) 9).instep = true ∧ (batchOf (ponding [] {}) 7).rung = false ∧
    EdgeOpen (s req7 b 1) 0 5 .k ∧ WayOpen (s req7 b 1) .k 5 (edgeDoor (s req7 b 1) 0 5 .k) ∧
    Unpoisoned (s req7 b 1) (coreAddr 5 1 208) 80 ∧ (newRoute shut (edgeDoor shut 0 5 .k / 256) 0 .k).mode = 0 := by
  unfold EdgeOpen WayOpen RouteOpen Unpoisoned; decide +kernel

/-! ### Tailrace links and remote stage queues -/

/-- A flit of type DATA, QCFG or IDLE as its header says. -/
def flit0 : Flit := { seq := 6, ack := 0, nak := false, som := true, eom := true, queue := 2, len := 3, cq := 2, cred := 0, payload := [1, 2, 3] }

/-- Receive window of the queue of the tests: window 14 of core 5, from its first byte on (R391). -/
def rx14 : Word := BitVec.ofNat 64 (14 * 2 ^ 52 + coreAddr 5 1 0)

/-- Queue 2 of the tests: 3 slots of 128 bytes. -/
def queue2 : LQueue := { en := true, nslot := 3, slotb := 2, rx := rx14, prod := 4, toPublish := 1, held := 1, cons := 3, credit := 5 }

/-- The serving device with link 1 as `x`, window 14 of core 5 open, and Flume rights in the image. -/
def linked (x : Link) : State := { ponding [] {} with links := [(1, x)], realms := [(2, { present := true })] }

/-- A final DATA flit kept for replay. -/
def sent4 : TxFlit := { type := 1, seq := 4, queue := 2, som := true, eom := true, mseq := 9, payload := [7] }

/-- The headers of the flits that link 1 has sent (R388). -/
def headers (t : State) : List Nat := t.out.filterMap fun o => match o with | .flit 1 bs => some (num bs 0 8) | _ => none

/-- The header of `sent4` with an acknowledgement of 6, and that of an IDLE flit. -/
def resent4 : Nat := word [(1, 0), (4, 4), (6, 16), (1, 29), (1, 30), (2, 32), (1, 36)]
def idle_ (ack nak cq cred : Nat) : Nat := word [(ack, 16), (nak, 28), (cq, 44), (cred, 48)]

/-- The flits of a link: credits, an acknowledgement, a NAK, DATA as awaited and not, QCFG, and a flit discarded by its check (R388-R392). -/
theorem test_flits :
    let x : Link := { up := true, en := true, realmValid := true, realm := 2, rxSeq := 6, queues := [(2, queue2)] }
    let s := linked x
    let r := linked { x with replay := [sent4] }
    let held := { s with mills := [(7, { millOf s 7 with st := .restart })] }
    let dest := coreAddr 5 1 0 + 64 + 5 % 3 * 128
    nextIs (exec (.idle 1 { flit0 with cred := 7 }) s) (fun t => (queueOf t 1 2).credit = 12 && t.out = []) ∧
    nextIs (exec (.idle 1 { flit0 with cred := 65535 }) s) (fun t => (queueOf t 1 2).credit = 65535) ∧
    nextIs (exec (.idle 1 { flit0 with ack := 5 }) r) (fun t => (linkOf t 1).replay = [] && (queueOf t 1 2).txacked = 9 && (linkOf t 1).ackAt = 9000) ∧
    nextIs (exec (.idle 2 { flit0 with cred := 7 }) s) (fun t => decide (t = s)) ∧
    (x.cfgDue = false ∧ x.nakDue = false ∧ x.ackDue = false ∧ ∀ q ∈ x.queues, q.2.sendq = [] ∧ q.2.owe = 0) ∧
    (windowOf (coreOf s 5) 14).dir = 3 ∧ windowRange (coreOf s 5) (windowOf (coreOf s 5) 14) = (1, 0, 512) ∧ bits rx14 34 14 = 5 ∧
    bits rx14 52 4 = 14 ∧ bits rx14 56 8 = 0 ∧ fld dest 30 4 = 1 ∧ fld dest 0 30 + 67 ≤ 512 ∧ ownerOf s 5 = some 7 ∧
    (millOf s 7).dstate = .opened ∧ (millOf s 7).st = .idle ∧ (regionOf s 0).org.realm.map (·.val) = some 2 ∧
    queue2.inbox = [] ∧ (millOf held 7).st = .restart ∧ ownerOf held 5 = some 7 ∧ EdgeOpen s (linkEdge 1) 5 .k ∧ Unpoisoned s dest 67 := by
  unfold EdgeOpen WayOpen RouteOpen Unpoisoned; decide +kernel

/-- The replay timer, the training that ends and the training that fails (R387, R389, R394). -/
theorem test_link_timers :
    let x : Link := { up := true, replay := [sent4], rxSeq := 6, ackAt := 8500, queues := [(2, { queue2 with partialMsg := some [1] })] }
    let s := linked x
    let t0 := linked { x with up := false, training := true, trainAt := 8000 }
    let first := linked { x with up := false, training := true, fresh := true }
    nextIs (exec (.replayTimer 1 true) s) (fun t => (linkOf t 1).replays = 0 && Tbl.get 0 (linkOf t 1).cnt 7 = 1 && t.out = []) ∧
    nextIs (exec (.retrainTimeout 1) first) (fun t => decide (t = first)) ∧
    nextIs (exec (.retrainTimeout 1) s) (fun t => t.links = s.links) ∧
    parksWith t0 (fun r => decide (r.msgs.1 < r.msgs.2)) = [] ∧
    (∀ q ∈ (linkOf t0 1).queues, q.2.en = true → flumesWith t0 (inAperture (queueOf t0 1 q.1)) = []) := by decide +kernel

/-- A message of 300 bytes is two flits; a second queue's flit goes between them; without a credit the message waits (R390, R391). -/
theorem test_round_robin :
    let m : LQueue := { credit := 2, sendq := [{ id := 0, bytes := List.replicate 300 7 }] }
    let x : Link := { up := true, queues := [(2, m), (3, { credit := 1, sendq := [{ id := 1, bytes := [9] }] }), (4, { sendq := [{ id := 2, bytes := [1] }] })] }
    let t := settleLink (linked x) 1
    (linkOf t 1).replay.map (fun f => (f.queue, f.som, f.eom, f.payload.length)) = [(2, true, false, 240), (3, true, true, 1), (2, false, true, 60)] ∧
    (queueOf t 1 2).credit = 1 ∧ (queueOf t 1 4).sendq.length = 1 := by decide +kernel

/-- PROD and CONS, the enabling of a queue of as many slots as the window holds and of one more, and TLR_CFG (R392-R395). -/
theorem test_queues :
    let x : Link := { en := true, up := true, realmValid := true, realm := 2, queues := [(2, queue2)] }
    let s := linked x
    let n := linked { x with queues := [(2, { queue2 with en := false })] }
    let shut := { s with regions := [(0, regionOf s 0)] }
    let held := { s with mills := [(7, { millOf s 7 with st := .restart })] }
    let gone := { s with regions := (0, { regionOf s 0 with org := { shape := .short, realm := some 2 } }) :: s.regions.drop 1
                         links := [(1, { linkOf s 1 with queues := [(2, { queue2 with rx := BitVec.ofNat 64 (14 * 2 ^ 52 + coreAddr 245 1 0) })] })] }
    let w := fun (nslot slotb : Nat) => (BitVec.ofNat 64 (1 + 256 * nslot + 2 ^ 24 * slotb) : Word)
    nextIs (exec (.tlrCfg 1 0x33) n) (fun t => t.links = n.links) ∧
    enableCode n 1 (queueOf n 1 2) (w 3 2) = none ∧ flumesWith s (fun t => !t.served && inAperture queue2 t) = [] ∧ tlrOpen s 1 = true ∧
    WayOpen s .k 5 (edgeDoor s (linkEdge 1) 5 .k) ∧ EdgeOpen s (linkEdge 1) 5 .k ∧ coreExists gone 245 = false ∧ coreExists s 245 = true ∧
    (newRoute shut (edgeDoor shut (linkEdge 1) 5 .k / 256) 0 .k).mode = 0 ∧ (millOf held 7).st = .restart ∧ (millOf shut 7).st = .idle ∧
    tlrOpen { s with clk := {} } 1 = false ∧ (realmOf s 2).present = true ∧ (realmOf s 3).present = false ∧ queue2.toPublish = 1 := by
  unfold EdgeOpen WayOpen RouteOpen; decide +kernel

/-! ### Snowpack, and the patrols -/

/-- The ready device with every stack of Snowpack in service, region 0 powered, and every register reached. -/
def snowDev : State :=
  { readyDev with
    clk := { gate := 0x3FFFFFFFF }
    regions := [(0, { org := { shape := .full }, pwr := { rails := 15 } })]
    snow := { ctl := (List.range 4).map fun k => (k, { ready := 63 }) } }

/-- A patrol of the first burst, clean, corrected, and one that cannot be corrected; the last burst of a pass; no patrol (R130, R161, R410). -/
theorem test_patrols :
    let s := snowDev
    let top := { s with regions := [(0, { org := { shape := .full }, pwr := { rails := 15 }, mem := { position := 2 ^ 36 - 64 } })] }
    let off := { s with regions := [(0, { org := { shape := .full }, pwr := { rails := 15 }, mem := { interval := 0 } })] }
    nextIs (exec (.snowpackPatrol 0 .clean false) s) (fun t => (ctlOf t 0).position = 64 && t.snow.poison = []) ∧
    nextIs (exec (.snowpackPatrol 0 .clean false) { s with glb := { s.glb with st := .boot } }) (fun t => t.snow = s.snow) ∧
    nextIs (exec (.snowpackWriteBack 0 64) { s with snow := { s.snow with ctl := [(0, { writeBacks := [64, 128] })] } }) (fun t => (ctlOf t 0).writeBacks = [128]) ∧
    nextIs (exec (.patrol 0 .clean) s) (fun t => (regionOf t 0).mem.position = 64) ∧
    nextIs (exec (.patrol 0 .clean) off) (fun t => t.regions = off.regions) ∧
    nextIs (exec (.writeBack 1 64) { s with regions := [(0, { mem := { writeBacks := [coreAddr 1 0 64] } })] }) (fun t => (regionOf t 0).mem.writeBacks = [coreAddr 1 0 64]) ∧
    nextPatrol s 0 0 = some 0 ∧ nextKv s 0 0 = some 0 ∧ nextKv top 0 (2 ^ 36 - 64) = some (2 ^ 36 - 64) ∧ snowCtl s 0 = 0 ∧ isUp s = true ∧ (ctlOf s 0).interval ≠ 0 ∧
    bit (regionOf s 0).pwr.rails 3 = true ∧ bit (regionOf off 0).pwr.rails 3 = true := by decide +kernel

/-- Refreshes, temperatures at 95, 94 and 92 degrees, and a stack that fails (R414, R415, R463). -/
theorem test_stacks :
    let s := snowDev
    let hot := { s with snow := { ctl := (List.range 4).map fun k => (k, { ready := 63, hot := 2 }) } }
    nextIs (exec (.refresh 0 1) s) (fun t => Tbl.get 0 (ctlOf t 0).refreshes 1 = 1) ∧
    nextIs (exec (.rfm 0 1) s) (fun t => Tbl.get 0 (ctlOf t 0).cnt 7 = 1) ∧
    nextIs (exec (.snowpackTemperature 0 1 1520) s) (fun t => bit (ctlOf t 0).hot 1) ∧
    nextIs (exec (.snowpackTemperature 0 1 1519) s) (fun t => !bit (ctlOf t 0).hot 1) ∧
    nextIs (exec (.snowpackTemperature 0 1 1473) hot) (fun t => bit (ctlOf t 0).hot 1) ∧
    nextIs (exec (.snowpackTemperature 0 1 1472) hot) (fun t => !bit (ctlOf t 0).hot 1) ∧
    isUp s = true ∧ stackUp s 1 = true ∧ stackUp s 7 = true ∧ bit (ctlOf s 1).failed 1 = false ∧ s.glb.fw = true ∧ stackUp readyDev 1 = false := by decide +kernel

/-- The zone map: bit 30 sets the last zone, bit 31 none; an image forbids the write; the zeroing ends (R401, R418). -/
theorem test_zones :
    let s := { snowDev with mem := (writeBytes snowDev (snowAddr (30 * zoneSize)) [7]).mem }
    let img := { s with hop := { slots := [(3, { st := .loaded })] } }
    let beyond := snowAddr (30 * zoneSize) + 65536
    let ap := { s with links := [(1, { queues := [(2, { en := true, tx := BitVec.ofNat 64 (30 * zoneSize + 2 ^ 40) })] })]
                       mem := (writeBytes s beyond [9]).mem }
    nextIs (exec (.snwZmap 0xC0000000) s) (fun t => t.snow.zmap = 0x40000000 && t.snow.zeroing = [30] && t.mem = []) ∧
    nextIs (exec (.snwZmap 0xC0000000) ap) (fun t => t.snow.zeroing = [30] && readByte t (snowAddr (30 * zoneSize)) = 7 && readByte t beyond = 0) ∧
    nextIs (exec (.snwZmap 0x40000000) { s with clk := {} }) (fun t => t.snow = s.snow) ∧
    nextIs (exec (.zoneZeroed 30) { s with snow := { s.snow with zeroing := [30, 2] } }) (fun t => t.snow.zeroing = [2]) ∧
    snwOpen s 0 = true ∧ snwOpen { s with clk := {} } 0 = false ∧ (img.hop.slots.any fun p => p.2.st ≠ .free) = true ∧
    readByte s (snowAddr (30 * zoneSize)) = 7 ∧ apertures ap = [(1, 2, 30 * zoneSize, 65536)] ∧ readByte ap beyond = 9 := by decide +kernel

/-! ### Power, heat, clocks and faults -/

/-- The ready device whose regions 0 and 1 are as `x` and `y`. -/
def powerDev (x y : Region) : State := { readyDev with regions := [(0, x), (1, y)] }

/-- A full region, powered, with power registers `p`. -/
def full (p : RegPwr) : Region := { org := { shape := .full }, pwr := { p with rails := 15 } }

/-- Power up and down; a raise too early, the end of a raise, and a lowering (R437, R438, R441-R443). -/
theorem test_supply :
    let s := { powerDev { org := { shape := .full } } (full {}) with pins := { State.reset.pins with pgCore := true, pgVddm := 1 } }
    let on := { powerDev (full { op := 3, mv := 620, lastRise := some 8000 }) (full {}) with mem := [(5, 9), (at_ 30 1 + 5, 8), (at_ 42 1 + 5, 7)] }
    let slow := powerDev (full { op := 3, hostlim := 4 }) (full {})
    let up := powerDev (full { op := 3, raising := some 8999 }) (full {})
    let img := { on with hop := { slots := [(3, { st := .staged, regions := 1 })] } }
    nextIs (exec (.regionPowerDown 0 false) img) (fun t => t.regions = on.regions) ∧
    nextIs (exec (.opLower 0) slow) (fun t => (pwrOf t 0).op = 4 && (pwrOf t 0).mv = 600 && t.clk.stops = 1) ∧
    nextIs (exec (.opLower 0) on) (fun t => t.regions = on.regions) ∧
    nextIs (exec (.opRaise 0) up) (fun t => (pwrOf t 0).op = 2 && t.glb.time = 28999) ∧
    nextIs (exec (.opRaise 0) on) (fun t => t.regions = on.regions) ∧
    millerUp s = true ∧ (regionOf s 0).org.shape = .full ∧ (pwrOf s 0).rails ≠ 15 ∧ bit s.pins.pgVddm (groupOf 0) = true ∧ vddcOn on 0 = true ∧
    opLimit on 0 = 0 ∧ opLimit slow 0 = 4 ∧ vddcOn s 0 = false ∧ bit on.pins.pgVddm 15 = true ∧
    (img.hop.slots.any fun y => decide (y.2.st ≠ .free) && bit y.2.regions 0) = true := by decide +kernel

/-- A window at the limit, above it, and above it at the floor; a quiet millisecond; a droop; a gain (R447-R451). -/
theorem test_currents :
    let s := powerDev (full { op := 3 }) (full {})
    let floor := powerDev (full { ilimScale := 4 }) (full {})
    let held := powerDev (full { droopHold := true, droopAt := 8900 }) (full {})
    let g := { s with frn := { chans := [(0, { f2 := 256 * 110, fscale := 65535 })], stored := [(0, some (0, 0, 0))] } }
    nextIs (exec (.estimatorWindow 0 400 80 240 60) s) (fun t => (pwrOf t 0).ilimEvt = 0 && !(pwrOf t 0).ilimHold && (pwrOf t 0).quietAt = 9000) ∧
    nextIs (exec (.estimatorWindow 0 359 71 215 53) s) (fun t => (pwrOf t 0).ilimEvt = 0 && (pwrOf t 0).quietAt = 0) ∧
    nextIs (exec (.estimatorWindow 0 0 81 0 0) floor) (fun t => (pwrOf t 0).ilimHold && (pwrOf t 0).ilimScale = 4 && (pwrOf t 0).ilimlim = 1) ∧
    nextIs (exec (.droop 0) s) (fun t => (pwrOf t 0).droopHold && (pwrOf t 0).droopEvt = 1 && (pwrOf t 0).droopAt = 9000) ∧
    nextIs (exec (.droopHoldEnd 0) held) (fun t => !(pwrOf t 0).droopHold && t.glb.time = 9028) ∧
    (pwrOf s 0).ilim = 0x003C00F000500190 ∧ bits (pwrOf s 0).ilim 16 9 = 80 ∧ bits (pwrOf s 0).ilim 0 9 = 400 ∧ (pwrOf floor 0).op = 5 ∧ (pwrOf held 0).droopHold = true ∧
    imonChannel 0 3 = 0 ∧ Tbl.get none g.frn.stored 0 ≠ none ∧ millerUp s = true ∧ vddcOn s 0 = true := by decide +kernel

/-- The cap: above it, at it, below 97 % of it, and with every class at its floor (R453, R454). -/
theorem test_power_cap :
    let s := fun (p : Pwr) => { readyDev with pwr := { p with cap := 1000 } }
    let floor : Pwr := { cscale := 0, mscale := 2, lscale := 1, caplim := 5 }
    nextIs (exec (.capEvaluation 1001 0) (s {})) (fun t => t.pwr.cscale = 15 && t.pwr.steps = [.compute]) ∧
    nextIs (exec (.capEvaluation 1001 0) (s { cscale := 0, prio := 1 })) (fun t => t.pwr.lscale = 7) ∧
    nextIs (exec (.capEvaluation 1000 0) (s {})) (fun t => t.pwr.cscale = 16 && t.pwr.p10 = 1000) ∧
    nextIs (exec (.capEvaluation 970 0) (s { cscale := 15, steps := [.compute] })) (fun t => t.pwr.cscale = 15) ∧
    capOrder 0 = [.compute, .memory, .links] ∧ atFloor floor .caplim = true ∧ atFloor floor .links = true ∧ millerUp (s {}) = true := by decide +kernel

/-- One region above its threshold, one that has cooled for long enough, and neither (R459-R461). -/
theorem test_heat :
    let s := powerDev (full { op := 3 }) (full { thmlim := 2, cool := 9 })
    s.thm.stkThr = 95 ∧ s.thm.hyst = 5 ∧ (pwrOf s 0).op ≠ 5 ∧ vddcOn s 0 = true ∧ 9 ≤ (pwrOf s 1).cool ∧ 0 < (pwrOf s 1).thmlim := by decide +kernel

/-- Trips while RUNNING, in BOOT, in PARKED and in OFF; the loss of one rail (R462, R511-R513). -/
theorem test_trips :
    let s := powerDev (full {}) (full {})
    let b := { s with glb := { st := .boot } }
    let p := { s with glb := { st := .parked }, hop := { retain := [{ meas := [1], regions := 1 }, { meas := [2], regions := 2 }] },
                      mem := [(5, 9), (at_ 42 1 + 5, 7)] }
    let o := { s with glb := { st := .off } }
    let down := { s with glb := { st := .standby }, pins := { s.pins with seq := .down } }
    let up := { down with pins := { s.pins with seq := .waitCore } }
    nextIs (exec (.trip ⟨0, false⟩) o) (fun t => t.thm = o.thm) ∧
    (pwrOf s 1).rails &&& 8 ≠ 0 ∧ (pwrOf s 2).rails &&& 8 = 0 ∧ b.glb.fw = false ∧ bit (pwrOf p 0).rails 0 = true ∧
    rising up = true ∧ down.pins.seq = .down ∧ p.glb.fw = false ∧ s.moraine = [] ∧ millerUp s = true := by decide +kernel

/-- A field trip of every state but two; a PLL that loses lock; a Miller that stops (R462, R464, R475, R514). -/
theorem test_faults :
    let s := { withCore 5 (running 4 []) with mem := [(5, 9)] }
    let b := { State.reset with glb := { st := .standby } }
    let up := { b with pins := { b.pins with seq := .waitCore, enEdgeA := true }, frn := { b.frn with crystal := false } }
    nextIs (exec .millerWatchdog { s with glb := { s.glb with fw := false } }) (fun t => t.glb.st = .running) ∧
    nextIs (exec .d0Stop b) (fun t => t.glb.st = .standby) ∧
    rising up = true ∧ rising s = false ∧ up.frn.crystal = false ∧ timeRuns s = true ∧ timeRuns b = false ∧ s.glb.fw = true ∧ s.frn.kept = [] := by decide +kernel

/-- A rule on channel 3: CAL above 100, DEBOUNCE 2, hysteresis 10. -/
def rule3 : Word := BitVec.ofNat 64 (3 + 2 ^ 10 + 2 * 2 ^ 12 + 100 * 2 ^ 16 + 10 * 2 ^ 32)

/-- A sample without a rule; the rule's comparison at its threshold and past it, and past its hysteresis; a calibration (R469-R472). -/
theorem test_samples :
    let c : Chan := { gain := 1024, k1 := 1 }
    let dac := { readyDev with frn := { chans := [(3, { c with f1 := 77 })], tdac := 0x1230083, rules := [(1, { w := rule3, run := 1 })] } }
    let cal := { readyDev with frn := { chans := [(3, { c with suspended := true, sum := 5, cntLeft := 2 })], phase := 1, mask := 8 } }
    bit dac.frn.tdac 7 = true ∧ bits dac.frn.tdac 0 7 = 3 ∧ bits dac.frn.tdac 16 10 = 0x123 ∧
    bits rule3 10 2 = 1 ∧ bits rule3 8 2 = 0 ∧ bits rule3 12 4 = 2 ∧ bits rule3 0 7 = 3 ∧ (chanOf cal 3).suspended = true ∧ bit cal.frn.mask 3 = true ∧
    bits cal.frn.tdac 0 7 ≠ 3 ∧ cal.frn.phase ≠ 0 ∧ cal.glb.fw = true := by decide +kernel

/-- Rule words, the test converter, the latches of trips (R470, R471, R481, R482). -/
theorem test_rules :
    let s := { readyDev with frn := { rules := [(1, { w := 7, run := 3 })], active := 2 }, thm := { trip := 7, tripHbm := 5, tripField := 3 } }
    let cal := { s with frn := { s.frn with phase := 2 } }
    nextIs (exec (.frnRule 1 rule3) s) (fun t => (Tbl.get {} t.frn.rules 1).w = rule3 && !bit t.frn.active 1) ∧
    nextIs (exec (.frnTdac 0x1230083) s) (fun t => t.frn.tdac = 0x1230083) ∧
    nextIs (exec (.frnTdac 0x1230003) cal) (fun t => t.frn.tdac = 0x1230003) ∧
    nextIs (exec (.thmTrip false 5) s) (fun t => t.thm.trip = 2) ∧ nextIs (exec (.thmTrip true 0x300000004) s) (fun t => t.thm.tripHbm = 1 && t.thm.tripField = 0) ∧
    ruleOk rule3 = true ∧ ruleOk 3 = false ∧ hostReach s = true ∧ bit (0x1230083 : Word) 7 = true := by decide +kernel

/-- The reference: a port that is not enabled, one that is; a loss with and without AUTO; what returns; the crystal (R464, R467, R480). -/
theorem test_references :
    let s := { readyDev with sluice := { ports := [(2, { cfg := 1 })] } }
    let c := fun (k : Clk) => { readyDev with clk := k, sluice := { ports := [(0, { cfg := 1 })] } }
    let off := fun (k : Clk) => { readyDev with clk := k }
    let dark := { s with clk := { losRef := true }, sluice := { ports := [(2, { cfg := 1, los := 1 })] } }
    let x := fun (l : Tbl (Option (Nat × Nat × Nat))) => { readyDev with frn := { chans := [(4, {})], stored := l, crystal := false } }
    nextIs (exec (.clkRef 5) s) (fun t => t.clk.src && t.clk.active && t.clk.port = 2) ∧
    nextIs (exec (.clkRef 7) s) (fun t => t.clk = s.clk) ∧
    nextIs (exec .referenceLoss (c { auto := true })) (fun t => t.clk.active && !t.clk.holdover && t.clk.losRef) ∧
    nextIs (exec (.clkRef 0x25) dark) (fun t => t.clk.losPort && t.clk.holdover && t.clk.active) ∧
    nextIs (exec (.clkRef 0x25) { dark with clk := {} }) (fun t => t.clk.losPort && !t.clk.holdover && !t.clk.active && t.clk.src) ∧
    nextIs (exec (.clkRef 0x26) s) (fun t => t.clk = s.clk) ∧
    nextIs (exec .referenceLoss (off { auto := true })) (fun t => !t.clk.active && t.clk.holdover) ∧
    nextIs (exec (.referenceRestored true) (off { auto := true, losPort := true, holdover := true })) (fun t => t.clk.losPort && t.clk.holdover) ∧
    nextIs (exec .referenceLoss (c {})) (fun t => !t.clk.active && t.clk.holdover) ∧
    nextIs (exec (.referenceRestored true) (c { auto := true, losRef := true, losPort := true, holdover := true })) (fun t =>
      t.clk.active && !t.clk.holdover && t.clk.losRef && !t.clk.losPort) ∧
    nextIs (exec (.referenceRestored false) (c { active := true, losRef := true, losPort := true, holdover := true })) (fun t =>
      t.clk.active && t.clk.holdover && !t.clk.losRef) ∧
    nextIs (exec .crystalSwitch (x [(4, some (1, 2, 3))])) (fun t => t.frn.crystal && !t.frn.uncal && (chanOf t 4).offset = 1 && (chanOf t 4).fscale = 3) ∧
    nextIs (exec .crystalSwitch (x [])) (fun t => t.frn.crystal && t.frn.uncal) ∧
    nextIs (exec .crystalSwitch { readyDev with frn := { crystal := true } }) (fun t => t.frn.chans = []) ∧
    bit (portOf s 2).cfg 0 = true ∧ bit (portOf s 3).cfg 0 = false ∧ timeRuns s = true := by decide +kernel

/-! ### Pins, PCIe and the host's registers -/

/-- A device whose pins are as `p`, in the state `st`, with a byte of memory. -/
def pinned (st : DevState) (p : Pins) : State := { State.reset with glb := { st := st }, pins := p, mem := [(5, 9)], frn := { crystal := true, clock := 10000007 } }

/-- VDDF, PWR_ON_REQ with the interlock just over and not yet, MOD_RST_N (R558, R560, R567, R568). -/
theorem test_power_requests :
    let held := fun t0 => pinned .standby { interlock := true, lowAt := some t0 }
    nextIs (exec (.vddfRise 5) (pinned .off {})) (fun t => t.glb.st = .standby && t.frn.oscDly = 5) ∧
    nextIs (exec (.vddfRise 5) (pinned .standby {})) (fun t => t.frn.oscDly = 0) ∧
    nextIs (exec .pwrOnReqHigh (pinned .standby {})) (fun t => t.pins.seq = .waitEdgeL && t.pins.enEdgeL) ∧
    nextIs (exec .pwrOnReqHigh { pinned .standby {} with frn := {} }) (fun t => t.pins.seq = .waitOsc && !t.pins.enEdgeL) ∧
    nextIs (exec .pwrOnReqHigh (held 7)) (fun t => t.pins.seq = .waitEdgeL && !t.pins.interlock) ∧
    nextIs (exec .pwrOnReqHigh (held 8)) (fun t => t.pins.seq = .down && t.pins.interlock) ∧
    nextIs (exec .pwrOnReqHigh (pinned .parked {})) (fun t => t.pins.fromParked && t.pins.seq = .waitEdgeL) ∧
    nextIs (exec .modRstNHigh (pinned .standby { rstLow := true, pwrReq := true })) (fun t => !t.pins.rstLow && t.pins.seq = .waitEdgeL) ∧
    nextIs (exec .modRstNHigh (pinned .standby { rstLow := true })) (fun t => !t.pins.rstLow && t.pins.seq = .down) := by decide +kernel

/-- Each power-good of the sequence, one that is missing, and one that is lost (R565, R569). -/
theorem test_power_goods :
    let w := fun q => pinned .standby { seq := q, enVddm := true, pgVddm := 0x7FFF }
    let run := { pinned .ready { seq := .up, pgVddm := 0xFFFF } with glb := { st := .ready, fw := true }, hop := { retain := [{ meas := [], regions := 1 }, { meas := [], regions := 4 }] } }
    nextIs (exec (.powerGood .edgeL) (w .waitEdgeL)) (fun t => t.pins.seq = .waitEdgeA && t.pins.enEdgeA) ∧
    nextIs (exec (.powerGood .edgeA) (w .waitEdgeA)) (fun t => t.pins.seq = .waitVddm) ∧
    nextIs (exec (.powerGood (.vddm 15)) (w .waitVddm)) (fun t => t.pins.seq = .waitEdgeH && t.pins.enEdgeH) ∧
    nextIs (exec (.powerGood (.vddm 3)) (w .waitVddm)) (fun t => t.pins.seq = .waitVddm) ∧
    nextIs (exec (.powerGood .edgeH) (w .waitEdgeH)) (fun t => t.pins.seq = .waitCore && t.pins.enCore) ∧
    nextIs (exec .powerGoodTimeout run) (fun t => t.pins = run.pins) ∧
    nextIs (exec (.edgePowerGoodLoss .core) { run with pins := { run.pins with pgCore := true } }) (fun t => decide (t = run)) ∧
    nextIs (exec (.edgePowerGoodLoss .edgeA) (pinned .boot {})) (fun t => t.glb.st = .boot) ∧
    groupOf 0 = 0 ∧ groupOf 2 = 1 ∧ run.frn.kept = [] := by decide +kernel

/-- The resets of the PCIe function, and PERST_N before BOOT (R432, R559). -/
theorem test_pcie :
    let s := { pinned .ready { perst := true } with glb := { st := .ready, busMaster := true, mask := 5, msix := [(3, {})], pba := 8, flit := true, speed := 6, width := 4 } }
    let low := { s with pins := {} }
    let busy := { pinned .boot { perst := true } with glb := { st := .boot, dma := [(0, .realm 128)] }, mlr := { busy := true, op := 3, tag := 7 } }
    nextIs (exec (.pcieReset .d3hot) s) (fun t => t.glb.d3 && t.glb.msix = [] && t.glb.pba = 0 && t.glb.mask = 0x1FFFFFFFFFF && !t.glb.busMaster) ∧
    nextIs (exec (.pcieReset .flr) s) (fun t => !t.glb.d3 && t.glb.msix = []) ∧
    nextIs (exec (.pcieReset .flr) low) (fun t => t.glb = low.glb) ∧
    nextIs (exec (.perstN false) s) (fun t => !t.pins.perst && !t.glb.flit && t.glb.msix = []) ∧
    nextIs (exec (.pcieReset .linkDown) s) (fun t => t.glb.speed = 0 && t.glb.msix = []) ∧
    nextIs (exec (.pcieReset .hotReset) s) (fun t => t.glb.speed = 6 && t.glb.flit) ∧
    nextIs (exec (.perstN false) s) (fun t => t.glb.speed = 0) ∧
    nextIs (exec (.perstN true) (pinned .standby {})) (fun t => t.pins.perst && !t.glb.flit) ∧
    nextIs (exec (.perstN true) s) (fun t => t.glb = s.glb) ∧
    (∀ i ∈ [Instr.pcieReset .flr, .perstN false], nextIs (exec i busy) (fun t => t.glb.dma = [] && t.mlr.done && t.mlr.code = .lost && t.mem = busy.mem)) ∧
    busy.glb.dma = [(0, .realm 128)] ∧ timeRuns busy = true ∧ (busy.glb.fw || busy.glb.st = .boot) = true ∧
    s.glb.dma = [] ∧ timeRuns s = true ∧ timeRuns (pinned .parked {}) = false := by decide +kernel

/-- A mapped register written through REGISTER_WRITE; the record registers; what is not mapped; an access that does not reach (R13, R16, R487, R489). -/
theorem test_host_registers :
    let m : Merging := { record := { code := .ecc, addr := 7 }, key := (0, 0, 0), count := 2, regIdx := none, number := 4 }
    let s := { readyDev with flt := { next := 6, tail := 2, merging := [m], mergeCount := 5, ring := [(1, { code := .lost })] } }
    let no := { s with pins := {} }
    nextIs (exec (.fltTail 0x1005) s) (fun t => t.flt.tail = 5 && t.flt.unread = 1) ∧
    nextIs (exec (.fltSel 0x1001) s) (fun t => t.flt.sel = 1 && t.flt.snap.code = .lost && t.flt.snapTaken) ∧
    nextIs (exec (.registerWrite 0x30000 false 3000) s) (fun t => t.pwr.cap = 3000) ∧
    nextIs (exec (.registerWrite 0x30000 false 3001) s) (fun t => t.pwr.cap = 3000) ∧
    nextIs (exec (.registerWrite 0x30000 false 200) s) (fun t => t.pwr.cap = 200) ∧
    nextIs (exec (.registerWrite 0x80010 false 5) s) (fun t => t.flt.tail = 5) ∧
    nextIs (exec (.registerWrite 0x100 false 5) { s with glb := { s.glb with stat := 7 } }) (fun t => t.glb.stat = 2) ∧
    hostReach s = true ∧ hostReach no = false ∧ (s.flt.merging.find? fun x => x.number == 4) = some m := by decide +kernel

/-- GLB_TIME forward, and not backward or with an image; a cause unmasked; clock gates in use and not (R426, R430, R466, R534). -/
theorem test_global_registers :
    let s := readyDev
    let irq := { s with glb := { s.glb with stat := 8, msix := [(3, { masked := false })] } }
    let on := { s with clk := { gate := 3 }, sluice := { ports := [(1, { cfg := 1 })] } }
    nextIs (exec (.glbTime 9000) s) (fun t => t.glb.time = 9000) ∧ nextIs (exec (.glbTime 10000) s) (fun t => t.glb.time = 10000) ∧
    nextIs (exec (.glbTime 8999) s) (fun t => t.glb.time = 9000) ∧
    nextIs (exec (.glbTime 10000) { s with hop := { slots := [(3, { st := .staged })] } }) (fun t => t.glb.time = 9000) ∧
    gateInUse on 0 = false ∧ gateInUse on 1 = true ∧ bit irq.glb.mask 3 = true ∧ (Tbl.get ({} : Msix) irq.glb.msix 3).masked = false := by decide +kernel

/-- The snapshot of a request and of a FREE entry; a pool word that passes, one that does not, and one with a request live (R315, R317). -/
theorem test_pool_registers :
    let s := { ponding [] {} with pond := { (ponding [] {}).pond with poolSel := 7 } }
    let busy := { ponding [(9, req7)] {} with pond := { (ponding [(9, req7)] {}).pond with poolSel := 7 } }
    nextIs (exec (.mpdReqsel 0 9) busy) (fun t => (unitOf t 0).sel = 9 && (unitOf t 0).snap = reqBytes req7) ∧
    nextIs (exec (.mpdReqsel 0 8) busy) (fun t => (unitOf t 0).snap = List.replicate 128 0) ∧
    (serveOf s 7).isSome = true ∧ poolCode s 7 0 0x8000000002 = none ∧ reqsOf busy 7 = [9] ∧ bit s.clk.gate 28 = true := by decide +kernel

/-! ### A late acknowledgement, the queue, and the memory -/

/-- R368: a message unacknowledged on the session of the tests, and an ACK that covers it, meet every hypothesis. -/
theorem test_late :
    let m : TxMsg := { seq := 4, type := 0x11, flags := 0, body := [], sent := 9 }
    let x := { x0 with unacked := [m] }
    Brings (serving x []) (frameOf 3 0 0 5 0 []) x 3 0 0 5 0 [] ∧ x.waiting = [] ∧ sessionReqs (serving x []) x.id = [] ∧ m ∈ x.unacked ∧
    seqBefore m.seq 5 = true ∧ (x.unacked.map (·.seq)).Nodup := by
  refine ⟨⟨?_, ?_, rfl, rfl, rfl, rfl, rfl, Nat.zero_le _⟩, rfl, ?_, ?_, ?_, ?_⟩
  · decide +kernel
  · exact (show keeps (serving { x0 with unacked := _ } []) _ = keeps (serving x0 []) _ from rfl).trans
      (test_keeps [] _ (by simp [gmlHeader, leBytes, test_tag_length]) (by simp [gmlHeader, leBytes, test_tag_length]))
  all_goals decide +kernel

/-- A running device whose PCIe link is up. -/
def quietDev : State := { withCore 5 (running 4 []) with glb := { st := .running, busMaster := true, time := 5000, fw := true, speed := 6 } }

/-- Steps: the front command runs and the rest waits; with none waiting a nanosecond passes, but not in OFF (R7). -/
theorem test_steps :
    let s := { State.reset with pending := [.glbTime 77, .glbTime 78] }
    nextIs (step s) (fun t => t.pending.length = 1 && t.glb.time = 77) ∧ (pass State.reset 1).glb.time = 1 ∧
    (pass { State.reset with glb := {} } 1).glb.time = 0 ∧ timeRuns State.reset = true ∧ State.reset.glb.st = .boot ∧
    State.reset.sluice.ptp.part = 0 := by decide +kernel

/-- A state of a running device, and one of a device that is off, in which nothing waits to go on. -/
theorem test_quiet : BackgroundQuiet quietDev ∧ BackgroundQuiet { State.reset with glb := { speed := 6 } } ∧
    timeRuns quietDev = true := by unfold BackgroundQuiet; decide +kernel

/-- Writing the value of an unlisted byte takes the entry away, and the form stays canonical. -/
theorem test_memory :
    let s := writeBytes State.reset 7 [1, 2, 3]
    s.mem = [(7, 1), (8, 2), (9, 3)] ∧ s.memOk = true ∧ (writeBytes s 8 [0]).mem = [(7, 1), (9, 3)] ∧ readByte s 10 = 0 := by decide +kernel
end Sys2Proof.Tests
end

namespace Sys2Proof.Machine

/-! ## The block: what a step does with its queue (00 R1, R13) -/

theorem step_cons {s : State} {c : Instr} {rest : List Instr} (h : s.pending = c :: rest) :
    step s = exec c { s with pending := rest } := by
  simp only [step, h]

theorem step_nil {s : State} (h : s.pending = []) : step s = .next (tick s) := by
  simp only [step, h]

/-- Settles O1: the equation of `step` for a queue with a front. -/
theorem stepRunsFrontCommand : Obligations.StepRunsFrontCommand := fun _ _ _ => step_cons

/-! ### Time without a command (R7, R380, R534) -/

/-- Whether GLB_TIME counts rests on the state of the device alone. -/
theorem timeRuns_congr {s t : State} (h : t.glb.st = s.glb.st) : timeRuns t = timeRuns s := by
  simp only [timeRuns, h]

theorem timeRuns_of_off {s : State} (h : s.glb.st = .off) : timeRuns s = false := by simp only [timeRuns, h]

theorem ne_off_of_timeRuns {s : State} (h : timeRuns s = true) : s.glb.st ≠ .off := fun off => by
  simp [timeRuns_of_off off] at h

/-- Firn's clock counts while VDDF is up: the local clock's nanoseconds, which differ by what is slewed while GLB_TIME runs (R380). -/
theorem pass_frn_clock (s : State) (n : Nat) :
    (pass s n).frn.clock = if s.glb.st = .off then s.frn.clock
      else s.frn.clock + if timeRuns s then (slewed s.sluice.ptp n).1 else n := by
  unfold pass; dsimp only; repeat' split
  all_goals simp_all [timeRuns]

/-- The regions count what `countRest` counts, by the local clock. -/
theorem pass_regions (s : State) (n : Nat) :
    let k := if timeRuns s then slewed s.sluice.ptp n else (n, s.sluice.ptp)
    (pass s n).regions = (countRest { s with sluice := { s.sluice with ptp := k.2 } } k.1).regions := by
  unfold pass; dsimp only; repeat' split
  all_goals simp

@[simp] theorem waitCount_org (s : State) (g n : Nat) (x : Region) : (waitCount s g n x).org = x.org := by
  unfold waitCount; split <;> rfl

/-- What is known of a region's shape stands while time passes: its core cycles and its credit waits count. -/
theorem exists_org_of_mem_countRest {s : State} {n : Nat} {p : Nat × Region} (h : p ∈ (countRest s n).regions) :
    ∃ q ∈ s.regions, p.2.org = q.2.org := by
  unfold countRest at h
  split at h
  · exact ⟨p, h, rfl⟩
  · obtain ⟨q, hq, rfl⟩ := List.mem_map.1 h
    exact ⟨q, hq, by dsimp only; rw [waitCount_org]; split <;> rfl⟩

theorem exists_org_of_mem_pass {s : State} {n : Nat} {p : Nat × Region} (h : p ∈ (pass s n).regions) :
    ∃ q ∈ s.regions, p.2.org = q.2.org := by
  rw [pass_regions] at h
  obtain ⟨q, hq, org⟩ := exists_org_of_mem_countRest h
  exact ⟨q, hq, org⟩

/-- With nothing to slew the local clock and GLB_TIME keep pace (R380). -/
theorem slewed_one_of_idle {p : Ptp} (slew : p.slew = 0) (part : p.part = 0) : (slewed p 1).1 = 1 := by
  simp [slewed, slew, part]

/-! ### Nothing goes on in the background -/

theorem backgroundQuiet_pass {s : State} (q : BackgroundQuiet s) (n : Nat) : BackgroundQuiet (pass s n) := by
  obtain ⟨shut, unload, fencing, mills, dead, link⟩ := q
  refine ⟨by simpa, by simpa, by simpa, by rwa [pass_mills], fun p hp => ?_, by simpa⟩
  obtain ⟨q, hq, org⟩ := exists_org_of_mem_pass hp
  rw [org]; exact dead q hq

theorem Tbl.get_eq_or_mem {α : Type} (d : α) (t : Tbl α) (k : Nat) : Tbl.get d t k = d ∨ (k, Tbl.get d t k) ∈ t := by
  induction t with
  | nil => exact .inl rfl
  | cons p t ih =>
    obtain ⟨i, v⟩ := p
    rw [Tbl.get_cons]
    split
    · next h => exact .inr (h ▸ List.mem_cons_self)
    · exact ih.imp_right (List.mem_cons_of_mem _)

theorem millOf_dstate_ne {s : State} (h : ∀ p ∈ s.mills, p.2.dstate ≠ .draining) (m : Nat) : (millOf s m).dstate ≠ .draining := by
  obtain fresh | listed := Tbl.get_eq_or_mem {} s.mills m
  · rw [millOf, fresh]; decide
  · exact h _ listed

theorem goOnDrains_of_quiet {s : State} (h : ∀ p ∈ s.mills, p.2.dstate ≠ .draining) : goOnDrains s = s := by
  have none : ((owners s).filter fun m => drainStopped s m && settled s (coresOf s m)) = [] :=
    List.filter_eq_nil_iff.2 fun m _ => by simp [drainStopped, millOf_dstate_ne h m]
  rw [goOnDrains, none, List.foldl_nil]

theorem goOnStacks_of_quiet {s : State} (h : ∀ p ∈ s.regions, p.2.org.deadStacks = []) : goOnStacks s = s := by
  have none : (s.regions.filter fun p => !p.2.org.deadStacks.isEmpty) = [] :=
    List.filter_eq_nil_iff.2 fun p hp => by simp [h p hp]
  rw [goOnStacks, none, List.foldl_nil, ite_self]

/-- With nothing that waits to go on the background changes nothing. -/
theorem background_of_quiet {s : State} (q : BackgroundQuiet s) : background s = s := by
  obtain ⟨shut, unload, fencing, mills, dead, link⟩ := q
  have hUnload : goOnUnload s = s := by simp [goOnUnload, unload]
  have hFence : goOnFence s = s := by simp only [goOnFence, fencing]
  have hShut : goOnShut s = s := by simp only [goOnShut, shut]
  have hLink : goOnLink s = s := by obtain up | low := link <;> simp [goOnLink, *]
  rw [background, goOnDrains_of_quiet mills, hUnload, hFence, hShut, goOnStacks_of_quiet dead, hLink]

theorem tick_of_quiet {s : State} (q : BackgroundQuiet s) : tick s = pass s 1 := background_of_quiet (backgroundQuiet_pass q 1)

/-- Settles O2: what `pass` does with the two clocks, and that a quiet background leaves them. -/
theorem idleStepLetsTimePass : Obligations.IdleStepLetsTimePass := by
  intro s empty
  refine ⟨step_nil empty, rfl, fun quiet => ⟨fun off => ?_, fun run => ?_⟩, slewed_one_of_idle⟩ <;>
    rw [tick_of_quiet quiet, pass_time, pass_frn_clock]
  · simp [off, timeRuns_of_off off]
  · simp [run, ne_off_of_timeRuns run]

end Sys2Proof.Machine

namespace Sys2Proof.Machine

theorem Next.of_eq {o : Outcome} {t : State} {p : State → Prop} (h : o = .next t) (hp : p t) : Next o p := ⟨t, h, hp⟩

/-! ## The pins and the PCIe function (11 R432, 15 R558-R569) -/

/-! ### Power-down and power-up -/

theorem down_powerDown (s : State) (interlock : Bool) : Down (powerDown s false interlock) interlock := by
  simp [Down, powerDown]

/-- What a record of Firn, or the trip latches, change is no part of `Down`. -/
theorem Down.congr {s t : State} {interlock : Bool} (d : Down s interlock) (glb : t.glb = s.glb) (mem : t.mem = s.mem)
    (cores : t.cores = s.cores) (mills : t.mills = s.mills) (pins : t.pins = s.pins) : Down t interlock := by
  simpa only [Down, glb, mem, cores, mills, pins] using d

/-- The sequence begins from any change of the pins that leaves EN_EDGE_L (R565). -/
theorem rises_startUp_setPins {s : State} {p : Pins} (h : p.enEdgeL = s.pins.enEdgeL) : Rises s (startUp (setPins s p)) := by
  cases crystal : s.frn.crystal <;> simp [Rises, startUp, setPins, crystal, h]

@[simp] theorem startUp_pwrReq (s : State) : (startUp s).pins.pwrReq = s.pins.pwrReq := by unfold startUp; dsimp only; split <;> rfl
@[simp] theorem startUp_rstLow (s : State) : (startUp s).pins.rstLow = s.pins.rstLow := by unfold startUp; dsimp only; split <;> rfl
@[simp] theorem startUp_fromParked (s : State) : (startUp s).pins.fromParked = decide (s.glb.st = .parked) := by
  unfold startUp; dsimp only; split <;> rfl

/-! ### PWR_ON_REQ and MOD_RST_N (R558, R567) -/

/-- R567 holds a power-up back until PWR_ON_REQ has been low for 10 ms. -/
def heldBack (s : State) : Bool :=
  s.pins.interlock && !(!s.pins.pwrReq && match s.pins.lowAt with
    | some t => decide (t + 10000000 ≤ s.frn.clock)
    | none => false)

/-- The state once PWR_ON_REQ is high. -/
def pwrReqHigh (s : State) : State := setPins s { s.pins with pwrReq := true, lowAt := none, interlock := heldBack s }

theorem execPwrOnReqHigh_eq (s : State) : execPwrOnReqHigh s = .next (
    if s.glb.st = .off then s
    else if s.pins.rstLow || s.pins.seq ≠ .down then pwrReqHigh s
    else if s.glb.st = .standby && !heldBack s then startUp (pwrReqHigh s)
    else if s.glb.st = .parked && !s.pins.pwrReq then startUp (pwrReqHigh s)
    else pwrReqHigh s) := rfl

/-- PWR_ON_REQ high in STANDBY starts the sequence unless R567 holds it back. -/
theorem next_execPwrOnReqHigh_standby {s : State} (st : s.glb.st = .standby) (rst : s.pins.rstLow = false) (seq : s.pins.seq = .down)
    (free : heldBack s = false) : Next (exec .pwrOnReqHigh s) fun t => Rises s t ∧ t.pins.pwrReq = true :=
  .of_eq (t := startUp (pwrReqHigh s)) ((execPwrOnReqHigh_eq s).trans (by simp [st, rst, seq, free])) ⟨rises_startUp_setPins rfl, startUp_pwrReq _⟩

theorem next_execPwrOnReqHigh_held {s : State} (st : s.glb.st = .standby) (rst : s.pins.rstLow = false) (seq : s.pins.seq = .down)
    (held : heldBack s = true) :
    Next (exec .pwrOnReqHigh s) fun t => t.glb = s.glb ∧ t.pins.seq = .down ∧ t.pins.interlock = true :=
  .of_eq (t := pwrReqHigh s) ((execPwrOnReqHigh_eq s).trans (by simp [st, rst, seq, held])) ⟨rfl, seq, held⟩

/-- A rising edge of PWR_ON_REQ wakes a PARKED device (R558). -/
theorem next_execPwrOnReqHigh_parked {s : State} (st : s.glb.st = .parked) (rst : s.pins.rstLow = false) (seq : s.pins.seq = .down)
    (low : s.pins.pwrReq = false) : Next (exec .pwrOnReqHigh s) fun t => Rises s t ∧ t.pins.fromParked = true :=
  .of_eq (t := startUp (pwrReqHigh s)) ((execPwrOnReqHigh_eq s).trans (by simp [st, rst, seq, low]))
    ⟨rises_startUp_setPins rfl, (startUp_fromParked _).trans (decide_eq_true st)⟩

theorem next_execPwrOnReqLow {s : State} (on : s.glb.st ≠ .off) (up : s.glb.st ≠ .standby ∨ rising s = true) :
    Next (exec .pwrOnReqLow s) fun t => Down t (decide (s.glb.st = .standby) && s.pins.interlock) ∧ t.pins.pwrReq = false ∧
      (s.pins.pwrReq = true → t.pins.lowAt = some s.frn.clock) := by
  let low := setPins s { s.pins with pwrReq := false, lowAt := if s.pins.pwrReq then some s.frn.clock else s.pins.lowAt }
  have stops : execPwrOnReqLow s = .next (powerDown low false (s.glb.st = .standby && s.pins.interlock)) := by
    have busy : ¬(decide (s.glb.st = .standby) && !rising low) = true := by
      obtain other | rise := up
      · simp [other]
      · simp [show rising low = true from rise]
    unfold execPwrOnReqLow
    rw [if_neg on]
    exact congrArg _ (if_neg busy)
  exact .of_eq stops ⟨down_powerDown _ _, rfl, fun high => by simp [powerDown, low, setPins, high]⟩

theorem next_execModRstNLow {s : State} (on : s.glb.st ≠ .off) :
    Next (exec .modRstNLow s) fun t => Down t false ∧ t.pins.rstLow = true ∧ t.thm.trip = 0 ∧ t.thm.tripHbm = 0 ∧ t.thm.tripField = 0 := by
  refine .of_eq (congrArg Host.Outcome.next (if_neg on)) ⟨Down.congr (down_powerDown _ false) rfl rfl rfl rfl rfl, rfl, rfl, rfl, rfl⟩

theorem next_execModRstNHigh {s : State} (st : s.glb.st = .standby) (rst : s.pins.rstLow = true) (seq : s.pins.seq = .down) :
    Next (exec .modRstNHigh s) fun t => t.pins.rstLow = false ∧ (s.pins.pwrReq = true → Rises s t) ∧
      (s.pins.pwrReq = false → t = { s with pins := { s.pins with rstLow := false } }) := by
  have released : execModRstNHigh s = .next (if s.pins.pwrReq then startUp (setPins s { s.pins with rstLow := false })
      else setPins s { s.pins with rstLow := false }) := by
    simp [execModRstNHigh, setPins, st, rst, seq]
  refine .of_eq released ?_
  cases req : s.pins.pwrReq
  · exact ⟨rfl, nofun, fun _ => rfl⟩
  · exact ⟨startUp_rstLow _, fun _ => rises_startUp_setPins rfl, nofun⟩

/-! ### Power-goods (R565, R567, R568) -/

/-- The last power-good of the sequence puts the device into BOOT (R526, R565 step 7). -/
theorem enterBoot_facts (s : State) : (enterBoot s).glb.st = .boot ∧ (enterBoot s).glb.fw = false ∧ (enterBoot s).glb.time = 0 ∧
    (enterBoot s).glb.mask = 0x1FFFFFFFFFF ∧ (enterBoot s).pins = { s.pins with seq := .up, fromParked := false } ∧
    (enterBoot s).mem = s.mem ∧ (enterBoot s).sec.romDig = shake256 Config.bootRom 64 := by
  cases perst : s.pins.perst <;> simp [enterBoot, bootRom, linkUp, perst]

theorem next_execPowerGood_core {s : State} (on : s.glb.st ≠ .off) (seq : s.pins.seq = .waitCore) (en : s.pins.enCore = true) :
    Next (exec (.powerGood .core) s) fun t => t.pins.pgCore = true ∧ t.glb.st = .boot ∧ t.glb.fw = false ∧ t.glb.time = 0 ∧
      t.glb.mask = 0x1FFFFFFFFFF ∧ t.pins.seq = .up ∧ t.mem = s.mem ∧ t.sec.romDig = shake256 Config.bootRom 64 := by
  have boots : execPowerGood .core s = .next (enterBoot (setPins s { s.pins with pgCore := true })) := by
    simp [execPowerGood, setPins, on, seq, en]
  obtain ⟨st, fw, time, mask, pins, mem, rom⟩ := enterBoot_facts (setPins s { s.pins with pgCore := true })
  exact .of_eq boots ⟨by rw [pins]; rfl, st, fw, time, mask, by rw [pins], mem, rom⟩

/-- A record of Firn touches what Firn keeps and nothing else while the Miller does not run (R470). -/
theorem logFirn_eq_of_not_fw {s : State} (fw : s.glb.fw = false) (r : Rec) :
    logFirn s r = if s.frn.kept.length < 64 then { s with frn := { s.frn with kept := s.frn.kept ++ [{ r with time := s.glb.time }] } } else s := by
  simp only [logFirn, fw]; rfl

/-- Firn's record of a power-good that does not come is kept while there is room (R470, R565). -/
theorem next_execPowerGoodTimeout {s : State} (rise : rising s = true) (osc : s.pins.seq ≠ .waitOsc) :
    Next (exec .powerGoodTimeout s) fun t => Down t true ∧
      (s.frn.kept.length < 64 → ∃ r, t.frn.kept = s.frn.kept ++ [r] ∧ r.code = .timeout ∧ r.cls = .device) := by
  have stops : execPowerGoodTimeout s = .next (logFirn (powerDown s false true) { code := .timeout, cls := .device, origin := .firn }) := by
    simp [execPowerGoodTimeout, stopRise, rise, osc]
  have record := logFirn_eq_of_not_fw (s := powerDown s false true) rfl { code := .timeout, cls := .device, origin := .firn }
  by_cases room : s.frn.kept.length < 64
  · rw [record, if_pos (show (powerDown s false true).frn.kept.length < 64 from room)] at stops
    exact .of_eq stops ⟨Down.congr (down_powerDown s true) rfl rfl rfl rfl rfl, fun _ => ⟨_, rfl, rfl, rfl⟩⟩
  · rw [record, if_neg (show ¬(powerDown s false true).frn.kept.length < 64 from room)] at stops
    exact .of_eq stops ⟨down_powerDown s true, fun h => absurd h room⟩

/-- The PG_VDDM of a group while the sequence waits for them: the last one asserts EN_EDGE_H (R565). -/
theorem execPowerGood_vddm {s : State} (on : s.glb.st ≠ .off) (seq : s.pins.seq = .waitVddm) (en : s.pins.enVddm = true) (g : Fin 16) :
    let pg := s.pins.pgVddm ||| BitVec.ofNat 16 (2 ^ g.val)
    execPowerGood (.vddm g) s = .next { s with pins :=
      if pg = 0xFFFF then { s.pins with pgVddm := pg, seq := .waitEdgeH, enEdgeH := true } else { s.pins with pgVddm := pg } } := by
  simp [execPowerGood, setPins, on, seq, en]

theorem execEdgePowerGoodLoss_edge {g : Good} (h : g = .edgeL ∨ g = .edgeA ∨ g = .edgeH) (s : State) :
    execEdgePowerGoodLoss g s = .next (if s.glb.fw || s.glb.st = .fault then powerDown s false true else s) := by
  obtain rfl | rfl | rfl := h <;> rfl

/-- The retention entries that cover a region of the group are invalid (R475). -/
theorem mem_retain_execVddmPowerGoodLoss (s : State) (g : Fin 16) (e : Retain) :
    e ∈ (s.hop.retain.filter fun e => !(List.range 64).any fun r => decide (groupOf r = g.val) && bit e.regions r) ↔
      e ∈ s.hop.retain ∧ ∀ r < 64, groupOf r = g.val → bit e.regions r = false := by
  simp [List.mem_filter]

theorem powerSequenceHolds : PowerSequenceHolds := by
  intro s p
  refine ⟨fun straps => ⟨fun off => ?_, fun on => ?_⟩, fun on => ?_,
    fun st rst seq => ⟨fun unlocked => ?_, fun t lock low lowAt => ⟨fun long => ?_, fun short => ?_⟩⟩,
    next_execPwrOnReqHigh_parked, next_execPwrOnReqLow, next_execModRstNLow, next_execModRstNHigh,
    fun on => ⟨fun seq => ?_, fun seq pg => ?_, fun g seq en => execPowerGood_vddm on seq en g, fun seq => ?_, next_execPowerGood_core on⟩,
    fun wait => ?_, fun idle => ?_, rfl, fun g edge => ⟨fun run => ?_, fun fw st => ?_⟩, fun g => ?_⟩
  · exact congrArg Host.Outcome.next (if_neg (not_not.2 off))
  · exact congrArg Host.Outcome.next (if_pos on)
  · exact .of_eq (congrArg Host.Outcome.next (if_neg on)) ⟨rfl, rfl, rfl, rfl, rfl, rfl, rfl, rfl, rfl, rfl⟩
  · exact next_execPwrOnReqHigh_standby st rst seq (by simp [heldBack, show s.pins.interlock = false from unlocked])
  · exact next_execPwrOnReqHigh_standby st rst seq (by simp_all [heldBack, p])
  · exact next_execPwrOnReqHigh_held st rst seq (by simp_all [heldBack, p])
  · simp_all [exec, execPowerGood, setPins, p]
  · simp_all [exec, execPowerGood, setPins, p]
  · simp_all [exec, execPowerGood, setPins, p]
  · have rise : rising s = true ∧ s.pins.seq ≠ .waitOsc := by
      obtain h | h | h | h | h := wait <;> simp [rising, show s.pins.seq = _ from h]
    exact next_execPowerGoodTimeout rise.1 rise.2
  · have stays : ¬(rising s && s.pins.seq ≠ .waitOsc) = true := by
      obtain h | h | h := idle <;> simp [rising, show s.pins.seq = _ from h]
    exact congrArg Host.Outcome.next (if_neg stays)
  · exact .of_eq ((execEdgePowerGoodLoss_edge edge s).trans (congrArg _ (if_pos (by simpa using run)))) (down_powerDown s true)
  · exact (execEdgePowerGoodLoss_edge edge s).trans (congrArg _ (if_neg (by simp [fw, st])))
  · exact .of_eq rfl ⟨rfl, rfl, rfl, mem_retain_execVddmPowerGoodLoss s g⟩

/-! ### The PCIe function (R422, R431, R432, R559) -/

theorem dmaLost_of_nil {s : State} (h : s.glb.dma = []) : dmaLost s = s := by
  simp only [dmaLost, h, List.length_nil, List.range_zero, List.foldl_nil]

theorem dmaLost_of_one {s : State} {start : Nat × DmaJob} (h : s.glb.dma = [start]) (up : s.glb.fw = true ∨ s.glb.st = .boot) :
    dmaLost s = dmaIn { s with glb := { s.glb with dma := [] } } start.2 (.stop .lost) := by
  obtain up | up := up <;> simp [dmaLost, dmaEnd, h, up]

/-- A transfer for a mailbox command that stops ends the command with its code (R431, R536). -/
theorem dmaIn_stop_of_mailbox {j : DmaJob} (h : j = .table ∨ (∃ n, j = .realm n) ∨ (∃ n, j = .firmware n) ∨ ∃ o p q, j = .nonce o p q)
    (s : State) (code : Code) : dmaIn s j (.stop code) = mlrDone s code [] := by
  obtain rfl | ⟨n, rfl⟩ | ⟨n, rfl⟩ | ⟨o, p, q, rfl⟩ := h <;> rfl

theorem ended_mlrDone (s : State) (code : Code) (res : List Word) : Ended (mlrDone s code res) s.mlr.op.toNat s.mlr.tag code := by
  simp [Ended, mlrDone]

theorem noEffect_mlrDone (s : State) (code : Code) (res : List Word) : NoEffect s (mlrDone s code res) := by
  simp [NoEffect, mlrDone]

/-- A transfer under way ends with LOST (R431), and it is the only thing that ends. -/
theorem dmaLost_mailbox {s : State} {start : Nat} {j : DmaJob} (dma : s.glb.dma = [(start, j)])
    (job : j = .table ∨ (∃ n, j = .realm n) ∨ (∃ n, j = .firmware n) ∨ ∃ o p q, j = .nonce o p q) (up : s.glb.fw = true ∨ s.glb.st = .boot) :
    Ended (dmaLost s) s.mlr.op.toNat s.mlr.tag .lost ∧ (dmaLost s).glb.dma = [] ∧ NoEffect s (dmaLost s) := by
  rw [dmaLost_of_one dma up, dmaIn_stop_of_mailbox job]
  exact ⟨ended_mlrDone .., by simp [mlrDone], noEffect_mlrDone ..⟩

theorem execPcieReset_of_reached {s : State} (run : timeRuns s = true) (perst : s.pins.perst = true) (k : PcieReset) :
    execPcieReset k s = .next (match k with
      | .d3hot => { resetPcie s with glb := { (resetPcie s).glb with d3 := true } }
      | .flr => { resetPcie (dmaLost s) with glb := { (resetPcie (dmaLost s)).glb with d3 := false } }
      | .hotReset => { takeGrade (resetPcie (dmaLost s)) with glb := { (takeGrade (resetPcie (dmaLost s))).glb with d3 := false } }
      | .linkDown => linkOff (takeGrade (resetPcie (dmaLost s)))) := by
  cases k <;> simp [execPcieReset, run, perst]

theorem execPerstN_of_moves {s : State} {high : Bool} (on : s.glb.st ≠ .off) (moves : s.pins.perst ≠ high) :
    execPerstN high s = .next (
      let t := setPins s { s.pins with perst := high }
      if !timeRuns s then t
      else if high then { linkUp t with glb := { (linkUp t).glb with busMaster := true } }
      else linkOff (takeGrade (resetPcie (dmaLost t)))) := by
  have go : ¬(s.glb.st = .off || s.pins.perst == high) = true := by simp [on, moves]
  exact congrArg Host.Outcome.next (if_neg go)

theorem execPerstN_low {s : State} (run : timeRuns s = true) (perst : s.pins.perst = true) :
    execPerstN false s = .next (linkOff (takeGrade (resetPcie (dmaLost (setPins s { s.pins with perst := false }))))) := by
  simp [execPerstN_of_moves (ne_off_of_timeRuns run) (show s.pins.perst ≠ false by simp [perst]), run]

theorem execPerstN_high {s : State} (run : timeRuns s = true) (perst : s.pins.perst = false) :
    execPerstN true s = .next (
      let t := linkUp (setPins s { s.pins with perst := true })
      { t with glb := { t.glb with busMaster := true } }) := by
  simp [execPerstN_of_moves (ne_off_of_timeRuns run) (show s.pins.perst ≠ true by simp [perst]), run]

/-- A link that trains reaches a speed and a width of R422, in flit mode at 64 GT/s. -/
theorem linkUp_reaches (s : State) : 1 ≤ (linkUp s).glb.speed ∧ (linkUp s).glb.speed ≤ 6 ∧
    ((linkUp s).glb.width = 1 ∨ (linkUp s).glb.width = 2 ∨ (linkUp s).glb.width = 4) ∧
    ((linkUp s).glb.speed = 6 → (linkUp s).glb.flit = true) := by
  have width : ∀ k < 3, 2 ^ k = 1 ∨ 2 ^ k = 2 ∨ 2 ^ k = 4 := by decide
  refine ⟨Nat.le_add_right .., ?_, width _ (Nat.mod_lt _ (by decide)), fun full => ?_⟩
  · have := Nat.mod_lt (Config.openValue 9 [s.free]) (show 0 < 6 by decide)
    simp only [linkUp]; omega
  · simp only [linkUp] at full ⊢
    simp [full]

/-- A conventional reset ends the transfer under way with LOST and changes nothing of cores, mills, regions and memory (R431, R432). -/
theorem ended_of_reset {s : State} {start : Nat} {j : DmaJob} {k : PcieReset} (run : timeRuns s = true) (perst : s.pins.perst = true)
    (up : s.glb.fw = true ∨ s.glb.st = .boot) (dma : s.glb.dma = [(start, j)])
    (job : j = .table ∨ (∃ n, j = .realm n) ∨ (∃ n, j = .firmware n) ∨ ∃ o p q, j = .nonce o p q) (kind : k ≠ .d3hot) :
    Next (exec (.pcieReset k) s) fun t => Ended t s.mlr.op.toNat s.mlr.tag .lost ∧ t.glb.dma = [] ∧ NoEffect s t := by
  have lost := dmaLost_mailbox dma job up
  have eq := execPcieReset_of_reached run perst k
  generalize dmaLost s = u at lost eq
  refine .of_eq eq ?_
  cases k with
  | d3hot => exact absurd rfl kind
  | flr | hotReset | linkDown => exact lost

theorem pcieFunctionHolds : PcieFunctionHolds := by
  refine ⟨fun s start j k run perst up dma job kind i hi => ?_, fun s idle => ⟨fun k run perst => ?_, fun k off => ?_, fun run perst => ?_,
    fun run perst => ?_, fun st high change => ?_, fun high same => ?_⟩⟩
  · obtain rfl | rfl : i = .pcieReset k ∨ i = .perstN false := by simpa using hi
    · exact ended_of_reset run perst up dma job kind
    · have lost := dmaLost_mailbox (s := setPins s { s.pins with perst := false }) dma job up
      have eq := execPerstN_low run perst
      generalize dmaLost (setPins s { s.pins with perst := false }) = u at lost eq
      exact .of_eq eq lost
  · refine .of_eq (execPcieReset_of_reached run perst k) ?_
    rw [dmaLost_of_nil idle]
    cases k with
    | d3hot | flr | hotReset => exact ⟨⟨rfl, rfl, rfl, rfl⟩, ⟨rfl, rfl, rfl, rfl⟩, rfl, rfl, nofun, fun _ => ⟨rfl, rfl, rfl⟩⟩
    | linkDown => exact ⟨⟨rfl, rfl, rfl, rfl⟩, ⟨rfl, rfl, rfl, rfl⟩, rfl, rfl, fun _ => rfl, fun h => absurd rfl h⟩
  · exact congrArg Host.Outcome.next (if_pos (by obtain h | h := off <;> simp [h]))
  · have eq := execPerstN_low run perst
    rw [dmaLost_of_nil (by exact idle)] at eq
    exact .of_eq eq ⟨⟨rfl, rfl, rfl, rfl⟩, ⟨rfl, rfl, rfl, rfl⟩, rfl, rfl⟩
  · obtain ⟨slow, fast, width, flit⟩ := linkUp_reaches (setPins s { s.pins with perst := true })
    exact .of_eq (execPerstN_high run perst) ⟨rfl, rfl, rfl, rfl, rfl, rfl, slow, fast, width, flit, rfl, rfl⟩
  · have on : s.glb.st ≠ .off ∧ timeRuns s = false := by obtain h | h := st <;> simp [timeRuns, h]
    exact (execPerstN_of_moves on.1 change).trans (by simp [on.2, setPins])
  · exact congrArg Host.Outcome.next (if_pos (by obtain h | h := same <;> simp [h]))

/-- Settles O58: the pins' sequence and the resets of the PCIe function, each from the equation of its command. -/
theorem pinsAndFunctionResets : Obligations.PinsAndFunctionResets := ⟨powerSequenceHolds, pcieFunctionHolds⟩

end Sys2Proof.Machine

namespace Sys2Proof.Machine

/-!
## No command touches the queue (00 R1, R13)

`pending` is a field that no operation of the model writes, except that a loss of power copies it into the state that it
makes. So there is one frame rule per operation, in the order in which the model defines them: `f_pending` for an operation
that answers a state (alone or in a pair), `execX_keepsQueue` for a command. A rule takes its operation apart once, along its
branches; what it calls keeps the queue by the rules above, which `simp` knows. An operation that is handed another one
has a rule that assumes of that one what it claims.
-/

/-- The same commands wait in `t` as in `s`. -/
def SameQueue (s t : State) : Prop := t.pending = s.pending

@[simp] theorem sameQueue_iff (s t : State) : SameQueue s t ↔ t.pending = s.pending := ⟨id, id⟩

/-- Whatever state the outcome leaves, the same commands wait in it as in `s`. -/
def KeepsQueue (s : State) (o : Outcome) : Prop := ∀ t, o = .next t → SameQueue s t

@[simp] theorem keepsQueue_next (s t : State) : KeepsQueue s (.next t) ↔ t.pending = s.pending :=
  ⟨fun h => h t rfl, fun h _ e => by cases e; exact h⟩

@[simp] theorem keepsQueue_fault (s : State) (r : Fault) : KeepsQueue s (.fault r) := fun _ e => by cases e

/-! ### What a branch and a fold keep -/

@[simp] theorem pending_ite (p : Prop) [Decidable p] (a b : State) :
    (if p then a else b).pending = if p then a.pending else b.pending := apply_ite ..

@[simp] theorem pending_fst_ite {α : Type} (p : Prop) [Decidable p] (a b : State × α) :
    (if p then a else b).1.pending = if p then a.1.pending else b.1.pending :=
  apply_ite (fun x : State × α => x.1.pending) ..

@[simp] theorem pending_snd_ite {α : Type} (p : Prop) [Decidable p] (a b : α × State) :
    (if p then a else b).2.pending = if p then a.2.pending else b.2.pending :=
  apply_ite (fun x : α × State => x.2.pending) ..

@[simp] theorem keepsQueue_ite (s : State) (p : Prop) [Decidable p] (a b : Outcome) :
    KeepsQueue s (if p then a else b) ↔ if p then KeepsQueue s a else KeepsQueue s b := by split <;> rfl

@[simp] theorem pending_foldl {α : Type} {f : State → α → State} (h : ∀ s a, SameQueue s (f s a)) (l : List α)
    (s : State) : (l.foldl f s).pending = s.pending := by
  induction l generalizing s with
  | nil => rfl
  | cons a l ih => exact (ih _).trans (h s a)

@[simp] theorem pending_fst_foldl {α β : Type} {f : State × β → α → State × β} (h : ∀ x a, SameQueue x.1 (f x a).1)
    (l : List α) (x : State × β) : (l.foldl f x).1.pending = x.1.pending := by
  induction l generalizing x with
  | nil => rfl
  | cons a l ih => exact (ih _).trans (h x a)

/-- A state taken out of a pair by a match is that part of the pair. -/
theorem eq_mk_iff {α : Type} {x : State × α} {t : State} {a : α} : x = (t, a) ↔ t = x.1 ∧ x.2 = a := by
  rw [Prod.ext_iff, eq_comm]

theorem eq_mk_swap_iff {α : Type} {x : α × State} {t : State} {a : α} : x = (a, t) ↔ t = x.2 ∧ x.1 = a := by
  rw [Prod.ext_iff, and_comm]; exact and_congr_left' eq_comm

/-! #### Entries of the tables -/

@[simp] theorem mpdCount_pending (s : State) (u i n : Nat) : (mpdCount s u i n).pending = s.pending := by
  simp [mpdCount]

@[simp] theorem portCount_pending (s : State) (p i : Nat) : (portCount s p i).pending = s.pending := by
  simp [portCount]

@[simp] theorem linkCount_pending (s : State) (l i : Nat) : (linkCount s l i).pending = s.pending := by
  simp [linkCount]

@[simp] theorem ctlCount_pending (s : State) (k i n : Nat) : (ctlCount s k i n).pending = s.pending := by
  simp [ctlCount]

/-! #### Memory -/

@[simp] theorem writeNum_pending (s : State) (a n v : Nat) : (writeNum s a n v).pending = s.pending := by
  simp [writeNum]

/-! #### Free values -/

@[simp] theorem drawBytes_pending (s : State) (n : Nat) : (drawBytes s n).2.pending = s.pending := by
  simp [drawBytes]

@[simp] theorem drawBit_pending (s : State) : (drawBit s).2.pending = s.pending := by simp [drawBit]

/-! #### Interrupt causes (R429, R430) -/

@[simp] theorem countStop_pending (s : State) : (countStop s).pending = s.pending := by simp [countStop]

/-! #### Sending on a GML session -/

@[simp] theorem emitGml_pending (s : State) (x : Session) (type flags : Nat) (seq : BitVec 32) (body : List Byte) :
    (emitGml s x type flags seq body).pending = s.pending := by
  simp [emitGml]

@[simp] theorem emitUntagged_pending (s : State) (p : Nat) (subB : Bool) (dst : Source) (type flags : Nat)
    (session : BitVec 32) (body : List Byte) :
    (emitUntagged s p subB dst type flags session body).pending = s.pending := by
  simp [emitUntagged]

@[simp] theorem gmlSend_pending (s : State) (n : BitVec 32) (type flags : Nat) (body : List Byte) :
    (gmlSend s n type flags body).pending = s.pending := by
  unfold gmlSend
  split <;> simp

@[simp] theorem gmlAck_pending (s : State) (n : BitVec 32) (nak : Bool) : (gmlAck s n nak).pending = s.pending := by
  unfold gmlAck
  split <;> rfl

@[simp] theorem gmlError_pending (s : State) (n : BitVec 32) (code : Code) (rtype offset : Nat) (rseq : BitVec 32)
    (key : Nat) :
    (gmlError s n code rtype offset rseq key).pending = s.pending := by
  simp [gmlError]

@[simp] theorem logViolation_pending (s : State) (p code offset : Nat) (src : Source) (header : List Byte) :
    (logViolation s p code offset src header).pending = s.pending := by
  simp [logViolation]

/-! #### Requests towards their partner -/

@[simp] theorem flushReq_pending (n : Nat) (s : State) (q : Nat) : (flushReq n s q).pending = s.pending := by
  induction n generalizing s with
  | zero => rfl
  | succ n ih =>
    simp only [flushReq]
    split
    · simp
    · simp [ih]

@[simp] theorem flush_pending (s : State) (q : Nat) : (flush s q).pending = s.pending := by simp [flush]

/-! #### What several commands do with requests of the Millpond -/

@[simp] theorem takePages_pending (n : Nat) (s : State) (m : Nat) : (takePages n s m).2.pending = s.pending := by
  induction n generalizing s with
  | zero => rfl
  | succ n ih => simp [takePages, ih]

/-! #### The table of prefixes -/

@[simp] theorem pfxRec_pending (s : State) (a syn : Nat) : (pfxRec s a syn).pending = s.pending := by
  simp [pfxRec]

@[simp] theorem pfxLost_pending (s : State) (a : Nat) : (pfxLost s a).pending = s.pending := by simp [pfxLost]

@[simp] theorem writePfx_pending (s : State) (m i : Nat) (e : PfxEntry) : (writePfx s m i e).pending = s.pending := by
  simp [writePfx]

@[simp] theorem pfxRefs_pending (s : State) (m i : Nat) (f : Nat → Nat) : (pfxRefs s m i f).pending = s.pending := by
  simp [pfxRefs]

@[simp] theorem evictPfx_pending (s : State) (m i : Nat) : (evictPfx s m i).pending = s.pending := by
  unfold evictPfx
  dsimp only
  split <;> simp

/-! #### Letting go -/

@[simp] theorem dropDraft_pending (s : State) (q : Nat) : (dropDraft s q).pending = s.pending := by
  unfold dropDraft
  dsimp only
  split <;> simp

@[simp] theorem dropPages_pending (s : State) (q : Nat) : (dropPages s q).pending = s.pending := by
  simp [dropPages]

@[simp] theorem freeReq_pending (s : State) (q : Nat) : (freeReq s q).pending = s.pending := by simp [freeReq]

@[simp] theorem endReq_pending (s : State) (q : Nat) (t : ReqSt) (code : Code) (park : Bool) :
    (endReq s q t code park).pending = s.pending := by
  unfold endReq
  dsimp only
  split <;> simp

@[simp] theorem letGo_pending (s : State) (q : Nat) : (letGo s q).pending = s.pending := by simp [letGo]

@[simp] theorem endServing_pending (s : State) (m : Nat) (code : Code) (parked : Bool) :
    (endServing s m code parked).pending = s.pending := by
  rw [endServing, updBatch_pending]
  refine pending_foldl (fun s q => ?_) _ _
  rw [sameQueue_iff]
  dsimp only
  repeat' split
  all_goals simp

@[simp] theorem draftMillDown_pending (s : State) (d : Nat) : (draftMillDown s d).pending = s.pending := by
  simp [draftMillDown]

@[simp] theorem servingDown_pending (s : State) (m : Nat) (code : Code) :
    (servingDown s m code).pending = s.pending := by
  unfold servingDown
  split <;> simp

/-! #### Cores of a step -/

@[simp] theorem stopOwner_pending (s : State) (m : Nat) : (stopOwner s m).pending = s.pending := by
  simp [stopOwner]

@[simp] theorem giveUpStep_pending (s : State) (m : Nat) : (giveUpStep s m).pending = s.pending := by
  simp [giveUpStep]

/-! #### Fences (R496-R498) -/

@[simp] theorem liftFence_pending (s : State) (m : Nat) : (liftFence s m).pending = s.pending := by
  simp [liftFence]

@[simp] theorem endDrain_pending (s : State) (m : Nat) : (endDrain s m).pending = s.pending := by
  simp [endDrain]

@[simp] theorem fenceOwner_pending (s : State) (m : Nat) : (fenceOwner s m).pending = s.pending := by
  simp [fenceOwner]

@[simp] theorem tryLift_pending (s : State) (m : Nat) : (tryLift s m).pending = s.pending := by simp [tryLift]

@[simp] theorem cutDrain_pending (s : State) (m : Nat) : (cutDrain s m).pending = s.pending := by
  simp [cutDrain]

/-! #### Failure of a step -/

@[simp] theorem enterFailed_pending (s : State) (m : Nat) (code : Code) :
    (enterFailed s m code).pending = s.pending := by
  simp [enterFailed]

@[simp] theorem enterHalted_pending (s : State) (m : Nat) : (enterHalted s m).pending = s.pending := by
  unfold enterHalted
  dsimp only
  split <;> simp

@[simp] theorem markFailure_pending (s : State) (m : Nat) (c : Option Nat) (code : Code) :
    (markFailure s m c code).pending = s.pending := by
  unfold markFailure
  dsimp only
  split <;> simp

@[simp] theorem failOwner_pending (s : State) (m : Nat) (c : Option Nat) (r : Rec) (lost tier4 : Bool) :
    (failOwner s m c r lost tier4).pending = s.pending := by
  unfold failOwner
  extract_lets k r'
  split
  · simp
  · rename_i f s1 s2 named s3 s4 gone next h
    have h2 : s2.pending = s.pending := by simp [s2, s1]
    have h3 : s3.pending = s.pending := by
      unfold s3
      split
      · split <;> simp [h2]
      · simp [h2]
    have h4 : s4.pending = s.pending := by
      unfold s4
      split
      · split <;> simp [h3]
      · simp [h3]
    clear_value s2 s3 s4 next
    split
    · simp [h2]
    · cases next <;> simp [h4]

@[simp] theorem startAgain_pending (s : State) (m : Nat) : (startAgain s m).pending = s.pending := by
  simp [startAgain]

@[simp] theorem failCore_pending (s : State) (c : Nat) (r : Rec) (tier4 : Bool) :
    (failCore s c r tier4).pending = s.pending := by
  unfold failCore
  split <;> simp

@[simp] theorem failRegion_pending (s : State) (g : Nat) (code : Code) : (failRegion s g code).pending = s.pending := by
  simp [failRegion]

@[simp] theorem stageSlot_pending (s : State) (n : Nat) : (stageSlot s n).pending = s.pending := by
  simp [stageSlot]

/-! #### What a core counts and signals -/

@[simp] theorem stallOn_pending (s : State) (c : Nat) (i : Slack) (cause detail : Nat) :
    (stallOn s c i cause detail).pending = s.pending := by
  simp [stallOn]

@[simp] theorem failUnit_pending (s : State) (c u op pc : Nat) (f : Fail) :
    (failUnit s c u op pc f).pending = s.pending := by
  unfold failUnit
  split <;> simp

@[simp] theorem failDesc_pending (s : State) (c : Nat) (e : Eng) (d : Desc) (f : Fail) :
    (failDesc s c e d f).pending = s.pending := by
  simp [failDesc]

@[simp] theorem failInstr_pending (s : State) (c u : Nat) (f : Fail) : (failInstr s c u f).pending = s.pending := by
  simp [failInstr]

/-! #### Errors that memory reads meet (04 R129, R136) -/

@[simp] theorem eccCount_pending (s : State) (a : Nat) (f : RegMem → RegMem) :
    (eccCount s a f).pending = s.pending := by
  simp [eccCount]

@[simp] theorem stackDead_pending (s : State) (c : Nat) : (stackDead s c).pending = s.pending := by
  unfold stackDead
  split <;> rfl

@[simp] theorem noteUe_pending (s : State) (a : Nat) : (noteUe s a).pending = s.pending := by simp [noteUe]

@[simp] theorem notePoison_pending (s : State) (a : Nat) : (notePoison s a).pending = s.pending := by
  simp [notePoison]

@[simp] theorem retireRow_pending (s : State) (a : Nat) : (retireRow s a).pending = s.pending := by
  simp [retireRow]

@[simp] theorem noteCe_pending (s : State) (a : Nat) : (noteCe s a).pending = s.pending := by simp [noteCe]

@[simp] theorem meetUpset_pending (rs : Ranges) (s : State) (u : Upset) : (meetUpset rs s u).1.pending = s.pending := by
  unfold meetUpset
  split <;> simp

@[simp] theorem runAll_pending {α : Type} {f : State → α → State × Option Fail} (h : ∀ s a, SameQueue s (f s a).1)
    (s : State) (l : List α) : (runAll f s l).1.pending = s.pending := by
  induction l generalizing s with
  | nil => rfl
  | cons a l ih =>
    have kept := h s a
    rw [runAll]
    split <;> simp_all [eq_mk_iff]

@[simp] theorem meetReads_pending (s : State) (rs : Ranges) (ups : List Upset) :
    (meetReads s rs ups).1.pending = s.pending := by
  simp only [meetReads]
  split
  · simp_all [eq_mk_iff]
  · split <;> simp_all [eq_mk_iff]

@[simp] theorem meetWrites_pending (s : State) (rs : Ranges) (ups : List Upset) :
    (meetWrites s rs ups).1.pending = s.pending := by
  simp only [meetWrites]
  split <;> simp_all [eq_mk_iff]

@[simp] theorem storeBytes_pending (s : State) (a : Nat) (bs : List Byte) :
    (storeBytes s a bs).pending = s.pending := by
  simp [storeBytes]

/-! #### The start of a descriptor -/

@[simp] theorem startDesc_pending {run : State → Desc → State × Option Fail} (h : ∀ s d, SameQueue s (run s d).1)
    (s : State) (c : Nat) (e : Eng) (isOp : Nat → Bool) (plan : State → Desc → Plan) (structs : State → Desc → Option Fail)
    (ups : List Upset) : (startDesc s c e isOp plan structs run ups).pending = s.pending := by
  unfold startDesc
  extract_lets k eng
  split
  · split
    · rfl
    · extract_lets p encoded counted acc wrs
      repeat' split
      all_goals simp_all [eq_mk_iff]
  · rfl

/-! #### Packets -/

@[simp] theorem raceCount_pending (s : State) (r : Nat) (p : Plane) (f : RaceCnt → RaceCnt) :
    (raceCount s r p f).pending = s.pending := by
  simp [raceCount]

@[simp] theorem addPacket_pending (s : State) (p : Packet) : (addPacket s p).pending = s.pending := by
  simp [addPacket]

@[simp] theorem dropPacket_pending (s : State) (id : Nat) : (dropPacket s id).pending = s.pending := by
  simp [dropPacket]

@[simp] theorem writePackets_pending (n : Nat) (s : State) (h : Packet) (off : Nat) (bs : List Byte) :
    (writePackets n s h off bs).pending = s.pending := by
  induction n generalizing s off bs with
  | zero => rfl
  | succ n ih =>
    simp only [writePackets]
    repeat' split
    all_goals simp [ih]

/-! #### The header (R175) -/

@[simp] theorem respond_pending (s : State) (acc : Nat) (src : Party) (core : Nat) (code : Code) :
    (respond s acc src core code).pending = s.pending := by
  unfold respond
  split <;> simp

@[simp] theorem dropAccess_pending (s : State) (acc : Nat) : (dropAccess s acc).pending = s.pending := by
  simp [dropAccess]

@[simp] theorem failAccessWith_pending (s : State) (acc : Nat) (f : Fail) :
    (failAccessWith s acc f).pending = s.pending := by
  simp only [failAccessWith]
  repeat' split
  all_goals simp

@[simp] theorem failAccess_pending (s : State) (acc : Nat) (code : Code) :
    (failAccess s acc code).pending = s.pending := by
  simp [failAccess]

/-! #### Messages that cross Race in one act (log entry 88) -/

@[simp] theorem travel_pending (s : State) (p : Plane) (f : Nat) (path : List Node) :
    (travel s p f path).1.pending = s.pending := by
  induction path generalizing s with
  | nil => rfl
  | cons x rest ih =>
    simp only [travel]
    repeat' split
    all_goals simp [ih]

@[simp] theorem timerRec_pending (s : State) (r dest src : Nat) (p : Plane) :
    (timerRec s r dest src p).pending = s.pending := by
  simp [timerRec]

@[simp] theorem lostRec_pending (s : State) (r dest : Nat) : (lostRec s r dest).pending = s.pending := by
  simp [lostRec]

@[simp] theorem follow_pending (s : State) (p : Plane) (f dest : Nat) (path : List Node) :
    (follow s p f dest path).1.pending = s.pending := by
  simp only [follow]
  split <;> simp_all [eq_mk_iff]

@[simp] theorem crossBy_pending (s : State) (p : Plane) (rt : Route) (a b n dest : Nat) :
    (crossBy s p rt a b n dest).1.pending = s.pending := by
  simp [crossBy]

@[simp] theorem cross_pending (s : State) (p : Plane) (a b n dest : Nat) :
    (cross s p a b n dest).1.pending = s.pending := by
  simp [cross]

@[simp] theorem flumeCross_pending (s : State) (p : Plane) (c k n dest : Nat) (out : Bool) :
    (flumeCross s p c k n dest out).1.pending = s.pending := by
  simp [flumeCross]

@[simp] theorem refuseEdge_pending (s : State) (c w edge dest : Nat) (p : Plane) (code : Code) :
    (refuseEdge s c w edge dest p code).pending = s.pending := by
  simp [refuseEdge]

@[simp] theorem acceptEdge_pending (s : State) (c : Nat) (p : Plane) : (acceptEdge s c p).pending = s.pending := by
  simp [acceptEdge]

/-! #### Apertures and checks -/

@[simp] theorem countRefused_pending (s : State) (a n : Nat) : (countRefused s a n).pending = s.pending := by
  simp [countRefused]

@[simp] theorem countSnow_pending (s : State) (i a n : Nat) : (countSnow s i a n).pending = s.pending := by
  simp [countSnow]

@[simp] theorem snowUe_pending (s : State) (a syn : Nat) : (snowUe s a syn).1.pending = s.pending := by
  simp [snowUe]

@[simp] theorem meetSnow_pending (a n : Nat) (s : State) (u : Upset) : (meetSnow a n s u).1.pending = s.pending := by
  unfold meetSnow
  split <;> simp

@[simp] theorem meetAll_pending {α : Type} {f : State → α → State × Option Fail} (h : ∀ s a, SameQueue s (f s a).1)
    (s : State) (l : List α) : (meetAll f s l).1.pending = s.pending := by
  refine pending_fst_foldl (fun x a => ?_) l (s, none)
  exact h x.1 a

@[simp] theorem snowRead_pending (s : State) (a n : Nat) (ups : List Upset) :
    (snowRead s a n ups).1.pending = s.pending := by
  simp [snowRead]

@[simp] theorem snowWritten_pending (s : State) (a n : Nat) : (snowWritten s a n).pending = s.pending := by
  simp [snowWritten]

@[simp] theorem snowWrite_pending (s : State) (a src n : Nat) : (snowWrite s a src n).pending = s.pending := by
  simp [snowWrite]

/-! #### Installing -/

@[simp] theorem installMills_pending (s : State) (n : Nat) (img : List Byte) :
    (installMills s n img).pending = s.pending := by
  simp [installMills]

@[simp] theorem installHandle_pending (s : State) (b : List Byte) : (installHandle s b).pending = s.pending := by
  simp [installHandle]

@[simp] theorem installWindow_pending (s : State) (b : List Byte) : (installWindow s b).pending = s.pending := by
  simp [installWindow]

/-! #### ROUTE, POWER, SPILL, FLUME, SERVE, XACT, MANIFEST (R256-R262) -/

@[simp] theorem installBounds_pending (s : State) (img : List Byte) : (installBounds s img).pending = s.pending := by
  simp [installBounds]

/-! #### Distribution (R270) -/

@[simp] theorem installRoutes_pending (s : State) (img : List Byte) (a : Nat) :
    (installRoutes s img a).pending = s.pending := by
  simp [installRoutes]

@[simp] theorem zeroCore_pending (s : State) (c lo : Nat) : (zeroCore s c lo).pending = s.pending := by
  simp [zeroCore]

@[simp] theorem installProgram_pending (s : State) (img : List Byte) (c : Nat) :
    (installProgram s img c).pending = s.pending := by
  unfold installProgram
  split <;> rfl

@[simp] theorem installTables_pending (img : List Byte) (s : State) (c : Nat) :
    (installTables img s c).pending = s.pending := by
  unfold installTables
  split <;> simp

@[simp] theorem installCore_pending (img : List Byte) (s : State) (c : Nat) :
    (installCore img s c).pending = s.pending := by
  simp [installCore]

@[simp] theorem slotLoaded_pending (s : State) (n : Nat) : (slotLoaded s n).pending = s.pending := by
  simp [slotLoaded]

@[simp] theorem installImage_pending (s : State) (n : Nat) (img : List Byte) :
    (installImage s n img).pending = s.pending := by
  simp [installImage]

/-! #### The shape of a region when it changes at run time -/

@[simp] theorem regionRec_pending (s : State) (g : Nat) (code : Code) (origin : Origin) (syn : Nat) :
    (regionRec s g code origin syn).pending = s.pending := by
  simp [regionRec]

/-! #### Routes (R171, R187, R193) -/

@[simp] theorem reroute_pending (s : State) (a b : Nat) (p : Plane) (r : Route) :
    (reroute s a b p r).pending = s.pending := by
  simp [reroute]

@[simp] theorem rerouteRound_pending (s : State) (g : Nat) (block : Bool) :
    (rerouteRound s g block).pending = s.pending := by
  simp [rerouteRound]

@[simp] theorem rerouteLost_pending (s : State) (g : Nat) : (rerouteLost s g).pending = s.pending := by
  simp [rerouteLost]

@[simp] theorem rerouteOff_pending (s : State) (g : Nat) : (rerouteOff s g).pending = s.pending := by
  simp [rerouteOff]

@[simp] theorem hopEnd_pending (s : State) (code : Code) (sect record : Nat) :
    (hopEnd s code sect record).pending = s.pending := by
  simp [hopEnd]

@[simp] theorem stopLoading_pending (s : State) (g : Nat) (code : Code) :
    (stopLoading s g code).pending = s.pending := by
  unfold stopLoading
  split <;> simp

@[simp] theorem markLost_pending (s : State) (g syn : Nat) : (markLost s g syn).pending = s.pending := by
  simp [markLost]

@[simp] theorem shrinkSlot_pending (g y : Nat) (s : State) (n : Nat) : (shrinkSlot g y s n).pending = s.pending := by
  simp [shrinkSlot]

@[simp] theorem dropLogical_pending (s : State) (g y : Nat) : (dropLogical s g y).pending = s.pending := by
  simp [dropLogical]

@[simp] theorem dropRow_pending (s : State) (g p : Nat) : (dropRow s g p).pending = s.pending := by
  unfold dropRow
  dsimp only
  split <;> simp

@[simp] theorem takeOut_pending (s : State) (g p d : Nat) (stack : Bool) :
    (takeOut s g p d stack).pending = s.pending := by
  simp [takeOut]

@[simp] theorem loseSupply_pending (s : State) (g rails : Nat) (trip : Bool) :
    (loseSupply s g rails trip).pending = s.pending := by
  simp [loseSupply]

/-! #### The power of the regions -/

@[simp] theorem updPwr_pending (s : State) (g : Nat) (f : RegPwr → RegPwr) : (updPwr s g f).pending = s.pending := by
  simp [updPwr]

/-! #### Operating points (R440-R443) -/

@[simp] theorem limitChanged_pending (s : State) (g : Nat) : (limitChanged s g).pending = s.pending := by
  simp [limitChanged]

@[simp] theorem execOpRaiseStart_keepsQueue (r : RegionId) (s : State) : KeepsQueue s (execOpRaiseStart r s) := by
  simp only [execOpRaiseStart]
  repeat' split
  all_goals simp

@[simp] theorem execOpRaise_keepsQueue (r : RegionId) (s : State) : KeepsQueue s (execOpRaise r s) := by
  unfold execOpRaise
  dsimp only
  split <;> simp

@[simp] theorem execOpLower_keepsQueue (r : RegionId) (s : State) : KeepsQueue s (execOpLower r s) := by
  simp [execOpLower]

/-! #### Current limits (R447-R450) -/

@[simp] theorem execEstimatorWindow_keepsQueue (r : RegionId) (vddc vdds vddm vddn : BitVec 16) (s : State) :
    KeepsQueue s (execEstimatorWindow r vddc vdds vddm vddn s) := by
  simp [execEstimatorWindow]

@[simp] theorem execQuietMillisecond_keepsQueue (r : RegionId) (s : State) :
    KeepsQueue s (execQuietMillisecond r s) := by
  simp [execQuietMillisecond]

@[simp] theorem execGainCorrection_keepsQueue (r : RegionId) (rail : Fin 4) (estimate : Nat) (s : State) :
    KeepsQueue s (execGainCorrection r rail estimate s) := by
  simp [execGainCorrection]

/-! #### Droop (R451) -/

@[simp] theorem execDroop_keepsQueue (r : RegionId) (s : State) : KeepsQueue s (execDroop r s) := by
  simp [execDroop]

@[simp] theorem execDroopHoldEnd_keepsQueue (r : RegionId) (s : State) : KeepsQueue s (execDroopHoldEnd r s) := by
  simp [execDroopHoldEnd]

/-! #### The device cap (R452-R456) -/

@[simp] theorem setPwr_pending (s : State) (p : Pwr) : (setPwr s p).pending = s.pending := by simp [setPwr]

@[simp] theorem execCapEvaluation_keepsQueue (p10 p1s : BitVec 12) (s : State) :
    KeepsQueue s (execCapEvaluation p10 p1s s) := by
  simp only [execCapEvaluation]
  repeat' split
  all_goals simp

/-! #### The references of the root PLL (R464, R480) -/

@[simp] theorem loseRef_pending (s : State) (port : Bool) : (loseRef s port).pending = s.pending := by
  simp [loseRef]

@[simp] theorem gainRef_pending (s : State) (port : Bool) : (gainRef s port).pending = s.pending := by
  simp [gainRef]

/-! #### Heat (R459-R463) -/

@[simp] theorem stackLost_pending (s : State) (x : RegionId × Fin 16 × Fin 17) :
    (stackLost s x).pending = s.pending := by
  unfold stackLost
  dsimp only
  split <;> simp

@[simp] theorem execThermalEvaluation_keepsQueue (stk log : List (BitVec 12)) (dead : List
    (RegionId × Fin 16 × Fin 17)) (s : State) :
    KeepsQueue s (execThermalEvaluation stk log dead s) := by
  simp only [execThermalEvaluation]
  repeat' split
  all_goals simp

@[simp] theorem loseStacks_pending (s : State) (g : Nat) : (loseStacks s g).pending = s.pending := by
  simp [loseStacks]

@[simp] theorem dropRetained_pending (s : State) (p : Retain → Bool) : (dropRetained s p).pending = s.pending := by
  simp [dropRetained]

@[simp] theorem firnLoss_pending (s : State) (g : Nat) (rails : BitVec 4) (trip : Bool) :
    (firnLoss s g rails trip).pending = s.pending := by
  simp [firnLoss]

@[simp] theorem openRegion_pending (s : State) (g : Nat) : (openRegion s g).pending = s.pending := by
  simp [openRegion]

@[simp] theorem execTrip_keepsQueue (k : Comparator) (s : State) : KeepsQueue s (execTrip k s) := by
  simp only [execTrip]
  repeat' split
  all_goals simp

@[simp] theorem execRailLoss_keepsQueue (r : RegionId) (rails : BitVec 4) (s : State) :
    KeepsQueue s (execRailLoss r rails s) := by
  simp [execRailLoss]

/-! #### Checks at the destination (R151, R152, R158, R222) -/

@[simp] theorem refusalRec_pending (s : State) (p : Packet) (src c : Nat) (code : Code) :
    (refusalRec s p src c code).pending = s.pending := by
  simp [refusalRec]

/-! #### PLAIN writes (R130, R136, R581) -/

@[simp] theorem infoAt_pending (s : State) (c : Nat) (f : Fail) : (infoAt s c f).pending = s.pending := by
  simp [infoAt]

@[simp] theorem writePlain_pending (s : State) (c a : Nat) (bs : List Byte) (ups : List Upset) :
    (writePlain s c a bs ups).1.pending = s.pending := by
  simp only [writePlain, storeBytes_pending]
  refine pending_fst_foldl (fun s q => ?_) _ _
  split <;> simp_all [eq_mk_iff]

/-! #### Accesses of edge blocks (R19, R170, R178) -/

@[simp] theorem answered_pending (s : State) (c d dest : Nat) (code : Option Code) :
    (answered s c d dest code).1.pending = s.pending := by
  simp only [answered]
  split <;> simp_all [eq_mk_iff]

@[simp] theorem readBack_pending (s : State) (c d n dest back : Nat) :
    (readBack s c d n dest back).1.pending = s.pending := by
  simp only [readBack]
  split <;> simp_all [eq_mk_iff]

@[simp] theorem edgeReach_pending (s : State) (n c w dest len : Nat) (p : Plane) (write : Bool)
    (check : State → Option Code) :
    (edgeReach s n c w dest len p write check).1.pending = s.pending := by
  simp only [edgeReach]
  repeat' split
  all_goals simp_all [eq_mk_iff]

@[simp] theorem edgeWrite_pending (s : State) (n c w dest : Nat) (p : Plane) (bs : List Byte)
    (check : State → Option Code) (ups : List Upset) :
    (edgeWrite s n c w dest p bs check ups).1.pending = s.pending := by
  simp only [edgeWrite]
  split <;> simp_all [eq_mk_iff]

@[simp] theorem edgeRead_pending (s : State) (n c w dest len : Nat) (check : State → Option Code) (ups : List Upset) :
    (edgeRead s n c w dest len check ups).1.pending = s.pending := by
  simp only [edgeRead]
  repeat' split
  all_goals simp_all [eq_mk_iff]

/-! #### Chip shared memory at another core (R141, R142) -/

@[simp] theorem csmReach_pending (s : State) (c dest : Nat) (wr : Bool) :
    (csmReach s c dest wr).1.pending = s.pending := by
  simp only [csmReach]
  repeat' split
  all_goals simp_all [eq_mk_iff]

@[simp] theorem csmRead_pending (s : State) (c dest : Nat) (ups : List Upset) :
    (csmRead s c dest ups).1.pending = s.pending := by
  simp only [csmRead]
  repeat' split
  all_goals simp_all [eq_mk_iff]

@[simp] theorem csmWrite_pending (s : State) (c dest : Nat) (bs : List Byte) (ups : List Upset) :
    (csmWrite s c dest bs ups).1.pending = s.pending := by
  simp only [csmWrite]
  split <;> simp_all [eq_mk_iff]

/-! #### Reservations (R289, R295, R296) -/

@[simp] theorem refuseAdmitted_pending (s : State) (q : Nat) (code : Code) :
    (refuseAdmitted s q code).pending = s.pending := by
  simp [refuseAdmitted]

@[simp] theorem evictFor_pending (m want n : Nat) (s : State) : (evictFor m want n s).pending = s.pending := by
  induction n generalizing s with
  | zero => rfl
  | succ n ih =>
    simp only [evictFor]
    repeat' split
    all_goals simp [ih]

@[simp] theorem reserve_pending (s : State) (m want : Nat) : (reserve s m want).2.pending = s.pending := by
  simp [reserve]

@[simp] theorem admitReq_pending (s : State) (q : Nat) : (admitReq s q).pending = s.pending := by
  simp only [admitReq]
  repeat' split
  all_goals simp_all [eq_mk_swap_iff]

@[simp] theorem meetEntries_pending (s : State) (m : Nat) (is : List Nat) (ups : List Upset) :
    (meetEntries s m is ups).1.pending = s.pending := by
  simp only [meetEntries]
  refine pending_fst_foldl (fun s q => ?_) _ _
  split <;> simp_all [eq_mk_iff]

@[simp] theorem takeRun_pending (s : State) (q : Nat) (is : List Nat) : (takeRun s q is).pending = s.pending := by
  simp [takeRun]

@[simp] theorem insertPfx_pending (s : State) (q j : Nat) (lost : List Nat) (h : List Byte) :
    (insertPfx s q j lost h).2.pending = s.pending := by
  simp only [insertPfx]
  split
  · rfl
  · next i t place =>
    have kept : t.pending = s.pending := by
      split at place
      · simp_all
      · obtain ⟨i, -, evicted⟩ := Option.map_eq_some_iff.1 place
        obtain ⟨-, rfl⟩ := Prod.mk.inj evicted
        simp
    split <;> simp [kept]

@[simp] theorem insertRun_pending (q from_ done : Nat) (lost : List Nat) (j : Nat) (hs : List (List Byte)) (s : State) :
    (insertRun q from_ done lost j hs s).pending = s.pending := by
  induction hs generalizing j s with
  | nil => rfl
  | cons h hs ih =>
    simp only [insertRun]
    repeat' split
    all_goals simp_all [eq_mk_swap_iff]

@[simp] theorem insertBlocks_pending (s : State) (q from_ done : Nat) (ups : List Upset) :
    (insertBlocks s q from_ done ups).pending = s.pending := by
  simp [insertBlocks]

/-! #### Drafting (R335-R337, R344) -/

@[simp] theorem admitDraft_pending (s : State) (q : Nat) : (admitDraft s q).pending = s.pending := by
  unfold admitDraft
  dsimp only
  split <;> simp

/-! #### The records of a batch (R302, R303, R337, R340) -/

@[simp] theorem enqueue_pending (s : State) (q t : Nat) : (enqueue s q t).pending = s.pending := by
  simp [enqueue]

@[simp] theorem placeReq_pending (m role : Nat) (s : State) (x : Nat × Ask) :
    (placeReq m role s x).pending = s.pending := by
  simp [placeReq]

@[simp] theorem writeTable_pending (s : State) (m : Nat) : (writeTable s m).1.pending = s.pending := by
  rw [writeTable]
  refine pending_fst_foldl (fun st c => ?_) _ _
  obtain ⟨sp, lo, n⟩ := ltRange st.1 m c
  exact edgeWrite_pending ..

@[simp] theorem failBatch_pending (s : State) (m : Nat) (code : Code) : (failBatch s m code).pending = s.pending := by
  simp [failBatch]

@[simp] theorem formBatch_pending (s : State) (m : Nat) : (formBatch s m).pending = s.pending := by
  simp only [formBatch]
  split
  · rfl
  · split <;> simp_all [eq_mk_iff]

/-! #### Starting a step (06 R200, R201; 01 R39) -/

@[simp] theorem acceptStep_pending (s : State) (m entry : Nat) (arg : BitVec 32) :
    (acceptStep s m entry arg).pending = s.pending := by
  simp [acceptStep]

/-! #### Park space (R310) -/

theorem startPark_pending {s t : State} {q ttl : Nat} (h : startPark s q ttl = some t) : t.pending = s.pending := by
  unfold startPark at h
  dsimp only at h
  split at h
  · cases h
  · obtain ⟨a, -, rfl⟩ := Option.map_eq_some_iff.1 h
    simp

@[simp] theorem releasePark_pending (s : State) (q : Nat) : (releasePark s q).pending = s.pending := by
  simp [releasePark]

@[simp] theorem expirePark_pending (s : State) (q : Nat) : (expirePark s q).pending = s.pending := by
  simp [expirePark]

@[simp] theorem finishPark_pending (s : State) (q t : Nat) : (finishPark s q t).pending = s.pending := by
  simp [finishPark]

/-! #### Flits as they leave (R388) -/

@[simp] theorem emitFlit_pending (s : State) (l : Nat) (f : TxFlit) : (emitFlit s l f).pending = s.pending := by
  simp [emitFlit]

/-! #### The replay buffer (R389) -/

@[simp] theorem pushFlit_pending (s : State) (l : Nat) (f : TxFlit) : (pushFlit s l f).pending = s.pending := by
  simp [pushFlit]

@[simp] theorem pushQcfg_pending (s : State) (l : Nat) : (pushQcfg s l).pending = s.pending := by
  simp [pushQcfg]

@[simp] theorem pushNext_pending (s : State) (l q : Nat) : (pushNext s l q).pending = s.pending := by
  unfold pushNext
  dsimp only
  split <;> simp

@[simp] theorem drain_pending (n : Nat) (s : State) (l : Nat) : (drain n s l).pending = s.pending := by
  induction n generalizing s with
  | zero => rfl
  | succ n ih =>
    simp only [drain]
    repeat' split
    all_goals simp [ih]

@[simp] theorem idleFlits_pending (n : Nat) (s : State) (l : Nat) : (idleFlits n s l).pending = s.pending := by
  induction n generalizing s with
  | zero => rfl
  | succ n ih =>
    simp only [idleFlits]
    repeat' split
    all_goals simp [ih]

@[simp] theorem settleLink_pending (s : State) (l : Nat) : (settleLink s l).pending = s.pending := by
  simp [settleLink]

/-! #### A transfer on plane K (R166, R403) -/

@[simp] theorem flumeOut_pending (s : State) (c a n : Nat) (write : Bool) :
    (flumeOut s c a n write).1.pending = s.pending := by
  simp [flumeOut]

@[simp] theorem flumeBack_pending (s : State) (c a n : Nat) (write data : Bool) :
    (flumeBack s c a n write data).1.pending = s.pending := by
  simp [flumeBack]

@[simp] theorem sendMessage_pending (s : State) (l q : Nat) (bs : List Byte) :
    (sendMessage s l q bs).pending = s.pending := by
  simp [sendMessage]

@[simp] theorem abandonMessage_pending (s : State) (id : Nat) : (abandonMessage s id).pending = s.pending := by
  unfold abandonMessage
  split <;> simp

/-! #### The matrix engine and the Spillway unit -/

@[simp] theorem addTerm_pending (s : State) (a : Nat) (unit : Bool) (term : Int) :
    (addTerm s a unit term).1.pending = s.pending := by
  simp [addTerm]

@[simp] theorem outWord_pending (s : State) (a out : Nat) (bf16 : Bool) (ta tb : Nat) :
    (outWord s a out bf16 ta tb).1.pending = s.pending := by
  unfold outWord
  dsimp only
  split <;> simp

@[simp] theorem orFail_pending {α : Type} {s : State} {k : α → State × Option Fail} (h : ∀ v, SameQueue s (k v).1)
    (x : Except Fail α) : (orFail s x k).1.pending = s.pending := by
  cases x with
  | ok v => exact h v
  | error e => rfl

@[simp] theorem clearTile_pending (s : State) (l n : Nat) : (clearTile s l n).pending = s.pending := by
  simp [clearTile]

@[simp] theorem meEmit_pending (c : Nat) (d : Desc) (ta tb : Nat) (s : State) (mn : Nat × Nat) :
    (meEmit c d ta tb s mn).1.pending = s.pending := by
  simp [meEmit]

@[simp] theorem meProducts_pending (c : Nat) (d : Desc) (unit : Bool) (n ta tb : Nat)
    (term : State → Nat × Nat → Nat → Except Fail Int) (s : State) :
    (meProducts c d unit n ta tb term s).1.pending = s.pending := by
  simp only [meProducts]
  refine (runAll_pending (fun s mn => ?_) _ _).trans (by simp)
  split <;> simp_all [eq_mk_iff]

@[simp] theorem runMatmul_pending (c : Nat) (s : State) (d : Desc) : (runMatmul c s d).1.pending = s.pending := by
  simp [runMatmul]

@[simp] theorem addWide_pending (s : State) (a : Nat) (p : Int × Bool) : (addWide s a p).1.pending = s.pending := by
  simp [addWide]

@[simp] theorem runWide_pending (c : Nat) (s : State) (d : Desc) : (runWide c s d).1.pending = s.pending := by
  simp only [runWide]
  split
  · refine (runAll_pending (fun s mn => ?_) _ _).trans (by simp)
    split
    · next h =>
      obtain ⟨rfl, -⟩ := eq_mk_iff.1 h
      exact runAll_pending (fun _ _ => orFail_pending (fun _ => addWide_pending ..) _) _ _
    · next h =>
      obtain ⟨rfl, -⟩ := eq_mk_iff.1 h
      exact (meEmit_pending ..).trans (runAll_pending (fun _ _ => orFail_pending (fun _ => addWide_pending ..) _) _ _)
  · simp

@[simp] theorem runDrain_pending (c : Nat) (s : State) (d : Desc) : (runDrain c s d).1.pending = s.pending := by
  simp only [runDrain]
  refine runAll_pending (fun s mn => ?_) _ _
  split
  · rfl
  · split <;> simp_all [eq_mk_iff]

@[simp] theorem guardResidue_pending {run : State → Desc → State × Option Fail} (h : ∀ s d, SameQueue s (run s d).1)
    (ups : List Upset) (s : State) (d : Desc) : (guardResidue ups run s d).1.pending = s.pending := by
  unfold guardResidue
  split
  · rfl
  · exact h s d

@[simp] theorem execMatmul_keepsQueue (c : CoreId) (ups : List Upset) (s : State) :
    KeepsQueue s (execMatmul c ups s) := by
  simp [execMatmul]

@[simp] theorem execWide_keepsQueue (c : CoreId) (ups : List Upset) (s : State) : KeepsQueue s (execWide c ups s) := by
  simp [execWide]

@[simp] theorem execDrain_keepsQueue (c : CoreId) (ups : List Upset) (s : State) :
    KeepsQueue s (execDrain c ups s) := by
  simp [execDrain]

/-! #### The Spillway unit -/

@[simp] theorem runSpillW_pending (c : Nat) (s : State) (d : Desc) : (runSpillW c s d).1.pending = s.pending :=
  runAll_pending (fun _ _ => orFail_pending (fun _ => orFail_pending (fun _ => runAll_pending (fun _ _ => runAll_pending
    (fun _ _ => orFail_pending (fun _ => by rw [sameQueue_iff]; split <;> simp) _) _ _) _ _) _) _) _ _

@[simp] theorem runSpillA_pending (c : Nat) (s : State) (d : Desc) : (runSpillA c s d).1.pending = s.pending := by
  simp only [runSpillA]
  refine runAll_pending (fun s m => orFail_pending (fun r => ?_) _) _ _
  split
  · rfl
  · exact orFail_pending (fun _ => runAll_pending (fun _ _ => runAll_pending
      (fun _ _ => orFail_pending (fun _ => by rw [sameQueue_iff]; split <;> simp) _) _ _) _ _) _

@[simp] theorem execSpillW_keepsQueue (c : CoreId) (ups : List Upset) (s : State) :
    KeepsQueue s (execSpillW c ups s) := by
  simp [execSpillW]

@[simp] theorem execSpillA_keepsQueue (c : CoreId) (ups : List Upset) (s : State) :
    KeepsQueue s (execSpillA c ups s) := by
  simp [execSpillA]

/-! #### SCORE -/

@[simp] theorem runScore_pending (c : Nat) (ups : List Upset) (s : State) (d : Desc) :
    (runScore c ups s d).1.pending = s.pending := by
  simp only [runScore]
  split
  · simp_all [eq_mk_iff]
  · next t h =>
    have kept : t.pending = s.pending := by simp_all [eq_mk_iff]
    refine (runAll_pending (fun s i => ?_) _ _).trans kept
    refine (runAll_pending (fun s j => orFail_pending (fun v => by simp) _) _ _).trans (by simp)

@[simp] theorem execScore_keepsQueue (c : CoreId) (ups : List Upset) (s : State) :
    KeepsQueue s (execScore c ups s) := by
  simp [execScore]

/-! #### SELECT -/

@[simp] theorem runSelect_pending (c : Nat) (s : State) (d : Desc) : (runSelect c s d).1.pending = s.pending := by
  simp [runSelect]

@[simp] theorem execSelect_keepsQueue (c : CoreId) (ups : List Upset) (s : State) :
    KeepsQueue s (execSelect c ups s) := by
  simp [execSelect]

/-! #### Descriptors -/

@[simp] theorem runElems_pending (c : Nat) (f : Fl → Fl → Ex) (s : State) (d : Desc) :
    (runElems c f s d).1.pending = s.pending := by
  simp [runElems]

@[simp] theorem runRows_pending (c : Nat) (aux : State → Nat → Nat → List Nat) (f : List Fl → List Nat → Nat → Ex)
    (s : State) (d : Desc) :
    (runRows c aux f s d).1.pending = s.pending := by
  simp [runRows]

/-! #### ADAMW -/

@[simp] theorem runAdamw_pending (c : Nat) (s : State) (d : Desc) : (runAdamw c s d).1.pending = s.pending := by
  simp [runAdamw]

/-! #### The commands -/

@[simp] theorem startNau_keepsQueue {run : State → Desc → State × Option Fail} (h : ∀ s d, SameQueue s (run s d).1)
    (c : CoreId) (isOp : Nat → Bool) (structs : State → Desc → Option Fail) (ups : List Upset) (s : State) :
    KeepsQueue s (startNau c isOp structs run ups s) := by
  rw [startNau, keepsQueue_next]
  exact startDesc_pending (fun s d => guardResidue_pending h ups s d) ..

@[simp] theorem execRmsnorm_keepsQueue (c : CoreId) (ups : List Upset) (s : State) :
    KeepsQueue s (execRmsnorm c ups s) := by
  simp [execRmsnorm]

@[simp] theorem execLayernorm_keepsQueue (c : CoreId) (ups : List Upset) (s : State) :
    KeepsQueue s (execLayernorm c ups s) := by
  simp [execLayernorm]

@[simp] theorem execSiluMul_keepsQueue (c : CoreId) (ups : List Upset) (s : State) :
    KeepsQueue s (execSiluMul c ups s) := by
  simp [execSiluMul]

@[simp] theorem execGelu_keepsQueue (c : CoreId) (ups : List Upset) (s : State) : KeepsQueue s (execGelu c ups s) := by
  simp [execGelu]

@[simp] theorem execAdd_keepsQueue (c : CoreId) (ups : List Upset) (s : State) : KeepsQueue s (execAdd c ups s) := by
  simp [execAdd]

@[simp] theorem execMul_keepsQueue (c : CoreId) (ups : List Upset) (s : State) : KeepsQueue s (execMul c ups s) := by
  simp [execMul]

@[simp] theorem execExp_keepsQueue (c : CoreId) (ups : List Upset) (s : State) : KeepsQueue s (execExp c ups s) := by
  simp [execExp]

@[simp] theorem execRecip_keepsQueue (c : CoreId) (ups : List Upset) (s : State) :
    KeepsQueue s (execRecip c ups s) := by
  simp [execRecip]

@[simp] theorem execRsqrt_keepsQueue (c : CoreId) (ups : List Upset) (s : State) :
    KeepsQueue s (execRsqrt c ups s) := by
  simp [execRsqrt]

@[simp] theorem execSoftmaxFin_keepsQueue (c : CoreId) (ups : List Upset) (s : State) :
    KeepsQueue s (execSoftmaxFin c ups s) := by
  simp [execSoftmaxFin]

@[simp] theorem execAdamw_keepsQueue (c : CoreId) (ups : List Upset) (s : State) :
    KeepsQueue s (execAdamw c ups s) := by
  simp [execAdamw]

/-! #### The descriptor -/

@[simp] theorem writeRow_pending (s : State) (blocks scales fmt : Nat) (bs : List QBlock) :
    (writeRow s blocks scales fmt bs).pending = s.pending := by
  simp [writeRow]

@[simp] theorem quantReplay_pending (c : Nat) (d : Desc) (s : State) (i used : Nat) (us : List Quo) :
    (quantReplay c d s i used us).1.pending = s.pending := by
  rw [quantReplay]
  split
  · rfl
  · dsimp only
    rw [logRec_pending, updCore_pending, storeBytes_pending, writeRow_pending, storeBytes_pending, writeRow_pending,
      storeBytes_pending]

@[simp] theorem quantBlocks_pending (c : Nat) (d : Desc) (s : State) (i : Nat) (us : List Quo) (cand : List Nat) :
    (quantBlocks c d s i us cand).pending = s.pending := by
  simp [quantBlocks]

@[simp] theorem quantRows_pending (c : Nat) (d : Desc) (n i used : Nat) (s : State) :
    (quantRows c d n i used s).1.pending = s.pending := by
  induction n generalizing i used s with
  | zero => rfl
  | succ n ih =>
    simp only [quantRows]
    repeat' split
    all_goals simp_all [eq_mk_iff]

@[simp] theorem runQuant_pending (c : Nat) (s : State) (d : Desc) : (runQuant c s d).1.pending = s.pending := by
  simp [runQuant]

@[simp] theorem execQuant_keepsQueue (c : CoreId) (ups : List Upset) (s : State) :
    KeepsQueue s (execQuant c ups s) := by
  simp [execQuant]

/-! #### APPEND -/

@[simp] theorem foldPage_pending (c : Nat) (l : PList) (s : State) (pidx : Nat) :
    (foldPage c l s pidx).1.pending = s.pending := by
  simp only [foldPage]
  repeat' split
  all_goals simp_all [eq_mk_iff]

@[simp] theorem foldList_pending (c : Nat) (d : Desc) (s : State) : (foldList c d s).1.pending = s.pending := by
  simp only [foldList]
  repeat' split
  all_goals simp_all [eq_mk_iff]

@[simp] theorem initBlock_pending (s : State) (l : PList) (a kts vts : Nat) :
    (initBlock s l a kts vts).pending = s.pending := by
  simp [initBlock]

@[simp] theorem putNibble_pending (s : State) (b i e : Nat) : (putNibble s b i e).pending = s.pending := by
  simp [putNibble]

@[simp] theorem putV_pending (s : State) (l : PList) (a slot : Nat) (v : Tens) (row : Nat) :
    (putV s l a slot v row).pending = s.pending := by
  simp [putV]

@[simp] theorem putK_pending (s : State) (l : PList) (a slot : Nat) (k : Tens) (row : Nat) :
    (putK s l a slot k row).1.pending = s.pending := by
  simp [putK]

@[simp] theorem appendRow_pending (c : Nat) (d : Desc) (l : PList) (k v : Tens) (s : State) (i : Nat) :
    (appendRow c d l k v s i).1.pending = s.pending := by
  simp only [appendRow]
  repeat' split
  all_goals simp_all [eq_mk_iff]

@[simp] theorem runAppend_pending (c : Nat) (ups : List Upset) (s : State) (d : Desc) :
    (runAppend c ups s d).1.pending = s.pending := by
  simp only [runAppend]
  repeat' split
  all_goals simp_all [eq_mk_iff]

/-! #### PARK and RESTORE -/

@[simp] theorem crossPage_pending {move : State → State × Option Fail} (h : ∀ s, SameQueue s (move s).1)
    (s : State) (c a n : Nat) (write : Bool) : (crossPage s c a n write move).1.pending = s.pending := by
  simp only [crossPage]
  split <;> simp_all [eq_mk_iff]

@[simp] theorem runPark_pending (c : Nat) (ups : List Upset) (s : State) (d : Desc) :
    (runPark c ups s d).1.pending = s.pending := by
  simp only [runPark]
  refine runAll_pending (fun s j => ?_) _ _
  split
  · simp_all [eq_mk_iff]
  · next t h =>
    have kept : t.pending = s.pending := by simp_all [eq_mk_iff]
    refine (crossPage_pending (fun s => ?_) _ _ _ _ _).trans kept
    split <;> simp

@[simp] theorem runRestore_pending (c : Nat) (ups : List Upset) (s : State) (d : Desc) :
    (runRestore c ups s d).1.pending = s.pending := by
  simp only [runRestore]
  refine runAll_pending (fun s j => crossPage_pending (fun s => ?_) _ _ _ _ _) _ _
  split
  · simp
  · rfl
  · split <;> simp_all [eq_mk_iff]

@[simp] theorem execAppend_keepsQueue (c : CoreId) (ups : List Upset) (s : State) :
    KeepsQueue s (execAppend c ups s) := by
  simp [execAppend]

@[simp] theorem execKsePark_keepsQueue (c : CoreId) (ups : List Upset) (s : State) :
    KeepsQueue s (execKsePark c ups s) := by
  simp [execKsePark]

@[simp] theorem execKseRestore_keepsQueue (c : CoreId) (ups : List Upset) (s : State) :
    KeepsQueue s (execKseRestore c ups s) := by
  simp [execKseRestore]

/-! #### The router unit -/

@[simp] theorem runGate_pending (c : Nat) (s : State) (d : Desc) : (runGate c s d).1.pending = s.pending := by
  simp [runGate]

@[simp] theorem runDispatch_pending (c : Nat) (s : State) (d : Desc) : (runDispatch c s d).1.pending = s.pending := by
  simp [runDispatch]

@[simp] theorem execGate_keepsQueue (c : CoreId) (ups : List Upset) (s : State) : KeepsQueue s (execGate c ups s) := by
  simp [execGate]

@[simp] theorem execDispatch_keepsQueue (c : CoreId) (ups : List Upset) (s : State) :
    KeepsQueue s (execDispatch c ups s) := by
  simp [execDispatch]

/-! #### LOCAL -/

@[simp] theorem runLocal_pending (c : Nat) (s : State) (d : Desc) : (runLocal c s d).1.pending = s.pending := by
  simp [runLocal]

/-! #### Merging and drawing -/

@[simp] theorem runMerge_pending (c : Nat) (s : State) (d : Desc) : (runMerge c s d).1.pending = s.pending := by
  simp [runMerge]

/-! #### VERIFY -/

@[simp] theorem runVerify_pending (c : Nat) (s : State) (d : Desc) : (runVerify c s d).1.pending = s.pending := by
  simp [runVerify]

@[simp] theorem execLocalReduce_keepsQueue (c : CoreId) (ups : List Upset) (s : State) :
    KeepsQueue s (execLocalReduce c ups s) := by
  simp [execLocalReduce]

@[simp] theorem execMerge_keepsQueue (c : CoreId) (ups : List Upset) (s : State) :
    KeepsQueue s (execMerge c ups s) := by
  simp [execMerge]

@[simp] theorem execVerify_keepsQueue (c : CoreId) (ups : List Upset) (s : State) :
    KeepsQueue s (execVerify c ups s) := by
  simp [execVerify]

/-! #### The turn of a slot -/

@[simp] theorem stallBundle_pending (s : State) (c : CoreId) (x : Stall) : (stallBundle s c x).pending = s.pending := by
  unfold stallBundle
  split <;> simp

@[simp] theorem begun_pending (s : State) (c k : Nat) : (begun s c k).pending = s.pending := by simp [begun]

@[simp] theorem turn_keepsQueue {f : State → State} (h : ∀ s, SameQueue s (f s)) (s : State) (c : CoreId) (k : Fin 4)
    (i : Instr) : KeepsQueue s (turn s c k i f) := by
  simp only [turn, keepsQueue_next]
  repeat' split
  all_goals simp_all

@[simp] theorem turn12_keepsQueue {f : State → State} (h : ∀ s, SameQueue s (f s)) (s : State) (c : CoreId)
    (i : Instr) : KeepsQueue s (turn12 s c i f) := turn_keepsQueue h s c _ i

/-! #### The control slot of the scalar control core -/

@[simp] theorem fallThrough_pending (s : State) (c : Nat) : (fallThrough s c).pending = s.pending := by
  simp [fallThrough]

@[simp] theorem branchTo_pending (s : State) (c n target : Nat) : (branchTo s c n target).pending = s.pending := by
  simp [branchTo]

@[simp] theorem control_keepsQueue {f : State → State} (h : ∀ s, SameQueue s (f s)) (s : State) (c : CoreId)
    (i : Instr) : KeepsQueue s (control s c i f) := turn_keepsQueue h s c _ i

@[simp] theorem execNop_keepsQueue (c : CoreId) (slot : Fin 4) (s : State) : KeepsQueue s (execNop c slot s) := by
  simp [execNop]

@[simp] theorem execBr_keepsQueue (c : CoreId) (cond : Cond) (ra : Fin 32) (target : BitVec 12) (s : State) :
    KeepsQueue s (execBr c cond ra target s) := by
  simp [execBr]

@[simp] theorem execLoop_keepsQueue (c : CoreId) (ra : Fin 32) (target : BitVec 12) (s : State) :
    KeepsQueue s (execLoop c ra target s) := by
  simp [execLoop]

@[simp] theorem execCall_keepsQueue (c : CoreId) (target : BitVec 12) (s : State) :
    KeepsQueue s (execCall c target s) := by
  simp [execCall]

@[simp] theorem execRet_keepsQueue (c : CoreId) (s : State) : KeepsQueue s (execRet c s) := by
  refine control_keepsQueue (fun s => ?_) s c _
  split <;> simp

@[simp] theorem execFence_keepsQueue (c : CoreId) (mask : BitVec 9) (s : State) :
    KeepsQueue s (execFence c mask s) := by
  simp [execFence]

@[simp] theorem execStepEnd_keepsQueue (c : CoreId) (s : State) : KeepsQueue s (execStepEnd c s) := by
  refine control_keepsQueue (fun s => ?_) s c _
  dsimp only
  split <;> simp

@[simp] theorem execHalt_keepsQueue (c : CoreId) (s : State) : KeepsQueue s (execHalt c s) := by
  refine control_keepsQueue (fun s => ?_) s c _
  dsimp only
  split <;> simp

@[simp] theorem writeScalar_pending (s : State) (c : Nat) (rd : Fin 32) (v : Word) :
    (writeScalar s c rd v).pending = s.pending := by
  simp [writeScalar]

@[simp] theorem execLi_keepsQueue (c : CoreId) (rd : Fin 32) (imm : BitVec 21) (s : State) :
    KeepsQueue s (execLi c rd imm s) := by
  simp [execLi]

@[simp] theorem execLih_keepsQueue (c : CoreId) (rd : Fin 32) (sh : Fin 4) (imm : BitVec 16) (s : State) :
    KeepsQueue s (execLih c rd sh imm s) := by
  simp [execLih]

@[simp] theorem execAlu_keepsQueue (c : CoreId) (rd ra rb : Fin 32) (fn : AluFn) (s : State) :
    KeepsQueue s (execAlu c rd ra rb fn s) := by
  simp [execAlu]

@[simp] theorem execAddi_keepsQueue (c : CoreId) (rd ra : Fin 32) (imm : BitVec 16) (s : State) :
    KeepsQueue s (execAddi c rd ra imm s) := by
  simp [execAddi]

@[simp] theorem execBfi_keepsQueue (c : CoreId) (rd ra : Fin 32) (lo wm1 : Fin 64) (s : State) :
    KeepsQueue s (execBfi c rd ra lo wm1 s) := by
  simp [execBfi]

/-! #### LD and ST -/

@[simp] theorem execLd_keepsQueue (c : CoreId) (rd : Fin 32) (h : Fin 64) (ra : Fin 32) (ups : List Upset) (s : State) :
    KeepsQueue s (execLd c rd h ra ups s) := by
  unfold execLd
  split
  · simp
  · refine control_keepsQueue (fun s => ?_) s c _
    rw [sameQueue_iff]
    repeat' split
    all_goals simp_all [eq_mk_iff]

@[simp] theorem execSt_keepsQueue (c : CoreId) (rs : Fin 32) (h : Fin 64) (ra : Fin 32) (ups : List Upset) (s : State) :
    KeepsQueue s (execSt c rs h ra ups s) := by
  unfold execSt
  split
  · simp
  · refine control_keepsQueue (fun s => ?_) s c _
    rw [sameQueue_iff]
    split
    · simp
    · dsimp only
      repeat' split
      all_goals simp_all [eq_mk_iff]

@[simp] theorem execRdsr_keepsQueue (c : CoreId) (rd : Fin 32) (src : SrSrc) (s : State) :
    KeepsQueue s (execRdsr c rd src s) := by
  simp [execRdsr]

/-! #### The engine-issue slots -/

@[simp] theorem issueTo_keepsQueue (e : Eng) (c : CoreId) (sg : Nat) (i : Instr) (s : State) :
    KeepsQueue s (issueTo e c sg i s) := by
  simp [issueTo]

@[simp] theorem execIssueMe_keepsQueue (c : CoreId) (sg : Fin 8) (s : State) : KeepsQueue s (execIssueMe c sg s) := by
  simp [execIssueMe]

@[simp] theorem execIssueSpu_keepsQueue (c : CoreId) (sg : Fin 8) (s : State) : KeepsQueue s (execIssueSpu c sg s) := by
  simp [execIssueSpu]

@[simp] theorem execIssueAsu_keepsQueue (c : CoreId) (sg : Fin 8) (s : State) : KeepsQueue s (execIssueAsu c sg s) := by
  simp [execIssueAsu]

@[simp] theorem execIssueNau_keepsQueue (c : CoreId) (sg : Fin 8) (s : State) : KeepsQueue s (execIssueNau c sg s) := by
  simp [execIssueNau]

@[simp] theorem execIssueQtz_keepsQueue (c : CoreId) (sg : Fin 8) (s : State) : KeepsQueue s (execIssueQtz c sg s) := by
  simp [execIssueQtz]

@[simp] theorem execIssueKse_keepsQueue (c : CoreId) (sg : Fin 8) (s : State) : KeepsQueue s (execIssueKse c sg s) := by
  simp [execIssueKse]

@[simp] theorem execIssueRtu_keepsQueue (c : CoreId) (sg : Fin 8) (s : State) : KeepsQueue s (execIssueRtu c sg s) := by
  simp [execIssueRtu]

@[simp] theorem execIssueSmp_keepsQueue (c : CoreId) (sg : Fin 8) (s : State) : KeepsQueue s (execIssueSmp c sg s) := by
  simp [execIssueSmp]

@[simp] theorem execSetH_keepsQueue (c : CoreId) (h : Fin 64) (sp : Fin 16) (s : State) :
    KeepsQueue s (execSetH c h sp s) := by
  refine turn12_keepsQueue (fun s => ?_) s c _
  dsimp only
  split <;> simp

@[simp] theorem execOpenW_keepsQueue (c : CoreId) (w sp : Fin 16) (s : State) : KeepsQueue s (execOpenW c w sp s) := by
  refine turn12_keepsQueue (fun s => ?_) s c _
  dsimp only
  split <;> simp

@[simp] theorem execCloseW_keepsQueue (c : CoreId) (w : Fin 16) (s : State) : KeepsQueue s (execCloseW c w s) := by
  simp [execCloseW]

/-! #### Steps and recovery of step owners -/

@[simp] theorem milRefused_pending (s : State) (m off : Nat) (code : Code) :
    (milRefused s m off code).pending = s.pending := by
  simp [milRefused]

@[simp] theorem onMill_pending {f : State → State} (h : ∀ s, SameQueue s (f s)) (m : Nat) (s : State) :
    (onMill m s f).pending = s.pending := by
  unfold onMill
  split
  · rfl
  · exact h s

@[simp] theorem execMilDoorbell_keepsQueue (m : MillId) (w : Word) (s : State) :
    KeepsQueue s (execMilDoorbell m w s) := by
  simp [execMilDoorbell]

@[simp] theorem execStepStart_keepsQueue (m : MillId) (s : State) : KeepsQueue s (execStepStart m s) := by
  unfold execStepStart
  dsimp only
  split <;> simp

@[simp] theorem retire_pending (s : State) (m : Nat) : (retire s m).pending = s.pending := by simp [retire]

@[simp] theorem execStepRetire_keepsQueue (m : MillId) (s : State) : KeepsQueue s (execStepRetire m s) := by
  simp [execStepRetire]

@[simp] theorem execWatchdogExpiry_keepsQueue (c : CoreId) (came : Bool) (s : State) :
    KeepsQueue s (execWatchdogExpiry c came s) := by
  unfold execWatchdogExpiry
  split <;> simp

@[simp] theorem restartStep_pending (s : State) (m : Nat) : (restartStep s m).pending = s.pending := by
  simp only [restartStep]
  split
  · split <;> simp_all [eq_mk_iff]
  · simp

@[simp] theorem execStepRestart_keepsQueue (m : MillId) (s : State) : KeepsQueue s (execStepRestart m s) := by
  simp [execStepRestart]

@[simp] theorem tierRec_pending (s : State) (m tier : Nat) (code : Code) :
    (tierRec s m tier code).pending = s.pending := by
  simp [tierRec]

@[simp] theorem scrubCore_pending (s : State) (f : ScrubFinding) : (scrubCore s f).pending = s.pending := by
  simp [scrubCore]

@[simp] theorem rewriteBundles_pending (s : State) (img : List Byte) (f : ScrubFinding) :
    (rewriteBundles s img f).pending = s.pending := by
  unfold rewriteBundles
  split <;> simp

@[simp] theorem failNow_pending (s : State) (m : Nat) (c : Option Nat) (code : Code) :
    (failNow s m c code).pending = s.pending := by
  simp [failNow]

@[simp] theorem execMillReset_keepsQueue (m : MillId) (found : List ScrubFinding) (s : State) :
    KeepsQueue s (execMillReset m found s) := by
  simp [execMillReset]

@[simp] theorem blankCore_pending (s : State) (c : Nat) : (blankCore s c).pending = s.pending := by
  simp [blankCore]

@[simp] theorem stopForShift_pending (s : State) (m : Nat) : (stopForShift s m).pending = s.pending := by
  simp [stopForShift]

@[simp] theorem endShift_pending (dead : Nat) (unreadable : Bool) (s : State) (m : Nat) :
    (endShift dead unreadable s m).pending = s.pending := by
  simp [endShift]

@[simp] theorem execCoreShift_keepsQueue (r : RegionId) (row : Fin 16) (col : Fin 17) (unreadable : Bool) (s : State) :
    KeepsQueue s (execCoreShift r row col unreadable s) := by
  unfold execCoreShift
  dsimp only
  split <;> simp

/-! #### Fences (R496-R500, R505) -/

@[simp] theorem execDrainExpiry_keepsQueue (m : MillId) (retiring : Bool) (s : State) :
    KeepsQueue s (execDrainExpiry m retiring s) := by
  simp [execDrainExpiry]

@[simp] theorem execMilFence_keepsQueue (m : MillId) (drain : BitVec 16) (s : State) :
    KeepsQueue s (execMilFence m drain s) := by
  simp [execMilFence]

@[simp] theorem execMilFenceLift_keepsQueue (m : MillId) (drain : BitVec 16) (s : State) :
    KeepsQueue s (execMilFenceLift m drain s) := by
  simp [execMilFenceLift]

@[simp] theorem execMilHalt_keepsQueue (m : MillId) (s : State) : KeepsQueue s (execMilHalt m s) := by
  simp [execMilHalt]

@[simp] theorem execMilResume_keepsQueue (m : MillId) (s : State) : KeepsQueue s (execMilResume m s) := by
  simp [execMilResume]

@[simp] theorem execMilFail_keepsQueue (m : MillId) (s : State) : KeepsQueue s (execMilFail m s) := by
  simp [execMilFail]

@[simp] theorem dropBatch_pending (s : State) (m : Nat) : (dropBatch s m).pending = s.pending := by
  simp [dropBatch]

@[simp] theorem execMilReset_keepsQueue (m : MillId) (s : State) : KeepsQueue s (execMilReset m s) := by
  simp [execMilReset]

/-! #### Resuming (R312) -/

@[simp] theorem beginRestore_pending (s : State) (q : Nat) : (beginRestore s q).pending = s.pending := by
  simp [beginRestore]

@[simp] theorem resumeFits_pending (s : State) (q : Nat) : (resumeFits s q).2.pending = s.pending := by
  simp only [resumeFits]
  repeat' split
  all_goals simp_all [eq_mk_swap_iff]

/-! #### How a request ends (R284) -/

@[simp] theorem finishReq_pending (s : State) (q : Nat) (t : ReqSt) (code : Code) :
    (finishReq s q t code).pending = s.pending := by
  unfold finishReq
  extract_lets r ttl
  split
  · split <;> simp
  · split
    · simp
    · split
      · next u parked => simp [startPark_pending parked]
      · simp

/-! #### Scheduling (R290, R298, R299) -/

@[simp] theorem passReq_pending (s : State) (q : Nat) : (passReq s q).pending = s.pending := by simp [passReq]

@[simp] theorem retryReq_pending (s : State) (q : Nat) : (retryReq s q).pending = s.pending := by
  unfold retryReq
  dsimp only
  split <;> simp

@[simp] theorem execSchedulingPass_keepsQueue (unit : Fin 4) (s : State) :
    KeepsQueue s (execSchedulingPass unit s) := by
  simp [execSchedulingPass]

@[simp] theorem execPrefixLookup_keepsQueue (reads : BucketReads) (s : State) :
    KeepsQueue s (execPrefixLookup reads s) := by
  simp [execPrefixLookup]

@[simp] theorem execStepRing_keepsQueue (m : MillId) (s : State) : KeepsQueue s (execStepRing m s) := by
  unfold execStepRing
  split <;> simp

/-! #### Commit (R304-R306) -/

@[simp] theorem commitTokens_pending (s : State) (q t kind : Nat) (x : LtRec) (res : Result) (ups : List Upset) :
    (commitTokens s q t kind x res ups).pending = s.pending := by
  simp [commitTokens]

@[simp] theorem malformed_pending (s : State) (m q : Nat) (cls : FltClass) :
    (malformed s m q cls).pending = s.pending := by
  simp [malformed]

@[simp] theorem parkRestored_pending (s : State) (q : Nat) : (parkRestored s q).pending = s.pending := by
  simp only [parkRestored]
  split
  · next u parked => exact startPark_pending parked
  · simp

@[simp] theorem commitServe_pending (m t kind : Nat) (ups : List Upset) (s : State) (p : LtRec × Result) :
    (commitServe m t kind ups s p).pending = s.pending := by
  simp [commitServe]

@[simp] theorem commitDraft_pending (m t : Nat) (s : State) (p : LtRec × Result × List Byte) :
    (commitDraft m t s p).pending = s.pending := by
  obtain ⟨x, res, db⟩ := p
  dsimp -zeta only [commitDraft]
  extract_lets q r
  split
  · rfl
  · rename_i s1 good s2 bad h
    have h1 : s1.pending = s.pending := by simp [s1]
    have h2 : s2.pending = s.pending := by simp [s2, h1]
    have hbad : ∀ t, (bad t).pending = t.pending := fun t => by simp [bad]
    clear_value s1 s2 bad
    split
    · simp [h1]
    · split
      · simp [h1]
      · split
        · simp [h1]
        · rw [enqueue_pending]
          split
          · simp [h2, hbad]
          · split
            · exact h2
            · split <;> simp [h2, hbad]

@[simp] theorem commitSummary_pending (m t : Nat) (s : State) (p : LtRec × Result) :
    (commitSummary m t s p).pending = s.pending := by
  simp [commitSummary]

@[simp] theorem execCommit_keepsQueue (m : MillId) (ups : List Upset) (s : State) :
    KeepsQueue s (execCommit m ups s) := by
  simp only [execCommit]
  repeat' split
  all_goals simp_all [eq_mk_iff]

@[simp] theorem execParkExpiry_keepsQueue (req : ReqId) (resumed : Bool) (s : State) :
    KeepsQueue s (execParkExpiry req resumed s) := by
  simp [execParkExpiry]

/-! #### How a session ends -/

@[simp] theorem leaveReq_pending (s : State) (q : Nat) : (leaveReq s q).pending = s.pending := by
  unfold leaveReq
  dsimp only
  split <;> simp

@[simp] theorem endSession_pending (s : State) (n : BitVec 32) (code : Code) :
    (endSession s n code).pending = s.pending := by
  unfold endSession
  split <;> simp

@[simp] theorem closeSession_pending (s : State) (n : BitVec 32) (code : Code) :
    (closeSession s n code).pending = s.pending := by
  unfold closeSession
  split <;> simp

@[simp] theorem closeSessions_pending (s : State) (p : Session → Bool) (code : Code) :
    (closeSessions s p code).pending = s.pending := by
  simp [closeSessions]

/-! #### RECV: arming a window (R222) -/

@[simp] theorem armNext_pending (s : State) (c w : Nat) : (armNext s c w).pending = s.pending := by
  unfold armNext
  dsimp only
  split <;> simp

@[simp] theorem armAll_pending (s : State) (c : Nat) : (armAll s c).pending = s.pending := by simp [armAll]

/-! #### SEND (R219-R221) -/

@[simp] theorem injectAccess_pending (c id slot : Nat) (s : State) (w : Word × Word × Word) :
    (injectAccess c id slot s w).pending = s.pending := by
  simp [injectAccess]

@[simp] theorem beginSend_pending (s : State) (c : Nat) (x : SendSt) : (beginSend s c x).pending = s.pending := by
  simp only [beginSend]
  repeat' split
  all_goals simp_all [eq_mk_iff]

@[simp] theorem startSends_pending (n : Nat) (s : State) (c : Nat) : (startSends n s c).pending = s.pending := by
  induction n generalizing s with
  | zero => rfl
  | succ n ih =>
    simp only [startSends]
    repeat' split
    all_goals simp [ih]

@[simp] theorem settle_pending (s : State) (c : Nat) : (settle s c).pending = s.pending := by simp [settle]

@[simp] theorem sendAnswered_pending (s : State) (c id : Nat) : (sendAnswered s c id).pending = s.pending := by
  unfold sendAnswered
  split <;> simp

@[simp] theorem execSend_keepsQueue (c : CoreId) (sg : Fin 8) (list : Bool) (ups : List Upset) (s : State) :
    KeepsQueue s (execSend c sg list ups s) := by
  refine turn_keepsQueue (fun s => ?_) s c _ _
  dsimp only
  split <;> simp

@[simp] theorem execRecv_keepsQueue (c : CoreId) (w ev : Fin 16) (regv : Bool) (n : BitVec 16) (evEn : Bool)
    (s : State) :
    KeepsQueue s (execRecv c w ev regv n evEn s) := by
  unfold execRecv
  split
  · simp
  · refine turn_keepsQueue (fun s => ?_) s c _ _
    split <;> simp

/-! #### Waits -/

@[simp] theorem execWaitEv_keepsQueue (c : CoreId) (mask : BitVec 16) (any clr : Bool) (s : State) :
    KeepsQueue s (execWaitEv c mask any clr s) := by
  simp [execWaitEv]

@[simp] theorem execWaitCnt_keepsQueue (c : CoreId) (cnt : Fin 16) (regv : Bool) (val : BitVec 16) (sub : Bool)
    (s : State) :
    KeepsQueue s (execWaitCnt c cnt regv val sub s) := by
  unfold execWaitCnt
  split
  · simp
  · refine turn_keepsQueue (fun s => ?_) s c _ _
    split <;> simp

/-! #### Flume (R224-R229) -/

@[simp] theorem flumeIssue_pending (s : State) (c : Nat) (write : Bool) (q : Fin 8) (tag : Fin 16) (sg : Fin 8) :
    (flumeIssue s c write q tag sg).pending = s.pending := by
  unfold flumeIssue
  split <;> simp

@[simp] theorem execFlmRd_keepsQueue (c : CoreId) (q : Fin 8) (tag : Fin 16) (sg : Fin 8) (s : State) :
    KeepsQueue s (execFlmRd c q tag sg s) := by
  simp [execFlmRd]

@[simp] theorem execFlmWr_keepsQueue (c : CoreId) (q : Fin 8) (tag : Fin 16) (sg : Fin 8) (s : State) :
    KeepsQueue s (execFlmWr c q tag sg s) := by
  simp [execFlmWr]

@[simp] theorem execFlmWait_keepsQueue (c : CoreId) (q : Fin 8) (tag : Fin 16) (s : State) :
    KeepsQueue s (execFlmWait c q tag s) := by
  simp [execFlmWait]

@[simp] theorem flumeDone_pending (s : State) (c q tag : Nat) (t : FlumeT) :
    (flumeDone s c q tag t).pending = s.pending := by
  simp [flumeDone]

@[simp] theorem execFlumeComplete_keepsQueue (c : CoreId) (q : Fin 8) (tag : Fin 16) (s : State) :
    KeepsQueue s (execFlumeComplete c q tag s) := by
  unfold execFlumeComplete
  split <;> simp

@[simp] theorem flumeFail_pending (s : State) (c : Nat) (t : FlumeT) (code : Code) (syn : Nat) :
    (flumeFail s c t code syn).pending = s.pending := by
  simp [flumeFail]

@[simp] theorem flumeMove_pending (s : State) (c : Nat) (t : FlumeT) (ups : List Upset) :
    (flumeMove s c t ups).1.pending = s.pending := by
  simp only [flumeMove]
  repeat' split
  all_goals simp_all [eq_mk_iff]

@[simp] theorem serveFlume_pending (s : State) (c q tag : Nat) (t : FlumeT) (ups : List Upset) :
    (serveFlume s c q tag t ups).pending = s.pending := by
  simp only [serveFlume]
  repeat' split
  all_goals simp_all [eq_mk_iff]

@[simp] theorem execSnowpackAccess_keepsQueue (c : CoreId) (q : Fin 8) (tag : Fin 16) (ups : List Upset) (s : State) :
    KeepsQueue s (execSnowpackAccess c q tag ups s) := by
  unfold execSnowpackAccess
  split <;> simp

@[simp] theorem landSome_pending (sn loc n : Nat) (s : State) : (landSome sn loc n s).pending = s.pending := by
  induction n generalizing s with
  | zero => rfl
  | succ n ih =>
    simp only [landSome]
    repeat' split
    all_goals simp [ih]

@[simp] theorem execFlumeTimeout_keepsQueue (c : CoreId) (q : Fin 8) (tag : Fin 16) (completed : Bool) (s : State) :
    KeepsQueue s (execFlumeTimeout c q tag completed s) := by
  simp only [execFlumeTimeout]
  repeat' split
  all_goals simp

/-! #### Power tokens (R230) -/

@[simp] theorem execTokenAcq_keepsQueue (c : CoreId) (regv : Bool) (n : BitVec 10) (s : State) :
    KeepsQueue s (execTokenAcq c regv n s) := by
  unfold execTokenAcq
  split
  · simp
  · refine turn_keepsQueue (fun s => ?_) s c _ _
    split <;> simp

@[simp] theorem execTokenRel_keepsQueue (c : CoreId) (regv : Bool) (n : BitVec 10) (s : State) :
    KeepsQueue s (execTokenRel c regv n s) := by
  unfold execTokenRel
  split
  · simp
  · refine turn_keepsQueue (fun s => ?_) s c _ _
    split <;> simp

@[simp] theorem execDescriptorComplete_keepsQueue (c : CoreId) (eng : Eng) (late : Bool) (s : State) :
    KeepsQueue s (execDescriptorComplete c eng late s) := by
  unfold execDescriptorComplete
  split <;> simp

/-! #### The Race fabric -/

@[simp] theorem discardPacket_pending (s : State) (p : Packet) (n : Node) (code : Code) :
    (discardPacket s p n code).pending = s.pending := by
  simp [discardPacket]

@[simp] theorem updPacket_pending (s : State) (id : Nat) (f : Packet → Packet) :
    (updPacket s id f).pending = s.pending := by
  simp [updPacket]

@[simp] theorem holdPacket_pending (s : State) (id : Nat) : (holdPacket s id).pending = s.pending := by
  simp [holdPacket]

@[simp] theorem execPacketForward_keepsQueue (pkt : Nat) (credit : Bool) (s : State) :
    KeepsQueue s (execPacketForward pkt credit s) := by
  simp only [execPacketForward]
  repeat' split
  all_goals simp

/-! #### Data at the destination (R110, R156, R177, R581) -/

@[simp] theorem refuseAccess_pending (s : State) (p : Packet) (src c : Nat) (code : Code) :
    (refuseAccess s p src c code).pending = s.pending := by
  simp [refuseAccess]

@[simp] theorem dropIncoming_pending (s : State) (acc : Nat) : (dropIncoming s acc).pending = s.pending := by
  simp [dropIncoming]

@[simp] theorem addWord_pending (s : State) (a : Nat) (bs : List Byte) : (addWord s a bs).1.pending = s.pending := by
  simp [addWord]

@[simp] theorem addWords_pending (s : State) (a : Nat) (bs : List Byte) (ups : List Upset) :
    (addWords s a bs ups).1.pending = s.pending := by
  refine runAll_pending (fun s i => ?_) _ _
  split <;> simp_all [eq_mk_iff]

@[simp] theorem finishIncoming_pending (s : State) (i : Incoming) (code : Code) :
    (finishIncoming s i code).pending = s.pending := by
  simp [finishIncoming]

@[simp] theorem land_pending (s : State) (i : Incoming) (bs : List Byte) (ups : List Upset) :
    (land s i bs ups).pending = s.pending := by
  simp only [land]
  repeat' split
  all_goals simp_all [eq_mk_iff]

@[simp] theorem readOut_pending (s : State) (p : Packet) (src c loc slot : Nat) (ups : List Upset) (n off : Nat) :
    (readOut s p src c loc slot ups n off).pending = s.pending := by
  induction n generalizing s off with
  | zero => rfl
  | succ n ih =>
    simp only [readOut]
    repeat' split
    all_goals simp_all [eq_mk_iff]

@[simp] theorem acceptAccess_pending (s : State) (p : Packet) (src c : Nat) (ups : List Upset) :
    (acceptAccess s p src c ups).pending = s.pending := by
  simp [acceptAccess]

@[simp] theorem execAccessHeader_keepsQueue (pkt : Nat) (ups : List Upset) (s : State) :
    KeepsQueue s (execAccessHeader pkt ups s) := by
  simp only [execAccessHeader]
  repeat' split
  all_goals simp

@[simp] theorem execAccessPacket_keepsQueue (pkt : Nat) (ups : List Upset) (s : State) :
    KeepsQueue s (execAccessPacket pkt ups s) := by
  simp only [execAccessPacket]
  repeat' split
  all_goals simp

/-! #### Answers at the source (R179, R180) -/

@[simp] theorem recordOk_pending (s : State) (a : Access) : (recordOk s a).pending = s.pending := by
  unfold recordOk
  split <;> simp

@[simp] theorem strayData_pending (s : State) (p : Packet) : (strayData s p).pending = s.pending := by
  unfold strayData
  split <;> simp

@[simp] theorem execReadData_keepsQueue (pkt : Nat) (ups : List Upset) (s : State) :
    KeepsQueue s (execReadData pkt ups s) := by
  simp only [execReadData]
  repeat' split
  all_goals simp_all [eq_mk_iff]

@[simp] theorem execResponse_keepsQueue (pkt : Nat) (s : State) : KeepsQueue s (execResponse pkt s) := by
  simp only [execResponse]
  repeat' split
  all_goals simp

/-! #### Timers (R190, R191) -/

@[simp] theorem execCreditWaitExpiry_keepsQueue (pkt : Nat) (came : Bool) (s : State) :
    KeepsQueue s (execCreditWaitExpiry pkt came s) := by
  unfold execCreditWaitExpiry
  split <;> simp

@[simp] theorem execContinuationWaitExpiry_keepsQueue (acc : Nat) (came : Bool) (s : State) :
    KeepsQueue s (execContinuationWaitExpiry acc came s) := by
  unfold execContinuationWaitExpiry
  split <;> simp

@[simp] theorem execResponseWaitExpiry_keepsQueue (acc : Nat) (came : Bool) (s : State) :
    KeepsQueue s (execResponseWaitExpiry acc came s) := by
  simp only [execResponseWaitExpiry]
  repeat' split
  all_goals simp

/-! #### Route changes and lost regions (R187, R193) -/

@[simp] theorem settleRegion_pending (s : State) (r : Nat) : (settleRegion s r).pending = s.pending := by
  simp [settleRegion]

@[simp] theorem execRouteReload_keepsQueue (src dst : RegionId) (plane : Plane) (s : State) :
    KeepsQueue s (execRouteReload src dst plane s) := by
  unfold execRouteReload
  split <;> simp

@[simp] theorem execLostNotice_keepsQueue (notified lost : RegionId) (s : State) :
    KeepsQueue s (execLostNotice notified lost s) := by
  simp [execLostNotice]

/-! #### Tailrace links -/

@[simp] theorem linkRec_pending (s : State) (l : Nat) (code : Code) : (linkRec s l code).pending = s.pending := by
  simp [linkRec]

@[simp] theorem failFlumes_pending (s : State) (p : FlumeT → Bool) (code : Code) :
    (failFlumes s p code).pending = s.pending := by
  simp [failFlumes]

@[simp] theorem failParks_pending (s : State) (p : Running → Bool) (code : Code) :
    (failParks s p code).pending = s.pending := by
  simp [failParks]

@[simp] theorem dropMessages_pending (s : State) (l : Nat) (qs : List Nat) (waiting flight : Bool) (code : Code) :
    (dropMessages s l qs waiting flight code).pending = s.pending := by
  simp [dropMessages]

@[simp] theorem disableQueue_pending (s : State) (l q : Nat) : (disableQueue s l q).pending = s.pending := by
  simp [disableQueue]

/-! #### Sending: acknowledgements, replays, credits -/

@[simp] theorem acked_pending (s : State) (l ack : Nat) : (acked s l ack).pending = s.pending := by
  unfold acked
  dsimp only
  split <;> simp

@[simp] theorem trainingItems_pending (l : Nat) (s : State) : (trainingItems l s).pending = s.pending := by
  simp [trainingItems]

@[simp] theorem replay_pending (s : State) (l : Nat) : (replay s l).pending = s.pending := by simp [replay]

@[simp] theorem takeHeader_pending (s : State) (l : Nat) (f : Flit) : (takeHeader s l f).pending = s.pending := by
  simp [takeHeader]

@[simp] theorem missFlit_pending (s : State) (l : Nat) : (missFlit s l).pending = s.pending := by
  simp [missFlit]

@[simp] theorem returnCredits_pending (s : State) (l q n : Nat) : (returnCredits s l q n).pending = s.pending := by
  simp [returnCredits]

@[simp] theorem takeFlit_pending {f : State → State} (h : ∀ s, SameQueue s (f s)) (l : Nat) (x : Flit) (s : State) :
    (takeFlit l x s f).pending = s.pending := by
  simp only [takeFlit]
  split
  · rfl
  · rw [settleLink_pending]
    split
    · exact (h _).trans (by simp)
    · simp

/-! #### Receiving: the window of a queue (R392) -/

@[simp] theorem queueWrite_pending (s : State) (l q dest : Nat) (bs : List Byte) (ups : List Upset) :
    (queueWrite s l q dest bs ups).1.pending = s.pending := by
  simp only [queueWrite]
  split <;> simp_all [eq_mk_iff]

@[simp] theorem deliver_pending (s : State) (l q : Nat) (bs : List Byte) (ups : List Upset) :
    (deliver s l q bs ups).pending = s.pending := by
  simp only [deliver]
  split <;> simp_all [eq_mk_iff]

@[simp] theorem deliverHeld_pending (s : State) (l q : Nat) (ups : List Upset) :
    (deliverHeld s l q ups).pending = s.pending := by
  simp [deliverHeld]

@[simp] theorem execIdle_keepsQueue (link : Fin 8) (f : Flit) (s : State) : KeepsQueue s (execIdle link f s) := by
  simp [execIdle]

@[simp] theorem execData_keepsQueue (link : Fin 8) (f : Flit) (ups : List Upset) (s : State) :
    KeepsQueue s (execData link f ups s) := by
  rw [execData, keepsQueue_next]
  refine takeFlit_pending (fun s => ?_) ..
  rw [sameQueue_iff]
  dsimp only
  repeat' split
  all_goals simp

@[simp] theorem execQcfg_keepsQueue (link : Fin 8) (f : Flit) (s : State) : KeepsQueue s (execQcfg link f s) := by
  simp [execQcfg]

@[simp] theorem execFlitDiscard_keepsQueue (link : Fin 8) (why : BadFlit) (s : State) :
    KeepsQueue s (execFlitDiscard link why s) := by
  simp only [execFlitDiscard]
  repeat' split
  all_goals simp

@[simp] theorem execReplayTimer_keepsQueue (link : Fin 8) (advanced : Bool) (s : State) :
    KeepsQueue s (execReplayTimer link advanced s) := by
  simp [execReplayTimer]

@[simp] theorem execRetrainTimeout_keepsQueue (link : Fin 8) (s : State) :
    KeepsQueue s (execRetrainTimeout link s) := by
  simp [execRetrainTimeout]

@[simp] theorem execTrainingComplete_keepsQueue (link : Fin 8) (peer : BitVec 32) (s : State) :
    KeepsQueue s (execTrainingComplete link peer s) := by
  simp [execTrainingComplete]

@[simp] theorem execProdUpdate_keepsQueue (link : Fin 8) (q : Fin 16) (ups : List Upset) (s : State) :
    KeepsQueue s (execProdUpdate link q ups s) := by
  simp only [execProdUpdate]
  repeat' split
  all_goals simp_all [eq_mk_iff]

@[simp] theorem execConsPoll_keepsQueue (link : Fin 8) (q : Fin 16) (ups : List Upset) (s : State) :
    KeepsQueue s (execConsPoll link q ups s) := by
  simp only [execConsPoll]
  repeat' split
  all_goals simp_all [eq_mk_iff]

/-! #### Registers (R393-R396) -/

@[simp] theorem execTlrQcfgEnable_keepsQueue (link : Fin 8) (q : Fin 16) (w : Word) (s : State) :
    KeepsQueue s (execTlrQcfgEnable link q w s) := by
  simp only [execTlrQcfgEnable]
  repeat' split
  all_goals simp

@[simp] theorem execTlrQcfgDisable_keepsQueue (link : Fin 8) (q : Fin 16) (w : Word) (s : State) :
    KeepsQueue s (execTlrQcfgDisable link q w s) := by
  simp [execTlrQcfgDisable]

@[simp] theorem freshLink_pending (s : State) (l : Nat) : (freshLink s l).pending = s.pending := by
  simp [freshLink]

@[simp] theorem execTlrCfg_keepsQueue (link : Fin 8) (w : Word) (s : State) : KeepsQueue s (execTlrCfg link w s) := by
  simp [execTlrCfg]

/-! #### Host memory (R431) -/

@[simp] theorem dmaWait_pending (s : State) (j : DmaJob) : (dmaWait s j).pending = s.pending := by
  simp [dmaWait]

/-! #### Clearing the cores and regions of an image (R276) -/

@[simp] theorem clearRegions_pending (s : State) (cs gs : List Nat) (lo : Nat) :
    (clearRegions s cs gs lo).pending = s.pending := by
  simp [clearRegions]

@[simp] theorem clearSlot_pending (s : State) (n lo : Nat) : (clearSlot s n lo).pending = s.pending := by
  rw [clearSlot, updSlot_pending, pending_foldl fun _ _ => by simp, clearRegions_pending]
  refine pending_foldl (fun s m => ?_) _ _
  split <;> simp

@[simp] theorem fenceSlot_pending (s : State) (n : Nat) : (fenceSlot s n).pending = s.pending := by
  simp [fenceSlot]

@[simp] theorem hopStart_pending (s : State) (op : HopOp) (n : Nat) : (hopStart s op n).pending = s.pending := by
  simp [hopStart]

@[simp] theorem goOnUnload_pending (s : State) : (goOnUnload s).pending = s.pending := by simp [goOnUnload]

@[simp] theorem beginUnload_pending (s : State) (n : Nat) : (beginUnload s n).2.pending = s.pending := by
  simp [beginUnload]

/-! #### Loading an image (R266-R271) -/

@[simp] theorem loadStop_pending (s : State) (code : Code) (sect record : Nat) :
    (loadStop s code sect record).pending = s.pending := by
  simp [loadStop]

@[simp] theorem useRetained_pending (s : State) (n : Nat) : (useRetained s n).pending = s.pending := by
  simp [useRetained]

@[simp] theorem loadSecond_pending (s : State) (r : DmaRes) : (loadSecond s r).pending = s.pending := by
  unfold loadSecond
  split <;> simp

@[simp] theorem loadFirst_pending (s : State) (len : Nat) (r : DmaRes) (second : DmaAnswer) :
    (loadFirst s len r second).pending = s.pending := by
  simp only [loadFirst]
  repeat' split
  all_goals simp

@[simp] theorem beginLoad_pending (s : State) (len : Nat) (first second : DmaAnswer) :
    (beginLoad s len first second).2.pending = s.pending := by
  simp only [beginLoad]
  repeat' split
  all_goals simp

/-! #### Loading weights (R273-R275, 10 R374) -/

@[simp] theorem weightsStop_pending (s : State) (code : Code) (sect record : Nat) :
    (weightsStop s code sect record).pending = s.pending := by
  simp [weightsStop]

@[simp] theorem sendFetches_pending (rec : Nat) (x : Shard) (n : Nat) (s : State) :
    (sendFetches rec x n s).pending = s.pending := by
  induction n generalizing s with
  | zero => rfl
  | succ n ih =>
    simp only [sendFetches]
    repeat' split
    all_goals simp [ih]

@[simp] theorem zeroGaps_pending (s : State) (img : List Byte) (c : Nat) : (zeroGaps s img c).pending = s.pending := by
  simp [zeroGaps]

@[simp] theorem finishWeights_pending (s : State) : (finishWeights s).pending = s.pending := by
  unfold finishWeights
  dsimp only
  split <;> simp

@[simp] theorem goOnWeights_pending (s : State) : (goOnWeights s).pending = s.pending := by
  unfold goOnWeights
  dsimp only
  split <;> simp

@[simp] theorem beginWeights_pending (s : State) (n : Nat) (session : BitVec 32) (addr : Nat) :
    (beginWeights s n session addr).2.pending = s.pending := by
  simp [beginWeights]

theorem writeShard_pending {s t : State} {x : Shard} {bs : List Byte} (h : writeShard s x bs = .ok t) :
    t.pending = s.pending := by
  unfold writeShard at h
  split at h
  · cases h; simp
  · split at h <;> cases h
    simp

@[simp] theorem shardIn_pending (s : State) (i : Nat) (bs : List Byte) : (shardIn s i bs).pending = s.pending := by
  dsimp only [shardIn]
  split
  · rfl
  · split
    · split
      · simp
      · next t written => simp [writeShard_pending written]
    · split <;> simp

@[simp] theorem execShardObtained_keepsQueue (rec : Nat) (bytes : List Byte) (s : State) :
    KeepsQueue s (execShardObtained rec bytes s) := by
  simp [execShardObtained]

/-! #### Tier 4: reloading shards (R510) -/

@[simp] theorem moveStacks_pending (s : State) (c : Nat) : (moveStacks s c).pending = s.pending := by
  simp [moveStacks]

@[simp] theorem shiftStack_pending (s : State) (before : List Nat) (c : Nat) :
    (shiftStack s before c).2.pending = s.pending := by
  simp [shiftStack]

@[simp] theorem shiftStacks_pending (k : Nat) (s : State) (n : Nat) (moved : List Nat) :
    (shiftStacks k s n moved).2.pending = s.pending := by
  induction k generalizing s moved with
  | zero => rfl
  | succ k ih =>
    simp only [shiftStacks]
    repeat' split
    all_goals simp [ih]

@[simp] theorem emptyPool_pending (s : State) (m : Nat) : (emptyPool s m).pending = s.pending := by
  simp [emptyPool]

@[simp] theorem execShardReload_keepsQueue (slot : Fin 64) (s : State) : KeepsQueue s (execShardReload slot s) := by
  simp [execShardReload]

/-! #### What a Millpond unit does with the commands that reach it in order -/

@[simp] theorem refuse_pending (s : State) (x : Session) (code : Code) (rtype offset : Nat) (rseq : BitVec 32)
    (key : Nat) :
    (refuse s x code rtype offset rseq key).pending = s.pending := by
  simp [refuse]

/-! #### SUBMIT (R288) -/

@[simp] theorem doneAtOnce_pending (s : State) (x : Session) (tag p : Nat) :
    (doneAtOnce s x tag p).pending = s.pending := by
  simp [doneAtOnce]

@[simp] theorem submitIn_pending (s : State) (x : Session) (rseq : BitVec 32) (b : List Byte) (toks : List
    (BitVec 32)) :
    (submitIn s x rseq b toks).pending = s.pending := by
  simp only [submitIn]
  repeat' split
  all_goals simp

/-! #### CANCEL, PARK (R299, R309) -/

@[simp] theorem cancelIn_pending (s : State) (x : Session) (rseq : BitVec 32) (b : List Byte) :
    (cancelIn s x rseq b).pending = s.pending := by
  simp only [cancelIn]
  repeat' split
  all_goals simp

@[simp] theorem parkIn_pending (s : State) (x : Session) (rseq : BitVec 32) (b : List Byte) :
    (parkIn s x rseq b).pending = s.pending := by
  unfold parkIn
  extract_lets q r
  split
  · simp
  · rename_i ttl _
    split
    · simp
    · split
      · simp
      · split
        · next t parked => exact startPark_pending parked
        · simp

/-! #### RESUME (R312) -/

@[simp] theorem resumeIn_pending (s : State) (x : Session) (rseq : BitVec 32) (b : List Byte) (toks : List
    (BitVec 32)) :
    (resumeIn s x rseq b toks).pending = s.pending := by
  simp only [resumeIn]
  repeat' split
  all_goals simp_all [eq_mk_swap_iff]

/-! #### STATUS (R373) -/

@[simp] theorem statusIn_pending (s : State) (x : Session) (b : List Byte) : (statusIn s x b).pending = s.pending := by
  simp [statusIn]

/-! #### Multi-message commands (R370, R371) -/

@[simp] theorem setStaged_pending (s : State) (x : Session) (t : Option Staged) :
    (setStaged s x t).pending = s.pending := by
  simp [setStaged]

@[simp] theorem commandIn_pending (s : State) (x : Session) (rseq : BitVec 32) (t : Staged) :
    (commandIn s x rseq t).pending = s.pending := by
  simp [commandIn]

@[simp] theorem firstMessage_pending (s : State) (x : Session) (rseq : BitVec 32) (isResume more : Bool)
    (b : List Byte) :
    (firstMessage s x rseq isResume more b).pending = s.pending := by
  unfold firstMessage
  dsimp only
  split <;> simp

@[simp] theorem nextMessage_pending (s : State) (x : Session) (rseq : BitVec 32) (more : Bool) (t : Staged)
    (b : List Byte) :
    (nextMessage s x rseq more t b).pending = s.pending := by
  simp [nextMessage]

/-! #### Replies to FETCH (R374) -/

@[simp] theorem fetchGoesOn_pending (s : State) (i : Nat) : (fetchGoesOn s i).pending = s.pending := by
  unfold fetchGoesOn
  split <;> simp

@[simp] theorem fetchIn_pending (s : State) (x : Session) (rseq : BitVec 32) (b : List Byte) :
    (fetchIn s x rseq b).pending = s.pending := by
  unfold fetchIn
  dsimp only
  split <;> simp

/-! #### Acknowledgements and retransmission (R365-R369) -/

@[simp] theorem sendWaiting_pending (k : Nat) (s : State) (n : BitVec 32) :
    (sendWaiting k s n).pending = s.pending := by
  induction k generalizing s with
  | zero => rfl
  | succ k ih =>
    simp only [sendWaiting]
    repeat' split
    all_goals simp [ih]

@[simp] theorem takeAck_pending (s : State) (n ack : BitVec 32) : (takeAck s n ack).pending = s.pending := by
  unfold takeAck
  split <;> simp

@[simp] theorem resend_pending (s : State) (n : BitVec 32) (m : TxMsg) : (resend s n m).pending = s.pending := by
  unfold resend
  split
  · rfl
  · dsimp only
    rw [portCount_pending, emitGml_pending, updSession_pending]

@[simp] theorem takeNak_pending (s : State) (n ack : BitVec 32) (sack : Nat) :
    (takeNak s n ack sack).pending = s.pending := by
  unfold takeNak
  split <;> simp

/-! #### Violations and quarantine (R376-R378) -/

@[simp] theorem countViolation_pending (s : State) (n : BitVec 32) : (countViolation s n).pending = s.pending := by
  unfold countViolation
  split <;> simp

@[simp] theorem violation_pending (s : State) (x : Session) (offset : Nat) (msg : List Byte) (src : Source) :
    (violation s x offset msg src).pending = s.pending := by
  simp [violation]

@[simp] theorem refuseQuarantined_pending (s : State) (x : Session) (msg : List Byte) :
    (refuseQuarantined s x msg).pending = s.pending := by
  simp [refuseQuarantined]

/-! #### Delivery in order -/

@[simp] theorem closeIn_pending (s : State) (x : Session) (resp : Bool) (b msg : List Byte) (src : Source) :
    (closeIn s x resp b msg src).pending = s.pending := by
  simp only [closeIn]
  repeat' split
  all_goals simp

@[simp] theorem errorIn_pending (s : State) (x : Session) (b msg : List Byte) (src : Source) :
    (errorIn s x b msg src).pending = s.pending := by
  simp [errorIn]

@[simp] theorem deliverGml_pending (s : State) (n : BitVec 32) (msg : List Byte) (src : Source) :
    (deliverGml s n msg src).pending = s.pending := by
  simp only [deliverGml]
  repeat' split
  all_goals simp

@[simp] theorem oweAck_pending (s : State) (n : BitVec 32) : (oweAck s n).pending = s.pending := by
  simp [oweAck]

@[simp] theorem release_pending (k : Nat) (s : State) (n : BitVec 32) : (release k s n).pending = s.pending := by
  induction k generalizing s with
  | zero => rfl
  | succ k ih =>
    simp only [release]
    repeat' split
    all_goals simp [ih]

@[simp] theorem nakGap_pending (s : State) (n top : BitVec 32) : (nakGap s n top).pending = s.pending := by
  unfold nakGap
  split
  · rfl
  · extract_lets missing old due
    split <;> simp

@[simp] theorem nakHeld_pending (s : State) (n : BitVec 32) : (nakHeld s n).pending = s.pending := by
  unfold nakHeld
  split <;> simp

@[simp] theorem sequence_pending (s : State) (x : Session) (seq : BitVec 32) (bytes msg : List Byte) (src : Source) :
    (sequence s x seq bytes msg src).pending = s.pending := by
  simp [sequence]

/-! #### Opening a session (R362, R363) -/

@[simp] theorem openRefused_pending (s : State) (f : Frame) (code : Code) (offset : Nat) :
    (openRefused s f code offset).pending = s.pending := by
  simp [openRefused]

@[simp] theorem openIn_pending (s : State) (f : Frame) (msg : List Byte) : (openIn s f msg).pending = s.pending := by
  simp only [openIn]
  repeat' split
  all_goals simp

/-! #### Frames (R353-R355, R376) -/

@[simp] theorem countCodewords_pending (s : State) (f : Frame) : (countCodewords s f).pending = s.pending := by
  simp [countCodewords]

@[simp] theorem discardFrame_pending (s : State) (f : Frame) : (discardFrame s f).pending = s.pending := by
  simp [discardFrame]

@[simp] theorem ptpIn_pending (s : State) (f : Frame) : (ptpIn s f).pending = s.pending := by simp [ptpIn]

@[simp] theorem verified_pending (s : State) (f : Frame) (x : Session) (msg : List Byte) :
    (verified s f x msg).pending = s.pending := by
  simp only [verified]
  repeat' split
  all_goals simp

@[simp] theorem gmlFrame_pending (s : State) (f : Frame) : (gmlFrame s f).pending = s.pending := by
  simp only [gmlFrame]
  repeat' split
  all_goals simp

@[simp] theorem gmlRow_keepsQueue (type : Nat) (f : Frame) (s : State) : KeepsQueue s (gmlRow type f s) := by
  simp [gmlRow]

@[simp] theorem execOpen_keepsQueue (f : Frame) (s : State) : KeepsQueue s (execOpen f s) := by
  simp [execOpen]

@[simp] theorem execClose_keepsQueue (f : Frame) (s : State) : KeepsQueue s (execClose f s) := by
  simp [execClose]

@[simp] theorem execAck_keepsQueue (f : Frame) (s : State) : KeepsQueue s (execAck f s) := by simp [execAck]

@[simp] theorem execNak_keepsQueue (f : Frame) (s : State) : KeepsQueue s (execNak f s) := by simp [execNak]

@[simp] theorem execSubmit_keepsQueue (f : Frame) (s : State) : KeepsQueue s (execSubmit f s) := by
  simp [execSubmit]

@[simp] theorem execCancel_keepsQueue (f : Frame) (s : State) : KeepsQueue s (execCancel f s) := by
  simp [execCancel]

@[simp] theorem execGmlPark_keepsQueue (f : Frame) (s : State) : KeepsQueue s (execGmlPark f s) := by
  simp [execGmlPark]

@[simp] theorem execResume_keepsQueue (f : Frame) (s : State) : KeepsQueue s (execResume f s) := by
  simp [execResume]

@[simp] theorem execStatus_keepsQueue (f : Frame) (s : State) : KeepsQueue s (execStatus f s) := by
  simp [execStatus]

@[simp] theorem execFetchReply_keepsQueue (f : Frame) (s : State) : KeepsQueue s (execFetchReply f s) := by
  simp [execFetchReply]

@[simp] theorem execError_keepsQueue (f : Frame) (s : State) : KeepsQueue s (execError f s) := by
  simp [execError]

/-! #### Timers -/

@[simp] theorem execAckdlyExpiry_keepsQueue (session : BitVec 32) (s : State) :
    KeepsQueue s (execAckdlyExpiry session s) := by
  simp only [execAckdlyExpiry]
  repeat' split
  all_goals simp

@[simp] theorem execRtoExpiry_keepsQueue (session seq : BitVec 32) (acked : Bool) (s : State) :
    KeepsQueue s (execRtoExpiry session seq acked s) := by
  simp only [execRtoExpiry]
  repeat' split
  all_goals simp

@[simp] theorem execCloseTimeout_keepsQueue (session : BitVec 32) (s : State) :
    KeepsQueue s (execCloseTimeout session s) := by
  simp only [execCloseTimeout]
  repeat' split
  all_goals simp

@[simp] theorem execFetchTimeout_keepsQueue (xid : BitVec 32) (s : State) : KeepsQueue s (execFetchTimeout xid s) := by
  unfold execFetchTimeout
  split <;> simp

@[simp] theorem execVwinExpiry_keepsQueue (session : BitVec 32) (s : State) :
    KeepsQueue s (execVwinExpiry session s) := by
  simp only [execVwinExpiry]
  repeat' split
  all_goals simp

@[simp] theorem execQtimeExpiry_keepsQueue (session : BitVec 32) (s : State) :
    KeepsQueue s (execQtimeExpiry session s) := by
  simp only [execQtimeExpiry]
  repeat' split
  all_goals simp

/-! #### The port -/

@[simp] theorem execFrameDiscard_keepsQueue (f : Frame) (s : State) : KeepsQueue s (execFrameDiscard f s) := by
  simp [execFrameDiscard]

@[simp] theorem sendDelayReq_pending (s : State) (t : Nat) : (sendDelayReq s t).pending = s.pending := by
  simp [sendDelayReq]

@[simp] theorem discipline_pending (s : State) (offset : Int) : (discipline s offset).pending = s.pending := by
  simp [discipline]

@[simp] theorem execPtpEventMessage_keepsQueue (m : PtpMsg) (frac : Fin 16) (s : State) :
    KeepsQueue s (execPtpEventMessage m frac s) := by
  simp only [execPtpEventMessage]
  repeat' split
  all_goals simp

@[simp] theorem portDown_pending (s : State) (p : Nat) : (portDown s p).pending = s.pending := by
  simp [portDown]

@[simp] theorem linkChange_pending (s t : State) (p : Nat) : (linkChange s t p).pending = t.pending := by
  simp [linkChange]

@[simp] theorem execLossOfSignal_keepsQueue (port : Fin 16) (lane : Fin 8) (s : State) :
    KeepsQueue s (execLossOfSignal port lane s) := by
  simp [execLossOfSignal]

@[simp] theorem execBlockLock_keepsQueue (port : Fin 16) (subB : Bool) (s : State) :
    KeepsQueue s (execBlockLock port subB s) := by
  simp [execBlockLock]

@[simp] theorem execSluCfg_keepsQueue (port : Fin 16) (w : Word) (s : State) : KeepsQueue s (execSluCfg port w s) := by
  simp [execSluCfg]

/-! #### Regions switched on and off -/

@[simp] theorem writeMillerRoutes_pending (s : State) (a : Nat) : (writeMillerRoutes s a).pending = s.pending := by
  simp [writeMillerRoutes]

@[simp] theorem setFirnLimits_pending (s : State) : (setFirnLimits s).pending = s.pending := by
  simp [setFirnLimits]

@[simp] theorem powerRegion_pending (s : State) (g : Nat) : (powerRegion s g).pending = s.pending := by
  simp [powerRegion]

@[simp] theorem execRegionPowerUp_keepsQueue (r : RegionId) (s : State) : KeepsQueue s (execRegionPowerUp r s) := by
  simp [execRegionPowerUp]

@[simp] theorem loseSram_pending (s : State) (g : Nat) : (loseSram s g).pending = s.pending := by
  simp [loseSram]

@[simp] theorem execRegionPowerDown_keepsQueue (r : RegionId) (keepStacks : Bool) (s : State) :
    KeepsQueue s (execRegionPowerDown r keepStacks s) := by
  simp [execRegionPowerDown]

/-! #### Down -/

@[simp] theorem powerDown_pending (s : State) (parked interlock : Bool) :
    (powerDown s parked interlock).pending = s.pending := by
  simp [powerDown]

@[simp] theorem enterFault_pending (s : State) (code : Code) : (enterFault s code).pending = s.pending := by
  simp [enterFault]

@[simp] theorem execPllLockLoss_keepsQueue (s : State) : KeepsQueue s (execPllLockLoss s) := by
  simp [execPllLockLoss]

@[simp] theorem execMillerWatchdog_keepsQueue (s : State) : KeepsQueue s (execMillerWatchdog s) := by
  simp [execMillerWatchdog]

@[simp] theorem execMillerMemoryError_keepsQueue (s : State) : KeepsQueue s (execMillerMemoryError s) := by
  simp [execMillerMemoryError]

@[simp] theorem execD0Stop_keepsQueue (s : State) : KeepsQueue s (execD0Stop s) := by simp [execD0Stop]

/-! #### Up -/

@[simp] theorem linkUp_pending (s : State) : (linkUp s).pending = s.pending := by simp [linkUp]

@[simp] theorem bootRom_pending (s : State) : (bootRom s).pending = s.pending := by simp [bootRom]

@[simp] theorem enterBoot_pending (s : State) : (enterBoot s).pending = s.pending := by simp [enterBoot]

@[simp] theorem startUp_pending (s : State) : (startUp s).pending = s.pending := by simp [startUp]

@[simp] theorem testBlocks_pending (s : State) (bs : List Nat) : (testBlocks s bs).pending = s.pending := by
  simp [testBlocks]

@[simp] theorem bringUp_pending (s : State) : (bringUp s).pending = s.pending := by
  unfold bringUp
  extract_lets quick _ s1 _ _ s2 s3 s4 s5 s6 s7 s8 s9 kept _ s10
  have h3 : s3.pending = s.pending := pending_foldl (fun _ _ => by simp) _ _
  have h4 : s4.pending = s3.pending := pending_foldl (fun s g => by obtain ⟨x, power⟩ := mapShape s g; simp) _ _
  have h5 : s5.pending = s4.pending := pending_foldl (fun _ _ => by simp) _ _
  have h6 : s6.pending = s5.pending := pending_foldl (fun _ _ => by simp) _ _
  have h7 : s7.pending = s6.pending := pending_foldl (fun s p => by rw [sameQueue_iff]; split <;> simp) _ _
  have h8 : s8.pending = s7.pending := by unfold s8; split <;> simp
  have h9 : s9.pending = s8.pending := by simp [s9]
  calc
    _ = s9.pending := pending_foldl (fun s r => by rw [sameQueue_iff]; split <;> simp) _ s10
    _ = s.pending := by rw [h9, h8, h7, h6, h5, h4, h3]

/-! #### Firn -/

@[simp] theorem mlrDone_pending (s : State) (code : Code) (res : List Word) :
    (mlrDone s code res).pending = s.pending := by
  simp [mlrDone]

/-! #### Calibration (R472) -/

@[simp] theorem endPhase_pending (s : State) : (endPhase s).pending = s.pending := by simp [endPhase]

@[simp] theorem calSample_pending (s : State) (n : Nat) (raw : BitVec 12) :
    (calSample s n raw).pending = s.pending := by
  simp [calSample]

/-! #### Samples and rules (R469-R471) -/

@[simp] theorem wakeUp_pending (s : State) : (wakeUp s).pending = s.pending := by simp [wakeUp]

@[simp] theorem fireRule_pending (s : State) (n : Nat) (w : Word) (v : Nat) :
    (fireRule s n w v).pending = s.pending := by
  unfold fireRule
  split <;> simp

@[simp] theorem evalRule_pending (s : State) (n : Nat) : (evalRule s n).pending = s.pending := by
  simp [evalRule]

@[simp] theorem execFirnSample_keepsQueue (channel : Fin 128) (raw : BitVec 12) (s : State) :
    KeepsQueue s (execFirnSample channel raw s) := by
  simp [execFirnSample]

@[simp] theorem execFrnRule_keepsQueue (n : Fin 64) (w : Word) (s : State) : KeepsQueue s (execFrnRule n w s) := by
  simp [execFrnRule]

@[simp] theorem execFrnTdac_keepsQueue (w : Word) (s : State) : KeepsQueue s (execFrnTdac w s) := by
  simp [execFrnTdac]

@[simp] theorem execCrystalSwitch_keepsQueue (s : State) : KeepsQueue s (execCrystalSwitch s) := by
  rw [execCrystalSwitch, keepsQueue_next]
  split
  · rfl
  · rw [pending_ite, ite_self]
    refine pending_foldl (fun s p => ?_) _ _
    split <;> simp

/-! #### Trips outside the regions -/

@[simp] theorem execFieldTrip_keepsQueue (field : Fin 12) (s : State) : KeepsQueue s (execFieldTrip field s) := by
  simp [execFieldTrip]

@[simp] theorem execThmTrip_keepsQueue (edge : Bool) (w : Word) (s : State) : KeepsQueue s (execThmTrip edge w s) := by
  simp [execThmTrip]

/-! #### The references of the root PLL (R464, R480) -/

@[simp] theorem execReferenceLoss_keepsQueue (s : State) : KeepsQueue s (execReferenceLoss s) := by
  simp [execReferenceLoss]

@[simp] theorem execReferenceRestored_keepsQueue (port : Bool) (s : State) :
    KeepsQueue s (execReferenceRestored port s) := by
  simp [execReferenceRestored]

@[simp] theorem execClkRef_keepsQueue (w : Word) (s : State) : KeepsQueue s (execClkRef w s) := by
  simp [execClkRef]

/-! #### Realms -/

@[simp] theorem scrubRegion_pending (s : State) (g : Nat) : (scrubRegion s g).pending = s.pending := by
  simp [scrubRegion]

@[simp] theorem leaveRealm_pending (s : State) (g : Nat) : (leaveRealm s g).pending = s.pending := by
  simp [leaveRealm]

@[simp] theorem applyRealm_pending (s : State) (d : List Byte) : (applyRealm s d).pending = s.pending := by
  simp [applyRealm]

@[simp] theorem realmIn_pending (s : State) (len : Nat) (r : DmaRes) : (realmIn s len r).pending = s.pending := by
  simp only [realmIn]
  repeat' split
  all_goals simp

@[simp] theorem destroyRealm_pending (s : State) (k : Nat) : (destroyRealm s k).pending = s.pending := by
  simp [destroyRealm]

/-! #### BOOT_FW (R527-R529) -/

@[simp] theorem firmwareIn_pending (s : State) (len : Nat) (r : DmaRes) : (firmwareIn s len r).pending = s.pending := by
  simp only [firmwareIn]
  repeat' split
  all_goals simp

/-! #### Quotes (R546, R547) -/

@[simp] theorem nonceIn_pending (s : State) (out : Nat) (pre post : List Byte) (r : DmaRes) :
    (nonceIn s out pre post r).pending = s.pending := by
  unfold nonceIn
  split <;> simp

@[simp] theorem writeHost_pending (s : State) (addr : Nat) (bs : List Byte) :
    (writeHost s addr bs).pending = s.pending := by
  simp [writeHost]

/-! #### Calibration (R472, R538) -/

@[simp] theorem beginPhase_pending (s : State) (phase : Nat) (mask : BitVec 128) :
    (beginPhase s phase mask).pending = s.pending := by
  simp [beginPhase]

@[simp] theorem tableIn_pending (s : State) (mask : BitVec 128) (r : DmaRes) :
    (tableIn s mask r).pending = s.pending := by
  unfold tableIn
  split <;> simp

@[simp] theorem storeCal_pending (s : State) (mask : BitVec 128) : (storeCal s mask).pending = s.pending := by
  simp [storeCal]

/-! #### Fences of regions (R496, R498, R539) -/

@[simp] theorem goOnFence_pending (s : State) : (goOnFence s).pending = s.pending := by
  unfold goOnFence
  split <;> simp

@[simp] theorem fenceRegion_pending (s : State) (g : Nat) : (fenceRegion s g).pending = s.pending := by
  simp [fenceRegion]

@[simp] theorem unfenceRegion_pending (s : State) (g : Nat) : (unfenceRegion s g).pending = s.pending := by
  simp [unfenceRegion]

/-! #### Shut-down and park (12 R474; 13 R519-R524) -/

@[simp] theorem storeSet_pending (s : State) (tested : Nat → Bool) (whole : Bool) :
    (storeSet s tested whole).pending = s.pending := by
  simp [storeSet]

@[simp] theorem testBlock_pending (s : State) (b : Nat) : (testBlock s b).pending = s.pending := by
  simp [testBlock]

@[simp] theorem parkNext_pending (s : State) : (parkNext s).pending = s.pending := by
  unfold parkNext
  split <;> simp

@[simp] theorem parkSlot_pending (s : State) : (parkSlot s).pending = s.pending := by simp [parkSlot]

@[simp] theorem beginPark_pending (s : State) : (beginPark s).pending = s.pending := by simp [beginPark]

@[simp] theorem goOnShut_pending (s : State) : (goOnShut s).pending = s.pending := by
  unfold goOnShut
  split <;> simp

@[simp] theorem beginShut_pending (s : State) (park test : Bool) : (beginShut s park test).pending = s.pending := by
  simp [beginShut]

@[simp] theorem cancelShut_pending (s : State) : (cancelShut s).pending = s.pending := by
  unfold cancelShut
  split <;> simp

/-! #### The doorbell (R535-R539) -/

@[simp] theorem startsWith_pending {f : State → Code × State} (h : ∀ s, SameQueue s (f s).2) (s : State)
    (res : List Word) : (startsWith s res f).pending = s.pending := by
  simp only [startsWith]
  split
  · exact (h _).trans (by simp)
  · simp

@[simp] theorem mlrRun_pending (s : State) (op : Nat) (a1 a2 : DmaAnswer) :
    (mlrRun s op a1 a2).pending = s.pending := by
  unfold mlrRun
  split <;> simp

@[simp] theorem mlrGo_pending (s : State) (a1 a2 : DmaAnswer) : (mlrGo s a1 a2).pending = s.pending := by
  simp only [mlrGo]
  repeat' split
  all_goals simp

@[simp] theorem mailbox_keepsQueue (s : State) (op : Nat) (tag : BitVec 16) (args : List Word) (a1 a2 : DmaAnswer) :
    KeepsQueue s (mailbox s op tag args a1 a2) := by
  simp [mailbox]

@[simp] theorem execBootFw_keepsQueue (tag : BitVec 16) (addr len : Word) (ans : DmaAnswer) (s : State) :
    KeepsQueue s (execBootFw tag addr len ans s) := by
  simp [execBootFw]

@[simp] theorem execLoadImage_keepsQueue (tag : BitVec 16) (addr len : Word) (first second : DmaAnswer) (s : State) :
    KeepsQueue s (execLoadImage tag addr len first second s) := by
  simp [execLoadImage]

@[simp] theorem execUnload_keepsQueue (tag : BitVec 16) (a0 : Word) (s : State) :
    KeepsQueue s (execUnload tag a0 s) := by
  simp [execUnload]

@[simp] theorem execLoadWeights_keepsQueue (tag : BitVec 16) (a0 a1 a2 : Word) (s : State) :
    KeepsQueue s (execLoadWeights tag a0 a1 a2 s) := by
  simp [execLoadWeights]

@[simp] theorem execQuote_keepsQueue (tag : BitVec 16) (a0 a1 a2 a3 : Word) (ans : DmaAnswer) (s : State) :
    KeepsQueue s (execQuote tag a0 a1 a2 a3 ans s) := by
  simp [execQuote]

@[simp] theorem execReadMoraine_keepsQueue (tag : BitVec 16) (a0 a1 : Word) (s : State) :
    KeepsQueue s (execReadMoraine tag a0 a1 s) := by
  simp [execReadMoraine]

@[simp] theorem execReadCerts_keepsQueue (tag : BitVec 16) (a0 a1 : Word) (s : State) :
    KeepsQueue s (execReadCerts tag a0 a1 s) := by
  simp [execReadCerts]

@[simp] theorem execPark_keepsQueue (tag : BitVec 16) (a0 : Word) (s : State) : KeepsQueue s (execPark tag a0 s) := by
  simp [execPark]

@[simp] theorem execWake_keepsQueue (tag : BitVec 16) (s : State) : KeepsQueue s (execWake tag s) := by
  simp [execWake]

@[simp] theorem execShutdown_keepsQueue (tag : BitVec 16) (a0 : Word) (s : State) :
    KeepsQueue s (execShutdown tag a0 s) := by
  simp [execShutdown]

@[simp] theorem execSetCap_keepsQueue (tag : BitVec 16) (a0 : Word) (s : State) :
    KeepsQueue s (execSetCap tag a0 s) := by
  simp [execSetCap]

@[simp] theorem execSetPrio_keepsQueue (tag : BitVec 16) (a0 : Word) (s : State) :
    KeepsQueue s (execSetPrio tag a0 s) := by
  simp [execSetPrio]

@[simp] theorem execCalibrateZero_keepsQueue (tag : BitVec 16) (a1 a2 : Word) (s : State) :
    KeepsQueue s (execCalibrateZero tag a1 a2 s) := by
  simp [execCalibrateZero]

@[simp] theorem execCalibrateFull_keepsQueue (tag : BitVec 16) (a1 a2 a3 : Word) (ans : DmaAnswer) (s : State) :
    KeepsQueue s (execCalibrateFull tag a1 a2 a3 ans s) := by
  simp [execCalibrateFull]

@[simp] theorem execCalibrateStore_keepsQueue (tag : BitVec 16) (a1 a2 : Word) (s : State) :
    KeepsQueue s (execCalibrateStore tag a1 a2 s) := by
  simp [execCalibrateStore]

@[simp] theorem execRegionFence_keepsQueue (tag : BitVec 16) (a0 : Word) (s : State) :
    KeepsQueue s (execRegionFence tag a0 s) := by
  simp [execRegionFence]

@[simp] theorem execUnfence_keepsQueue (tag : BitVec 16) (a0 : Word) (s : State) :
    KeepsQueue s (execUnfence tag a0 s) := by
  simp [execUnfence]

@[simp] theorem execRealmCreate_keepsQueue (tag : BitVec 16) (a0 a1 : Word) (ans : DmaAnswer) (s : State) :
    KeepsQueue s (execRealmCreate tag a0 a1 ans s) := by
  simp [execRealmCreate]

@[simp] theorem execRealmDestroy_keepsQueue (tag : BitVec 16) (a0 : Word) (s : State) :
    KeepsQueue s (execRealmDestroy tag a0 s) := by
  simp [execRealmDestroy]

/-! #### Host memory answers later (R431) -/

@[simp] theorem dmaIn_pending (s : State) (j : DmaJob) (r : DmaRes) : (dmaIn s j r).pending = s.pending := by
  simp only [dmaIn]
  repeat' split
  all_goals simp

@[simp] theorem dmaEnd_pending (s : State) (r : DmaRes) : (dmaEnd s r).pending = s.pending := by
  unfold dmaEnd
  split <;> simp

@[simp] theorem execDmaCompletion_keepsQueue (ans : DmaAnswer) (s : State) :
    KeepsQueue s (execDmaCompletion ans s) := by
  simp [execDmaCompletion]

@[simp] theorem execDmaTimeout_keepsQueue (completed : Bool) (s : State) :
    KeepsQueue s (execDmaTimeout completed s) := by
  unfold execDmaTimeout
  split <;> simp

@[simp] theorem dmaLost_pending (s : State) : (dmaLost s).pending = s.pending := by simp [dmaLost]

/-! #### Patrol (R410, R411) -/

@[simp] theorem patrolBurst_pending (s : State) (k a : Nat) (found : Burst) :
    (patrolBurst s k a found).pending = s.pending := by
  simp only [patrolBurst]
  repeat' split
  all_goals simp

@[simp] theorem execSnowpackPatrol_keepsQueue (ctl : Fin 4) (found : Burst) (die : Bool) (s : State) :
    KeepsQueue s (execSnowpackPatrol ctl found die s) := by
  simp only [execSnowpackPatrol]
  repeat' split
  all_goals simp

@[simp] theorem execSnowpackWriteBack_keepsQueue (ctl : Fin 4) (addr : BitVec 40) (s : State) :
    KeepsQueue s (execSnowpackWriteBack ctl addr s) := by
  simp [execSnowpackWriteBack]

/-! #### Stacks out of service (R413, R463) -/

@[simp] theorem failStack_pending (s : State) (t : Nat) : (failStack s t).pending = s.pending := by
  simp [failStack]

@[simp] theorem hbmTrip_pending (s : State) (t : Nat) : (hbmTrip s t).pending = s.pending := by simp [hbmTrip]

@[simp] theorem execStackFatalError_keepsQueue (stack : Fin 24) (s : State) :
    KeepsQueue s (execStackFatalError stack s) := by
  simp [execStackFatalError]

@[simp] theorem execHbmTrip_keepsQueue (stack : Fin 24) (s : State) : KeepsQueue s (execHbmTrip stack s) := by
  simp [execHbmTrip]

/-! #### Refresh and temperature (R414, R415) -/

@[simp] theorem execRefresh_keepsQueue (ctl : Fin 4) (stack : Fin 6) (s : State) :
    KeepsQueue s (execRefresh ctl stack s) := by
  simp [execRefresh]

@[simp] theorem execRfm_keepsQueue (ctl : Fin 4) (stack : Fin 6) (s : State) : KeepsQueue s (execRfm ctl stack s) := by
  simp [execRfm]

@[simp] theorem execSnowpackTemperature_keepsQueue (ctl : Fin 4) (stack : Fin 6) (temp : BitVec 12) (s : State) :
    KeepsQueue s (execSnowpackTemperature ctl stack temp s) := by
  simp [execSnowpackTemperature]

/-! #### The zone map (R401, R418) -/

@[simp] theorem zeroZone_pending (s : State) (z : Nat) : (zeroZone s z).pending = s.pending := by
  simp [zeroZone]

@[simp] theorem execSnwZmap_keepsQueue (w : Word) (s : State) : KeepsQueue s (execSnwZmap w s) := by
  simp [execSnwZmap]

@[simp] theorem execZoneZeroed_keepsQueue (zone : Fin 32) (s : State) : KeepsQueue s (execZoneZeroed zone s) := by
  simp [execZoneZeroed]

/-! #### The patrol of the core stacks (R130, R131, R161) -/

@[simp] theorem patrolKv_pending (s : State) (c a : Nat) (found : Burst) :
    (patrolKv s c a found).pending = s.pending := by
  simp only [patrolKv]
  repeat' split
  all_goals simp

@[simp] theorem execPatrol_keepsQueue (r : RegionId) (found : Burst) (s : State) :
    KeepsQueue s (execPatrol r found s) := by
  simp only [execPatrol]
  repeat' split
  all_goals simp

@[simp] theorem execWriteBack_keepsQueue (c : CoreId) (burst : Nat) (s : State) :
    KeepsQueue s (execWriteBack c burst s) := by
  simp [execWriteBack]

/-! #### The fault log (R487, R489) -/

@[simp] theorem execMergeWindowClose_keepsQueue (i : Nat) (s : State) : KeepsQueue s (execMergeWindowClose i s) := by
  unfold execMergeWindowClose
  split <;> simp

@[simp] theorem execFltTail_keepsQueue (w : Word) (s : State) : KeepsQueue s (execFltTail w s) := by
  simp [execFltTail]

@[simp] theorem execFltSel_keepsQueue (w : Word) (s : State) : KeepsQueue s (execFltSel w s) := by
  simp [execFltSel]

/-! #### The Millpond (R287, R315, R317) -/

@[simp] theorem execMpdReqsel_keepsQueue (unit : Fin 4) (w : Word) (s : State) :
    KeepsQueue s (execMpdReqsel unit w s) := by
  simp [execMpdReqsel]

@[simp] theorem execMpdPool_keepsQueue (k : Fin 4) (w : Word) (s : State) : KeepsQueue s (execMpdPool k w s) := by
  simp only [execMpdPool]
  repeat' split
  all_goals simp

/-! #### Time, interrupts, clock gates (R430, R466, R534) -/

@[simp] theorem execGlbTime_keepsQueue (w : Word) (s : State) : KeepsQueue s (execGlbTime w s) := by
  simp [execGlbTime]

@[simp] theorem execGlbIrqMask_keepsQueue (w : Word) (s : State) : KeepsQueue s (execGlbIrqMask w s) := by
  simp [execGlbIrqMask]

@[simp] theorem execClkGate_keepsQueue (w : Word) (s : State) : KeepsQueue s (execClkGate w s) := by
  simp [execClkGate]

/-! #### Unsupported Requests (R16, R426) -/

@[simp] theorem unsupported_pending (s : State) (addr : Nat) : (unsupported s addr).pending = s.pending := by
  simp [unsupported]

@[simp] theorem execUnsupportedRequest_keepsQueue (addr : BitVec 26) (_write : Bool) (s : State) :
    KeepsQueue s (execUnsupportedRequest addr _write s) := by
  simp [execUnsupportedRequest]

/-! #### REGISTER_WRITE (R13) -/

theorem andThen_keepsQueue {s : State} {o : Outcome} {g : State → Outcome} (first : KeepsQueue s o)
    (second : ∀ t, KeepsQueue t (g t)) :
    KeepsQueue s (andThen o g) := by
  cases o with
  | next t => exact fun u e => (second t u e).trans (first t rfl)
  | fault r => exact first
  | refused r => exact first

@[simp] theorem writeGlb_pending (s : State) (o : Nat) (w : Word) : (writeGlb s o w).pending = s.pending := by
  simp [writeGlb]

@[simp] theorem writeMlr_pending (s : State) (o : Nat) (w : Word) : (writeMlr s o w).pending = s.pending := by
  simp [writeMlr]

@[simp] theorem writeFrn_pending (s : State) (o : Nat) (w : Word) : (writeFrn s o w).pending = s.pending := by
  simp [writeFrn]

@[simp] theorem writePwr_pending (s : State) (o : Nat) (w : Word) : (writePwr s o w).pending = s.pending := by
  simp [writePwr]

@[simp] theorem writeThm_pending (s : State) (o : Nat) (w : Word) : (writeThm s o w).pending = s.pending := by
  simp [writeThm]

@[simp] theorem writeFlt_pending (s : State) (o : Nat) (w : Word) : (writeFlt s o w).pending = s.pending := by
  simp [writeFlt]

@[simp] theorem writeMpd_pending (s : State) (o : Nat) (w : Word) : (writeMpd s o w).pending = s.pending := by
  simp [writeMpd]

@[simp] theorem writeSlu_pending (s : State) (p o : Nat) (w : Word) : (writeSlu s p o w).pending = s.pending := by
  simp only [writeSlu]
  repeat' split
  all_goals simp

@[simp] theorem writeTlr_pending (s : State) (l o : Nat) (w : Word) : (writeTlr s l o w).pending = s.pending := by
  simp [writeTlr]

@[simp] theorem writeSnw_pending (s : State) (k o : Nat) (w : Word) : (writeSnw s k o w).pending = s.pending := by
  simp [writeSnw]

@[simp] theorem writeReg_pending (s : State) (g o : Nat) (w : Word) : (writeReg s g o w).pending = s.pending := by
  simp [writeReg]

@[simp] theorem writeMil_pending (s : State) (m o : Nat) (w : Word) : (writeMil s m o w).pending = s.pending := by
  unfold writeMil
  split <;> simp

@[simp] theorem writeMilFence_keepsQueue (m : MillId) (w : Word) (s : State) : KeepsQueue s (writeMilFence m w s) := by
  unfold writeMilFence
  extract_lets d
  split
  · simp
  · split
    · simp
    · rename_i fenced halted resumed failed _ _
      have h : KeepsQueue s fenced := by unfold fenced; split <;> simp
      have h1 : KeepsQueue s halted := by unfold halted; split <;> simp [andThen_keepsQueue, h]
      have h2 : KeepsQueue s resumed := by unfold resumed; split <;> simp [andThen_keepsQueue, h1]
      have h3 : KeepsQueue s failed := by unfold failed; split <;> simp [andThen_keepsQueue, h2]
      split <;> simp [andThen_keepsQueue, h3]

@[simp] theorem writeMsix_pending (s : State) (o : Nat) (w : Word) : (writeMsix s o w).pending = s.pending := by
  simp [writeMsix]

@[simp] theorem writeEdge_keepsQueue (a : Nat) (w : Word) (s : State) : KeepsQueue s (writeEdge a w s) := by
  simp [writeEdge]

@[simp] theorem writeHalf_pending (s : State) (a : Nat) (w : Word) : (writeHalf s a w).pending = s.pending := by
  simp [writeHalf]

@[simp] theorem execRegisterWrite_keepsQueue (addr : BitVec 27) (half : Bool) (w : Word) (s : State) :
    KeepsQueue s (execRegisterWrite addr half w s) := by
  simp [execRegisterWrite]

/-! #### The pins and sequences of the module -/

@[simp] theorem setPins_pending (s : State) (p : Pins) : (setPins s p).pending = s.pending := by
  simp [setPins]

@[simp] theorem stopRise_pending (s : State) (interlock : Bool) : (stopRise s interlock).pending = s.pending := by
  simp [stopRise]

@[simp] theorem execVddfRise_keepsQueue (straps : Fin 8) (s : State) : KeepsQueue s (execVddfRise straps s) := by
  simp [execVddfRise]

@[simp] theorem execVddfLoss_keepsQueue (s : State) : KeepsQueue s (execVddfLoss s) := by simp [execVddfLoss]

@[simp] theorem execPwrOnReqHigh_keepsQueue (s : State) : KeepsQueue s (execPwrOnReqHigh s) := by
  simp [execPwrOnReqHigh]

@[simp] theorem execPwrOnReqLow_keepsQueue (s : State) : KeepsQueue s (execPwrOnReqLow s) := by
  simp [execPwrOnReqLow]

@[simp] theorem execModRstNLow_keepsQueue (s : State) : KeepsQueue s (execModRstNLow s) := by
  simp [execModRstNLow]

@[simp] theorem execModRstNHigh_keepsQueue (s : State) : KeepsQueue s (execModRstNHigh s) := by
  simp [execModRstNHigh]

@[simp] theorem execPowerGood_keepsQueue (pg : Good) (s : State) : KeepsQueue s (execPowerGood pg s) := by
  simp only [execPowerGood]
  repeat' split
  all_goals simp

@[simp] theorem execPowerGoodTimeout_keepsQueue (s : State) : KeepsQueue s (execPowerGoodTimeout s) := by
  simp [execPowerGoodTimeout]

@[simp] theorem execEdgePowerGoodLoss_keepsQueue (pg : Good) (s : State) :
    KeepsQueue s (execEdgePowerGoodLoss pg s) := by
  unfold execEdgePowerGoodLoss
  split <;> simp

@[simp] theorem execVddmPowerGoodLoss_keepsQueue (g : Fin 16) (s : State) :
    KeepsQueue s (execVddmPowerGoodLoss g s) := by
  simp [execVddmPowerGoodLoss]

/-! #### The PCIe function -/

@[simp] theorem resetPcie_pending (s : State) : (resetPcie s).pending = s.pending := by simp [resetPcie]

@[simp] theorem takeGrade_pending (s : State) : (takeGrade s).pending = s.pending := by simp [takeGrade]

@[simp] theorem linkOff_pending (s : State) : (linkOff s).pending = s.pending := by simp [linkOff]

@[simp] theorem execPcieReset_keepsQueue (kind : PcieReset) (s : State) : KeepsQueue s (execPcieReset kind s) := by
  simp only [execPcieReset]
  repeat' split
  all_goals simp

@[simp] theorem execPerstN_keepsQueue (high : Bool) (s : State) : KeepsQueue s (execPerstN high s) := by
  simp [execPerstN]

/-! #### Every command -/

/-- Every command leaves the queue alone: each arm of `exec` is one operation, whose rule stands above. -/
theorem exec_keepsQueue (i : Instr) (s : State) : KeepsQueue s (exec i s) := by
  cases i <;> simp [exec]

/-- Settles O5: each operation of the model is put together from writes of other fields of the state and from earlier
operations, so the queue passes through all of them as it was. -/
theorem commandsKeepQueue : Obligations.CommandsKeepQueue := fun i s => exec_keepsQueue i s

end Sys2Proof.Machine

namespace Sys2Proof.Machine

/-! ## Reset (00 R7, 01 R27, 06 R37) -/

/-- Settles O3: reset lists no region, mill, slot, byte or command, so that each reads as its default. -/
theorem resetState : Obligations.ResetState := by
  have listsNothing : State.reset.regions = [] ∧ State.reset.mills = [] ∧ State.reset.hop.slots = [] := ⟨rfl, rfl, rfl⟩
  obtain ⟨regions, mills, slots⟩ := listsNothing
  refine ⟨⟨rfl, rfl, rfl, rfl, fun r => ?_, fun m => ?_, fun n => ?_, rfl, rfl, rfl, rfl, rfl, rfl, rfl⟩, rfl, rfl⟩
  · rw [regionOf, regions, Tbl.get_nil]
  · rw [millOf, mills, Tbl.get_nil]
  · rw [slotOf, slots, Tbl.get_nil]

/-! ## The path of mode XY (05 R169, R170) -/

/-! ### Numbers in a row -/

@[simp] theorem length_walk (a b : Nat) : (walk a b).length = ((a : Int) - b).natAbs + 1 := by
  unfold walk
  split <;> simp only [List.length_map, List.length_range] <;> omega

theorem getElem_walk (a b i : Nat) (h : i < (walk a b).length) : (walk a b)[i] = if a ≤ b then a + i else a - i := by
  unfold walk
  split <;> simp [*]

@[simp] theorem head?_walk (a b : Nat) : (walk a b).head? = some a := by
  rw [List.head?_eq_getElem?, List.getElem?_eq_getElem (by simp), getElem_walk]
  simp

@[simp] theorem getLast?_walk (a b : Nat) : (walk a b).getLast? = some b := by
  rw [List.getLast?_eq_getElem?, List.getElem?_eq_getElem (by simp), getElem_walk, length_walk]
  split <;> congr 1 <;> omega

theorem walk_eq_cons (a b : Nat) : walk a b = a :: (walk a b).drop 1 := by
  have head := head?_walk a b
  cases h : walk a b with
  | nil => simp [h] at head
  | cons x t => simpa [h] using head

/-- Each number differs from the next by one. -/
theorem isChain_walk (a b : Nat) : (walk a b).IsChain fun i j => i + 1 = j ∨ j + 1 = i := by
  rw [List.isChain_iff_getElem]
  intro i h
  have := length_walk a b
  rw [getElem_walk, getElem_walk]
  split <;> omega

/-! ### The mesh path along X, then Y -/

theorem head?_meshXY (x y u v : Nat) : (meshXY x y u v).head? = some (.router x y) := by
  simp [meshXY, List.head?_append]

theorem getLast?_meshXY (x y u v : Nat) : (meshXY x y u v).getLast? = some (.router u v) := by
  have last := getLast?_walk y v
  rw [walk_eq_cons] at last
  cases h : (walk y v).drop 1 with
  | nil =>
    rw [h] at last
    obtain rfl : y = v := by simpa using last
    simp [meshXY, h]
  | cons w t =>
    rw [h, List.getLast?_cons_cons] at last
    rw [meshXY, h, List.getLast?_append, List.getLast?_map, last]; rfl

theorem length_meshXY (x y u v : Nat) :
    ((meshXY x y u v).length : Int) = ((x : Int) - u).natAbs + ((y : Int) - v).natAbs + 1 := by
  simp [meshXY]; omega

theorem isChain_meshXY (x y u v : Nat) : (meshXY x y u v).IsChain Adjacent := by
  have along : ((walk x u).map (Node.router · y)).IsChain Adjacent := by
    rw [List.isChain_map]
    exact (isChain_walk x u).imp fun i j step => .inr ⟨rfl, step⟩
  have down : ((walk y v).map (Node.router u ·)).IsChain Adjacent := by
    rw [List.isChain_map]
    exact (isChain_walk y v).imp fun i j step => .inl ⟨rfl, step⟩
  rw [walk_eq_cons y v, List.map_cons, List.isChain_cons] at down
  obtain ⟨corner, down⟩ := down
  refine List.isChain_append.2 ⟨along, down, fun n hn => ?_⟩
  obtain rfl : Node.router u y = n := by simpa [List.getLast?_map] using hn
  exact corner

theorem mem_meshXY {x y u v : Nat} {n : Node} (h : n ∈ meshXY x y u v) : ∃ i j, n = .router i j ∧ (j = y ∨ i = u) := by
  obtain along | down := List.mem_append.1 h
  · obtain ⟨i, -, rfl⟩ := List.mem_map.1 along
    exact ⟨i, y, rfl, .inl rfl⟩
  · obtain ⟨j, -, rfl⟩ := List.mem_map.1 down
    exact ⟨u, j, rfl, .inr rfl⟩

/-! ### No detour where no row is dropped and no link is dead (R22, R169) -/

theorem linkDead_eq_false {s : State} (links : ∀ e ∈ s.moraine, e.kind ≠ 4) (x y : Nat) : linkDead s x y = false := by
  have none : ∀ e ∈ s.moraine, (e.kind == 4) = false := fun e he => beq_false_of_ne (links e he)
  simp only [linkDead, Bool.and_eq_false_iff, List.any_eq_false]
  exact .inr fun e he => by simp [none e he]

theorem aside_eq_nil {s : State} (full : ∀ r, (regionOf s r).org.shape ≠ .short) (links : ∀ e ∈ s.moraine, e.kind ≠ 4) (n m : Node) :
    aside s n m = [] := by
  unfold aside
  split
  · simp [full, linkDead_eq_false links]
  · rfl

theorem detoured_cons (s : State) (n : Node) (rest : List Node) :
    detoured s (n :: rest) = n :: (rest.head?.elim [] (aside s n) ++ detoured s rest) := by
  cases rest <;> rfl

theorem detoured_eq_self {s : State} (full : ∀ r, (regionOf s r).org.shape ≠ .short) (links : ∀ e ∈ s.moraine, e.kind ≠ 4)
    (p : List Node) : detoured s p = p := by
  induction p with
  | nil => rfl
  | cons n rest ih => rw [detoured_cons, ih]; cases rest <;> simp [aside_eq_nil full links]

theorem pathOf_xy (a b wp : Nat) : pathOf a b 1 wp = meshXY (coreX a) (coreY a) (coreX b) (coreY b) := if_pos (.inr rfl)

/-- Settles O20: the path of mode XY is the mesh path along X and then Y, and it is the route where nothing asks for a detour. -/
theorem xyPath : Obligations.XYPath := by
  intro a b
  refine ⟨_, pathOf_xy a b 0, fun s full links => ?_, head?_meshXY .., getLast?_meshXY .., isChain_meshXY .., length_meshXY ..,
    fun n hn => mem_meshXY hn⟩
  rw [routeNodes, detoured_eq_self full links, pathOf_xy]

end Sys2Proof.Machine

namespace Sys2Proof.Machine

/-! ## Regions: what a view of an entry does not see -/

theorem regionOf_updRegion (s : State) (r : Nat) (f : Region → Region) (g : Nat) :
    regionOf (updRegion s r f) g = if g = r then f (regionOf s r) else regionOf s g := Tbl.get_upd ..

/-- A change of an entry that the view `π` does not see shows through it nowhere. -/
theorem view_updRegion {α : Type} {π : Region → α} {f : Region → Region} (unseen : ∀ x, π (f x) = π x) (s : State) (r g : Nat) :
    π (regionOf (updRegion s r f) g) = π (regionOf s g) := by
  rw [regionOf_updRegion]
  split
  · next h => rw [unseen, h]
  · rfl

/-- The view `π` of a region's entry does not see its ring of records. -/
def LogUnseen {α : Type} (π : Region → α) : Prop := ∀ x l, π { x with log := l } = π x

theorem regionOf_congr {s t : State} (h : t.regions = s.regions) (g : Nat) : regionOf t g = regionOf s g := by rw [regionOf, h, regionOf]

section
variable {α : Type} {π : Region → α} (unseen : LogUnseen π)
include unseen

theorem view_pushRegion (s : State) (r : Nat) (x : Rec) (g : Nat) : π (regionOf (pushRegion s r x).2 g) = π (regionOf s g) :=
  view_updRegion (fun _ => unseen _ _) s r g

theorem view_updRing (s : State) (r n : Nat) (f : Rec → Rec) (g : Nat) : π (regionOf (updRing s r n f) g) = π (regionOf s g) :=
  view_updRegion (fun x => by split; exacts [unseen _ _, rfl]) s r g

theorem view_enterGlobal (s : State) (x : Rec) (copy : Option (Nat × Nat)) (g : Nat) :
    π (regionOf (enterGlobal s x copy) g) = π (regionOf s g) := by
  unfold enterGlobal
  dsimp only
  rw [regionOf_congr (raiseIrq_regions _ _)]
  split
  · rfl
  · exact view_updRing unseen _ _ _ _ _

/-- A fault record changes nothing of a region but its ring (R487). -/
theorem view_logRec (s : State) (x : Rec) (g : Nat) : π (regionOf (logRec s x) g) = π (regionOf s g) := by
  unfold logRec
  dsimp only
  split
  · exact view_enterGlobal unseen _ _ _ _
  · exact (view_enterGlobal unseen _ _ _ _).trans (view_pushRegion unseen _ _ _ _)

/-- So does one that may merge with an earlier one (R164). -/
theorem view_logMerging (s : State) (x : Rec) (key : Nat × Nat × Nat) (g : Nat) :
    π (regionOf (logMerging s x key) g) = π (regionOf s g) := by
  unfold logMerging
  dsimp only
  split
  · split
    · rfl
    · exact view_updRing unseen _ _ _ _ _
  · split
    · rfl
    · exact view_pushRegion unseen _ _ _ _

end

/-- The routes, the time-out and the counters of Race are seen apart from the ring of records. -/
theorem logUnseen_race : LogUnseen Region.race := fun _ _ => rfl

/-- So is what is known of the region's shape. -/
theorem logUnseen_org : LogUnseen Region.org := fun _ _ => rfl

/-! ## The mill trees rest on the table of mills alone (01 R33-R38) -/

section
variable {s t : State} (h : t.mills = s.mills)
include h

theorem millOf_congr (m : Nat) : millOf t m = millOf s m := by rw [millOf, h, millOf]

theorem leafOf_congr (c : Nat) : leafOf t c = leafOf s c := by rw [leafOf, h, leafOf]

theorem chainOf_congr (n m : Nat) : chainOf t n m = chainOf s n m := by
  induction n generalizing m with
  | zero => rfl
  | succ n ih => simp only [chainOf, millOf_congr h, ih]

theorem chain_congr (m : Nat) : chain t m = chain s m := by rw [chain, h, chainOf_congr h, chain]

theorem beneath_congr (m k : Nat) : beneath t m k = beneath s m k := by rw [beneath, chain_congr h, beneath]

theorem ownerOf_congr (c : Nat) : ownerOf t c = ownerOf s c := by
  have up : ownerUp t = ownerUp s := funext fun m => by simp only [ownerUp, chain_congr h, millOf_congr h]
  rw [ownerOf, leafOf_congr h, up, ownerOf]

theorem descendants_congr (m : Nat) : descendants t m = descendants s m := by
  rw [descendants, h, funext (beneath_congr h m), descendants]

theorem coresOf_congr (m : Nat) : coresOf t m = coresOf s m := by
  simp only [coresOf, descendants_congr h, millOf_congr h]

theorem regionsOf_congr (m : Nat) : regionsOf t m = regionsOf s m := by
  simp only [regionsOf, descendants_congr h, millOf_congr h]

theorem anchorsOf_congr (m : Nat) : anchorsOf t m = anchorsOf s m := by
  simp only [anchorsOf, regionsOf_congr h, coresOf_congr h]

/-- The serving-mill record of a mill is that of its image. -/
theorem serveOf_congr (slots : t.hop.slots = s.hop.slots) (m : Nat) : serveOf t m = serveOf s m := by
  simp only [serveOf, millOf_congr h, slotOf, slots]

/-- Which windows are always armed rests on the mills, the images and the Tailrace queues (R141, R178, R223). -/
theorem alwaysArmed_congr (slots : t.hop.slots = s.hop.slots) (links : t.links = s.links) (c w : Nat) :
    alwaysArmed t c w = alwaysArmed s c w := by
  simp only [alwaysArmed, ownerOf_congr h, millOf_congr h, serveOf_congr h slots, anchorsOf_congr h, links]

end

/-! ## Packets and answers on Race (05 R170, R180, R196) -/

/-- The route entries stand as long as the routes of the source region do. -/
theorem routeOf_congr {s t : State} {r : Nat} (h : (regionOf t r).race.routes = (regionOf s r).race.routes) (d : Nat) (p : Plane) :
    routeOf t r d p = routeOf s r d p := by rw [routeOf, h, routeOf]

@[simp] theorem routeOf_raceCount (s : State) (g : Nat) (p : Plane) (f : RaceCnt → RaceCnt) (r d : Nat) (q : Plane) :
    routeOf (raceCount s g p f) r d q = routeOf s r d q :=
  routeOf_congr (view_updRegion (π := (·.race.routes)) (by intro; rfl) s g r) d q

@[simp] theorem routeOf_logMerging (s : State) (x : Rec) (key : Nat × Nat × Nat) (r d : Nat) (q : Plane) :
    routeOf (logMerging s x key) r d q = routeOf s r d q :=
  routeOf_congr (congrArg _ (view_logMerging logUnseen_race s x key r)) d q

@[simp] theorem cnt_raceCount (s : State) (g : Nat) (p : Plane) (f : RaceCnt → RaceCnt) :
    Tbl.get {} (regionOf (raceCount s g p f) g).race.cnt p.num = f (Tbl.get {} (regionOf s g).race.cnt p.num) := by
  simp [raceCount]

/-- A RESPONSE is one more packet, where its route is not BLOCKED (R172, R180). -/
theorem respond_same (s : State) (acc : Nat) (src : Party) (c : Nat) (code : Code) :
    respond s acc src c code =
      { s with ids := (respond s acc src c code).ids, race := { s.race with packets := (respond s acc src c code).race.packets } } := by
  unfold respond
  split
  · rfl
  · dsimp only; split <;> rfl

section
variable (s : State) (acc : Nat) (src : Party) (c : Nat) (code : Code)
@[simp] theorem respond_mem : (respond s acc src c code).mem = s.mem := by rw [respond_same]
@[simp] theorem respond_cores : (respond s acc src c code).cores = s.cores := by rw [respond_same]
@[simp] theorem respond_regions : (respond s acc src c code).regions = s.regions := by rw [respond_same]
@[simp] theorem respond_incoming : (respond s acc src c code).race.incoming = s.race.incoming := by rw [respond_same]
@[simp] theorem respond_accesses : (respond s acc src c code).race.accesses = s.race.accesses := by rw [respond_same]
end

theorem answered_respond {s : State} {src c : Nat} (route : (routeOf s (c / 256) (src / 256) .c).mode ≠ 0) (acc : Nat) (code : Code) :
    Answered (respond s acc (.core src) c code) acc code := by
  simp [Answered, respond, route, addPacket]

theorem Answered.congr {s t : State} {acc : Nat} {code : Code} (a : Answered s acc code) (h : t.race.packets = s.race.packets) :
    Answered t acc code := by rwa [Answered, h]

section
variable (s : State) (id : Nat)
@[simp] theorem dropPacket_mem : (dropPacket s id).mem = s.mem := rfl
@[simp] theorem dropPacket_cores : (dropPacket s id).cores = s.cores := rfl
@[simp] theorem dropPacket_regions : (dropPacket s id).regions = s.regions := rfl
@[simp] theorem dropPacket_poison : (dropPacket s id).poison = s.poison := rfl
@[simp] theorem dropPacket_incoming : (dropPacket s id).race.incoming = s.race.incoming := rfl
@[simp] theorem dropPacket_accesses : (dropPacket s id).race.accesses = s.race.accesses := rfl
@[simp] theorem routeOf_dropPacket (r d : Nat) (p : Plane) : routeOf (dropPacket s id) r d p = routeOf s r d p := rfl
end

@[simp] theorem alwaysArmed_dropPacket (s : State) (id c w : Nat) : alwaysArmed (dropPacket s id) c w = alwaysArmed s c w :=
  alwaysArmed_congr (s := s) (t := dropPacket s id) rfl rfl rfl c w

@[simp] theorem alwaysArmed_raceCount (s : State) (g : Nat) (p : Plane) (f : RaceCnt → RaceCnt) (c w : Nat) :
    alwaysArmed (raceCount s g p f) c w = alwaysArmed s c w :=
  alwaysArmed_congr (s := s) (t := raceCount s g p f) rfl rfl rfl c w

section
variable (s : State) (g : Nat) (p : Plane) (f : RaceCnt → RaceCnt)
@[simp] theorem raceCount_mem : (raceCount s g p f).mem = s.mem := rfl
@[simp] theorem raceCount_cores : (raceCount s g p f).cores = s.cores := rfl
@[simp] theorem raceCount_race : (raceCount s g p f).race = s.race := rfl
@[simp] theorem raceCount_poison : (raceCount s g p f).poison = s.poison := rfl
end

/-! ## ACCESS_HEADER at a destination that does not accept (04 R26, R151, R158, R164) -/

/-- What ACCESS_HEADER does with a header at its destination, by the verdict on it. -/
def afterVerdict (s : State) (p : Packet) (src c : Nat) (ups : List Upset) : Verdict → State
  | .wait => holdPacket s p.id
  | .refuse x => if coreExists s c then refuseAccess (dropPacket s p.id) p src c x else respond (dropPacket s p.id) p.acc (.core src) c x
  | .accept => acceptAccess (dropPacket s p.id) p src c ups

theorem execAccessHeader_of_atDoor {s : State} {p : Packet} {src c : Nat} (door : AtDoor s p src c) (ups : List Upset) :
    execAccessHeader p.id ups s = .next (afterVerdict s p src c ups (verdict s p src c)) := by
  obtain ⟨packet, source, dest, path, turn, first, kind⟩ := door
  have asked : ¬(p.kind ≠ .write ∧ p.kind ≠ .accum ∧ p.kind ≠ .readReq) := by tauto
  simp only [execAccessHeader, packet, source, dest]
  rw [if_neg (by simpa [arrived, path, turn, first] using asked)]
  cases verdict s p src c <;> rfl

theorem verdict_of_absent {s : State} {c : Nat} (absent : coreExists s c = false) (p : Packet) (src : Nat) :
    verdict s p src c = .refuse .window := by simp [verdict, absent]

theorem verdict_of_unsound {s : State} {p : Packet} {c : Nat} (present : coreExists s c = true) (unsound : p.sound = false) (src : Nat) :
    verdict s p src c = .refuse .format := by simp [verdict, present, unsound]

theorem verdict_of_realms {s : State} {p : Packet} {src c : Nat} (present : coreExists s c = true) (sound : p.sound = true)
    (apart : (regionOf s (src / 256)).org.realm = none ∨ (regionOf s (src / 256)).org.realm ≠ (regionOf s (c / 256)).org.realm) :
    verdict s p src c = .refuse .window := by
  obtain none | other := apart
  · simp [verdict, present, sound, none]
  · simp [verdict, present, sound, other]

@[simp] theorem routeOf_refusalRec (s : State) (p : Packet) (src c : Nat) (code : Code) (r d : Nat) (q : Plane) :
    routeOf (refusalRec s p src c code) r d q = routeOf s r d q := by simp [refusalRec]

theorem refused_refusalRec (s : State) (p : Packet) (src c : Nat) (code : Code) :
    (Tbl.get {} (regionOf (refusalRec s p src c code) (c / 256)).race.cnt p.plane.num).refused =
      bump (Tbl.get {} (regionOf s (c / 256)).race.cnt p.plane.num).refused := by
  rw [refusalRec, view_logMerging logUnseen_race, cnt_raceCount]

@[simp] theorem refusalRec_mem (s : State) (p : Packet) (src c : Nat) (code : Code) : (refusalRec s p src c code).mem = s.mem := by
  simp [refusalRec]

@[simp] theorem refusalRec_cores (s : State) (p : Packet) (src c : Nat) (code : Code) : (refusalRec s p src c code).cores = s.cores := by
  simp [refusalRec]

@[simp] theorem refusalRec_race (s : State) (p : Packet) (src c : Nat) (code : Code) : (refusalRec s p src c code).race = s.race := by
  simp [refusalRec]

/-- A refused access is answered with the code, and counted at a core that exists (R26, R164). -/
theorem next_execAccessHeader_refused {s : State} {p : Packet} {src c : Nat} {x : Code} (door : AtDoor s p src c)
    (refused : verdict s p src c = .refuse x) (route : (routeOf s (c / 256) (src / 256) .c).mode ≠ 0) (ups : List Upset) :
    Next (exec (.accessHeader p.id ups) s) fun t =>
      t.mem = s.mem ∧ t.cores = s.cores ∧ t.race.incoming = s.race.incoming ∧ t.race.accesses = s.race.accesses ∧
      Answered t p.acc x ∧ (coreExists s c = false → t = { s with race := t.race, ids := t.ids }) ∧
      (coreExists s c = true → (Tbl.get {} (regionOf t (c / 256)).race.cnt p.plane.num).refused =
        bump (Tbl.get {} (regionOf s (c / 256)).race.cnt p.plane.num).refused) := by
  have run := execAccessHeader_of_atDoor door ups
  rw [refused, afterVerdict] at run
  refine .of_eq run ?_
  cases present : coreExists s c
  · rw [if_neg (by decide)]
    exact ⟨by simp, by simp, by simp, by simp, answered_respond (by simpa using route) _ _, fun _ => by rw [respond_same]; rfl, nofun⟩
  · rw [if_pos rfl, refuseAccess, show p.src = .core src from door.2.1]
    refine ⟨by simp, by simp, by simp, by simp, answered_respond (by simpa using route) _ _, nofun, fun _ => ?_⟩
    rw [regionOf_congr (respond_regions ..), refused_refusalRec, regionOf_congr (dropPacket_regions ..)]

theorem next_execAccessHeader_waits {s : State} {p : Packet} {src c : Nat} (door : AtDoor s p src c)
    (wait : verdict s p src c = .wait) (ups : List Upset) :
    Next (exec (.accessHeader p.id ups) s) fun t => t = { s with race := t.race } ∧ t.race.packets = Waiting s p.id := by
  have run := execAccessHeader_of_atDoor door ups
  rw [wait] at run
  exact .of_eq run ⟨rfl, rfl⟩

/-! ## A PLAIN write that meets no damage (04 R130, R136, 05 R177) -/

theorem meetReads_of_clean {s : State} (clean : s.poison = []) (rs : Ranges) : meetReads s rs [] = (s, none) := by
  simp [meetReads, runAll, clean]

theorem blocked_of_clean {s : State} (clean : s.poison = []) (a n : Nat) : blocked s a n [] = [] := by
  simp [blocked, clean]

/-- Without poison and upsets every byte of the payload is written and nothing is recorded. -/
theorem writePlain_of_clean {s : State} (clean : s.poison = []) (c a : Nat) (bs : List Byte) :
    writePlain s c a bs [] = (storeBytes s a bs, none) := by
  have all : (List.range bs.length).map (fun i => bs[i]?.getD 0#8) = bs :=
    List.ext_getElem (by simp) fun i h _ => by simp_all
  simp only [writePlain, blocked_of_clean clean]
  rw [List.foldl_fixed' fun r => by simp [meetReads_of_clean clean]]
  simp [touches, all]

section
variable (s : State) (a : Nat) (bs : List Byte)
@[simp] theorem storeBytes_mem : (storeBytes s a bs).mem = Memory.put s.mem a bs := by
  unfold storeBytes; dsimp only; split <;> rfl
@[simp] theorem storeBytes_cores : (storeBytes s a bs).cores = s.cores := by unfold storeBytes; dsimp only; split <;> rfl
@[simp] theorem storeBytes_race : (storeBytes s a bs).race = s.race := by unfold storeBytes; dsimp only; split <;> rfl
@[simp] theorem storeBytes_glb : (storeBytes s a bs).glb = s.glb := by unfold storeBytes; dsimp only; split <;> rfl

theorem race_storeBytes (g : Nat) : (regionOf (storeBytes s a bs) g).race = (regionOf s g).race := by
  unfold storeBytes
  dsimp only
  split
  · exact view_updRegion (π := Region.race) (by intro; rfl) _ _ _
  · rfl

@[simp] theorem routeOf_storeBytes (r d : Nat) (p : Plane) : routeOf (storeBytes s a bs) r d p = routeOf s r d p :=
  routeOf_congr (congrArg _ (race_storeBytes s a bs r)) d p

@[simp] theorem raceTimeout_storeBytes (r : Nat) : raceTimeout (storeBytes s a bs) r = raceTimeout s r := by
  rw [raceTimeout, race_storeBytes, raceTimeout]
end

/-- Memory is `s`'s with `bs` put at `a`: those bytes read so, every other one as before. -/
theorem readByte_of_put {s t : State} {a : Nat} {bs : List Byte} (h : t.mem = Memory.put s.mem a bs) :
    (∀ i < bs.length, readByte t (a + i) = bs.getD i 0) ∧
    ∀ y, (y < a ∨ a + bs.length ≤ y) → readByte t y = readByte s y := by
  refine ⟨fun i hi => ?_, fun y hy => ?_⟩
  · rw [readByte, h, Memory.byte_put, dif_pos ⟨by omega, by omega⟩]
    simp [hi]
  · rw [readByte, h, Memory.byte_put_outside _ _ _ _ hy, readByte]

/-! ## What starts on a core that waits for nothing (06 R221, R222) -/

/-- `t` is `s` with its table of cores written again: every core reads as before. -/
def SameCores (s t : State) : Prop := t = { s with cores := t.cores } ∧ ∀ j, coreOf t j = coreOf s j

theorem SameCores.refl (s : State) : SameCores s s := ⟨rfl, fun _ => rfl⟩

theorem SameCores.trans {s t u : State} (h : SameCores s t) (k : SameCores t u) : SameCores s u :=
  ⟨by rw [k.1, h.1], fun j => (k.2 j).trans (h.2 j)⟩

theorem SameCores.mem {s t : State} (h : SameCores s t) : t.mem = s.mem := by rw [h.1]
theorem SameCores.race {s t : State} (h : SameCores s t) : t.race = s.race := by rw [h.1]

theorem sameCores_updCore {s : State} {c : Nat} {f : Core → Core} (h : f (coreOf s c) = coreOf s c) : SameCores s (updCore s c f) :=
  ⟨rfl, fun j => by rw [coreOf_updCore]; split <;> simp_all⟩

theorem finishRecv_of_unarmed {k : Core} (arms : k.arms = []) (w : Nat) : finishRecv w k = k := by
  simp [finishRecv, armOf, arms, Tbl.get_nil]

theorem armNext_of_unarmed {s : State} {c : Nat} (arms : (coreOf s c).arms = []) (w : Nat) : armNext s c w = s := by
  simp [armNext, armOf, arms, Tbl.get_nil]

theorem sameCores_armAll {s : State} {c : Nat} (arms : (coreOf s c).arms = []) : SameCores s (armAll s c) := by
  suffices ∀ ws : List Nat, SameCores s (ws.foldl (fun s w => armNext (updCore s c (finishRecv w)) c w) s) from this _
  intro ws
  induction ws generalizing s with
  | nil => exact .refl s
  | cons w ws ih =>
    have same : SameCores s (updCore s c (finishRecv w)) := sameCores_updCore (finishRecv_of_unarmed arms w)
    have still : (coreOf (updCore s c (finishRecv w)) c).arms = [] := by rw [same.2, arms]
    rw [List.foldl_cons, armNext_of_unarmed still]
    exact same.trans (ih still)

theorem startSends_of_none {s : State} {c : Nat} (sends : (coreOf s c).sends = []) (n : Nat) : startSends n s c = s := by
  cases n <;> simp [startSends, sends]

theorem sameCores_settle {s : State} {c : Nat} (arms : (coreOf s c).arms = []) (sends : (coreOf s c).sends = []) :
    SameCores s (settle s c) := by
  have first := sameCores_armAll arms
  rw [settle, startSends_of_none (by rw [first.2, sends])]
  exact first.trans (sameCores_armAll (by rw [first.2, arms]))

/-! ## An access that lands (05 R177, R180) -/

@[simp] theorem dropIncoming_mem (s : State) (acc : Nat) : (dropIncoming s acc).mem = s.mem := rfl
@[simp] theorem routeOf_dropIncoming (s : State) (acc r d : Nat) (p : Plane) : routeOf (dropIncoming s acc) r d p = routeOf s r d p := rfl

/-- The last byte is written, on a core with no RECV and no SEND: the RESPONSE is all that follows. -/
theorem finishIncoming_of_idle {s : State} {i : Incoming} (arms : (coreOf s i.core).arms = []) (sends : (coreOf s i.core).sends = [])
    (code : Code) : SameCores (respond (dropIncoming s i.acc) i.acc i.src i.core code) (finishIncoming s i code) := by
  have cores : coreOf (respond (dropIncoming s i.acc) i.acc i.src i.core code) i.core = coreOf s i.core := by
    rw [coreOf, respond_cores]; rfl
  have same := sameCores_updCore (s := respond (dropIncoming s i.acc) i.acc i.src i.core code) (c := i.core)
    (f := fun k => { k with arms := k.arms.map fun p =>
      if p.1 = i.win ∧ i.recv.isSome ∧ p.2.cur.map (·.seq) = i.recv then (p.1, { p.2 with openAccesses := p.2.openAccesses - 1 }) else p })
    (by rw [cores]; generalize coreOf s i.core = k at arms; cases k; simp_all)
  exact same.trans (sameCores_settle (by rw [same.2, cores, arms]) (by rw [same.2, cores, sends]))

/-- A PLAIN payload without damage lands: its bytes are stored, and it was the last one or the next is awaited. -/
theorem land_of_clean {s : State} {i : Incoming} (kind : i.kind = .write) (clean : s.poison = []) (bs : List Byte) :
    land s i bs [] =
      let t := storeBytes s (i.dest + i.got) bs
      let j := { i with got := i.got + bs.length, due := s.glb.time + raceTimeout s (i.core / 256) }
      if i.len ≤ j.got then finishIncoming t j (i.failed.getD .ok)
      else { t with race := { t.race with incoming := t.race.incoming.map fun x => if x.acc = i.acc then j else x } } := by
  have failed : (if i.failed.isSome then i.failed else none) = i.failed := by cases i.failed <;> rfl
  simp only [land, kind, reduceCtorEq, if_false, writePlain_of_clean clean, failed, storeBytes_glb, raceTimeout_storeBytes]

/-! ### A write of one packet -/

/-- The access of header `p` from core `src` as core `c` accepts it through an always armed window. -/
def acceptedWrite (p : Packet) (c : Nat) : Incoming :=
  { acc := p.acc, src := p.src, core := c, win := p.win, kind := p.kind, plane := p.plane, dest := p.dest, len := p.length, got := 0 }

/-- The state in which the payload of an accepted write lands. -/
def acceptedState (s : State) (p : Packet) (c : Nat) : State :=
  let s := raceCount s (c / 256) p.plane fun x => { x with ej := bump x.ej }
  { s with race := { s.race with incoming := s.race.incoming ++ [acceptedWrite p c] } }

theorem acceptAccess_of_armed {s : State} {p : Packet} {c : Nat} (kind : p.kind = .write) (armed : alwaysArmed s c p.win = true)
    (src : Nat) (ups : List Upset) : acceptAccess s p src c ups = land (acceptedState s p c) (acceptedWrite p c) p.payload ups := by
  simp [acceptAccess, armed, kind, acceptedState, acceptedWrite]

@[simp] theorem routeOf_acceptedState (s : State) (p : Packet) (c r d : Nat) (q : Plane) :
    routeOf (acceptedState s p c) r d q = routeOf s r d q := routeOf_raceCount s ..

/-- An access that was not known before, taken in and forgotten again, leaves the others. -/
theorem filter_append_of_fresh {l : List Incoming} {i : Incoming} (fresh : (l.find? fun x => x.acc == i.acc) = none) :
    ((l ++ [i]).filter fun x => x.acc ≠ i.acc) = l := by
  have others : ∀ x ∈ l, x.acc ≠ i.acc := by simpa using fresh
  simpa using others

theorem next_execAccessHeader_written {s : State} {p : Packet} {src c : Nat} (door : AtDoor s p src c)
    (accept : verdict s p src c = .accept) (kind : p.kind = .write) (whole : p.length = p.payload.length)
    (armed : alwaysArmed s c p.win = true) (clean : s.poison = []) (arms : (coreOf s c).arms = []) (sends : (coreOf s c).sends = [])
    (fresh : incomingOf s p.acc = none) (route : (routeOf s (c / 256) (src / 256) .c).mode ≠ 0) :
    Next (exec (.accessHeader p.id []) s) fun t =>
      (∀ i < p.payload.length, readByte t (p.dest + i) = p.payload.getD i 0) ∧
      (∀ y, (y < p.dest ∨ p.dest + p.payload.length ≤ y) → readByte t y = readByte s y) ∧
      Answered t p.acc .ok ∧ t.race.incoming = s.race.incoming := by
  have run := execAccessHeader_of_atDoor door []
  let before := acceptedState (dropPacket s p.id) p c
  let stored := storeBytes before (p.dest + 0) p.payload
  let j := { acceptedWrite p c with got := 0 + p.payload.length, due := before.glb.time + raceTimeout before (c / 256) }
  have lands : exec (.accessHeader p.id []) s = .next (finishIncoming stored j .ok) := by
    refine run.trans (congrArg _ ?_)
    rw [accept, afterVerdict, acceptAccess_of_armed kind (by simpa using armed)]
    exact (land_of_clean (s := before) (i := acceptedWrite p c) kind clean _).trans (if_pos (by simp [acceptedWrite, whole]))
  have cores : coreOf stored c = coreOf s c := by rw [coreOf, storeBytes_cores]; rfl
  have same := finishIncoming_of_idle (s := stored) (i := j) (by rw [← arms, ← cores]; rfl) (by rw [← sends, ← cores]; rfl) .ok
  have mem : (finishIncoming stored j .ok).mem = Memory.put s.mem p.dest p.payload := by
    rw [same.mem]; simp [stored, before, acceptedState]
  obtain ⟨bytes, others⟩ := readByte_of_put mem
  refine .of_eq lands ⟨bytes, others, ?_, ?_⟩
  · have answer := answered_respond (s := dropIncoming stored p.acc) (src := src) (c := c) (by simpa [stored, before] using route) p.acc .ok
    refine Answered.congr (by rw [← show p.src = .core src from door.2.1] at answer; exact answer) (congrArg _ same.race)
  · rw [same.race]
    simpa [dropIncoming, stored, before, acceptedState, j] using filter_append_of_fresh (i := acceptedWrite p c) fresh

/-! ## ACCESS_PACKET (05 R177, R581) -/

theorem execAccessPacket_of_arrived {s : State} {p : Packet} (packet : packetOf s p.id = some p) (here : arrived s p = true)
    (later : p.first = false) (kind : p.kind = .write ∨ p.kind = .accum) (ups : List Upset) :
    execAccessPacket p.id ups s = .next ((incomingOf s p.acc).elim (dropPacket s p.id) fun i => land (dropPacket s p.id) i p.payload ups) := by
  have asked : ¬(p.kind ≠ .write ∧ p.kind ≠ .accum) := by tauto
  simp only [execAccessPacket, packet]
  rw [if_neg (by simpa [here, later] using asked)]
  cases incomingOf s p.acc <;> rfl

/-- The entry found under an identifier, once it is changed and keeps the identifier. -/
theorem find?_map_update {l : List Incoming} {acc : Nat} {i j : Incoming} (found : (l.find? fun x => x.acc == acc) = some i)
    (same : j.acc = i.acc) : ((l.map fun x => if x.acc = i.acc then j else x).find? fun x => x.acc == acc) = some j := by
  have key : i.acc = acc := by simpa using List.find?_some found
  induction l with
  | nil => simp at found
  | cons x l ih =>
    by_cases hit : x.acc = acc
    · simp [hit, key, same]
    · simp_all

/-- A later packet of a write in progress that is not its last one writes its bytes after those already written (R177). -/
theorem next_execAccessPacket_writes {s : State} {p : Packet} {i : Incoming} (packet : packetOf s p.id = some p)
    (here : arrived s p = true) (later : p.first = false) (kind : p.kind = .write ∨ p.kind = .accum) (known : incomingOf s p.acc = some i)
    (write : i.kind = .write) (clean : s.poison = []) (more : i.got + p.payload.length < i.len) :
    Next (exec (.accessPacket p.id []) s) fun t =>
      t.cores = s.cores ∧ t.race.packets = others s p.id ∧
      incomingOf t p.acc = some { i with got := i.got + p.payload.length, due := s.glb.time + raceTimeout s (i.core / 256) } ∧
      (∀ k < p.payload.length, readByte t (i.dest + i.got + k) = p.payload.getD k 0) ∧
      ∀ y, (y < i.dest + i.got ∨ i.dest + i.got + p.payload.length ≤ y) → readByte t y = readByte s y := by
  have run := execAccessPacket_of_arrived packet here later kind []
  rw [known, Option.elim, land_of_clean (s := dropPacket s p.id) write clean] at run
  refine .of_eq (run.trans (congrArg _ (if_neg (Nat.not_le.2 more)))) ⟨by simp, by simp [dropPacket, others], ?_, ?_⟩
  · exact find?_map_update (by simpa [incomingOf] using known) rfl
  · exact readByte_of_put (by simp)

/-- Settles O23: what ACCESS_HEADER does by the verdict on the header, and what ACCESS_PACKET does by the access it belongs to. -/
theorem accessesAtTheirDestination : Obligations.AccessesAtTheirDestination := by
  refine ⟨fun s p src c door => ⟨fun absent => verdict_of_absent absent p src, fun present unsound => verdict_of_unsound present unsound src,
    verdict_of_realms, fun x refused route ups => next_execAccessHeader_refused door refused route ups,
    fun wait ups => next_execAccessHeader_waits door wait ups,
    fun accept kind whole _ armed clean arms sends fresh route =>
      next_execAccessHeader_written door accept kind whole armed clean arms sends fresh route⟩,
    fun s p packet here later kind => ⟨fun gone ups => ?_, fun i known write clean more =>
      next_execAccessPacket_writes packet here later kind known write clean more⟩⟩
  have run := execAccessPacket_of_arrived packet here later kind ups
  rw [gone, Option.elim] at run
  exact .of_eq run ⟨rfl, rfl⟩

end Sys2Proof.Machine

namespace Sys2Proof.Machine

/-!
## What the end of steps and requests spares (08 R284, R301, 13 R490-R498)

Stopping, failing and fencing step owners and ending their requests reaches far: cores, token pools, requests, pages, cached
entries, messages to partners, records, interrupts. It leaves what `spared` lists. One equation per operation, in the order in which the model
defines them.
-/

/-- What is known of each region's shape, the image slots, the Hopper's operation and which sessions are open. -/
def spared (s : State) : (Nat → RegShape) × Tbl Slot × HopOp × List (BitVec 32) :=
  (fun g => (regionOf s g).org, s.hop.slots, s.hop.op, s.sluice.sessions.map (·.id))

theorem org_of_spared {s t : State} (h : spared t = spared s) (g : Nat) : (regionOf t g).org = (regionOf s g).org :=
  congrFun (congrArg (·.1) h) g

theorem slots_of_spared {s t : State} (h : spared t = spared s) : t.hop.slots = s.hop.slots := congrArg (·.2.1) h

theorem op_of_spared {s t : State} (h : spared t = spared s) : t.hop.op = s.hop.op := congrArg (·.2.2.1) h

theorem sessionOf_eq_none_iff (s : State) (n : BitVec 32) : sessionOf s n = none ↔ n ∉ s.sluice.sessions.map (·.id) := by
  simp [sessionOf]

/-- No session has been opened. -/
theorem sessionOf_of_spared {s t : State} (h : spared t = spared s) {n : BitVec 32} (closed : sessionOf s n = none) : sessionOf t n = none := by
  rw [sessionOf_eq_none_iff] at closed ⊢
  rwa [show t.sluice.sessions.map (·.id) = s.sluice.sessions.map (·.id) from congrArg (·.2.2.2) h]

/-- `spared` rests on three fields. -/
theorem spared_congr {s t : State} (org : ∀ g, (regionOf t g).org = (regionOf s g).org) (slots : t.hop.slots = s.hop.slots)
    (op : t.hop.op = s.hop.op) (sluice : t.sluice = s.sluice) : spared t = spared s := by
  rw [spared, funext org, slots, op, sluice, spared]

theorem spared_of_fields {s t : State} (regions : t.regions = s.regions) (hop : t.hop = s.hop) (sluice : t.sluice = s.sluice) :
    spared t = spared s :=
  spared_congr (fun g => congrArg _ (regionOf_congr regions g)) (congrArg _ hop) (congrArg _ hop) sluice

@[simp] theorem spared_ite (p : Prop) [Decidable p] (a b : State) : spared (if p then a else b) = if p then spared a else spared b :=
  apply_ite ..

/-- The operation leaves what is spared. -/
def Spares (f : State → State) : Prop := ∀ s, spared (f s) = spared s

theorem spared_foldl {α : Type} {f : State → α → State} (h : ∀ a, Spares (f · a)) (l : List α) (s : State) :
    spared (l.foldl f s) = spared s := by
  induction l generalizing s with
  | nil => rfl
  | cons a l ih => exact (ih _).trans (h a s)

/-! ### Entries of the tables -/

section
variable (s : State) (i : Nat)
@[simp] theorem spared_updCore (f : Core → Core) : spared (updCore s i f) = spared s := rfl
@[simp] theorem spared_updMill (f : Mill → Mill) : spared (updMill s i f) = spared s := rfl
@[simp] theorem spared_updReq (f : Req → Req) : spared (updReq s i f) = spared s := rfl
@[simp] theorem spared_updPool (f : Pool → Pool) : spared (updPool s i f) = spared s := rfl
@[simp] theorem spared_updBatch (f : Batch → Batch) : spared (updBatch s i f) = spared s := rfl
@[simp] theorem spared_mpdCount (k n : Nat) : spared (mpdCount s i k n) = spared s := rfl
@[simp] theorem spared_portCount (k : Nat) : spared (portCount s i k) = spared s := rfl
@[simp] theorem spared_secCount : spared (secCount s i) = spared s := rfl
@[simp] theorem spared_writeBytes (bs : List Byte) : spared (writeBytes s i bs) = spared s := rfl
end

/-- A change of a region that leaves its shape. -/
theorem spared_updRegion {f : Region → Region} (org : ∀ x, (f x).org = x.org) (s : State) (r : Nat) : spared (updRegion s r f) = spared s :=
  spared_congr (view_updRegion org s r) rfl rfl rfl

theorem spared_updSession {f : Session → Session} (id : ∀ x, (f x).id = x.id) (s : State) (n : BitVec 32) :
    spared (updSession s n f) = spared s := by
  have ids : (updSession s n f).sluice.sessions.map (·.id) = s.sluice.sessions.map (·.id) := by
    simp only [updSession, List.map_map]
    exact List.map_congr_left fun x _ => by simp only [Function.comp_apply]; split <;> simp [id]
  rw [spared, ids]
  rfl

/-! ### Reports -/

@[simp] theorem spared_raiseIrq (s : State) (v : Nat) : spared (raiseIrq s v) = spared s :=
  spared_of_fields (by simp) (by simp) (by simp)

@[simp] theorem spared_logRec (s : State) (r : Rec) : spared (logRec s r) = spared s :=
  spared_congr (view_logRec logUnseen_org s r) (by simp) (by simp) (by simp)

@[simp] theorem spared_setDevState (s : State) (st : DevState) : spared (setDevState s st) = spared s := by
  unfold setDevState
  dsimp only
  split
  · rfl
  · rw [spared_raiseIrq]
    split <;> rfl

@[simp] theorem spared_refresh (s : State) : spared (refresh s) = spared s := by simp [refresh]

@[simp] theorem spared_moraine (s : State) (m : List MEntry) : spared { s with moraine := m } = spared s := rfl

@[simp] theorem spared_addMoraine (s : State) (e : MEntry) : spared (addMoraine s e) = spared s := by
  unfold addMoraine
  dsimp only
  split
  · simp
  · split
    · simp
    · split <;> simp

@[simp] theorem spared_out (s : State) (o : List Out) : spared { s with out := o } = spared s := rfl

/-! ### Messages to partners (10 R365) -/

@[simp] theorem spared_emitGml (s : State) (x : Session) (type flags : Nat) (seq : BitVec 32) (body : List Byte) :
    spared (emitGml s x type flags seq body) = spared s := by
  rw [emitGml, spared_secCount, spared_portCount, spared_out]
  exact spared_updSession (by intro; rfl) s x.id

@[simp] theorem spared_gmlSend (s : State) (n : BitVec 32) (type flags : Nat) (body : List Byte) :
    spared (gmlSend s n type flags body) = spared s := by
  unfold gmlSend
  dsimp only
  split
  · rfl
  · split
    · exact spared_updSession (by intro; rfl) s n
    · rw [spared_emitGml]
      exact spared_updSession (by intro; rfl) s n

@[simp] theorem spared_flushReq (n : Nat) (s : State) (q : Nat) : spared (flushReq n s q) = spared s := by
  induction n generalizing s with
  | zero => rfl
  | succ n ih =>
    simp only [flushReq]
    split <;> simp [ih]

@[simp] theorem spared_flush (s : State) (q : Nat) : spared (flush s q) = spared s := spared_flushReq ..

/-! ### Cached pages and requests (08 R284, R292, R301) -/

@[simp] theorem spared_writePfx (s : State) (m i : Nat) (e : PfxEntry) : spared (writePfx s m i e) = spared s := by
  unfold writePfx
  dsimp only
  split
  · rfl
  · split
    · rw [pfxLost, pfxRec, spared_logRec]
      exact spared_updRegion (by intro; rfl) ..
    · rw [spared_writeBytes]
      exact spared_updRegion (by intro; rfl) ..

@[simp] theorem spared_pfxRefs (s : State) (m i : Nat) (f : Nat → Nat) : spared (pfxRefs s m i f) = spared s := spared_writePfx ..

@[simp] theorem spared_dropDraft (s : State) (q : Nat) : spared (dropDraft s q) = spared s := by
  unfold dropDraft
  dsimp only
  split <;> simp

@[simp] theorem spared_dropPages (s : State) (q : Nat) : spared (dropPages s q) = spared s := by
  rw [dropPages, spared_dropDraft, spared_updReq, spared_updPool]
  exact spared_foldl (fun _ _ => spared_pfxRefs ..) _ s

@[simp] theorem spared_endReq (s : State) (q : Nat) (t : ReqSt) (code : Code) (park : Bool) :
    spared (endReq s q t code park) = spared s := by
  unfold endReq
  dsimp only
  cases t <;> simp [freeReq]

@[simp] theorem spared_letGo (s : State) (q : Nat) : spared (letGo s q) = spared s := by simp [letGo]

@[simp] theorem spared_endServing (s : State) (m : Nat) (code : Code) (parked : Bool) :
    spared (endServing s m code parked) = spared s := by
  rw [endServing, spared_updBatch]
  refine spared_foldl (fun q s => ?_) _ s
  dsimp only
  split <;> simp

@[simp] theorem spared_draftMillDown (s : State) (d : Nat) : spared (draftMillDown s d) = spared s := by
  rw [draftMillDown, spared_updBatch]
  exact spared_foldl (fun m s => spared_foldl (fun q s => by simp) _ s) _ s

@[simp] theorem spared_servingDown (s : State) (m : Nat) (code : Code) : spared (servingDown s m code) = spared s := by
  unfold servingDown
  split <;> simp

/-! ### Cores, fences and failures of a step (13 R490-R498) -/

@[simp] theorem spared_stopCore (s : State) (c : Nat) : spared (stopCore s c) = spared s := rfl

@[simp] theorem spared_stopOwner (s : State) (m : Nat) : spared (stopOwner s m) = spared s :=
  spared_foldl (fun _ _ => spared_stopCore ..) _ s

@[simp] theorem spared_giveUpStep (s : State) (m : Nat) : spared (giveUpStep s m) = spared s :=
  (spared_foldl (fun _ _ => spared_updCore ..) _ _).trans (spared_stopOwner s m)

@[simp] theorem spared_restoreCore (s : State) (c : Nat) : spared (restoreCore s c) = spared s := by
  rw [restoreCore, spared_updCore, returnTokens]
  exact spared_updRegion (by intro; rfl) ..

@[simp] theorem spared_liftFence (s : State) (m : Nat) : spared (liftFence s m) = spared s := by
  rw [liftFence, spared_refresh, spared_updMill]
  exact spared_foldl (fun _ _ => spared_restoreCore ..) _ s

@[simp] theorem spared_endDrain (s : State) (m : Nat) : spared (endDrain s m) = spared s := by simp [endDrain]

@[simp] theorem spared_cutDrain (s : State) (m : Nat) : spared (cutDrain s m) = spared s := by simp [cutDrain]

@[simp] theorem spared_enterFailed (s : State) (m : Nat) (code : Code) : spared (enterFailed s m code) = spared s := by simp [enterFailed]

@[simp] theorem spared_markFailure (s : State) (m : Nat) (c : Option Nat) (code : Code) : spared (markFailure s m c code) = spared s := by
  unfold markFailure
  dsimp only
  split <;> simp

@[simp] theorem spared_failOwner (s : State) (m : Nat) (c : Option Nat) (r : Rec) (lost tier4 : Bool) :
    spared (failOwner s m c r lost tier4) = spared s := by
  unfold failOwner
  extract_lets k r'
  split
  · simp
  · rename_i f s1 s2 named s3 s4 gone next h
    have marked : spared s2 = spared s := by simp [s2, s1]
    have suspect : spared s3 = spared s := by
      unfold s3
      split <;> simp [marked]
    have dead : spared s4 = spared s := by
      unfold s4
      split
      · split <;> simp [suspect]
      · exact suspect
    clear_value s2 s3 s4 next
    split
    · simp [marked]
    · cases next <;> simp [dead]

/-! ### Tier 4 (13 R509, R510) -/

@[simp] theorem spared_retireRow (s : State) (a : Nat) : spared (retireRow s a) = spared s := by
  have counted : ∀ f, spared (eccCount s a f) = spared s := fun f => spared_updRegion (by intro; rfl) ..
  simp [retireRow, counted]

@[simp] theorem spared_emptyPool (s : State) (m : Nat) : spared (emptyPool s m) = spared s := by
  rw [emptyPool, spared_updPool]
  exact (spared_foldl (fun _ _ => spared_writePfx ..) _ _).trans (spared_foldl (fun _ _ => by simp) _ s)

end Sys2Proof.Machine

namespace Sys2Proof.Machine

/-! ## SHARD_RELOAD (13 R510) -/

theorem slotOf_of_spared {s t : State} (h : spared t = spared s) (n : Nat) : slotOf t n = slotOf s n := by
  rw [slotOf, slots_of_spared h, slotOf]

/-- Nothing but the slot's STAGED is changed of what the end of its steps spares. -/
theorem spared_stageSlot (s : State) (n : Nat) : spared (stageSlot s n) = spared (updSlot s n fun x => { x with st := .staged }) := by
  rw [stageSlot, spared_refresh]
  exact spared_foldl (fun m s => by simp) _ _

theorem execShardReload_idle {s : State} {n : Fin 64}
    (idle : (slotOf s n).deadStacks = [] ∧ (slotOf s n).badBursts = [] ∨
      ((slotOf s n).st ≠ .loaded ∧ (slotOf s n).st ≠ .staged) ∨ s.hop.op ≠ .idle) : execShardReload n s = .next s := by
  refine congrArg Host.Outcome.next (if_pos ?_)
  obtain ⟨sound, bursts⟩ | ⟨loaded, staged⟩ | busy := idle
  · simp [sound, bursts]
  · simp [loaded, staged]
  · simp [busy]

/-- A slot whose shards `gone` are to be loaded again: nothing is due any more (R510 steps 2 and 3). -/
def reloaded (gone begun again : List Nat) (y : Slot) : Slot :=
  { y with loaded := y.loaded.filter (!gone.contains ·), deadStacks := [], badBursts := [], reloading := begun, resume := again }

/-- For bursts that cannot be read, with no dead stack: the slot is STAGED, the rows of the bursts are retired, the shards are marked, and the
pools of the serving mills `pools` are emptied; the weights are loaded at once where the session is open. -/
theorem execShardReload_bursts {s : State} {n : Fin 64} (sound : (slotOf s n).deadStacks = []) (bursts : (slotOf s n).badBursts ≠ [])
    (st : (slotOf s n).st = .loaded ∨ (slotOf s n).st = .staged) (idle : s.hop.op = .idle) :
    ∃ (bad gone begun again pools : List Nat) (fetchOnly : Bool),
      let t := pools.foldl emptyPool (updSlot (bad.foldl retireRow (stageSlot s n)) n (reloaded gone begun again))
      execShardReload n s = .next (if fetchOnly && (sessionOf t (slotOf s n).session).isSome
        then (beginWeights t n (slotOf s n).session 0).2 else t) := by
  have go : ¬((((slotOf s n).deadStacks.isEmpty && (slotOf s n).badBursts.isEmpty) ||
      (decide ((slotOf s n).st ≠ .loaded) && decide ((slotOf s n).st ≠ .staged)) || decide (s.hop.op ≠ .idle)) = true) := by
    obtain st | st := st <;> simp [bursts, st, idle]
  have run : execShardReload n s = _ := congrArg Host.Outcome.next (if_neg go)
  rw [sound] at run
  exact ⟨_, _, _, _, _, _, run⟩

theorem next_execShardReload_bursts {s : State} {n : Fin 64} (sound : (slotOf s n).deadStacks = []) (bursts : (slotOf s n).badBursts ≠ [])
    (st : (slotOf s n).st = .loaded ∨ (slotOf s n).st = .staged) (idle : s.hop.op = .idle)
    (closed : sessionOf s (slotOf s n).session = none) :
    Next (exec (.shardReload n) s) fun t =>
      (slotOf t n).st = .staged ∧ (slotOf t n).badBursts = [] ∧ (∀ i ∈ (slotOf t n).loaded, i ∈ (slotOf s n).loaded) ∧ t.hop.op = .idle := by
  obtain ⟨bad, gone, begun, again, pools, fetchOnly, run⟩ := execShardReload_bursts sound bursts st idle
  let staged := updSlot s n fun x => { x with st := .staged }
  let retired := bad.foldl retireRow (stageSlot s n)
  let marked := updSlot retired n (reloaded gone begun again)
  let done := pools.foldl emptyPool marked
  have hRetired : spared retired = spared staged := (spared_foldl (fun _ _ => spared_retireRow ..) _ _).trans (spared_stageSlot s n)
  have hDone : spared done = spared marked := spared_foldl (fun _ _ => spared_emptyPool ..) _ _
  have slot : slotOf done n = reloaded gone begun again { slotOf s n with st := .staged } := by
    rw [slotOf_of_spared hDone, slotOf_updSlot_same, slotOf_of_spared hRetired, slotOf_updSlot_same]
  have still : sessionOf done (slotOf s n).session = none :=
    sessionOf_of_spared hDone (sessionOf_of_spared (s := staged) (t := retired) hRetired closed)
  have op : done.hop.op = .idle := (op_of_spared hDone).trans ((op_of_spared hRetired).trans idle)
  refine .of_eq (run.trans (congrArg _ (if_neg (by simp [still, done, marked, retired])))) ?_
  exact ⟨by rw [slot]; rfl, by rw [slot]; rfl, fun i hi => by rw [slot] at hi; exact List.mem_of_mem_filter hi, op⟩

theorem shardReloadHolds : ShardReloadHolds := fun _ _ =>
  ⟨execShardReload_idle, fun sound bursts st idle closed => next_execShardReload_bursts sound bursts st idle closed⟩

end Sys2Proof.Machine

namespace Sys2Proof.Machine

/-! ## CORE_SHIFT (01 R20, R21, 13 R506, R507) -/

/-! ### The death of a core, recorded -/

/-- The record of a dead physical core, and its CORE entry in the Moraine map (R506, R517). -/
def noteDeath (s : State) (g p d : Nat) (code : Code) : State :=
  addMoraine (logRec s { code := code, cls := .tier, origin := .miller, phys := true, region := some g, row := some p, col := some d, syndrome := d })
    { kind := 1, source := 1, region := g, row := p, col := d }

theorem addMoraine_of_nil {s : State} (empty : s.moraine = []) (e : MEntry) :
    addMoraine s e = { s with moraine := [{ e with boot := s.bootno }] } := by
  simp [addMoraine, empty]

theorem moraine_noteDeath {s : State} (empty : s.moraine = []) (g p d : Nat) (code : Code) :
    (noteDeath s g p d code).moraine = [{ kind := 1, source := 1, region := g, row := p, col := d, boot := s.bootno }] := by
  rw [noteDeath, addMoraine_of_nil (by simpa using empty)]
  simp

@[simp] theorem noteDeath_mem (s : State) (g p d : Nat) (code : Code) : (noteDeath s g p d code).mem = s.mem := by simp [noteDeath]
@[simp] theorem noteDeath_cores (s : State) (g p d : Nat) (code : Code) : (noteDeath s g p d code).cores = s.cores := by simp [noteDeath]

@[simp] theorem org_noteDeath (s : State) (g p d : Nat) (code : Code) (r : Nat) :
    (regionOf (noteDeath s g p d code) r).org = (regionOf s r).org :=
  org_of_spared (by simp [noteDeath]) r

/-! ### Rows -/

theorem rowOf_updRow (s : State) (g p : Nat) (f : Row → Row) (q : Nat) :
    rowOf (regionOf (updRow s g p f) g).org q = if q = p then f (rowOf (regionOf s g).org p) else rowOf (regionOf s g).org q := by
  simp [updRow, rowOf, Tbl.get_upd]

/-! ### The command, by what it finds -/

theorem execCoreShift_of_dropped {s : State} {r : RegionId} {row : Fin 16} (dropped : logRow (regionOf s r).org row = none)
    (col : Fin 17) (u : Bool) : execCoreShift r row col u s = .next s := by
  simp [execCoreShift, dropped]

section
variable {s : State} {r : RegionId} {row : Fin 16} {col : Fin 17} {y : Nat} (serves : logRow (regionOf s r).org row = some y)
include serves

/-- The core is out of its row already. -/
theorem execCoreShift_of_out (out : (rowOf (regionOf s r).org row).outCol = col.val) (low : col.val < 16) (u : Bool) :
    execCoreShift r row col u s = .next s := by
  simp [execCoreShift, serves, out, low]

/-- A spare that serves no column. -/
theorem execCoreShift_of_spare (spare : col.val = 16) (unused : (rowOf (regionOf s r).org row).outCol = 16)
    (sound : (rowOf (regionOf s r).org row).defect = false) (u : Bool) :
    execCoreShift r row col u s = .next (updRow (noteDeath s r row col .ok) r row fun w => { w with defect := true }) := by
  simp [execCoreShift, serves, spare, unused, sound, noteDeath]

section
variable (serving : (rowOf (regionOf s r).org row).outCol ≠ col.val) (used : col.val < 16 ∨ (rowOf (regionOf s r).org row).outCol ≠ 16)
include serving used

/-- A second dead core of a row. -/
theorem execCoreShift_of_defect (defect : (rowOf (regionOf s r).org row).defect = true) (u : Bool) :
    execCoreShift r row col u s = .next (dropRow (noteDeath s r row col .capacity) r row) := by
  have busy : ¬(col.val = 16 ∧ (rowOf (regionOf s r).org row).outCol = 16) := by omega
  simp [execCoreShift, serves, serving, busy, defect, noteDeath]

/-- With no step owner in the row it shifts at once (R21, R507). -/
theorem execCoreShift_of_free (sound : (rowOf (regionOf s r).org row).defect = false) (noOwner : ownersIn s r = []) :
    execCoreShift r row col false s = .next (updCore (takeOut (noteDeath s r row col .ok) r row col false) (256 * r + 16 * y + col)
      fun k => { k with dead := false, residue := false }) := by
  have busy : ¬(col.val = 16 ∧ (rowOf (regionOf s r).org row).outCol = 16) := by omega
  simp [execCoreShift, serves, serving, busy, sound, noOwner, noteDeath]

/-- A step owner with cores in the row is stopped first, and while accesses of its cores are unanswered nothing else happens (R507). -/
theorem execCoreShift_of_unsettled (sound : (rowOf (regionOf s r).org row).defect = false) {m : Nat} (owner : ownersIn s r = [m])
    (inRow : ∃ c ∈ coresOf s m, c / 16 = 16 * r.val + y) (waits : settled (stopForShift s m) (coresOf (stopForShift s m) m) = false)
    (u : Bool) : execCoreShift r row col u s = .next (stopForShift s m) := by
  have busy : ¬(col.val = 16 ∧ (rowOf (regionOf s r).org row).outCol = 16) := by omega
  have mine : (coresOf s m).any (fun c => c / 16 == 16 * r.val + y) = true := by simpa using inRow
  simp [execCoreShift, serves, serving, busy, sound, owner, mine, waits]

end
end

/-! ### A row that is dropped (R22, R28) -/

@[simp] theorem hopEnd_regions (s : State) (code : Code) (sect record : Nat) : (hopEnd s code sect record).regions = s.regions := by
  unfold hopEnd
  dsimp only
  rw [raiseIrq_regions]
  split <;> rfl

@[simp] theorem stopLoading_regions (s : State) (g : Nat) (code : Code) : (stopLoading s g code).regions = s.regions := by
  unfold stopLoading
  split
  · rfl
  · rw [hopEnd_regions]; rfl

theorem org_shrinkSlot (g y : Nat) (s : State) (n r : Nat) : (regionOf (shrinkSlot g y s n) r).org = (regionOf s r).org := by
  unfold shrinkSlot
  extract_lets on record noted
  refine (org_of_spared (spared_foldl (fun m s => ?_) _ _) r).trans (by unfold noted; split <;> rfl)
  dsimp only
  split
  · split
    · rfl
    · split <;> simp
  · split <;> simp

theorem org_foldl_shrinkSlot (g y : Nat) (ns : List Nat) (s : State) (r : Nat) :
    (regionOf (ns.foldl (shrinkSlot g y) s) r).org = (regionOf s r).org := by
  induction ns generalizing s with
  | nil => rfl
  | cons n ns ih => rw [List.foldl_cons, ih, org_shrinkSlot]

/-- Where the rows of a region stand: its shape, the row it has dropped, and what is known of each row. -/
def layout (x : Region) : Shape × Nat × Tbl Row := (x.org.shape, x.org.dropRow, x.org.rows)

theorem layout_of_org {x z : Region} (h : x.org = z.org) : layout x = layout z := by rw [layout, h, layout]

/-- The cores of the rows below a dropped row get other names; how the rows stand is left. -/
theorem layout_dropLogical (s : State) (g y r : Nat) : layout (regionOf (dropLogical s g y) r) = layout (regionOf s r) := by
  have slots : ∀ (ns : List Nat) (f : Slot → Slot) (s : State), (ns.foldl (fun s n => updSlot s n f) s).regions = s.regions := by
    intro ns f
    induction ns with
    | nil => exact fun _ => rfl
    | cons n ns ih => exact fun s => ih _
  unfold dropLogical
  extract_lets f moved named
  refine (view_updRegion (by intro; rfl) _ _ _).trans ((view_updRegion (by intro; rfl) _ _ _).trans ?_)
  exact congrArg layout (regionOf_congr ((slots _ _ _).trans rfl) r)

/-- A region that is FULL is SHORT without the row that is dropped (R22, R28). -/
theorem layout_dropRow_of_full {s : State} {g p : Nat} (full : (regionOf s g).org.shape = .full) :
    (regionOf (dropRow s g p) g).org.shape = .short ∧ (regionOf (dropRow s g p) g).org.dropRow = p ∧
    (rowOf (regionOf (dropRow s g p) g).org p).outCol = 31 := by
  have stands : layout (regionOf (dropRow s g p) g) =
      (.short, p, Tbl.upd {} (regionOf s g).org.rows p fun r => { r with outCol := 31, stackDead := false, defect := true }) := by
    unfold dropRow
    dsimp only
    rw [full]
    dsimp only
    rw [regionOf_congr (refresh_regions _), layout_dropLogical, layout_of_org (org_foldl_shrinkSlot ..),
      regionOf_congr (stopLoading_regions ..), regionRec, layout_of_org (view_logRec logUnseen_org ..)]
    simp [layout, updRow]
  obtain ⟨shape, row, rows⟩ : _ ∧ _ ∧ _ := by simpa [layout] using stands
  exact ⟨shape, row, by rw [rowOf, rows, Tbl.get_upd_same]⟩

/-! ### The cores of a mill that is changed (01 R33-R38) -/

theorem Tbl.mem_set_self {α : Type} [DecidableEq α] {d v : α} (h : v ≠ d) (t : Tbl α) (k : Nat) : (k, v) ∈ Tbl.set d t k v := by
  induction t with
  | nil => simp [Tbl.set, h]
  | cons p t ih => obtain ⟨i, u⟩ := p; unfold Tbl.set; split <;> simp_all; split <;> simp

theorem Tbl.mem_set_other {α : Type} [DecidableEq α] {d v : α} (h : v ≠ d) {t : Tbl α} {k : Nat} {p : Nat × α} (hp : p ∈ t)
    (other : p.1 ≠ k) : p ∈ Tbl.set d t k v := by
  induction t with
  | nil => cases hp
  | cons q t ih =>
    obtain ⟨i, u⟩ := q
    obtain rfl | hp := List.mem_cons.1 hp
    · unfold Tbl.set; split <;> simp_all
    · unfold Tbl.set; split <;> simp_all; split <;> simp_all

theorem Tbl.length_le_length_set {α : Type} [DecidableEq α] {d v : α} (h : v ≠ d) (t : Tbl α) (k : Nat) :
    t.length ≤ (Tbl.set d t k v).length := by
  induction t with
  | nil => simp
  | cons p t ih => obtain ⟨i, u⟩ := p; unfold Tbl.set; split <;> simp_all; split <;> simp

theorem mem_insertNat (n : Nat) (l : List Nat) (x : Nat) : x ∈ insertNat n l ↔ x = n ∨ x ∈ l := by
  induction l with
  | nil => simp [insertNat]
  | cons k ks ih =>
    unfold insertNat
    split
    · simp
    · split
      · next h => subst h; simp
      · simp [ih]; tauto

theorem mem_sortNat (l : List Nat) (x : Nat) : x ∈ sortNat l ↔ x ∈ l := by
  have into : ∀ acc, x ∈ l.foldl (fun acc n => insertNat n acc) acc ↔ x ∈ acc ∨ x ∈ l := by
    induction l with
    | nil => simp
    | cons n ns ih => intro acc; rw [List.foldl_cons, ih, mem_insertNat, List.mem_cons]; tauto
  simpa [sortNat] using into []

theorem mem_coresOf (s : State) (m c : Nat) : c ∈ coresOf s m ↔ ∃ k ∈ descendants s m, c ∈ rectCores (millOf s k).cfg := by
  simp [coresOf, mem_sortNat]

/-- A chain that may go on further holds what it held. -/
theorem chainOf_subset (s : State) {n k : Nat} (h : n ≤ k) (m : Nat) : chainOf s n m ⊆ chainOf s k m := by
  induction n generalizing k m with
  | zero => exact List.nil_subset _
  | succ n ih =>
    obtain ⟨k, rfl⟩ : ∃ j, k = j + 1 := ⟨k - 1, by omega⟩
    simp only [chainOf]
    split
    · exact List.Subset.refl _
    · exact List.cons_subset_cons _ (ih (by omega) _)

section
variable {s : State} {m : Nat} {f : Mill → Mill} (cfg : (f (millOf s m)).cfg = (millOf s m).cfg) (used : (f (millOf s m)).st ≠ .unused)
include cfg

theorem cfg_updMill (k : Nat) : (millOf (updMill s m f) k).cfg = (millOf s k).cfg := by
  by_cases h : k = m
  · rw [h, millOf_updMill_same, cfg]
  · rw [millOf_updMill_other _ _ _ _ h]

theorem chainOf_updMill (n k : Nat) : chainOf (updMill s m f) n k = chainOf s n k := by
  induction n generalizing k with
  | zero => rfl
  | succ n ih => simp only [chainOf, cfg_updMill cfg, ih]

omit cfg in
include used in
theorem ne_fresh_of_used : f (millOf s m) ≠ {} := fun fresh => used (by rw [fresh])

include used

theorem beneath_updMill {k j : Nat} (h : beneath s k j = true) : beneath (updMill s m f) k j = true := by
  have longer : s.mills.length ≤ (updMill s m f).mills.length := Tbl.length_le_length_set (ne_fresh_of_used used) ..
  simp only [beneath, chain, chainOf_updMill cfg, List.contains_iff_mem] at h ⊢
  exact chainOf_subset s (by omega) j h

/-- A mill that is in use after the change keeps its place in the tree, and every mill keeps the cores it has. -/
theorem coresOf_subset_updMill (k : Nat) : coresOf s k ⊆ coresOf (updMill s m f) k := by
  intro c hc
  obtain ⟨j, hj, rect⟩ := (mem_coresOf ..).1 hc
  refine (mem_coresOf ..).2 ⟨j, ?_, by rwa [cfg_updMill cfg]⟩
  simp only [descendants, List.mem_map, List.mem_filter, Bool.and_eq_true, decide_eq_true_eq] at hj ⊢
  obtain ⟨p, ⟨listed, inUse, below⟩, rfl⟩ := hj
  have below := beneath_updMill cfg used below
  by_cases same : p.1 = m
  · exact ⟨(m, f (millOf s m)), ⟨Tbl.mem_set_self (ne_fresh_of_used used) .., used, same ▸ below⟩, same.symm⟩
  · exact ⟨p, ⟨Tbl.mem_set_other (ne_fresh_of_used used) listed same, inUse, below⟩, rfl⟩

end

/-! ### The stop of a step owner for a shift (R507 step 1) -/

/-- Step owner `m` fenced without drain for a shift of a row. -/
def fencedForShift (k : Mill) : Mill := { k with st := .fenced, dstate := .fenced, shiftFence := true, startAt := none, ended := [] }

theorem fencedForShift_eq (k : Mill) :
    fencedForShift k = { k with st := .fenced, dstate := .fenced, shiftFence := true, startAt := none, ended := [] } := rfl

/-- A step that is running is stopped and kept, for tier 3. -/
theorem stopForShift_of_running {s : State} {m : Nat} (opened : (millOf s m).dstate = .opened) (free : (millOf s m).shiftFence = false)
    (running : (millOf s m).st = .running) (inStep : (millOf s m).inStep = true) :
    stopForShift s m = tierRec (refresh (updMill (stopOwner s m) m fencedForShift)) m 3 .ok := by
  simp [stopForShift, opened, free, running, inStep, funext fencedForShift_eq]

/-- A record that names no region enters the global ring alone. -/
theorem logRec_regions_of_none {r : Rec} (unnamed : r.region = none) (s : State) : (logRec s r).regions = s.regions := by
  unfold logRec
  dsimp only
  rw [unnamed]
  exact raiseIrq_regions ..

/-- Core `c` neither runs nor has been halted. -/
def Rests (s : State) (c : Nat) : Prop := (coreOf s c).scc.working = false

theorem rests_stopCore (s : State) (c : Nat) : Rests (stopCore s c) c := by
  by_cases outside : (coreOf s c).scc.run = .outside <;> simp [Rests, stopCore, Scc.working, outside]

theorem Rests.stopCore {s : State} {c : Nat} (h : Rests s c) (d : Nat) : Rests (stopCore s d) c := by
  by_cases same : c = d
  · exact same ▸ rests_stopCore s c
  · rwa [Rests, stopCore_other _ _ _ same]

theorem rests_foldl_stopCore {cs : List Nat} {c : Nat} {s : State} (h : c ∈ cs ∨ Rests s c) : Rests (cs.foldl Machine.stopCore s) c := by
  induction cs generalizing s with
  | nil => exact h.resolve_left (by simp)
  | cons d cs ih =>
    refine ih ?_
    obtain listed | rests := h
    · obtain rfl | later := List.mem_cons.1 listed
      · exact .inr (rests_stopCore s c)
      · exact .inl later
    · exact .inr (rests.stopCore d)

theorem stopOwner_mills (s : State) (m : Nat) : (stopOwner s m).mills = s.mills := by simp [stopOwner]

/-- Accesses that are unanswered before the cores stop are unanswered after it (R507). -/
theorem settled_eq_false_of_subset {s t : State} {cs ds : List Nat} (race : t.race = s.race) (more : cs ⊆ ds) (h : settled s cs = false) :
    settled t ds = false := by
  simp only [settled, race, List.all_eq_false] at h ⊢
  obtain ⟨a, ha, mine⟩ := h
  refine ⟨a, ha, ?_⟩
  cases src : a.src <;> simp_all
  exact more mine

section
variable {s : State} {m : Nat} (opened : (millOf s m).dstate = .opened) (free : (millOf s m).shiftFence = false)
  (running : (millOf s m).st = .running) (inStep : (millOf s m).inStep = true)
include opened free running inStep

theorem mills_stopForShift : (stopForShift s m).mills = (updMill s m fencedForShift).mills := by
  rw [stopForShift_of_running opened free running inStep]
  simp [tierRec, updMill, stopOwner_mills]

theorem settled_stopForShift (waits : settled s (coresOf s m) = false) :
    settled (stopForShift s m) (coresOf (stopForShift s m) m) = false := by
  rw [coresOf_congr (mills_stopForShift opened free running inStep)]
  refine settled_eq_false_of_subset ?_ (coresOf_subset_updMill rfl (by simp [fencedForShift]) m) waits
  rw [stopForShift_of_running opened free running inStep]
  simp [tierRec, stopOwner]

theorem stopForShift_facts : let t := stopForShift s m
    (millOf t m).st = .fenced ∧ (millOf t m).dstate = .fenced ∧ (millOf t m).shiftFence = true ∧ (millOf t m).inStep = true ∧
    t.regions = s.regions ∧ t.moraine = s.moraine ∧ t.mem = s.mem ∧ ∀ c ∈ coresOf s m, (coreOf t c).scc.working = false := by
  have mill : millOf (stopForShift s m) m = fencedForShift (millOf s m) := by
    rw [millOf_congr (mills_stopForShift opened free running inStep), millOf_updMill_same]
  refine ⟨by rw [mill]; rfl, by rw [mill]; rfl, by rw [mill]; rfl, by rw [mill]; exact inStep, ?_, ?_, ?_, fun c hc => ?_⟩ <;>
    rw [stopForShift_of_running opened free running inStep]
  · rw [tierRec, logRec_regions_of_none rfl]
    simp [stopOwner]
  · simp [tierRec, stopOwner]
  · simp [tierRec, stopOwner]
  · have rests : Rests (stopOwner s m) c := rests_foldl_stopCore (.inl hc)
    simpa [Rests, coreOf, tierRec] using rests

end

/-! ### The statement -/

theorem coreShiftHolds : CoreShiftHolds := by
  refine ⟨fun s r row col u dropped => execCoreShift_of_dropped dropped col u, fun s r row col y serves empty => ?_⟩
  intro w listed
  have death : ∀ code, listed (noteDeath s r row col code) := moraine_noteDeath empty r row col
  refine ⟨fun out low u => execCoreShift_of_out serves out low u, fun spare unused sound u => ?_, fun serving used sound noOwner => ?_,
    fun m serving used sound owner inRow waits opened free running inStep u => ?_, fun serving low defect full u => ?_⟩
  · refine .of_eq (execCoreShift_of_spare serves spare unused sound u) ⟨death .ok, ?_, by simp, by simp⟩
    rw [rowOf_updRow, if_pos rfl, org_noteDeath]
  · refine .of_eq (execCoreShift_of_free serves serving used sound noOwner) ⟨death .ok, ?_, by simp [takeOut], fun p other => ?_⟩
    · rw [regionOf_congr (updCore_regions ..), takeOut, rowOf_updRow, if_pos rfl]
    · rw [regionOf_congr (updCore_regions ..), takeOut, rowOf_updRow, if_neg other, org_noteDeath]
  · exact .of_eq (execCoreShift_of_unsettled serves serving used sound owner inRow
      (settled_stopForShift opened free running inStep waits) u) (stopForShift_facts opened free running inStep)
  · exact .of_eq (execCoreShift_of_defect serves serving (.inl low) defect u) (layout_dropRow_of_full (by rw [org_noteDeath]; exact full))

/-- Settles O30: each outcome of CORE_SHIFT from the equation of its case, and SHARD_RELOAD from what the end of steps and requests spares. -/
theorem coreShiftAndShardReload : Obligations.CoreShiftAndShardReload := ⟨coreShiftHolds, shardReloadHolds⟩

end Sys2Proof.Machine

namespace Sys2Proof.Machine

/-! ## The turn of a slot (06 R199, R203, R204) -/

/-- A slot whose turn it is does its work on the state in which it has had its turn. -/
theorem turn_of_takesEffect {s : State} {c : CoreId} {k : Fin 4} {i : Instr} (now : TakesEffect s c k i) (f : State → State) :
    turn s c k i f = .next (f (begun s c k)) := by
  obtain ⟨issues, inside, inTurn, free⟩ := now
  rw [turn, if_neg (by simp [issues]), if_neg (Nat.not_le.mpr inside), if_neg (by simp [inTurn])]
  cases fresh : (coreOf s c).scc.done with
  | nil => simp [free fresh]
  | cons => simp

theorem turn12_of_takesEffect {s : State} {c : CoreId} {i : Instr} (now : TakesEffect s c (slot12 s c i) i) (f : State → State) :
    turn12 s c i f = .next (f (begun s c (slot12 s c i))) := turn_of_takesEffect now f

/-! ## One core and one engine of the state -/

theorem OnlyCore.updCore (s : State) (c : Nat) (f : Core → Core) : OnlyCore c s (updCore s c f) :=
  ⟨rfl, fun j other => coreOf_updCore_other s c f j other⟩

theorem OnlyCore.updEng (s : State) (c : Nat) (e : Eng) (f : EngSt → EngSt) : OnlyCore c s (updEng s c e f) :=
  OnlyCore.updCore ..

theorem OnlyCore.trans {c : Nat} {s t u : State} (first : OnlyCore c s t) (second : OnlyCore c t u) : OnlyCore c s u :=
  ⟨second.1.trans (by rw [first.1]), fun j other => (second.2 j other).trans (first.2 j other)⟩

theorem onlyCore_begun (s : State) (c k : Nat) : OnlyCore c s (begun s c k) := OnlyCore.updCore ..

theorem Eng.num_injective : Function.Injective Eng.num := by
  intro e f same
  cases e <;> cases f <;> simp_all [Eng.num]

section
variable {k l : Core} {e : Eng} {f : EngSt → EngSt} (changed : l.engs = Tbl.upd {} k.engs e.num f)
include changed

theorem engOf_same_of_upd : engOf l e = f (engOf k e) := by rw [engOf, changed, Tbl.get_upd_same, engOf]

theorem engOf_other_of_upd {g : Eng} (other : g ≠ e) : engOf l g = engOf k g := by
  rw [engOf, changed, Tbl.get_upd_other _ _ _ _ _ (Eng.num_injective.ne other), engOf]

end

theorem coreOf_updEng_same (s : State) (c : Nat) (e : Eng) (f : EngSt → EngSt) :
    coreOf (updEng s c e f) c = { coreOf s c with engs := Tbl.upd {} (coreOf s c).engs e.num f } := coreOf_updCore_same ..

@[simp] theorem engOf_updEng_same (s : State) (c : Nat) (e : Eng) (f : EngSt → EngSt) :
    engOf (coreOf (updEng s c e f) c) e = f (engOf (coreOf s c) e) := engOf_same_of_upd (by rw [coreOf_updEng_same])

theorem engOf_updEng_other (s : State) (c : Nat) {e g : Eng} (other : g ≠ e) (f : EngSt → EngSt) :
    engOf (coreOf (updEng s c e f) c) g = engOf (coreOf s c) g := engOf_other_of_upd (by rw [coreOf_updEng_same]) other

/-! ## ISSUE (06 R41, R42, R204, R211) -/

/-- The descriptor that an ISSUE in the next slot brings: the words of its four scalars (R42). -/
def issuedDesc (k : Core) (sg : Nat) : Desc :=
  { w0 := sreg k (4 * sg), w1 := sreg k (4 * sg + 1), w2 := sreg k (4 * sg + 2), w3 := sreg k (4 * sg + 3), pc := k.scc.pc, seq := k.seq }

/-- The operation of descriptor `d` enters the scoreboard; one without work names no handle (R45). -/
def pushDesc (p : Plan) (e : Eng) (d : Desc) (k : Core) : Core :=
  if p.counts.any fun n => n.1 == 0 then pushOp k [] [] [] else pushOp k p.reads p.writes (addsInto e d)

/-- An operation that enters the scoreboard takes a sequence number; nothing else of the core differs. -/
theorem pushDesc_eq (p : Plan) (e : Eng) (d : Desc) (k : Core) :
    pushDesc p e d k = { k with ops := (pushDesc p e d k).ops, seq := k.seq + 1 } := by
  unfold pushDesc
  split <;> rfl

theorem exec_issueCommand (e : Eng) (c : CoreId) (sg : Fin 8) (s : State) :
    exec (issueCommand e c sg) s = issueTo e c sg (issueCommand e c sg) s := by cases e <;> rfl

theorem waitsFor_issueCommand (s : State) (c : CoreId) (e : Eng) (sg : Fin 8) :
    waitsFor s c (issueCommand e c sg) =
      if (engOf (coreOf s c) e).queue.length + issuesTo s c e ≤ 4 then none else some (.queue, 3, e.num) := by cases e <;> rfl

/-- What an ISSUE does to the state in which its slot has had its turn. -/
theorem issueTo_of_takesEffect {s : State} {c : CoreId} {e : Eng} {i : Instr} (now : TakesEffect s c (slot12 s c i) i) (sg : Nat) :
    let u := begun s c (slot12 s c i)
    let d := issuedDesc (coreOf u c) sg
    issueTo e c sg i s =
      .next (updEng (updCore u c (pushDesc (planOf u c e d) e d)) c e fun x => { x with queue := x.queue ++ [d] }) :=
  turn12_of_takesEffect now _

/-- Settles O11: an ISSUE is the scoreboard's entry and one descriptor more in the queue. -/
theorem issueQueuesDescriptor : Obligations.IssueQueuesDescriptor := by
  intro s c sg e i k d
  refine ⟨waitsFor_issueCommand s c e sg, fun now => ?_⟩
  let u := begun s c (slot12 s c i)
  let v := updCore u c (pushDesc (planOf u c e d) e d)
  have pushed : coreOf v c = { k with ops := (coreOf v c).ops, seq := k.seq + 1 } := by
    rw [coreOf_updCore_same]
    exact pushDesc_eq ..
  have engine : ∀ f, engOf (coreOf v c) f = engOf k f := fun f => by rw [pushed, engOf, engOf]
  refine .of_eq ((exec_issueCommand e c sg s).trans (issueTo_of_takesEffect now sg)) ⟨?_, ?_, ?_, ?_, ?_, fun f other => ?_⟩
  · exact ((onlyCore_begun s c _).trans (.updCore ..)).trans (.updEng ..)
  · exact (congrArg _ (coreOf_updEng_same v c e _)).trans (by rw [pushed])
  · exact (congrArg _ (coreOf_updEng_same v c e _)).trans (by rw [pushed])
  · exact (congrArg _ (coreOf_updEng_same v c e _)).trans (by rw [pushed])
  · exact (engOf_updEng_same v c e _).trans (by rw [engine e]; rfl)
  · exact (engOf_updEng_other v c other _).trans (engine f)

end Sys2Proof.Machine

namespace Sys2Proof.Machine

/-! ## The start of a descriptor (02 R45, R78, R577) -/

/-- Every count of `d` is in range (R577 step 2). -/
def CountsInRange (s : State) (c : Nat) (e : Eng) (d : Desc) : Prop := ∀ n ∈ (planOf s c e d).counts, countBad n = false

/-- A sound descriptor with a count of 0 (R45). -/
def NoWork (s : State) (c : Nat) (e : Eng) (d : Desc) : Prop :=
  EncodingOk s c e d ∧ CountsInRange s c e d ∧ ∃ n ∈ (planOf s c e d).counts, n.1 = 0

/-- A descriptor without work leaves its queue and the scoreboard, with its event and counter (R43, R45). -/
def dropNoWork (s : State) (c : Nat) (e : Eng) (d : Desc) (rest : List Desc) : State :=
  updCore s c fun k =>
    dropOp (signalHeader { k with engs := Tbl.upd {} k.engs e.num fun x => { x with queue := rest } } d.w0) d.seq

/-- The byte ranges that the operands of `d` write. -/
def writtenRanges (s : State) (c : Nat) (e : Eng) (d : Desc) : Ranges :=
  ((planOf s c e d).operands.filter (·.wr)).map fun x => operandRange s c x

/-- The byte ranges that `d` reads before data move. -/
def readRanges (s : State) (c : Nat) (e : Eng) (d : Desc) : Ranges :=
  ((planOf s c e d).operands.filter (·.rd)).flatMap (operandReads s c) ++ (planOf s c e d).lists

/-- Engine `e` runs `d` from now on, after work that began in `s` and ended in `t`. -/
def launch (s t : State) (c : Nat) (e : Eng) (d : Desc) (rest : List Desc) (tokens : Nat) : State :=
  updEng t c e fun x => { x with queue := rest, run := some { desc := d, tokens := tokens, msgs := (s.ids, t.ids) } }

/-- What is left of a start when nothing holds `d` back and its encoding and counts are sound: the checks of its operands and of what it
reads, and its work. -/
def carryOut (s : State) (c : Nat) (e : Eng) (d : Desc) (rest : List Desc) (structs : State → Desc → Option Fail)
    (run : State → Desc → State × Option Fail) (ups : List Upset) : State :=
  let tokens := (planOf s c e d).tokens
  match checkOperands s c (planOf s c e d).operands with
  | some f => failDesc s c e d f
  | none => match structs s d with
    | some f => failDesc s c e d f
    | none => match meetReads s (readRanges s c e d) ups with
      | (s, some f) => failDesc s c e d f
      | (u, none) => match meetWrites u (writtenRanges s c e d) (unmet (readRanges s c e d) ups) with
        | (s, some f) => failDesc s c e d f
        | (s, none) => match run s d with
          | (t, some f) => failDesc t c e d f
          | (t, none) => launch s t c e d rest tokens

theorem encodingOk_iff (s : State) (c : Nat) (e : Eng) (d : Desc) : EncodingOk s c e d ↔
    ((planOf s c e d).encoding && decide (bits d.w0 0 4 = e.num) && decide (bits d.w0 20 12 = 0)) = true := by
  simp [EncodingOk, and_assoc]

theorem countsInRange_iff (s : State) (c : Nat) (e : Eng) (d : Desc) :
    CountsInRange s c e d ↔ (!(planOf s c e d).counts.any countBad) = true := by simp [CountsInRange]

theorem noWork_iff (s : State) (c : Nat) (e : Eng) (d : Desc) : NoWork s c e d ↔
    ((planOf s c e d).encoding && decide (bits d.w0 0 4 = e.num) && decide (bits d.w0 20 12 = 0) &&
      !(planOf s c e d).counts.any countBad && (planOf s c e d).counts.any fun n => n.1 == 0) = true := by
  simp only [Bool.and_eq_true (_ && !_), Bool.and_eq_true _ (!_), ← encodingOk_iff, ← countsInRange_iff]
  simp [NoWork, and_assoc]

theorem unhindered_iff (s : State) (c : Nat) (e : Eng) (d : Desc) : Unhindered s c e d ↔
    (!mayStart s c d.seq (planOf s c e d).reads (planOf s c e d).writes
        (match (coreOf s c).ops.find? fun o => o.seq == d.seq with | some o => o.acc | none => []) ||
      windowBlocks s c (writtenRanges s c e d ++ (planOf s c e d).more) ||
      (planOf s c e d).flq.any (queueBehind (coreOf s c) · d.seq)) = false := by
  simp only [Bool.or_eq_false_iff, Bool.not_eq_false', Option.any_eq_false, and_assoc]
  rfl

section
variable {s : State} {c : Nat} {e : Eng} {d : Desc} {rest : List Desc}

open Classical in
/-- The start of the descriptor at the head of its queue, by what R45, R78 and R577 ask of it in turn. -/
theorem startDesc_of_head (head : HeadOf s c e d rest) {isOp : Nat → Bool} (op : isOp (descOp d) = true)
    {plan : State → Desc → Plan} (planned : plan s d = planOf s c e d) (structs : State → Desc → Option Fail)
    (run : State → Desc → State × Option Fail) (ups : List Upset) :
    startDesc s c e isOp plan structs run ups =
      if NoWork s c e d then dropNoWork s c e d rest
      else if ¬ Unhindered s c e d then s
      else if freeTokens s c < (planOf s c e d).tokens then updCore s c fun k => slackUp k .headtok 1
      else if (regionOf s (c / 256)).pwr.ilimHold = true then s
      else if ¬ EncodingOk s c e d then failDesc s c e d { code := .format }
      else if ¬ CountsInRange s c e d then failDesc s c e d { code := .length }
      else carryOut s c e d rest structs run ups := by
  obtain ⟨working, held, engine⟩ := head
  have op : (!isOp (bits d.w0 4 4)) = false := by simpa [descOp] using op
  simp only [startDesc, working, held, engine, Bool.not_false, Bool.and_true, op, Bool.false_eq_true, if_false, planned]
  refine if_congr (noWork_iff s c e d).symm rfl (if_congr ?_ rfl (if_congr .rfl rfl (if_congr .rfl rfl
    (if_congr ?_ rfl (if_congr ?_ rfl rfl)))))
  · exact (Bool.not_eq_false _).symm.to_iff.trans (unhindered_iff s c e d).not.symm
  · exact (Bool.not_eq_true' _).to_iff.trans ((encodingOk_iff s c e d).not.trans (Bool.not_eq_true _).to_iff).symm
  · exact (Bool.not_eq_true' _).to_iff.trans ((countsInRange_iff s c e d).not.trans (Bool.not_eq_true _).to_iff).symm

end

/-! ### The descriptor commands of the table -/

/-- Command `x` starts descriptor `d` as `startDesc` has it: with the plan of its engine, and without upsets its work is that of `x`. -/
def StartsByPlan (x : EngineCommand) (s : State) (c : CoreId) (d : Desc) (ups : List Upset) : Prop :=
  ∃ (isOp : Nat → Bool) (plan : State → Desc → Plan) (run : State → Desc → State × Option Fail),
    exec (x.make c ups) s = .next (startDesc s c x.eng isOp plan (x.structs c) run ups) ∧
    isOp (descOp d) = true ∧ plan s d = planOf s c x.eng d ∧ (ups = [] → run = x.run c)

theorem startsByPlan_of_mem {x : EngineCommand} (listed : x ∈ engineCommands) {s : State} {c : CoreId} {d : Desc} (op : descOp d = x.op)
    (credits : x.op = 1 → x.eng = .kse → parkHeld s c = false) (ups : List Upset) : StartsByPlan x s c d ups := by
  revert x
  simp only [engineCommands, elementwise, List.map_cons, List.map_nil, List.cons_append, List.nil_append, List.forall_mem_cons,
    List.not_mem_nil, false_imp_iff, forall_true_iff, and_true]
  and_intros
  all_goals intro op credits
  any_goals exact ⟨_, _, _, rfl, by simp [op], rfl, by rintro rfl; rfl⟩
  · exact ⟨_, _, _, rfl, by simp [op], by simp [planOf, op], by rintro rfl; rfl⟩
  · exact ⟨_, _, _, rfl, by simp [op], by simp [planOf, op], by rintro rfl; rfl⟩
  · exact ⟨_, _, _, congrArg _ (if_neg (by simp [credits])), by simp [op], rfl, by rintro rfl; rfl⟩

/-! ### The statement -/

/-- The event and the counter of a completion are the core's own; its engines do not decide them, and nothing else of it differs. -/
theorem signalHeader_eq (k : Core) (engs : Tbl EngSt) (w0 : Word) :
    signalHeader { k with engs := engs } w0 = { k with engs := engs, scc := (signalHeader k w0).scc } := by
  unfold signalHeader signalDone
  split <;> split <;> rfl

theorem coreOf_dropNoWork (s : State) (c : Nat) (e : Eng) (d : Desc) (rest : List Desc) :
    coreOf (dropNoWork s c e d rest) c =
      { coreOf s c with engs := Tbl.upd {} (coreOf s c).engs e.num fun x => { x with queue := rest }
                        scc := (signalHeader (coreOf s c) d.w0).scc, ops := (coreOf s c).ops.filter fun o => o.seq ≠ d.seq } := by
  rw [dropNoWork, coreOf_updCore_same, signalHeader_eq]
  rfl

theorem engOf_dropNoWork (s : State) (c : Nat) (e : Eng) (d : Desc) (rest : List Desc) :
    engOf (coreOf (dropNoWork s c e d rest) c) e = { engOf (coreOf s c) e with queue := rest } :=
  engOf_same_of_upd (f := fun x => { x with queue := rest }) (by rw [coreOf_dropNoWork])

theorem execKsePark_of_parkHeld {s : State} {c : CoreId} (h : parkHeld s c = true) (ups : List Upset) :
    exec (.ksePark c ups) s = .next s := congrArg _ (if_pos h)

/-- Settles O16: the cascade of `startDesc_of_head`, read off at each of its outcomes. -/
theorem descriptorStartChecks : Obligations.DescriptorStartChecks := by
  refine ⟨fun x listed s c d rest ups head op credits => ?_, fun s c ups h => execKsePark_of_parkHeld h ups⟩
  obtain ⟨isOp, plan, run, runs, isHead, planned, -⟩ := startsByPlan_of_mem listed op credits ups
  rw [startDesc_of_head head isHead planned] at runs
  refine ⟨fun idle => ?_, fun (work : ¬ NoWork s c x.eng d) hindered => ?_, fun (work : ¬ NoWork s c x.eng d) free few => ?_,
    fun (work : ¬ NoWork s c x.eng d) free enough ilim => ?_, fun free ⟨enough, ilim⟩ => ?_⟩
  · refine .of_eq (runs.trans (congrArg _ (if_pos idle))) ⟨.updCore .., ?_, ?_, ?_⟩
    · rw [coreOf_dropNoWork]
    · rw [engOf_dropNoWork, head.2.2]
    · rw [coreOf_dropNoWork]
  · exact runs.trans (by rw [if_neg work, if_pos hindered])
  · refine .of_eq (runs.trans (by rw [if_neg work, if_neg (not_not_intro free), if_pos few])) ⟨.updCore .., ?_⟩
    rw [coreOf_updCore_same]
    rfl
  · exact runs.trans (by rw [if_neg work, if_neg (not_not_intro free), if_neg (Nat.not_lt.mpr enough), if_pos ilim])
  · replace runs := fun work => runs.trans (congrArg _ ((if_neg work).trans ((if_neg (not_not_intro free)).trans
      ((if_neg (Nat.not_lt.mpr enough)).trans (if_neg (by simp [ilim]))))))
    refine ⟨fun bad => ?_, fun good ⟨n, counted, bad⟩ => ?_, fun good counts f bad => ?_⟩
    · exact (runs fun h => bad h.1).trans (congrArg _ (if_pos bad))
    · have outOfRange : ¬ CountsInRange s c x.eng d := fun h => by simp [h n counted] at bad
      exact (runs fun h => outOfRange h.2.1).trans (by rw [if_neg (not_not_intro good), if_pos outOfRange])
    · have inRange : CountsInRange s c x.eng d := fun n counted => (counts n counted).1
      refine (runs fun ⟨_, _, n, counted, zero⟩ => (counts n counted).2 zero).trans ?_
      rw [if_neg (not_not_intro good), if_neg (not_not_intro inRange)]
      simp only [carryOut, bad]

end Sys2Proof.Machine

namespace Sys2Proof.Machine

/-! ## A descriptor that may begin (02 R47, R577) -/

theorem meetWrites_of_clean {s : State} (clean : s.poison = []) (rs : Ranges) : meetWrites s rs [] = (s, none) := by
  rw [meetWrites, meetReads_of_clean clean]

theorem countsInRange_of_mayBegin {s : State} {c : Nat} {e : Eng} {d : Desc} (may : MayBegin s c e d) : CountsInRange s c e d :=
  fun n counted => (may.2.1 n counted).1

theorem not_noWork_of_mayBegin {s : State} {c : Nat} {e : Eng} {d : Desc} (may : MayBegin s c e d) : ¬ NoWork s c e d :=
  fun ⟨_, _, n, counted, zero⟩ => (may.2.1 n counted).2 zero

section
variable {s : State} {c : Nat} {e : Eng} {d : Desc} {rest : List Desc} {structs : State → Desc → Option Fail}
  {run : State → Desc → State × Option Fail} {f : Fail}

/-- Nothing holds back a descriptor that may begin. -/
theorem startDesc_of_mayBegin (head : HeadOf s c e d rest) (may : MayBegin s c e d) {isOp : Nat → Bool} (op : isOp (descOp d) = true)
    {plan : State → Desc → Plan} (planned : plan s d = planOf s c e d) (ups : List Upset) :
    startDesc s c e isOp plan structs run ups = carryOut s c e d rest structs run ups := by
  have work := not_noWork_of_mayBegin may
  have inRange := countsInRange_of_mayBegin may
  obtain ⟨encoding, -, free, ⟨enough, ilim⟩, -⟩ := may
  rw [startDesc_of_head head op planned, if_neg work, if_neg (not_not_intro free), if_neg (Nat.not_lt.mpr enough),
    if_neg (by simp [ilim]), if_neg (not_not_intro encoding), if_neg (not_not_intro inRange)]

variable (operands : checkOperands s c (planOf s c e d).operands = none)
include operands

theorem carryOut_of_structs (bad : structs s d = some f) (ups : List Upset) :
    carryOut s c e d rest structs run ups = failDesc s c e d f := by simp only [carryOut, operands, bad]

variable (sound : structs s d = none)
include sound

theorem carryOut_of_reads {u : State} {ups : List Upset} (bad : meetReads s (readRanges s c e d) ups = (u, some f)) :
    carryOut s c e d rest structs run ups = failDesc u c e d f := by simp only [carryOut, operands, sound, bad]

variable (clean : s.poison = [])
include clean

theorem carryOut_of_failure {u : State} (work : run s d = (u, some f)) :
    carryOut s c e d rest structs run [] = failDesc u c e d f := by
  simp only [carryOut, operands, sound, meetReads_of_clean clean, unmet, List.filter_nil, meetWrites_of_clean clean, work]

theorem carryOut_of_success {u : State} (work : run s d = (u, none)) :
    carryOut s c e d rest structs run [] = launch s u c e d rest (planOf s c e d).tokens := by
  simp only [carryOut, operands, sound, meetReads_of_clean clean, unmet, List.filter_nil, meetWrites_of_clean clean, work]

end

/-- A launched descriptor runs, with its tokens and the messages of its work. -/
theorem started_launch (s t : State) (c : Nat) (e : Eng) (d : Desc) (rest : List Desc) (tokens : Nat) :
    Started t c e d rest tokens (s.ids, t.ids) (launch s t c e d rest tokens) :=
  ⟨.updEng .., by rw [launch, coreOf_updEng_same], engOf_updEng_same .., fun _ other => engOf_updEng_other _ _ other _⟩

section
variable {x : EngineCommand} (listed : x ∈ engineCommands) {s : State} {c : CoreId} {d : Desc} {rest : List Desc}
  (head : HeadOf s c x.eng d rest) (op : descOp d = x.op) (credits : x.op = 1 → x.eng = .kse → parkHeld s c = false)
  (may : MayBegin s c x.eng d)
include listed head op credits may

/-- A descriptor command that may begin carries its descriptor out, without upsets by the work of its operation. -/
theorem exec_of_mayBegin (ups : List Upset) : ∃ run, (ups = [] → run = x.run c) ∧
    exec (x.make c ups) s = .next (carryOut s c x.eng d rest (x.structs c) run ups) := by
  obtain ⟨isOp, plan, run, runs, isHead, planned, same⟩ := startsByPlan_of_mem listed op credits ups
  exact ⟨run, same, runs.trans (congrArg _ (startDesc_of_mayBegin head may isHead planned ups))⟩

theorem exec_nil_of_mayBegin : exec (x.make c []) s = .next (carryOut s c x.eng d rest (x.structs c) (x.run c) []) := by
  obtain ⟨run, same, runs⟩ := exec_of_mayBegin listed head op credits may []
  rw [runs, same rfl]

/-- Without upsets a command whose checks pass does its work, and its engine runs the descriptor. -/
theorem next_started (operands : checkOperands s c (planOf s c x.eng d).operands = none) (sound : x.structs c s d = none)
    {u : State} (work : x.run c s d = (u, none)) :
    Next (exec (x.make c []) s) (Started u c x.eng d rest (planOf s c x.eng d).tokens (s.ids, u.ids)) := by
  rw [exec_nil_of_mayBegin listed head op credits may, carryOut_of_success operands sound may.2.2.2.2 work]
  exact .of_eq rfl (started_launch ..)

end

theorem descriptorRunsHolds : DescriptorRunsHolds := by
  intro x listed s c d rest head op credits may operands
  have clean := may.2.2.2.2
  have quiet := exec_nil_of_mayBegin listed head op credits may
  refine ⟨fun f bad => quiet.trans ?_, fun sound => ⟨fun ups u f bad => ?_, fun u f work => quiet.trans ?_, fun u work => ?_⟩⟩
  · rw [carryOut_of_structs operands bad]
  · obtain ⟨run, -, runs⟩ := exec_of_mayBegin listed head op credits may ups
    exact runs.trans (congrArg _ (carryOut_of_reads operands sound bad))
  · rw [carryOut_of_failure operands sound clean work]
  · exact next_started listed head op credits may operands sound work

/-! ## DESCRIPTOR_COMPLETE (02 R47, R66, 06 R242) -/

theorem OnlyCore.sameCores {c : Nat} {s t u : State} (first : OnlyCore c s t) (second : SameCores t u) : OnlyCore c s u :=
  first.trans ⟨second.1, fun j _ => second.2 j⟩

/-- What a completion makes of its core (R47, R242). -/
def completed (e : Eng) (d : Desc) (late : Bool) (k : Core) : Core :=
  let k := if late then slackUp k .late 1 else k
  dropOp (signalHeader { k with engs := Tbl.upd {} k.engs e.num fun x => { x with run := none } } d.w0) d.seq

/-- Part by part: the count of R242 is apart from what the header asks for. -/
theorem completed_eq (e : Eng) (d : Desc) (late : Bool) (k : Core) : completed e d late k =
    { k with cnt := if late then (slackUp k .late 1).cnt else k.cnt
             engs := Tbl.upd {} k.engs e.num fun x => { x with run := none }
             scc := (signalHeader k d.w0).scc, ops := k.ops.filter fun o => o.seq ≠ d.seq } := by
  have counts : ∀ cnt, signalHeader { k with cnt := cnt } d.w0 = { signalHeader k d.w0 with cnt := cnt } := fun cnt => by
    unfold signalHeader signalDone
    split <;> split <;> rfl
  cases late <;> rw [completed, signalHeader_eq]
  · rfl
  · rw [if_pos rfl, slackUp, counts]
    rfl

/-- The descriptor that an engine runs completes when its messages have been sent. -/
theorem execDescriptorComplete_of_sent {s : State} {c : CoreId} {e : Eng} {r : Running} (running : (engOf (coreOf s c) e).run = some r)
    (sent : messagesSent s r.msgs.1 r.msgs.2 = true) (late : Bool) :
    exec (.descriptorComplete c e late) s = .next (settle (updCore s c (completed e r.desc late)) c) := by
  refine congrArg Host.Outcome.next ?_
  simp only [running, sent, Bool.not_true, Bool.false_eq_true, if_false]
  rfl

theorem descriptorCompletesHolds : DescriptorCompletesHolds := by
  intro s c e late r running
  refine ⟨fun waits => ?_, fun sent sends arms => ?_⟩
  · refine congrArg Host.Outcome.next ?_
    simp only [running, waits, Bool.not_false, if_true]
  · let done := updCore s c (completed e r.desc late)
    have core : coreOf done c = _ := (coreOf_updCore_same ..).trans (completed_eq ..)
    have rest : SameCores done (settle done c) := sameCores_settle (by rw [core]; exact arms) (by rw [core]; exact sends)
    have final : coreOf (settle done c) c = _ := (rest.2 c).trans core
    refine .of_eq (execDescriptorComplete_of_sent running sent late) ⟨(OnlyCore.updCore ..).sameCores rest, ?_, ?_, ?_, ?_⟩
    · exact engOf_same_of_upd (f := fun x => { x with run := none }) (by rw [final])
    all_goals rw [final]

end Sys2Proof.Machine

namespace Sys2Proof.Machine

/-! ## Numbers in memory (00 R12) -/

@[simp] theorem length_leBytes (n v : Nat) : (leBytes n v).length = n := by
  induction n generalizing v with
  | zero => rfl
  | succ n ih => rw [leBytes, List.length_cons, ih]

theorem leNat_leBytes (n v : Nat) : leNat (leBytes n v) = v % 256 ^ n := by
  induction n generalizing v with
  | zero => simp [leBytes, leNat, Nat.mod_one]
  | succ n ih => rw [leBytes, leNat, ih, BitVec.toNat_ofNat, show 256 ^ (n + 1) = 256 * 256 ^ n from pow_succ' .., Nat.mod_mul]

theorem leNat_leBytes_of_lt {n v : Nat} (h : v < 256 ^ n) : leNat (leBytes n v) = v := by
  rw [leNat_leBytes, Nat.mod_eq_of_lt h]

/-- `t` reads as `s` in `n` bytes from `a` on. -/
def SameBytes (s t : State) (a n : Nat) : Prop := ∀ y, a ≤ y → y < a + n → readByte t y = readByte s y

theorem readBytes_congr {s t : State} {a n : Nat} (h : SameBytes s t a n) : readBytes t a n = readBytes s a n :=
  List.map_congr_left fun i hi => h (a + i) (by omega) (by have := List.mem_range.1 hi; omega)

theorem readNum_congr {s t : State} {a n : Nat} (h : SameBytes s t a n) : readNum t a n = readNum s a n :=
  congrArg leNat (readBytes_congr h)

/-- The bytes that were put read back. -/
theorem readBytes_of_put {s t : State} {a : Nat} {bs : List Byte} (h : t.mem = Memory.put s.mem a bs) : readBytes t a bs.length = bs :=
  List.ext_getElem (by simp [readBytes]) fun i _ hi => by
    simp only [readBytes, List.getElem_map, List.getElem_range, (readByte_of_put h).1 i hi]
    simp [hi]

theorem readNum_of_put {s t : State} {a n v : Nat} (h : t.mem = Memory.put s.mem a (leBytes n v)) (small : v < 256 ^ n) :
    readNum t a n = v := by
  have bytes := readBytes_of_put h
  rw [length_leBytes] at bytes
  rw [readNum, bytes, leNat_leBytes_of_lt small]

/-! ## Work that runs step by step -/

/-- What holds at first and is kept by every step holds at the end, and no step fails. -/
theorem runAll_induction {α : Type} {f : State → α → State × Option Fail} {l : List α} {P : Nat → State → Prop} {s : State}
    (first : P 0 s) (next : ∀ i (h : i < l.length) u, P i u → ∃ v, f u l[i] = (v, none) ∧ P (i + 1) v) :
    ∃ t, runAll f s l = (t, none) ∧ P l.length t := by
  induction l generalizing P s with
  | nil => exact ⟨s, rfl, first⟩
  | cons x l ih =>
    obtain ⟨v, step, kept⟩ := next 0 (by simp) s first
    obtain ⟨t, rest, last⟩ := ih (P := fun i => P (i + 1)) kept fun i h => next (i + 1) (by simpa using h)
    refine ⟨t, ?_, last⟩
    have step : f s x = (v, none) := step
    simp only [runAll, step, rest]

theorem runAll_range_induction {f : State → Nat → State × Option Fail} {n : Nat} {P : Nat → State → Prop} {s : State}
    (first : P 0 s) (next : ∀ i < n, ∀ u, P i u → ∃ v, f u i = (v, none) ∧ P (i + 1) v) :
    ∃ t, runAll f s (List.range n) = (t, none) ∧ P n t := by
  have := runAll_induction (l := List.range n) first fun i h => by simpa using next i (by simpa using h)
  simpa using this

/-- `t` differs from `s` in memory alone, and there in no byte outside the `n` from `a` on. -/
def OnlyBytes (a n : Nat) (s t : State) : Prop :=
  t.ids = s.ids ∧ t.cores = s.cores ∧ ∀ y, (y < a ∨ a + n ≤ y) → readByte t y = readByte s y

@[simp] theorem storeBytes_ids (s : State) (a : Nat) (bs : List Byte) : (storeBytes s a bs).ids = s.ids := by
  unfold storeBytes; dsimp only; split <;> rfl

/-- Of `n` slots of `w` bytes from `base` on the first `k` are filled, each by `out` from a state that differs from `s` in the slots alone. -/
def SlotsFilled (out : State → Nat → List Byte) (base w n : Nat) (s : State) (k : Nat) (t : State) : Prop :=
  OnlyBytes base (n * w) s t ∧ ∀ i < k, ∃ u, OnlyBytes base (n * w) s u ∧ readBytes t (base + i * w) w = out u i

/-- Work that stores slot after slot fills them all. -/
theorem runAll_storeBytes {out : State → Nat → List Byte} {base w : Nat} (length : ∀ u i, (out u i).length = w) (s : State) (n : Nat) :
    ∃ t, runAll (fun u i => (storeBytes u (base + i * w) (out u i), none)) s (List.range n) = (t, none) ∧
      SlotsFilled out base w n s n t := by
  have first : SlotsFilled out base w n s 0 s := ⟨⟨rfl, rfl, fun _ _ => rfl⟩, fun i hi => absurd hi (Nat.not_lt_zero i)⟩
  refine runAll_range_induction first ?_
  rintro k inside u ⟨same, filled⟩
  have mem := storeBytes_mem u (base + k * w) (out u k)
  obtain ⟨-, others⟩ := readByte_of_put mem
  have slot : (k + 1) * w ≤ n * w := Nat.mul_le_mul_right w inside
  rw [Nat.succ_mul] at slot
  rw [length] at others
  refine ⟨_, rfl, ⟨by simpa using same.1, by simpa using same.2.1, fun y outside => ?_⟩, fun i hi => ?_⟩
  · rw [others y (by omega), same.2.2 y outside]
  · obtain rfl | before := Nat.eq_or_lt_of_le (Nat.le_of_lt_succ hi)
    · have bytes := readBytes_of_put mem
      rw [length] at bytes
      exact ⟨u, same, bytes⟩
    · obtain ⟨v, sameV, bytes⟩ := filled i before
      refine ⟨v, sameV, ?_⟩
      have apart : (i + 1) * w ≤ k * w := Nat.mul_le_mul_right w before
      rw [Nat.succ_mul] at apart
      rw [← bytes]
      exact readBytes_congr fun y _ _ => others y (by omega)

/-! ## Encodings fit their format (03 R88) -/

theorem roundMag_le (p n d : Nat) (below : Bool) : roundMag p n d below ≤ 255 * 2 ^ (p - 1) := by
  unfold roundMag
  split
  · exact Nat.zero_le _
  · exact Nat.min_le_right ..

section
variable {p : Nat} (pos : 0 < p)
include pos

/-- The infinity lies below the sign bit. -/
theorem top_lt : 255 * 2 ^ (p - 1) < 2 ^ (p + 7) := by
  obtain ⟨q, rfl⟩ : ∃ q, p = q + 1 := ⟨p - 1, by omega⟩
  have := Nat.two_pow_pos q
  rw [Nat.add_sub_cancel, Nat.add_assoc, Nat.pow_add]
  omega

theorem sign_add_lt (neg : Bool) {m : Nat} (h : m ≤ 255 * 2 ^ (p - 1)) : (if neg then 2 ^ (p + 7) else 0) + m < 2 ^ (p + 8) := by
  have top := top_lt pos
  have : 2 ^ (p + 8) = 2 * 2 ^ (p + 7) := Nat.pow_succ'
  split <;> omega

theorem encodeFl_lt (neg : Bool) (n d : Nat) (below : Bool) : encodeFl p neg n d below < 2 ^ (p + 8) :=
  sign_add_lt pos neg (roundMag_le p n d below)

theorem roundEx_lt (e : Ex) : roundEx p e < 2 ^ (p + 8) := by
  cases e with
  | nan =>
    have top := top_lt pos
    have : 2 ^ (p - 2) ≤ 2 ^ (p + 7) := Nat.pow_le_pow_right (by omega) (by omega)
    have : 2 ^ (p + 8) = 2 * 2 ^ (p + 7) := Nat.pow_succ'
    show 255 * 2 ^ (p - 1) + 2 ^ (p - 2) < _
    omega
  | inf neg => exact sign_add_lt pos neg (Nat.le_refl _)
  | q neg n d below => exact encodeFl_lt pos neg n d below

theorem moveUlp_lt {n : Nat} (h : n < 2 ^ (p + 8)) (j : Int) : moveUlp p n j < 2 ^ (p + 8) := by
  have bound := fun neg v => sign_add_lt pos neg (m := min v (255 * 2 ^ (p - 1))) (Nat.min_le_right ..)
  unfold moveUlp
  extract_lets top mag v w
  split
  · exact h
  · split
    · exact bound true v.natAbs
    · split
      · exact Nat.pow_lt_pow_right (by omega) (by omega)
      · exact (Nat.zero_add w) ▸ bound false v.natAbs

theorem nauRound_lt (exactly : Bool) (id : Nat) (args : List Nat) (finite : Bool) (e : Ex) :
    nauRound exactly p id args finite e < 2 ^ (p + 8) := by
  unfold nauRound
  split
  · split
    · exact roundEx_lt pos _
    · exact moveUlp_lt pos (roundEx_lt pos _) _
  · exact roundEx_lt pos e

end

/-- The bytes of a plain element hold its format (R62). -/
theorem two_pow_precOf (fp32 : Bool) : 2 ^ (precOf fp32 + 8) = 256 ^ plainBytes fp32 := by cases fp32 <;> rfl

theorem nauRound_fits (fp32 exactly : Bool) (id : Nat) (args : List Nat) (finite : Bool) (e : Ex) :
    nauRound exactly (precOf fp32) id args finite e < 256 ^ plainBytes fp32 := by
  rw [← two_pow_precOf]
  exact nauRound_lt (by cases fp32 <;> decide) ..

end Sys2Proof.Machine

namespace Sys2Proof.Machine

/-! ## The normalisation unit (02 R62, R63) -/

/-- Element `i` of D by the work of `runElems`: the exact value of elements `i` of A and B, rounded once (R63). -/
def elemOut (c : Nat) (f : Fl → Fl → Ex) (s : State) (d : Desc) (u : State) (i : Nat) : Nat :=
  let x := plainAt u (nauIn32 d) (placeOf s c (lo32 d.w1)).addr i
  let y := if nauUsesB (descOp d) then plainAt u (nauIn32 d) (placeOf s c (hi32 d.w1)).addr i else 0
  let a := decodePlain (nauIn32 d) x
  let b := decodePlain (nauIn32 d) y
  nauRound (nauExact s c d) (precOf (nauOut32 d)) (descOp d) (nauParams d ++ [x, y]) (a.finite && b.finite) (f a b)

/-- An operation that works element by element fills D from the first element to the last. -/
theorem runElems_eq (c : Nat) (f : Fl → Fl → Ex) (s : State) (d : Desc) : runElems c f s d =
    runAll (fun u i => (storeBytes u ((placeOf s c (lo32 d.w2)).addr + i * plainBytes (nauOut32 d))
      (leBytes (plainBytes (nauOut32 d)) (elemOut c f s d u i)), none)) s (List.range (nauRows d * nauCols d)) := rfl

/-- Elements of a tensor that lies apart from the bytes that differ read as before. -/
theorem plainAt_congr {s t : State} {fp32 : Bool} {a lo n m i : Nat} (same : OnlyBytes lo m s t)
    (apart : lo + m ≤ a ∨ a + n * plainBytes fp32 ≤ lo) (inside : i < n) : plainAt t fp32 a i = plainAt s fp32 a i := by
  have slot : (i + 1) * plainBytes fp32 ≤ n * plainBytes fp32 := Nat.mul_le_mul_right _ inside
  rw [Nat.succ_mul] at slot
  exact readNum_congr fun y _ _ => same.2.2 y (by omega)

theorem mem_engineCommands_of_elementwise {x : Nat × (CoreId → List Upset → Instr) × (Fl → Fl → Ex)} (listed : x ∈ elementwise) :
    (⟨.nau, x.1, x.2.1, fun _ => noStructs, fun c => runElems c x.2.2⟩ : EngineCommand) ∈ engineCommands :=
  List.mem_append_left _ (List.mem_append_right _ (List.mem_map_of_mem listed))

/-- A descriptor that runs differs from its work by its core alone. -/
theorem readByte_of_started {s t : State} {c : Nat} {e : Eng} {d : Desc} {rest : List Desc} {tokens : Nat} {msgs : Nat × Nat}
    (run : Started s c e d rest tokens msgs t) (y : Nat) : readByte t y = readByte s y := by
  rw [readByte, run.1.1, readByte]

theorem elementwiseResultsHolds : ElementwiseResultsHolds := by
  intro x listed s c d rest head op may operands n pa pb pd wi wo apartA apartB
  obtain ⟨u, work, same, filled⟩ := runAll_storeBytes (out := fun u i => leBytes wo (elemOut c x.2.2 s d u i)) (base := pd)
    (fun _ _ => length_leBytes ..) s n
  obtain ⟨t, runs, started⟩ := next_started (mem_engineCommands_of_elementwise listed) head op (fun _ other => by cases other) may operands
    rfl ((runElems_eq ..).trans work)
  have byte := readByte_of_started started
  refine ⟨t, runs, ?_, fun i inside => ?_, fun y outside => (byte y).trans (same.2.2 y outside)⟩
  · rw [started.2.2.1, same.1]
  · obtain ⟨v, sameV, bytes⟩ := filled i inside
    have a : plainAt v (nauIn32 d) pa i = plainAt s (nauIn32 d) pa i := plainAt_congr sameV apartA inside
    have b : (if nauUsesB x.1 then plainAt v (nauIn32 d) pb i else 0) = if nauUsesB x.1 then plainAt s (nauIn32 d) pb i else 0 := by
      split
      · next uses => exact plainAt_congr sameV (apartB uses) inside
      · rfl
    have value : plainAt t (nauOut32 d) pd i = elemOut c x.2.2 s d v i := by
      rw [plainAt, readNum_congr fun y _ _ => byte y, readNum, bytes]
      exact leNat_leBytes_of_lt (nauRound_fits ..)
    rw [value, elemOut, op, a, b]

/-! ### Row by row -/

/-- Row `i` of D by the work of `runRows`. -/
def rowOut (c : Nat) (aux : State → Nat → Nat → List Nat) (f : List Fl → List Nat → Nat → Ex) (s : State) (d : Desc) (u : State) (i : Nat) :
    List Byte :=
  let row := (List.range (nauCols d)).map fun j => plainAt u (nauIn32 d) (placeOf s c (lo32 d.w1)).addr (i * nauCols d + j)
  let xs := row.map (decodePlain (nauIn32 d))
  let cs := aux u (placeOf s c (lo32 d.w3)).addr i
  (List.range (nauCols d)).flatMap fun j => leBytes (plainBytes (nauOut32 d))
    (nauRound (nauExact s c d) (precOf (nauOut32 d)) (descOp d) (nauParams d ++ [j] ++ cs ++ row) (xs.all Fl.finite) (f xs cs j))

theorem length_rowOut (c : Nat) (aux : State → Nat → Nat → List Nat) (f : List Fl → List Nat → Nat → Ex) (s : State) (d : Desc)
    (u : State) (i : Nat) : (rowOut c aux f s d u i).length = nauCols d * plainBytes (nauOut32 d) := by
  simp [rowOut, List.length_flatMap]

/-- An operation that works row by row fills D from the first row to the last. -/
theorem runRows_eq (c : Nat) (aux : State → Nat → Nat → List Nat) (f : List Fl → List Nat → Nat → Ex) (s : State) (d : Desc) :
    runRows c aux f s d = runAll (fun u i => (storeBytes u
      ((placeOf s c (lo32 d.w2)).addr + i * (nauCols d * plainBytes (nauOut32 d))) (rowOut c aux f s d u i), none)) s
      (List.range (nauRows d)) := by
  simp only [← Nat.mul_assoc]
  rfl

/-- An operation that works row by row, once its checks pass, runs, and fills D alone. -/
theorem next_rows {op : Nat} {make : CoreId → List Upset → Instr} {aux : Desc → State → Nat → Nat → List Nat}
    {f : Desc → List Fl → List Nat → Nat → Ex}
    (listed : (⟨.nau, op, make, fun _ => noStructs, fun c s d => runRows c (aux d) (f d) s d⟩ : EngineCommand) ∈ engineCommands)
    {s : State} {c : CoreId} {d : Desc} {rest : List Desc} (head : HeadOf s c .nau d rest) (isOp : descOp d = op)
    (may : MayBegin s c .nau d) (operands : checkOperands s c (planOf s c .nau d).operands = none) :
    let n := nauRows d * nauCols d * plainBytes (nauOut32 d)
    let pd := (placeOf s c (lo32 d.w2)).addr
    Next (exec (make c []) s) fun t =>
      engOf (coreOf t c) .nau = { queue := rest, run := some { desc := d, tokens := (planOf s c .nau d).tokens, msgs := (s.ids, s.ids) } } ∧
      ∀ y, (y < pd ∨ pd + n ≤ y) → readByte t y = readByte s y := by
  intro n pd
  obtain ⟨u, filled, same, -⟩ := runAll_storeBytes (base := pd) (length_rowOut c (aux d) (f d) s d) s (nauRows d)
  rw [← Nat.mul_assoc] at same
  obtain ⟨t, runs, started⟩ := next_started listed head isOp (fun _ other => by cases other) may operands rfl ((runRows_eq ..).trans filled)
  refine ⟨t, runs, ?_, fun y outside => (readByte_of_started started y).trans (same.2.2 y outside)⟩
  rw [started.2.2.1, same.1]

theorem rowOperationsRunHolds : RowOperationsRunHolds := by
  simp only [RowOperationsRunHolds, List.forall_mem_cons, List.not_mem_nil, false_imp_iff, forall_true_iff, and_true]
  refine ⟨fun s c d rest => ?_, fun s c d rest => ?_, fun s c d rest => ?_⟩
  · exact next_rows (aux := normAux 1) (f := fun d => rmsEx (decode32 (hi32 d.w2))) (by simp [engineCommands])
  · exact next_rows (aux := normAux 2) (f := fun d => layerEx (decode32 (hi32 d.w2))) (by simp [engineCommands])
  · exact next_rows (aux := fun _ s pc i => [plainAt s true pc (2 * i), plainAt s true pc (2 * i + 1)]) (f := fun _ => softmaxEx)
      (by simp [engineCommands])

/-- Settles O17: an operation fills D slot by slot from what it reads, and the rest of memory stands. -/
theorem engineResults : Obligations.EngineResults := ⟨elementwiseResultsHolds, rowOperationsRunHolds⟩

end Sys2Proof.Machine

namespace Sys2Proof.Machine

/-! ## Words of partial-sum memory (03 R96-R99, R137, R579) -/

/-- The sums that a word holds (R96). -/
def InWord (v : Int) : Prop := -(2 ^ 111) ≤ v ∧ v < 2 ^ 111

theorem bnat_le_one (b : Bool) : bnat b ≤ 1 := by cases b <;> decide

/-- The fields of a word and the bits above it stand apart. -/
theorem laccBits_lt {a : Lacc} (res : a.res < 8) : laccBits a < 2 ^ 118 := by
  have := bnat_le_one a.ovf
  have := bnat_le_one a.unit
  have := bnat_le_one a.touched
  simp only [laccBits, at_]
  omega

theorem signed_of_inWord {v : Int} (h : InWord v) : signed 112 (v % (2 ^ 112 : Nat)).toNat = v := by
  obtain ⟨low, high⟩ := h
  rw [signed]
  split <;> omega

theorem testBit_bnat (b : Bool) : decide (bnat b % 2 = 1) = b := by cases b <;> rfl

/-- A sound word is read back as it was written (R137). -/
theorem laccOf_laccBits {a : Lacc} (res : a.res < 8) (sum : InWord a.sum) : laccOf (laccBits a) = a := by
  have := bnat_le_one a.ovf
  have := bnat_le_one a.unit
  have := bnat_le_one a.touched
  have low : (a.sum % (2 ^ 112 : Nat)).toNat < 2 ^ 112 := by omega
  generalize field : (a.sum % (2 ^ 112 : Nat)).toNat = v at low
  have fields : fld (laccBits a) 0 112 = v ∧ fld (laccBits a) 112 3 = a.res ∧ laccBits a / 2 ^ 115 % 2 = bnat a.ovf % 2 ∧
      laccBits a / 2 ^ 116 % 2 = bnat a.unit % 2 ∧ laccBits a / 2 ^ 117 % 2 = bnat a.touched % 2 := by
    simp only [laccBits, at_, fld, field]
    omega
  obtain ⟨v0, r, o, u, t⟩ := fields
  rw [laccOf]
  simp only [Nat.testBit_eq_decide_div_mod_eq, v0, r, o, u, t, testBit_bnat, ← field, signed_of_inWord sum]

theorem mod7_lt (v : Int) : mod7 v < 7 := by rw [mod7]; omega

theorem mod7_add (v t : Int) : (mod7 v + mod7 t) % 7 = mod7 (v + t) := by simp only [mod7]; omega

/-- A word of the block unit that holds `v`, with its residue (R97, R98). -/
def blockWord (v : Int) : Lacc := { sum := v, res := mod7 v, ovf := false, unit := false, touched := true }

theorem laccOf_blockWord {v : Int} (h : InWord v) : laccOf (laccBits (blockWord v)) = blockWord v :=
  laccOf_laccBits (Nat.lt_succ_of_lt (mod7_lt v)) h

/-- A word that holds `v` and takes terms in the block unit. -/
def TakesBlock (w : Lacc) (v : Int) : Prop := laccRead w = none ∧ (w.touched = true → w.unit = false) ∧ w.sum = v

theorem laccRead_eq_none_iff (w : Lacc) : laccRead w = none ↔ w.res = mod7 w.sum ∧ w.ovf = false := by
  have := mod7_lt w.sum
  have ne : w.res = mod7 w.sum → w.res ≠ 7 := by omega
  by_cases residue : w.res = mod7 w.sum
  · cases overflow : w.ovf <;> simp [laccRead, firstFail, overflow, residue, residue ▸ ne residue]
  · simp [laccRead, firstFail, residue]

theorem takesBlock_blockWord (v : Int) : TakesBlock (blockWord v) v :=
  ⟨(laccRead_eq_none_iff _).2 ⟨rfl, rfl⟩, fun _ => rfl, rfl⟩

theorem takesBlock_zero : TakesBlock (laccOf 0) 0 := ⟨by decide, by decide, by decide⟩

/-- One term more (R98). -/
theorem laccAdd_of_takesBlock {w : Lacc} {v t : Int} (takes : TakesBlock w v) (fits : InWord (v + t)) :
    laccAdd w false t = (blockWord (v + t), none) := by
  obtain ⟨sound, unit, rfl⟩ := takes
  obtain ⟨res, -⟩ := (laccRead_eq_none_iff w).1 sound
  obtain ⟨low, high⟩ := fits
  simp only [laccAdd, sound]
  rw [if_neg (fun h => h.2 (unit h.1)), if_neg (by push_cast; omega), res, mod7_add]
  rfl

/-- The word of partial-sum memory at `a`. -/
def laccAt (s : State) (a : Nat) : Lacc := laccOf (readNum s a 16)

/-- A number written is a change of its bytes alone, and it reads back. -/
theorem writeNum_spec (s : State) (a n v : Nat) (small : v < 256 ^ n) :
    OnlyBytes a n s (writeNum s a n v) ∧ readNum (writeNum s a n v) a n = v := by
  have mem : (writeNum s a n v).mem = Memory.put s.mem a (leBytes n v) := rfl
  refine ⟨⟨rfl, rfl, ?_⟩, readNum_of_put mem small⟩
  simpa using (readByte_of_put mem).2

theorem addTerm_of_takesBlock {s : State} {a : Nat} {v t : Int} (takes : TakesBlock (laccAt s a) v) (fits : InWord (v + t)) :
    ∃ u, addTerm s a false t = (u, none) ∧ OnlyBytes a 16 s u ∧ laccAt u a = blockWord (v + t) := by
  have small : laccBits (blockWord (v + t)) < 256 ^ 16 :=
    Nat.lt_of_lt_of_le (laccBits_lt (Nat.lt_succ_of_lt (mod7_lt _))) (by decide)
  obtain ⟨only, reads⟩ := writeNum_spec s a 16 _ small
  refine ⟨writeNum s a 16 (laccBits (blockWord (v + t))), ?_, only, ?_⟩
  · simp [addTerm, laccAdd_of_takesBlock (w := laccOf (readNum s a 16)) takes fits]
  · rw [laccAt, reads, laccOf_blockWord fits]

theorem OnlyBytes.refl (a n : Nat) (s : State) : OnlyBytes a n s s := ⟨rfl, rfl, fun _ _ => rfl⟩

theorem OnlyBytes.trans {a n : Nat} {s t u : State} (first : OnlyBytes a n s t) (second : OnlyBytes a n t u) : OnlyBytes a n s u :=
  ⟨second.1.trans first.1, second.2.1.trans first.2.1, fun y outside => (second.2.2 y outside).trans (first.2.2 y outside)⟩

/-- The sum of the first `n` terms. -/
def sumTo (f : Nat → Int) (n : Nat) : Int := ((List.range n).map f).sum

@[simp] theorem sumTo_zero (f : Nat → Int) : sumTo f 0 = 0 := rfl

theorem sumTo_succ (f : Nat → Int) (n : Nat) : sumTo f (n + 1) = sumTo f n + f n := by simp [sumTo, List.range_succ]

/-- The first `j` terms have been added to the word at `a`, which held `v` in `s`. -/
def Accumulated (s : State) (a : Nat) (v : Int) (terms : Nat → Int) (j : Nat) (u : State) : Prop :=
  OnlyBytes a 16 s u ∧ TakesBlock (laccAt u a) (v + sumTo terms j) ∧ (0 < j → laccAt u a = blockWord (v + sumTo terms j))

theorem accumulated_succ {s u : State} {a j : Nat} {v : Int} {terms : Nat → Int} (sofar : Accumulated s a v terms j u)
    (fits : InWord (v + sumTo terms (j + 1))) :
    ∃ w, addTerm u a false (terms j) = (w, none) ∧ Accumulated s a v terms (j + 1) w := by
  obtain ⟨only, takes, -⟩ := sofar
  have next : v + sumTo terms j + terms j = v + sumTo terms (j + 1) := by rw [sumTo_succ, add_assoc]
  obtain ⟨w, added, one, word⟩ := addTerm_of_takesBlock takes (next ▸ fits)
  rw [next] at word
  exact ⟨w, added, only.trans one, word ▸ takesBlock_blockWord _, fun _ => word⟩

/-- Terms that are added one after the other, none of which leaves the word. -/
theorem runAll_addTerm {s : State} {a n : Nat} {v : Int} {term : State → Nat → Except Fail Int} {terms : Nat → Int}
    (takes : TakesBlock (laccAt s a) v) (fits : ∀ j ≤ n, InWord (v + sumTo terms j))
    (reads : ∀ u, OnlyBytes a 16 s u → ∀ j < n, term u j = .ok (terms j)) :
    ∃ t, runAll (fun s j => orFail s (term s j) fun t => addTerm s a false t) s (List.range n) = (t, none) ∧
      Accumulated s a v terms n t := by
  have first : Accumulated s a v terms 0 s := ⟨.refl .., by simpa using takes, fun h => absurd h (Nat.lt_irrefl 0)⟩
  refine runAll_range_induction first fun j inside u sofar => ?_
  obtain ⟨w, added, more⟩ := accumulated_succ sofar (fits (j + 1) inside)
  refine ⟨w, ?_, more⟩
  rw [reads u sofar.1 j inside]
  exact added

end Sys2Proof.Machine

namespace Sys2Proof.Machine

/-! ## What a tensor reads (02 R48-R50, R578) -/

theorem SameBytes.sub {s u : State} {a n b m : Nat} (same : SameBytes s u a n) (low : a ≤ b) (high : b + m ≤ a + n) : SameBytes s u b m :=
  fun y above below => same y (by omega) (by omega)

theorem le_roundUp (a : Nat) {m : Nat} (pos : 0 < m) : a ≤ roundUp a m := by
  have := Nat.div_add_mod (a + m - 1) m
  have := Nat.mod_lt (a + m - 1) pos
  rw [roundUp, ceilDiv, Nat.mul_comm]
  omega

/-- The extent of a tensor (R578). -/
def Tens.bytes (t : Tens) : Nat :=
  if t.outl then max (bodyBytes t.fmt t.rows t.kblk) (t.outlOff + t.rows * sideBytes t.cap) else bodyBytes t.fmt t.rows t.kblk

theorem bytes_tensAt (s : State) (p : Place) (rows kblk : Nat) :
    (tensAt s p rows kblk).bytes = tensorBytes rows kblk (readBytes s p.addr 16) := by
  unfold Tens.bytes tensorBytes tensAt
  dsimp only
  by_cases outl : hdrFlags (readBytes s p.addr 16) % 2 = 1 <;> simp [outl]

theorem sameBytes_tensAt {s u : State} {p : Place} {rows kblk : Nat} {t : Tens} (read : t = tensAt s p rows kblk)
    (same : SameBytes s u t.addr (tensorBytes rows kblk (readBytes s t.addr 16))) : SameBytes s u t.addr t.bytes := by
  subst read
  rwa [bytes_tensAt]

theorem bodyBytes_le (t : Tens) : bodyBytes t.fmt t.rows t.kblk ≤ t.bytes := by
  unfold Tens.bytes
  split
  · exact Nat.le_max_left ..
  · exact Nat.le_refl _

section
variable {s u : State} {t : Tens} (same : SameBytes s u t.addr t.bytes)
include same

/-- The record of a row lies in the extent of its tensor. -/
theorem sideRow_congr {row : Nat} (inside : row < t.rows) : t.sideRow u row = t.sideRow s row := by
  unfold Tens.sideRow
  cases outl : t.outl with
  | false => simp only [Bool.not_false, if_true]
  | true =>
    have extent : t.outlOff + t.rows * sideBytes t.cap ≤ t.bytes := by
      rw [Tens.bytes, if_pos outl]
      exact Nat.le_max_right ..
    have record : 8 + 8 * t.cap ≤ sideBytes t.cap := le_roundUp _ (by decide)
    have rows : (row + 1) * sideBytes t.cap ≤ t.rows * sideBytes t.cap := Nat.mul_le_mul_right _ inside
    rw [Nat.succ_mul] at rows
    have w : readNum u (t.side row) 8 = readNum s (t.side row) 8 :=
      readNum_congr (same.sub (by rw [Tens.side]; omega) (by rw [Tens.side]; omega))
    rw [w]

variable {row : Nat} (inRow : row < t.rows)
include inRow

/-- So does the scale of a block. -/
theorem scale_congr {j : Nat} (inBlock : j < t.kblk) : t.scale u row j = t.scale s row j := by
  have body := bodyBytes_le t
  have blocks : (row + 1) * t.kblk ≤ t.rows * t.kblk := Nat.mul_le_mul_right _ inRow
  have padded := le_roundUp (t.rows * t.kblk) (show 0 < 16 by decide)
  rw [Nat.succ_mul] at blocks
  rw [bodyBytes] at body
  rw [Tens.scale, readNum_congr (same.sub ?_ ?_), Tens.scale] <;> rw [Tens.scaleAddr] <;> omega

/-- So does the code of an element. -/
theorem elemCode_congr {k : Nat} (inside : k < 32 * t.kblk) :
    elemCode u t.fmt (t.block row (k / 32)) (k % 32) = elemCode s t.fmt (t.block row (k / 32)) (k % 32) := by
  have body := bodyBytes_le t
  have blocks : (row + 1) * t.kblk ≤ t.rows * t.kblk := Nat.mul_le_mul_right _ inRow
  rw [Nat.succ_mul] at blocks
  have bytes : (row * t.kblk + k / 32 + 1) * blockBytes t.fmt ≤ t.rows * t.kblk * blockBytes t.fmt := Nat.mul_le_mul_right _ (by omega)
  rw [Nat.succ_mul] at bytes
  have padded : 16 ≤ roundUp (t.rows * t.kblk) 16 := by
    rw [roundUp, ceilDiv]
    omega
  have element : fmtBits t.fmt * (k % 32) ≤ fmtBits t.fmt * 31 := Nat.mul_le_mul_left _ (by omega)
  rw [bodyBytes] at body
  have width : blockBytes t.fmt = 4 * fmtBits t.fmt := rfl
  rw [elemCode, readNum_congr (same.sub ?_ ?_), elemCode] <;> rw [Tens.block] <;> omega

theorem value10_congr {k : Nat} (inside : k < 32 * t.kblk) : t.value10 u row k = t.value10 s row k := by
  rw [Tens.value10, scale_congr same inRow (by omega), elemCode_congr same inRow inside, Tens.value10]

theorem read10_congr {k : Nat} (inside : k < 32 * t.kblk) : t.read10 u row k = t.read10 s row k := by
  rw [Tens.read10, value10_congr same inRow inside, scale_congr same inRow (by omega), Tens.read10]

end

/-! ### Replay rows (02 R57) -/

theorem replayValue9_congr {s u : State} {base kblk k : Nat} (same : SameBytes s u base (replayBytes kblk)) (inside : k < 32 * kblk) :
    replayValue9 u base kblk k = replayValue9 s base kblk k := by
  have padded := le_roundUp kblk (show 0 < 16 by decide)
  have scale : readNum u (base + 16 + 32 * kblk + k / 32) 1 = readNum s (base + 16 + 32 * kblk + k / 32) 1 :=
    readNum_congr (same.sub (by omega) (by rw [replayBytes]; omega))
  have value : readNum u (base + 16 + k) 1 = readNum s (base + 16 + k) 1 :=
    readNum_congr (same.sub (by omega) (by rw [replayBytes]; omega))
  rw [replayValue9, scale, value, replayValue9]

/-- A row that is a replay row stands in a tensor with a replay area (R578). -/
theorem repl_of_sideRow {s : State} {t : Tens} {row : Nat} {r : SideRow} (side : t.sideRow s row = .ok r) (replay : r.replay = true) :
    t.repl = true := by
  unfold Tens.sideRow at side
  split at side
  · cases side
    cases replay
  · dsimp only at side
    split at side
    · cases side
    · next sound =>
      cases side
      have bit16 : (readNum s (t.side row) 8).testBit 16 = true := replay
      cases area : t.repl with
      | true => rfl
      | false => simp [bit16, area] at sound

/-- The slot of a replay row is among those that the tensor's unit reads. -/
theorem mem_replayRanges {s : State} {t : Tens} {row base : Nat} {r : SideRow} (inside : row < t.rows)
    (side : t.sideRow s row = .ok r) (replay : r.replay = true) (slot : t.replaySlot r.slot = .ok base) :
    (base, replayBytes t.kblk) ∈ t.replayRanges s := by
  rw [Tens.replayRanges, if_neg (by simp [repl_of_sideRow side replay])]
  refine List.mem_filterMap.2 ⟨row, List.mem_range.2 inside, ?_⟩
  simp [side, replay, slot]

/-- An element of A is read from the tensor's extent or from its row's replay slot. -/
theorem spillA10_congr {s u : State} {t : Tens} (same : SameBytes s u t.addr t.bytes)
    (replays : ∀ r ∈ t.replayRanges s, SameBytes s u r.1 r.2) {row k : Nat} (inRow : row < t.rows) (inside : k < 32 * t.kblk) :
    spillA10 u t row k = spillA10 s t row k := by
  rw [spillA10, sideRow_congr same inRow, spillA10]
  cases side : t.sideRow s row with
  | error f => rfl
  | ok r =>
    cases replay : r.replay with
    | false => simpa [bind, Except.bind, replay] using read10_congr same inRow inside
    | true =>
      cases slot : t.replaySlot r.slot with
      | error f => simp [bind, Except.bind, replay, slot]
      | ok base =>
        have value := replayValue9_congr (replays _ (mem_replayRanges inRow side replay slot)) inside
        simp [bind, Except.bind, replay, slot, value]

end Sys2Proof.Machine

namespace Sys2Proof.Machine

/-! ## The terms of MATMUL (02 R55, R57, 03 R84, R101, R105) -/

/-- A fold over the first `n` numbers, by what it has reached after each. -/
theorem foldl_range_eq {β : Type} {g : β → Nat → β} {z : β} (F : Nat → β) {n : Nat} (start : z = F 0)
    (step : ∀ i < n, g (F i) i = F (i + 1)) : (List.range n).foldl g z = F n := by
  subst start
  induction n with
  | zero => rfl
  | succ n ih =>
    rw [List.range_succ, List.foldl_append, ih fun i hi => step i (by omega)]
    exact step n (Nat.lt_succ_self n)

theorem sumTo_congr {f g : Nat → Int} {n : Nat} (h : ∀ i < n, f i = g i) : sumTo f n = sumTo g n :=
  congrArg List.sum (List.map_congr_left fun i hi => h i (List.mem_range.1 hi))

theorem sumTo_mul (f : Nat → Int) (n : Nat) (c : Int) : sumTo f n * c = sumTo (fun i => f i * c) n := by
  rw [sumTo, ← List.sum_map_mul_right, sumTo]

theorem sumTo_add (f : Nat → Int) (n m : Nat) : sumTo f (n + m) = sumTo f n + sumTo (fun i => f (n + i)) m := by
  simp [sumTo, List.range_add, Function.comp_def]

/-- Terms that are summed block by block. -/
theorem sumTo_mul_index (f : Nat → Int) (w n : Nat) : sumTo (fun j => sumTo (fun i => f (w * j + i)) w) n = sumTo f (w * n) := by
  induction n with
  | zero => rfl
  | succ n ih => rw [sumTo_succ, ih, Nat.mul_succ, sumTo_add]

/-- A value of a block is its element times its scale, and 0 in a block of scale 0 (R84). -/
theorem value10_eq_some {s : State} {t : Tens} {row k : Nat} {v : Int} (value : t.value10 s row k = some v) :
    ∃ b, t.scale s row (k / 32) = some b ∧ (b = 0 → v = 0) ∧
      (b ≠ 0 → ∃ e, elemTwice t.fmt (elemCode s t.fmt (t.block row (k / 32)) (k % 32)) = some e ∧ v = e * b) := by
  unfold Tens.value10 at value
  split at value
  · cases value
  · next zero =>
    cases value
    exact ⟨0, zero, fun _ => rfl, fun h => absurd rfl h⟩
  · next b nonzero scale =>
    obtain ⟨e, code, rfl⟩ := Option.map_eq_some_iff.1 value
    exact ⟨b, scale, fun h => absurd h nonzero, fun _ => ⟨e, code, rfl⟩⟩

theorem read10_eq_ok_iff {s : State} {t : Tens} {row k : Nat} {v : Int} : t.read10 s row k = .ok v ↔ t.value10 s row k = some v := by
  unfold Tens.read10
  split <;> simp_all

/-- Only INT2 has a reserved code (R83). -/
theorem exists_elemTwice {fmt : Nat} (h : fmt ≠ 3) (n : Nat) : ∃ e, elemTwice fmt n = some e := by
  unfold elemTwice
  split
  · exact ⟨_, rfl⟩
  · rw [if_neg (fun reserved => h reserved.1)]
    exact ⟨_, rfl⟩

section
variable {s : State} {a b : Tens} {m n j : Nat} {x y : Nat → Int}
  (valuesB : ∀ i < 32, b.value10 s n (32 * j + i) = some (y i))
include valuesB

/-- The products of a block (R101). -/
theorem blockTerm_eq (format : a.fmt ≠ 3) (valuesA : ∀ i < 32, a.value10 s m (32 * j + i) = some (x i)) :
    blockTerm s a b m n j = .ok (sumTo (fun i => x i * y i) 32) := by
  have place : ∀ i < 32, (32 * j + i) / 32 = j ∧ (32 * j + i) % 32 = i := fun i hi => by omega
  obtain ⟨sa, scaleA, -, -⟩ := value10_eq_some (valuesA 0 (by decide))
  obtain ⟨sb, scaleB, -, -⟩ := value10_eq_some (valuesB 0 (by decide))
  rw [(place 0 (by decide)).1] at scaleA scaleB
  have elementA : ∀ i < 32, ∃ e, elemTwice a.fmt (elemCode s a.fmt (a.block m j) i) = some e ∧ x i = e * sa := fun i hi => by
    obtain ⟨q, scale, zero, nonzero⟩ := value10_eq_some (valuesA i hi)
    rw [(place i hi).1] at scale nonzero
    rw [(place i hi).2] at nonzero
    obtain rfl := Option.some.inj (scaleA.symm.trans scale)
    by_cases none : sa = 0
    · obtain ⟨e, code⟩ := exists_elemTwice format (elemCode s a.fmt (a.block m j) i)
      exact ⟨e, code, by simp [zero none, none]⟩
    · exact nonzero none
  have elementB : ∀ i < 32, (sb = 0 → y i = 0) ∧
      (sb ≠ 0 → ∃ e, elemTwice b.fmt (elemCode s b.fmt (b.block n j) i) = some e ∧ y i = e * sb) := fun i hi => by
    obtain ⟨q, scale, zero, nonzero⟩ := value10_eq_some (valuesB i hi)
    rw [(place i hi).1] at scale nonzero
    rw [(place i hi).2] at nonzero
    obtain rfl := Option.some.inj (scaleB.symm.trans scale)
    exact ⟨zero, nonzero⟩
  simp only [blockTerm, scaleA, scaleB]
  by_cases none : sb = 0
  · rw [if_pos none, sumTo_congr (g := fun _ => 0) fun i hi => by rw [(elementB i hi).1 none, mul_zero]]
    rfl
  · choose! ex codeA valueA using elementA
    choose! ey codeB valueB using fun i hi => (elementB i hi).2 none
    rw [if_neg none, foldl_range_eq (z := some 0) (fun i => some (sumTo (fun i => ex i * ey i) i)) rfl ?_]
    · simp only [mul_assoc, sumTo_mul]
      refine congrArg _ (sumTo_congr fun i hi => ?_)
      rw [valueA i hi, valueB i hi]
      ring
    · intro i hi
      simp [codeA i hi, codeB i hi, sumTo_succ]

/-- The products of 32 values of a replay row (R105). -/
theorem replayTerm_eq {slot base : Nat} (place : a.replaySlot slot = .ok base)
    (valuesA : ∀ i < 32, replayValue9 s base a.kblk (32 * j + i) = .ok (x i)) :
    replayTerm s a b slot n j = .ok (sumTo (fun i => 2 * x i * y i) 32) := by
  simp only [replayTerm, place, bind, Except.bind]
  refine foldl_range_eq (fun i => Except.ok (sumTo (fun i => 2 * x i * y i) i)) rfl fun i hi => ?_
  simp [valuesA i hi, read10_eq_ok_iff.2 (valuesB i hi), sumTo_succ]

end

/-- The term of block `j` of word (m, n): of a replay row, or of two blocks (R55, R57). -/
def rowTerm (s : State) (a b : Tens) (mn : Nat × Nat) (j : Nat) : Except Fail Int := do
  let r ← a.sideRow s mn.1
  if r.replay then replayTerm s a b r.slot mn.2 j else blockTerm s a b mn.1 mn.2 j

/-- Whatever kind of row it is, the term is the sum of the products of its values (R55, R57). -/
theorem rowTerm_eq {s : State} {a b : Tens} {m n j : Nat} {x y : Nat → Int} (format : a.fmt ≠ 3)
    (valuesA : ∀ i < 32, spillA10 s a m (32 * j + i) = .ok (x i)) (valuesB : ∀ i < 32, b.value10 s n (32 * j + i) = some (y i)) :
    rowTerm s a b (m, n) j = .ok (sumTo (fun i => x i * y i) 32) := by
  cases side : a.sideRow s m with
  | error f => simpa [spillA10, side, bind, Except.bind] using valuesA 0 (by decide)
  | ok r =>
    simp only [rowTerm, side, bind, Except.bind]
    cases replay : r.replay with
    | false =>
      simp only [Bool.false_eq_true, if_false]
      refine blockTerm_eq valuesB format fun i hi => read10_eq_ok_iff.1 ?_
      simpa [spillA10, side, replay, bind, Except.bind] using valuesA i hi
    | true =>
      cases slot : a.replaySlot r.slot with
      | error f => simpa [spillA10, side, replay, slot, bind, Except.bind] using valuesA 0 (by decide)
      | ok base =>
        have replayed : ∀ i < 32, ∃ v, replayValue9 s base a.kblk (32 * j + i) = .ok v ∧ x i = 2 * v := fun i hi => by
          cases value : replayValue9 s base a.kblk (32 * j + i) with
          | error f => simpa [spillA10, side, replay, slot, value, bind, Except.bind] using valuesA i hi
          | ok v => exact ⟨v, rfl, by simpa [spillA10, side, replay, slot, value, bind, Except.bind, eq_comm] using valuesA i hi⟩
        choose! v value twice using replayed
        rw [if_pos rfl, replayTerm_eq valuesB slot value]
        exact congrArg _ (sumTo_congr fun i hi => by rw [twice i hi])

end Sys2Proof.Machine

namespace Sys2Proof.Machine

/-! ## The tile of a matrix product (02 R55, 03 R96-R99, R108) -/

theorem laccAt_congr {s t : State} {a : Nat} (same : SameBytes s t a 16) : laccAt t a = laccAt s a := congrArg laccOf (readNum_congr same)

theorem sameBytes_of_onlyBytes {s t : State} {a n b m : Nat} (only : OnlyBytes a n s t) (apart : b + m ≤ a ∨ a + n ≤ b) :
    SameBytes s t b m := fun y _ _ => only.2.2 y (by omega)

theorem placeOf_congr {s t : State} (cores : t.cores = s.cores) (c o : Nat) : placeOf t c o = placeOf s c o := by
  rw [placeOf, coreOf, cores, placeOf, coreOf]

/-- `t` differs from `s` in memory alone, and there in no byte outside two ranges. -/
def OnlyRanges (l o : Nat × Nat) (s t : State) : Prop :=
  t.ids = s.ids ∧ t.cores = s.cores ∧ ∀ y, (y < l.1 ∨ l.1 + l.2 ≤ y) → (y < o.1 ∨ o.1 + o.2 ≤ y) → readByte t y = readByte s y

section
variable {l o : Nat × Nat} {s t u : State}

theorem OnlyRanges.refl (l o : Nat × Nat) (s : State) : OnlyRanges l o s s := ⟨rfl, rfl, fun _ _ _ => rfl⟩

theorem OnlyRanges.trans (first : OnlyRanges l o s t) (second : OnlyRanges l o t u) : OnlyRanges l o s u :=
  ⟨second.1.trans first.1, second.2.1.trans first.2.1, fun y outL outO => (second.2.2 y outL outO).trans (first.2.2 y outL outO)⟩

theorem OnlyBytes.left {a n : Nat} (only : OnlyBytes a n s t) (low : l.1 ≤ a) (high : a + n ≤ l.1 + l.2) : OnlyRanges l o s t :=
  ⟨only.1, only.2.1, fun y outL _ => only.2.2 y (by omega)⟩

theorem OnlyBytes.right {a n : Nat} (only : OnlyBytes a n s t) (low : o.1 ≤ a) (high : a + n ≤ o.1 + o.2) : OnlyRanges l o s t :=
  ⟨only.1, only.2.1, fun y _ outO => only.2.2 y (by omega)⟩

/-- What lies apart from both ranges reads as before. -/
theorem OnlyRanges.sameBytes (only : OnlyRanges l o s t) {r : Nat × Nat} (apartL : Apart r l) (apartO : Apart r o) :
    SameBytes s t r.1 r.2 := fun y above below => only.2.2 y (by obtain h | h := apartL <;> omega) (by obtain h | h := apartO <;> omega)

end

/-! ### The output of a word -/

/-- Bytes of an element of D, by OUTMODE (R53). -/
def outSize (d : Desc) : Nat := if meOut d = 0 then 0 else if meOut d = 1 then 2 else 4

/-- The element of D for a word that holds `v`: times both tensor scales, rounded once (R108, R109). -/
def outCode (d : Desc) (ta tb : Nat) (v : Int) : Nat :=
  encodeFl (if meOut d = 1 then 8 else 24) (decide (v < 0)) (v.natAbs * ta * tb) (2 ^ 318) false

theorem laccOut_blockWord (p : Nat) (v : Int) (ta tb : Nat) :
    laccOut p (blockWord v) ta tb = encodeFl p (decide (v < 0)) (v.natAbs * ta * tb) (2 ^ 318) false := by
  by_cases zero : v = 0
  · simp [laccOut, blockWord, zero, encodeFl, roundMag]
  · simp only [laccOut, blockWord, zero, Bool.false_eq_true, if_false, Nat.reduceAdd]
    congr 1

theorem outCode_fits {d : Desc} (out : meOut d ≠ 0) (ta tb : Nat) (v : Int) : outCode d ta tb v < 256 ^ outSize d := by
  rw [outCode, outSize, if_neg out]
  split
  · exact encodeFl_lt (p := 8) (by decide) ..
  · exact encodeFl_lt (p := 24) (by decide) ..

/-- The output of word (m, n), when OUTMODE asks for one. -/
theorem meEmit_of_blockWord {c : Nat} {d : Desc} {ta tb : Nat} {s : State} {mn : Nat × Nat} {v : Int} {i : Nat}
    (index : mn.1 * meN d + mn.2 = i) (word : laccAt s ((placeOf s c (lo32 d.w3)).addr + 16 * i) = blockWord v) :
    ∃ t, meEmit c d ta tb s mn = (t, none) ∧ OnlyBytes ((placeOf s c (lo32 d.w2)).addr + outSize d * i) (outSize d) s t ∧
      (meOut d ≠ 0 → readNum t ((placeOf s c (lo32 d.w2)).addr + outSize d * i) (outSize d) = outCode d ta tb v) := by
  by_cases out : meOut d = 0
  · exact ⟨s, by rw [meEmit, if_pos out], .refl .., fun h => absurd out h⟩
  · obtain ⟨only, reads⟩ := writeNum_spec s ((placeOf s c (lo32 d.w2)).addr + outSize d * i) (outSize d) _ (outCode_fits out ta tb v)
    refine ⟨_, ?_, only, fun _ => reads⟩
    have size : (if meOut d = 1 then 2 else 4) = outSize d := by rw [outSize, if_neg out]
    have read : laccRead (laccOf (readNum s ((placeOf s c (lo32 d.w3)).addr + 16 * i) 16)) = none := by
      rw [← laccAt, word]
      exact (takesBlock_blockWord v).1
    rw [meEmit, if_neg out]
    simp only [index, outWord, read, size, Nat.mul_comm i]
    rw [← laccAt, word, laccOut_blockWord]
    simp only [beq_iff_eq, outCode, size]

/-! ### Word by word -/

/-- The words of a tile in their order. -/
theorem cells_eq (m n : Nat) : cells m n = (List.range (m * n)).map fun i => (i / n, i % n) := by
  induction m with
  | zero => simp [cells]
  | succ m ih =>
    have row : ∀ j ∈ List.range n, (m, j) = ((m * n + j) / n, (m * n + j) % n) := fun j inside => by
      have small := List.mem_range.1 inside
      rw [Nat.mul_comm, Nat.mul_add_div (by omega), Nat.mul_add_mod, Nat.div_eq_of_lt small, Nat.mod_eq_of_lt small, Nat.add_zero]
    rw [cells] at ih
    rw [cells, List.range_succ, List.flatMap_append, ih, Nat.succ_mul, List.range_add, List.map_append, List.map_map]
    simpa using row

theorem runAll_map {α β : Type} (f : State → β → State × Option Fail) (g : α → β) (l : List α) (s : State) :
    runAll f s (l.map g) = runAll (fun s x => f s (g x)) s l := by
  induction l generalizing s with
  | nil => rfl
  | cons x l ih => simp only [List.map_cons, runAll, ih]

/-- The products of one word, and its output. -/
def meCell (c : Nat) (d : Desc) (n ta tb : Nat) (term : State → Nat × Nat → Nat → Except Fail Int) (s : State) (l : Nat) (mn : Nat × Nat) :
    State × Option Fail :=
  match runAll (fun s j => orFail s (term s mn j) fun t => addTerm s (l + 16 * (mn.1 * meN d + mn.2)) false t) s (List.range n) with
  | (s, some e) => (s, some e)
  | (s, none) => meEmit c d ta tb s mn

theorem meProducts_eq (c : Nat) (d : Desc) (n ta tb : Nat) (term : State → Nat × Nat → Nat → Except Fail Int) (s : State) :
    meProducts c d false n ta tb term s =
      let l := (placeOf s c (lo32 d.w3)).addr
      runAll (fun s i => meCell c d n ta tb term s l (i / meN d, i % meN d))
        (if meInit d then clearTile s l (meM d * meN d) else s) (List.range (meM d * meN d)) := by
  rw [meProducts, cells_eq, runAll_map]
  rfl

section
variable {c : Nat} {d : Desc} {n ta tb : Nat} {s : State}

/-- Where L lies, and where D does. -/
def lRange (s : State) (c : Nat) (d : Desc) : Nat × Nat := ((placeOf s c (lo32 d.w3)).addr, 16 * (meM d * meN d))
/-- Where D lies; no byte without an output. -/
def dRange (s : State) (c : Nat) (d : Desc) : Nat × Nat := ((placeOf s c (lo32 d.w2)).addr, outSize d * (meM d * meN d))

/-- Word `i` of L. -/
def wordOf (s : State) (c : Nat) (d : Desc) (u : State) (i : Nat) : Lacc := laccAt u ((lRange s c d).1 + 16 * i)
/-- Element `i` of D. -/
def outOf (s : State) (c : Nat) (d : Desc) (u : State) (i : Nat) : Nat := readNum u ((dRange s c d).1 + outSize d * i) (outSize d)

/-- The first `k` words of the tile are done: they hold `final` and have given their output; the others hold `start` still. -/
def TileSoFar (s : State) (c : Nat) (d : Desc) (ta tb : Nat) (start final : Nat → Int) (k : Nat) (u : State) : Prop :=
  OnlyRanges (lRange s c d) (dRange s c d) s u ∧
  (∀ i < k, wordOf s c d u i = blockWord (final i) ∧ (meOut d ≠ 0 → outOf s c d u i = outCode d ta tb (final i))) ∧
  ∀ i, k ≤ i → i < meM d * meN d → TakesBlock (wordOf s c d u i) (start i)

/-- The change of one word and of its output leaves the other words and outputs. -/
theorem tile_others {u v : State} {i j : Nat} (apart : Apart (lRange s c d) (dRange s c d)) (inI : i < meM d * meN d)
    (inJ : j < meM d * meN d) (other : j ≠ i)
    (only : OnlyRanges ((lRange s c d).1 + 16 * i, 16) ((dRange s c d).1 + outSize d * i, outSize d) u v) :
    wordOf s c d v j = wordOf s c d u j ∧ outOf s c d v j = outOf s c d u j := by
  have slot : ∀ a b, a < b → outSize d * a + outSize d ≤ outSize d * b := fun a b h => by
    rw [← Nat.mul_succ]; exact Nat.mul_le_mul_left _ h
  have slotI := slot i _ inI
  have slotJ := slot j _ inJ
  have between : outSize d * i + outSize d ≤ outSize d * j ∨ outSize d * j + outSize d ≤ outSize d * i :=
    (Nat.lt_or_gt_of_ne other).symm.imp (slot _ _) (slot _ _)
  simp only [Apart, lRange, dRange] at apart
  refine ⟨laccAt_congr (only.sameBytes (r := (_, 16)) ?_ ?_), readNum_congr (only.sameBytes (r := (_, outSize d)) ?_ ?_)⟩ <;>
    simp only [Apart, lRange, dRange] <;> omega

end

end Sys2Proof.Machine

namespace Sys2Proof.Machine

/-! ### A tile that is cleared (03 R96) -/

theorem readNum_of_zeros {s : State} {a n : Nat} (zeros : ∀ y, a ≤ y → y < a + n → readByte s y = 0) : readNum s a n = 0 := by
  have bytes : readBytes s a n = List.replicate n 0 := List.eq_replicate_iff.2 ⟨by simp [readBytes], fun b hb => by
    obtain ⟨i, hi, rfl⟩ := List.mem_map.1 hb
    exact zeros (a + i) (by omega) (by have := List.mem_range.1 hi; omega)⟩
  have number : ∀ k, leNat (List.replicate k 0) = 0 := fun k => by
    induction k with
    | zero => rfl
    | succ k ih => rw [List.replicate_succ, leNat, ih]; rfl
  rw [readNum, bytes, number]

theorem onlyBytes_clearTile (s : State) (l n : Nat) : OnlyBytes l (16 * n) s (clearTile s l n) :=
  ⟨rfl, rfl, fun y outside => (Memory.byte_zero ..).trans (if_neg (by omega))⟩

theorem laccAt_clearTile {s : State} {l n i : Nat} (inside : i < n) : laccAt (clearTile s l n) (l + 16 * i) = laccOf 0 :=
  congrArg laccOf (readNum_of_zeros fun y low high => (Memory.byte_zero ..).trans (if_pos (by omega)))

/-! ### Every word of the tile -/

section
variable {s : State} {c : Nat} {d : Desc} {n ta tb : Nat} {start final : Nat → Int} {terms : Nat → Nat → Int}
  {term : State → Nat × Nat → Nat → Except Fail Int}
  (apart : Apart (lRange s c d) (dRange s c d)) (work : 0 < n)
  (fits : ∀ i < meM d * meN d, ∀ j ≤ n, InWord (start i + sumTo (terms i) j))
  (result : ∀ i < meM d * meN d, final i = start i + sumTo (terms i) n)
  (reads : ∀ u, OnlyRanges (lRange s c d) (dRange s c d) s u → ∀ i < meM d * meN d, ∀ j < n,
    term u (i / meN d, i % meN d) j = .ok (terms i j))
include apart work fits result reads

/-- One word more of the tile. -/
theorem meCell_of_tileSoFar {i : Nat} (inside : i < meM d * meN d) {u : State} (sofar : TileSoFar s c d ta tb start final i u) :
    ∃ v, meCell c d n ta tb term u (lRange s c d).1 (i / meN d, i % meN d) = (v, none) ∧
      TileSoFar s c d ta tb start final (i + 1) v := by
  obtain ⟨only, done, waiting⟩ := sofar
  have index : i / meN d * meN d + i % meN d = i := Nat.div_add_mod' i (meN d)
  have slotL : 16 * i + 16 ≤ 16 * (meM d * meN d) := by omega
  have slotD : outSize d * i + outSize d ≤ outSize d * (meM d * meN d) := by rw [← Nat.mul_succ]; exact Nat.mul_le_mul_left _ inside
  have inL : ∀ {x y : State}, OnlyBytes ((lRange s c d).1 + 16 * i) 16 x y → OnlyRanges (lRange s c d) (dRange s c d) x y :=
    fun only => only.left (Nat.le_add_right ..) (by simp only [lRange]; omega)
  -- the products
  obtain ⟨t, added, one, -, word⟩ := runAll_addTerm (term := fun u j => term u (i / meN d, i % meN d) j) (waiting i (Nat.le_refl i) inside)
    (fits i inside) fun v one j hj => reads v (only.trans (inL one)) i inside j hj
  have onlyT := only.trans (inL one)
  rw [← result i inside] at word
  -- the output
  have place := placeOf_congr onlyT.2.1 c
  obtain ⟨v, emitted, two, code⟩ := meEmit_of_blockWord (ta := ta) (tb := tb) (s := t) (c := c) (mn := (i / meN d, i % meN d)) index
    (by rw [place]; exact word work)
  rw [place] at two code
  have inD : OnlyRanges (lRange s c d) (dRange s c d) t v := two.right (Nat.le_add_right ..) (by simp only [dRange]; omega)
  have both : OnlyRanges ((lRange s c d).1 + 16 * i, 16) ((dRange s c d).1 + outSize d * i, outSize d) u v :=
    (one.left (Nat.le_refl _) (Nat.le_refl _)).trans (two.right (Nat.le_refl _) (Nat.le_refl _))
  have kept : wordOf s c d v i = wordOf s c d t i := laccAt_congr (sameBytes_of_onlyBytes two (by
    simp only [Apart, lRange, dRange] at apart ⊢
    omega))
  refine ⟨v, ?_, onlyT.trans inD, fun k hk => ?_, fun k low high => ?_⟩
  · simp only [meCell, index]
    rw [added]
    exact emitted
  · obtain rfl | before := Nat.eq_or_lt_of_le (Nat.le_of_lt_succ hk)
    · exact ⟨kept.trans (word work), code⟩
    · obtain ⟨sameWord, sameOut⟩ := tile_others apart inside (Nat.lt_trans before inside) (Nat.ne_of_lt before) both
      rw [sameWord, sameOut]
      exact done k before
  · rw [(tile_others apart inside high (Nat.ne_of_gt low) both).1]
    exact waiting k (Nat.le_of_succ_le low) high

/-- The whole tile: every word holds what it held, or 0 after INIT, plus its terms, and gives its output. -/
theorem meProducts_of_terms
    (sound : meInit d = false → ∀ i < meM d * meN d, TakesBlock (wordOf s c d s i) (start i))
    (cleared : meInit d = true → ∀ i, start i = 0) :
    ∃ t, meProducts c d false n ta tb term s = (t, none) ∧ TileSoFar s c d ta tb start final (meM d * meN d) t := by
  rw [meProducts_eq]
  refine runAll_range_induction (P := TileSoFar s c d ta tb start final) ?_ fun i inside u sofar =>
    meCell_of_tileSoFar apart work fits result reads inside sofar
  refine ⟨?_, fun i hi => absurd hi (Nat.not_lt_zero i), fun i _ inside => ?_⟩ <;> cases init : meInit d
  · exact .refl ..
  · exact (onlyBytes_clearTile s _ _).left (Nat.le_refl _) (Nat.le_refl _)
  · exact sound init i inside
  · rw [cleared init, if_pos rfl, wordOf]
    exact (laccAt_clearTile inside).symm ▸ takesBlock_zero

end

end Sys2Proof.Machine

namespace Sys2Proof.Machine

/-! ## MATMUL (02 R55, R57, 03 R108) -/

/-- Checks made in order that find no failure all hold. -/
theorem firstFail_eq_none {l : List (Bool × Code)} (passes : firstFail l = none) : ∀ x ∈ l, x.1 = true := by
  induction l with
  | nil => exact fun x listed => nomatch listed
  | cons p l ih =>
    obtain ⟨good, code⟩ := p
    cases good with
    | false => cases passes
    | true => exact List.forall_mem_cons.2 ⟨rfl, ih passes⟩

/-- An operand that passes its checks has a good header (R577 step 4d). -/
theorem header_of_checkOperand {s : State} {c : Nat} {x : Operand} {ok : List Byte → Bool} (passes : checkOperand s c x = none)
    (header : x.header = some ok) : ok (readBytes s (placeOf s c x.orf).addr 16) = true := by
  have good := firstFail_eq_none (Option.map_eq_none_iff.1 passes) _ (.tail _ (.tail _ (.tail _ (.head _))))
  simpa only [header] using good

theorem checkOperand_of_mem {s : State} {c : Nat} {xs : List Operand} (passes : checkOperands s c xs = none) {x : Operand} (listed : x ∈ xs) :
    checkOperand s c x = none := List.findSome?_eq_none_iff.1 passes x listed

/-- Operand A of a MATMUL (R54). -/
def matmulA (d : Desc) : Operand :=
  { orf := lo32 d.w1, spaces := [1, 4], unit := some 1, rd := true, wr := false, header := some (headerOk [0, 1] true)
    size := tensorBytes (meM d) (meKblk d), dims := (meM d, meKblk d) }

theorem matmulA_mem {s : State} {c : Nat} {d : Desc} (op : descOp d = 0) : matmulA d ∈ (planOf s c .me d).operands := by
  simp [planOf, mePlan, op, matmulA]

/-- Rows of A hold FP4 or INT4 elements (R54). -/
theorem fmt_matmul {s : State} {c : Nat} {d : Desc} (op : descOp d = 0) (operands : checkOperands s c (planOf s c .me d).operands = none) :
    (tensAt s (meA s c d) (meM d) (meKblk d)).fmt ≠ 3 := by
  have good : headerOk [0, 1] true (readBytes s (meA s c d).addr 16) = true :=
    header_of_checkOperand (x := matmulA d) (ok := headerOk [0, 1] true) (checkOperand_of_mem operands (matmulA_mem op)) rfl
  intro (three : hdrFmt (readBytes s (meA s c d).addr 16) = 3)
  simp [headerOk, three] at good

theorem runMatmul_eq (c : Nat) (s : State) (d : Desc) : runMatmul c s d =
    let a := tensAt s (meA s c d) (meM d) (meKblk d)
    let b := tensAt s (meB s c d) (meN d) (meKblk d)
    meProducts c d false (meKblk d) (tsMag a.ts) (tsMag b.ts) (fun u mn j => rowTerm u a b mn j) s := rfl

/-- What word `i` of the tile holds when its products begin (R55). -/
def wordStart (s : State) (c : Nat) (d : Desc) (i : Nat) : Int := if meInit d then 0 else (wordOf s c d s i).sum

/-- The products of block `j` of word `i`. -/
def blockProducts (d : Desc) (x y : Nat → Nat → Int) (i j : Nat) : Int :=
  sumTo (fun k => x (i / meN d) (32 * j + k) * y (i % meN d) (32 * j + k)) 32

theorem sumTo_blockProducts (d : Desc) (x y : Nat → Nat → Int) (i n : Nat) :
    sumTo (blockProducts d x y i) n = sumTo (fun k => x (i / meN d) k * y (i % meN d) k) (32 * n) :=
  sumTo_mul_index (fun k => x (i / meN d) k * y (i % meN d) k) 32 n

/-- Word `i` of the tile stands in its row and column. -/
theorem tile_index {m n i : Nat} (inside : i < m * n) : i / n < m ∧ i % n < n := by
  have columns : 0 < n := Nat.pos_of_ne_zero fun none => by simp [none] at inside
  exact ⟨Nat.div_lt_of_lt_mul (by rwa [Nat.mul_comm]), Nat.mod_lt _ columns⟩

theorem tile_place {m n i j : Nat} (row : i < m) (column : j < n) :
    i * n + j < m * n ∧ (i * n + j) / n = i ∧ (i * n + j) % n = j := by
  have rows : (i + 1) * n ≤ m * n := Nat.mul_le_mul_right _ row
  rw [Nat.succ_mul] at rows
  refine ⟨by omega, ?_, ?_⟩
  · rw [Nat.mul_comm, Nat.mul_add_div (by omega), Nat.div_eq_of_lt column, Nat.add_zero]
  · rw [Nat.mul_comm, Nat.mul_add_mod, Nat.mod_eq_of_lt column]

/-- While what A and B read stands, every term of MATMUL is the products of a block. -/
theorem rowTerm_of_same {s u : State} {a b : Tens} {d : Desc} {x y : Nat → Nat → Int} (format : a.fmt ≠ 3)
    (sizeA : a.rows = meM d ∧ a.kblk = meKblk d) (sizeB : b.rows = meN d ∧ b.kblk = meKblk d)
    (sameA : SameBytes s u a.addr a.bytes) (sameB : SameBytes s u b.addr b.bytes)
    (replays : ∀ r ∈ a.replayRanges s, SameBytes s u r.1 r.2)
    (valuesA : ∀ m < meM d, ∀ k < 32 * meKblk d, spillA10 s a m k = .ok (x m k))
    (valuesB : ∀ n < meN d, ∀ k < 32 * meKblk d, b.value10 s n k = some (y n k))
    {i j : Nat} (inside : i < meM d * meN d) (block : j < meKblk d) :
    rowTerm u a b (i / meN d, i % meN d) j = .ok (blockProducts d x y i j) := by
  obtain ⟨inM, inN⟩ := tile_index inside
  refine rowTerm_eq format (fun k hk => ?_) (fun k hk => ?_)
  · exact (spillA10_congr sameA replays (by omega) (by omega)).trans (valuesA _ inM _ (by omega))
  · exact (value10_congr sameB (by omega) (by omega)).trans (valuesB _ inN _ (by omega))

theorem matmulResultHolds : MatmulResultHolds := by
  intro s c d rest x y head op may operands a b pl pd size words reads word upto away apart valuesA valuesB sound fits
  have same : ∀ {u}, OnlyRanges (lRange s c d) (dRange s c d) s u → ∀ z n, (z, n) ∈ reads → SameBytes s u z n :=
    fun only z n listed => only.sameBytes (r := (z, n)) (away _ listed).1 (away _ listed).2
  have blocks : 0 < meKblk d := Nat.pos_of_ne_zero (may.2.1 (meKblk d, 2 ^ 20 - 1, 524288) (by simp [planOf, mePlan, op])).2
  have terms : ∀ u, OnlyRanges (lRange s c d) (dRange s c d) s u → ∀ i < words, ∀ j < meKblk d,
      rowTerm u a b (i / meN d, i % meN d) j = .ok (blockProducts d x y i j) := fun u only i inside j block =>
    rowTerm_of_same (fmt_matmul op operands) ⟨rfl, rfl⟩ ⟨rfl, rfl⟩ (sameBytes_tensAt rfl (same only _ _ (.head _)))
      (sameBytes_tensAt rfl (same only _ _ (.tail _ (.head _)))) (fun r listed => same only r.1 r.2 (.tail _ (.tail _ listed)))
      valuesA valuesB inside block
  have sums : ∀ i < words, ∀ n, upto (i / meN d) (i % meN d) (32 * n) = wordStart s c d i + sumTo (blockProducts d x y i) n :=
    fun i inside n => by
      rw [sumTo_blockProducts]
      simp only [upto, Nat.div_add_mod']
      rfl
  obtain ⟨u, work, only, done, -⟩ := meProducts_of_terms (ta := tsMag a.ts) (tb := tsMag b.ts) (start := wordStart s c d) apart blocks
    (fun i inside j hj => by rw [← sums i inside]; exact fits _ (tile_index inside).1 _ (tile_index inside).2 j hj)
    (fun i inside => sums i inside (meKblk d)) terms
    (fun fresh i inside => ⟨(sound fresh i inside).1, (sound fresh i inside).2, by rw [wordStart, fresh]; rfl⟩)
    (fun init i => by rw [wordStart, init]; rfl)
  obtain ⟨t, runs, started⟩ := next_started (x := ⟨.me, 0, .matmul, fun _ => noStructs, runMatmul⟩) (.head _) head op
    (fun _ other => by cases other) may operands rfl ((runMatmul_eq c s d).trans work)
  have byte := readByte_of_started started
  have number : ∀ z n, readNum t z n = readNum u z n := fun z n => readNum_congr fun y _ _ => byte y
  refine .of_eq runs ⟨?_, fun m hm n hn => ?_, fun z outL outD => ?_⟩
  · rw [started.2.2.1, only.1]
  · obtain ⟨inside, row, column⟩ := tile_place hm hn
    obtain ⟨holds, out⟩ := done (m * meN d + n) inside
    simp only [row, column] at holds out
    exact ⟨(congrArg laccOf (number ..)).trans holds, fun asked => (number ..).trans (out asked)⟩
  · exact (byte z).trans (only.2.2 z outL outD)

/-- Settles O18: a start is the cascade of its checks and then its work; the work of MATMUL goes word by word; a completion touches its core. -/
theorem descriptorsRunAndComplete : Obligations.DescriptorsRunAndComplete :=
  ⟨descriptorRunsHolds, matmulResultHolds, descriptorCompletesHolds⟩

end Sys2Proof.Machine

namespace Sys2Proof.Machine

/-! ## An encoding is its own rounding (03 R88)

A finite encoding of `f` fraction bits stands for a significand `q` and a step `s` above the subnormal grid: the encoding without its
sign is `s * 2 ^ f + q`, and the magnitude is `q * 2 ^ s` units of the format's least value, so that rounding finds a whole number. -/

theorem log2_mul_two_pow {q : Nat} (nonzero : q ≠ 0) (a : Nat) : Nat.log2 (q * 2 ^ a) = Nat.log2 q + a := by
  have low := Nat.mul_le_mul_right (2 ^ a) (Nat.log2_self_le nonzero)
  have high := Nat.mul_lt_mul_of_pos_right (Nat.lt_log2_self (n := q)) (Nat.two_pow_pos a)
  rw [← Nat.pow_add] at low high
  exact (Nat.log2_eq_iff (Nat.mul_ne_zero nonzero (Nat.two_pow_pos a).ne')).2 ⟨low, by rwa [Nat.add_right_comm] at high⟩

theorem log2Q_two_pow {n : Nat} (nonzero : n ≠ 0) (b : Nat) : log2Q n (2 ^ b) = (Nat.log2 n : Int) - b := by
  have low := Nat.log2_self_le nonzero
  rw [log2Q, Nat.log2_two_pow]
  split
  · next above =>
    rw [if_pos]
    rwa [decide_eq_true_eq, ← Nat.pow_add, show b + ((Nat.log2 n : Int) - b).toNat = Nat.log2 n by omega]
  · next below =>
    rw [if_pos]
    rw [decide_eq_true_eq]
    calc 2 ^ b = 2 ^ Nat.log2 n * 2 ^ (-((Nat.log2 n : Int) - b)).toNat := by rw [← Nat.pow_add]; congr 1; omega
      _ ≤ _ := Nat.mul_le_mul_right _ low

/-- A scaling that lands on a whole number cuts nothing off. -/
theorem scaleQ_eq_of_exact {q a b : Nat} {k : Int} (exactly : (a : Int) + k = b + 1) : scaleQ (q * 2 ^ a) (2 ^ b) k = (2 * q, false) := by
  have quotient : ∀ c d : Nat, c = d + 1 → (q * 2 ^ c / 2 ^ d, decide (q * 2 ^ c % 2 ^ d ≠ 0)) = (2 * q, false) := by
    rintro _ d rfl
    rw [Nat.pow_succ', ← Nat.mul_assoc, Nat.mul_div_cancel _ (Nat.two_pow_pos d), Nat.mul_mod_left, Nat.mul_comm]
    rfl
  simp only [scaleQ]
  split
  · rw [Nat.mul_assoc, ← Nat.pow_add]
    exact quotient _ _ (by omega)
  · rw [← Nat.pow_add]
    exact quotient _ _ (by omega)

/-- What is exact stays as it is. -/
theorem rne_two_mul (q : Nat) : rne (2 * q) false = q := by simp [rne]

/-- A significand `q` of a format with `f` fraction bits at step `s`: normal, or on the subnormal grid. -/
def Significand (f q s : Nat) : Prop := q < 2 ^ (f + 1) ∧ (s = 0 ∨ 2 ^ f ≤ q)

/-- A finite encoding read: its sign bit, and the significand and the step that its other bits spell. -/
theorem decodeFl_eq_of_finite {f n : Nat} (finite : (decodeFl (f + 1) n).finite = true) :
    ∃ q s, decodeFl (f + 1) n = .fin (n.testBit (f + 8)) (q * 2 ^ (23 - f + s)) ∧ Significand f q s ∧
      s * 2 ^ f + q = n % 2 ^ (f + 8) ∧ s * 2 ^ f + q ≤ 255 * 2 ^ f := by
  have fraction : n % 2 ^ f < 2 ^ f := Nat.mod_lt _ (Nat.two_pow_pos f)
  have exponent : n / 2 ^ f % 256 < 256 := Nat.mod_lt _ (by decide)
  have fields : n % 2 ^ (f + 8) = n % 2 ^ f + 2 ^ f * (n / 2 ^ f % 256) := by rw [Nat.pow_add, Nat.mod_mul]
  have twice : 2 ^ (f + 1) = 2 * 2 ^ f := Nat.pow_succ'
  simp only [decodeFl, fld, Nat.add_sub_cancel, Nat.reduceSubDiff, Nat.pow_zero, Nat.div_one, Nat.reducePow] at finite ⊢
  generalize n / 2 ^ f % 256 = e at *
  generalize n % 2 ^ f = m at *
  split at finite
  · split at finite <;> cases finite
  · next notTop =>
    rw [if_neg notTop, fields]
    by_cases sub : e = 0
    · refine ⟨m, 0, ?_, ⟨by omega, .inl rfl⟩, ?_, ?_⟩
      · simp [sub]
      · simp [sub]
      · omega
    · obtain ⟨s, rfl⟩ : ∃ s, e = s + 1 := ⟨e - 1, by omega⟩
      have below := Nat.mul_le_mul_right (2 ^ f) (show s + 2 ≤ 255 by omega)
      rw [Nat.add_mul] at below
      refine ⟨2 ^ f + m, s, ?_, ⟨by omega, .inr (by omega)⟩, ?_, ?_⟩
      · rw [if_neg sub, Nat.add_sub_cancel, Nat.mul_assoc, ← Nat.pow_add]
      · ring
      · omega

section
variable {f : Nat} (fits : f ≤ 23)
include fits

/-- The exponent that rounding gives a significand: that of its step. -/
theorem exponent_of_significand {q s : Nat} (nonzero : q ≠ 0) (sig : Significand f q s) :
    max (log2Q (q * 2 ^ (23 - f + s)) (2 ^ 149)) (-126) = (s : Int) - 126 := by
  obtain ⟨high, low⟩ := sig
  have below := (Nat.log2_lt nonzero).2 high
  rw [log2Q_two_pow (Nat.mul_ne_zero nonzero (Nat.two_pow_pos _).ne'), log2_mul_two_pow nonzero]
  obtain rfl | normal := low
  · omega
  · have := (Nat.le_log2 nonzero).2 normal
    omega

theorem roundMag_of_significand {q s : Nat} (sig : Significand f q s) (finite : s * 2 ^ f + q ≤ 255 * 2 ^ f) :
    roundMag (f + 1) (q * 2 ^ (23 - f + s)) (2 ^ 149) false = s * 2 ^ f + q := by
  by_cases zero : q = 0
  · obtain rfl : s = 0 := sig.2.resolve_right (by have := Nat.two_pow_pos f; omega)
    simp [roundMag, zero]
  · have exponent := exponent_of_significand fits zero sig
    have whole := scaleQ_eq_of_exact (q := q) (a := 23 - f + s) (b := 149) (k := (f + 1 : Nat) - 1 - ((s : Int) - 126) + 1) (by omega)
    have place : ((s : Int) - 126 + 126).toNat = s := by omega
    simp only [roundMag, exponent, whole, place, rne_two_mul, Bool.or_false, Nat.add_sub_cancel]
    rw [if_neg (Nat.mul_ne_zero zero (Nat.two_pow_pos _).ne'), Nat.min_eq_left finite]

/-- Rounding moves no finite encoding. -/
theorem roundEx_decodeFl {n : Nat} (small : n < 2 ^ (f + 9)) (finite : (decodeFl (f + 1) n).finite = true) :
    roundEx (f + 1) (decodeFl (f + 1) n).ex = n := by
  obtain ⟨q, s, read, sig, low, top⟩ := decodeFl_eq_of_finite finite
  have sign : n = n % 2 ^ (f + 8) + 2 ^ (f + 8) * (n / 2 ^ (f + 8) % 2) := by
    rw [← Nat.mod_mul, ← Nat.pow_succ, Nat.mod_eq_of_lt small]
  rw [read, Fl.ex, roundEx, encodeFl, roundMag_of_significand fits sig top, low, Nat.testBit_eq_decide_div_mod_eq]
  obtain positive | negative := Nat.mod_two_eq_zero_or_one (n / 2 ^ (f + 8))
  · rw [positive] at sign ⊢
    simpa using sign.symm
  · rw [negative] at sign ⊢
    simpa [Nat.add_comm] using sign.symm

end

theorem roundingKeepsRepresentableHolds : RoundingKeepsRepresentableHolds :=
  ⟨fun _ small => roundEx_decodeFl (f := 23) (by decide) small, fun _ small => roundEx_decodeFl (f := 7) (by decide) small⟩

/-- A word that had overflowed is refused for that alone, its residue being sound (R99, R579). -/
theorem laccRead_of_ovf {a : Lacc} (residue : a.res = mod7 a.sum) (ovf : a.ovf = true) : laccRead a = some .overflow := by
  have ne : mod7 a.sum ≠ 7 := (mod7_lt _).ne
  simp [laccRead, firstFail, residue, ne, ovf]

theorem partialSumWordHolds : PartialSumWordHolds := fun a res low high residue =>
  ⟨laccOf_laccBits (Nat.lt_succ_of_lt res) ⟨low, high⟩, fun sound => (laccRead_eq_none_iff a).2 ⟨residue, sound⟩, laccRead_of_ovf residue⟩

/-- Settles O19: the fields of a word stand apart, and a finite encoding spells the significand that rounding finds. -/
theorem exactNumbers : Obligations.ExactNumbers := ⟨partialSumWordHolds, roundingKeepsRepresentableHolds⟩

end Sys2Proof.Machine

namespace Sys2Proof.Machine

/-! ## A step that leaves a memory out of canonical form (01 R22, R23, R122) -/

/-- Region 0 is FULL and its physical row 15 has a defective column. The memory, in canonical form, lists the first byte of core 0 and
one 2^48 above it, past the addresses of the cores and before those of Snowpack. -/
def strayByte : State :=
  { State.reset with
    regions := [(0, { org := { shape := .full, rows := [(15, { defect := true })] } })]
    mem := [(0, 1), (2 ^ 48, 1)] }

/-- A second dead core of the row drops it. The addresses of the cores are renamed by the 14 bits that number a core, and so both bytes
come to stand at address 0. -/
theorem next_coreShift_strayByte : Next (exec (.coreShift 0 15 0 false) strayByte) fun t => t.mem = [(0, 1), (0, 1)] := by
  have serves : logRow (regionOf strayByte 0).org 15 = some 15 := by decide
  have drops : execCoreShift 0 15 0 false strayByte = .next (dropRow (noteDeath strayByte 0 15 0 .capacity) 0 15) :=
    execCoreShift_of_defect (r := 0) (row := 15) (col := 0) serves (by decide) (by decide) (by decide) false
  have mem : (dropRow (noteDeath strayByte 0 15 0 .capacity) 0 15).mem = [(0, 1), (0, 1)] := by decide +kernel
  exact .of_eq drops mem

/-- Refutes O4: two bytes of a memory in canonical form get one address when a row is dropped. -/
theorem not_stepKeepsMemoryCanonical : ¬ Obligations.StepKeepsMemoryCanonical := by
  intro keeps
  obtain ⟨t, run, mem⟩ := next_coreShift_strayByte
  have canonical : t.memOk = true := keeps { strayByte with pending := [.coreShift 0 15 0 false] } t rfl ((step_cons rfl).trans run)
  rw [State.memOk, mem] at canonical
  exact absurd canonical (by simp [Memory.wf, Tbl.wf, Tbl.wfFrom])

end Sys2Proof.Machine

namespace Sys2Proof.Machine

/-! ## The checks at a window (04 R151) -/

/-- Checks with one code, ahead of others: that code when one of them fails. -/
theorem firstFail_append_of_fail {code : Code} {l : List (Bool × Code)} (same : ∀ x ∈ l, x.2 = code) (bad : ∃ x ∈ l, x.1 = false)
    (more : List (Bool × Code)) : firstFail (l ++ more) = some code := by
  induction l with
  | nil => obtain ⟨x, listed, -⟩ := bad; exact absurd listed List.not_mem_nil
  | cons p l ih =>
    obtain ⟨good, c⟩ := p
    cases good with
    | false => exact congrArg some (same _ List.mem_cons_self)
    | true => exact ih (fun x listed => same x (.tail _ listed)) (by simpa using bad)

/-- Checks that hold leave the answer to those after them. -/
theorem firstFail_append_of_pass {l : List (Bool × Code)} (good : ∀ x ∈ l, x.1 = true) (more : List (Bool × Code)) :
    firstFail (l ++ more) = firstFail more := by
  induction l with
  | nil => rfl
  | cons p l ih =>
    obtain ⟨g, c⟩ := p
    obtain rfl : g = true := good _ List.mem_cons_self
    exact ih fun x listed => good x (.tail _ listed)

/-- Checks 3 to 7: the window is open, takes accesses of this kind, from this source, of its epoch, and the first byte is one of its own. -/
def entryChecks (s : State) (c w src : Nat) (kind : Kind) (epoch dest : Nat) : List (Bool × Code) :=
  let x := windowOf (coreOf s c) w
  let r := windowRange (coreOf s c) x
  [(x.opened, .window),
   (if kind = .readReq then x.dir / 2 == 1 else x.dir % 2 == 1, .window),
   (match leafOf s src with | some l => beneath s x.src l | none => false, .window),
   (epoch == x.epoch, .window),
   (decide (fld dest 30 4 = r.1) && decide (r.2.1 ≤ fld dest 0 30) && decide (fld dest 0 30 < r.2.1 + r.2.2), .window)]

/-- Checks 8 and 9: the last byte, and the mode with the grain of 16 bytes that accumulation asks for. -/
def extentChecks (s : State) (c w : Nat) (kind : Kind) (dest len : Nat) : List (Bool × Code) :=
  let x := windowOf (coreOf s c) w
  let r := windowRange (coreOf s c) x
  let off := fld dest 0 30
  [(decide (off + len ≤ r.2.1 + r.2.2), .length),
   (kind = .readReq || (x.accum == decide (kind = .accum) && (!x.accum || (off % 16 == 0 && len % 16 == 0))), .format)]

/-- An access of the kind suits window `x`: a read does, and a write that accumulates as the window does, in whole words of 16 bytes. -/
def Suits (x : Window) (kind : Kind) (off len : Nat) : Prop :=
  kind = .readReq ∨ (x.accum = true ↔ kind = .accum) ∧ (x.accum = true → off % 16 = 0 ∧ len % 16 = 0)

open Classical in
theorem firstFail_extentChecks (s : State) (c w : Nat) (kind : Kind) (dest len : Nat) :
    firstFail (extentChecks s c w kind dest len) =
      let x := windowOf (coreOf s c) w
      let r := windowRange (coreOf s c) x
      if fld dest 0 30 + len ≤ r.2.1 + r.2.2 then if Suits x kind (fld dest 0 30) len then none else some .format else some .length := by
  have suits : ∀ (x : Window) off, (kind = .readReq || (x.accum == decide (kind = .accum) &&
      (!x.accum || (off % 16 == 0 && len % 16 == 0)))) = decide (Suits x kind off len) := fun x off => by
    cases h : x.accum <;> simp [Suits, h, beq_eq_decide]
  simp only [extentChecks, firstFail, suits, decide_eq_true_eq]

section
variable {s : State} {c w src : Nat} {kind : Kind} {epoch dest : Nat} (len : Nat)

theorem windowCode_eq : windowCode s c w src kind epoch dest len =
    firstFail (entryChecks s c w src kind epoch dest ++ extentChecks s c w kind dest len) := rfl

theorem windowCode_of_entry (bad : ∃ x ∈ entryChecks s c w src kind epoch dest, x.1 = false) :
    windowCode s c w src kind epoch dest len = some .window :=
  firstFail_append_of_fail (by simp [entryChecks]) bad _

theorem windowCode_of_extent (good : ∀ x ∈ entryChecks s c w src kind epoch dest, x.1 = true) :
    windowCode s c w src kind epoch dest len = firstFail (extentChecks s c w kind dest len) :=
  firstFail_append_of_pass good _

end

theorem dir_lt_four (x : Window) : x.dir < 4 := Nat.mod_lt _ (by decide)

/-- Settles O22: a breach of checks 3 to 7 is answered WINDOW, and an access that they pass as checks 8 and 9 have it. -/
theorem windowChecks : Obligations.WindowChecks := by
  classical
  intro s c w src kind epoch dest len asked k x r off code
  have entry : (∃ y ∈ entryChecks s c w src kind epoch dest, y.1 = false) → code = some .window := windowCode_of_entry len
  have small : x.dir < 4 := dir_lt_four x
  refine ⟨fun shut => entry ⟨_, .head _, shut⟩, fun _ read write => entry ⟨_, .tail _ (.head _), ?_⟩,
    fun _ write read => entry ⟨_, .tail _ (.head _), ?_⟩, fun _ stranger => entry ⟨_, .tail _ (.tail _ (.head _)), ?_⟩,
    fun _ other => entry ⟨_, .tail _ (.tail _ (.tail _ (.head _))), beq_false_of_ne other⟩,
    fun _ outside => entry ⟨_, .tail _ (.tail _ (.tail _ (.tail _ (.head _)))), ?_⟩,
    fun l opened leaf below same space low high way => ?_⟩
  · exact (if_pos read).trans (beq_false_of_ne (show x.dir / 2 ≠ 1 by omega))
  · exact (if_neg write).trans (beq_false_of_ne (show x.dir % 2 ≠ 1 by omega))
  · cases leaf : leafOf s src with
    | none => rfl
    | some l => exact stranger l leaf
  · show (decide (fld dest 30 4 = r.1) && decide (r.2.1 ≤ off) && decide (off < r.2.1 + r.2.2)) = false
    simp only [Bool.and_eq_false_iff, decide_eq_false_iff_not]
    omega
  · have good : ∀ y ∈ entryChecks s c w src kind epoch dest, y.1 = true := by
      simp only [entryChecks, List.forall_mem_cons, leaf]
      refine ⟨opened, ?_, below, beq_iff_eq.2 same, ?_, nofun⟩
      · by_cases read : kind = .readReq <;> simpa [read] using way
      · show (decide (fld dest 30 4 = r.1) && decide (r.2.1 ≤ off) && decide (off < r.2.1 + r.2.2)) = true
        simp [space, low, high]
    have rest := (windowCode_of_extent len good).trans (firstFail_extentChecks s c w kind dest len)
    change code = if off + len ≤ r.2.1 + r.2.2 then if Suits x kind off len then none else some .format else some .length at rest
    rw [rest]
    refine ⟨fun long => if_neg (Nat.not_le.2 long), fun inside => ?_⟩
    rw [if_pos inside]
    refine ⟨fun read => if_pos (.inl read), ?_, ?_⟩
    · rintro rfl
      exact ⟨fun on => if_neg (by simp [Suits, on]), fun off => if_pos (by simp [Suits, off])⟩
    · rintro rfl
      refine ⟨fun off => if_neg (by simp [Suits, off]), fun on => ⟨fun whole => if_pos (by simp [Suits, on, whole]), fun part => if_neg ?_⟩⟩
      simp only [Suits, on]
      simpa [imp_iff_not_or] using part

end Sys2Proof.Machine

namespace Sys2Proof.Machine

/-! ## SETH, OPENW and CLOSEW (04 R144, R147, R150, R154) -/

/-! ### The checks rest on what a slot's turn leaves -/

theorem csmOf_congr {s t : State} (h : t.mills = s.mills) (c : Nat) : csmOf t c = csmOf s c := by
  simp only [csmOf, ownerOf_congr h, millOf_congr h, coresOf_congr h]

/-- A turn marks its slot as done and ends a stall; nothing else of the core differs. -/
theorem coreOf_begun (s : State) (c k : Nat) :
    coreOf (begun s c k) c =
      { coreOf s c with stall := 0, detail := 0, scc := { (coreOf s c).scc with done := k :: (coreOf s c).scc.done } } :=
  coreOf_updCore_same ..

@[simp] theorem sreg_begun (s : State) (c k i : Nat) : sreg (coreOf (begun s c k) c) i = sreg (coreOf s c) i := by
  rw [coreOf_begun]; rfl

@[simp] theorem handleOf_begun (s : State) (c k i : Nat) : handleOf (coreOf (begun s c k) c) i = handleOf (coreOf s c) i := by
  rw [coreOf_begun]; rfl

@[simp] theorem windowOf_begun (s : State) (c k i : Nat) : windowOf (coreOf (begun s c k) c) i = windowOf (coreOf s c) i := by
  rw [coreOf_begun]; rfl

@[simp] theorem csmOf_begun (s : State) (c k d : Nat) : csmOf (begun s c k) d = csmOf s d := csmOf_congr (s := s) (t := begun s c k) rfl d

@[simp] theorem checkHandle_begun (s : State) (c k h : Nat) (e : Handle) : checkHandle (begun s c k) c h e = checkHandle s c h e := by
  simp only [checkHandle, csmOf_begun, coreOf_begun]

@[simp] theorem checkWindow_begun (s : State) (c k w : Nat) (e : Window) : checkWindow (begun s c k) c w e = checkWindow s c w e := by
  have mills : (begun s c k).mills = s.mills := rfl
  simp only [checkWindow, csmOf_begun, handleOf_begun, windowOf_begun, leafOf_congr mills, millOf_congr mills]

/-! ### Entries of a core's tables -/

theorem handleOf_set (k : Core) (h i : Nat) (e : Handle) :
    handleOf { k with handles := Tbl.set {} k.handles h e } i = if i = h then e else handleOf k i := Tbl.get_set ..

theorem windowOf_set (k : Core) (w i : Nat) (e : Window) :
    windowOf { k with windows := Tbl.set {} k.windows w e } i = if i = w then e else windowOf k i := Tbl.get_set ..

theorem windowOf_upd (k : Core) (w i : Nat) (f : Window → Window) :
    windowOf { k with windows := Tbl.upd {} k.windows w f } i = if i = w then f (windowOf k w) else windowOf k i := Tbl.get_upd ..

/-- A change of core `c` after a turn of one of its slots. -/
theorem onlyCore_updCore_begun (s : State) (c k : Nat) (f : Core → Core) : OnlyCore c s (updCore (begun s c k) c f) :=
  (onlyCore_begun s c k).trans (.updCore ..)

section
variable {s : State} {c : CoreId}

/-- In its turn SETH checks the two words that its scalars bring, and installs them (R144, R147). -/
theorem execSetH_of_takesEffect {h : Fin 64} {sp : Fin 16} (now : TakesEffect s c (slot12 s c (.setH c h sp)) (.setH c h sp)) :
    let u := begun s c (slot12 s c (.setH c h sp))
    let e : Handle := { w0 := sreg (coreOf s c) (2 * sp.val), w1 := sreg (coreOf s c) (2 * sp.val + 1) }
    execSetH c h sp s = .next (match checkHandle s c h e with
      | some x => failInstr u c 10 { code := x }
      | none => updCore u c fun k => { k with handles := Tbl.set {} k.handles h e }) := by
  refine (turn12_of_takesEffect now _).trans (congrArg _ ?_)
  simp only [sreg_begun, checkHandle_begun]
  rfl

theorem execOpenW_of_takesEffect {w sp : Fin 16} (now : TakesEffect s c (slot12 s c (.openW c w sp)) (.openW c w sp)) :
    let u := begun s c (slot12 s c (.openW c w sp))
    let e : Window := { opened := true, w0 := sreg (coreOf s c) (2 * sp.val), w1 := sreg (coreOf s c) (2 * sp.val + 1) }
    execOpenW c w sp s = .next (match checkWindow s c w e with
      | some x => failInstr u c 10 { code := x }
      | none => updCore u c fun k => { k with windows := Tbl.set {} k.windows w e }) := by
  refine (turn12_of_takesEffect now _).trans (congrArg _ ?_)
  simp only [sreg_begun, checkWindow_begun]
  rfl

theorem execCloseW_of_takesEffect {w : Fin 16} (now : TakesEffect s c (slot12 s c (.closeW c w)) (.closeW c w)) :
    let u := begun s c (slot12 s c (.closeW c w))
    execCloseW c w s = .next (if (windowOf (coreOf s c) w).opened = false ∨ window15 s c w = true then failInstr u c 10 { code := .state }
      else updCore u c fun k => { k with windows := Tbl.upd {} k.windows w fun x => { x with opened := false } }) := by
  refine (turn12_of_takesEffect now _).trans (congrArg _ ?_)
  simp [window15, Fail.of]

end

theorem window15_eq_true_iff (s : State) (c w : Nat) : window15 s c w = true ↔ w = 15 ∧ (csmOf s c).1 ≠ 0 := by simp [window15]

theorem windowBusy_eq_true_iff (s : State) (c w : Nat) : windowBusy s c w = true ↔ ∃ i ∈ s.race.incoming, i.core = c ∧ i.win = w := by
  simp [windowBusy]

theorem waitsFor_closeW_eq_some_iff (s : State) (c : CoreId) (w : Fin 16) :
    waitsFor s c (.closeW c w) = some (.score, 7, w.val) ↔
      (windowOf (coreOf s c) w).opened = true ∧ window15 s c w = false ∧ windowBusy s c w = true := by
  simp [waitsFor, and_assoc]

theorem handlesAndWindowsHolds : HandlesAndWindowsHolds := by
  intro s c h w sp seth openw closew now core k e x fails
  refine ⟨rfl, fun run => ?_, fun run => ?_, ?_, fun run => ?_⟩
  · have effect : exec seth s = _ := execSetH_of_takesEffect run
    refine ⟨fun good => ?_, fun code bad => effect.trans (by rw [bad])⟩
    rw [show checkHandle s c h _ = none from good] at effect
    refine .of_eq effect ⟨onlyCore_updCore_begun .., ?_, fun i => ?_⟩
    · rw [coreOf_updCore_same]
    · rw [coreOf_updCore_same, handleOf_set, handleOf_begun]
  · have effect : exec openw s = _ := execOpenW_of_takesEffect run
    refine ⟨fun good => ?_, fun code bad => effect.trans (by rw [bad])⟩
    rw [show checkWindow s c w _ = none from good] at effect
    refine .of_eq effect ⟨onlyCore_updCore_begun .., ?_, fun i => ?_⟩
    · rw [coreOf_updCore_same]
    · rw [coreOf_updCore_same, windowOf_set, windowOf_begun]
  · rw [waitsFor_closeW_eq_some_iff, windowBusy_eq_true_iff, ← Bool.not_eq_true, window15_eq_true_iff]
    tauto
  · have effect : exec closew s = _ := execCloseW_of_takesEffect run
    refine ⟨fun opened own => ?_, fun shut => effect.trans (congrArg _ (if_pos ?_))⟩
    · have closes : ¬((windowOf (coreOf s c) w).opened = false ∨ window15 s c w = true) := by
        rw [window15_eq_true_iff, show (windowOf (coreOf s c) w).opened = true from opened]
        tauto
      rw [if_neg closes] at effect
      refine .of_eq effect ⟨onlyCore_updCore_begun .., ?_, fun i => ?_⟩
      · rw [coreOf_updCore_same]
      · rw [coreOf_updCore_same, windowOf_upd, windowOf_begun, windowOf_begun]
    · rwa [window15_eq_true_iff]

/-! ### The checks of a handle, in order (R144) -/

/-- No open window names handle `h`; one without a length is window 15 over a slice of chip shared memory (R141). -/
def unnamed (k : Core) (h : Nat) : Bool := k.windows.all fun p => !(p.2.opened && decide (p.2.len ≠ 0) && p.2.handle == h)

theorem unnamed_eq_true_iff (k : Core) (h : Nat) :
    unnamed k h = true ↔ ∀ p ∈ k.windows, p.2.opened = true → p.2.len ≠ 0 → p.2.handle ≠ h := by
  simp only [unnamed, List.all_eq_true, Bool.not_eq_true', Bool.and_eq_false_iff, decide_eq_false_iff_not, beq_eq_false_iff_ne]
  exact forall₂_congr fun p _ => by cases p.2.opened <;> simp [imp_iff_not_or]

/-- Without reserved bits, in the own stack or an SRAM, what is left to check is the extent, the weight partition and the windows. -/
theorem checkHandle_of_sound {s : State} {c h : Nat} {e : Handle} (valid : e.valid = true) (bit7 : bits e.w0 7 1 = 0)
    (high0 : bits e.w0 34 30 = 0) (high1 : bits e.w1 27 37 = 0) (space : e.space ≤ 2) : checkHandle s c h e =
      if bits e.w1 0 27 ≠ 0x7FFFFFF ∧ e.base + e.len ≤ spaceSize e.space then
        if e.wr = true → e.space = 0 → (coreOf s c).boundary * 65536 ≤ e.base ∨ e.len = 0 then
          if unnamed (coreOf s c) h = true then none else some .state
        else some .window
      else some .length := by
  have low : e.space ≤ 4 ∧ e.space ≠ 3 := by omega
  simp only [checkHandle, valid, firstFail, bit7, high0, high1, low, decide_true, Bool.and_true, Bool.not_true, Bool.false_eq_true,
    if_false, if_true]
  refine if_congr ?_ (if_congr ?_ ?_ rfl) rfl
  · simp [low]
  · cases e.wr <;> simp [imp_iff_not_or, or_assoc]
  · rw [if_pos (by simp [beq_false_of_ne low.2])]
    rfl

theorem handleChecksInOrderHolds : HandleChecksInOrderHolds := by
  intro s c h e valid
  refine ⟨fun reserved => ?_, fun bit7 high0 high1 space => ?_⟩
  · simp [checkHandle, valid, firstFail, Nat.not_le.2 reserved]
  · rw [checkHandle_of_sound valid bit7 high0 high1 space]
    refine ⟨fun beyond => if_neg fun sized => Nat.not_le.2 beyond sized.2, fun inside extent => ?_⟩
    rw [if_pos ⟨extent, inside⟩]
    refine ⟨fun wr weights filled below => if_neg fun spared => ?_, fun rd => ?_⟩
    · exact (spared wr weights).elim (Nat.not_le.2 below) filled
    · rw [if_pos (by simp [rd])]
      exact ⟨fun free => if_pos ((unnamed_eq_true_iff ..).2 free),
        fun p listed opened len named => if_neg fun free => (unnamed_eq_true_iff ..).1 free p listed opened len named⟩

/-- Settles O12: each instruction is its check and one entry of a table written, and the checks of a handle are read off in order. -/
theorem handlesAndWindows : Obligations.HandlesAndWindows := ⟨handlesAndWindowsHolds, handleChecksInOrderHolds⟩

end Sys2Proof.Machine

namespace Sys2Proof.Machine

/-! ## The patrol of Snowpack (11 R409-R411) -/

/-! ### A record in the global ring -/

theorem flt_enterGlobal_ring (s : State) (r : Rec) (copy : Option (Nat × Nat)) :
    (enterGlobal s r copy).flt.ring =
      Tbl.set {} s.flt.ring s.flt.next { r with seq := s.flt.total + 1, ovr := decide (s.flt.unread = 4096) } := by
  unfold enterGlobal
  dsimp only
  rw [raiseIrq_flt]
  cases copy <;> rfl

/-- A record stands where the ring is written next, with its time and its number (R487, R489). -/
theorem get_ring_logRec (s : State) (r : Rec) : Tbl.get {} (logRec s r).flt.ring s.flt.next =
    { r with time := s.glb.time, seq := s.flt.total + 1, ovr := decide (s.flt.unread = 4096) } := by
  unfold logRec
  dsimp only
  split
  · rw [flt_enterGlobal_ring, Tbl.get_set_same]
  · rw [flt_enterGlobal_ring, pushRegion_flt, Tbl.get_set_same]

/-! ### Where the patrol goes next -/

/-- What decides where a patrol reads: the queues with their apertures, the zones, and the stacks in service. -/
def patrolView (s : State) : Tbl Link × BitVec 31 × List Nat × (Nat → Bool) :=
  (s.links, s.snow.zmap, s.snow.zeroing, stackUp s)

theorem patrolFrom_congr {s t : State} (h : patrolView t = patrolView s) (k n a : Nat) : patrolFrom t k n a = patrolFrom s k n a := by
  simp only [patrolView, Prod.mk.injEq] at h
  obtain ⟨links, zmap, zeroing, up⟩ := h
  have same : apertures t = apertures s := by rw [apertures, links, apertures]
  induction n generalizing a with
  | zero => rfl
  | succ n ih => simp only [patrolFrom, zeroing, same, zmap, up, ih]

theorem nextPatrol_congr {s t : State} (h : patrolView t = patrolView s) (k a : Nat) : nextPatrol t k a = nextPatrol s k a := by
  have up : stackUp t = stackUp s := congrArg (·.2.2.2) h
  simp only [nextPatrol, up, patrolFrom_congr h]

/-- Of a controller the patrol sees which stacks are in service. -/
theorem patrolView_updCtl {f : Snw → Snw} (ready : ∀ x, (f x).ready = x.ready) (failed : ∀ x, (f x).failed = x.failed) (s : State) (k : Nat) :
    patrolView (updCtl s k f) = patrolView s := by
  have up : stackUp (updCtl s k f) = stackUp s := funext fun j => by
    by_cases same : j / 6 = k
    · subst same; simp [stackUp, ready, failed]
    · simp [stackUp, ctlOf_updCtl_other _ _ _ _ same]
  rw [patrolView, up]
  rfl

theorem patrolView_congr {s t : State} (links : t.links = s.links) (snow : t.snow = s.snow) : patrolView t = patrolView s := by
  have up : stackUp t = stackUp s := funext fun j => by simp only [stackUp, ctlOf, snow]
  rw [patrolView, links, snow, up, patrolView]

/-! ### A burst read -/

/-- Controller `k` after the burst at `a`: its patrol goes on past it, or begins again (R410). -/
def passedBurst (s : State) (k a : Nat) (x : Snw) : Snw :=
  if (nextPatrol s k (a + 64)).isSome then { x with position := a + 64 } else { x with position := 0, passes := bumpW 32 x.passes }

/-- The stack's own ECC reports a correction with the burst that is read (R409). -/
def dieCounted (s : State) (k : Nat) (die : Bool) : State := if die then ctlCount s k 4 1 else s

theorem execSnowpackPatrol_of_off {s : State} {k : Fin 4} (off : isUp s = false ∨ (ctlOf s k).interval = 0) (found : Burst) (die : Bool) :
    execSnowpackPatrol k found die s = .next s :=
  congrArg Host.Outcome.next (if_pos (by obtain h | h := off <;> simp [snowUp, h]))

/-- A patrol that runs reads the burst at hand, which leaves what decides where it goes next. -/
theorem execSnowpackPatrol_of_next {s : State} {k : Fin 4} {a : Nat} (up : isUp s = true) (runs : (ctlOf s k).interval ≠ 0)
    (next : nextPatrol s k (ctlOf s k).position = some a) (found : Burst) (die : Bool)
    (same : patrolView (patrolBurst (dieCounted s k die) k a found) = patrolView s) :
    execSnowpackPatrol k found die s = .next (updCtl (patrolBurst (dieCounted s k die) k a found) k (passedBurst s k a)) := by
  have go : ¬(!snowUp s || decide ((ctlOf s k).interval = 0)) = true := by simpa [snowUp, up] using runs
  refine (congrArg Host.Outcome.next (if_neg go)).trans (congrArg _ ?_)
  rw [next]
  change (match nextPatrol (patrolBurst (dieCounted s k die) k a found) k (a + 64) with
    | some _ => updCtl (patrolBurst (dieCounted s k die) k a found) k _
    | none => updCtl (patrolBurst (dieCounted s k die) k a found) k _) = _
  rw [nextPatrol_congr same]
  cases h : nextPatrol s k (a + 64) <;> exact congrArg (updCtl _ _) (funext fun x => by simp [passedBurst, h])

section
variable (s : State) (k a : Nat) (x : Snw)
@[simp] theorem passedBurst_cnt : (passedBurst s k a x).cnt = x.cnt := by unfold passedBurst; split <;> rfl
@[simp] theorem passedBurst_writeBacks : (passedBurst s k a x).writeBacks = x.writeBacks := by unfold passedBurst; split <;> rfl
@[simp] theorem passedBurst_ready : (passedBurst s k a x).ready = x.ready := by unfold passedBurst; split <;> rfl
@[simp] theorem passedBurst_failed : (passedBurst s k a x).failed = x.failed := by unfold passedBurst; split <;> rfl
@[simp] theorem passedBurst_position :
    (passedBurst s k a x).position = if (nextPatrol s k (a + 64)).isSome then a + 64 else 0 := by unfold passedBurst; split <;> rfl
@[simp] theorem passedBurst_passes :
    (passedBurst s k a x).passes = if (nextPatrol s k (a + 64)).isSome then x.passes else bumpW 32 x.passes := by
  unfold passedBurst; split <;> rfl
end

@[simp] theorem ctlOf_ctlCount_same (s : State) (k i n : Nat) :
    ctlOf (ctlCount s k i n) k = { ctlOf s k with cnt := Tbl.upd 0 (ctlOf s k).cnt i (bumpBy · n) } := ctlOf_updCtl_same ..

theorem patrolView_ctlCount (s : State) (k i n : Nat) : patrolView (ctlCount s k i n) = patrolView s :=
  patrolView_updCtl (by intro; rfl) (by intro; rfl) s k

section
variable (s : State) (k : Nat) (die : Bool)

theorem dieCounted_same : dieCounted s k die = { s with snow := (dieCounted s k die).snow } := by cases die <;> rfl

@[simp] theorem dieCounted_mem : (dieCounted s k die).mem = s.mem := by cases die <;> rfl
@[simp] theorem dieCounted_cores : (dieCounted s k die).cores = s.cores := by cases die <;> rfl
@[simp] theorem dieCounted_mills : (dieCounted s k die).mills = s.mills := by cases die <;> rfl
@[simp] theorem dieCounted_hop : (dieCounted s k die).hop = s.hop := by cases die <;> rfl
@[simp] theorem dieCounted_pond : (dieCounted s k die).pond = s.pond := by cases die <;> rfl
@[simp] theorem dieCounted_flt : (dieCounted s k die).flt = s.flt := by cases die <;> rfl
@[simp] theorem dieCounted_poison : (dieCounted s k die).snow.poison = s.snow.poison := by cases die <;> rfl
@[simp] theorem snowCtl_dieCounted (a : Nat) : snowCtl (dieCounted s k die) a = snowCtl s a := by cases die <;> rfl

theorem patrolView_dieCounted : patrolView (dieCounted s k die) = patrolView s := by
  cases die
  · rfl
  · exact patrolView_ctlCount s k 4 1

@[simp] theorem ctlOf_dieCounted : ctlOf (dieCounted s k die) k =
    { ctlOf s k with cnt := if die then Tbl.upd 0 (ctlOf s k).cnt 4 bump else (ctlOf s k).cnt } := by
  cases die
  · rfl
  · exact ctlOf_ctlCount_same s k 4 1

end

/-- Counter `i` once the report of the stack's own ECC is counted. -/
theorem get_dieCnt (t : Tbl Nat) (die : Bool) (i : Nat) :
    Tbl.get 0 (if die then Tbl.upd 0 t 4 bump else t) i = if die = true ∧ i = 4 then bump (Tbl.get 0 t 4) else Tbl.get 0 t i := by
  cases die <;> simp [Tbl.get_upd]

/-- A burst that cannot be corrected is counted, with its cause of R429, and poisoned (R410). -/
def snowPoisoned (s : State) (k a : Nat) : State :=
  let t := raiseIrq (ctlCount s k 3 1) (12 + k)
  { t with snow := { t.snow with poison := t.snow.poison ++ [a] } }

theorem snow_snowPoisoned (s : State) (k a : Nat) :
    (snowPoisoned s k a).snow = { (ctlCount s k 3 1).snow with poison := s.snow.poison ++ [a] } := by
  simp [snowPoisoned, ctlCount, updCtl]

@[simp] theorem snowPoisoned_flt (s : State) (k a : Nat) : (snowPoisoned s k a).flt = s.flt := by simp [snowPoisoned, ctlCount]

theorem noEffect_snowPoisoned (s : State) (k a : Nat) : NoEffect s (snowPoisoned s k a) := by simp [NoEffect, snowPoisoned, ctlCount]

theorem patrolView_snowPoisoned (s : State) (k a : Nat) : patrolView (snowPoisoned s k a) = patrolView s :=
  (patrolView_congr (t := raiseIrq (ctlCount s k 3 1) (12 + k)) (by simp) (by simp)).trans (patrolView_ctlCount s k 3 1)

section
variable {s : State} {a : Nat} (sound : a ∉ s.snow.poison) (k : Nat)
include sound

theorem patrolBurst_clean : patrolBurst s k a .clean = s := by simp [patrolBurst, sound]

theorem patrolBurst_corrected (aligned : a % 64 = 0) (mine : snowCtl s a = k) : patrolBurst s k a .corrected =
    updCtl (ctlCount s k 2 1) k fun x => { x with writeBacks := x.writeBacks.filter (· ≠ a) ++ [a] } := by
  have burst : (snowAddr a - 2 ^ 51) / 64 * 64 = a := by rw [snowAddr]; omega
  have strikes : (2 ^ 51 ≤ snowAddr a && touch (a, 64) (a, 64)) = true := by simp [snowAddr, touch]
  simp only [patrolBurst, List.contains_iff_mem, sound, if_false, meetSnow, burst, strikes, if_true, mine]

theorem patrolBurst_uncorrectable (mine : snowCtl s a = k) :
    patrolBurst s k a .uncorrectable = logRec (snowPoisoned s k a) (snowPatrolRec k a) := by
  simp only [patrolBurst, List.contains_iff_mem, sound, if_false, snowUe, mine, snowPoisoned]

end

/-! ### What a patrol of Snowpack does -/

/-- The patrol of controller `k` has gone past the burst at `a`, and a report of the stack's own ECC is counted. -/
def SnowMoved (s : State) (k a : Nat) (die : Bool) (t : State) : Prop :=
  let x := ctlOf s k
  Tbl.get 0 (ctlOf t k).cnt 4 = (if die then bump (Tbl.get 0 x.cnt 4) else Tbl.get 0 x.cnt 4) ∧
  (ctlOf t k).position = (if (nextPatrol s k (a + 64)).isSome then a + 64 else 0) ∧
  (ctlOf t k).passes = (if (nextPatrol s k (a + 64)).isSome then x.passes else bumpW 32 x.passes)

/-- The counters 2 and 3, and what waits for its write-back, are apart from what the patrol has moved. -/
theorem snowMoved_of_burst {s u : State} {k a : Nat} {die : Bool} {i : Nat} {ws : List Nat} (other : i ≠ 4)
    (burst : ctlOf u k = { ctlOf (dieCounted s k die) k with cnt := Tbl.upd 0 (ctlOf (dieCounted s k die) k).cnt i bump, writeBacks := ws }) :
    SnowMoved s k a die (updCtl u k (passedBurst s k a)) ∧
    Tbl.get 0 (ctlOf (updCtl u k (passedBurst s k a)) k).cnt i = bump (Tbl.get 0 (ctlOf s k).cnt i) ∧
    (ctlOf (updCtl u k (passedBurst s k a)) k).writeBacks = ws := by
  rw [SnowMoved, ctlOf_updCtl_same, burst]
  simp [Tbl.get_upd, get_dieCnt, other, other.symm]

section
variable {s : State} {k : Fin 4} {a : Nat} (up : isUp s = true) (runs : (ctlOf s k).interval ≠ 0)
  (next : nextPatrol s k (ctlOf s k).position = some a) (sound : a ∉ s.snow.poison) (die : Bool)
include up runs next sound

theorem next_snowpackPatrol_clean : Next (exec (.snowpackPatrol k .clean die) s) fun t => t = { s with snow := t.snow } ∧
    SnowMoved s k a die t ∧ t.snow.poison = s.snow.poison ∧ (ctlOf t k).writeBacks = (ctlOf s k).writeBacks ∧
    ∀ i, i ≠ 4 → Tbl.get 0 (ctlOf t k).cnt i = Tbl.get 0 (ctlOf s k).cnt i := by
  have clean := patrolBurst_clean (s := dieCounted s k die) (by simpa using sound) k.val
  have run := execSnowpackPatrol_of_next up runs next .clean die (by rw [clean, patrolView_dieCounted])
  rw [clean] at run
  refine .of_eq run ⟨?_, ?_, by simp [updCtl], by simp, fun i other => ?_⟩
  · rw [updCtl, dieCounted_same]
  · simp [SnowMoved, get_dieCnt]
  · simp [get_dieCnt, other]

variable (mine : snowCtl s a = k.val)
include mine

theorem next_snowpackPatrol_corrected (aligned : a % 64 = 0) : Next (exec (.snowpackPatrol k .corrected die) s) fun t =>
    t = { s with snow := t.snow } ∧ SnowMoved s k a die t ∧ t.snow.poison = s.snow.poison ∧ a ∈ (ctlOf t k).writeBacks ∧
    Tbl.get 0 (ctlOf t k).cnt 2 = bump (Tbl.get 0 (ctlOf s k).cnt 2) := by
  let d := dieCounted s k die
  have corrected := patrolBurst_corrected (s := d) (by simpa [d] using sound) k.val aligned (by simpa [d] using mine)
  have run := execSnowpackPatrol_of_next up runs next .corrected die (by
    rw [corrected, patrolView_updCtl (by intro; rfl) (by intro; rfl), patrolView_ctlCount, patrolView_dieCounted])
  have burst : ctlOf (patrolBurst d k a .corrected) k =
      { ctlOf d k with cnt := Tbl.upd 0 (ctlOf d k).cnt 2 bump, writeBacks := (ctlOf d k).writeBacks.filter (· ≠ a) ++ [a] } := by
    rw [corrected, ctlOf_updCtl_same, ctlOf_ctlCount_same]; rfl
  obtain ⟨moved, counted, waits⟩ := snowMoved_of_burst (a := a) (by decide) burst
  refine .of_eq run ⟨?_, moved, ?_, by rw [waits]; simp, counted⟩
  · rw [corrected, show d = _ from dieCounted_same s k die]; rfl
  · rw [corrected]; exact dieCounted_poison s k die

theorem next_snowpackPatrol_uncorrectable : Next (exec (.snowpackPatrol k .uncorrectable die) s) fun t =>
    NoEffect s t ∧ SnowMoved s k a die t ∧ t.snow.poison = s.snow.poison ++ [a] ∧
    Tbl.get 0 (ctlOf t k).cnt 3 = bump (Tbl.get 0 (ctlOf s k).cnt 3) ∧
    Logged s t fun r => r.code = .ecc ∧ r.cls = .info ∧ r.addr = snowAddr a := by
  let d := dieCounted s k die
  have lost : patrolBurst d k a .uncorrectable = logRec (snowPoisoned d k a) (snowPatrolRec k a) :=
    patrolBurst_uncorrectable (by simpa [d] using sound) k.val (by simpa [d] using mine)
  have snow : (patrolBurst d k a .uncorrectable).snow = { (ctlCount d k 3 1).snow with poison := s.snow.poison ++ [a] } := by
    rw [lost, logRec_snow, snow_snowPoisoned, dieCounted_poison]
  have run := execSnowpackPatrol_of_next up runs next .uncorrectable die (by
    rw [lost, patrolView_congr (logRec_links ..) (logRec_snow ..), patrolView_snowPoisoned, patrolView_dieCounted])
  have burst : ctlOf (patrolBurst d k a .uncorrectable) k =
      { ctlOf d k with cnt := Tbl.upd 0 (ctlOf d k).cnt 3 bump, writeBacks := (ctlOf d k).writeBacks } := by
    rw [ctlOf, snow]
    exact ctlOf_ctlCount_same d k 3 1
  obtain ⟨moved, counted, -⟩ := snowMoved_of_burst (a := a) (by decide) burst
  have quiet : NoEffect s (snowPoisoned d k a) := by
    simpa [NoEffect, d] using noEffect_snowPoisoned d k a
  refine .of_eq run ⟨?_, moved, ?_, counted, ?_⟩
  · rw [lost]; simpa [NoEffect] using quiet
  · exact congrArg (·.poison) snow
  · have logged := get_ring_logRec (snowPoisoned d k a) (snowPatrolRec k a)
    rw [snowPoisoned_flt, dieCounted_flt] at logged
    rw [Logged, lost, updCtl_flt, logged]
    exact ⟨rfl, rfl, rfl⟩

end

end Sys2Proof.Machine

namespace Sys2Proof.Machine

/-! ## The patrol of the core stacks (04 R130, R131, R161) -/

/-! ### What the reports about a burst leave -/

/-- Of a region: its shape, and of its memory what the patrol counts and what waits for its write-back. -/
def kvView (x : Region) : Shape × Nat × List Nat × Nat × Nat := (x.org.shape, x.mem.passes, x.mem.writeBacks, x.mem.stkCe, x.mem.stkUe)

theorem logUnseen_kvView : LogUnseen kvView := fun _ _ => rfl

/-- The memory with its poison, the cores, the mills, and what the patrol sees of each region. -/
def kvKept (s : State) : Memory × List Nat × Tbl Core × Tbl Mill × (Nat → Shape × Nat × List Nat × Nat × Nat) :=
  (s.mem, s.poison, s.cores, s.mills, fun g => kvView (regionOf s g))

theorem kvKept_iff {s t : State} : kvKept t = kvKept s ↔ t.mem = s.mem ∧ t.poison = s.poison ∧ t.cores = s.cores ∧ t.mills = s.mills ∧
    ∀ g, kvView (regionOf t g) = kvView (regionOf s g) := by
  simp only [kvKept, Prod.mk.injEq, funext_iff]

@[simp] theorem kvKept_logRec (s : State) (r : Rec) : kvKept (logRec s r) = kvKept s :=
  kvKept_iff.2 ⟨by simp, by simp, by simp, by simp, view_logRec logUnseen_kvView s r⟩

@[simp] theorem kvKept_moraine (s : State) (m : List MEntry) : kvKept { s with moraine := m } = kvKept s := rfl

@[simp] theorem kvKept_addMoraine (s : State) (e : MEntry) : kvKept (addMoraine s e) = kvKept s := by
  unfold addMoraine
  dsimp only
  repeat' split
  all_goals simp

theorem kvKept_updRegion {f : Region → Region} (same : ∀ x, kvView (f x) = kvView x) (s : State) (g : Nat) :
    kvKept (updRegion s g f) = kvKept s := kvKept_iff.2 ⟨rfl, rfl, rfl, rfl, view_updRegion same s g⟩

/-- A spare row taken changes the bursts that are remembered, and the Moraine map or the records (R509). -/
@[simp] theorem kvKept_retireRow (s : State) (a : Nat) : kvKept (retireRow s a) = kvKept s := by
  unfold retireRow
  dsimp only
  split
  · rw [kvKept_addMoraine]; exact kvKept_updRegion (by intro; rfl) ..
  · rw [kvKept_logRec]; exact kvKept_updRegion (by intro; rfl) ..

@[simp] theorem kvKept_stackDead (s : State) (c : Nat) : kvKept (stackDead s c) = kvKept s := by
  unfold stackDead
  dsimp only
  split
  · exact kvKept_updRegion (by intro; rfl) ..
  · rfl

@[simp] theorem stackDead_flt (s : State) (c : Nat) : (stackDead s c).flt = s.flt := by
  unfold stackDead
  dsimp only
  split <;> rfl

/-- A corrected burst is counted, and waits for its write-back (R131, R162). -/
theorem kvKept_noteCe {s : State} {a : Nat} (aligned : a % 64 = 0) : kvKept (noteCe s a) =
    kvKept (eccCount s a fun m => { m with stkCe := bump m.stkCe, writeBacks := m.writeBacks.filter (· ≠ a) ++ [a] }) := by
  have burst : a / 64 * 64 = a := by omega
  have seen : ∀ f : RegMem → List (Nat × Nat),
      kvKept (eccCount s a fun m =>
        { m with stkCe := bump m.stkCe, writeBacks := m.writeBacks.filter (· ≠ a) ++ [a], ceSeen := f m }) =
      kvKept (eccCount s a fun m => { m with stkCe := bump m.stkCe, writeBacks := m.writeBacks.filter (· ≠ a) ++ [a] }) := fun f =>
    kvKept_iff.2 ⟨rfl, rfl, rfl, rfl, fun g => by
      simp only [eccCount, regionOf_updRegion]
      split <;> rfl⟩
  unfold noteCe
  dsimp only
  rw [burst]
  split
  · rw [kvKept_retireRow, seen]
  · rw [seen]

/-- One that is lost is counted (R162). -/
theorem kvKept_noteUe (s : State) (a : Nat) :
    kvKept (noteUe s a) = kvKept (eccCount s a fun m => { m with stkUe := bump m.stkUe }) := by
  have seen : ∀ f : RegMem → List (Nat × Nat), kvKept (eccCount s a fun m => { m with stkUe := bump m.stkUe, ueSeen := f m }) =
      kvKept (eccCount s a fun m => { m with stkUe := bump m.stkUe }) := fun f =>
    kvKept_iff.2 ⟨rfl, rfl, rfl, rfl, fun g => by
      simp only [eccCount, regionOf_updRegion]
      split <;> rfl⟩
  unfold noteUe
  dsimp only
  split
  · rw [kvKept_stackDead, seen]
  · rw [seen]

@[simp] theorem noteUe_flt (s : State) (a : Nat) : (noteUe s a).flt = s.flt := by
  unfold noteUe
  dsimp only
  split
  · rw [stackDead_flt]; rfl
  · rfl

/-- What an ECC event changed shows in the region that holds the address, and nowhere else. -/
theorem fields_of_kvKept {s t : State} {f : RegMem → RegMem} {a g : Nat} (kept : kvKept t = kvKept (eccCount s a f))
    (here : fld a 42 6 = g) : let m := f (regionOf s g).mem
    t.mem = s.mem ∧ t.poison = s.poison ∧ t.cores = s.cores ∧ t.mills = s.mills ∧ (regionOf t g).mem.passes = m.passes ∧
    (regionOf t g).mem.writeBacks = m.writeBacks ∧ (regionOf t g).mem.stkCe = m.stkCe ∧ (regionOf t g).mem.stkUe = m.stkUe := by
  obtain ⟨mem, poison, cores, mills, regions⟩ := kvKept_iff.1 kept
  have region := regions g
  rw [eccCount, regionOf_updRegion, if_pos here.symm, here] at region
  simp only [kvView, Prod.mk.injEq] at region
  exact ⟨mem, poison, cores, mills, region.2⟩

/-! ### Where the patrol goes next (R130) -/

theorem nextKv_congr {s t : State} (cores : t.cores = s.cores) (shape : ∀ g, (regionOf t g).org.shape = (regionOf s g).org.shape) (g p : Nat) :
    nextKv t g p = nextKv s g p := by
  have cores' : ∀ c, coreOf t c = coreOf s c := fun c => by rw [coreOf, cores, coreOf]
  have there : ∀ c, coreExists t c = coreExists s c := fun c => by simp only [coreExists, shape]
  simp only [nextKv, cores', there]

theorem nextKv_of_kvKept {s t : State} {f : RegMem → RegMem} {a : Nat} (kept : kvKept t = kvKept (eccCount s a f)) (g p : Nat) :
    nextKv t g p = nextKv s g p := by
  obtain ⟨-, -, cores, -, regions⟩ := kvKept_iff.1 kept
  refine nextKv_congr (s := s) cores (fun h => (congrArg (·.1) (regions h)).trans ?_) g p
  exact view_updRegion (π := (·.org.shape)) (by intro; rfl) s _ h

/-- The memory of region `g` after the burst at place `p`: the patrol goes on past it, or begins again (R130, R161). -/
def passedKv (s : State) (g p : Nat) (m : RegMem) : RegMem :=
  if (nextKv s g (p + 64)).isSome then { m with position := p + 64 } else { m with position := 0, passes := bumpW 32 m.passes }

section
variable (s : State) (g p : Nat) (m : RegMem)
@[simp] theorem passedKv_writeBacks : (passedKv s g p m).writeBacks = m.writeBacks := by unfold passedKv; split <;> rfl
@[simp] theorem passedKv_stkCe : (passedKv s g p m).stkCe = m.stkCe := by unfold passedKv; split <;> rfl
@[simp] theorem passedKv_stkUe : (passedKv s g p m).stkUe = m.stkUe := by unfold passedKv; split <;> rfl
@[simp] theorem passedKv_position : (passedKv s g p m).position = if (nextKv s g (p + 64)).isSome then p + 64 else 0 := by
  unfold passedKv; split <;> rfl
@[simp] theorem passedKv_passes : (passedKv s g p m).passes = if (nextKv s g (p + 64)).isSome then m.passes else bumpW 32 m.passes := by
  unfold passedKv; split <;> rfl
end

/-- The core and the fabric address of place `p` of the patrol of region `g`. -/
def kvCore (g p : Nat) : Nat := 256 * g + p / 2 ^ 28
def kvAddr (g p : Nat) : Nat := coreAddr (kvCore g p) 0 (p % 2 ^ 28)

theorem execPatrol_of_off {s : State} {g : RegionId} (off : (regionOf s g).mem.interval = 0 ∨ bit (regionOf s g).pwr.rails 3 = false)
    (found : Burst) : execPatrol g found s = .next s :=
  congrArg Host.Outcome.next (if_pos (by obtain h | h := off <;> simp [h]))

/-- The patrol of a region reads the burst at hand, which leaves what decides where it goes next. -/
theorem execPatrol_of_next {s : State} {g : RegionId} {p : Nat} (runs : (regionOf s g).mem.interval ≠ 0)
    (on : bit (regionOf s g).pwr.rails 3 = true) (next : nextKv s g (regionOf s g).mem.position = some p) (found : Burst)
    (same : ∀ q, nextKv (patrolKv s (kvCore g p) (kvAddr g p) found) g q = nextKv s g q) :
    execPatrol g found s =
      .next (updRegion (patrolKv s (kvCore g p) (kvAddr g p) found) g fun y => { y with mem := passedKv s g p y.mem }) := by
  have go : ¬(decide ((regionOf s g).mem.interval = 0) || !bit (regionOf s g).pwr.rails 3) = true := by simpa [on] using runs
  refine (congrArg Host.Outcome.next (if_neg go)).trans (congrArg _ ?_)
  rw [next]
  change (match nextKv (patrolKv s (kvCore g p) (kvAddr g p) found) g (p + 64) with
    | some _ => updRegion (patrolKv s (kvCore g p) (kvAddr g p) found) g _
    | none => updRegion (patrolKv s (kvCore g p) (kvAddr g p) found) g _) = _
  rw [same]
  cases h : nextKv s g (p + 64) <;> exact congrArg (updRegion _ _) (funext fun y => by simp [passedKv, h])

/-- The patrol of region `g` has gone past place `p`. -/
def KvMoved (s : State) (g p : Nat) (t : State) : Prop :=
  (regionOf t g).mem.position = (if (nextKv s g (p + 64)).isSome then p + 64 else 0) ∧
  (regionOf t g).mem.passes = (if (nextKv s g (p + 64)).isSome then (regionOf s g).mem.passes else bumpW 32 (regionOf s g).mem.passes)

theorem kvMoved_updRegion {s u : State} {g : Nat} (passes : (regionOf u g).mem.passes = (regionOf s g).mem.passes) (p : Nat) :
    KvMoved s g p (updRegion u g fun y => { y with mem := passedKv s g p y.mem }) := by
  simp [KvMoved, passes]

/-- The place is one of the region's cores, and its address names that core. -/
theorem fld_kvAddr {g : RegionId} {p : Nat} (inRegion : p < 2 ^ 36) :
    fld (kvAddr g p) 42 6 = g.val ∧ kvCore g p / 256 = g.val := by
  have region := g.isLt
  have core : p / 2 ^ 28 < 256 := by omega
  have offset : p % 2 ^ 28 < 2 ^ 28 := Nat.mod_lt _ (by decide)
  simp only [kvAddr, kvCore, coreAddr, at_, fld]
  generalize p / 2 ^ 28 = e at *
  generalize p % 2 ^ 28 = r at *
  omega

section
variable {s : State} {g : RegionId} {p : Nat} (runs : (regionOf s g).mem.interval ≠ 0) (on : bit (regionOf s g).pwr.rails 3 = true)
  (next : nextKv s g (regionOf s g).mem.position = some p) (sound : kvAddr g p ∉ s.poison)
include runs on next sound

theorem next_patrol_clean : Next (exec (.patrol g .clean) s) fun t => t = { s with regions := t.regions } ∧ KvMoved s g p t ∧
    (regionOf t g).mem.writeBacks = (regionOf s g).mem.writeBacks ∧ (regionOf t g).mem.stkCe = (regionOf s g).mem.stkCe ∧
    (regionOf t g).mem.stkUe = (regionOf s g).mem.stkUe := by
  have clean : patrolKv s (kvCore g p) (kvAddr g p) .clean = s := by simp [patrolKv, sound]
  have run := execPatrol_of_next runs on next .clean (fun q => by rw [clean])
  rw [clean] at run
  exact .of_eq run ⟨rfl, kvMoved_updRegion rfl p, by simp, by simp, by simp⟩

variable (inRegion : p < 2 ^ 36)
include inRegion

theorem next_patrol_corrected (aligned : p % 64 = 0) : Next (exec (.patrol g .corrected) s) fun t =>
    t.mem = s.mem ∧ t.cores = s.cores ∧ t.mills = s.mills ∧ KvMoved s g p t ∧ t.poison = s.poison ∧
    kvAddr g p ∈ (regionOf t g).mem.writeBacks ∧ (regionOf t g).mem.stkCe = bump (regionOf s g).mem.stkCe := by
  have burst : kvAddr g p % 64 = 0 := by simp only [kvAddr, coreAddr, at_]; omega
  have corrected : patrolKv s (kvCore g p) (kvAddr g p) .corrected = noteCe s (kvAddr g p) := by simp [patrolKv, sound]
  have kept := kvKept_noteCe (s := s) burst
  have run := execPatrol_of_next runs on next .corrected (fun q => by rw [corrected, nextKv_of_kvKept kept])
  rw [corrected] at run
  obtain ⟨mem, poison, cores, mills, passes, waits, counted, -⟩ := fields_of_kvKept kept (fld_kvAddr inRegion).1
  exact .of_eq run ⟨mem, cores, mills, kvMoved_updRegion passes p, poison, by simp [waits], by simp [counted]⟩

theorem next_patrol_uncorrectable : Next (exec (.patrol g .uncorrectable) s) fun t =>
    t.mem = s.mem ∧ t.cores = s.cores ∧ t.mills = s.mills ∧ KvMoved s g p t ∧ t.poison = s.poison ++ [kvAddr g p] ∧
    (regionOf t g).mem.stkUe = bump (regionOf s g).mem.stkUe ∧
    Logged s t fun r => r.code = .ecc ∧ r.cls = .info ∧ r.addr = kvAddr g p ∧ r.region = some g.val := by
  let u := noteUe s (kvAddr g p)
  let v : State := { u with poison := u.poison ++ [kvAddr g p] }
  let r := patrolRec u (kvCore g p) (kvAddr g p)
  have counted : kvKept u = kvKept (eccCount s (kvAddr g p) fun m => { m with stkUe := bump m.stkUe }) := kvKept_noteUe s _
  have lost : patrolKv s (kvCore g p) (kvAddr g p) .uncorrectable = logRec v r := by simp [patrolKv, sound, u, v, r]
  have view : ∀ h, kvView (regionOf (logRec v r) h) = kvView (regionOf u h) := view_logRec logUnseen_kvView v r
  have run := execPatrol_of_next runs on next .uncorrectable (fun q => by
    rw [lost, nextKv_congr (s := u) (t := logRec v r) (logRec_cores ..) (fun h => congrArg (·.1) (view h)), nextKv_of_kvKept counted])
  rw [lost] at run
  obtain ⟨here, core⟩ := fld_kvAddr inRegion
  obtain ⟨mem, poison, cores, mills, passes, -, -, ue⟩ := fields_of_kvKept counted here
  obtain ⟨-, passes', -, -, ue'⟩ : _ ∧ _ ∧ _ ∧ _ ∧ _ := by simpa only [kvView, Prod.mk.injEq] using view g
  refine .of_eq run ⟨(logRec_mem ..).trans mem, (logRec_cores ..).trans cores, (logRec_mills ..).trans mills,
    kvMoved_updRegion (passes'.trans passes) p, ?_, ?_, ?_⟩
  · rw [updRegion_poison, logRec_poison, ← poison]
  · rw [regionOf_updRegion, if_pos rfl]
    simp [ue', ue]
  · have logged := get_ring_logRec v r
    rw [show v.flt = s.flt from noteUe_flt s _] at logged
    rw [Logged, updRegion_flt, logged]
    exact ⟨rfl, rfl, rfl, congrArg some core⟩

end

/-- A write-back ends the wait of its burst, in the region of its core (R131). -/
theorem execWriteBack_eq (s : State) (k : CoreId) (b : Nat) : exec (.writeBack k b) s = .next (updRegion s (k.val / 256) fun x =>
    { x with mem := { x.mem with writeBacks := x.mem.writeBacks.filter fun y => !(y == b && fld y 34 14 == k.val) } }) := rfl

/-- Settles O52: the burst that is read is clean, corrected or lost, and the patrol goes on past it. -/
theorem patrols : Obligations.Patrols := by
  refine ⟨fun s k a found die => ⟨fun up runs next sound aligned _ mine => ?_, fun off => execSnowpackPatrol_of_off off found die,
    fun up b => ?_⟩, fun s g p found => ⟨fun runs on next inRegion aligned sound => ?_, fun off => execPatrol_of_off off found,
    fun k b => ?_⟩⟩
  · exact ⟨next_snowpackPatrol_clean up runs next sound die, next_snowpackPatrol_corrected up runs next sound die mine aligned,
      next_snowpackPatrol_uncorrectable up runs next sound die mine⟩
  · refine .of_eq (congrArg Host.Outcome.next (if_pos up)) ⟨rfl, by simp, fun j other => ctlOf_updCtl_other _ _ _ _ other⟩
  · exact ⟨next_patrol_clean runs on next sound, next_patrol_corrected runs on next sound inRegion aligned,
      next_patrol_uncorrectable runs on next sound inRegion⟩
  · exact .of_eq (execWriteBack_eq s k b) ⟨rfl, by simp, fun j other => by rw [regionOf_updRegion, if_neg other]⟩

end Sys2Proof.Machine

namespace Sys2Proof.Machine

/-! ## A message that is written beside a poisoned burst (04 R129, 10 R392) -/

/-- Receive window of the queue: window 14 of core 768, from the first byte of its activation SRAM on (R391). -/
def besideRx : Word := BitVec.ofNat 64 (14 * 2 ^ 52 + coreAddr 768 1 0)

/-- Queue 0, with one slot of 128 bytes. -/
def besideQueue : LQueue := { en := true, nslot := 1, slotb := 2, rx := besideRx }

/-- Core 768, the first of region 3, with window 14 open to mill 7 both ways over 512 bytes. -/
def besideCore : Core :=
  { handles := [(1, { w0 := 0x71, w1 := 64 })], windows := [(14, { opened := true, w0 := 0x2000000001, w1 := 0x3007 })] }

/-- The slot of the message: 64 bytes of header, from byte 64 of the window on. -/
def besideDest : Nat := bits besideRx 0 52 + 64

/-- Link 0 is up with its queue 0 enabled, and a burst is poisoned from the byte on that follows a message of 3 bytes: no multiple of 64,
and inside the 8-byte word in which the message ends. -/
def besidePoison : State :=
  { State.reset with
    regions := [(3, { org := { shape := .full, realm := some 0 }, pwr := { rails := 15 }, race := { routes := [(15, { mode := 1 })] } })]
    mills := [(7, { st := .idle, cfg := { owner := true, parent := 7, region := 3, w := 1, h := 1 } })]
    cores := [(768, besideCore)]
    links := [(0, { up := true, queues := [(0, besideQueue)] })]
    poison := [besideDest + 67] }

/-- The flit of a message of 3 bytes, with the SEQ awaited. -/
def besideFlit : Flit :=
  { seq := 0, ack := 0, nak := false, som := true, eom := true, queue := 0, len := 3, cq := 0, cred := 0, payload := [1, 2, 3] }

/-- The link has nothing to send. -/
theorem quiet_besidePoison : Quiet besidePoison 0 := by
  unfold Quiet; decide +kernel

/-- The window of the queue takes the write, and the way there and back is open; no poisoned burst meets the bytes written. -/
theorem queueTakes_besidePoison : QueueTakes besidePoison 0 besideQueue besideDest 67 := by
  have owner : ownerOf besidePoison 768 = some 7 := by decide +kernel
  have way : EdgeOpen besidePoison (linkEdge 0) 768 .k := by
    unfold EdgeOpen WayOpen RouteOpen; decide +kernel
  have clean : Unpoisoned besidePoison besideDest 67 := by
    unfold Unpoisoned; decide +kernel
  have core : bits besideQueue.rx 34 14 = 768 := by decide +kernel
  simp only [QueueTakes, core]
  refine ⟨?_, ?_, ?_, ?_, ?_, ?_, ?_, ?_, ?_, ?_, ?_, way, clean, ?_, 7, owner, ?_, ?_, ?_⟩ <;> decide +kernel

/-- The word in which the message ends is read before it is written; the read meets the poison, and the refused write disables the queue. -/
theorem data_besidePoison : Next (exec (.data 0 besideFlit []) besidePoison) fun t => (queueOf t 0 0).en = false :=
  .of_eq rfl (by decide +kernel)

/-- Refutes O50: a message that its window takes, and whose bytes meet no poisoned burst, does not enter its slot but disables its queue,
where the poison starts within the 8-byte word in which the message ends. -/
theorem not_tailraceLinks : ¬ Obligations.TailraceLinks := by
  intro h
  obtain ⟨flits, -⟩ := h
  obtain ⟨-, up⟩ := flits besidePoison 0 besideFlit
  obtain ⟨-, -, -, carried, -⟩ := up (by decide) quiet_besidePoison
  obtain ⟨awaited, -⟩ := carried rfl rfl (by decide)
  obtain ⟨-, -, -, delivered, -⟩ := awaited (by decide)
  obtain ⟨t, run, -, -, -, -, -, -, -, queue⟩ :=
    delivered queueTakes_besidePoison (by decide) (by decide) rfl rfl (by decide)
  obtain ⟨u, run', disabled⟩ := data_besidePoison
  obtain rfl : t = u := by
    rw [run] at run'
    injection run'
  have enabled : (queueOf t 0 0).en = true := congrArg LQueue.en queue
  exact absurd (enabled.symm.trans disabled) (by decide)

end Sys2Proof.Machine

namespace Sys2Proof.Machine

/-! ## A PROD_UPDATE with nothing to publish (10 R392) -/

/-- With no message to publish and none that waits, PROD_UPDATE writes the empty list of waiting messages back into the table of queues. -/
theorem execProdUpdate_of_nothing {s : State} {l : Fin 8} {q : Fin 16} (free : queueHeld s (queueOf s l q) = false)
    (empty : (queueOf s l q).inbox = []) (off : (queueOf (updQueue s l q fun x => { x with inbox := [] }) l q).en = false) (ups : List Upset) :
    execProdUpdate l q ups s = .next (updQueue s l q fun x => { x with inbox := [] }) := by
  simp [execProdUpdate, deliverHeld, free, empty, off]

/-- The device out of reset, but its table of links lists link 0, whose registers stand at their reset values. -/
def listedLink : State := { State.reset with links := [(0, {})] }

/-- The write of the queue that has not changed takes the entry of link 0 off the table. -/
theorem prodUpdate_listedLink : exec (.prodUpdate 0 0 []) listedLink = .next { listedLink with links := [] } := by
  have free : queueHeld listedLink (queueOf listedLink 0 0) = false := by decide
  have run := execProdUpdate_of_nothing (l := 0) (q := 0) free (by decide) (by decide) []
  exact run

/-- Refutes O51: a PROD_UPDATE of a disabled queue does not leave a state alone whose table of links lists a link at its reset values. -/
theorem not_tailraceQueues : ¬ Obligations.TailraceQueues := by
  intro h
  obtain ⟨-, idle, -⟩ := h listedLink 0 0
  have same : exec (.prodUpdate 0 0 []) listedLink = .next listedLink := idle (.inl (by decide)) (by decide) []
  rw [prodUpdate_listedLink] at same
  injection same with same
  have links : [] = listedLink.links := congrArg State.links same
  exact absurd links (by decide)

end Sys2Proof.Machine

namespace Sys2Proof.Machine

/-! ## Records and discarded packets on Race (05 R190, R193, 13 R486, R487) -/

theorem Plane.num_injective : Function.Injective Plane.num := by
  intro p q same
  cases p <;> cases q <;> simp_all [Plane.num]

/-- The record that LOG writes is the new one: with its time, its number and the mark of an overrun. -/
theorem newRec_of_logRec {s u t : State} {r : Rec} (before : u.flt = s.flt) (after : t.flt = (logRec u r).flt) :
    newRec s t = { r with time := u.glb.time, seq := u.flt.total + 1, ovr := decide (u.flt.unread = 4096) } := by
  rw [newRec, after, ← before, get_ring_logRec]

@[simp] theorem routeOf_logRec (s : State) (x : Rec) (r d : Nat) (q : Plane) : routeOf (logRec s x) r d q = routeOf s r d q :=
  routeOf_congr (congrArg _ (view_logRec logUnseen_race s x r)) d q

/-- The record that a router writes of a packet that it discards (R190, R193, R486). -/
def discardRec (p : Packet) (n : Node) (code : Code) : Rec :=
  if code = .timeout then
    { code := .timeout, cls := .refusal, origin := .router, region := some n.region, aform := 1, addr := p.dest
      syndrome := p.srcNum + at_ 16 p.plane.num }
  else { code := .lost, cls := .link, origin := .router, region := some n.region, aform := 1, addr := p.dest }

/-- A router that discards a packet writes its record, and answers the packet's source unless it is a RESPONSE. -/
theorem discardPacket_eq (s : State) (p : Packet) (n : Node) (code : Code) : discardPacket s p n code =
    if p.kind = .response then logRec (dropPacket s p.id) (discardRec p n code)
    else respond (logRec (dropPacket s p.id) (discardRec p n code)) p.acc p.src (nodeCore n) code := by
  by_cases late : code = .timeout
  · rw [late]; rfl
  · simp only [discardPacket, discardRec, if_neg late]; rfl

section
variable (s : State) (p : Packet) (n : Node) (code : Code)
@[simp] theorem discardPacket_mem : (discardPacket s p n code).mem = s.mem := by rw [discardPacket_eq]; split <;> simp
@[simp] theorem discardPacket_cores : (discardPacket s p n code).cores = s.cores := by rw [discardPacket_eq]; split <;> simp
theorem discardPacket_flt : (discardPacket s p n code).flt = (logRec (dropPacket s p.id) (discardRec p n code)).flt := by
  rw [discardPacket_eq]
  split
  · rfl
  · rw [respond_same]
end

/-- The source of a packet that is no RESPONSE is answered, where the way back is not BLOCKED (R172). -/
theorem answered_discardPacket {s : State} {p : Packet} {n : Node} {c : Nat} (kind : p.kind ≠ .response) (source : p.src = .core c)
    (route : (routeOf s (nodeCore n / 256) (c / 256) .c).mode ≠ 0) (code : Code) : Answered (discardPacket s p n code) p.acc code := by
  rw [discardPacket_eq, if_neg kind, source]
  exact answered_respond (by simpa using route) _ _

/-! ## Credit waits while time passes (05 R181, R196) -/

section
variable {α β : Type} {d : α} {f : Nat → α → α}

/-- A view that does not see the change of the entries shows every entry as before. -/
theorem Tbl.view_map {π : α → β} (unseen : ∀ i x, π (f i x) = π x) (t : Tbl α) (k : Nat) :
    π (Tbl.get d (t.map fun p => (p.1, f p.1 p.2)) k) = π (Tbl.get d t k) := by
  induction t with
  | nil => rfl
  | cons p t ih =>
    obtain ⟨i, v⟩ := p
    simp only [List.map_cons, Tbl.get_cons]
    split
    · exact unseen i v
    · exact ih

/-- An entry that is listed shows the change. -/
theorem Tbl.get_map_of_listed {t : Tbl α} {k : Nat} (listed : Tbl.get d t k ≠ d) :
    Tbl.get d (t.map fun p => (p.1, f p.1 p.2)) k = f k (Tbl.get d t k) := by
  induction t with
  | nil => exact absurd rfl listed
  | cons p t ih =>
    obtain ⟨i, v⟩ := p
    rw [Tbl.get_cons] at listed
    simp only [List.map_cons, Tbl.get_cons]
    split
    · next same => rw [same]
    · next other => exact ih (by rwa [if_neg other] at listed)

end

/-- What `n` ns make of the entry of region `g`: core cycles go on, and credit waits are counted. -/
def regionRests (s : State) (n g : Nat) (x : Region) : Region :=
  waitCount s g n (if bit x.pwr.rails 3 then { x with pwr := { x.pwr with frac := (x.pwr.frac + 6 * n) % opDivisor x.pwr.op } } else x)

theorem regions_countRest (s : State) (n : Nat) :
    (countRest s n).regions = if s.cores.isEmpty then s.regions else s.regions.map fun p => (p.1, regionRests s n p.1 p.2) := by
  unfold countRest
  split <;> rfl

/-- The view `π` of a region's entry sees neither its power nor what it counts of credit waits. -/
def TimeUnseen {α : Type} (π : Region → α) : Prop :=
  (∀ s g n x, π (waitCount s g n x) = π x) ∧ ∀ x y, π { x with pwr := y } = π x

theorem TimeUnseen.regionRests {α : Type} {π : Region → α} (unseen : TimeUnseen π) (s : State) (n g : Nat) (x : Region) :
    π (regionRests s n g x) = π x := by
  rw [Machine.regionRests, unseen.1]
  split
  · exact unseen.2 _ _
  · rfl

/-- Time passes unseen through such a view. -/
theorem view_pass {α : Type} {π : Region → α} (unseen : TimeUnseen π) (s : State) (n g : Nat) :
    π (regionOf (pass s n) g) = π (regionOf s g) := by
  have counted : ∀ (u : State) (k : Nat), π (regionOf (countRest u k) g) = π (regionOf u g) := fun u k => by
    rw [regionOf, regions_countRest]
    split
    · rfl
    · exact Tbl.view_map (unseen.regionRests _ _) _ _
  exact (congrArg (fun t => π (Tbl.get {} t g)) (pass_regions s n)).trans (counted _ _)

/-- One plane's share of the credit waits that region `g` counts in `n` ns. -/
def waitStep (s : State) (g n : Nat) (t : Tbl RaceCnt) (p : Plane) : Tbl RaceCnt :=
  let w := s.race.packets.countP fun q => q.plane == p && q.waiting.isSome && (packetNode q).region == g
  if w = 0 then t else Tbl.upd {} t p.num fun y => { y with cstall := bumpBy y.cstall (2 * n * w) }

theorem waitCount_eq (s : State) (g n : Nat) (x : Region) : waitCount s g n x =
    if s.race.packets.all fun p => p.waiting.isNone then x
    else { x with race := { x.race with cnt := [Plane.a, .k, .c, .t].foldl (waitStep s g n) x.race.cnt } } := rfl

/-- On a plane on which no packet waits in the region nothing is counted. -/
theorem waitStep_of_none {s : State} {g : Nat} {p : Plane}
    (none : (s.race.packets.countP fun q => q.plane == p && q.waiting.isSome && (packetNode q).region == g) = 0) (n : Nat) (t : Tbl RaceCnt) :
    waitStep s g n t p = t := if_pos none

/-- With one packet on Race, which waits at `g`, the region counts 2 fabric cycles of a nanosecond on the packet's plane. -/
theorem cstall_waitCount_of_single {s : State} {p : Packet} (single : s.race.packets = [p]) (waits : p.waiting.isSome = true) (x : Region) :
    (Tbl.get {} (waitCount s (packetNode p).region 1 x).race.cnt p.plane.num).cstall =
      bumpBy (Tbl.get {} x.race.cnt p.plane.num).cstall 2 := by
  have other : ∀ q ≠ p.plane, ∀ t, waitStep s (packetNode p).region 1 t q = t := fun q other t =>
    waitStep_of_none (by simp [single, Ne.symm other]) 1 t
  have own : ∀ t, (Tbl.get {} (waitStep s (packetNode p).region 1 t p.plane) p.plane.num).cstall =
      bumpBy (Tbl.get {} t p.plane.num).cstall 2 := fun t => by simp [waitStep, single, waits]
  have some : ¬ (s.race.packets.all fun p => p.waiting.isNone) = true := by simpa [single, ← Option.isSome_iff_ne_none] using waits
  rw [waitCount_eq, if_neg some]
  cases plane : p.plane <;> simp only [plane] at other own <;> simp [other, own]

/-! ## PACKET_FORWARD (05 R183, R185, R188, R193) -/

/-- A packet that stands before a node, with nothing of its order ahead of it. -/
structure Heads (s : State) (p : Packet) (n : Node) (rest : List Node) : Prop where
  packet : packetOf s p.id = some p
  path : p.path = n :: rest
  first : overtakes s p = false

section
variable {s : State} {p : Packet} {n : Node} {rest : List Node} (heads : Heads s p n rest)
include heads

theorem execPacketForward_of_heads (credit : Bool) : execPacketForward p.id credit s = .next (
    if !credit then holdPacket s p.id
    else if rest.any (fun m => decide (rest.head? = some m) && !vddnOn s m.region) then discardPacket s p n .lost
    else updPacket (raceCount s n.region p.plane fun x => { x with flits := bumpBy x.flits (flitsOf p.plane p.payload.length) }) p.id
      fun q => { q with path := rest, waiting := none }) := by
  simp only [execPacketForward, heads.packet, heads.path, heads.first, Bool.false_eq_true, if_false]

theorem execPacketForward_moves (powered : ∀ m, rest.head? = some m → vddnOn s m.region = true) :
    execPacketForward p.id true s = .next (updPacket
      (raceCount s n.region p.plane fun x => { x with flits := bumpBy x.flits (flitsOf p.plane p.payload.length) }) p.id
      fun q => { q with path := rest, waiting := none }) := by
  rw [execPacketForward_of_heads heads, if_neg (by decide), if_neg]
  simpa using fun m _ head => powered m head

theorem execPacketForward_lost {m : Node} (next : rest.head? = some m) (off : vddnOn s m.region = false) :
    execPacketForward p.id true s = .next (discardPacket s p n .lost) := by
  rw [execPacketForward_of_heads heads, if_neg (by decide), if_pos]
  simpa using ⟨m, List.mem_of_head? next, next, off⟩

/-- While the only packet waits its router's region counts (R189, R196). -/
theorem cstall_pass_of_single (single : s.race.packets = [p]) (waits : p.waiting.isSome = true) (cores : s.cores ≠ [])
    (listed : regionOf s n.region ≠ {}) (slew : s.sluice.ptp.slew = 0) (part : s.sluice.ptp.part = 0) :
    (Tbl.get {} (regionOf (pass s 1) n.region).race.cnt p.plane.num).cstall =
      bumpBy (Tbl.get {} (regionOf s n.region).race.cnt p.plane.num).cstall 2 := by
  have node : packetNode p = n := by rw [packetNode, heads.path]
  have one : (if timeRuns s then slewed s.sluice.ptp 1 else (1, s.sluice.ptp)).1 = 1 := by
    split
    · exact slewed_one_of_idle slew part
    · rfl
  rw [regionOf, pass_regions, one, regions_countRest, if_neg (by simpa using cores), Tbl.get_map_of_listed listed, regionRests, ← node]
  refine (cstall_waitCount_of_single single waits _).trans ?_
  split <;> rfl

end

/-- Settles O21: by whether an earlier packet stands before this one, then by the credit and by the power of the next region. -/
theorem packetForward : Obligations.PacketForward := by
  intro s p n rest packet path
  refine ⟨fun behind credit => ?_, fun first => ?_⟩
  · exact congrArg Host.Outcome.next (by simp only [packet, path, behind, if_true])
  have heads : Heads s p n rest := ⟨packet, path, first⟩
  refine ⟨fun powered => ?_, .of_eq (execPacketForward_of_heads heads false) ⟨rfl, rfl, rfl, rfl⟩,
    fun single waits cores listed slew part => cstall_pass_of_single heads single waits cores listed slew part, fun m next off => ?_⟩
  · refine .of_eq (execPacketForward_moves heads powered) ⟨rfl, rfl, rfl, rfl, ?_⟩
    exact congrArg RaceCnt.flits (cnt_raceCount s n.region p.plane _)
  · have record := newRec_of_logRec (s := s) (u := dropPacket s p.id) rfl (discardPacket_flt s p n .lost)
    refine .of_eq (execPacketForward_lost heads next off) ⟨by simp, by simp, ?_⟩
    rw [record]
    exact ⟨rfl, rfl, rfl, rfl, rfl, rfl, fun c kind source route => answered_discardPacket kind source route _⟩

end Sys2Proof.Machine

namespace Sys2Proof.Machine

/-! ## What an answer finds at its source (05 R180) -/

/-- The entry found under a key, once the entries of that key are changed and keep it. -/
theorem find?_map_of_key {α : Type} {key : α → Nat} {k : Nat} {g : α → α} (kept : ∀ x, key x = k → key (g x) = k) (l : List α) :
    (l.map fun x => if key x = k then g x else x).find? (fun x => key x == k) = (l.find? fun x => key x == k).map g := by
  induction l with
  | nil => rfl
  | cons x l ih =>
    by_cases hit : key x = k
    · simp [hit, kept x hit]
    · simp [hit, ih]

theorem id_of_accessOf {s : State} {acc : Nat} {a : Access} (known : accessOf s acc = some a) : a.id = acc := by
  simpa using List.find?_some known

/-- A forgotten access is not found any more. -/
theorem accessOf_dropAccess (s : State) (acc : Nat) : accessOf (dropAccess s acc) acc = none := by
  simp [accessOf, dropAccess]

@[simp] theorem accessOf_dropPacket (s : State) (id acc : Nat) : accessOf (dropPacket s id) acc = accessOf s acc := rfl
@[simp] theorem coreOf_dropPacket (s : State) (id c : Nat) : coreOf (dropPacket s id) c = coreOf s c := rfl
@[simp] theorem coreOf_dropAccess (s : State) (acc c : Nat) : coreOf (dropAccess s acc) c = coreOf s c := rfl

/-- An access fails at its source core where a SEND of it waits: that SEND fails (R221). -/
theorem failAccess_of_waiting {s : State} {acc c : Nat} {a : Access} {x : SendSt} (known : accessOf s acc = some a) (source : a.src = .core c)
    (waits : (coreOf s c).sends.find? (fun y => y.id == a.send) = some x) (code : Code) :
    failAccess s acc code = failUnit (dropAccess s acc) c 9 0 x.pc { code := code, addr := some a.dest } := by
  simp only [failAccess, failAccessWith, known, source, coreOf_dropAccess, waits, Option.map_some]

/-! ### READ_DATA (05 R179) -/

/-- What R179 asks of read data is what makes it fit. -/
theorem misfits_iff (p : Packet) (a : Access) : (a.src ≠ p.dst || a.kind ≠ .readReq || p.win ≠ 15 || p.epoch ≠ a.slot || decide (p.dest < a.loc)
    || decide (a.loc + a.len < p.dest + p.payload.length)) = true ↔ ¬ FitsRead p a := by
  simp only [FitsRead, Bool.or_eq_true, decide_eq_true_eq, ne_eq, not_and_or, not_le, or_assoc]

/-- Data that belong to no transfer leave a FORMAT record at the core, and nothing else but the packet goes. -/
theorem stray_facts (s : State) {p : Packet} {c : Nat} (dest : p.dst = .core c) : let t := strayData (dropPacket s p.id) p
    t.mem = s.mem ∧ t.cores = s.cores ∧ t.race.packets = others s p.id ∧ t.race.accesses = s.race.accesses ∧
    (newRec s t).code = .format ∧ (newRec s t).cls = .refusal ∧ (newRec s t).addr = p.dest := by
  have stray : strayData (dropPacket s p.id) p = logRec (dropPacket s p.id) { coreRec (dropPacket s p.id) c with
      code := .format, cls := .refusal, unit := 9, aform := 1, addr := p.dest, syndrome := p.srcNum } := by
    rw [strayData, dest]
  have record := newRec_of_logRec (s := s) (u := dropPacket s p.id) rfl (congrArg State.flt stray)
  refine ⟨by rw [stray]; simp, by rw [stray]; simp, by rw [stray, logRec_race]; rfl, by rw [stray, logRec_race]; rfl, ?_⟩
  rw [record]
  exact ⟨rfl, rfl, rfl⟩

section
variable {s : State} {p : Packet} {c : Nat} (packet : packetOf s p.id = some p) (here : arrived s p = true)
include packet here

theorem execReadData_of_unknown (kind : p.kind = .readData) (unknown : accessOf s p.acc = none) (ups : List Upset) :
    execReadData p.id ups s = .next (if s.ids ≤ p.acc then strayData (dropPacket s p.id) p else dropPacket s p.id) := by
  simp only [execReadData, packet, here, kind, accessOf_dropPacket, unknown]
  rfl

theorem execReadData_of_misfit (kind : p.kind = .readData) {a : Access} (known : accessOf s p.acc = some a) (misfit : ¬ FitsRead p a)
    (ups : List Upset) : execReadData p.id ups s = .next (strayData (dropPacket s p.id) p) := by
  simp only [execReadData, packet, here, kind, accessOf_dropPacket, known]
  rw [if_neg (by decide), if_pos ((misfits_iff p a).2 misfit)]

/-- Data that fit, of an access whose RESPONSE is still to come, are stored and counted. -/
theorem execReadData_of_fit (kind : p.kind = .readData) {a : Access} (known : accessOf s p.acc = some a) (fits : FitsRead p a)
    (early : a.respOk = false) (clean : s.poison = []) : execReadData p.id [] s = .next (
      let t := storeBytes (dropPacket s p.id) p.dest p.payload
      { t with race := { t.race with accesses := t.race.accesses.map fun x =>
        if x.id = a.id then { a with got := a.got + p.payload.length } else x } }) := by
  simp only [execReadData, packet, here, kind, accessOf_dropPacket, known]
  rw [if_neg (by decide), if_neg (fun misfit => (misfits_iff p a).1 misfit fits),
    meetWrites_of_clean (s := dropPacket s p.id) clean]
  simp only [early, Bool.false_and, Bool.false_eq_true, if_false]

theorem next_readData_fits (kind : p.kind = .readData) {a : Access} (known : accessOf s p.acc = some a) (fits : FitsRead p a)
    (early : a.respOk = false) (clean : s.poison = []) : Next (exec (.readData p.id []) s) fun t =>
      t.cores = s.cores ∧ t.race.packets = others s p.id ∧ accessOf t p.acc = some { a with got := a.got + p.payload.length } ∧
      (∀ k < p.payload.length, readByte t (p.dest + k) = p.payload.getD k 0) ∧
      ∀ y, (y < p.dest ∨ p.dest + p.payload.length ≤ y) → readByte t y = readByte s y := by
  refine .of_eq (execReadData_of_fit packet here kind known fits early clean) ⟨by simp, by simp [others, dropPacket], ?_, ?_⟩
  · have id := id_of_accessOf known
    have found := find?_map_of_key (key := Access.id) (k := p.acc) (g := fun _ => { a with got := a.got + p.payload.length })
      (fun _ _ => id) s.race.accesses
    rw [show (s.race.accesses.find? fun x => x.id == p.acc) = some a from known] at found
    simpa [accessOf, id] using found
  · exact readByte_of_put (s := s) (by simp)

/-! ### RESPONSE (05 R180, R221) -/

theorem execResponse_of_unknown (kind : p.kind = .response)
    (unknown : accessOf s p.acc = none ∨ ∃ a, accessOf s p.acc = some a ∧ a.src ≠ p.dst) :
    execResponse p.id s = .next (dropPacket s p.id) := by
  obtain none | ⟨a, known, other⟩ := unknown
  · simp only [execResponse, packet, here, kind, accessOf_dropPacket, none]
    rfl
  · simp only [execResponse, packet, here, kind, accessOf_dropPacket, known]
    rw [if_neg (by decide), if_pos other]

/-- What a RESPONSE makes of the access that waits for it. -/
theorem execResponse_of_known (kind : p.kind = .response) {a : Access} (known : accessOf s p.acc = some a) (source : a.src = p.dst) :
    execResponse p.id s = .next (
      if p.status ≠ .ok then failAccess (dropPacket s p.id) a.id p.status
      else if a.kind = .readReq && decide (a.got < a.len) then
        { dropPacket s p.id with race := { (dropPacket s p.id).race with accesses := s.race.accesses.map fun x =>
          if x.id = a.id then { x with respOk := true } else x } }
      else recordOk (dropPacket s p.id) a) := by
  simp only [execResponse, packet, here, kind, accessOf_dropPacket, known]
  rw [if_neg (by decide), if_neg (not_not.2 source)]
  rfl

theorem next_response_held (kind : p.kind = .response) {a : Access} (known : accessOf s p.acc = some a) (source : a.src = p.dst)
    (ok : p.status = .ok) (read : a.kind = .readReq) (short : a.got < a.len) :
    Next (exec (.response p.id) s) fun t => t = { s with race := t.race } ∧ accessOf t p.acc = some { a with respOk := true } := by
  refine .of_eq ((execResponse_of_known packet here kind known source).trans
    (congrArg _ ((if_neg (not_not.2 ok)).trans (if_pos (by simp [read, short]))))) ⟨rfl, ?_⟩
  have id := id_of_accessOf known
  have found := find?_map_of_key (key := Access.id) (k := p.acc) (g := fun x => { x with respOk := true }) (fun _ h => h) s.race.accesses
  rw [show (s.race.accesses.find? fun x => x.id == p.acc) = some a from known] at found
  simpa [accessOf, id] using found

theorem execResponse_of_failure (kind : p.kind = .response) {a : Access} (known : accessOf s p.acc = some a) (source : a.src = p.dst)
    (dest : p.dst = .core c) (bad : p.status ≠ .ok) {x : SendSt} (waits : (coreOf s c).sends.find? (fun y => y.id == a.send) = some x) :
    execResponse p.id s = .next (failUnit (dropAccess (dropPacket s p.id) p.acc) c 9 0 x.pc { code := p.status, addr := some a.dest }) := by
  rw [execResponse_of_known packet here kind known source, if_pos bad, id_of_accessOf known,
    failAccess_of_waiting (s := dropPacket s p.id) known (source.trans dest) waits]

end

/-! ### The SEND of an access that is answered (05 R180, 06 R221) -/

/-- A completion sets an event and a counter, which both lie in the control core. -/
theorem signalDone_same (k : Core) (evEn : Bool) (ev : Nat) (cntEn : Bool) (cnt : Nat) :
    signalDone k evEn ev cntEn cnt = { k with scc := (signalDone k evEn ev cntEn cnt).scc } := by
  unfold signalDone
  split <;> split <;> rfl

/-- SENDs that have all started leave none to start. -/
theorem startSends_of_started {s : State} {c : Nat} (started : ∀ x ∈ (coreOf s c).sends, x.started = true) (n : Nat) :
    startSends n s c = s := by
  have none : ((coreOf s c).sends.find? fun x => !x.started) = none := List.find?_eq_none.2 fun x hx => by simp [started x hx]
  cases n <;> simp [startSends, none]

/-- With no RECV and no SEND left to start nothing follows a completion. -/
theorem sameCores_settle_of_started {s : State} {c : Nat} (arms : (coreOf s c).arms = [])
    (started : ∀ x ∈ (coreOf s c).sends, x.started = true) : SameCores s (settle s c) := by
  have first := sameCores_armAll arms
  rw [settle, startSends_of_started (by rwa [first.2])]
  exact first.trans (sameCores_armAll (by rw [first.2, arms]))

/-- A core whose only SEND is `x`, once one of that SEND's accesses has been answered with OK. -/
def answeredCore (x : SendSt) (k : Core) : Core :=
  if x.left ≤ 1 then dropOp (signalDone { k with sends := [] } x.evEn x.ev x.cntEn x.cnt) x.seq
  else { k with sends := [{ x with left := x.left - 1 }] }

theorem arms_answeredCore (x : SendSt) (k : Core) : (answeredCore x k).arms = k.arms := by
  unfold answeredCore
  split
  · rw [dropOp, signalDone_same]
  · rfl

theorem started_answeredCore {x : SendSt} (started : x.started = true) (k : Core) :
    ∀ y ∈ (answeredCore x k).sends, y.started = true := by
  unfold answeredCore
  split
  · rw [dropOp, signalDone_same]
    simp
  · simpa using started

theorem sendAnswered_of_only {s : State} {c : Nat} {x : SendSt} (only : (coreOf s c).sends = [x]) (started : x.started = true)
    (arms : (coreOf s c).arms = []) : SameCores (updCore s c (answeredCore x)) (sendAnswered s c x.id) := by
  have core : sendAnswered s c x.id = settle (updCore s c fun k =>
      if x.left ≤ 1 then dropOp (signalDone { k with sends := k.sends.filter fun y => y.id ≠ x.id } x.evEn x.ev x.cntEn x.cnt) x.seq
      else { k with sends := k.sends.map fun y => if y.id = x.id then { y with left := y.left - 1 } else y }) c := by
    simp [sendAnswered, only]
  have change : updCore s c (fun k =>
      if x.left ≤ 1 then dropOp (signalDone { k with sends := k.sends.filter fun y => y.id ≠ x.id } x.evEn x.ev x.cntEn x.cnt) x.seq
      else { k with sends := k.sends.map fun y => if y.id = x.id then { y with left := y.left - 1 } else y }) =
      updCore s c (answeredCore x) := by
    rw [updCore, updCore, Tbl.upd, Tbl.upd, ← coreOf]
    simp [answeredCore, only]
  rw [core, change]
  refine sameCores_settle_of_started ?_ ?_
  · rw [coreOf_updCore_same, arms_answeredCore, arms]
  · rw [coreOf_updCore_same]
    exact started_answeredCore started _

/-- An OK of an access that is complete with it goes to its SEND. -/
theorem next_response_recorded {s : State} {p : Packet} {c : Nat} (packet : packetOf s p.id = some p) (here : arrived s p = true)
    (kind : p.kind = .response) {a : Access} (known : accessOf s p.acc = some a) (source : a.src = p.dst) (dest : p.dst = .core c)
    (ok : p.status = .ok) (noRead : a.kind ≠ .readReq) {x : SendSt} (arms : (coreOf s c).arms = []) (only : (coreOf s c).sends = [x])
    (send : x.id = a.send) (started : x.started = true) :
    Next (exec (.response p.id) s) fun t => t = { s with race := t.race, cores := t.cores } ∧ accessOf t p.acc = none ∧
      (∀ j, j ≠ c → coreOf t j = coreOf s j) ∧ coreOf t c = answeredCore x (coreOf s c) := by
  let u := dropAccess (dropPacket s p.id) a.id
  have recorded : recordOk (dropPacket s p.id) a = sendAnswered u c x.id := by rw [recordOk, source, dest, send]
  have same := sendAnswered_of_only (s := u) only started arms
  refine .of_eq ((execResponse_of_known packet here kind known source).trans
    (congrArg _ ((if_neg (not_not.2 ok)).trans ((if_neg (by simp [noRead])).trans recorded)))) ⟨?_, ?_, fun j other => ?_, ?_⟩
  · rw [same.1]
    rfl
  · rw [accessOf, same.race, ← id_of_accessOf known]
    exact accessOf_dropAccess (dropPacket s p.id) a.id
  · rw [same.2, coreOf_updCore_other _ _ _ _ other]
    rfl
  · rw [same.2, coreOf_updCore_same]
    rfl

/-- Settles O24: by the kind of the packet, then by the access that it names. -/
theorem answersAtTheSource : Obligations.AnswersAtTheSource := by
  refine fun s p c packet here dest => ⟨fun kind => ⟨fun unknown past => ?_, fun stray => ?_, fun a known fits early clean =>
    next_readData_fits packet here kind known fits early clean⟩, fun kind => ⟨fun unknown => ?_, fun a known source ok read short =>
    next_response_held packet here kind known source ok read short, fun a x known source ok noRead arms only send started =>
    next_response_recorded packet here kind known source dest ok noRead arms only send started, fun a x known source bad waits => ?_⟩⟩
  · exact .of_eq ((execReadData_of_unknown packet here kind unknown []).trans (congrArg _ (if_neg (Nat.not_le.2 past)))) ⟨rfl, rfl⟩
  · refine .of_eq ?_ (stray_facts s dest)
    obtain ⟨unknown, fresh⟩ | ⟨a, known, misfit⟩ := stray
    · exact (execReadData_of_unknown packet here kind unknown []).trans (congrArg _ (if_pos fresh))
    · exact execReadData_of_misfit packet here kind known misfit []
  · exact .of_eq (execResponse_of_unknown packet here kind unknown) ⟨rfl, rfl, rfl⟩
  · exact ⟨dropAccess (dropPacket s p.id) p.acc, rfl, accessOf_dropAccess _ _,
      execResponse_of_failure packet here kind known source dest bad waits⟩

end Sys2Proof.Machine

namespace Sys2Proof.Machine

/-! ## What stands while time passes (00 R534, 05 R196, 06 R242) -/

theorem grace_waitStep (s : State) (g n : Nat) (t : Tbl RaceCnt) (p : Plane) (i : Nat) :
    (Tbl.get {} (waitStep s g n t p) i).grace = (Tbl.get {} t i).grace := by
  unfold waitStep
  dsimp only
  split
  · rfl
  · rw [Tbl.get_upd]
    split
    · next same => rw [same]
    · rfl

theorem timeUnseen_grace (i : Nat) : TimeUnseen fun x => (Tbl.get {} x.race.cnt i).grace := by
  refine ⟨fun s g n x => ?_, fun _ _ => rfl⟩
  rw [waitCount_eq]
  split
  · rfl
  · simp only [List.foldl, grace_waitStep]

theorem timeUnseen_routes : TimeUnseen fun x => x.race.routes := by
  refine ⟨fun s g n x => ?_, fun _ _ => rfl⟩
  rw [waitCount_eq]
  split <;> rfl

@[simp] theorem routeOf_advanceTo (s : State) (e r d : Nat) (q : Plane) : routeOf (advanceTo s e) r d q = routeOf s r d q :=
  routeOf_congr (view_pass timeUnseen_routes s _ r) d q

theorem grace_advanceTo (s : State) (e g i : Nat) :
    (Tbl.get {} (regionOf (advanceTo s e) g).race.cnt i).grace = (Tbl.get {} (regionOf s g).race.cnt i).grace :=
  view_pass (timeUnseen_grace i) s _ g

/-- A core without its control core and its counters: what time leaves alone. -/
def Core.still (k : Core) : Core := { k with scc := {}, cnt := {} }

theorem still_coreWaits (s : State) (c : Nat) (k : Core) (n : Nat) : (coreWaits s c k n).still = k.still := by
  unfold coreWaits
  split
  · rfl
  · dsimp only
    split <;> rfl

theorem cores_countRest (s : State) (n : Nat) : (countRest s n).cores = if s.cores.isEmpty then s.cores
    else s.cores.map fun p => (p.1, coreWaits s p.1 p.2 (coreCycles (regionOf s (p.1 / 256)) n)) := by
  unfold countRest
  split <;> rfl

/-- The cores count what `countRest` counts, by the local clock. -/
theorem pass_cores (s : State) (n : Nat) :
    let k := if timeRuns s then slewed s.sluice.ptp n else (n, s.sluice.ptp)
    (pass s n).cores = (countRest { s with sluice := { s.sluice with ptp := k.2 } } k.1).cores := by
  unfold pass; dsimp only; repeat' split
  all_goals simp

theorem still_advanceTo (s : State) (e c : Nat) : (coreOf (advanceTo s e) c).still = (coreOf s c).still := by
  have counted : ∀ (u : State) (n : Nat), (coreOf (countRest u n) c).still = (coreOf u c).still := fun u n => by
    rw [coreOf, cores_countRest]
    split
    · rfl
    · exact Tbl.view_map (f := fun i k => coreWaits u i k (coreCycles (regionOf u (i / 256)) n)) (fun _ _ => still_coreWaits ..) _ _
  exact (congrArg (fun t => (Tbl.get {} t c).still) (pass_cores s _)).trans (counted _ _)

section
variable (s : State) (e c : Nat)
@[simp] theorem sends_advanceTo : (coreOf (advanceTo s e) c).sends = (coreOf s c).sends :=
  (congrArg Core.sends (still_advanceTo s e c) :)
@[simp] theorem arms_advanceTo : (coreOf (advanceTo s e) c).arms = (coreOf s c).arms :=
  (congrArg Core.arms (still_advanceTo s e c) :)
end

/-! ## The three waits of R190 -/

theorem execCreditWaitExpiry_of_waiting {s : State} {p : Packet} (packet : packetOf s p.id = some p) (waits : waitsForCredit s p = true)
    (came : Bool) : execCreditWaitExpiry p.id came s = .next (
      let n := packetNode p
      let u := advanceTo s (waitEnd s p)
      if came then updPacket (raceCount u n.region p.plane fun x => { x with grace := bump x.grace }) p.id fun q => { q with waiting := none }
      else discardPacket (raceCount u n.region p.plane fun x => { x with cto := bump x.cto }) p n .timeout) := by
  simp only [execCreditWaitExpiry, packet, waits, Bool.not_true, Bool.false_eq_true, if_false]

theorem creditWaitExpires {s : State} {p : Packet} (packet : packetOf s p.id = some p) (waits : waitsForCredit s p = true) :
    let n := packetNode p
    let u := advanceTo s (waitEnd s p)
    (Next (exec (.creditWaitExpiry p.id true) s) fun t => t = { u with race := t.race, regions := t.regions } ∧
      (t.race.packets = s.race.packets.map fun q => if q.id = p.id then { q with waiting := none } else q) ∧
      (Tbl.get {} (regionOf t n.region).race.cnt p.plane.num).grace = bump (Tbl.get {} (regionOf s n.region).race.cnt p.plane.num).grace) ∧
    (Next (exec (.creditWaitExpiry p.id false) s) fun t => t.mem = s.mem ∧ t.cores = u.cores ∧
      (newRec s t).code = .timeout ∧ (newRec s t).cls = .refusal ∧ (newRec s t).addr = p.dest ∧
      ∀ c, p.src = .core c → p.kind ≠ .response → (routeOf s (nodeCore n / 256) (c / 256) .c).mode ≠ 0 → Answered t p.acc .timeout) := by
  intro n u
  constructor
  · refine .of_eq (execCreditWaitExpiry_of_waiting packet waits true) ⟨rfl, ?_, ?_⟩
    · exact congrArg (fun r : Race => r.packets.map _) (advanceTo_race s (waitEnd s p))
    · rw [← grace_advanceTo s (waitEnd s p)]
      exact congrArg RaceCnt.grace (cnt_raceCount u n.region p.plane _)
  · let v := raceCount u n.region p.plane fun x => { x with cto := bump x.cto }
    have flt : (dropPacket v p.id).flt = s.flt := advanceTo_flt ..
    have record := newRec_of_logRec flt (discardPacket_flt v p n .timeout)
    refine .of_eq (execCreditWaitExpiry_of_waiting packet waits false) ?_
    refine ⟨(discardPacket_mem v p n .timeout).trans (advanceTo_mem ..), discardPacket_cores v p n .timeout, ?_⟩
    simp only [Bool.false_eq_true, if_false]
    rw [record]
    exact ⟨rfl, rfl, rfl, fun c source kind route => answered_discardPacket kind source (by simpa [u] using route) _⟩

theorem continuationWaitExpires {s : State} {acc : Nat} {i : Incoming} (known : incomingOf s acc = some i) :
    let u := advanceTo s i.due
    (Next (exec (.continuationWaitExpiry acc true) s) fun t => t = { u with regions := t.regions }) ∧
    Next (exec (.continuationWaitExpiry acc false) s) fun t => t.mem = s.mem ∧ t.cores = u.cores ∧ incomingOf t acc = none ∧
      (newRec s t).code = .timeout ∧ (newRec s t).cls = .refusal ∧ (newRec s t).addr = i.dest := by
  intro u
  let v := raceCount (dropIncoming u acc) (i.core / 256) i.plane fun x => { x with cto := bump x.cto }
  let source := match i.src with | .core c => c | .edge n => n
  let r := { coreRec v i.core with code := .timeout, cls := .refusal, unit := 9, aform := 1, addr := i.dest
                                   syndrome := source + at_ 16 i.plane.num }
  have run : ∀ came, exec (.continuationWaitExpiry acc came) s =
      .next (if came then raceCount u (i.core / 256) i.plane fun x => { x with grace := bump x.grace } else logRec v r) := fun came =>
    congrArg Host.Outcome.next (by simp only [known]; rfl)
  refine ⟨.of_eq (run true) rfl, .of_eq (run false) ?_⟩
  have record := newRec_of_logRec (s := s) (u := v) (r := r) (advanceTo_flt ..) rfl
  simp only [Bool.false_eq_true, if_false]
  refine ⟨(logRec_mem ..).trans (advanceTo_mem ..), logRec_cores .., ?_, ?_⟩
  · rw [incomingOf, logRec_race]
    simp [v, dropIncoming]
  · rw [record]
    exact ⟨rfl, rfl, rfl⟩

theorem responseWaitExpires {s : State} {a : Access} {c : Nat} (known : accessOf s a.id = some a) (source : a.src = .core c) :
    let u := advanceTo s a.due
    (Next (exec (.responseWaitExpiry a.id true) s) fun t => t = { u with regions := t.regions }) ∧
    ∀ x, (coreOf s c).sends.find? (fun y => y.id == a.send) = some x →
      exec (.responseWaitExpiry a.id false) s =
        .next (failUnit (dropAccess u a.id) c 9 0 x.pc { code := .timeout, addr := some a.dest }) := by
  intro u
  have run : ∀ came, exec (.responseWaitExpiry a.id came) s = .next (if came then raceCount u (c / 256) a.plane fun x =>
      { x with grace := bump x.grace } else failAccess u a.id .timeout) := fun came =>
    congrArg Host.Outcome.next (by simp only [known, source]; rfl)
  refine ⟨.of_eq (run true) rfl, fun x waits => (run false).trans (congrArg _ ?_)⟩
  have later : accessOf u a.id = some a := by rw [accessOf, advanceTo_race]; exact known
  exact failAccess_of_waiting later source (by rwa [sends_advanceTo]) .timeout

theorem raceTimersHolds : RaceTimersHolds :=
  ⟨fun _ _ packet waits => creditWaitExpires packet waits, fun _ _ _ known => continuationWaitExpires known,
    fun _ _ _ known source => responseWaitExpires known source⟩

/-! ## Route changes (05 R187, R193) -/

/-- Where no core has a SEND or a RECV nothing follows a route change on the cores of a region. -/
theorem sameCores_settleRegion {s : State} (idle : ∀ c, (coreOf s c).sends = [] ∧ (coreOf s c).arms = []) (r : Nat) :
    SameCores s (settleRegion s r) := by
  suffices ∀ (cs : List Nat) (s : State), (∀ c, (coreOf s c).sends = [] ∧ (coreOf s c).arms = []) → SameCores s (cs.foldl settle s) from
    this _ s idle
  intro cs
  induction cs with
  | nil => exact fun s _ => .refl s
  | cons c cs ih =>
    intro s idle
    have same := sameCores_settle (idle c).2 (idle c).1
    rw [List.foldl_cons]
    exact same.trans (ih (settle s c) fun d => by rw [same.2]; exact idle d)

/-- The state in which the new entry applies. -/
def reloadedRoute (s : State) (src dst : RegionId) (plane : Plane) (r : Reload) : State :=
  updRegion { s with race := { s.race with reloads := s.race.reloads.filter fun x => x ≠ r } } src fun x =>
    { x with race := { x.race with
      routes := Tbl.set {} x.race.routes (4 * dst.val + plane.num) { mode := r.mode, waypoint := r.waypoint } } }

section
variable {s : State} {src dst : RegionId} {plane : Plane} {r : Reload}
  (found : s.race.reloads.find? (fun x => x.src == src.val && x.dst == dst.val && x.plane == plane) = some r)
include found

theorem execRouteReload_of_blocked (blocked : outstanding s src dst plane = true ∨ reloadBehind s plane = true) :
    execRouteReload src dst plane s = .next s := by
  simp only [execRouteReload, found]
  rw [if_pos (Bool.or_eq_true_iff.2 blocked)]

theorem execRouteReload_of_free (free : outstanding s src dst plane = false) (first : reloadBehind s plane = false) :
    execRouteReload src dst plane s = .next (settleRegion (reloadedRoute s src dst plane r) src) := by
  simp only [execRouteReload, found]
  rw [free, first, Bool.or_false, if_neg (by decide)]
  rfl

theorem next_routeReload_applies (free : outstanding s src dst plane = false) (first : reloadBehind s plane = false)
    (idle : ∀ c, (coreOf s c).sends = [] ∧ (coreOf s c).arms = []) :
    Next (exec (.routeReload src dst plane) s) fun t => t.mem = s.mem ∧ t.race.accesses = s.race.accesses ∧ r ∉ t.race.reloads ∧
      (src ≠ dst → routeOf t src dst plane = { mode := r.mode, waypoint := r.waypoint }) := by
  have same := sameCores_settleRegion (s := reloadedRoute s src dst plane r) idle src
  refine .of_eq (execRouteReload_of_free found free first) ⟨same.mem, by rw [same.race]; rfl, by rw [same.race]; simp [reloadedRoute],
    fun other => ?_⟩
  rw [routeOf, if_neg (fun h => other (Fin.ext h)), same.1]
  have entry : (regionOf (reloadedRoute s src dst plane r) src).race.routes = Tbl.set {} (regionOf s src).race.routes
      (4 * dst.val + plane.num) { mode := r.mode, waypoint := r.waypoint } := by rw [reloadedRoute, regionOf_updRegion_same]; rfl
  exact (congrArg (Tbl.get {} · _) entry).trans (Tbl.get_set_same ..)

end

/-! ## LOST_NOTICE (05 R193) -/

theorem execLostNotice_of_none {s : State} {n lost : RegionId} (none : (n.val, lost.val) ∉ s.race.notices) :
    execLostNotice n lost s = .next s := by
  rw [execLostNotice, if_pos (by simp [none])]

/-- Is access `a` one that a notice about region `lost` to region `n` fails? -/
def hitBy (s : State) (n lost : Nat) (a : Access) : Bool :=
  (match a.src with | .core c => c / 256 == n | .edge _ => false)
    && (fld a.dest 42 6 == lost || (!vddnOn s lost && a.via.contains lost))

/-- The state without a notice that has come. -/
def dropNotice (s : State) (n lost : Nat) : State :=
  { s with race := { s.race with notices := s.race.notices.filter (· ≠ (n, lost)) } }

theorem execLostNotice_of_due {s : State} {n lost : RegionId} (due : (n.val, lost.val) ∈ s.race.notices)
    (gone : (regionOf s lost).org.shape = .lost) (rewritten : ∀ r ∈ s.race.reloads, r.plane = .a ∨ r.plane = .k) :
    execLostNotice n lost s = .next ((s.race.accesses.filter (hitBy (dropNotice s n lost) n lost)).foldl
      (fun s a => failAccess s a.id .lost) (dropNotice s n lost)) := by
  have behind : (s.race.reloads.any fun r => r.plane == .c || r.plane == .t) = false := by
    rw [List.any_eq_false]
    intro r listed
    obtain plane | plane := rewritten r listed <;> simp [plane]
  rw [execLostNotice, if_neg (by simp [due, gone, behind])]
  rfl

theorem next_lostNotice_elsewhere {s : State} {n lost : RegionId} (due : (n.val, lost.val) ∈ s.race.notices)
    (gone : (regionOf s lost).org.shape = .lost) (rewritten : ∀ r ∈ s.race.reloads, r.plane = .a ∨ r.plane = .k)
    (elsewhere : ∀ a ∈ s.race.accesses, fld a.dest 42 6 ≠ lost.val ∧ lost.val ∉ a.via) : Next (exec (.lostNotice n lost) s) fun t =>
      t = { s with race := t.race } ∧ t.race.accesses = s.race.accesses ∧ (n.val, lost.val) ∉ t.race.notices := by
  have none : s.race.accesses.filter (hitBy (dropNotice s n lost) n lost) = [] := by
    rw [List.filter_eq_nil_iff]
    intro a listed
    obtain ⟨target, route⟩ := elsewhere a listed
    simp [hitBy, target, route]
  refine .of_eq (execLostNotice_of_due due gone rewritten) ?_
  rw [none]
  exact ⟨rfl, rfl, by simp [dropNotice]⟩

theorem execLostNotice_of_single {s : State} {n lost : RegionId} (due : (n.val, lost.val) ∈ s.race.notices)
    (gone : (regionOf s lost).org.shape = .lost) (rewritten : ∀ r ∈ s.race.reloads, r.plane = .a ∨ r.plane = .k)
    {a : Access} {c : Nat} {x : SendSt} (single : s.race.accesses = [a]) (source : a.src = .core c) (here : c / 256 = n.val)
    (target : fld a.dest 42 6 = lost.val) (waits : (coreOf s c).sends.find? (fun y => y.id == a.send) = some x) :
    execLostNotice n lost s = .next (failUnit (dropAccess (dropNotice s n lost) a.id) c 9 0 x.pc { code := .lost, addr := some a.dest }) := by
  have hit : s.race.accesses.filter (hitBy (dropNotice s n lost) n lost) = [a] := by simp [single, hitBy, source, here, target]
  have known : accessOf (dropNotice s n lost) a.id = some a := by simp [accessOf, dropNotice, single]
  rw [execLostNotice_of_due due gone rewritten, hit, List.foldl_cons, List.foldl_nil]
  exact congrArg _ (failAccess_of_waiting known source waits .lost)

theorem routesAndLostRegionsHolds : RoutesAndLostRegionsHolds := by
  refine ⟨fun s src dst plane r found => ⟨execRouteReload_of_blocked found, next_routeReload_applies found⟩,
    fun s n lost => ⟨execLostNotice_of_none, fun due gone rewritten => ⟨next_lostNotice_elsewhere due gone rewritten,
      fun a c x single source here target waits => ?_⟩⟩⟩
  exact ⟨dropAccess (dropNotice s n lost) a.id, rfl, by simp [dropAccess, dropNotice, single],
    execLostNotice_of_single due gone rewritten single source here target waits⟩

/-- Settles O25: the waits by what came in their cycle; route changes and notices by what must come before them. -/
theorem raceTimersAndRoutes : Obligations.RaceTimersAndRoutes := ⟨raceTimersHolds, routesAndLostRegionsHolds⟩

end Sys2Proof.Machine

namespace Sys2Proof.Machine

/-! ## FLM.RD, FLM.WR and FLM.WAIT (06 R224-R227) -/

/-! ### What a turn of slot 3 leaves as it was -/

@[simp] theorem placeOf_begun (s : State) (c k o : Nat) : placeOf (begun s c k) c o = placeOf s c o := by
  simp only [placeOf, handleOf_begun]

@[simp] theorem tagAt_begun (s : State) (c k q tag : Nat) : tagAt (coreOf (begun s c k) c) q tag = tagAt (coreOf s c) q tag := by
  rw [coreOf_begun]; rfl

@[simp] theorem checkFlume_begun (s : State) (c k : Nat) (write : Bool) (q tag : Nat) (w0 w1 w2 w3 : Word) :
    checkFlume (begun s c k) c write q tag w0 w1 w2 w3 = checkFlume s c write q tag w0 w1 w2 w3 := by
  have boundary : (coreOf (begun s c k) c).boundary = (coreOf s c).boundary := by rw [coreOf_begun]
  simp only [checkFlume, tagAt_begun, handleOf_begun, placeOf_begun, boundary]

@[simp] theorem sendWord_begun (s : State) (c k : Nat) (sg : Fin 8) (i : Nat) :
    sendWord (coreOf (begun s c k) c) sg i = sendWord (coreOf s c) sg i := sreg_begun ..

/-- The checks of R225 on the scalars of a group. -/
theorem flumeCode_eq (s : State) (c : Nat) (write : Bool) (q tag : Nat) (sg : Fin 8) : flumeCode s c write q tag sg =
    let w := sendWord (coreOf s c) sg
    checkFlume s c write q tag (w 0) (w 1) (w 2) (w 3) := rfl

/-! ### Tags of a core -/

theorem tagIx_eq_iff (q q' : Fin 8) (tag tag' : Fin 16) : tagIx q' tag' = tagIx q tag ↔ q' = q ∧ tag' = tag := by
  simp only [tagIx, Fin.ext_iff]
  omega

/-- One tag of the core changes, and no other. -/
theorem tagAt_of_set {k l : Core} {q : Fin 8} {tag : Fin 16} {x : Tag} (h : l.flume = Tbl.set .idle k.flume (tagIx q tag) x)
    (q' : Fin 8) (tag' : Fin 16) : tagAt l q' tag' = if q' = q ∧ tag' = tag then x else tagAt k q' tag' := by
  rw [tagAt, h, Tbl.get_set, tagAt]
  simp only [tagIx_eq_iff]

/-- What a completion does to the control core rests on the control core. -/
theorem scc_signalDone_congr {k l : Core} (h : l.scc = k.scc) (evEn : Bool) (ev : Nat) (cntEn : Bool) (cnt : Nat) :
    (signalDone l evEn ev cntEn cnt).scc = (signalDone k evEn ev cntEn cnt).scc := by
  unfold signalDone
  split <;> split <;> simp [setEvent, incCounter, h]

/-- Tag `tag` of queue `q` of core `c` is `x` after the turn, the control core is `scc`, and no other tag and no other core differs. -/
def Tagged (s : State) (c : CoreId) (q : Fin 8) (tag : Fin 16) (x : Tag) (scc : Scc) (t : State) : Prop :=
  OnlyCore c s t ∧ (coreOf t c).scc = scc ∧
  ∀ q' : Fin 8, ∀ tag' : Fin 16, tagAt (coreOf t c) q' tag' = if q' = q ∧ tag' = tag then x else tagAt (coreOf (begun s c 3) c) q' tag'

theorem tagged_updCore {s : State} {c : CoreId} {q : Fin 8} {tag : Fin 16} {x : Tag} {scc : Scc} {f : Core → Core}
    (flume : (f (coreOf (begun s c 3) c)).flume = Tbl.set .idle (coreOf (begun s c 3) c).flume (tagIx q tag) x)
    (control : (f (coreOf (begun s c 3) c)).scc = scc) : Tagged s c q tag x scc (updCore (begun s c 3) c f) :=
  ⟨onlyCore_updCore_begun s c 3 f, by rw [coreOf_updCore_same, control], fun q' tag' => by
    rw [coreOf_updCore_same, tagAt_of_set flume]⟩

/-! ### FLM.RD and FLM.WR -/

/-- The Flume instruction of a direction. -/
def flumeInstr (write : Bool) (c : CoreId) (q : Fin 8) (tag : Fin 16) (sg : Fin 8) : Instr :=
  if write then .flmWr c q tag sg else .flmRd c q tag sg

theorem waitsFor_flumeInstr (s : State) (c : CoreId) (write : Bool) (q : Fin 8) (tag : Fin 16) (sg : Fin 8) :
    waitsFor s c (flumeInstr write c q tag sg) = flumeStall s c write q tag sg := by cases write <;> rfl

theorem exec_flumeInstr_of_takesEffect {s : State} {c : CoreId} {write : Bool} {q : Fin 8} {tag : Fin 16} {sg : Fin 8}
    (now : TakesEffect s c 3 (flumeInstr write c q tag sg)) :
    exec (flumeInstr write c q tag sg) s = .next (flumeIssue (begun s c 3) c write q tag sg) := by
  cases write
  · exact turn_of_takesEffect (i := .flmRd c q tag sg) now fun s => flumeIssue s c false q tag sg
  · exact turn_of_takesEffect (i := .flmWr c q tag sg) now fun s => flumeIssue s c true q tag sg

/-- The transfer that a Flume instruction begins (R224). -/
def flumeTransfer (s : State) (c : CoreId) (write : Bool) (sg : Fin 8) : FlumeT :=
  let k := coreOf (begun s c 3) c
  let w := sendWord k sg
  { write := write, sn := bits (w 0) 0 40, loc := (placeOf s c (lo32 (w 1))).addr, len := bits (w 1) 32 24, tmo := bits (w 2) 0 24
    issued := s.glb.time, ev := bits (w 2) 24 4, evEn := bit (w 2) 28, seq := k.seq, pc := k.scc.pc }

section
variable {s : State} {c : CoreId} {write : Bool} {q : Fin 8} {tag : Fin 16} {sg : Fin 8}

theorem flumeStall_eq : flumeStall s c write q tag sg =
    let w := sendWord (coreOf s c) sg
    if checkFlume s c write q tag (w 0) (w 1) (w 2) (w 3) = none ∧ bits (w 1) 32 24 ≠ 0 ∧ freeTokens s c = 0 then some (.token, 8, 0)
    else none := by
  rw [flumeStall, flumeCode_eq]
  refine if_congr ?_ rfl rfl
  simp only [Bool.and_eq_true, Option.isNone_iff_eq_none, decide_eq_true_eq, beq_iff_eq, and_assoc]
  rfl

/-- FLM.RD and FLM.WR after their turn, by the checks and the length (R225, R226). -/
theorem flumeIssue_of_code {x : Code} (code : flumeCode (begun s c 3) c write q tag sg = some x) :
    flumeIssue (begun s c 3) c write q tag sg =
      failInstr (begun s c 3) c 9 { code := x, addr := some (snowAddr (bits (sendWord (coreOf (begun s c 3) c) sg 0) 0 40)) } := by
  simp only [flumeIssue, code]
  rfl

theorem tagged_flumeIssue_empty (code : flumeCode (begun s c 3) c write q tag sg = none)
    (len : bits (sendWord (coreOf (begun s c 3) c) sg 1) 32 24 = 0) :
    let k := coreOf (begun s c 3) c
    let w2 := sendWord k sg 2
    Tagged s c q tag .done (signalDone k (bit w2 28) (bits w2 24 4) false 0).scc (flumeIssue (begun s c 3) c write q tag sg) := by
  have issue : flumeIssue (begun s c 3) c write q tag sg = updCore (begun s c 3) c fun k =>
      let w2 := sendWord (coreOf (begun s c 3) c) sg 2
      signalDone { k with flume := Tbl.set .idle k.flume (tagIx q tag) .done } (bit w2 28) (bits w2 24 4) false 0 := by
    simp only [flumeIssue, code]
    exact if_pos len
  rw [issue]
  exact tagged_updCore (by rw [signalDone_same]) (by apply scc_signalDone_congr; rfl)

theorem tagged_flumeIssue_busy (code : flumeCode (begun s c 3) c write q tag sg = none)
    (len : bits (sendWord (coreOf (begun s c 3) c) sg 1) 32 24 ≠ 0) :
    Tagged s c q tag (.busy (flumeTransfer s c write sg)) (coreOf (begun s c 3) c).scc (flumeIssue (begun s c 3) c write q tag sg) := by
  have place := placeOf_begun s c 3 (lo32 (sendWord (coreOf (begun s c 3) c) sg 1))
  have issue : flumeIssue (begun s c 3) c write q tag sg = updCore (begun s c 3) c fun k =>
      let h := [orfHandle (lo32 (sendWord (coreOf (begun s c 3) c) sg 1))]
      { pushOp k (if write then h else []) (if write then [] else h) [] with
        flume := Tbl.set .idle k.flume (tagIx q tag) (.busy { flumeTransfer s c write sg with seq := k.seq, pc := k.scc.pc }) } := by
    simp only [flumeIssue, code, flumeTransfer, ← place]
    exact if_neg len
  rw [issue]
  exact tagged_updCore rfl rfl

end

/-! ### FLM.WAIT -/

section
variable {s : State} {c : CoreId} {q : Fin 8} {tag : Fin 16}

theorem exec_flmWait_of_takesEffect (now : TakesEffect s c 3 (.flmWait c q tag)) : exec (.flmWait c q tag) s = .next (
    if tagAt (coreOf (begun s c 3) c) q tag = .done then
      updCore (begun s c 3) c fun k => { k with flume := Tbl.set .idle k.flume (tagIx q tag) .idle }
    else failInstr (begun s c 3) c 9 { code := .state }) :=
  turn_of_takesEffect now fun s =>
    if tagAt (coreOf s c) q tag = .done then updCore s c fun k => { k with flume := Tbl.set .idle k.flume (tagIx q tag) .idle }
    else failInstr s c 9 { code := .state }

theorem waitsFor_flmWait : waitsFor s c (.flmWait c q tag) =
    if (tagAt (coreOf (begun s c 3) c) q tag).isBusy = true then some (.flume, 0xC, 16 * q.val + tag.val) else none := by
  rw [tagAt_begun]
  rfl

end

theorem flumeInstructionsHolds : FlumeInstructionsHolds := by
  intro s c q tag sg write k w i wait len code tagged
  have check : flumeCode (begun s c 3) c write q tag sg = code := by rw [flumeCode_eq]; exact checkFlume_begun ..
  refine ⟨?_, fun now => ⟨fun passes empty => ?_, fun passes some => ?_, fun x fails => ?_⟩, waitsFor_flmWait, fun now => ⟨fun done => ?_,
    fun idle => ?_⟩⟩
  · refine (waitsFor_flumeInstr s c write q tag sg).trans (flumeStall_eq.trans ?_)
    simp only [code, len, w, k, sendWord_begun]
  · exact .of_eq (exec_flumeInstr_of_takesEffect now) (tagged_flumeIssue_empty (check.trans passes) empty)
  · exact .of_eq (exec_flumeInstr_of_takesEffect now) (tagged_flumeIssue_busy (check.trans passes) some)
  · exact (exec_flumeInstr_of_takesEffect now).trans (congrArg _ (flumeIssue_of_code (check.trans fails)))
  · exact .of_eq ((exec_flmWait_of_takesEffect now).trans (congrArg _ (if_pos done))) (tagged_updCore rfl rfl)
  · exact (exec_flmWait_of_takesEffect now).trans (congrArg _ (if_neg (by rw [show tagAt (coreOf (begun s c 3) c) q tag = .idle from idle]; decide)))

end Sys2Proof.Machine

namespace Sys2Proof.Machine

/-! ## The way of a Flume transfer stays on the device (05 R169, 11 R403) -/

/-- The node is one of the 128 by 128 routers, or the hub of one of the 64 regions. -/
def InGrid : Node → Prop
  | .router x y => x < 128 ∧ y < 128
  | .hub r => r < 64

theorem region_lt_of_inGrid {n : Node} (h : InGrid n) : n.region < 64 := by
  cases n with
  | router x y =>
    obtain ⟨hx, hy⟩ := h
    simp only [Node.region]
    omega
  | hub r => exact h

theorem coreX_lt (c : Nat) : coreX c < 128 := by unfold coreX; omega
theorem coreY_lt {c : Nat} (h : c < 16384) : coreY c < 128 := by unfold coreY; omega

theorem le_max_of_mem_walk {a b i : Nat} (h : i ∈ walk a b) : i ≤ max a b := by
  unfold walk at h
  split at h <;> obtain ⟨j, hj, rfl⟩ := List.mem_map.1 h <;> rw [List.mem_range] at hj <;> omega

theorem lt_of_mem_walk {a b i : Nat} (ha : a < 128) (hb : b < 128) (h : i ∈ walk a b) : i < 128 :=
  (le_max_of_mem_walk h).trans_lt (max_lt ha hb)

section
variable {x y u v : Nat} (hx : x < 128) (hy : y < 128) (hu : u < 128) (hv : v < 128)
include hx hy hu hv

theorem inGrid_meshXY : ∀ n ∈ meshXY x y u v, InGrid n := by
  intro n mem
  obtain along | across := List.mem_append.1 mem
  · obtain ⟨i, hi, rfl⟩ := List.mem_map.1 along
    exact ⟨lt_of_mem_walk hx hu hi, hy⟩
  · obtain ⟨j, hj, rfl⟩ := List.mem_map.1 across
    exact ⟨hu, lt_of_mem_walk hy hv (List.mem_of_mem_drop hj)⟩

theorem inGrid_meshYX : ∀ n ∈ meshYX x y u v, InGrid n := by
  intro n mem
  obtain along | across := List.mem_append.1 mem
  · obtain ⟨j, hj, rfl⟩ := List.mem_map.1 along
    exact ⟨hx, lt_of_mem_walk hy hv hj⟩
  · obtain ⟨i, hi, rfl⟩ := List.mem_map.1 across
    exact ⟨lt_of_mem_walk hx hu (List.mem_of_mem_drop hi), hv⟩

end

/-- The column through which a detour goes is one of the same region, next to it or found there (R22, R169). -/
theorem inGrid_aside (s : State) {n m : Node} (hn : InGrid n) (hm : InGrid m) : ∀ k ∈ aside s n m, InGrid k := by
  intro k mem
  cases n with
  | hub _ => simp [aside] at mem
  | router x y => cases m with
    | hub _ => simp [aside] at mem
    | router u v =>
      obtain ⟨hx, hy⟩ := hn
      obtain ⟨hu, hv⟩ := hm
      have beside : (if x % 2 = 0 then x + 1 else x - 1) < 128 := by split <;> omega
      simp only [aside] at mem
      split at mem
      · obtain rfl | rfl : k = _ ∨ k = _ := by simpa using mem
        exacts [⟨beside, hy⟩, ⟨beside, hv⟩]
      · split at mem
        · generalize column : Option.getD _ x = z at mem
          have hz : z < 128 := by
            rw [← column]
            cases found : List.find? _ _ with
            | none => exact hx
            | some j =>
              obtain rfl | near := List.mem_cons.1 (List.mem_of_find?_eq_some found)
              · exact beside
              · simp only [List.mem_flatMap, List.mem_filter, Bool.and_eq_true, beq_iff_eq] at near
                obtain ⟨_, _, _, same, _⟩ := near
                simp only [Option.getD_some]
                omega
          split at mem
          · simp at mem
          · obtain down | back := List.mem_append.1 mem
            · obtain ⟨i, hi, rfl⟩ := List.mem_map.1 down
              exact ⟨lt_of_mem_walk hx hz (List.mem_of_mem_drop hi), hy⟩
            · obtain ⟨i, hi, rfl⟩ := List.mem_map.1 back
              exact ⟨lt_of_mem_walk hz hx (List.mem_of_mem_dropLast hi), hv⟩
        · simp at mem

theorem inGrid_detoured (s : State) {ns : List Node} (h : ∀ n ∈ ns, InGrid n) : ∀ n ∈ detoured s ns, InGrid n := by
  induction ns with
  | nil => exact h
  | cons n rest ih =>
    intro k mem
    rw [detoured_cons] at mem
    obtain rfl | further := List.mem_cons.1 mem
    · exact h _ List.mem_cons_self
    obtain detour | later := List.mem_append.1 further
    · cases rest with
      | nil => simp at detour
      | cons m rest =>
        exact inGrid_aside s (h n List.mem_cons_self) (h m (List.mem_cons_of_mem _ List.mem_cons_self)) k detour
    · exact ih (fun n hn => h n (List.mem_cons_of_mem _ hn)) k later

/-- A mesh path, along X or Y first, stays on the device. -/
theorem inGrid_routeNodes (s : State) {a b : Nat} (ha : a < 16384) (hb : b < 16384) {rt : Route} (mesh : rt.mode = 1 ∨ rt.mode = 2) :
    ∀ n ∈ routeNodes s a b rt, InGrid n := by
  refine inGrid_detoured s ?_
  unfold pathOf
  dsimp only
  split
  · exact inGrid_meshXY (coreX_lt a) (coreY_lt ha) (coreX_lt b) (coreY_lt hb)
  · next far =>
    rw [not_or] at far
    rw [if_pos (mesh.resolve_left far.2)]
    exact inGrid_meshYX (coreX_lt a) (coreY_lt ha) (coreX_lt b) (coreY_lt hb)

theorem lt_of_mem_edgeRegions {n r : Nat} (h : r ∈ edgeRegions n) : r < 64 := by
  have all : ∀ f ∈ fields, ∀ r ∈ f.adjoins, r < 64 := by decide
  unfold edgeRegions at h
  dsimp only at h
  split at h
  · next f found => exact all f (List.mem_of_find?_eq_some found) r h
  · simp at h

theorem sideRouter_lt (n c : Nat) {r : Nat} (h : r < 64) : sideRouter n c r < 16384 := by
  have place : ∀ y x, y < 16 → x < 16 → r * 256 + y * 16 + x < 16384 := by omega
  unfold sideRouter
  dsimp only
  generalize (if n < 0x30 then n % 16 else 0) = side
  split <;> exact place _ _ (by omega) (by omega)

/-- So does the path to a controller of Snowpack. -/
theorem inGrid_flumePath (s : State) {c : Nat} (hc : c < 16384) (k : Nat) : ∀ n ∈ flumePath s c k, InGrid n := by
  unfold flumePath
  dsimp only
  generalize choices : List.flatMap _ _ = ps
  have all : ∀ p ∈ ps, ∀ n ∈ p, InGrid n := by
    rw [← choices]
    intro p mem
    simp only [List.mem_flatMap, List.mem_append, List.mem_filter] at mem
    obtain ⟨r, listed, route⟩ := mem
    have inside : r < 64 := lt_of_mem_edgeRegions (listed.elim And.left id)
    obtain ⟨rt, mode, rfl⟩ := List.mem_map.1 route
    exact inGrid_routeNodes s hc (sideRouter_lt _ c inside) (by simp only [List.mem_cons, List.not_mem_nil, or_false] at mode
                                                                obtain rfl | rfl := mode <;> simp)
  cases found : List.find? _ ps with
  | some p => exact all p (List.mem_of_find?_eq_some found)
  | none => cases ps with
    | nil => simp
    | cons p rest => exact all p List.mem_cons_self

/-! ## A transfer crosses Race where VDDN is on (05 R193, R196, 11 R403) -/

/-- VDDN of every region is on. -/
def AllPowered (s : State) : Prop := ∀ r < 64, vddnOn s r = true

/-- Flits have crossed Race, and were counted: nothing else differs. -/
def Crossed (s t : State) : Prop := t = { s with regions := t.regions } ∧ ∀ r, vddnOn t r = vddnOn s r

theorem Crossed.refl (s : State) : Crossed s s := ⟨rfl, fun _ => rfl⟩

theorem Crossed.trans {s t u : State} (first : Crossed s t) (second : Crossed t u) : Crossed s u :=
  ⟨by rw [second.1, first.1], fun r => (second.2 r).trans (first.2 r)⟩

theorem Crossed.powered {s t : State} (h : Crossed s t) (powered : AllPowered s) : AllPowered t := fun r hr => (h.2 r).trans (powered r hr)

theorem crossed_raceCount (s : State) (g : Nat) (p : Plane) (f : RaceCnt → RaceCnt) : Crossed s (raceCount s g p f) :=
  ⟨rfl, fun r => view_updRegion (π := fun x => bit x.pwr.rails 1) (by intro; rfl) s g r⟩

theorem travel_of_powered {path : List Node} (inside : ∀ n ∈ path, InGrid n) {s : State} (powered : AllPowered s) (p : Plane) (f : Nat) :
    ∃ t, travel s p f path = (t, none) ∧ Crossed s t := by
  induction path generalizing s with
  | nil => exact ⟨s, rfl, .refl s⟩
  | cons x rest ih =>
    have on : ¬ (rest.head?.any fun m => !vddnOn s m.region) = true := by
      cases rest with
      | nil => simp
      | cons m rest =>
        have := powered _ (region_lt_of_inGrid (inside m (List.mem_cons_of_mem _ List.mem_cons_self)))
        simp [this]
    have counted := crossed_raceCount s x.region p fun r => { r with flits := bumpBy r.flits f }
    obtain ⟨t, run, crossed⟩ := ih (fun n hn => inside n (List.mem_cons_of_mem _ hn)) (counted.powered powered)
    exact ⟨t, by rw [travel, if_neg on, run], counted.trans crossed⟩

section
variable {s : State} {c : Nat} (hc : c < 16384) (powered : AllPowered s)
include hc powered

theorem flumeCross_of_powered (p : Plane) (k n dest : Nat) (out : Bool) :
    ∃ t, flumeCross s p c k n dest out = (t, none) ∧ Crossed s t := by
  have inside : ∀ x ∈ (if out then flumePath s c k else (flumePath s c k).reverse), InGrid x := fun x mem =>
    inGrid_flumePath s hc k x (by cases out <;> simpa using mem)
  obtain ⟨t, run, crossed⟩ := travel_of_powered inside powered p (flitsAll p n)
  exact ⟨t, by rw [flumeCross, follow, run], crossed⟩

/-- Every access of the transfer reaches its controller. -/
theorem flumeOut_of_powered (a n : Nat) (write : Bool) : ∃ t, flumeOut s c a n write = (t, none) ∧ Crossed s t := by
  unfold flumeOut
  generalize flumeAccesses s c a n write = xs
  induction xs generalizing s with
  | nil => exact ⟨s, rfl, .refl s⟩
  | cons x xs ih =>
    obtain ⟨t, run, crossed⟩ := flumeCross_of_powered hc powered .k x.1 (16 + if write then x.2.2 else 0) (snowAddr x.2.1) true
    obtain ⟨u, rest, further⟩ := ih (crossed.powered powered)
    exact ⟨u, by rw [List.foldl_cons, run]; exact rest, crossed.trans further⟩

/-- Every answer, and the data of a read, come back. -/
theorem flumeBack_of_powered (a n : Nat) (write data : Bool) : ∃ t, flumeBack s c a n write data = (t, false) ∧ Crossed s t := by
  unfold flumeBack
  generalize flumeAccesses s c a n write = xs
  induction xs generalizing s with
  | nil => exact ⟨s, rfl, .refl s⟩
  | cons x xs ih =>
    obtain ⟨t, read, crossed⟩ : ∃ t, (if data then flumeCross s .k c x.1 x.2.2 (snowAddr x.2.1) false else (s, none)) = (t, none) ∧
        Crossed s t := by
      cases data
      · exact ⟨s, rfl, .refl s⟩
      · exact flumeCross_of_powered hc powered .k x.1 x.2.2 _ false
    obtain ⟨u, answer, back⟩ := flumeCross_of_powered hc (crossed.powered powered) .c x.1 0 (coreAddr c 0 0) false
    obtain ⟨v, rest, further⟩ := ih (back.powered (crossed.powered powered))
    exact ⟨v, by rw [List.foldl_cons, read]; dsimp only; rw [answer]; exact rest, (crossed.trans back).trans further⟩

end

/-! ## What the controllers decide and do (11 R393, R404) -/

theorem flumeCovers_congr {s t : State} (mills : t.mills = s.mills) (c a n : Nat) (write : Bool) :
    flumeCovers t c a n write = flumeCovers s c a n write := by
  rw [flumeCovers, ownerOf_congr mills, flumeCovers]
  simp only [millOf_congr mills]

theorem snowShut_congr {s t : State} (snow : t.snow = s.snow) (a n : Nat) : snowShut t a n = snowShut s a n := by
  have up : stackUp t = stackUp s := funext fun k => by rw [stackUp, ctlOf, snow, stackUp, ctlOf]
  rw [snowShut, snow, up, snowShut]

/-- Where a transfer goes rests on the links, the mills and Snowpack. -/
theorem snowRoute_congr {s t : State} (links : t.links = s.links) (mills : t.mills = s.mills) (snow : t.snow = s.snow) (c a n : Nat)
    (write : Bool) : snowRoute t c a n write = snowRoute s c a n write := by
  have near : apertures t = apertures s := by rw [apertures, links, apertures]
  have queue : ∀ l q, queueOf t l q = queueOf s l q := fun l q => by rw [queueOf, linkOf, links, queueOf, linkOf]
  unfold snowRoute
  simp only [near, queue, flumeCovers_congr mills, snowShut_congr snow]

theorem snowRoute_of_crossed {s t : State} (h : Crossed s t) (c a n : Nat) (write : Bool) :
    snowRoute t c a n write = snowRoute s c a n write := by
  refine snowRoute_congr ?_ ?_ ?_ c a n write <;> rw [h.1]

theorem foldl_snow {α : Type} {f : State → α → State} (one : ∀ s a, f s a = { s with snow := (f s a).snow }) (l : List α) (s : State) :
    l.foldl f s = { s with snow := (l.foldl f s).snow } := by
  induction l generalizing s with
  | nil => rfl
  | cons a l ih =>
    rw [List.foldl_cons, ih]
    congr 1 <;> rw [one]

/-- The count of a refused transfer lies with Snowpack. -/
theorem countRefused_same (s : State) (a n : Nat) : countRefused s a n = { s with snow := (countRefused s a n).snow } :=
  foldl_snow (fun _ _ => rfl) _ s

theorem countSnow_same (s : State) (i a n : Nat) : countSnow s i a n = { s with snow := (countSnow s i a n).snow } :=
  foldl_snow (fun _ _ => by dsimp only; split <;> rfl) _ s

theorem poison_countSnow (s : State) (i a n : Nat) : (countSnow s i a n).snow.poison = s.snow.poison := by
  unfold countSnow
  generalize List.range 4 = ks
  induction ks generalizing s with
  | nil => rfl
  | cons k ks ih =>
    rw [List.foldl_cons, ih]
    dsimp only
    split <;> rfl

/-- The stacks read bursts that no damage met. -/
theorem snowRead_of_clean {s : State} (clean : s.snow.poison = []) (a n : Nat) : snowRead s a n [] = (countSnow s 0 a n, none) := by
  simp [snowRead, meetAll, poison_countSnow, clean]

theorem vddnOn_storeBytes (s : State) (a : Nat) (bs : List Byte) (r : Nat) : vddnOn (storeBytes s a bs) r = vddnOn s r := by
  unfold storeBytes
  dsimp only
  split
  · exact view_updRegion (π := fun x => bit x.pwr.rails 1) (by intro; rfl) _ _ _
  · rfl

theorem flumeMove_of_refused {s : State} {c : Nat} {x : FlumeT} {code : Code} (refused : snowRoute s c x.sn x.len x.write = .refuse code)
    (ups : List Upset) :
    flumeMove s c x ups = (countRefused s x.sn x.len, .error { code := code, addr := some (snowAddr x.sn) }) := by
  simp only [flumeMove, refused]
  rfl

/-- A read that the controllers serve copies its bytes. -/
theorem flumeMove_of_read {s : State} {c : Nat} {x : FlumeT} (read : x.write = false)
    (served : snowRoute s c x.sn x.len false = .stacks) (clean : s.poison = []) (snowClean : s.snow.poison = []) :
    flumeMove s c x [] =
      (storeBytes (countSnow s 0 x.sn x.len) x.loc (readBytes s (snowAddr x.sn) x.len), .ok none) := by
  have counted : (countSnow s 0 x.sn x.len).poison = [] := by rw [countSnow_same]; exact clean
  have bytes : readBytes (countSnow s 0 x.sn x.len) (snowAddr x.sn) x.len = readBytes s (snowAddr x.sn) x.len := by
    rw [countSnow_same]
    rfl
  simp only [flumeMove, read, served, snowRead_of_clean snowClean, meetWrites_of_clean counted, bytes, Bool.false_eq_true, if_false]

/-! ## SNOWPACK_ACCESS (11 R404) -/

/-- Transfer `x` of core `c` waits to be served, and nothing stands before it (R226). -/
def Free (s : State) (c q : Nat) (x : FlumeT) : Prop :=
  x.served = false ∧ (coreOf s c).ops = [] ∧ queueBehind (coreOf s c) q x.seq = false

/-- The tag of a transfer that has been served. -/
def servedTag (s : State) (c q tag : Nat) (x : FlumeT) (msg : Option Nat) (gone : Bool) : State :=
  updCore s c fun k =>
    { k with flume := Tbl.set .idle k.flume (tagIx q tag) (.busy { x with served := true, got := x.len, msg := msg, gone := gone }) }

/-- The answers to a transfer that the controllers have dealt with come back. -/
def answerFlume (c q tag : Nat) (x : FlumeT) : State × Except Fail (Option Nat) → State
  | (s, .error f) => match flumeBack s c x.sn x.len x.write false with
    | (s, gone) => if gone then servedTag s c q tag x none true else failUnit s c 9 0 x.pc f
  | (s, .ok msg) => match flumeBack s c x.sn x.len x.write (!x.write) with
    | (s, gone) => servedTag s c q tag x msg gone

section
variable {s : State} {c : CoreId} {q : Fin 8} {tag : Fin 16} {x : FlumeT} (busy : tagAt (coreOf s c) q tag = .busy x) (free : Free s c q x)
  (room : apertureFull s c x = false)
include busy free room

theorem exec_snowpackAccess_of_free (ups : List Upset) : exec (.snowpackAccess c q tag ups) s = .next (
    match flumeOut s c x.sn x.len x.write with
    | (u, some code) => flumeFail u c x code 0
    | (u, none) => answerFlume c q tag x (flumeMove u c x ups)) := by
  obtain ⟨waits, ops, turn⟩ := free
  refine congrArg Host.Outcome.next ?_
  simp only [busy, serveFlume]
  rw [if_neg (by simp [waits, turn, room, mayStart, ops])]
  generalize flumeOut s c x.sn x.len x.write = out
  obtain ⟨u, _ | code⟩ := out
  · dsimp only
    generalize flumeMove u c x ups = moved
    obtain ⟨v, f | msg⟩ := moved <;> rfl
  · rfl

theorem exec_snowpackAccess_of_discarded (ups : List Upset) {u : State} {code : Code}
    (out : flumeOut s c x.sn x.len x.write = (u, some code)) :
    exec (.snowpackAccess c q tag ups) s = .next (failUnit u c 9 0 x.pc { code := code, addr := some (snowAddr x.sn) }) := by
  rw [exec_snowpackAccess_of_free busy free room, out]
  rfl

end

section
variable {s : State} {c : CoreId} {q : Fin 8} {tag : Fin 16} {x : FlumeT} (busy : tagAt (coreOf s c) q tag = .busy x) (free : Free s c q x)
  (powered : AllPowered s)
include busy free powered

/-- A transfer that the controllers refuse fails with their code once their answers are back. -/
theorem exec_snowpackAccess_of_refused {code : Code} (refused : snowRoute s c x.sn x.len x.write = .refuse code) (ups : List Upset) :
    ∃ u, u = { s with snow := u.snow, regions := u.regions } ∧
      exec (.snowpackAccess c q tag ups) s = .next (failUnit u c 9 0 x.pc { code := code, addr := some (snowAddr x.sn) }) := by
  obtain ⟨t, out, crossed⟩ := flumeOut_of_powered c.isLt powered x.sn x.len x.write
  have same := countRefused_same t x.sn x.len
  have counted : AllPowered (countRefused t x.sn x.len) := by rw [same]; exact crossed.powered powered
  obtain ⟨u, back, returned⟩ := flumeBack_of_powered c.isLt counted x.sn x.len x.write false
  refine ⟨u, by rw [returned.1, same, crossed.1], ?_⟩
  rw [exec_snowpackAccess_of_free busy free (by simp [apertureFull, refused]), out]
  simp only [flumeMove_of_refused ((snowRoute_of_crossed crossed ..).trans refused), answerFlume, back, Bool.false_eq_true, if_false]

/-- A read that the controllers serve: its bytes are in the local memory, and its tag stays BUSY until it completes. -/
theorem next_snowpackAccess_read (read : x.write = false) (served : snowRoute s c x.sn x.len false = .stacks) (clean : s.poison = [])
    (snowClean : s.snow.poison = []) : Next (exec (.snowpackAccess c q tag []) s) fun t =>
      (∀ i < x.len, readByte t (x.loc + i) = readByte s (snowAddr x.sn + i)) ∧
      (∀ y, (y < x.loc ∨ x.loc + x.len ≤ y) → readByte t y = readByte s y) ∧
      tagAt (coreOf t c) q tag = .busy { x with served := true, got := x.len, msg := none, gone := false } := by
  obtain ⟨t, out, crossed⟩ := flumeOut_of_powered c.isLt powered x.sn x.len x.write
  let stored := storeBytes (countSnow t 0 x.sn x.len) x.loc (readBytes t (snowAddr x.sn) x.len)
  have move : flumeMove t c x [] = (stored, .ok none) :=
    flumeMove_of_read read ((snowRoute_of_crossed crossed ..).trans served) (by rw [crossed.1]; exact clean) (by rw [crossed.1]; exact snowClean)
  have counted : AllPowered stored := fun r hr => by
    rw [vddnOn_storeBytes, countSnow_same]
    exact crossed.powered powered r hr
  obtain ⟨u, back, returned⟩ := flumeBack_of_powered c.isLt counted x.sn x.len x.write (!x.write)
  have run : exec (.snowpackAccess c q tag []) s = .next (servedTag u c q tag x none false) := by
    rw [exec_snowpackAccess_of_free busy free (by simp [apertureFull, read, served]), out]
    simp only [move, answerFlume, back]
  have mem : (servedTag u c q tag x none false).mem = Memory.put s.mem x.loc (readBytes t (snowAddr x.sn) x.len) := by
    rw [servedTag, updCore_mem, returned.1, storeBytes_mem, countSnow_same, crossed.1]
  obtain ⟨bytes, others⟩ := readByte_of_put mem
  rw [show (readBytes t (snowAddr x.sn) x.len).length = x.len by simp [readBytes]] at bytes others
  refine .of_eq run ⟨fun i hi => (bytes i hi).trans ?_, others, ?_⟩
  · rw [crossed.1]
    simp [readBytes, hi, readByte]
  · rw [servedTag, coreOf_updCore_same, tagAt, Tbl.get_set_same]

end

/-! ## FLUME_COMPLETE and FLUME_TIMEOUT (06 R226-R228) -/

/-- What the completion of a transfer makes of its core (R226). -/
def flumeDoneCore (q tag : Nat) (x : FlumeT) (k : Core) : Core :=
  dropOp (signalDone { k with flume := Tbl.set .idle k.flume (tagIx q tag) .done } x.evEn x.ev false 0) x.seq

theorem flumeDoneCore_same (q tag : Nat) (x : FlumeT) (k : Core) : flumeDoneCore q tag x k =
    { k with flume := Tbl.set .idle k.flume (tagIx q tag) .done, scc := (signalDone k x.evEn x.ev false 0).scc
             ops := k.ops.filter fun o => o.seq ≠ x.seq } := by
  have control := scc_signalDone_congr (k := k) (l := { k with flume := Tbl.set .idle k.flume (tagIx q tag) .done }) rfl x.evEn x.ev false 0
  rw [flumeDoneCore, dropOp, signalDone_same, control]

section
variable {s : State} {c : CoreId} (q : Fin 8) (tag : Fin 16) (x : FlumeT)

theorem flumeDone_of_idle (sends : (coreOf s c).sends = []) (arms : (coreOf s c).arms = []) :
    SameCores (updCore s c (flumeDoneCore q tag x)) (flumeDone s c q tag x) :=
  sameCores_settle (by rw [coreOf_updCore_same, flumeDoneCore_same, arms]) (by rw [coreOf_updCore_same, flumeDoneCore_same, sends])

variable {q tag x}

theorem exec_flumeComplete_of_busy (busy : tagAt (coreOf s c) q tag = .busy x) : exec (.flumeComplete c q tag) s =
    .next (if x.served && !x.gone && flumeSent s x then flumeDone s c q tag x else s) :=
  congrArg Host.Outcome.next (by simp only [busy])

theorem next_flumeComplete (busy : tagAt (coreOf s c) q tag = .busy x) (sends : (coreOf s c).sends = []) (arms : (coreOf s c).arms = [])
    (served : x.served = true) (back : x.gone = false) (sent : flumeSent s x = true) :
    Next (exec (.flumeComplete c q tag) s) fun t => OnlyCore c s t ∧ tagAt (coreOf t c) q tag = .done ∧
      (coreOf t c).scc = (signalDone (coreOf s c) x.evEn x.ev false 0).scc := by
  have same := flumeDone_of_idle q tag x sends arms
  refine .of_eq ((exec_flumeComplete_of_busy busy).trans (congrArg _ (if_pos (by simp [served, back, sent])))) ⟨?_, ?_, ?_⟩
  · exact (OnlyCore.updCore ..).sameCores same
  · rw [same.2, coreOf_updCore_same, flumeDoneCore_same, tagAt, Tbl.get_set_same]
  · rw [same.2, coreOf_updCore_same, flumeDoneCore_same]

/-- A completion in the cycle of the time-out is taken, and counted. -/
theorem next_flumeTimeout_completed (busy : tagAt (coreOf s c) q tag = .busy x) (sends : (coreOf s c).sends = [])
    (arms : (coreOf s c).arms = []) (served : x.served = true) (back : x.gone = false) (msg : x.msg = none) :
    Next (exec (.flumeTimeout c q tag true) s) fun t =>
      OnlyCore c (advanceTo s (x.issued + 256 * x.tmo)) t ∧ tagAt (coreOf t c) q tag = .done := by
  let late := advanceTo s (x.issued + 256 * x.tmo)
  have same := flumeDone_of_idle (s := late) q tag x (by rw [sends_advanceTo, sends]) (by rw [arms_advanceTo, arms])
  have run : exec (.flumeTimeout c q tag true) s = .next (updCore (flumeDone late c q tag x) c fun k => slackUp k .grace 1) :=
    congrArg Host.Outcome.next (by
      simp only [busy]
      exact if_pos (by simp [served, back, flumeSent, msg]))
  refine .of_eq run ⟨((OnlyCore.updCore ..).sameCores same).trans (.updCore ..), ?_⟩
  rw [coreOf_updCore_same, same.2, coreOf_updCore_same, flumeDoneCore_same]
  exact Tbl.get_set_same ..

/-- An abandoned read fails, with the Snowpack form of its address (R229). -/
theorem exec_flumeTimeout_read (busy : tagAt (coreOf s c) q tag = .busy x) (read : x.write = false) (msg : x.msg = none) :
    exec (.flumeTimeout c q tag false) s = .next (failUnit (advanceTo s (x.issued + 256 * x.tmo)) c 9 0 x.pc
      { code := .timeout, addr := some (snowAddr x.sn) }) :=
  congrArg Host.Outcome.next (by
    simp only [busy, read, msg, Bool.false_and, Bool.false_eq_true, if_false]
    rfl)

end

theorem flumeTransfersHolds : FlumeTransfersHolds := by
  intro s c q tag x busy fails late free powered
  refine ⟨fun ups code waits on refused => exec_snowpackAccess_of_refused busy waits on refused ups,
    fun ups u code waits room out => exec_snowpackAccess_of_discarded busy waits room ups out,
    fun waits on read served clean snowClean => next_snowpackAccess_read busy waits on read served clean snowClean,
    fun sends arms served back sent => ⟨next_flumeComplete busy sends arms served back sent, fun msg =>
      next_flumeTimeout_completed busy sends arms served back msg⟩, fun unready => ?_, fun read msg => exec_flumeTimeout_read busy read msg⟩
  refine (exec_flumeComplete_of_busy busy).trans (congrArg _ (if_neg ?_))
  obtain unserved | gone | unsent := unready
  · simp [unserved]
  · simp [gone]
  · simp [unsent]

/-- Settles O26: the instructions by their checks and lengths, the transfers by what the controllers answer. -/
theorem flume : Obligations.Flume := ⟨flumeInstructionsHolds, flumeTransfersHolds⟩

end Sys2Proof.Machine

namespace Sys2Proof.Machine

/-! ## A core that has failed and waits for nothing stays as it is (06 R75, R221, R222) -/

/-! ### Writing an entry again -/

/-- Index `k` has its entry in its place: writing it again changes nothing. -/
def Tbl.steady {α : Type} [DecidableEq α] (d : α) (k : Nat) : Tbl α → Prop
  | [] => True
  | (i, v) :: t => if i < k then Tbl.steady d k t else if i = k then v ≠ d else ∀ p ∈ t, p.1 ≠ k

section
variable {α : Type} {d : α} {t : Tbl α} {k : Nat}

theorem Tbl.drop_of_unlisted (h : ∀ p ∈ t, p.1 ≠ k) : Tbl.drop t k = t := by
  rw [Tbl.drop_eq_filter]
  exact List.filter_eq_self.2 fun p mem => decide_eq_true (h p mem)

theorem Tbl.unlisted_of_drop (h : ∀ p ∈ t, p.1 ≠ k) (j : Nat) : ∀ p ∈ Tbl.drop t j, p.1 ≠ k := by
  rw [Tbl.drop_eq_filter]
  exact fun p mem => h p (List.mem_filter.1 mem).1

theorem Tbl.get_of_unlisted (h : ∀ p ∈ t, p.1 ≠ k) : Tbl.get d t k = d := by
  rw [← Tbl.drop_of_unlisted h, Tbl.get_drop_same]

theorem Tbl.unlisted_drop (t : Tbl α) (k : Nat) : ∀ p ∈ Tbl.drop t k, p.1 ≠ k := by
  rw [Tbl.drop_eq_filter]
  exact fun p mem => of_decide_eq_true (List.mem_filter.1 mem).2

end

section
variable {α : Type} [DecidableEq α] {d : α} {k : Nat}

theorem Tbl.steady_of_unlisted {t : Tbl α} (h : ∀ p ∈ t, p.1 ≠ k) : Tbl.steady d k t := by
  induction t with
  | nil => trivial
  | cons p t ih =>
    obtain ⟨i, v⟩ := p
    obtain ⟨head, tail⟩ := List.forall_mem_cons.1 h
    rw [Tbl.steady, if_neg head]
    split
    exacts [ih tail, tail]

/-- A steady entry written again with what it reads as. -/
theorem Tbl.set_get_of_steady {t : Tbl α} (h : Tbl.steady d k t) : Tbl.set d t k (Tbl.get d t k) = t := by
  induction t with
  | nil => exact if_pos rfl
  | cons p t ih =>
    obtain ⟨i, v⟩ := p
    rw [Tbl.steady] at h
    rw [Tbl.set, Tbl.get_cons]
    split at h
    · next below => rw [if_neg (Nat.ne_of_lt below), if_pos below, ih h]
    · next above =>
      rw [if_neg above]
      split at h
      · next here => rw [if_pos here, if_pos here, if_neg h, here]
      · next past => rw [if_neg past, if_neg past, Tbl.get_of_unlisted h, if_pos rfl, Tbl.drop_of_unlisted h]

theorem Tbl.steady_set_same (t : Tbl α) (v : α) : Tbl.steady d k (Tbl.set d t k v) := by
  induction t with
  | nil =>
    rw [Tbl.set]
    split
    · trivial
    · next other => simpa [Tbl.steady] using other
  | cons p t ih =>
    obtain ⟨i, u⟩ := p
    rw [Tbl.set]
    split
    · next below => rwa [Tbl.steady, if_pos below]
    · next above =>
      split
      · next here =>
        split
        · exact Tbl.steady_of_unlisted (Tbl.unlisted_drop _ _)
        · next other => simpa [Tbl.steady] using other
      · next past =>
        split
        · rw [Tbl.steady, if_neg above, if_neg past]
          exact Tbl.unlisted_drop _ _
        · next other => simpa [Tbl.steady] using other

theorem Tbl.unlisted_set {t : Tbl α} {j : Nat} (h : ∀ p ∈ t, p.1 ≠ k) (other : j ≠ k) (v : α) :
    ∀ p ∈ Tbl.set d t j v, p.1 ≠ k := by
  induction t with
  | nil =>
    rw [Tbl.set]
    split <;> simp [other]
  | cons p t ih =>
    obtain ⟨i, u⟩ := p
    obtain ⟨head, tail⟩ := List.forall_mem_cons.1 h
    have dropped := Tbl.unlisted_of_drop tail j
    rw [Tbl.set]
    split
    · exact List.forall_mem_cons.2 ⟨head, ih tail⟩
    · split <;> split
      · exact dropped
      · exact List.forall_mem_cons.2 ⟨other, tail⟩
      · exact List.forall_mem_cons.2 ⟨head, dropped⟩
      · exact List.forall_mem_cons.2 ⟨other, h⟩

theorem Tbl.steady_drop {t : Tbl α} (h : Tbl.steady d k t) (j : Nat) : Tbl.steady d k (Tbl.drop t j) := by
  obtain rfl | other := eq_or_ne j k
  · exact Tbl.steady_of_unlisted (Tbl.unlisted_drop _ _)
  induction t with
  | nil => trivial
  | cons p t ih =>
    obtain ⟨i, u⟩ := p
    rw [Tbl.steady] at h
    rw [Tbl.drop]
    split at h
    · next below => split <;> simp only [Tbl.steady, if_pos below, ih h]
    · next above =>
      split at h
      · next here => rwa [if_neg (by omega), Tbl.steady, if_neg above, if_pos here]
      · next past =>
        have rest := Tbl.unlisted_of_drop h j
        split
        · exact Tbl.steady_of_unlisted rest
        · rwa [Tbl.steady, if_neg above, if_neg past]

/-- Writing any entry leaves a steady one steady. -/
theorem Tbl.steady_set {t : Tbl α} (h : Tbl.steady d k t) (j : Nat) (v : α) : Tbl.steady d k (Tbl.set d t j v) := by
  obtain rfl | other := eq_or_ne j k
  · exact Tbl.steady_set_same t v
  induction t with
  | nil => exact Tbl.steady_of_unlisted (Tbl.unlisted_set (by simp) other v)
  | cons p t ih =>
    obtain ⟨i, u⟩ := p
    have dropped := Tbl.steady_drop h j
    have whole := h
    rw [Tbl.steady] at h
    rw [Tbl.drop] at dropped
    rw [Tbl.set]
    split
    · split at h
      · next below => rw [Tbl.steady, if_pos below]; exact ih h
      · next above =>
        rw [Tbl.steady, if_neg above]
        split at h
        · next here => rwa [if_pos here]
        · next past => rw [if_neg past]; exact Tbl.unlisted_set h other v
    · next behind =>
      split
      · next same =>
        rw [if_pos same] at dropped
        split
        · exact dropped
        · subst same
          rw [Tbl.steady]
          split
          · rwa [if_pos ‹_›] at h
          · rwa [if_neg ‹_›, if_neg other] at h
      · next apart =>
        rw [if_neg apart] at dropped
        split
        · exact dropped
        · rw [Tbl.steady]
          split
          · exact whole
          · next above =>
            rw [if_neg (by omega), if_neg (by omega)] at h
            exact List.forall_mem_cons.2 ⟨by omega, h⟩
end

/-! ### What the end of a step does not write (08 R284, R301) -/

@[simp] theorem cores_ite (p : Prop) [Decidable p] (a b : State) : (if p then a else b).cores = if p then a.cores else b.cores :=
  apply_ite ..

@[simp] theorem pfxLost_cores (s : State) (a : Nat) : (pfxLost s a).cores = s.cores := by simp [pfxLost, pfxRec]

@[simp] theorem emitGml_cores (s : State) (x : Session) (type flags : Nat) (seq : BitVec 32) (body : List Byte) :
    (emitGml s x type flags seq body).cores = s.cores := by simp [emitGml, portCount]

@[simp] theorem gmlSend_cores (s : State) (n : BitVec 32) (type flags : Nat) (body : List Byte) :
    (gmlSend s n type flags body).cores = s.cores := by
  unfold gmlSend
  dsimp only
  repeat' split
  all_goals simp

@[simp] theorem flushReq_cores (n : Nat) (s : State) (q : Nat) : (flushReq n s q).cores = s.cores := by
  induction n generalizing s with
  | zero => rfl
  | succ n ih =>
    simp only [flushReq]
    split <;> simp [ih]

@[simp] theorem flush_cores (s : State) (q : Nat) : (flush s q).cores = s.cores := flushReq_cores ..

/-- A list of operations that leave the cores leaves them. -/
theorem cores_foldl {α : Type} {f : State → α → State} (h : ∀ s a, (f s a).cores = s.cores) (l : List α) (s : State) :
    (l.foldl f s).cores = s.cores := by
  induction l generalizing s with
  | nil => rfl
  | cons a l ih => exact (ih _).trans (h s a)

@[simp] theorem pfxRefs_cores (s : State) (m i : Nat) (f : Nat → Nat) : (pfxRefs s m i f).cores = s.cores := by
  unfold pfxRefs writePfx
  dsimp only
  repeat' split
  all_goals simp

@[simp] theorem dropDraft_cores (s : State) (q : Nat) : (dropDraft s q).cores = s.cores := by
  unfold dropDraft
  dsimp only
  split <;> simp

@[simp] theorem dropPages_cores (s : State) (q : Nat) : (dropPages s q).cores = s.cores := by
  rw [dropPages, dropDraft_cores, updReq_cores, updPool_cores]
  exact cores_foldl (fun s _ => pfxRefs_cores s ..) _ s

@[simp] theorem endReq_cores (s : State) (q : Nat) (t : ReqSt) (code : Code) (park : Bool) :
    (endReq s q t code park).cores = s.cores := by
  unfold endReq
  dsimp only
  cases t <;> simp [freeReq, mpdCount]

@[simp] theorem letGo_cores (s : State) (q : Nat) : (letGo s q).cores = s.cores := by simp [letGo]

@[simp] theorem endServing_cores (s : State) (m : Nat) (code : Code) (parked : Bool) :
    (endServing s m code parked).cores = s.cores := by
  rw [endServing, updBatch_cores]
  refine cores_foldl (fun s q => ?_) _ s
  dsimp only
  repeat' split
  all_goals simp

@[simp] theorem draftMillDown_cores (s : State) (d : Nat) : (draftMillDown s d).cores = s.cores := by
  rw [draftMillDown, updBatch_cores]
  refine cores_foldl (fun s m => cores_foldl (fun s q => ?_) _ s) _ s
  split <;> simp

@[simp] theorem servingDown_cores (s : State) (m : Nat) (code : Code) : (servingDown s m code).cores = s.cores := by
  unfold servingDown
  repeat' split
  all_goals simp

/-! ### A failed core -/

/-- Core `c` has no SEND and no RECV, and its entry stands in its place in the table. -/
def Quiet (c : Nat) (s : State) : Prop :=
  Tbl.steady {} c s.cores ∧ (coreOf s c).sends = [] ∧ (coreOf s c).arms = []

theorem Quiet.of_cores {c : Nat} {s t : State} (quiet : Quiet c s) (h : t.cores = s.cores) : Quiet c t := by
  rw [Quiet, coreOf, h]
  exact quiet

/-- A change of a core that gives it no SEND and no RECV. -/
theorem Quiet.updCore {c : Nat} {s : State} (quiet : Quiet c s) (d : Nat) {f : Core → Core}
    (sends : ∀ k, k.sends = [] → (f k).sends = []) (arms : ∀ k, k.arms = [] → (f k).arms = []) : Quiet c (updCore s d f) := by
  obtain ⟨place, unsent, idle⟩ := quiet
  refine ⟨Tbl.steady_set place .., ?_, ?_⟩ <;> rw [coreOf_updCore]
  all_goals split
  · next same => exact sends _ (same ▸ unsent)
  · exact unsent
  · next same => exact arms _ (same ▸ idle)
  · exact idle

theorem Quiet.stopCore {c : Nat} {s : State} (quiet : Quiet c s) (d : Nat) : Quiet c (stopCore s d) :=
  quiet.updCore d (fun _ _ => rfl) fun _ _ => rfl

theorem quiet_stopCore (s : State) (c : Nat) : Quiet c (stopCore s c) :=
  ⟨Tbl.steady_set_same .., by rw [stopCore, coreOf_updCore_same], by rw [stopCore, coreOf_updCore_same]⟩

/-- Completing and arming changes nothing on a quiet core. -/
theorem armAll_of_quiet {c : Nat} {s : State} (quiet : Quiet c s) : armAll s c = s := by
  obtain ⟨place, -, idle⟩ := quiet
  refine List.foldl_fixed' (fun w => ?_) _
  have still : updCore s c (finishRecv w) = s := by
    rw [updCore, Tbl.upd, ← coreOf, finishRecv_of_unarmed idle, coreOf, Tbl.set_get_of_steady place]
  rw [still, armNext_of_unarmed idle]

section
variable {c : Nat} {s : State} (quiet : Quiet c s)
include quiet

theorem Quiet.foldl {α : Type} {f : State → α → State} (h : ∀ s a, Quiet c s → Quiet c (f s a)) (l : List α) : Quiet c (l.foldl f s) := by
  induction l generalizing s with
  | nil => exact quiet
  | cons a l ih => exact ih (h s a quiet)

theorem Quiet.stopOwner (m : Nat) : Quiet c (stopOwner s m) := quiet.foldl (fun _ d quiet => quiet.stopCore d) _

theorem Quiet.giveUpStep (m : Nat) : Quiet c (giveUpStep s m) :=
  (quiet.stopOwner m).foldl
    (fun _ d quiet => quiet.updCore d (f := fun k => { k with residue := false }) (fun _ h => h) fun _ h => h) _

theorem Quiet.restoreCore (d : Nat) : Quiet c (restoreCore s d) := by
  have stopped := quiet.stopCore d
  have returned : Quiet c (returnTokens (Machine.stopCore s d) d) :=
    (stopped.updCore d (f := fun k => { k with acquired := 0 }) (fun _ h => h) fun _ h => h).of_cores (by rw [returnTokens, updRegion_cores])
  exact returned.updCore d (fun _ h => h) fun _ _ => rfl

theorem Quiet.liftFence (m : Nat) : Quiet c (liftFence s m) :=
  (quiet.foldl (fun _ d quiet => quiet.restoreCore d) (coresOf s m)).of_cores (by rw [Machine.liftFence]; simp)

theorem Quiet.endDrain (m : Nat) : Quiet c (endDrain s m) := by
  unfold Machine.endDrain
  extract_lets u v w
  have discarded : Quiet c u := by
    unfold u
    split
    exacts [quiet.giveUpStep m, quiet]
  have ended : Quiet c w := discarded.of_cores (by simp [w, v])
  refine Quiet.of_cores ?_ (refresh_cores _)
  split
  exacts [ended, ended.liftFence m]

theorem Quiet.cutDrain (m : Nat) : Quiet c (cutDrain s m) := by
  rw [Machine.cutDrain]
  split
  exacts [(quiet.stopOwner m).endDrain m, quiet.stopOwner m]

theorem Quiet.enterFailed (m : Nat) (code : Code) : Quiet c (enterFailed s m code) :=
  (quiet.giveUpStep m).of_cores (by simp [Machine.enterFailed])

theorem Quiet.markFailure (m : Nat) (d : Option Nat) (code : Code) : Quiet c (markFailure s m d code) := by
  refine quiet.of_cores ?_
  unfold Machine.markFailure
  dsimp only
  repeat' split
  all_goals simp

theorem Quiet.failOwner (m : Nat) (d : Option Nat) (r : Rec) (lost tier4 : Bool) : Quiet c (failOwner s m d r lost tier4) := by
  unfold Machine.failOwner
  extract_lets k r'
  split
  · exact quiet.of_cores (logRec_cores ..)
  · rename_i f s1 s2 named s3 s4 gone next h
    have marked : Quiet c s2 := (quiet.markFailure m d r'.code).of_cores rfl
    have suspect : Quiet c s3 := by
      unfold s3
      repeat' split
      exacts [marked.updCore _ (fun _ h => h) fun _ h => h, marked, marked]
    have dead : Quiet c s4 := by
      unfold s4
      repeat' split
      exacts [suspect.updCore _ (fun _ h => h) fun _ h => h, suspect, suspect]
    clear_value s2 s3 s4 next
    split
    · exact (marked.of_cores (logRec_cores ..)).cutDrain m
    · cases next with
      | failed => exact (dead.of_cores (logRec_cores ..)).enterFailed m _
      | restart t =>
        dsimp only
        refine Quiet.of_cores ((dead.of_cores ?_).stopOwner m) (by rw [refresh_cores, updMill_cores])
        split <;> simp
end

theorem quiet_failUnit (s : State) (c u op pc : Nat) (f : Fail) : Quiet c (failUnit s c u op pc f) := by
  rw [failUnit, failCore]
  split
  · exact (quiet_stopCore ..).of_cores (logRec_cores ..)
  · exact (quiet_stopCore ..).failOwner ..

end Sys2Proof.Machine

namespace Sys2Proof.Machine

/-! ## What a SEND rests on (05 R170, R172, 06 R219, R220) -/

/-- A SEND of core `c` finds in `t` what it finds in `s`: the core's handles, memory, and the shapes, links and routes of the fabric. -/
structure SameSource (c : Nat) (s t : State) : Prop where
  handles : (coreOf t c).handles = (coreOf s c).handles
  mem : t.mem = s.mem
  org : ∀ g, (regionOf t g).org = (regionOf s g).org
  routes : ∀ g, (regionOf t g).race.routes = (regionOf s g).race.routes
  moraine : t.moraine = s.moraine
  reloads : t.race.reloads = s.race.reloads

theorem SameSource.trans {c : Nat} {s t u : State} (h : SameSource c s t) (k : SameSource c t u) : SameSource c s u where
  handles := k.handles.trans h.handles
  mem := k.mem.trans h.mem
  org g := (k.org g).trans (h.org g)
  routes g := (k.routes g).trans (h.routes g)
  moraine := k.moraine.trans h.moraine
  reloads := k.reloads.trans h.reloads

/-- A change of one core that leaves its handles. -/
theorem SameSource.updCore (s : State) (c : Nat) {f : Core → Core} (handles : ∀ k, (f k).handles = k.handles) :
    SameSource c s (updCore s c f) where
  handles := by rw [coreOf_updCore_same, handles]
  mem := rfl
  org _ := rfl
  routes _ := rfl
  moraine := rfl
  reloads := rfl

section
variable {c : Nat} {s t : State} (h : SameSource c s t)
include h

theorem SameSource.handleOf (n : Nat) : handleOf (coreOf t c) n = handleOf (coreOf s c) n := by
  rw [Machine.handleOf, h.handles, Machine.handleOf]

theorem SameSource.placeOf (o : Nat) : placeOf t c o = placeOf s c o := by
  simp only [Machine.placeOf, h.handleOf]

theorem SameSource.readBytes (a n : Nat) : readBytes t a n = readBytes s a n :=
  readBytes_congr fun x _ _ => by rw [readByte, h.mem, readByte]

theorem SameSource.readNum (a n : Nat) : readNum t a n = readNum s a n := by rw [Machine.readNum, h.readBytes, Machine.readNum]

theorem SameSource.checkOperand (x : Operand) : checkOperand t c x = checkOperand s c x := by
  simp only [Machine.checkOperand, h.handleOf, h.placeOf, h.readBytes]

theorem SameSource.operandRange (x : Operand) : operandRange t c x = operandRange s c x := by
  simp only [Machine.operandRange, h.placeOf, h.readBytes]

theorem SameSource.routeOf (r d : Nat) (p : Plane) : routeOf t r d p = routeOf s r d p := routeOf_congr (h.routes r) d p

theorem SameSource.coreExists (n : Nat) : coreExists t n = coreExists s n := by rw [Machine.coreExists, h.org, Machine.coreExists]

theorem SameSource.noWay (w0 w1 : Word) : noWay t c w0 w1 = noWay s c w0 w1 := by
  simp only [Machine.noWay]
  rw [h.coreExists, h.routeOf]

theorem SameSource.checkSend (w0 w1 w3 : Word) : checkSend t c w0 w1 w3 = checkSend s c w0 w1 w3 := by
  simp only [Machine.checkSend, h.checkOperand, h.noWay]

theorem SameSource.heldAtSource (w0 w1 : Word) : heldAtSource t c w0 w1 = heldAtSource s c w0 w1 := by
  rw [Machine.heldAtSource, h.reloads, Machine.heldAtSource]

theorem SameSource.accumBad (w1 : Word) : accumBad t c w1 = accumBad s c w1 := by
  simp only [Machine.accumBad, h.placeOf, h.readNum]

theorem SameSource.listRecords (a n : Nat) : listRecords t a n = listRecords s a n := by
  simp only [Machine.listRecords, h.readNum]

theorem SameSource.sendAccesses (words : List Word) (list : Bool) : sendAccesses t c words list = sendAccesses s c words list := by
  simp only [Machine.sendAccesses, h.placeOf, h.checkOperand, h.readNum, h.listRecords, h.checkSend]

theorem SameSource.aside : aside t = aside s := by
  have dead : linkDead t = linkDead s := by
    funext x y
    simp only [linkDead, h.org, h.moraine]
  funext n m
  cases n with
  | hub _ => rfl
  | router x y => cases m with
    | hub _ => rfl
    | router u v => rw [Machine.aside, dead, h.org, Machine.aside]

theorem SameSource.routeNodes (a b : Nat) (r : Route) : routeNodes t a b r = routeNodes s a b r := by
  simp only [Machine.routeNodes]
  generalize pathOf a b r.mode r.waypoint = ns
  induction ns with
  | nil => rfl
  | cons n rest ih => rw [detoured_cons, h.aside, ih, detoured_cons]

end

/-! ## A SEND that the RIF takes (06 R216, R219, R221) -/

section
variable (s : State) (c : CoreId) (sg : Fin 8) (list : Bool) (ups : List Upset)

/-- The SEND that the words of a group bring. -/
def takenSend : SendSt :=
  let k := coreOf (begun s c 3) c
  let w2 := sendWord k sg 2
  { id := s.ids, seq := k.seq, pc := k.scc.pc, words := groupWords k sg, list := list, ups := ups, ev := bits w2 0 4, evEn := bit w2 4
    cntEn := bit w2 5, cnt := bits w2 6 4 }

/-- A core that has taken SEND `x`. -/
def takeSend (x : SendSt) (k : Core) : Core :=
  { pushOp k (sendHandles x.words x.list).1 (sendHandles x.words x.list).2 [] with sends := k.sends ++ [x] }

/-- The state in which the RIF has taken the SEND. -/
def sendTaken : State := updCore { begun s c 3 with ids := s.ids + 1 } c (takeSend (takenSend s c sg list ups))

/-- What fails a SEND at issue (R219, R220). -/
def sendBad : Option Fail :=
  let w := sendWord (coreOf (begun s c 3) c) sg
  if bits (w 2) 10 54 ≠ 0 then some (.of .format)
  else if list then
    (if hi32 (w 0) = 0 ∧ w 1 = 0 ∧ w 3 = 0 ∧ orfOk (lo32 (w 0)) = true then none else some (.of .format))
  else checkSend (begun s c 3) c (w 0) (w 1) (w 3)

theorem sameSource_begun (k : Nat) : SameSource c s (begun s c k) := .updCore _ _ fun _ => rfl

variable {s c sg list}

theorem execSend_of_takesEffect (now : TakesEffect s c 3 (.send c sg list [])) :
    exec (.send c sg list ups) s = .next (match sendBad s c sg list with
      | some f => failInstr (begun s c 3) c 9 f
      | none => armAll (startSends 9 (sendTaken s c sg list ups) c) c) := by
  have turned : execSend c sg list ups s = _ := turn_of_takesEffect now _
  exact turned
end

section
variable (s : State) (c : CoreId) (sg : Fin 8) (list : Bool) (ups : List Upset)

theorem coreOf_sendTaken : coreOf (sendTaken s c sg list ups) c = takeSend (takenSend s c sg list ups) (coreOf (begun s c 3) c) :=
  coreOf_updCore_same ..

theorem coreOf_sendTaken_other {j : Nat} (other : j ≠ c.val) : coreOf (sendTaken s c sg list ups) j = coreOf s j :=
  (coreOf_updCore_other _ _ _ _ other).trans ((onlyCore_begun s c 3).2 j other)

theorem sameSource_sendTaken : SameSource c s (sendTaken s c sg list ups) := by
  have taken := SameSource.updCore (begun s c 3) c (f := takeSend (takenSend s c sg list ups)) fun _ => rfl
  exact (sameSource_begun s c 3).trans
    ⟨taken.handles, taken.mem, taken.org, taken.routes, taken.moraine, taken.reloads⟩

end

/-! ### A SEND that starts (06 R220, R221) -/

/-- The only SEND of a core starts where no earlier operation and no route change stands before it. -/
theorem startSends_of_only {s : State} {c : Nat} {x : SendSt} (only : (coreOf s c).sends = [x]) (new : x.started = false)
    (first : ∀ o ∈ (coreOf s c).ops, x.seq ≤ o.seq) (free : ∀ as, sendAccesses s c x.words x.list = .ok as →
      ∀ r ∈ as, sendLen r.2.1 ≠ 0 → heldAtSource s c r.1 r.2.1 = false) (n : Nat) :
    startSends (n + 1) s c = startSends n (beginSend s c x) c := by
  have found : ((coreOf s c).sends.find? fun x => !x.started) = some x := by simp [only, new]
  have ready : ∀ rd wr, mayStart s c x.seq rd wr [] = true := fun rd wr => by
    rw [mayStart, List.all_eq_true]
    exact fun o mem => by simp [first o mem]
  simp only [startSends, found, ready]
  cases accesses : sendAccesses s c x.words x.list with
  | error f => simp
  | ok as =>
    have unheld : (as.any fun r => decide (sendLen r.2.1 ≠ 0) && heldAtSource s c r.1 r.2.1) = false := by
      rw [List.any_eq_false]
      intro r mem
      by_cases len : sendLen r.2.1 = 0
      · simp [len]
      · simp [free as accesses r mem len]
    simp only [unheld, Bool.not_true, Bool.or_self, Bool.false_eq_true, if_false]

/-- The accesses of a SEND that carry bytes. -/
def liveAccesses (as : List (Word × Word × Word)) : List (Word × Word × Word) := as.filter fun r => decide (sendLen r.2.1 ≠ 0)

/-- What the RIF reads for the accesses of a SEND: its list and its sources. -/
def sentRanges (s : State) (c : Nat) (x : SendSt) (as : List (Word × Word × Word)) : Ranges :=
  listRange s c x.words x.list ++ (as.filter fun r => sendKind r.2.1 ≠ 2).map fun r => operandRange s c (sendOperand r.2.1 r.2.2)

/-- A core whose SEND `x` has started with accesses `as`. -/
def startedCore (x : SendSt) (as : List (Word × Word × Word)) (slot : Nat) (k : Core) : Core :=
  if (liveAccesses as).isEmpty then
    dropOp (signalDone { k with sends := k.sends.filter fun y => y.id ≠ x.id } x.evEn x.ev x.cntEn x.cnt) x.seq
  else
    let k := if as.any fun r => decide (sendKind r.2.1 = 2) then k
      else releaseOp k x.seq (((as.filter fun r => sendKind r.2.1 ≠ 2).map fun r => orfHandle (lo32 r.2.1))
        ++ if x.list then [orfHandle (lo32 (x.words.getD 0 0))] else [])
    { k with sends := k.sends.map fun y =>
      if y.id = x.id then { y with started := true, slot := slot, left := (liveAccesses as).length } else y }

section
variable {s : State} {c : Nat} {x : SendSt}

theorem beginSend_of_error {f : Fail} (bad : sendAccesses s c x.words x.list = .error f) : beginSend s c x = failUnit s c 9 0 x.pc f := by
  rw [beginSend, bad]

theorem beginSend_of_sound {as : List (Word × Word × Word)} (accesses : sendAccesses s c x.words x.list = .ok as)
    (way : ∀ r ∈ liveAccesses as, noWay s c r.1 r.2.1 = none) (reads : meetReads s (sentRanges s c x as) x.ups = (s, none))
    (sums : ∀ r ∈ as, accumBad s c r.2.1 = none) : beginSend s c x =
      let slot := freeSend (coreOf s c)
      updCore ((liveAccesses as).foldl (injectAccess c x.id slot) s) c (startedCore x as slot) := by
  have go : ((liveAccesses as).findSome? fun r => noWay s c r.1 r.2.1) = none := List.findSome?_eq_none_iff.2 way
  have sound : (as.findSome? fun r => accumBad s c r.2.1) = none := List.findSome?_eq_none_iff.2 sums
  rw [liveAccesses] at go
  rw [sentRanges] at reads
  simp only [beginSend, accesses, go, reads, sound]
  rfl

end

end Sys2Proof.Machine

namespace Sys2Proof.Machine

/-! ## The packets of an access (05 R170, R175, R176) -/

/-- The packet of the access of header `h` that carries `pay` from offset `off` on. -/
def chunk (h : Packet) (off id : Nat) (last : Bool) (pay : List Byte) : Packet :=
  { h with id := id, payload := pay, first := decide (off = 0), last := last, dest := h.dest + off
           length := if off = 0 then h.length else pay.length }

/-- `ps` carry the bytes `bs` from offset `off` of the access of header `h` on, 512 in every packet but the last. -/
def Chunks (h : Packet) (off : Nat) (bs : List Byte) (ps : List Packet) : Prop :=
  (ps.map (·.payload)).flatten = bs ∧ ps.length = max 1 ((bs.length + 511) / 512) ∧
  ∀ i p, ps[i]? = some p → p = chunk h (off + 512 * i) p.id (decide (i + 1 = ps.length)) p.payload ∧
    (i + 1 < ps.length → p.payload.length = 512)

/-- `t` is `s` with `ps` on their way. -/
def Sent (s : State) (ps : List Packet) (t : State) : Prop :=
  t = { s with ids := t.ids, race := { s.race with packets := s.race.packets ++ ps } }

theorem sent_addPacket (s : State) (p : Packet) : Sent s [{ p with id := s.ids }] (addPacket s p) := rfl

theorem Sent.append {s t u : State} {ps qs : List Packet} (h : Sent s ps t) (k : Sent t qs u) : Sent s (ps ++ qs) u := by
  rw [Sent] at h k ⊢
  rw [k, h, List.append_assoc]

/-- One packet carries up to 512 bytes. -/
theorem chunks_single {bs : List Byte} (short : bs.length ≤ 512) (h : Packet) (off id : Nat) : Chunks h off bs [chunk h off id true bs] := by
  refine ⟨by simp [chunk], by simp only [List.length_singleton]; omega, fun i p at_i => ?_⟩
  obtain ⟨rfl, rfl⟩ : i = 0 ∧ chunk h off id true bs = p := by
    cases i with
    | zero => simpa using at_i
    | succ i => simp at at_i
  simp [chunk]

/-- A full packet goes before the others. -/
theorem Chunks.cons {h : Packet} {off : Nat} {bs : List Byte} {ps : List Packet} (more : 512 < bs.length)
    (rest : Chunks h (off + 512) (bs.drop 512) ps) (id : Nat) : Chunks h off bs (chunk h off id false (bs.take 512) :: ps) := by
  obtain ⟨bytes, count, each⟩ := rest
  rw [List.length_drop] at count
  refine ⟨by simp [chunk, bytes], by rw [List.length_cons, count]; omega, fun i p at_i => ?_⟩
  cases i with
  | zero =>
    obtain rfl : chunk h off id false (bs.take 512) = p := by simpa using at_i
    refine ⟨?_, fun _ => by simp only [chunk, List.length_take]; omega⟩
    rw [show decide (0 + 1 = (chunk h off id false (bs.take 512) :: ps).length) = false from
      decide_eq_false (by rw [List.length_cons, count]; omega)]
    rfl
  | succ i =>
    obtain ⟨shape, full⟩ := each i p (by simpa using at_i)
    rw [List.length_cons, show off + 512 * (i + 1) = off + 512 + 512 * i by omega]
    exact ⟨by simpa using shape, fun below => full (by omega)⟩

theorem exists_sent_writePackets (n : Nat) (s : State) (h : Packet) (off : Nat) (bs : List Byte) (enough : bs.length < 512 * n) :
    ∃ ps, Sent s ps (writePackets n s h off bs) ∧ Chunks h off bs ps := by
  induction n generalizing s off bs with
  | zero => omega
  | succ n ih =>
    have step : writePackets (n + 1) s h off bs =
        let t := addPacket s (chunk h off h.id (decide (bs.length ≤ 512)) (bs.take 512))
        if bs.length ≤ 512 then t else writePackets n t h (off + 512) (bs.drop 512) := by simp [writePackets, chunk]
    rw [step]
    by_cases short : bs.length ≤ 512
    · simp only [short, decide_true, if_true, List.take_of_length_le short]
      exact ⟨_, sent_addPacket .., chunks_single short h off s.ids⟩
    · simp only [short, decide_false, if_false]
      obtain ⟨ps, sent, chunks⟩ := ih (addPacket s (chunk h off h.id false (bs.take 512))) (off + 512) (bs.drop 512)
        (by rw [List.length_drop]; omega)
      exact ⟨_, (sent_addPacket ..).append sent, chunks.cons (by omega) s.ids⟩

/-! ## An access that leaves its core (05 R170, R175, R179) -/

/-- KIND of the packets of an access (R175). -/
def kindSent (w1 : Word) : Kind := if sendKind w1 = 0 then .write else if sendKind w1 = 1 then .accum else .readReq

/-- The bytes that an access of core `c` carries: none for a READ. -/
def bytesSent (s : State) (c : Nat) (w1 : Word) : List Byte :=
  if kindSent w1 = .readReq then [] else readBytes s (placeOf s c (lo32 w1)).addr (sendLen w1)

/-- The header of the first packet of an access. -/
def headerSent (s : State) (c : Nat) (w0 w1 : Word) : Packet :=
  let d := sendDest w0
  let rt := routeOf s (c / 256) (fld d 42 6) (sendPlane w1)
  { id := 0, acc := s.ids, plane := sendPlane w1, kind := kindSent w1, src := .core c, dst := .core (fld d 34 14), dest := d
    win := bits w0 52 4, epoch := bits w0 56 8, mode := rt.mode, waypoint := rt.waypoint, length := sendLen w1
    path := routeNodes s c (fld d 34 14) rt }

/-- The access as it is outstanding at its core. -/
def accessSent (s : State) (c id slot : Nat) (w : Word × Word × Word) : Access :=
  { id := s.ids, src := .core c, send := id, slot := slot, kind := kindSent w.2.1, plane := sendPlane w.2.1, dest := sendDest w.1
    len := sendLen w.2.1, loc := (placeOf s c (lo32 w.2.2)).addr, via := sortNat ((headerSent s c w.1 w.2.1).path.map Node.region)
    due := s.glb.time + 4 * raceTimeout s (c / 256) }

/-- The state in which the access is outstanding and counted, and none of its packets has left. -/
def accessCounted (s : State) (c id slot : Nat) (w : Word × Word × Word) : State :=
  raceCount { s with ids := s.ids + 1, race := { s.race with accesses := s.race.accesses ++ [accessSent s c id slot w] } } (c / 256)
    (sendPlane w.2.1) fun x => { x with inj := bump x.inj }

theorem injectAccess_of_empty {w : Word × Word × Word} (bare : sendLen w.2.1 = 0) (c id slot : Nat) (s : State) :
    injectAccess c id slot s w = s := if_pos bare

theorem injectAccess_of_bytes {w : Word × Word × Word} (carries : sendLen w.2.1 ≠ 0) (c id slot : Nat) (s : State) :
    injectAccess c id slot s w =
      let t := accessCounted s c id slot w
      let h := headerSent s c w.1 w.2.1
      if kindSent w.2.1 = .readReq then addPacket t h
      else writePackets (sendLen w.2.1 / 512 + 1) t h 0 (readBytes t (placeOf t c (lo32 w.2.1)).addr (sendLen w.2.1)) :=
  if_neg carries

theorem sameSource_accessCounted (s : State) (c id slot : Nat) (w : Word × Word × Word) : SameSource c s (accessCounted s c id slot w) where
  handles := rfl
  mem := rfl
  org := view_updRegion (π := (·.org)) (by intro; rfl) _ _
  routes := view_updRegion (π := (·.race.routes)) (by intro; rfl) _ _
  moraine := rfl
  reloads := rfl

theorem Sent.sameSource {s t : State} {ps : List Packet} (h : Sent s ps t) (c : Nat) : SameSource c s t := by
  rw [h]
  exact ⟨rfl, rfl, fun _ => rfl, fun _ => rfl, rfl, rfl⟩

/-- The packets of an access leave, and nothing else follows. -/
theorem exists_sent_injectAccess {w : Word × Word × Word} (carries : sendLen w.2.1 ≠ 0) (c id slot : Nat) (s : State) :
    ∃ ps, Sent (accessCounted s c id slot w) ps (injectAccess c id slot s w) ∧ Chunks (headerSent s c w.1 w.2.1) 0 (bytesSent s c w.2.1) ps := by
  have same := sameSource_accessCounted s c id slot w
  rw [injectAccess_of_bytes carries, bytesSent]
  dsimp only
  split
  · exact ⟨_, sent_addPacket .., chunks_single (bs := []) (Nat.zero_le _) (headerSent s c w.1 w.2.1) 0 (s.ids + 1)⟩
  · rw [same.placeOf, same.readBytes]
    exact exists_sent_writePackets _ _ _ 0 _ (by simp [readBytes]; omega)

/-- What the packets of a new access are, in the words of R175 and R176. -/
theorem packetsOf_of_chunks {s : State} {c : CoreId} {w0 w1 : Word} {bs : List Byte} {ps : List Packet}
    (chunks : Chunks (headerSent s c w0 w1) 0 bs ps) : PacketsOf s c (kindSent w1) w0 w1 bs ps := by
  obtain ⟨bytes, count, each⟩ := chunks
  refine ⟨bytes, count, fun i p at_i => ?_⟩
  obtain ⟨shape, full⟩ := each i p at_i
  generalize p.id = id, p.payload = pay at shape full ⊢
  subst shape
  refine ⟨rfl, rfl, rfl, rfl, by simp [chunk, headerSent], rfl, rfl, rfl, rfl, rfl, by simp [chunk], rfl, full, ?_⟩
  simp [chunk, headerSent]

theorem SameSource.packetsOf {s t : State} {c : CoreId} (h : SameSource c s t) {kind : Kind} {w0 w1 : Word} {bs : List Byte}
    {ps : List Packet} (sent : PacketsOf t c kind w0 w1 bs ps) : PacketsOf s c kind w0 w1 bs ps := by
  simpa only [PacketsOf, h.routeOf, h.routeNodes] using sent

theorem SameSource.bytesSent {s t : State} {c : Nat} (h : SameSource c s t) (w1 : Word) : bytesSent t c w1 = bytesSent s c w1 := by
  simp only [Machine.bytesSent, h.placeOf, h.readBytes]

/-! ### The accesses of a SEND, one after the other -/

/-- `t` is as `s` but for what leaves core `c`: accesses `as` are outstanding, and `ps` are on their way. -/
structure Departed (c : Nat) (s : State) (as : List Access) (ps : List Packet) (t : State) : Prop where
  source : SameSource c s t
  cores : t.cores = s.cores
  poison : t.poison = s.poison
  accesses : t.race.accesses = s.race.accesses ++ as
  packets : t.race.packets = s.race.packets ++ ps

theorem Departed.refl (c : Nat) (s : State) : Departed c s [] [] s :=
  ⟨⟨rfl, rfl, fun _ => rfl, fun _ => rfl, rfl, rfl⟩, rfl, rfl, (List.append_nil _).symm, (List.append_nil _).symm⟩

theorem Departed.trans {c : Nat} {s t u : State} {as bs : List Access} {ps qs : List Packet} (h : Departed c s as ps t)
    (k : Departed c t bs qs u) : Departed c s (as ++ bs) (ps ++ qs) u where
  source := h.source.trans k.source
  cores := k.cores.trans h.cores
  poison := k.poison.trans h.poison
  accesses := by rw [k.accesses, h.accesses, List.append_assoc]
  packets := by rw [k.packets, h.packets, List.append_assoc]

theorem exists_departed_injectAccess {w : Word × Word × Word} (carries : sendLen w.2.1 ≠ 0) (c id slot : Nat) (s : State) :
    ∃ ps, Departed c s [accessSent s c id slot w] ps (injectAccess c id slot s w) ∧
      Chunks (headerSent s c w.1 w.2.1) 0 (bytesSent s c w.2.1) ps := by
  obtain ⟨ps, sent, chunks⟩ := exists_sent_injectAccess carries c id slot s
  have source := (sameSource_accessCounted s c id slot w).trans (sent.sameSource c)
  rw [Sent] at sent
  exact ⟨ps, ⟨source, by rw [sent]; rfl, by rw [sent]; rfl, by rw [sent]; rfl, by rw [sent]; rfl⟩, chunks⟩

/-- What R180 keeps of an access that its words give. -/
def accessWords (w : Word × Word × Word) : Kind × Plane × Nat × Nat := (kindSent w.2.1, sendPlane w.2.1, sendDest w.1, sendLen w.2.1)

theorem exists_departed_foldl {ws : List (Word × Word × Word)} (carries : ∀ w ∈ ws, sendLen w.2.1 ≠ 0) (c id slot : Nat) (s : State) :
    ∃ as ps, Departed c s as ps (ws.foldl (injectAccess c id slot) s) ∧
      as.map (fun x => (x.kind, x.plane, x.dest, x.len)) = ws.map accessWords := by
  induction ws generalizing s with
  | nil => exact ⟨[], [], .refl c s, rfl⟩
  | cons w ws ih =>
    obtain ⟨here, later⟩ := List.forall_mem_cons.1 carries
    obtain ⟨ps, first, -⟩ := exists_departed_injectAccess here c id slot s
    obtain ⟨as, qs, rest, words⟩ := ih later (injectAccess c id slot s w)
    exact ⟨_, _, first.trans rest, congrArg _ words⟩

end Sys2Proof.Machine

namespace Sys2Proof.Machine

/-! ## SEND on a core that waits for nothing (06 R219-R221) -/

@[simp] theorem getD_groupWords_zero (k : Core) (sg : Fin 8) : (groupWords k sg).getD 0 0 = sendWord k sg 0 := rfl
@[simp] theorem getD_groupWords_one (k : Core) (sg : Fin 8) : (groupWords k sg).getD 1 0 = sendWord k sg 1 := rfl
@[simp] theorem getD_groupWords_three (k : Core) (sg : Fin 8) : (groupWords k sg).getD 3 0 = sendWord k sg 3 := rfl

/-- The core has no SEND, no RECV and no operation under way. -/
def Idle (k : Core) : Prop := k.sends = [] ∧ k.ops = [] ∧ k.arms = []

/-- A started SEND leaves the RECVs as they are. -/
theorem arms_startedCore (x : SendSt) (as : List (Word × Word × Word)) (slot : Nat) (k : Core) : (startedCore x as slot k).arms = k.arms := by
  unfold startedCore
  split
  · rw [dropOp, signalDone_same]
  · split <;> rfl

/-- A core without an earlier SEND, once the SEND it took has completed. -/
theorem startedCore_of_empty {k : Core} (idle : Idle k) {x : SendSt} (seq : x.seq = k.seq) {as : List (Word × Word × Word)}
    (bare : liveAccesses as = []) (slot : Nat) :
    startedCore x as slot (takeSend x k) = { signalDone k x.evEn x.ev x.cntEn x.cnt with seq := k.seq + 1 } := by
  obtain ⟨sends, ops, -⟩ := idle
  have signals := scc_signalDone_congr (k := k) (l := { takeSend x k with sends := [] }) rfl x.evEn x.ev x.cntEn x.cnt
  have gone : (takeSend x k).sends.filter (fun y => y.id ≠ x.id) = [] := by simp [takeSend, sends]
  rw [startedCore, if_pos (by simp [bare]), gone, dropOp, signalDone_same, signals, signalDone_same k]
  simp [takeSend, pushOp, sends, ops, seq]

/-- A core without an earlier SEND, once the accesses of the SEND it took have left. -/
theorem startedCore_of_live {k : Core} (idle : Idle k) (x : SendSt) {as : List (Word × Word × Word)}
    (carries : liveAccesses as ≠ []) (slot : Nat) :
    (startedCore x as slot (takeSend x k)).sends = [{ x with started := true, slot := slot, left := (liveAccesses as).length }] ∧
    (startedCore x as slot (takeSend x k)).scc = k.scc := by
  rw [startedCore, if_neg (by simpa using carries)]
  constructor
  · dsimp only
    split <;> simp [releaseOp, takeSend, pushOp, idle.1]
  · dsimp only
    split <;> rfl

/-- Where every SEND has started and there is no RECV, nothing follows. -/
theorem sameCores_startAndArm {s : State} {c : Nat} (arms : (coreOf s c).arms = []) (started : ∀ x ∈ (coreOf s c).sends, x.started = true)
    (n : Nat) : SameCores s (armAll (startSends n s c) c) := by
  rw [startSends_of_started started]
  exact sameCores_armAll arms

section
variable {s : State} {c : CoreId} {sg : Fin 8} {list : Bool} (now : TakesEffect s c 3 (.send c sg list []))
  (good : sendBad s c sg list = none) (idle : Idle (coreOf (begun s c 3) c))
  (free : ∀ as, sendAccesses s c (groupWords (coreOf (begun s c 3) c) sg) list = .ok as → ∀ r ∈ as, sendLen r.2.1 ≠ 0 →
    heldAtSource s c r.1 r.2.1 = false)
include now good idle free

/-- The SEND that an idle core takes starts at once. -/
theorem exec_send_starts : exec (.send c sg list []) s = .next
    (armAll (startSends 8 (beginSend (sendTaken s c sg list []) c (takenSend s c sg list [])) c) c) := by
  have same := sameSource_sendTaken s c sg list []
  have core := coreOf_sendTaken s c sg list []
  have starts := startSends_of_only (s := sendTaken s c sg list []) (c := c) (x := takenSend s c sg list [])
    (by rw [core, takeSend, idle.1]; rfl) rfl (by rw [core]; simp [takeSend, pushOp, idle.2.1, takenSend])
    (fun as accesses r mem len => by
      rw [same.heldAtSource]
      exact free as (by rw [← accesses, same.sendAccesses]; rfl) r mem len) 8
  rw [execSend_of_takesEffect [] now, good, starts]

/-- A SEND that passes its checks: its accesses leave, and the core has started it. -/
theorem exec_send_of_sound {as : List (Word × Word × Word)}
    (accesses : sendAccesses s c (groupWords (coreOf (begun s c 3) c) sg) list = .ok as)
    (way : ∀ r ∈ liveAccesses as, noWay s c r.1 r.2.1 = none) (sums : ∀ r ∈ as, accumBad s c r.2.1 = none)
    (reads : ∀ t : State, t.poison = s.poison → SameSource c s t →
      meetReads t (sentRanges s c (takenSend s c sg list []) as) [] = (t, none)) : ∃ t slot, exec (.send c sg list []) s = .next t ∧
      SameCores (updCore ((liveAccesses as).foldl (injectAccess c s.ids slot) (sendTaken s c sg list [])) c
        (startedCore (takenSend s c sg list []) as slot)) t := by
  have same := sameSource_sendTaken s c sg list []
  have core := coreOf_sendTaken s c sg list []
  have ranges : sentRanges (sendTaken s c sg list []) c (takenSend s c sg list []) as = sentRanges s c (takenSend s c sg list []) as := by
    simp only [sentRanges, listRange, same.placeOf, same.readNum, same.operandRange]
  have begins := beginSend_of_sound (s := sendTaken s c sg list []) (c := c) (x := takenSend s c sg list []) (as := as)
    (by rw [same.sendAccesses]; exact accesses) (by simpa only [same.noWay] using way)
    (by rw [ranges]; exact reads _ rfl same) (by simpa only [same.accumBad] using sums)
  refine ⟨_, freeSend (coreOf (sendTaken s c sg list []) c), exec_send_starts now good idle free, ?_⟩
  rw [begins]
  generalize freeSend (coreOf (sendTaken s c sg list []) c) = slot
  obtain ⟨bs, ps, gone, -⟩ := exists_departed_foldl (ws := liveAccesses as) (fun w mem => by simpa using (List.mem_filter.1 mem).2) c
    s.ids slot (sendTaken s c sg list [])
  have taken : coreOf ((liveAccesses as).foldl (injectAccess c s.ids slot) (sendTaken s c sg list [])) c =
      takeSend (takenSend s c sg list []) (coreOf (begun s c 3) c) := by rw [coreOf, gone.cores, ← coreOf, core]
  refine sameCores_startAndArm ?_ ?_ 8 <;> rw [coreOf_updCore_same]
  · rw [arms_startedCore]
    exact (congrArg Core.arms taken).trans idle.2.2
  · rw [show coreOf (List.foldl _ _ _) c = _ from taken]
    by_cases bare : liveAccesses as = []
    · rw [startedCore_of_empty idle rfl bare, signalDone_same]
      simp [idle.1]
    · rw [(startedCore_of_live idle _ bare slot).1]
      simp

end

end Sys2Proof.Machine

namespace Sys2Proof.Machine

/-! ## A SEND of one access (06 R219, R221) -/

theorem sendBad_of_reserved {s : State} {c : CoreId} {sg : Fin 8} (reserved : bits (sendWord (coreOf (begun s c 3) c) sg 2) 10 54 = 0) :
    sendBad s c sg false = let w := sendWord (coreOf (begun s c 3) c) sg; checkSend s c (w 0) (w 1) (w 3) := by
  rw [sendBad]
  dsimp only
  rw [if_neg (not_not.2 reserved), if_neg (by decide), (sameSource_begun s c 3).checkSend]

theorem sendAccesses_single (s : State) (c : Nat) (words : List Word) :
    sendAccesses s c words false = .ok [(words.getD 0 0, words.getD 1 0, words.getD 3 0)] := rfl

/-- Reading no byte meets no error. -/
theorem meetReads_of_empty (s : State) {rs : Ranges} (bare : ∀ r ∈ rs, r.2 = 0) : meetReads s rs [] = (s, none) := by
  have clear : (s.poison.find? fun b => touches rs b 64) = none := by
    refine List.find?_eq_none.2 fun b _ => ?_
    rw [touches, List.any_eq_true]
    rintro ⟨r, mem, touched⟩
    have empty := bare r mem
    rw [touch, decide_eq_true_eq] at touched
    omega
  simp only [meetReads, runAll, clear]

theorem operandRange_sendOperand (s : State) (c : Nat) (w1 w3 : Word) : (operandRange s c (sendOperand w1 w3)).2 = sendLen w1 := by
  unfold sendOperand
  split <;> rfl

theorem accumBad_of_empty (s : State) (c : Nat) {w1 : Word} (bare : sendLen w1 = 0) : accumBad s c w1 = none := by
  rw [accumBad]
  split <;> simp [bare]

theorem noWay_of_checkSend {s : State} {c : Nat} {w0 w1 w3 : Word} (carries : sendLen w1 ≠ 0) (good : checkSend s c w0 w1 w3 = none) :
    noWay s c w0 w1 = none := by
  rw [checkSend] at good
  obtain ⟨formed, good⟩ := ite_eq_iff'.1 good
  obtain ⟨short, good⟩ := ite_eq_iff'.1 (good fun bad => nomatch formed bad)
  have rest := good fun long => nomatch short long
  rw [if_neg carries] at rest
  split at rest
  · nomatch rest
  · exact rest

theorem sendAtIssueHolds : SendAtIssueHolds := by
  intro s c sg k w
  refine ⟨fun list => ?_, fun now reserved => ⟨fun sends ops arms empty good => ?_, fun f ups bad => ?_⟩⟩
  · rw [show k.sends = (coreOf s c).sends by rw [show k = _ from coreOf_begun s c 3]]
    rfl
  · have bare : liveAccesses [(w 0, w 1, w 3)] = [] := by simp [liveAccesses, empty]
    obtain ⟨t, slot, run, same⟩ := exec_send_of_sound now ((sendBad_of_reserved reserved).trans good) ⟨sends, ops, arms⟩
      (as := [(w 0, w 1, w 3)])
      (by
        rintro as ⟨⟩ r mem carries
        obtain rfl := List.mem_singleton.1 mem
        exact absurd empty carries) rfl (by simp [bare])
      (by simpa using accumBad_of_empty s c empty)
      (fun t _ _ => meetReads_of_empty t (by
        intro r mem
        obtain ⟨x, listed, rfl⟩ := List.mem_map.1 (show r ∈ List.map _ _ from mem)
        obtain rfl := List.mem_singleton.1 (List.mem_filter.1 listed).1
        rw [operandRange_sendOperand]
        exact empty))
    rw [bare] at same
    refine ⟨t, run, by rw [same.1]; rfl, fun j other => ?_, ?_⟩
    · rw [same.2, coreOf_updCore_other _ _ _ _ other]
      exact coreOf_sendTaken_other s c sg false [] other
    · rw [same.2, coreOf_updCore_same]
      exact (congrArg _ (coreOf_sendTaken s c sg false [])).trans (startedCore_of_empty ⟨sends, ops, arms⟩ rfl bare slot)
  · exact (execSend_of_takesEffect ups now).trans (by rw [sendBad_of_reserved reserved, show checkSend s c _ _ _ = some f from bad])

/-- An access of core `c` that the checks pass leaves at once where nothing stands before it. -/
theorem sendAccessesHolds : SendAccessesHolds := by
  intro s c sg k w kind bs now reserved carries good free sums clean sends ops arms
  have idle : Idle k := ⟨sends, ops, arms⟩
  have live : liveAccesses [(w 0, w 1, w 3)] = [(w 0, w 1, w 3)] := by simp [liveAccesses, carries]
  obtain ⟨t, slot, run, same⟩ := exec_send_of_sound now ((sendBad_of_reserved reserved).trans good) idle
    (as := [(w 0, w 1, w 3)])
    (by
      rintro as ⟨⟩ r mem -
      obtain rfl := List.mem_singleton.1 mem
      exact free) rfl (by simpa [live] using noWay_of_checkSend carries good) (by simpa using sums)
    (fun t poison _ => meetReads_of_clean (poison.trans clean) _)
  let v := sendTaken s c sg false []
  have source := sameSource_sendTaken s c sg false []
  obtain ⟨ps, gone, chunks⟩ := exists_departed_injectAccess (w := (w 0, w 1, w 3)) carries c s.ids slot v
  have core : coreOf t c = startedCore (takenSend s c sg false []) [(w 0, w 1, w 3)] slot (takeSend (takenSend s c sg false []) k) := by
    rw [same.2, coreOf_updCore_same, live, List.foldl_cons, List.foldl_nil, coreOf, gone.cores]
    exact congrArg _ (coreOf_sendTaken s c sg false [])
  obtain ⟨started, scc⟩ := startedCore_of_live idle (takenSend s c sg false []) (as := [(w 0, w 1, w 3)]) (by simp [live]) slot
  have race : t.race = (injectAccess c s.ids slot v (w 0, w 1, w 3)).race := by rw [same.race, live]; rfl
  refine ⟨t, run, ?_, fun j other => ?_, by rw [core, scc], ⟨ps, ?_, ?_⟩,
    ⟨accessSent v c s.ids slot (w 0, w 1, w 3), _, ?_, rfl, rfl, rfl, rfl, rfl, ?_, rfl, by rw [core, started], rfl, rfl, by simp [live]⟩⟩
  · rw [same.mem, live]
    exact gone.source.mem.trans source.mem
  · rw [same.2, coreOf_updCore_other _ _ _ _ other, live, List.foldl_cons, List.foldl_nil, coreOf, gone.cores]
    exact coreOf_sendTaken_other s c sg false [] other
  · rw [race, gone.packets]
    rfl
  · rw [source.bytesSent] at chunks
    exact source.packetsOf (packetsOf_of_chunks chunks)
  · rw [race, gone.accesses]
    rfl
  · exact congrArg Place.addr (source.placeOf _)

end Sys2Proof.Machine

namespace Sys2Proof.Machine

/-! ## A SEND with a list (06 R220) -/

/-- The record of a send list at a place: its W0, W1 and W3. -/
def listRecord (s : State) (a i : Nat) : Word × Word × Word := (recordWord s a i 0, recordWord s a i 1, recordWord s a i 3)

/-- The record is a WRITE or an ACCUM, and its W2 is 0 (R220). -/
def RecordSound (s : State) (a i : Nat) : Prop := recordWord s a i 2 = 0 ∧ sendKind (recordWord s a i 1) ≤ 1

theorem listRecords_eq (s : State) (a n : Nat) : listRecords s a n = (List.range n).map (listRecord s a) := rfl

theorem leNat_lt (bs : List Byte) : leNat bs < 256 ^ bs.length := by
  induction bs with
  | nil => exact Nat.one_pos
  | cons b bs ih =>
    have digit := b.isLt
    rw [leNat, List.length_cons, pow_succ']
    omega

theorem readNum_lt (s : State) (a n : Nat) : readNum s a n < 256 ^ n := by
  simpa [readNum, readBytes] using leNat_lt (readBytes s a n)

theorem recordWord_two_eq_zero_iff (s : State) (a i : Nat) : recordWord s a i 2 = 0 ↔ readNum s (a + 32 + 32 * i) 8 = 0 := by
  have bound := readNum_lt s (a + 32 + 32 * i) 8
  rw [recordWord, show a + 16 + 32 * i + 8 * 2 = a + 32 + 32 * i by omega]
  constructor
  · intro zero
    have := congrArg BitVec.toNat zero
    simp only [BitVec.toNat_ofNat, Nat.mod_eq_of_lt (show readNum s (a + 32 + 32 * i) 8 < 2 ^ 64 from bound)] at this
    exact this
  · intro zero
    rw [zero]
    rfl

/-- The operand of a send list whose first `m` bytes are asked for. -/
def listArea (w0 : Word) (m : Nat) : Operand := plainOp (lo32 w0) [1, 2, 4] (some 9) true false m

/-- What the model asks of every record is what R220 asks. -/
theorem recordsOk_iff (s : State) (a n : Nat) : (((List.range n).all fun i => decide (readNum s (a + 32 + 32 * i) 8 = 0)) &&
    (listRecords s a n).all fun r => decide (sendKind r.2.1 ≤ 1)) = true ↔ ∀ i < n, RecordSound s a i := by
  rw [Bool.and_eq_true, List.all_eq_true, List.all_eq_true, listRecords_eq, List.forall_mem_map]
  refine ⟨fun ⟨zero, kind⟩ i below => ?_, fun sound => ⟨fun i mem => ?_, fun i mem => ?_⟩⟩
  · have mem := List.mem_range.2 below
    exact ⟨(recordWord_two_eq_zero_iff s a i).2 (of_decide_eq_true (zero i mem)), of_decide_eq_true (kind i mem)⟩
  · exact decide_eq_true ((recordWord_two_eq_zero_iff s a i).1 (sound i (List.mem_range.1 mem)).1)
  · exact decide_eq_true (sound i (List.mem_range.1 mem)).2

section
variable {s : State} {c : Nat} {words : List Word} {a n : Nat} (place : (placeOf s c (lo32 (words.getD 0 0))).addr = a)
  (count : readNum s a 4 = n) (header : checkOperand s c (listArea (words.getD 0 0) 16) = none)
include place count header

theorem sendAccesses_of_long (long : 65534 < n) : sendAccesses s c words true = .error { code := .length, addr := some a } := by
  rw [listArea] at header
  simp only [sendAccesses, header, place, count, long, Bool.not_true, Bool.false_eq_true, if_false, if_true]

variable (short : n ≤ 65534) (whole : checkOperand s c (listArea (words.getD 0 0) (16 + 32 * n)) = none)
include short whole

theorem sendAccesses_of_unsound (unsound : ∃ i < n, ¬ RecordSound s a i) :
    sendAccesses s c words true = .error { code := .format, addr := some a } := by
  have bad := mt (recordsOk_iff s a n).1 (by simpa using unsound)
  rw [listArea] at header whole
  simp only [sendAccesses, header, place, count, whole, Nat.not_lt.2 short, Bool.not_true, Bool.false_eq_true, if_false,
    Bool.eq_false_iff.2 bad, Bool.not_false, if_true]

theorem sendAccesses_of_records (sound : ∀ i < n, RecordSound s a i)
    (good : ∀ i < n, checkSend s c (recordWord s a i 0) (recordWord s a i 1) (recordWord s a i 3) = none) :
    sendAccesses s c words true = .ok ((List.range n).map (listRecord s a)) := by
  have ok := (recordsOk_iff s a n).2 sound
  have passes : ((listRecords s a n).findSome? fun r => checkSend s c r.1 r.2.1 r.2.2) = none := by
    simpa [listRecords_eq, listRecord] using good
  rw [listArea] at header whole
  simp only [sendAccesses, header, place, count, whole, Nat.not_lt.2 short, Bool.not_true, Bool.false_eq_true, if_false, ok, passes]
  rfl

end

/-- A list that fails a check fails the SEND in the RIF, and the core stays as the failure leaves it. -/
theorem exec_send_of_error {s : State} {c : CoreId} {sg : Fin 8} {list : Bool} (now : TakesEffect s c 3 (.send c sg list []))
    (good : sendBad s c sg list = none) (idle : Idle (coreOf (begun s c 3) c)) {f : Fail}
    (bad : sendAccesses s c (groupWords (coreOf (begun s c 3) c) sg) list = .error f) : exec (.send c sg list []) s =
      .next (failUnit (sendTaken s c sg list []) c 9 0 (coreOf (begun s c 3) c).scc.pc f) := by
  have same := sameSource_sendTaken s c sg list []
  have starts := exec_send_starts now good idle fun as accesses => by rw [bad] at accesses; nomatch accesses
  have fails : beginSend (sendTaken s c sg list []) c (takenSend s c sg list []) = _ :=
    beginSend_of_error (by rw [same.sendAccesses]; exact bad)
  have quiet := quiet_failUnit (sendTaken s c sg list []) c 9 0 (takenSend s c sg list []).pc f
  rw [starts, fails, startSends_of_none quiet.2.1, armAll_of_quiet quiet]
  rfl

theorem sendBad_of_list {s : State} {c : CoreId} {sg : Fin 8} (reserved : bits (sendWord (coreOf (begun s c 3) c) sg 2) 10 54 = 0) :
    sendBad s c sg true = let w := sendWord (coreOf (begun s c 3) c) sg
      if hi32 (w 0) = 0 ∧ w 1 = 0 ∧ w 3 = 0 ∧ orfOk (lo32 (w 0)) = true then none else some { code := .format } := by
  rw [sendBad]
  dsimp only
  rw [if_neg (not_not.2 reserved), if_pos rfl]
  rfl

theorem accessWords_listRecord {s : State} {a i : Nat} (sound : RecordSound s a i) : accessWords (listRecord s a i) =
    (if sendKind (recordWord s a i 1) = 0 then Kind.write else Kind.accum, sendPlane (recordWord s a i 1), sendDest (recordWord s a i 0),
      sendLen (recordWord s a i 1)) := by
  obtain ⟨-, kind⟩ := sound
  have sent : kindSent (recordWord s a i 1) = if sendKind (recordWord s a i 1) = 0 then Kind.write else Kind.accum := by
    unfold kindSent
    split
    · rfl
    · rw [if_pos (by omega)]
  rw [← sent]
  rfl

/-- The records that carry bytes. -/
def liveRecords (s : State) (a n : Nat) : List Nat := (List.range n).filter fun i => decide (sendLen (recordWord s a i 1) ≠ 0)

theorem liveAccesses_records (s : State) (a n : Nat) :
    liveAccesses ((List.range n).map (listRecord s a)) = (liveRecords s a n).map (listRecord s a) := by
  rw [liveAccesses, List.filter_map]
  rfl

/-- The accesses of a sound list leave in list order; with none that carries bytes the SEND completes. -/
theorem next_send_records {s : State} {c : CoreId} {sg : Fin 8} (now : TakesEffect s c 3 (.send c sg true []))
    (good : sendBad s c sg true = none) (idle : Idle (coreOf (begun s c 3) c)) (clean : s.poison = []) {a n : Nat}
    (accesses : sendAccesses s c (groupWords (coreOf (begun s c 3) c) sg) true = .ok ((List.range n).map (listRecord s a)))
    (way : ∀ i < n, checkSend s c (recordWord s a i 0) (recordWord s a i 1) (recordWord s a i 3) = none)
    (sums : ∀ i < n, accumBad s c (recordWord s a i 1) = none)
    (free : ∀ i < n, heldAtSource s c (recordWord s a i 0) (recordWord s a i 1) = false) :
    let k := coreOf (begun s c 3) c
    let w2 := sendWord k sg 2
    Next (exec (.send c sg true []) s) fun t => t.mem = s.mem ∧ (∀ j, j ≠ c.val → coreOf t j = coreOf s j) ∧
      (∃ as, t.race.accesses = s.race.accesses ++ as ∧
        as.map (fun x => (x.kind, x.plane, x.dest, x.len)) = (liveRecords s a n).map fun i => accessWords (listRecord s a i)) ∧
      (liveRecords s a n = [] → (coreOf t c).sends = [] ∧
        (coreOf t c).scc = (signalDone k (bit w2 4) (bits w2 0 4) (bit w2 5) (bits w2 6 4)).scc) ∧
      (liveRecords s a n ≠ [] → (coreOf t c).scc = k.scc ∧
        (coreOf t c).sends.map (fun x => (x.started, x.left)) = [(true, (liveRecords s a n).length)]) := by
  intro k w2
  let as := (List.range n).map (listRecord s a)
  have lives : liveAccesses as = (liveRecords s a n).map (listRecord s a) := liveAccesses_records s a n
  have live : ∀ i ∈ liveRecords s a n, i < n ∧ sendLen (recordWord s a i 1) ≠ 0 := fun i mem => by simpa [liveRecords] using mem
  have bytes : ∀ w ∈ (liveRecords s a n).map (listRecord s a), sendLen w.2.1 ≠ 0 := List.forall_mem_map.2 fun i mem => (live i mem).2
  obtain ⟨t, slot, run, same⟩ := exec_send_of_sound now good idle (as := as)
    (fun other ok => by
      rw [accesses] at ok
      cases ok
      exact List.forall_mem_map.2 fun i mem _ => free i (List.mem_range.1 mem))
    accesses
    (by
      rw [lives]
      exact List.forall_mem_map.2 fun i mem => noWay_of_checkSend (live i mem).2 (way i (live i mem).1))
    (List.forall_mem_map.2 fun i mem => sums i (List.mem_range.1 mem))
    (fun t poison _ => meetReads_of_clean (poison.trans clean) _)
  rw [lives] at same
  obtain ⟨sent, ps, gone, words⟩ := exists_departed_foldl bytes c s.ids slot (sendTaken s c sg true [])
  have core : coreOf t c = startedCore (takenSend s c sg true []) as slot (takeSend (takenSend s c sg true []) k) := by
    rw [same.2, coreOf_updCore_same, coreOf, gone.cores]
    exact congrArg _ (coreOf_sendTaken s c sg true [])
  refine ⟨t, run, same.mem.trans (gone.source.mem.trans (sameSource_sendTaken s c sg true []).mem), fun j other => ?_,
    ⟨sent, ?_, ?_⟩, fun bare => ?_, fun carries => ?_⟩
  · rw [same.2, coreOf_updCore_other _ _ _ _ other, coreOf, gone.cores]
    exact coreOf_sendTaken_other s c sg true [] other
  · rw [same.race]
    exact gone.accesses
  · rw [words, List.map_map]
    rfl
  · rw [core, startedCore_of_empty idle rfl (by rw [lives, bare]; rfl), signalDone_same]
    exact ⟨idle.1, rfl⟩
  · obtain ⟨started, scc⟩ := startedCore_of_live idle (takenSend s c sg true []) (as := as) (by rw [lives]; simpa using carries) slot
    rw [core, started, lives]
    exact ⟨scc, by simp⟩

theorem sendListsHolds : SendListsHolds := by
  intro s c sg k w a n r whole plain live fails now reserved
  have bad := sendBad_of_list reserved
  refine ⟨fun odd => ?_, fun right sends ops arms header => ?_⟩
  · refine (execSend_of_takesEffect [] now).trans ?_
    rw [bad]
    dsimp only
    rw [if_neg odd]
  have good : sendBad s c sg true = none := bad.trans (if_pos right)
  have idle : Idle k := ⟨sends, ops, arms⟩
  have failing : ∀ code, sendAccesses s c (groupWords k sg) true = .error { code := code, addr := some a } → fails code :=
    fun code error => ⟨sendTaken s c sg true [], rfl, rfl, exec_send_of_error now good idle error⟩
  refine ⟨fun long => failing _ (sendAccesses_of_long rfl rfl header long), fun short room => ⟨fun ⟨i, below, unsound⟩ => ?_,
    fun clean each => ?_⟩⟩
  · refine failing _ (sendAccesses_of_unsound rfl rfl header short room ⟨i, below, ?_⟩)
    rintro ⟨zero, kind⟩
    obtain word | read := unsound
    · exact word zero
    · exact absurd (read.trans kind) (by decide)
  choose zero kind way sums free using each
  have sound : ∀ i < n, RecordSound s a i := fun i below => ⟨zero i below, kind i below⟩
  have accesses := sendAccesses_of_records (words := groupWords k sg) rfl rfl header short room sound way
  obtain ⟨t, run, mem, others, ⟨as, sent, words⟩, empty, carries⟩ := next_send_records now good idle clean accesses way sums free
  refine ⟨t, run, mem, others, ⟨as, sent, words.trans (List.map_congr_left fun i listed => ?_)⟩, empty, carries⟩
  exact accessWords_listRecord (sound i (List.mem_range.1 (List.mem_filter.1 listed).1))

end Sys2Proof.Machine

namespace Sys2Proof.Machine

/-! ## RECV (06 R213, R222, R223) -/

theorem countOk_of_countIs {k : Core} {regv : Bool} {n : BitVec 16} {v : Nat} (count : CountIs k regv n v)
    (fits : regv = false → v < 0xFFFF) : countOk regv 16 n.toNat = true := by
  cases regv
  · obtain rfl : n.toNat = v := by simpa [CountIs] using count
    have small := fits rfl
    simp [countOk]
    omega
  · simp_all [CountIs, countOk]

theorem countValue_of_countIs {k : Core} {regv : Bool} {n : BitVec 16} {v : Nat} (count : CountIs k regv n v) :
    countValue k regv 16 n.toNat = if regv = true ∧ 0xFFFF ≤ v then none else some v := by
  cases regv
  · simp_all [CountIs, countValue]
  · obtain ⟨listed, value⟩ : n.toNat < 32 ∧ (sreg k n.toNat).toNat = v := count
    simp [countValue, Nat.mod_eq_of_lt listed, value]

/-- What RECV does with its count, on the state in which its slot has had its turn. -/
def receive (c : CoreId) (w ev : Fin 16) (evEn : Bool) (v : Nat) (s : State) : State :=
  if v = 0 then updCore s c fun k => signalDone k evEn ev false 0
  else if !(windowOf (coreOf s c) w).opened || alwaysArmed s c w then failInstr s c 9 { code := .state }
  else settle (updCore s c fun k => { pushRecv k w with
    arms := Tbl.upd {} k.arms w fun a => { a with waiting := a.waiting ++ [{ n := v, ev := ev, evEn := evEn, seq := k.seq }] } }) c

section
variable {s : State} {c : CoreId} {w ev : Fin 16} {regv : Bool} {n : BitVec 16} {v : Nat} {evEn : Bool}
  (now : TakesEffect s c 3 (.recv c w ev regv n evEn)) (count : CountIs (coreOf (begun s c 3) c) regv n v)
include now count

theorem exec_recv_of_countIs (fits : regv = false → v < 0xFFFF) : exec (.recv c w ev regv n evEn) s = .next
    (if regv = true ∧ 0xFFFF ≤ v then failInstr (begun s c 3) c 9 { code := .length } else receive c w ev evEn v (begun s c 3)) := by
  have ok := countOk_of_countIs count fits
  have value := countValue_of_countIs count
  have turned : exec (.recv c w ev regv n evEn) s = _ := (if_neg (by simp [ok])).trans (turn_of_takesEffect now _)
  rw [turned, show countValue (coreOf (begun s c (3 : Fin 4)) c) regv 16 n.toNat = _ from value]
  by_cases big : regv = true ∧ 0xFFFF ≤ v
  · rw [if_pos big, if_pos big]
    rfl
  · rw [if_neg big, if_neg big]
    rfl

end

/-! ### The arming of an idle window -/

/-- The arming of window `w` stands: nothing waits for it, or a RECV that has accesses to come is in force. -/
def ArmStands (k : Core) (w : Nat) : Prop :=
  ((armOf k w).cur = none ∧ (armOf k w).waiting = []) ∨ ((armOf k w).cur ≠ none ∧ (armOf k w).left ≠ 0)

theorem finishRecv_of_stands {k : Core} {w : Nat} (stands : ArmStands k w) : finishRecv w k = k := by
  obtain ⟨idle, -⟩ | ⟨armed, left⟩ := stands
  · simp [finishRecv, idle]
  · obtain ⟨r, cur⟩ := Option.ne_none_iff_exists'.1 armed
    simp [finishRecv, cur, left]

theorem armNext_of_stands {s : State} {c w : Nat} (stands : ArmStands (coreOf s c) w) : armNext s c w = s := by
  obtain ⟨idle, bare⟩ | ⟨armed, -⟩ := stands
  · simp [armNext, idle, bare]
  · obtain ⟨r, cur⟩ := Option.ne_none_iff_exists'.1 armed
    simp [armNext, cur]

/-- Completes the RECV in force on window `w` of core `c`, and arms the window for the next. -/
def armWindow (c : Nat) (s : State) (w : Nat) : State := armNext (updCore s c (finishRecv w)) c w

theorem armAll_eq (s : State) (c : Nat) : armAll s c = (List.range 16).foldl (armWindow c) s := rfl

theorem sameCores_armWindows {c : Nat} {ws : List Nat} {s : State} (stand : ∀ w ∈ ws, ArmStands (coreOf s c) w) :
    SameCores s (ws.foldl (armWindow c) s) := by
  induction ws generalizing s with
  | nil => exact .refl s
  | cons w ws ih =>
    obtain ⟨here, rest⟩ := List.forall_mem_cons.1 stand
    have same : SameCores s (updCore s c (finishRecv w)) := sameCores_updCore (finishRecv_of_stands here)
    rw [List.foldl_cons, armWindow, armNext_of_stands (by rwa [same.2])]
    exact same.trans (ih (by rwa [same.2]))

theorem SameCores.onlyCore {s t : State} (h : SameCores s t) (c : Nat) : OnlyCore c s t := ⟨h.1, fun j _ => h.2 j⟩

/-- A core whose window `w` RECV `r` arms. -/
def armFor (w : Nat) (r : RecvReq) (rest : List RecvReq) (k : Core) : Core :=
  { k with arms := Tbl.set {} k.arms w { armOf k w with cur := some r, left := r.n, waiting := rest } }

theorem armOf_armFor (w : Nat) (r : RecvReq) (rest : List RecvReq) (k : Core) (j : Nat) :
    armOf (armFor w r rest k) j = if j = w then { armOf k w with cur := some r, left := r.n, waiting := rest } else armOf k j :=
  Tbl.get_set ..

section
variable {s : State} {c w : Nat} {r : RecvReq} {rest : List RecvReq} (idle : (armOf (coreOf s c) w).cur = none)
  (waits : (armOf (coreOf s c) w).waiting = r :: rest) (first : ∀ o ∈ (coreOf s c).ops, r.seq ≤ o.seq)
include idle waits first

theorem armWindow_arms : OnlyCore c s (armWindow c s w) ∧ coreOf (armWindow c s w) c = armFor w r rest (coreOf s c) := by
  have same : SameCores s (updCore s c (finishRecv w)) := sameCores_updCore (by simp [finishRecv, idle])
  have ready : mayArm (updCore s c (finishRecv w)) c r.seq w = true := by
    rw [mayArm, List.all_eq_true, same.2]
    exact fun o mem => by simp [first o mem]
  have arms : armWindow c s w = updCore (updCore s c (finishRecv w)) c (armFor w r rest) := by
    simp only [armWindow, armNext, same.2, idle, waits, ready, if_true]
    generalize updCore s c (finishRecv w) = t at same
    rw [updCore, updCore, Tbl.upd, Tbl.upd, ← coreOf, same.2]
    rfl
  rw [arms]
  exact ⟨(same.onlyCore c).trans (.updCore ..), by rw [coreOf_updCore_same, same.2]⟩

/-- Of all windows only `w` has a RECV that waits: it is armed for it. -/
theorem settle_arms (window : w < 16) (carries : r.n ≠ 0) (sends : (coreOf s c).sends = [])
    (others : ∀ j, j ≠ w → ArmStands (coreOf s c) j) : OnlyCore c s (settle s c) ∧ coreOf (settle s c) c = armFor w r rest (coreOf s c) := by
  obtain ⟨before, after, split, fresh⟩ := List.eq_append_cons_of_mem (List.mem_range.2 window)
  have same : SameCores s (before.foldl (armWindow c) s) := sameCores_armWindows fun j mem => others j fun h => fresh (h ▸ mem)
  obtain ⟨only, core⟩ := armWindow_arms (s := before.foldl (armWindow c) s) (by rwa [same.2]) (by rwa [same.2]) (by rwa [same.2])
  rw [same.2] at core
  have stand : ∀ j, ArmStands (armFor w r rest (coreOf s c)) j := fun j => by
    rw [ArmStands, armOf_armFor]
    split
    · exact .inr ⟨nofun, carries⟩
    · exact others j ‹_›
  have later := sameCores_armWindows (s := armWindow c (before.foldl (armWindow c) s) w) (c := c) (ws := after)
    fun j _ => by rw [core]; exact stand j
  have first : armAll s c = after.foldl (armWindow c) (armWindow c (before.foldl (armWindow c) s) w) := by
    rw [armAll_eq, split, List.foldl_append, List.foldl_cons]
  have armed : coreOf (armAll s c) c = armFor w r rest (coreOf s c) := by rw [first, later.2, core]
  have again : SameCores (armAll s c) (settle s c) := by
    rw [settle, startSends_of_none (by rw [armed]; exact sends)]
    exact sameCores_armWindows fun j _ => by rw [armed]; exact stand j
  refine ⟨OnlyCore.sameCores ?_ again, by rw [again.2, armed]⟩
  rw [first]
  exact ((same.onlyCore c).trans only).sameCores later

end

/-! ### The statement -/

theorem alwaysArmed_begun (s : State) (c k w : Nat) : alwaysArmed (begun s c k) c w = alwaysArmed s c w :=
  alwaysArmed_congr (s := s) (t := begun s c k) rfl rfl rfl c w

/-- A core that has taken RECV `r` on window `w`. -/
def takeRecv (w : Nat) (r : RecvReq) (k : Core) : Core :=
  { pushRecv k w with arms := Tbl.upd {} k.arms w fun a => { a with waiting := a.waiting ++ [r] } }

theorem receive_of_armable {c : CoreId} {w ev : Fin 16} {evEn : Bool} {v : Nat} {s : State} (carries : v ≠ 0)
    (opened : (windowOf (coreOf s c) w).opened = true) (free : alwaysArmed s c w = false) : receive c w ev evEn v s =
      settle (updCore s c (takeRecv w { n := v, ev := ev, evEn := evEn, seq := (coreOf s c).seq })) c := by
  rw [receive, if_neg carries, if_neg (by simp [opened, free])]
  rfl

/-- On an idle core RECV arms its window, and nothing else follows (R222). -/
theorem settle_takeRecv {s : State} {c w : Nat} (idle : Idle (coreOf s c)) (window : w < 16) {r : RecvReq} (carries : r.n ≠ 0)
    (seq : r.seq = (coreOf s c).seq) : let t := settle (updCore s c (takeRecv w r)) c
    OnlyCore c s t ∧ (coreOf t c).scc = (coreOf s c).scc ∧ armOf (coreOf t c) w = { cur := some r, left := r.n } := by
  obtain ⟨sends, ops, arms⟩ := idle
  have core : coreOf (updCore s c (takeRecv w r)) c = takeRecv w r (coreOf s c) := coreOf_updCore_same ..
  have arm : ∀ j, armOf (takeRecv w r (coreOf s c)) j = if j = w then { waiting := [r] } else {} := fun j => by
    simp [armOf, takeRecv, arms, Tbl.get_upd, Tbl.get_nil]
  have here := (arm w).trans (if_pos rfl)
  obtain ⟨only, armed⟩ := settle_arms (s := updCore s c (takeRecv w r)) (c := c) (w := w) (r := r) (rest := [])
    (by rw [core, here]) (by rw [core, here]) (by rw [core]; simp [takeRecv, pushRecv, ops, seq]) window carries (by rw [core]; exact sends)
    fun j other => by rw [core, ArmStands, arm, if_neg other]; exact .inl ⟨rfl, rfl⟩
  rw [core] at armed
  refine ⟨(OnlyCore.updCore s c (takeRecv w r)).trans only, by rw [armed]; rfl, ?_⟩
  rw [armed, armOf_armFor, if_pos rfl, here]

theorem receiveHolds : ReceiveHolds := by
  intro s c w ev regv n v evEn k i now count
  refine ⟨fun register big => ?_, fun small => ⟨fun bare => ?_, fun carries shut => ?_, fun carries opened free ops sends arms => ?_⟩⟩
  · exact (exec_recv_of_countIs now count (by simp [register])).trans (congrArg _ (if_pos ⟨register, big⟩))
  all_goals
    have run : exec i s = .next (receive c w ev evEn v (begun s c 3)) :=
      (exec_recv_of_countIs now count fun _ => small).trans (congrArg _ (if_neg fun big => absurd big.2 (Nat.not_le.2 small)))
  · rw [receive, if_pos bare] at run
    exact .of_eq run ⟨onlyCore_updCore_begun .., coreOf_updCore_same ..⟩
  · rw [run, receive, if_neg carries, if_pos (by simpa [alwaysArmed_begun, k] using shut)]
  · rw [receive_of_armable carries opened ((alwaysArmed_begun ..).trans free)] at run
    obtain ⟨only, scc, arm⟩ := settle_takeRecv (s := begun s c 3) (r := { n := v, ev := ev, evEn := evEn, seq := k.seq })
      ⟨sends, ops, arms⟩ w.isLt carries rfl
    refine .of_eq run ⟨(onlyCore_begun s c 3).trans only, scc, ?_, ?_, ?_⟩ <;> rw [arm]

/-- Settles O14: a SEND that makes no access, one that makes one, one with a list, and RECV. -/
theorem sendAndRecv : Obligations.SendAndRecv := ⟨sendAtIssueHolds, sendAccessesHolds, sendListsHolds, receiveHolds⟩

end Sys2Proof.Machine

namespace Sys2Proof.Machine

/-! ## Bundles that issue (06 R199, R203, R207, R208) -/

theorem OnlyCore.between {c : Nat} {s t u : State} (toT : OnlyCore c s t) (toU : OnlyCore c s u) : OnlyCore c t u :=
  ⟨toU.1.trans (by rw [toT.1]), fun j other => (toU.2 j other).trans (toT.2 j other).symm⟩

theorem control_of_takesEffect {s : State} {c : CoreId} {i : Instr} (now : TakesEffect s c 0 i) (f : State → State) :
    control s c i f = .next (f (begun s c 0)) := turn_of_takesEffect now f

@[simp] theorem scc_begun (s : State) (c k : Nat) :
    (coreOf (begun s c k) c).scc = { (coreOf s c).scc with done := k :: (coreOf s c).scc.done } := by simp [begun]

@[simp] theorem len_begun (s : State) (c k : Nat) : (coreOf (begun s c k) c).len = (coreOf s c).len := by simp [begun]

/-- Core `c` has had a turn that leaves it these scalars and this return stack; beside them only what the turn notes differs. -/
def Turned (c : Nat) (regs : Tbl Word) (stack : List Nat) (s t : State) : Prop :=
  OnlyCore c s t ∧ coreOf t c = { coreOf s c with
    scc := { (coreOf s c).scc with regs := regs, stack := stack, done := (coreOf t c).scc.done }
    stall := (coreOf t c).stall, detail := (coreOf t c).detail }

theorem turned_begun (s : State) (c k : Nat) : Turned c (coreOf s c).scc.regs (coreOf s c).scc.stack s (begun s c k) :=
  ⟨onlyCore_begun s c k, by simp [begun]⟩

theorem OnlyCore.glb {c : Nat} {s t : State} (only : OnlyCore c s t) : t.glb = s.glb := by rw [only.1]

section
variable {c : Nat} {regs : Tbl Word} {stack : List Nat} {s t : State} (turned : Turned c regs stack s t)
include turned

theorem Turned.pc : (coreOf t c).scc.pc = (coreOf s c).scc.pc := by rw [turned.2]
theorem Turned.len : (coreOf t c).len = (coreOf s c).len := by rw [turned.2]

theorem Turned.issued (n pc : Nat) : Issued c n pc regs stack s (updCore t c (issued t.glb.time n pc)) := by
  obtain ⟨only, core⟩ := turned
  refine ⟨only.trans (.updCore ..), ?_⟩
  rw [coreOf_updCore_same, core, only.glb]
  rfl

theorem Turned.fallThrough (more : MoreFollow s c) : Issued c 1 ((coreOf s c).scc.pc + 1) regs stack s (fallThrough t c) := by
  rw [Machine.fallThrough, if_neg (by rw [turned.pc, turned.len]; exact Nat.not_le.2 more), turned.pc]
  exact turned.issued ..

theorem Turned.branchTo {target : Nat} (inside : target < (coreOf s c).len) (n : Nat) :
    Issued c n target regs stack s (branchTo t c n target) := by
  rw [Machine.branchTo, if_neg (by rw [turned.len]; exact Nat.not_le.2 inside)]
  exact turned.issued ..

end

/-! ### A scalar that is written (R206, R217, R241) -/

/-- Core `k` with scalar `rd` written, its result there from core cycle `t` on. -/
def withScalar (rd : Fin 32) (v : Word) (t : Nat) (load : Bool) (k : Core) : Core := setPend (setReg k rd v) rd t load

theorem turned_withScalar (s : State) (c : Nat) (rd : Fin 32) (v : Word) (t : Nat) (load : Bool) :
    Turned c (Tbl.set 0 (coreOf s c).scc.regs rd v) (coreOf s c).scc.stack (updCore s c fun k => setPend k rd t load)
      (updCore (begun s c 0) c (withScalar rd v t load)) := by
  refine ⟨(OnlyCore.updCore ..).between ((onlyCore_begun ..).trans (.updCore ..)), ?_⟩
  rw [coreOf_updCore_same, coreOf_updCore_same]
  simp [withScalar, setPend, setReg, begun]

theorem wroteScalar_fallThrough {s : State} {c : Nat} (more : MoreFollow s c) (rd : Fin 32) (v : Word) (t : Nat) (load : Bool) :
    WroteScalar c rd v (updCore s c fun k => setPend k rd t load) (fallThrough (updCore (begun s c 0) c (withScalar rd v t load)) c) := by
  have turned := turned_withScalar s c rd v t load
  have issues := turned.fallThrough (by rw [MoreFollow, coreOf_updCore_same]; exact more)
  have regs := congrArg (·.scc.regs) issues.2
  refine ⟨?_, fun i => ?_⟩
  · rw [regs, coreOf_updCore_same]
    rw [coreOf_updCore_same] at issues
    exact issues
  · rw [sreg, regs, coreOf_updCore_same]
    exact Tbl.get_set ..

/-- An instruction of the control slot that writes a scalar, when it takes effect and a bundle follows. -/
theorem next_writeScalar {s : State} {c : CoreId} {i : Instr} {rd : Fin 32} {v : State → Word} (more : MoreFollow s c)
    (meaning : exec i s = control s c i fun s => writeScalar s c rd (v s)) (now : TakesEffect s c 0 i) :
    Next (exec i s) (WroteScalar c rd (v (begun s c 0)) (updCore s c fun k => setPend k rd 0 false)) :=
  .of_eq (meaning.trans (control_of_takesEffect now _)) (wroteScalar_fallThrough more rd _ 0 false)

theorem getLsbD_insertField (old v : Word) (lo n : Nat) {i : Nat} (inside : i < 64) :
    (insertField old lo n v).getLsbD i = if lo ≤ i ∧ i < lo + n then v.getLsbD (i - lo) else old.getLsbD i := by
  have mask : (BitVec.ofNat 64 (2 ^ n - 1) <<< lo).getLsbD i = decide (lo ≤ i ∧ i < lo + n) := by
    rw [BitVec.getLsbD_shiftLeft, BitVec.getLsbD_ofNat, Nat.testBit_two_pow_sub_one]
    grind
  simp only [insertField, BitVec.getLsbD_or, BitVec.getLsbD_and, BitVec.getLsbD_not, mask, BitVec.getLsbD_shiftLeft, inside]
  by_cases field : lo ≤ i ∧ i < lo + n
  · simp [field]
  · simp [field]

theorem bits_six (b : Word) : bits b 0 6 = b.toNat % 64 := by simp [bits, fld]

theorem exec_alu_mul (c : CoreId) (rd ra rb : Fin 32) (s : State) : exec (.alu c rd ra rb .mul) s = control s c (.alu c rd ra rb .mul) fun s =>
    fallThrough (updCore s c (withScalar rd (sreg (coreOf s c) ra * sreg (coreOf s c) rb) ((coreOf s c).scc.cycles + 3) false)) c := rfl

theorem exec_alu_of_ne_mul {f : AluFn} (other : f ≠ .mul) (c : CoreId) (rd ra rb : Fin 32) (s : State) :
    exec (.alu c rd ra rb f) s = control s c (.alu c rd ra rb f) fun s =>
      writeScalar s c rd (aluOp f (sreg (coreOf s c) ra) (sreg (coreOf s c) rb)) := by
  simp only [exec, execAlu, if_neg other]

/-- ALU: the result of its function, there for the next bundle but for MUL. -/
theorem next_alu {s : State} {c : CoreId} {f : AluFn} {rd ra rb : Fin 32} (more : MoreFollow s c)
    (now : TakesEffect s c 0 (.alu c rd ra rb f)) :
    Next (exec (.alu c rd ra rb f) s) (WroteScalar c rd (aluOp f (sreg (coreOf s c) ra) (sreg (coreOf s c) rb))
      (updCore s c fun k => setPend k rd (if f = .mul then (coreOf s c).scc.cycles + 3 else 0) false)) := by
  by_cases mul : f = .mul
  · subst mul
    refine .of_eq ((exec_alu_mul ..).trans (control_of_takesEffect now _)) ?_
    simpa [aluOp] using wroteScalar_fallThrough more rd (sreg (coreOf s c) ra * sreg (coreOf s c) rb) ((coreOf s c).scc.cycles + 3) false
  · simpa [mul] using next_writeScalar more (exec_alu_of_ne_mul mul c rd ra rb s) now

theorem exec_li (c : CoreId) (rd : Fin 32) (imm : BitVec 21) (s : State) :
    exec (.li c rd imm) s = control s c (.li c rd imm) fun s => writeScalar s c rd (imm.signExtend 64) := rfl

theorem exec_lih (c : CoreId) (rd : Fin 32) (sh : Fin 4) (imm : BitVec 16) (s : State) :
    exec (.lih c rd sh imm) s = control s c (.lih c rd sh imm) fun s =>
      writeScalar s c rd (insertField (sreg (coreOf s c) rd) (16 * sh.val) 16 (imm.zeroExtend 64)) := rfl

theorem exec_addi (c : CoreId) (rd ra : Fin 32) (imm : BitVec 16) (s : State) :
    exec (.addi c rd ra imm) s = control s c (.addi c rd ra imm) fun s =>
      writeScalar s c rd (sreg (coreOf s c) ra + imm.signExtend 64) := rfl

theorem exec_bfi {lo wm1 : Fin 64} (fits : lo.val + wm1.val ≤ 63) (c : CoreId) (rd ra : Fin 32) (s : State) :
    exec (.bfi c rd ra lo wm1) s = control s c (.bfi c rd ra lo wm1) fun s =>
      writeScalar s c rd (insertField (sreg (coreOf s c) rd) lo (wm1 + 1) (sreg (coreOf s c) ra)) := if_neg (Nat.not_lt.2 fits)

theorem exec_rdsr (c : CoreId) (rd : Fin 32) (src : SrSrc) (s : State) :
    exec (.rdsr c rd src) s = control s c (.rdsr c rd src) fun s => writeScalar s c rd (BitVec.ofNat 64 (srValue s c src)) := rfl

/-- What ALU gives for each of its functions (R206, R207). -/
theorem aluOp_eq (f : AluFn) (a b : Word) : aluOp f a b = match f with
    | .add => a + b | .sub => a - b | .and => a &&& b | .or => a ||| b | .xor => a ^^^ b
    | .shl => a <<< (b.toNat % 64) | .shr => a >>> (b.toNat % 64) | .sra => a.sshiftRight (b.toNat % 64) | .mul => a * b
    | .min => if a.toInt < b.toInt then a else b | .max => if a.toInt < b.toInt then b else a
    | .slt => if a.toInt < b.toInt then 1 else 0 | .sltu => if a.toNat < b.toNat then 1 else 0 := by
  cases f <;> simp only [aluOp, bits_six, BitVec.slt_iff_toInt_lt, BitVec.ult_iff_toNat_lt]

theorem scalarArithmeticHolds : ScalarArithmeticHolds := by
  intro s c rd ra rb more a b old ready writes alu
  have byFunction : ∀ f, alu f (aluOp f a b) := fun _ now => next_alu more now
  simp only [aluOp_eq] at byFunction
  refine ⟨fun imm now => next_writeScalar more (exec_li ..) now,
    fun sh imm => ⟨insertField old (16 * sh) 16 (imm.zeroExtend 64), fun now => ?_, fun i inside => ?_⟩,
    fun _ now => ?_, fun lo wm1 fits => ⟨insertField old lo (wm1 + 1) a, fun now => ?_, fun i inside => ?_⟩,
    byFunction .add, byFunction .sub, byFunction .and, byFunction .or, byFunction .xor, byFunction .shl, byFunction .shr, byFunction .sra,
    byFunction .mul, byFunction .min, byFunction .max, byFunction .slt, byFunction .sltu⟩
  · simpa using next_writeScalar more (exec_lih ..) now
  · rw [getLsbD_insertField _ _ _ _ inside, BitVec.getLsbD_setWidth]
    simp [Nat.lt_of_le_of_lt (Nat.sub_le i _) inside]
  · simpa using next_writeScalar more (exec_addi ..) now
  · simpa using next_writeScalar more (exec_bfi fits ..) now
  · rw [getLsbD_insertField _ _ _ _ inside]
    simp only [Nat.lt_succ_iff, ← Nat.add_assoc]

/-! ### RDSR (R207, R230) -/

theorem effShare_congr {s t : State} {c : Nat} (share : (coreOf t c).share = (coreOf s c).share) (mills : t.mills = s.mills)
    (regions : t.regions = s.regions) (pwr : t.pwr = s.pwr) : effShare t c = effShare s c := by
  simp only [effShare, poolScale, tokenLimit, share, pwr, leafOf_congr mills, chain_congr mills, millOf_congr mills, regionOf_congr regions]

theorem srValue_begun (s : State) (c k : Nat) (src : SrSrc) : srValue (begun s c k) c src = srValue s c src := by
  have share : effShare (begun s c k) c = effShare s c := effShare_congr (by rw [coreOf_begun]) rfl rfl rfl
  cases src <;> simp only [srValue, freeTokens, share, coreOf_begun]
  case time => rfl
  case stepNo =>
    rw [ownerOf_congr (s := s) (t := begun s c k) rfl]
    rfl
  case tokensFree => rfl

theorem rdsrReadsTheStateNamedHolds : RdsrReadsTheStateNamedHolds := by
  intro s c rd more reads
  have source : ∀ src, reads src (srValue s c src) := fun src now => by
    simpa only [srValue_begun] using next_writeScalar more (exec_rdsr c rd src s) now
  refine ⟨fun i => source (.counter i), source .cycles, source .time, source .coreId, fun m owner => ?_, source .tokensHeld, source .tokensFree⟩
  simpa only [srValue, owner] using source .stepNo

/-- Settles O6: each instruction writes one scalar and issues its bundle. -/
theorem scalarResults : Obligations.ScalarResults := ⟨scalarArithmeticHolds, rdsrReadsTheStateNamedHolds⟩

/-! ### NOP, branches, loops, calls and returns (R203, R207, R208) -/

theorem condHolds_eq_true_iff (x : Cond) (v : Word) : condHolds x v = true ↔ Taken x v := by
  cases x with
  | always => simp [condHolds, Taken]
  | eqz => simp [condHolds, Taken]
  | nez => simp [condHolds, Taken]
  | ltz => simp [condHolds, Taken, BitVec.msb_eq_toInt]
  | gez => simp [condHolds, Taken, BitVec.msb_eq_toInt]

section
variable {s : State} {c : CoreId}

theorem execNop_of_takesEffect (now : TakesEffect s c 0 (.nop c 0)) : execNop c 0 s = .next (fallThrough (begun s c 0) c) :=
  (if_pos rfl).trans (control_of_takesEffect now _)

variable {ra : Fin 32} {target : BitVec 12}

theorem execBr_of_taken {x : Cond} (taken : Taken x (sreg (coreOf s c) ra)) (now : TakesEffect s c 0 (.br c x ra target)) :
    execBr c x ra target s = .next (branchTo (begun s c 0) c 2 target.toNat) :=
  (control_of_takesEffect now _).trans (congrArg _ (if_pos (by rwa [sreg_begun, condHolds_eq_true_iff])))

theorem execBr_of_not_taken {x : Cond} (open_ : ¬ Taken x (sreg (coreOf s c) ra)) (now : TakesEffect s c 0 (.br c x ra target)) :
    execBr c x ra target s = .next (fallThrough (begun s c 0) c) :=
  (control_of_takesEffect now _).trans (congrArg _ (if_neg (by rwa [sreg_begun, condHolds_eq_true_iff])))

/-- Core `c` in the turn of a LOOP that counts `ra` down. -/
def counted (s : State) (c : Nat) (ra : Fin 32) : State := updCore (begun s c 0) c fun k => setReg k ra (sreg (coreOf s c) ra - 1)

theorem execLoop_of_takesEffect (now : TakesEffect s c 0 (.loop c ra target)) : execLoop c ra target s = .next (
    if sreg (coreOf s c) ra - 1 = 0 then fallThrough (counted s c ra) c else branchTo (counted s c ra) c 1 target.toNat) := by
  refine (control_of_takesEffect now _).trans (congrArg _ ?_)
  dsimp only
  rw [sreg_begun]
  rfl

theorem turned_counted : Turned c (Tbl.set 0 (coreOf s c).scc.regs ra (sreg (coreOf s c) ra - 1)) (coreOf s c).scc.stack s (counted s c ra) :=
  ⟨onlyCore_updCore_begun .., by simp [counted, setReg, coreOf_begun]⟩

/-- Core `c` in its turn, with return stack `stack`. -/
def withStack (s : State) (c : Nat) (stack : List Nat) : State :=
  updCore (begun s c 0) c fun k => { k with scc := { k.scc with stack := stack } }

theorem turned_withStack (stack : List Nat) : Turned c (coreOf s c).scc.regs stack s (withStack s c stack) :=
  ⟨onlyCore_updCore_begun .., by simp [withStack, coreOf_begun]⟩

theorem updCore_congr {s : State} {c : Nat} {f g : Core → Core} (h : f (coreOf s c) = g (coreOf s c)) : updCore s c f = updCore s c g := by
  rw [updCore, updCore, Tbl.upd, Tbl.upd, ← coreOf, h]

theorem execCall_of_takesEffect (now : TakesEffect s c 0 (.call c target)) : execCall c target s = .next (
    if 8 ≤ (coreOf s c).scc.stack.length then failInstr (begun s c 0) c 10 { code := .format }
    else branchTo (withStack s c (((coreOf s c).scc.pc + 1) :: (coreOf s c).scc.stack)) c 2 target.toNat) := by
  refine (control_of_takesEffect now _).trans (congrArg _ ?_)
  have pushes : (updCore (begun s c 0) c fun k => { k with scc := { k.scc with stack := (k.scc.pc + 1) :: k.scc.stack } }) =
      withStack s c (((coreOf s c).scc.pc + 1) :: (coreOf s c).scc.stack) := updCore_congr (by rw [scc_begun])
  dsimp only
  rw [pushes, scc_begun]
  rfl

theorem execRet_of_takesEffect (now : TakesEffect s c 0 (.ret c)) : execRet c s = .next (match (coreOf s c).scc.stack with
    | [] => failInstr (begun s c 0) c 10 { code := .format }
    | d :: rest => branchTo (withStack s c rest) c 2 d) := by
  refine (control_of_takesEffect now _).trans (congrArg _ ?_)
  rw [scc_begun]
  rfl

end

/-- Settles O7: each instruction is a fall through or a branch from the scalars and the return stack that it leaves. -/
theorem branchesAndCalls : Obligations.BranchesAndCalls := by
  intro s c ra target k v goes
  refine ⟨fun more now => .of_eq (execNop_of_takesEffect now) ((turned_begun s c 0).fallThrough more),
    fun slot other => if_neg other,
    fun x taken inside now => .of_eq (execBr_of_taken taken now) ((turned_begun s c 0).branchTo inside 2),
    fun x open_ more now => .of_eq (execBr_of_not_taken open_ now) ((turned_begun s c 0).fallThrough more),
    fun again inside now => ?_, fun last more now => ?_, fun room inside now => ?_, fun d rest stack inside now => ?_⟩
  · exact .of_eq ((execLoop_of_takesEffect now).trans (congrArg _ (if_neg again))) (turned_counted.branchTo inside 1)
  · exact .of_eq ((execLoop_of_takesEffect now).trans (congrArg _ (if_pos last))) (last ▸ turned_counted.fallThrough more)
  · exact .of_eq ((execCall_of_takesEffect now).trans (congrArg _ (if_neg (Nat.not_le.2 room)))) ((turned_withStack _).branchTo inside 2)
  · exact .of_eq ((execRet_of_takesEffect now).trans (by rw [stack])) ((turned_withStack rest).branchTo inside 2)

/-! ## FENCE, STEP.END and HALT (06 R207, R231, R232) -/

/-! ### A bundle that waits (06 R203, R242, R243) -/

theorem turn_of_bundleStall {s : State} {c : CoreId} {k : Fin 4} {i : Instr} {x : Stall} (issues : mayIssue s c = true)
    (inside : (coreOf s c).scc.pc < (coreOf s c).len) (due : inTurn s c k i = true) (fresh : (coreOf s c).scc.done = [])
    (waits : bundleStall s c = some x) (f : State → State) : turn s c k i f = .next (stallBundle s c x) := by
  rw [turn, if_neg (by simp [issues]), if_neg (Nat.not_le.2 inside), if_neg (by simp [due])]
  simp [fresh, waits]

theorem control_of_bundleStall {s : State} {c : CoreId} {i : Instr} {x : Stall} (issues : mayIssue s c = true)
    (inside : (coreOf s c).scc.pc < (coreOf s c).len) (due : inTurn s c 0 i = true) (fresh : (coreOf s c).scc.done = [])
    (waits : bundleStall s c = some x) (f : State → State) : control s c i f = .next (stallBundle s c x) :=
  turn_of_bundleStall issues inside due fresh waits f

theorem stallBundle_of_ne_token {x : Stall} (other : x.1 ≠ .token) (s : State) (c : CoreId) :
    stallBundle s c x = stallOn s c x.1 x.2.1 x.2.2 := by
  unfold stallBundle
  split
  · exact absurd ‹x.1 = .token› other
  · rfl

theorem stalled_stallOn (s : State) (c : Nat) (i : Slack) (cause detail : Nat) : Stalled c i cause detail s (stallOn s c i cause detail) :=
  ⟨.updCore .., (coreOf_updCore_same ..).trans rfl⟩

/-! ### What FENCE and STEP.END wait for -/

theorem waitsFor_fence (s : State) (c : CoreId) (mask : BitVec 9) : waitsFor s c (.fence c mask) =
    ((List.range 9).find? fun u => mask.getLsbD u && !unitIdle (coreOf s c) (u + 1)).map fun u => (.fence, 0xD, u + 1) := rfl

theorem waitsFor_fence_eq_none_iff (s : State) (c : CoreId) (mask : BitVec 9) :
    waitsFor s c (.fence c mask) = none ↔ ∀ i < 9, mask.getLsbD i = true → unitIdle (coreOf s c) (i + 1) = true := by
  simp [waitsFor_fence]

theorem waitsFor_fence_of_first {s : State} {c : CoreId} {mask : BitVec 9} {i : Nat} (unit : i < 9) (selected : mask.getLsbD i = true)
    (busy : unitIdle (coreOf s c) (i + 1) = false) (first : ∀ j < i, mask.getLsbD j = true → unitIdle (coreOf s c) (j + 1) = true) :
    waitsFor s c (.fence c mask) = some (.fence, 0xD, i + 1) := by
  have found : ((List.range 9).find? fun u => mask.getLsbD u && !unitIdle (coreOf s c) (u + 1)) = some i :=
    List.find?_range_eq_some.2 ⟨by simp [selected, busy], List.mem_range.2 unit, fun j below => by
      cases chosen : mask.getLsbD j with
      | false => simp
      | true => simp [first j below chosen]⟩
  rw [waitsFor_fence, found, Option.map_some]

theorem execFence_of_takesEffect {s : State} {c : CoreId} {mask : BitVec 9} (now : TakesEffect s c 0 (.fence c mask)) :
    execFence c mask s = .next (fallThrough (begun s c 0) c) := control_of_takesEffect now _

/-! ### STEP.END (R231) -/

/-- Core `c`'s step has ended; its step owner has no report yet. -/
def stepEnded (s : State) (c : Nat) : State :=
  returnTokens (updCore (begun s c 0) c fun k =>
    let k := issued s.glb.time 1 k.scc.pc k
    { k with flume := [], scc := { k.scc with run := .ended } }) c

theorem stepEnded_same (s : State) (c : Nat) : stepEnded s c = { s with cores := (stepEnded s c).cores, regions := (stepEnded s c).regions } := rfl

@[simp] theorem stepEnded_mills (s : State) (c : Nat) : (stepEnded s c).mills = s.mills := rfl

section
variable {s : State} {c : CoreId} {m : Nat}

theorem execStepEnd_of_takesEffect (owner : ownerOf s c = some m) (now : TakesEffect s c 0 (.stepEnd c)) :
    execStepEnd c s = .next (updMill (stepEnded s c) m fun k => { k with ended := insertNat c k.ended }) := by
  refine (control_of_takesEffect now _).trans (congrArg _ ?_)
  have stays : ownerOf (stepEnded s c) c = some m := (ownerOf_congr (stepEnded_mills s c) c).trans owner
  change (match ownerOf (stepEnded s c) c with | some m => updMill (stepEnded s c) m _ | none => stepEnded s c) = _
  rw [stays]

theorem coreOf_stepEnded (s : State) (c : CoreId) : coreOf (stepEnded s c) c = { coreOf s c with
    flume := [], acquired := 0, stall := 0, detail := 0, cnt := (slackUp (coreOf s c) .run 1).cnt
    scc := { (coreOf s c).scc with run := .ended, cycles := (coreOf s c).scc.cycles + 1, done := [], since := s.glb.time } } := by
  simp [stepEnded, returnTokens, coreOf_begun, issued, slackUp]

theorem coreOf_stepEnded_other (s : State) (c : Nat) {j : Nat} (other : j ≠ c) : coreOf (stepEnded s c) j = coreOf s j := by
  rw [stepEnded, returnTokens_other _ _ _ other, (onlyCore_updCore_begun ..).2 j other]

theorem regionOf_returnTokens (s : State) (c r : Nat) : regionOf (returnTokens s c) r = if r = c / 256 then
    { regionOf s r with tok := { (regionOf s r).tok with granted := (regionOf s r).tok.granted - (coreOf s c).acquired
                                                         waiting := (regionOf s r).tok.waiting.filter fun w => w.1 ≠ c } }
    else regionOf s r := by
  rw [returnTokens, regionOf_updRegion]
  split
  · subst r; rfl
  · rfl

theorem acquired_begun (s : State) (c k : Nat) : (coreOf (begun s c k) c).acquired = (coreOf s c).acquired := by rw [coreOf_begun]

theorem regionOf_stepEnded (s : State) (c r : Nat) : regionOf (stepEnded s c) r = if r = c / 256 then
    { regionOf s r with tok := { (regionOf s r).tok with granted := (regionOf s r).tok.granted - (coreOf s c).acquired
                                                         waiting := (regionOf s r).tok.waiting.filter fun w => w.1 ≠ c } }
    else regionOf s r := by
  have acquired : (coreOf (updCore (begun s c 0) c fun k =>
      let k := issued s.glb.time 1 k.scc.pc k
      { k with flume := [], scc := { k.scc with run := .ended } }) c).acquired = (coreOf s c).acquired := by
    rw [coreOf_updCore_same]
    exact acquired_begun ..
  rw [stepEnded, regionOf_returnTokens, acquired]
  rfl

/-! ### HALT (R232) -/

/-- The bundle of core `c` that holds HALT has issued, and its record is written. -/
def haltLogged (s : State) (c : CoreId) : State :=
  let u := updCore (begun s c 0) c (issued s.glb.time 1 ((coreOf s c).scc.pc + 1))
  logRec u { coreRec u c with code := .halted, cls := .step, pc := some (coreOf s c).scc.pc }

@[simp] theorem haltLogged_mills (s : State) (c : CoreId) : (haltLogged s c).mills = s.mills := by simp [haltLogged, begun]
@[simp] theorem haltLogged_mem (s : State) (c : CoreId) : (haltLogged s c).mem = s.mem := by simp [haltLogged, begun]

theorem pc_haltLogged (s : State) (c : CoreId) : (coreOf (haltLogged s c) c).scc.pc = (coreOf s c).scc.pc + 1 := by
  simp [haltLogged, coreOf, begun, issued, updCore]

theorem ownerOf_updCore (s : State) (c : Nat) (f : Core → Core) (d : Nat) : ownerOf (updCore s c f) d = ownerOf s d :=
  ownerOf_congr (s := s) (t := updCore s c f) rfl d

/-- The record of HALT names the core, its step owner and the bundle (R232, R485). -/
theorem get_haltLogged (s : State) (c : CoreId) : Tbl.get {} (haltLogged s c).flt.ring s.flt.next =
    { coreRec s c with code := .halted, cls := .step, pc := some (coreOf s c).scc.pc, cycle := (coreOf s c).scc.cycles + 1
                       time := s.glb.time, seq := s.flt.total + 1, ovr := decide (s.flt.unread = 4096) } := by
  refine (get_ring_logRec (updCore (begun s c 0) c (issued s.glb.time 1 ((coreOf s c).scc.pc + 1))) _).trans ?_
  simp only [coreRec, ownerOf_updCore, begun, coreOf_updCore_same, issued, slackUp]
  rfl

theorem execHalt_of_takesEffect (owner : ownerOf s c = some m) (opened : (millOf s m).dstate ≠ .draining)
    (now : TakesEffect s c 0 (.halt c)) : execHalt c s = .next (enterHalted (haltLogged s c) m) := by
  refine (control_of_takesEffect now _).trans (congrArg _ ?_)
  have mills := haltLogged_mills s c
  have stays : ownerOf (haltLogged s c) c = some m := (ownerOf_congr mills c).trans owner
  dsimp only
  rw [scc_begun]
  change (match ownerOf (haltLogged s c) c with
    | none => updCore (haltLogged s c) c _
    | some m => if (millOf (haltLogged s c) m).dstate = DrainSt.draining then endDrain (haltLogged s c) m
      else enterHalted (haltLogged s c) m) = _
  rw [stays]
  simp only [millOf_congr mills, opened, if_false]

theorem foldl_pond {α : Type} {f : State → α → State} (one : ∀ s a, f s a = { s with pond := (f s a).pond }) (l : List α) (s : State) :
    l.foldl f s = { s with pond := (l.foldl f s).pond } := by
  induction l generalizing s with
  | nil => rfl
  | cons a l ih =>
    rw [List.foldl_cons, ih]
    congr 1 <;> rw [one]

/-- A draft mill that goes down touches the requests and its batch alone (R345). -/
theorem draftMillDown_same (s : State) (d : Nat) : draftMillDown s d = { s with pond := (draftMillDown s d).pond } := by
  rw [draftMillDown]
  dsimp only
  rw [foldl_pond (fun s m => foldl_pond (fun s q => by split <;> rfl) _ s) (servedBy s d) s]
  rfl

/-- A core that issues bundles stops at its next one (R232). -/
def haltCore (s : State) (c : Nat) : State := updCore s c fun k =>
  if k.scc.run = .running then { k with scc := { k.scc with run := .halted, since := s.glb.time - k.scc.since } } else k

theorem foldl_haltCore (cs : List Nat) (s : State) : cs.foldl haltCore s = { s with cores := (cs.foldl haltCore s).cores } := by
  induction cs generalizing s with
  | nil => rfl
  | cons a l ih => rw [List.foldl_cons, ih]; rfl

theorem pc_foldl_haltCore (cs : List Nat) (s : State) (c : Nat) : (coreOf (cs.foldl haltCore s) c).scc.pc = (coreOf s c).scc.pc := by
  induction cs generalizing s with
  | nil => rfl
  | cons d cs ih =>
    rw [List.foldl_cons, ih, haltCore, coreOf_updCore]
    split
    · subst c; split <;> rfl
    · rfl

/-- Step owner `m` is HALTED and its cores stop; its draft mill, when it is one, goes down last. -/
def haltedOwner (s : State) (m : Nat) : State := raiseIrq (updMill ((coresOf s m).foldl haltCore s) m fun k => { k with st := .halted }) 40

theorem enterHalted_same (s : State) (m : Nat) : enterHalted s m = { haltedOwner s m with pond := (enterHalted s m).pond } := by
  have down : enterHalted s m = haltedOwner s m ∨ enterHalted s m = draftMillDown (haltedOwner s m) m := by
    change (match serveOf (haltedOwner s m) m with
      | some r => if r.role = 1 then draftMillDown (haltedOwner s m) m else haltedOwner s m
      | none => haltedOwner s m) = _ ∨ (match serveOf (haltedOwner s m) m with
      | some r => if r.role = 1 then draftMillDown (haltedOwner s m) m else haltedOwner s m
      | none => haltedOwner s m) = _
    split
    · split
      · exact .inr rfl
      · exact .inl rfl
    · exact .inl rfl
  obtain same | same := down <;> rw [same]
  exact draftMillDown_same ..

theorem millOf_enterHalted (s : State) (m : Nat) : millOf (enterHalted s m) m = { millOf s m with st := .halted } := by
  rw [enterHalted_same]
  change millOf (haltedOwner s m) m = _
  rw [haltedOwner, millOf_congr (raiseIrq_mills ..), foldl_haltCore, millOf_updMill_same]
  rfl

theorem enterHalted_mem (s : State) (m : Nat) : (enterHalted s m).mem = s.mem := by
  rw [enterHalted_same]
  change (haltedOwner s m).mem = _
  rw [haltedOwner, raiseIrq_mem, updMill_mem, foldl_haltCore]

theorem enterHalted_flt (s : State) (m : Nat) : (enterHalted s m).flt = s.flt := by
  rw [enterHalted_same]
  change (haltedOwner s m).flt = _
  rw [haltedOwner, raiseIrq_flt, updMill_flt, foldl_haltCore]

theorem enterHalted_pends (s : State) (m : Nat) : bit (enterHalted s m).glb.stat 40 = true := by
  rw [enterHalted_same]
  exact raiseIrq_pends _ 40 (by decide)

theorem pc_enterHalted (s : State) (m c : Nat) : (coreOf (enterHalted s m) c).scc.pc = (coreOf s c).scc.pc := by
  rw [enterHalted_same, coreOf]
  change (Tbl.get {} (haltedOwner s m).cores c).scc.pc = _
  rw [haltedOwner, raiseIrq_cores, updMill_cores]
  exact pc_foldl_haltCore ..

theorem flt_begun (s : State) (c k : Nat) : (begun s c k).flt = s.flt := rfl

end

/-- Settles O9: FENCE goes on, STEP.END ends the core's step and returns its tokens, and HALT stops the step owner with a record. -/
theorem fenceStepEndHalt : Obligations.FenceStepEndHalt := by
  intro s c m owner k slots
  refine ⟨fun mask => ⟨waitsFor_fence_eq_none_iff s c mask, fun i => waitsFor_fence_of_first, fun now more => ?_⟩, rfl,
    fun i x held issues inside due fresh waits other => ?_, fun now => ?_, fun opened now => ?_⟩
  · exact .of_eq (execFence_of_takesEffect now) ((turned_begun s c 0).fallThrough more)
  · refine .of_eq (t := stallBundle s c x) ?_ (by rw [stallBundle_of_ne_token other]; exact stalled_stallOn ..)
    obtain rfl | rfl | ⟨mask, rfl⟩ := held
    · exact (control_of_bundleStall issues inside due fresh waits _ : execStepEnd c s = _)
    · exact (control_of_bundleStall issues inside due fresh waits _ : execHalt c s = _)
    · exact (control_of_bundleStall issues inside due fresh waits _ : execFence c mask s = _)
  · refine .of_eq (execStepEnd_of_takesEffect owner now)
      ⟨?_, fun j => coreOf_stepEnded_other s c, ?_, fun r other => ?_, ?_, fun n other => ?_, ?_⟩
    · exact congrArg (updMill · m _) (stepEnded_same s c)
    · exact coreOf_stepEnded s c
    · exact (regionOf_stepEnded s c r).trans (if_neg other)
    · exact congrArg (·.tok.granted) ((regionOf_stepEnded s c _).trans (if_pos rfl))
    · rw [millOf_updMill_other _ _ _ n other, millOf_congr (stepEnded_mills s c)]
    · rw [millOf_updMill_same, millOf_congr (stepEnded_mills s c)]
  · refine .of_eq (execHalt_of_takesEffect owner opened now) ⟨?_, ?_, enterHalted_pends .., ?_, _, rfl, ?_⟩
    · rw [millOf_enterHalted, millOf_congr (haltLogged_mills s c)]
    · rw [enterHalted_mem, haltLogged_mem]
    · rw [pc_enterHalted, pc_haltLogged]
    · rw [enterHalted_flt, get_haltLogged]
      exact ⟨rfl, rfl, rfl, owner, rfl, rfl, rfl⟩

/-! ## LD and ST of the own core (04 R135, R136, R139, 06 R209) -/

@[simp] theorem narrowAddr_begun (s : State) (c k h off : Nat) (wr : Bool) : narrowAddr (begun s c k) c h off wr = narrowAddr s c h off wr := by
  simp only [narrowAddr, handleOf_begun, csmOf_begun]

/-! ### The checks of R209, in their order -/

section
variable {s : State} {c h off : Nat} {wr : Bool}

theorem narrowAddr_of_misaligned (odd : off % 8 ≠ 0) : ∃ a, narrowAddr s c h off wr = .error { code := .format, addr := a } :=
  ⟨_, if_pos odd⟩

variable (aligned : off % 8 = 0)
include aligned

theorem narrowAddr_of_unusable (unusable : (handleOf (coreOf s c) h).valid = false ∨ (handleOf (coreOf s c) h).space = 0) :
    ∃ a, narrowAddr s c h off wr = .error { code := .format, addr := a } := by
  simp [narrowAddr, aligned, unusable]

variable (valid : (handleOf (coreOf s c) h).valid = true) (space : (handleOf (coreOf s c) h).space ≠ 0)
include valid space

theorem narrowAddr_of_no_right (right : (if wr then (handleOf (coreOf s c) h).wr else (handleOf (coreOf s c) h).rd) = false) :
    ∃ a, narrowAddr s c h off wr = .error { code := .window, addr := a } := by
  simp [narrowAddr, aligned, valid, space, right]

variable (right : (if wr then (handleOf (coreOf s c) h).wr else (handleOf (coreOf s c) h).rd) = true)
include right

theorem narrowAddr_of_long (long : (handleOf (coreOf s c) h).len < off + 8) :
    ∃ a, narrowAddr s c h off wr = .error { code := .length, addr := a } := by
  simp [narrowAddr, aligned, valid, space, right, long]

theorem narrowAddr_of_native (inside : off + 8 ≤ (handleOf (coreOf s c) h).len) (native : (handleOf (coreOf s c) h).space ≠ 3) :
    narrowAddr s c h off wr = .ok (coreAddr c (handleOf (coreOf s c) h).space ((handleOf (coreOf s c) h).base + off)) := by
  simp [narrowAddr, aligned, valid, space, right, Nat.not_lt.2 inside, native]

end

/-! ### An access that need not wait at the RIF (R185, R187) -/

theorem csmWaits_of_own {s : State} {c h off a : Nat} {wr : Bool} (addr : narrowAddr s c h off wr = .ok a) (own : fld a 34 14 = c) :
    csmWaits s c h off wr = false := by
  rw [csmWaits, addr]
  simp [csmHeld, own]

theorem csmWaits_of_error {s : State} {c h off : Nat} {wr : Bool} {e : Fail} (bad : narrowAddr s c h off wr = .error e) :
    csmWaits s c h off wr = false := by rw [csmWaits, bad]

/-! ### What LD and ST do -/

section
variable {s : State} {c : CoreId} {rd ra : Fin 32} {h : Fin 64}

/-- Core cycles until the scalar of an LD through handle `h` that reaches the own core and no slice of chip shared memory (R241). -/
def loadCycles (s : State) (c h : Nat) : Nat := if (handleOf (coreOf s c) h).space = 3 then 5 else 4

theorem ldCycles_begun {a : Nat} (noSlice : fld a 30 4 ≠ 0) (s : State) (c k h : Nat) : ldCycles (begun s c k) c h a = loadCycles s c h := by
  by_cases aliased : (handleOf (coreOf s c) h).space = 3 <;> simp [ldCycles, loadCycles, aliased, noSlice]

section
variable {ups : List Upset} (now : TakesEffect s c 0 (.ld c rd h ra []))
include now

theorem execLd_of_error {e : Fail} (bad : narrowAddr s c h (sreg (coreOf s c) ra).toNat false = .error e) :
    execLd c rd h ra ups s = .next (failInstr (begun s c 0) c 10 e) := by
  rw [execLd, if_neg (by simp [csmWaits_of_error bad]), control_of_takesEffect now]
  simp only [sreg_begun, narrowAddr_begun, bad]

variable {a : Nat} (addr : narrowAddr s c h (sreg (coreOf s c) ra).toNat false = .ok a) (own : fld a 34 14 = c.val)
include addr own

theorem execLd_of_upset {t : State} {e : Fail} (met : meetReads (begun s c 0) [(a, 8)] ups = (t, some e)) :
    execLd c rd h ra ups s = .next (failInstr t c 10 e) := by
  rw [execLd, if_neg (by simp [csmWaits_of_own addr own]), control_of_takesEffect now]
  simp only [sreg_begun, narrowAddr_begun, addr, own, met, if_true]

theorem execLd_of_clean (noSlice : fld a 30 4 ≠ 0) (met : meetReads (begun s c 0) [(a, 8)] ups = (begun s c 0, none)) :
    execLd c rd h ra ups s = .next (fallThrough (updCore (begun s c 0) c
      (withScalar rd (BitVec.ofNat 64 (readNum s a 8)) ((coreOf s c).scc.cycles + loadCycles s c h) true)) c) := by
  rw [execLd, if_neg (by simp [csmWaits_of_own addr own]), control_of_takesEffect now]
  simp only [sreg_begun, narrowAddr_begun, addr, own, met, if_true, ldCycles_begun noSlice]
  refine congrArg (fun u => Host.Outcome.next (fallThrough u c)) (updCore_congr ?_)
  rw [scc_begun]
  rfl

end

section
variable {ups : List Upset} (now : TakesEffect s c 0 (.st c rd h ra []))
include now

theorem execSt_of_error {e : Fail} (bad : narrowAddr s c h (sreg (coreOf s c) ra).toNat true = .error e) :
    execSt c rd h ra ups s = .next (failInstr (begun s c 0) c 10 e) := by
  rw [execSt, if_neg (by simp [csmWaits_of_error bad]), control_of_takesEffect now]
  simp only [sreg_begun, narrowAddr_begun, bad]

theorem execSt_of_clean {a : Nat} (addr : narrowAddr s c h (sreg (coreOf s c) ra).toNat true = .ok a) (own : fld a 34 14 = c.val)
    (met : meetWrites (begun s c 0) [(a, 8)] ups = (begun s c 0, none)) : execSt c rd h ra ups s =
      .next (fallThrough (storeBytes (begun s c 0) a (leBytes 8 (sreg (coreOf s c) rd).toNat)) c) := by
  rw [execSt, if_neg (by simp [csmWaits_of_own addr own]), control_of_takesEffect now]
  simp only [sreg_begun, narrowAddr_begun, addr, own, met, if_true]

end

/-- An uncorrectable error of the word read (R136): the count of R162, and a failure that names the access. -/
theorem meetReads_of_sramLost {s : State} {a : Nat} (noStack : fld a 30 4 ≠ 0) (y : Byte) : meetReads s [(a, 8)] [.sramLost a y] =
    (eccCount s a fun m => { m with sramUe := bump m.sramUe }, some { code := .ecc, addr := some a, syn := y.toNat + at_ 8 (sramMem a) }) := by
  have touched : touch (a, 8) (a / 8 * 8, 8) = true := by
    simp only [touch, decide_eq_true_eq]
    omega
  simp [meetReads, runAll, meetUpset, touches, touched, noStack, accessAt]

theorem storeBytes_of_sram {a : Nat} (noStack : fld a 30 4 ≠ 0) (s : State) (bs : List Byte) : storeBytes s a bs = writeBytes s a bs := by
  rw [storeBytes, if_neg (by simp [noStack])]

/-- The bundle of an instruction that fails counts as issued; its failure is that of the scalar control core. -/
theorem failInstr_eq (s : State) (c : Nat) (e : Fail) :
    failInstr s c 10 e = failUnit (updCore s c fun k => slackUp k .run 1) c 0xA 0 (coreOf s c).scc.pc e := rfl

theorem OnlyCore.mem {c : Nat} {s t : State} (only : OnlyCore c s t) : t.mem = s.mem := by rw [only.1]

theorem getD_leBytes {n i : Nat} (inside : i < n) (v : Nat) : (leBytes n v).getD i 0 = BitVec.ofNat 8 (v / 256 ^ i) := by
  induction n generalizing v i with
  | zero => exact absurd inside (Nat.not_lt_zero i)
  | succ n ih =>
    cases i with
    | zero => simp [leBytes]
    | succ i => rw [leBytes, List.getD_cons_succ, ih (Nat.lt_of_succ_lt_succ inside), Nat.div_div_eq_div_mul, pow_succ']

/-- An LD that meets no damage. -/
theorem next_ld_of_clean {a : Nat} (more : MoreFollow s c) (own : fld a 34 14 = c.val) (noSlice : fld a 30 4 ≠ 0)
    (addr : narrowAddr s c h (sreg (coreOf s c) ra).toNat false = .ok a) (now : TakesEffect s c 0 (.ld c rd h ra [])) (clean : s.poison = []) :
    Next (exec (.ld c rd h ra []) s) fun t => WroteScalar c rd (BitVec.ofNat 64 (leNat (readBytes s a 8)))
      (updCore s c fun k => setPend k rd ((coreOf s c).scc.cycles + loadCycles s c h) true) t ∧ t.mem = s.mem := by
  have wrote := wroteScalar_fallThrough more rd (BitVec.ofNat 64 (leNat (readBytes s a 8))) ((coreOf s c).scc.cycles + loadCycles s c h) true
  obtain ⟨⟨only, core⟩, regs⟩ := wrote
  exact .of_eq (execLd_of_clean now addr own noSlice (meetReads_of_clean (s := begun s c 0) clean _)) ⟨⟨⟨only, core⟩, regs⟩, only.mem⟩

/-- An ST that meets no damage. -/
theorem next_st_of_clean {a : Nat} (more : MoreFollow s c) (own : fld a 34 14 = c.val) (noSlice : fld a 30 4 ≠ 0)
    (addr : narrowAddr s c h (sreg (coreOf s c) ra).toNat true = .ok a) (now : TakesEffect s c 0 (.st c rd h ra [])) (clean : s.poison = []) :
    Next (exec (.st c rd h ra []) s) fun t =>
      Issued c 1 ((coreOf s c).scc.pc + 1) (coreOf s c).scc.regs (coreOf s c).scc.stack { s with mem := t.mem } t ∧
      t.mem = Memory.put s.mem a (leBytes 8 (sreg (coreOf s c) rd).toNat) := by
  let u := writeBytes (begun s c 0) a (leBytes 8 (sreg (coreOf s c) rd).toNat)
  have turned : Turned c (coreOf s c).scc.regs (coreOf s c).scc.stack { s with mem := u.mem } u :=
    ⟨⟨rfl, (onlyCore_begun s c 0).2⟩, (turned_begun s c 0).2⟩
  have issues := turned.fallThrough more
  have mem : (fallThrough u c).mem = u.mem := issues.1.mem
  refine .of_eq ((execSt_of_clean now addr own (meetWrites_of_clean (s := begun s c 0) clean _)).trans (by rw [storeBytes_of_sram noSlice]))
    ⟨?_, mem⟩
  rw [mem]
  exact issues

end

theorem loadAndStoreHolds : LoadAndStoreHolds := by
  intro s c rd ra h more k e off late
  refine ⟨fun aligned valid native inside _ => ?_,
    fun a own noSlice => ⟨fun addr now => ⟨next_ld_of_clean more own noSlice addr now, fun y => ?_⟩, fun addr clean now => ?_⟩⟩
  · have space : e.space ≠ 0 ∧ e.space ≠ 3 := by omega
    exact ⟨fun right => narrowAddr_of_native aligned valid space.1 right inside space.2,
      fun right => narrowAddr_of_native aligned valid space.1 right inside space.2⟩
  · have fails := execLd_of_upset now addr own (meetReads_of_sramLost noSlice y)
    rw [failInstr_eq, eccCount, coreOf_updRegion, scc_begun] at fails
    exact ⟨_, fails, rfl⟩
  · obtain ⟨t, run, issues, put⟩ := next_st_of_clean more own noSlice addr now clean
    obtain ⟨inside, outside⟩ := readByte_of_put put
    rw [length_leBytes] at inside outside
    exact .of_eq run ⟨issues, fun i small => (inside i small).trans (getD_leBytes small _), outside⟩

/-! ### The refusals of R209 -/

/-- An LD or ST that its checks refuse fails the scalar control core; nothing is read or written. -/
theorem loadAndStoreRefusedHolds : LoadAndStoreRefusedHolds := by
  intro s c rd ra h k e off fails ld st
  have load : ∀ x, (∃ a, narrowAddr s c h off false = .error { code := x, addr := a }) → ld x := fun x ⟨a, bad⟩ now ups =>
    ⟨a, _, onlyCore_updCore_begun s c 0 _, (execLd_of_error now bad).trans (by rw [failInstr_eq, scc_begun])⟩
  have store : ∀ x, (∃ a, narrowAddr s c h off true = .error { code := x, addr := a }) → st x := fun x ⟨a, bad⟩ now ups =>
    ⟨a, _, onlyCore_updCore_begun s c 0 _, (execSt_of_error now bad).trans (by rw [failInstr_eq, scc_begun])⟩
  exact ⟨fun odd => ⟨load _ (narrowAddr_of_misaligned odd), store _ (narrowAddr_of_misaligned odd)⟩,
    fun aligned unusable => ⟨load _ (narrowAddr_of_unusable aligned unusable), store _ (narrowAddr_of_unusable aligned unusable)⟩,
    fun aligned valid space => ⟨fun right => load _ (narrowAddr_of_no_right aligned valid space right),
      fun right => store _ (narrowAddr_of_no_right aligned valid space right)⟩,
    fun aligned valid space long => ⟨fun right => load _ (narrowAddr_of_long aligned valid space right long),
      fun right => store _ (narrowAddr_of_long aligned valid space right long)⟩⟩

/-- Settles O10: an access is its checks in order, then the bytes of the own core. -/
theorem loadAndStore : Obligations.LoadAndStore := ⟨loadAndStoreHolds, loadAndStoreRefusedHolds⟩

/-! ## Commands that stop (06 R207, R213, R233) -/

/-- The outcome is a next state. -/
def Answers (o : Outcome) : Prop := ∃ t, o = .next t

theorem answers_next (t : State) : Answers (.next t) := ⟨t, rfl⟩

theorem answers_turn (s : State) (c : CoreId) (k : Fin 4) (i : Instr) (f : State → State) : Answers (turn s c k i f) := ⟨_, rfl⟩

theorem answers_ite {p : Prop} [Decidable p] {a b : Outcome} (ha : Answers a) (hb : Answers b) : Answers (if p then a else b) := by
  split <;> assumption

theorem answers_andThen {o : Outcome} {f : State → Outcome} (ho : Answers o) (hf : ∀ t, Answers (f t)) : Answers (andThen o f) := by
  obtain ⟨t, rfl⟩ := ho
  exact hf t

/-! ### A register write of several effects (11 R425-R428, 13 R499) -/

theorem answers_writeEdge (a : Nat) (w : Word) (s : State) : Answers (writeEdge a w s) := by
  unfold writeEdge
  dsimp only
  repeat' apply answers_ite
  all_goals exact ⟨_, rfl⟩

theorem answers_writeMilFence (m : MillId) (w : Word) (s : State) : Answers (writeMilFence m w s) := by
  have also : ∀ {b : Bool} {o : Outcome} {f : State → Outcome}, Answers o → (∀ t, Answers (f t)) →
      Answers (if b = true then andThen o f else o) := fun ho hf => answers_ite (answers_andThen ho hf) ho
  refine answers_ite (answers_next s) (answers_ite ⟨_, rfl⟩ (also (also (also (also (answers_ite ⟨_, rfl⟩ ⟨_, rfl⟩) ?_) ?_) ?_) ?_))
  all_goals exact fun t => ⟨_, rfl⟩

theorem answers_execRegisterWrite (addr : BitVec 27) (half : Bool) (w : Word) (s : State) : Answers (execRegisterWrite addr half w s) :=
  answers_ite (answers_next s) (answers_ite (answers_next _) (answers_ite (answers_next _) (answers_ite (answers_writeEdge ..)
    (answers_ite (answers_next _) (answers_ite ⟨_, rfl⟩ (answers_ite (answers_writeMilFence ..) (answers_next _)))))))

/-! ### Every command -/

/-- A command that tests its encoding stops where the test fails, and answers elsewhere. -/
def StopsUnless (good : Bool) (o : Outcome) : Prop := (good = true → Answers o) ∧ (good = false → o = .fault .illFormed)

theorem StopsUnless.of_answers {o : Outcome} (h : Answers o) : StopsUnless true o := ⟨fun _ => h, nofun⟩

theorem stopsUnless_ite {p : Prop} [Decidable p] {good : Bool} (test : p ↔ good = false) {o : Outcome} (h : Answers o) :
    StopsUnless good (if p then .fault .illFormed else o) :=
  ⟨fun g => by rwa [if_neg (by simp [test, g])], fun g => if_pos (test.2 g)⟩

/-- A command of the move/sync slot whose count field is tested (R213). -/
theorem stopsUnless_countOk {good : Bool} {o : Outcome} (h : Answers o) : StopsUnless good (if !good then .fault .illFormed else o) :=
  stopsUnless_ite (by simp) h

/-- Six commands test their encoding; LD, ST and NOP have a case in which nothing happens; the others are one effect. -/
theorem stopsUnless_exec (i : Instr) (s : State) : StopsUnless i.wellFormed (exec i s) := by
  cases i
  case bfi c rd ra lo wm1 => exact stopsUnless_ite (by simp [Instr.wellFormed]) (answers_turn ..)
  case waitEv c mask any clr => exact stopsUnless_ite (by simp [Instr.wellFormed]) (answers_turn ..)
  case waitCnt c cnt regv val sub => exact stopsUnless_countOk (answers_turn ..)
  case recv c w ev regv n evEn => exact stopsUnless_countOk (answers_turn ..)
  case tokenAcq c regv n => exact stopsUnless_countOk (answers_turn ..)
  case tokenRel c regv n => exact stopsUnless_countOk (answers_turn ..)
  case nop c slot => exact .of_answers (answers_ite (answers_turn ..) (answers_next s))
  case ld c rd h ra ups => exact .of_answers (answers_ite (answers_next s) (answers_turn ..))
  case st c rs h ra ups => exact .of_answers (answers_ite (answers_next s) (answers_turn ..))
  case registerWrite addr half w => exact .of_answers (answers_execRegisterWrite addr half w s)
  all_goals exact .of_answers ⟨_, rfl⟩

theorem exec_of_illFormed {i : Instr} (bad : i.wellFormed = false) (s : State) : exec i s = .fault .illFormed := (stopsUnless_exec i s).2 bad

theorem rejectedEncodingsHolds : RejectedEncodingsHolds := fun s c _ _ _ rd ra lo wm1 =>
  ⟨exec_of_illFormed rfl s, exec_of_illFormed rfl s, exec_of_illFormed rfl s, exec_of_illFormed rfl s, exec_of_illFormed rfl s,
    exec_of_illFormed rfl s, exec_of_illFormed rfl s, exec_of_illFormed rfl s, exec_of_illFormed rfl s,
    fun passes => exec_of_illFormed (i := .bfi c rd ra lo wm1) (decide_eq_false (Nat.not_le.2 passes)) s⟩

/-- Settles O13: every command answers but the six that test their encoding. -/
theorem onlyRejectedEncodingsStop : Obligations.OnlyRejectedEncodingsStop := ⟨stopsUnless_exec, rejectedEncodingsHolds⟩
/-! ## How a step starts and retires (01 R148, R201, R231, R490) -/

/-! ### What a core keeps while its step starts or retires -/

/-- Core `l` holds the handles, the windows and s1-s31 of core `k`. -/
structure Core.Kept (k l : Core) : Prop where
  handles : l.handles = k.handles
  windows : l.windows = k.windows
  scalars : ∀ i, i ≠ 0 → sreg l i = sreg k i

theorem Core.Kept.refl (k : Core) : k.Kept k := ⟨rfl, rfl, fun _ _ => rfl⟩

theorem Core.Kept.trans {k l n : Core} (h : k.Kept l) (g : l.Kept n) : k.Kept n :=
  ⟨g.handles.trans h.handles, g.windows.trans h.windows, fun i hi => (g.scalars i hi).trans (h.scalars i hi)⟩

/-- What of a core the passing of time leaves alone, and a step begins with: handles, windows and scalars. -/
def Core.holdings (k : Core) : Tbl Handle × Tbl Window × Tbl Word := (k.handles, k.windows, k.scc.regs)

theorem Core.Kept.of_holdings {k l : Core} (h : l.holdings = k.holdings) : k.Kept l := by
  simp only [Core.holdings, Prod.mk.injEq] at h
  obtain ⟨handles, windows, regs⟩ := h
  exact ⟨handles, windows, fun i _ => congrArg (Tbl.get 0 · i) regs⟩

theorem holdings_coreWaits (s : State) (c : Nat) (k : Core) (n : Nat) : (coreWaits s c k n).holdings = k.holdings := by
  unfold coreWaits
  split
  · rfl
  · dsimp only
    split <;> rfl

theorem holdings_countRest (s : State) (n c : Nat) : (coreOf (countRest s n) c).holdings = (coreOf s c).holdings := by
  rw [coreOf, cores_countRest]
  split
  · rfl
  · exact Tbl.view_map (f := fun i k => coreWaits s i k (coreCycles (regionOf s (i / 256)) n)) (fun _ _ => holdings_coreWaits ..) _ _

/-- No core's handles, windows or scalars change as time passes. -/
theorem kept_advanceTo (s : State) (e c : Nat) : (coreOf s c).Kept (coreOf (advanceTo s e) c) :=
  .of_holdings ((congrArg (fun t => (Tbl.get {} t c).holdings) (pass_cores s _)).trans (holdings_countRest _ _ _))

/-! ### An act of every core of a list on itself -/

section
variable {g : State → Nat → State}

/-- A core that is not of the list is as before. -/
theorem coreOf_foldl_of_notMem (own : ∀ s c d, d ≠ c → coreOf (g s c) d = coreOf s d) {c : Nat} (cs : List Nat) (s : State)
    (out : c ∉ cs) : coreOf (cs.foldl g s) c = coreOf s c := by
  induction cs generalizing s with
  | nil => rfl
  | cons d cs ih =>
    rw [List.mem_cons, not_or] at out
    exact (ih (g s d) out.2).trans (own s d c out.1)

/-- A core of the list has acted last in a state in which it kept what it had at first. -/
theorem coreOf_foldl_of_mem (own : ∀ s c d, d ≠ c → coreOf (g s c) d = coreOf s d)
    (keeps : ∀ s c, (coreOf s c).Kept (coreOf (g s c) c)) {c : Nat} (cs : List Nat) (s : State) (mem : c ∈ cs) :
    ∃ u, (coreOf s c).Kept (coreOf u c) ∧ coreOf (cs.foldl g s) c = coreOf (g u c) c := by
  induction cs generalizing s with
  | nil => cases mem
  | cons d cs ih =>
    by_cases later : c ∈ cs
    · obtain ⟨u, hu, last⟩ := ih (g s d) later
      refine ⟨u, Core.Kept.trans ?_ hu, last⟩
      by_cases e : c = d
      · subst e; exact keeps s c
      · rw [own s d c e]; exact .refl _
    · obtain rfl : c = d := (List.mem_cons.mp mem).resolve_right later
      exact ⟨s, .refl _, coreOf_foldl_of_notMem own cs (g s c) later⟩

end

/-! ### A core that begins its step -/

theorem kept_startCore (entry : Nat) (arg : BitVec 32) (s : State) (c : Nat) :
    (coreOf s c).Kept (coreOf (startCore entry arg s c) c) := by
  rw [startCore, coreOf_updCore_same]
  exact ⟨rfl, rfl, fun i hi => Tbl.get_set_other 0 _ _ _ _ hi⟩

/-- Core `l` stands at the beginning of a step, with what core `k` held (R148, R201). -/
structure Core.Begins (entry : Nat) (arg : BitVec 32) (k l : Core) : Prop extends k.Kept l where
  pc : l.scc.pc = entry
  run : l.scc.run = .running
  cycles : l.scc.cycles = 0
  evs : l.scc.evs = 0
  cnts : l.scc.cnts = []
  stack : l.scc.stack = []
  arg : sreg l 0 = arg.zeroExtend 64
  copyHandles : l.copy.handles = k.handles
  copyWindows : l.copy.windows = k.windows
  engs : l.engs = []
  sends : l.sends = []
  flume : l.flume = []
  acquired : l.acquired = 0

theorem begins_startCore (entry : Nat) (arg : BitVec 32) (s : State) (c : Nat) :
    (coreOf s c).Begins entry arg (coreOf (startCore entry arg s c) c) := by
  have kept := kept_startCore entry arg s c
  rw [startCore, coreOf_updCore_same] at kept ⊢
  exact
    { toKept := kept, arg := Tbl.get_set_same 0 _ _ _, pc := rfl, run := rfl, cycles := rfl, evs := rfl, cnts := rfl, stack := rfl
      copyHandles := rfl, copyWindows := rfl, engs := rfl, sends := rfl, flume := rfl, acquired := rfl }

/-- What a core kept before it began, it began with. -/
theorem Core.Begins.of_kept {entry : Nat} {arg : BitVec 32} {k l n : Core} (b : l.Begins entry arg n) (h : k.Kept l) :
    k.Begins entry arg n :=
  { b with
    toKept := h.trans b.toKept
    copyHandles := b.copyHandles.trans h.handles
    copyWindows := b.copyWindows.trans h.windows }

/-- The cores of a step begin it. -/
theorem begins_foldl_startCore (entry : Nat) (arg : BitVec 32) (cs : List Nat) (s : State) {c : Nat} (mem : c ∈ cs) :
    (coreOf s c).Begins entry arg (coreOf (cs.foldl (startCore entry arg) s) c) := by
  obtain ⟨u, kept, last⟩ := coreOf_foldl_of_mem (startCore_other entry arg) (kept_startCore entry arg) cs s mem
  rw [last]
  exact (begins_startCore entry arg u c).of_kept kept

/-! ### STEP_START -/

/-- A step owner whose step begins. -/
def startMill (k : Mill) : Mill :=
  { k with startAt := none, ended := [], tier := 0, st := if k.dstate = .draining then .fenced else .running }

/-- The state that STEP_START leaves, its start time come and its step not halted: time stands at the start time, every core has begun, and
the step owner runs. -/
def stepBegun (s : State) (m at' : Nat) : State :=
  refresh (updMill ((coresOf s m).foldl (startCore (millOf s m).entry (millOf s m).arg) (advanceTo s at')) m startMill)

theorem exec_stepStart {s : State} {m : MillId} {at' : Nat} (due : (millOf s m).startAt = some at') (stepping : (millOf s m).inStep = true)
    (unhalted : (millOf s m).st ≠ .halted) : exec (.stepStart m) s = .next (stepBegun s m at') := by
  have stays : (!(millOf s m).inStep || decide ((millOf s m).st = .halted)) = false := by simp [stepping, unhalted]
  change execStepStart m s = _
  unfold execStepStart
  simp only [due, stays]
  rfl

section
variable (s : State) (m at' : Nat)

@[simp] theorem stepBegun_mem : (stepBegun s m at').mem = s.mem := by simp [stepBegun]

theorem stepBegun_cores : (stepBegun s m at').cores =
    ((coresOf s m).foldl (startCore (millOf s m).entry (millOf s m).arg) (advanceTo s at')).cores := by
  rw [stepBegun, refresh_cores, updMill_cores]

theorem stepBegun_mills : (stepBegun s m at').mills = (updMill s m startMill).mills := by
  simp [stepBegun, updMill]

theorem stepBegun_time (runs : timeRuns s = true) : (stepBegun s m at').glb.time = max s.glb.time at' := by
  have time : (stepBegun s m at').glb.time = (advanceTo s at').glb.time := by simp [stepBegun]
  rw [time, advanceTo, pass_time, if_pos runs]
  omega

end

theorem stepStartHolds : StepStartHolds := by
  intro s m at' due stepping unhalted opened
  refine .of_eq (exec_stepStart due stepping unhalted) ?_
  have own : millOf (stepBegun s m at') m = startMill (millOf s m) := by
    rw [millOf, stepBegun_mills]
    exact millOf_updMill_same ..
  have st : (millOf (stepBegun s m at') m).st = .running := by
    rw [own]
    exact if_neg (by simp [opened])
  refine ⟨stepBegun_time s m at', stepBegun_mem .., st, by rw [own]; rfl, fun k other => ?_, fun c mem => ?_, fun c out => ?_⟩
  · rw [millOf, stepBegun_mills]
    exact millOf_updMill_other _ _ _ _ other
  · have b := (begins_foldl_startCore (millOf s m).entry (millOf s m).arg _ (advanceTo s at') mem).of_kept (kept_advanceTo s at' c)
    rw [coreOf, stepBegun_cores]
    exact ⟨b.pc, b.run, b.cycles, b.evs, b.cnts, b.stack, b.arg, b.scalars, b.handles, b.windows, b.copyHandles, b.copyWindows, b.engs,
      b.sends, b.flume, b.acquired⟩
  · rw [coreOf, stepBegun_cores]
    exact coreOf_foldl_of_notMem (startCore_other _ _) _ _ out

/-! ### STEP_RETIRE -/

/-- Core `c` is outside a step, with what it now holds as its copy (R148, R201). -/
def leaveStep (s : State) (c : Nat) : State :=
  updCore s c fun k =>
    { k with residue := false, arms := [], scc := { k.scc with run := .outside }
             copy := { handles := k.handles, windows := k.windows, regs := Tbl.set 0 k.scc.regs 0 0 } }

theorem leaveStep_other (s : State) (c d : Nat) (h : d ≠ c) : coreOf (leaveStep s c) d = coreOf s d := coreOf_updCore_other _ _ _ _ h

theorem kept_leaveStep (s : State) (c : Nat) : (coreOf s c).Kept (coreOf (leaveStep s c) c) := by
  rw [leaveStep, coreOf_updCore_same]
  exact ⟨rfl, rfl, fun _ _ => rfl⟩

theorem foldl_leaveStep_mem (cs : List Nat) (s : State) : (cs.foldl leaveStep s).mem = s.mem := by
  induction cs generalizing s with
  | nil => rfl
  | cons c cs ih => exact ih (leaveStep s c)

theorem foldl_leaveStep_mills (cs : List Nat) (s : State) : (cs.foldl leaveStep s).mills = s.mills := by
  induction cs generalizing s with
  | nil => rfl
  | cons c cs ih => exact ih (leaveStep s c)

/-- The cores of a step that retires are outside a step, with their holdings copied. -/
theorem coreOf_foldl_leaveStep (cs : List Nat) (s : State) {c : Nat} (mem : c ∈ cs) :
    (coreOf (cs.foldl leaveStep s) c).scc.run = .outside ∧ (coreOf (cs.foldl leaveStep s) c).copy.handles = (coreOf s c).handles ∧
    (coreOf (cs.foldl leaveStep s) c).copy.windows = (coreOf s c).windows := by
  obtain ⟨u, kept, last⟩ := coreOf_foldl_of_mem leaveStep_other kept_leaveStep cs s mem
  rw [last, leaveStep, coreOf_updCore_same]
  exact ⟨rfl, kept.handles, kept.windows⟩

/-- The batch of mill `m`, when the Millpond has rung for it, has its step retired (R301). -/
def batchRetired (s : State) (m : Nat) : State :=
  if (batchOf s m).rung then updBatch s m fun b => { b with retired := true, time := s.glb.time } else s

section
variable (s : State) (m : Nat)

theorem batchRetired_mem : (batchRetired s m).mem = s.mem := by
  unfold batchRetired; split <;> rfl
theorem batchRetired_mills : (batchRetired s m).mills = s.mills := by
  unfold batchRetired; split <;> rfl
theorem batchRetired_cores : (batchRetired s m).cores = s.cores := by
  unfold batchRetired; split <;> rfl

end

/-- A step owner whose step retires. -/
def retireMill (k : Mill) : Mill :=
  { k with steps := k.steps + 1, f := 0, inStep := false, ended := [], reset2 := false, startAt := none
           st := if k.dstate = .draining then .fenced else .idle }

theorem retireMill_of_opened {k : Mill} (opened : k.dstate = .opened) : retireMill k =
    { k with st := .idle, steps := k.steps + 1, f := 0, inStep := false, ended := [], reset2 := false, startAt := none } := by
  simp [retireMill, opened]

/-- The state in which the step of owner `m` has retired, before a drain that waits for it ends. -/
def stepRetired (s : State) (m : Nat) : State := updMill (batchRetired ((coresOf s m).foldl leaveStep s) m) m retireMill

theorem stepRetired_mills (s : State) (m : Nat) : (stepRetired s m).mills = (updMill s m retireMill).mills :=
  congrArg (fun t : Tbl Mill => Tbl.upd ({} : Mill) t m retireMill) ((batchRetired_mills _ _).trans (foldl_leaveStep_mills _ _))

theorem stepRetired_cores (s : State) (m : Nat) : (stepRetired s m).cores = ((coresOf s m).foldl leaveStep s).cores := by
  rw [stepRetired, updMill_cores, batchRetired_cores]

theorem stepRetired_mem (s : State) (m : Nat) : (stepRetired s m).mem = s.mem := by
  rw [stepRetired, updMill_mem, batchRetired_mem, foldl_leaveStep_mem]

theorem millOf_stepRetired_same (s : State) (m : Nat) : millOf (stepRetired s m) m = retireMill (millOf s m) := by
  rw [millOf, stepRetired_mills]
  exact millOf_updMill_same ..

theorem millOf_stepRetired_other (s : State) (m k : Nat) (other : k ≠ m) : millOf (stepRetired s m) k = millOf s k := by
  rw [millOf, stepRetired_mills]
  exact millOf_updMill_other _ _ _ _ other

/-- The retirement of a step that does not drain. -/
theorem retire_of_opened {s : State} {m : Nat} (opened : (millOf s m).dstate = .opened) : retire s m = refresh (stepRetired s m) := by
  have stays : (millOf (stepRetired s m) m).dstate = .opened := by
    rw [millOf_stepRetired_same]
    exact opened
  have cases : retire s m = if (millOf (stepRetired s m) m).dstate = .draining && !(batchOf ((coresOf s m).foldl leaveStep s) m).rung
      then endDrain (stepRetired s m) m else refresh (stepRetired s m) := rfl
  rw [cases, stays]
  rfl

theorem exec_stepRetire_of_allEnded {s : State} {m : MillId} (done : allEnded s m = true) :
    exec (.stepRetire m) s = .next (retire s m) := congrArg _ (if_pos done)

theorem exec_stepRetire_of_waits {s : State} {m : MillId} (waits : allEnded s m = false) :
    exec (.stepRetire m) s = .next s := congrArg _ (if_neg (by simp [waits]))

theorem stepRetireHolds : StepRetireHolds := by
  intro s m
  refine ⟨fun stepping undue running opened all => ?_, fun ⟨c, mem, notYet⟩ => ?_⟩
  · have done : allEnded s m = true := by
      simpa [allEnded, stepping, undue, running] using all
    refine .of_eq (exec_stepRetire_of_allEnded done) ?_
    rw [retire_of_opened opened]
    refine ⟨?_, fun k other => ?_, ?_, fun c mem => ?_, fun c out => ?_⟩
    · rw [millOf, refresh_mills]
      exact (millOf_stepRetired_same s m).trans (retireMill_of_opened opened)
    · rw [millOf, refresh_mills]
      exact millOf_stepRetired_other s m k other
    · rw [refresh_mem, stepRetired_mem]
    · rw [coreOf, refresh_cores, stepRetired_cores]
      exact coreOf_foldl_leaveStep _ s mem
    · rw [coreOf, refresh_cores, stepRetired_cores]
      exact coreOf_foldl_of_notMem leaveStep_other _ s out
  · refine exec_stepRetire_of_waits ?_
    have reports : (coresOf s m).all (millOf s m).ended.contains = false := by
      rw [List.all_eq_false]
      exact ⟨c, mem, by simpa using notYet⟩
    simp [allEnded, reports]

/-- Settles O28: each core acts on itself alone, so the members of the list begin or leave the step with what they kept, and no other core
acts. -/
theorem stepStartAndRetire : Obligations.StepStartAndRetire := ⟨stepStartHolds, stepRetireHolds⟩
/-! ## A load that waits at the RIF (05 R185, R187; 06 R208, R243) -/

/-- The word of LD s1, H3[s2] (R209). -/
def heldWord : Nat := 0x0D + 64 * 1 + 2048 * 3 + 131072 * 2

/-- Cores 5 and 6 share a step whose chip shared memory has a slice of 64 KiB on each. A packet of a SEND of core 5 to core 6 is under way on
plane K, so that an access of core 5 to the slice of core 6 waits (R185). Core 5 stands at bundle 0 of a program of `len` bundles, which holds
LD s1, H3[s2] in its control slot; the address lies in the slice of core 6, and an earlier load into s1 has yet to bring its value (R217). -/
def heldLoad (len : Fin 2) : State :=
  { State.reset with
    glb := { st := .running, busMaster := true, time := 5000, fw := true }
    regions := [(0, { org := { shape := .full }, pwr := { rails := 15 }, race := { hub := true } })]
    mills := [(7, { st := .running, cfg := { owner := true, slot := 3, x0 := 5, w := 2, h := 1, csm := 0x10000 }, inStep := true })]
    race := { packets := [{ id := 0, acc := 0, plane := .k, kind := .write, src := .core 5, dst := .core 6, dest := at_ 34 6 }] }
    cores := [(5, { len := len.val
                    scc := { run := .running, cycles := 3, regs := [(2, 0x10000)], pend := [(1, 10, true)] }
                    handles := [(3, { w0 := 0x10000033, w1 := 0x2000 })]
                    sends := [{ id := 1, seq := 0, pc := 0, ev := 0, evEn := false, cnt := 0, cntEn := false }] })]
    prog := Memory.put [] (progAddr 5) (leBytes 4 heldWord) }

theorem decodeSlot_heldWord : decodeSlot 5 0 heldWord = some (.ld 5 1 3 2 []) := by decide +kernel

/-- The load waits: its address is the first of the slice of core 6. -/
theorem csmWaits_heldLoad : ∀ len, csmWaits (heldLoad len) 5 3 0x10000 false = true := by decide +kernel

theorem mayIssue_heldLoad : ∀ len, mayIssue (heldLoad len) 5 = true := by decide +kernel

theorem inTurn_heldLoad : ∀ len, inTurn (heldLoad len) 5 0 (.ld 5 1 3 2 []) = true := by decide +kernel

/-- The bundle stalls on s1, which the earlier load is to bring (cause 1). -/
theorem bundleStall_heldLoad : ∀ len, bundleStall (heldLoad len) 5 = some (.scalar, 1, 1) := by decide +kernel

/-- The load waits at the RIF, and the command does nothing. -/
theorem exec_heldLoad (len : Fin 2) : exec (.ld 5 1 3 2 []) (heldLoad len) = .next (heldLoad len) := if_pos (csmWaits_heldLoad len)

/-- A SEND is under way, so that no unit of the core has just failed. -/
theorem heldLoad_ne_failUnit (len : Fin 2) (u : State) (un op pc : Nat) (f : Fail) : heldLoad len ≠ failUnit u 5 un op pc f := by
  intro same
  obtain ⟨-, sends, -⟩ := same ▸ quiet_failUnit u 5 un op pc f
  cases sends

/-- Refutes O8: past the end of the program (here a core without a program) an LD to another core's slice of chip shared memory that waits
at the RIF (R185) does nothing in the model, where the first clause has the control core fail with FORMAT at once; only the last clause leaves
such accesses out. -/
theorem not_returnStackAndProgramEnd : ¬ Obligations.ReturnStackAndProgramEnd := by
  intro h
  obtain ⟨past, -⟩ := h (heldLoad 0) 5 0 0 0 0
  obtain ⟨u, -, fails⟩ := past (mayIssue_heldLoad 0) (Nat.zero_le _) 0 heldWord _ decodeSlot_heldWord rfl (.inl rfl)
  exact heldLoad_ne_failUnit 0 _ _ _ _ _ (Host.Outcome.next.inj ((exec_heldLoad 0).symm.trans fails))

/-- Refutes O15: a stalled bundle (here on a scalar that an earlier load is to bring) counts no core cycle in the model when its control slot
holds an LD that waits at the RIF (R185), where the last clause of the waits has any stalled bundle count one, whatever its slots hold. -/
theorem not_waitsAndTokens : ¬ Obligations.WaitsAndTokens := by
  rintro ⟨waits, -⟩
  obtain ⟨-, -, -, -, -, stalls⟩ := waits (heldLoad 1) 5 0 0 0 0
  obtain ⟨t, eq, -, counted⟩ := stalls 0 heldWord _ _ decodeSlot_heldWord rfl (.inr rfl) (mayIssue_heldLoad 1) Nat.one_pos
    (inTurn_heldLoad 1) rfl (bundleStall_heldLoad 1) (by decide)
  obtain rfl := Host.Outcome.next.inj ((exec_heldLoad 1).symm.trans eq)
  exact absurd (congrArg (fun k : Core => k.scc.cycles) counted) (by decide)

end Sys2Proof.Machine

namespace Sys2Proof.Machine

/-! ## A watchdog whose time stands still (13 R501, 15 R565) -/

/-- STANDBY, in which GLB_TIME does not count (R565), with the step of a mill of one core RUNNING and the core's stall timer at 0. -/
def stoppedClock : State :=
  { State.reset with
    glb := { st := .standby }
    mills := [(0, { st := .running, inStep := true, cfg := { owner := true, w := 1, h := 1 } })]
    cores := [(0, { scc := { run := .running } })] }

theorem ownerOf_stoppedClock : ownerOf stoppedClock 0 = some 0 := by decide +kernel

theorem regionsOf_stoppedClock : regionsOf stoppedClock 0 = [0] := by decide +kernel

/-- Where GLB_TIME stands the core's stall timer stays at 0 (R501), however late the watchdog expires: here 100 ms, TIMEOUT at reset. -/
theorem laggards_stoppedClock : laggards (advanceTo stoppedClock (0 + 1000 * 0x0186A0)) 0 = [] := by decide +kernel

/-- Refutes O29: the statement asks of no state that its GLB_TIME runs. Where it stands (here STANDBY, with a step RUNNING) a watchdog that
expires finds no stall timer above 0, so that there is no first laggard for the watchdog register to name; the model writes the number of the
core of the expiry there. -/
theorem not_failuresAndRecovery : ¬ Obligations.FailuresAndRecovery := by
  rintro ⟨watchdog, -⟩
  obtain ⟨-, t, -, -, -, first, -⟩ := watchdog stoppedClock 0 0 ownerOf_stoppedClock rfl rfl rfl rfl (by decide)
    (by rw [regionsOf_stoppedClock]; decide)
  exact absurd (first.trans (congrArg List.head? laggards_stoppedClock)) (Option.some_ne_none _)

end Sys2Proof.Machine

namespace Sys2Proof.Machine

/-! ## The mailbox (14 R536-R539) -/

/-! ### Numbered words -/

/-- A list of words as the mailbox keeps it: a table, numbered from `n` on, that leaves out the words 0. -/
def numbered (n : Nat) (ws : List Word) : Tbl Word := ((ws.zipIdx n).filter fun p => p.1 ≠ 0).map fun p => (p.2, p.1)

theorem numbered_cons (n : Nat) (w : Word) (ws : List Word) :
    numbered n (w :: ws) = if w = 0 then numbered (n + 1) ws else (n, w) :: numbered (n + 1) ws := by
  rw [numbered, List.zipIdx_cons, List.filter_cons]
  by_cases zero : w = 0
  · rw [if_neg (by simpa using zero), if_pos zero]; rfl
  · rw [if_pos (by simpa using zero), if_neg zero]; rfl

theorem get_numbered (n : Nat) (ws : List Word) (k : Nat) : Tbl.get 0 (numbered n ws) k = if n ≤ k then ws.getD (k - n) 0 else 0 := by
  induction ws generalizing n k with
  | nil => simp [numbered, Tbl.get_nil]
  | cons w ws ih =>
    have first : Tbl.get 0 (numbered n (w :: ws)) k = if n = k then w else Tbl.get 0 (numbered (n + 1) ws) k := by
      rw [numbered_cons]
      by_cases zero : w = 0
      · rw [if_pos zero]
        split
        · next same => rw [ih, if_neg (by omega), zero]
        · rfl
      · rw [if_neg zero, Tbl.get_cons]
    rw [first, ih]
    obtain low | rfl | high := Nat.lt_trichotomy k n
    · rw [if_neg (by omega), if_neg (by omega), if_neg (by omega)]
    · simp
    · rw [if_neg (by omega), if_pos (by omega), if_pos (by omega), show k - n = (k - (n + 1)) + 1 by omega, List.getD_cons_succ]

/-- Numbered from 0, entry `k` of the table is the `k`-th word. -/
theorem get_numbered_zero (ws : List Word) (k : Nat) : Tbl.get 0 (numbered 0 ws) k = ws.getD k 0 := by
  rw [get_numbered, if_pos (Nat.zero_le k), Nat.sub_zero]

/-! ### A command that the processor takes up -/

/-- The host has written the command of OP `op` with its tag and arguments and its GO, and the mailbox is BUSY. -/
def called (s : State) (op : Nat) (tag : BitVec 16) (args : List Word) : State :=
  { s with mlr := { s.mlr with op := BitVec.ofNat 8 op, tag := tag, busy := true
                               args := numbered 0 args } }

@[simp] theorem mlrArg_called (s : State) (op : Nat) (tag : BitVec 16) (args : List Word) (k : Nat) :
    mlrArg (called s op tag args) k = (args.getD k 0).toNat :=
  congrArg BitVec.toNat (get_numbered_zero args k)

/-- Check 4 of R539, and the command. -/
def runSized (s : State) (op : Nat) (a1 a2 : DmaAnswer) : State :=
  match outputLen s op with
  | some (need, cap) => if cap < need then mlrDone s .length [BitVec.ofNat 64 need] else mlrRun s op a1 a2
  | none => mlrRun s op a1 a2

theorem runSized_of_none {s : State} {op : Nat} (h : outputLen s op = none) (a1 a2 : DmaAnswer) : runSized s op a1 a2 = mlrRun s op a1 a2 := by
  simp only [runSized, h]

section
variable {s : State} {op : Nat} {tag : BitVec 16} {args : List Word} {a1 a2 : DmaAnswer}

theorem mailbox_of_unreached (h : hostReach s = false) : mailbox s op tag args a1 a2 = .next s := by
  simp [mailbox, h]

theorem mailbox_of_busy (reach : hostReach s = true) (busy : s.mlr.busy = true) :
    mailbox s op tag args a1 a2 = .next (logHost s .busy 0x10048 none) := by
  simp [mailbox, mlrGo, reach, busy]

theorem mailbox_of_unserved (reach : hostReach s = true) (free : s.mlr.busy = false) (fw : s.glb.fw = false) (st : s.glb.st ≠ .boot) :
    mailbox s op tag args a1 a2 = .next (called s op tag args) := by
  simp [mailbox, mlrGo, called, numbered, reach, free, fw, st]

/-- The checks of R539 in their order, where a processor serves the mailbox. -/
theorem mailbox_of_served (served : MailboxServed s) (small : op < 256) {masks : List Nat} (named : argMasks op = some masks) :
    mailbox s op tag args a1 a2 = .next (
      let u := called s op tag args
      if !stateAccepts u op then mlrDone u .state [] else if !argsOk u op masks then mlrDone u .format [] else runSized u op a1 a2) := by
  obtain ⟨reach, free, serves, rom⟩ := served
  have awake : ¬(decide (s.glb.st = .boot) && s.sec.romDig.isEmpty) = true := by
    by_cases boot : s.glb.st = .boot
    · simp [rom boot]
    · simp [boot]
  have processor : ¬(!s.glb.fw && decide (s.glb.st ≠ .boot)) = true := by
    obtain fw | boot := serves <;> simp [*]
  have byte : (BitVec.ofNat 8 op).toNat = op := by rw [BitVec.toNat_ofNat, Nat.mod_eq_of_lt small]
  have go : mailbox s op tag args a1 a2 = .next (mlrGo
      { s with mlr := { s.mlr with op := BitVec.ofNat 8 op, tag := tag, args := numbered 0 args } } a1 a2) := by
    simp only [mailbox, reach, free, Bool.not_true, Bool.false_eq_true, if_false]
    rfl
  rw [go, mlrGo, if_neg (by simp [free])]
  dsimp only
  rw [if_neg awake, byte, if_neg processor, named]
  rfl

/-! ### The checks (R539) -/

theorem stateAccepts_iff (s : State) (op : Nat) : stateAccepts s op = true ↔ Accepted s op := by
  have up : isUp s = true ↔ s.glb.st = .ready ∨ s.glb.st = .loaded ∨ s.glb.st = .running ∨ s.glb.st = .degraded := by
    unfold isUp; cases s.glb.st <;> simp
  unfold Accepted
  dsimp only
  rw [← up]
  unfold stateAccepts
  split
  · simp
  · simp
  · simp [or_assoc]
  · simp [or_assoc]
  · cases s.bst.shut <;> simp [or_iff_not_imp_left]
  · next boot ready fence unfence wake => rw [if_neg boot, if_neg ready, if_neg (not_or.2 ⟨fence, unfence⟩), if_neg wake]

/-- What a command asks of its first argument beside the bits that the table of R538 names (check 3 of R539). -/
def argInRange (s : State) (op : Nat) : Bool :=
  match op with
  | 0x40 => decide (200 ≤ mlrArg s 0) && decide (mlrArg s 0 ≤ 3000)
  | 0x41 => decide (mlrArg s 0 ≤ 5)
  | 0x42 => decide (mlrArg s 0 ≠ 3)
  | _ => true

theorem argsOk_eq (s : State) (op : Nat) (masks : List Nat) : argsOk s op masks =
    ((List.range 8).all (fun k => mlrArg s k &&& (2 ^ 64 - 1 - masks.getD k 0) = 0) && argInRange s op) := rfl

theorem argsOk_of_not_named {masks : List Nat} (named : argMasks op = some masks) (bad : ¬ArgumentsNamed op args) :
    argsOk (called s op tag args) op masks = false := by
  by_contra ok
  rw [Bool.not_eq_false, argsOk_eq, Bool.and_eq_true, List.all_eq_true] at ok
  refine bad ⟨masks, named, fun k small => ?_⟩
  have clear := ok.1 k (List.mem_range.2 small)
  rw [mlrArg_called] at clear
  exact of_decide_eq_true clear

/-- A number below 2^w has no bit outside a mask of `w` ones. -/
theorem and_mask_eq_zero {v w : Nat} (h : v < 2 ^ w) : v &&& (2 ^ 64 - 1 - (2 ^ w - 1)) = 0 := by
  have rest : 2 ^ 64 - 1 - (2 ^ w - 1) = 2 ^ w * (2 ^ (64 - w) - 1) := by
    obtain low | high := Nat.le_total w 64
    · rw [Nat.mul_sub, ← Nat.pow_add, Nat.add_sub_cancel' low]
      have := Nat.two_pow_pos w
      omega
    · have := Nat.pow_le_pow_right (show 0 < 2 by decide) high
      rw [Nat.sub_eq_zero_of_le high, Nat.sub_eq_zero_of_le (by omega), Nat.pow_zero, Nat.sub_self, Nat.mul_zero]
  refine Nat.eq_of_testBit_eq fun i => ?_
  rw [rest, Nat.testBit_and, Nat.testBit_two_pow_mul, Nat.zero_testBit]
  by_cases above : w ≤ i
  · rw [Nat.testBit_lt_two_pow (h.trans_le (Nat.pow_le_pow_right (by decide) above)), Bool.false_and]
  · rw [decide_eq_false above, Bool.false_and, Bool.and_false]

/-- Each argument fits in a field of its width from bit 0 on. -/
def Fits (args : List Word) (widths : List Nat) : Prop := ∀ k, (args.getD k 0).toNat < 2 ^ widths.getD k 0

theorem fits_nil : Fits [] [] := fun _ => by simp

theorem Fits.cons {a : Word} {w : Nat} {ws : List Nat} (rest : Fits args ws) (first : a.toNat < 2 ^ w) : Fits (a :: args) (w :: ws)
  | 0 => first
  | k + 1 => rest k

/-- Fields from bit 0 on are what R538 names of the arguments. -/
theorem argsOk_of_widths (widths : List Nat) (fits : Fits args widths)
    (range : argInRange (called s op tag args) op = true) :
    argsOk (called s op tag args) op (widths.map fun w => 2 ^ w - 1) = true := by
  rw [argsOk_eq, range, Bool.and_true, List.all_eq_true]
  intro k _
  have mask : (widths.map fun w => 2 ^ w - 1).getD k 0 = 2 ^ widths.getD k 0 - 1 := List.getD_map (d := 0) (f := fun w => 2 ^ w - 1) ..
  rw [mlrArg_called, mask]
  exact decide_eq_true (and_mask_eq_zero (fits k))

end

/-! ### Which commands the mailbox has -/

theorem exec_of_mailboxCall {i : Instr} {op : Nat} {tag : BitVec 16} {args : List Word} (h : mailboxCall i = some (op, tag, args)) (s : State) :
    op < 256 ∧ (∃ masks, argMasks op = some masks) ∧ ∃ a1 a2, exec i s = mailbox s op tag args a1 a2 := by
  unfold mailboxCall at h
  split at h <;> cases h
  all_goals exact ⟨by decide, ⟨_, rfl⟩, _, _, rfl⟩

/-! ### How a command ends -/

theorem Ended.congr {t u : State} {op : Nat} {tag : BitVec 16} {code : Code} (h : Ended u op tag code) (mlr : t.mlr = u.mlr) :
    Ended t op tag code := by rwa [Ended, mlr]

theorem ended_called (s : State) (op : Nat) (tag : BitVec 16) (args : List Word) (code : Code) (res : List Word) :
    Ended (mlrDone (called s op tag args) code res) op tag code := by
  simp [Ended, mlrDone, called]

/-- A command that ends with a code, and does no more. -/
theorem ends_called (s : State) (op : Nat) (tag : BitVec 16) (args : List Word) (code : Code) (res : List Word) :
    let t := mlrDone (called s op tag args) code res
    Ended t op tag code ∧ NoEffect s t ∧ t.pwr = s.pwr ∧ t.bst = s.bst ∧ t.hop = s.hop ∧ t.glb.st = s.glb.st :=
  ⟨ended_called .., noEffect_mlrDone (called s op tag args) .., by simp [mlrDone, called], by simp [mlrDone, called],
    by simp [mlrDone, called], by simp [mlrDone, called]⟩

theorem mailboxChecksHolds : MailboxChecksHolds := by
  intro s i op tag args call
  obtain ⟨small, ⟨masks, named⟩, a1, a2, run⟩ := exec_of_mailboxCall call s
  have accepts : stateAccepts (called s op tag args) op = stateAccepts s op := rfl
  rw [run]
  refine ⟨fun reach busy => .of_eq (mailbox_of_busy reach busy) ?_, fun served refused => .of_eq (mailbox_of_served served small named) ?_,
    fun served accepted unnamed => .of_eq (mailbox_of_served served small named) ?_,
    fun reach free fw st => .of_eq (mailbox_of_unserved reach free fw st) ⟨rfl, ⟨rfl, rfl, rfl, rfl, rfl⟩, rfl⟩, mailbox_of_unreached⟩
  · refine ⟨by simp, by simp [NoEffect], ?_⟩
    unfold Logged
    rw [logHost, get_ring_logRec]
    exact ⟨rfl, rfl, rfl⟩
  · obtain ⟨ended, spared, pwr, -, -, st⟩ := ends_called s op tag args .state []
    simp only [accepts, Bool.eq_false_iff.2 fun h => refused ((stateAccepts_iff s op).1 h), Bool.not_false, if_true]
    exact ⟨ended, spared, pwr, st⟩
  · obtain ⟨ended, spared, pwr, -⟩ := ends_called s op tag args .format []
    simp only [accepts, (stateAccepts_iff s op).2 accepted, argsOk_of_not_named named unnamed, Bool.not_true, Bool.not_false,
      Bool.false_eq_true, if_true, if_false]
    exact ⟨ended, spared, pwr⟩

/-! ### A command that is carried out -/

section
variable {s : State} (free : MailboxFree s)
include free

theorem served_of_free : MailboxServed s := by
  obtain ⟨reach, idle, fw, up⟩ := free
  refine ⟨reach, idle, .inl fw, fun boot => ?_⟩
  simp [isUp, boot] at up

variable {op : Nat} {tag : BitVec 16} {args : List Word} {a1 a2 : DmaAnswer}

/-- A command that passes the common checks and writes nothing to host memory is carried out. -/
theorem mailbox_runs (small : op < 256) (widths : List Nat) (named : argMasks op = some (widths.map fun w => 2 ^ w - 1))
    (accepts : stateAccepts s op = true) (fits : Fits args widths)
    (range : argInRange (called s op tag args) op = true) (silent : outputLen (called s op tag args) op = none) :
    mailbox s op tag args a1 a2 = .next (mlrRun (called s op tag args) op a1 a2) := by
  have accepts' : stateAccepts (called s op tag args) op = true := accepts
  rw [mailbox_of_served (served_of_free free) small named]
  simp only [accepts', argsOk_of_widths widths fits range, Bool.not_true, Bool.false_eq_true, if_false, runSized_of_none silent]

/-- A first argument out of its range ends the command with FORMAT. -/
theorem mailbox_format (small : op < 256) {masks : List Nat} (named : argMasks op = some masks) (accepts : stateAccepts s op = true)
    (range : argInRange (called s op tag args) op = false) :
    mailbox s op tag args a1 a2 = .next (mlrDone (called s op tag args) .format []) := by
  have accepts' : stateAccepts (called s op tag args) op = true := accepts
  rw [mailbox_of_served (served_of_free free) small named]
  simp only [accepts', argsOk_eq, range, Bool.and_false, Bool.not_true, Bool.not_false, Bool.false_eq_true, if_false, if_true]

end

/-! ### SET_CAP and SET_PRIO (12 R455) -/

/-- A command that changes the power registers only. -/
theorem ends_setPwr (s : State) (op : Nat) (tag : BitVec 16) (args : List Word) (p : Pwr) :
    let t := mlrDone (setPwr (called s op tag args) p) .ok []
    Ended t op tag .ok ∧ t.pwr = p ∧ NoEffect s t :=
  ⟨Ended.congr (ended_called s op tag args .ok []) (by simp [mlrDone, setPwr]), by simp [mlrDone, setPwr],
    noEffect_mlrDone (setPwr (called s op tag args) p) ..⟩

theorem exec_setCap {s : State} (free : MailboxFree s) (tag : BitVec 16) {v : Word} (low : 200 ≤ v.toNat) (high : v.toNat ≤ 3000) :
    exec (.setCap tag v) s = .next (mlrDone (setPwr (called s 0x40 tag [v]) { s.pwr with cap := BitVec.ofNat 12 v.toNat }) .ok []) := by
  have run : mlrRun (called s 0x40 tag [v]) 0x40 .later .later = mlrDone (setPwr (called s 0x40 tag [v])
      { s.pwr with cap := BitVec.ofNat 12 (mlrArg (called s 0x40 tag [v]) 0) }) .ok [] := rfl
  rw [mlrArg_called] at run
  exact (mailbox_runs (op := 0x40) free (by decide) [12] rfl free.2.2.2 (fits_nil.cons (by omega)) (by simp [argInRange, low, high]) rfl).trans
    (congrArg _ run)

theorem exec_setPrio {s : State} (free : MailboxFree s) (tag : BitVec 16) {v : Word} (high : v.toNat ≤ 5) :
    exec (.setPrio tag v) s = .next (mlrDone (setPwr (called s 0x41 tag [v]) { s.pwr with prio := BitVec.ofNat 3 v.toNat }) .ok []) := by
  have run : mlrRun (called s 0x41 tag [v]) 0x41 .later .later = mlrDone (setPwr (called s 0x41 tag [v])
      { s.pwr with prio := BitVec.ofNat 3 (mlrArg (called s 0x41 tag [v]) 0) }) .ok [] := rfl
  rw [mlrArg_called] at run
  exact (mailbox_runs (op := 0x41) free (by decide) [3] rfl free.2.2.2 (fits_nil.cons (by omega)) (by simp [argInRange, high]) rfl).trans (congrArg _ run)

theorem capAndPriorityHolds : CapAndPriorityHolds := by
  intro s tag v free
  have up := free.2.2.2
  refine ⟨fun low high => .of_eq (exec_setCap free tag low high) (ends_setPwr ..), fun out => ?_,
    fun high => .of_eq (exec_setPrio free tag high) (ends_setPwr ..), fun out => ?_⟩
  · obtain ⟨ended, -, pwr, -⟩ := ends_called s 0x40 tag [v] .format []
    refine .of_eq (mailbox_format free (by decide) rfl up ?_) ⟨ended, pwr⟩
    simp [argInRange]
    omega
  · obtain ⟨ended, -, pwr, -⟩ := ends_called s 0x41 tag [v] .format []
    refine .of_eq (mailbox_format free (by decide) rfl up ?_) ⟨ended, pwr⟩
    simp [argInRange, out]

/-! ### SHUTDOWN, PARK and WAKE (12 R474, 13 R519, R524) -/

theorem toNat_beq_one (a : Word) : (a.toNat == 1) = decide (a = 1) := by
  rw [Bool.eq_iff_iff, beq_iff_eq, decide_eq_true_iff, BitVec.toNat_eq]
  rfl

theorem exec_shutdown {s : State} (free : MailboxFree s) (tag : BitVec 16) {a : Word} (flag : a.toNat ≤ 1) :
    exec (.shutdown tag a) s = .next (beginShut (called s 0x32 tag [a]) false (decide (a = 1))) := by
  have run : mlrRun (called s 0x32 tag [a]) 0x32 .later .later =
      beginShut (called s 0x32 tag [a]) false (mlrArg (called s 0x32 tag [a]) 0 == 1) := rfl
  rw [mlrArg_called, List.getD_cons_zero, toNat_beq_one] at run
  exact (mailbox_runs (op := 0x32) free (by decide) [1] rfl free.2.2.2 (fits_nil.cons (by omega)) rfl rfl).trans (congrArg _ run)

theorem exec_park {s : State} (free : MailboxFree s) (tag : BitVec 16) {a : Word} (flag : a.toNat ≤ 1) :
    exec (.park tag a) s = .next (beginShut (called s 0x30 tag [a]) true (decide (a = 1))) := by
  have run : mlrRun (called s 0x30 tag [a]) 0x30 .later .later =
      beginShut (called s 0x30 tag [a]) true (mlrArg (called s 0x30 tag [a]) 0 == 1) := rfl
  rw [mlrArg_called, List.getD_cons_zero, toNat_beq_one] at run
  exact (mailbox_runs (op := 0x30) free (by decide) [1] rfl free.2.2.2 (fits_nil.cons (by omega)) rfl rfl).trans (congrArg _ run)

theorem exec_wake {s : State} (free : MailboxFree s) (tag : BitVec 16) (shut : s.bst.shut = .draining) (whole : s.bst.isPark = false) :
    exec (.wake tag) s = .next (cancelShut (called s 0x31 tag [])) := by
  refine mailbox_runs free (by decide) [] rfl ?_ fits_nil rfl rfl
  simp [stateAccepts, free.2.2.2, shut, whole]
 
/-- A shut-down or a park that cannot begin: the Hopper is at work, or another is under way (log entry 66). -/
theorem beginShut_refused {s : State} (h : s.hop.op ≠ .idle ∨ s.bst.shut ≠ .none) (park test : Bool) :
    beginShut s park test = mlrDone s (if s.hop.op ≠ .idle then .busy else .state) [] := by
  by_cases idle : s.hop.op = .idle <;> simp_all [beginShut]

theorem beginShut_drains {s : State} (idle : s.hop.op = .idle) (shut : s.bst.shut = .none) {park test : Bool} (drains : park = false ∨ test = true) :
    beginShut s park test =
      { mlrDone s .ok [] with bst := { (mlrDone s .ok []).bst with shut := .draining, isPark := park, test := test, run := [] } } := by
  have stays : ¬(park && !test) = true := by obtain rfl | rfl := drains <;> simp
  simp only [beginShut, idle, shut, ne_eq, not_true_eq_false, if_false, if_neg stays]

/-- A table from which the entries of some keys are left out reads the others as before. -/
theorem Tbl.get_filter {α : Type} (d : α) (t : Tbl α) {keep : Nat → Bool} {k : Nat} (kept : keep k = true) :
    Tbl.get d (t.filter fun p => keep p.1) k = Tbl.get d t k := by
  induction t with
  | nil => rfl
  | cons p t ih =>
    obtain ⟨i, v⟩ := p
    rw [List.filter_cons]
    split
    · rw [Tbl.get_cons, Tbl.get_cons, ih]
    · next gone =>
      have other : i ≠ k := fun same => gone (by simpa [same] using kept)
      rw [ih, Tbl.get_cons, if_neg other]

/-- PARKED keeps the stacks (R474). -/
theorem readByte_powerDown_parked (s : State) (interlock : Bool) {c off : Nat} (core : c < 2 ^ 14) (inside : off < 2 ^ 28) :
    readByte (powerDown s true interlock) (coreAddr c 0 off) = readByte s (coreAddr c 0 off) := by
  refine Tbl.get_filter (keep := fun a => true && decide (a < 2 ^ 51) && decide (fld a 30 4 = 0)) 0 s.mem ?_
  have low : coreAddr c 0 off < 2 ^ 51 := by simp only [coreAddr, at_]; omega
  have stack : fld (coreAddr c 0 off) 30 4 = 0 := by simp only [coreAddr, at_, fld]; omega
  simp only [decide_eq_true low, decide_eq_true stack, Bool.and_self]

/-- A park without test of a device that holds no image and has no session: the rails go down at once (R474). -/
theorem beginShut_parks {s : State} (idle : s.hop.op = .idle) (shut : s.bst.shut = .none) (slots : s.hop.slots = [])
    (sessions : s.sluice.sessions = []) : ∃ u, u.mem = s.mem ∧ beginShut s true false = powerDown u true false := by
  let ended := mlrDone s .ok []
  let begun := { ended with bst := { ended.bst with shut := .draining, isPark := true, test := false, run := [] } }
  let next := { begun with bst := { begun.bst with shut := .unloading }, hop := { begun.hop with retain := [] } }
  have hop : ended.hop = s.hop := raiseIrq_hop ..
  have sluice : ended.sluice = s.sluice := raiseIrq_sluice ..
  have park : beginPark begun = parkNext next := if_neg (not_not.2 (hop ▸ idle))
  have empty : heldSlots next = [] := by
    have listed : next.hop.slots = [] := (congrArg (·.slots) hop).trans slots
    rw [heldSlots, listed]
    rfl
  have closed : closeSessions next (fun _ => true) .fenced = next := by
    have none : next.sluice.sessions = [] := (congrArg (·.sessions) sluice).trans sessions
    rw [closeSessions, none]
    rfl
  have down : parkNext next = powerDown next true false := by
    rw [parkNext, empty, show sortNat [] = [] from rfl]
    dsimp only
    rw [closed]
  refine ⟨next, raiseIrq_mem .., ?_⟩
  have begins : beginShut s true false = goOnShut (beginPark begun) := by
    simp only [beginShut, idle, shut, ne_eq, not_true_eq_false, if_false]
    rfl
  rw [begins, park, down]
  rfl

/-- WAKE while the steps of a shut-down retire: it ends, and its table is not CLEAN (R524). -/
theorem cancelShut_of_draining {s : State} (shut : s.bst.shut = .draining) :
    cancelShut s = mlrDone (storeSet s (fun _ => false) false) .ok [] := by
  simp only [cancelShut, shut]

theorem shutDownParkWakeHolds : ShutDownParkWakeHolds := by
  intro s tag free
  refine ⟨fun a flag bad => ⟨.of_eq (exec_shutdown free tag flag) ?_, .of_eq (exec_park free tag flag) ?_⟩,
    fun idle shut => ⟨fun a flag => .of_eq (exec_shutdown free tag flag) ?_, .of_eq (exec_park free tag (by decide)) ?_,
      fun slots sessions => .of_eq (exec_park free tag (by decide)) ?_, ?_⟩,
    fun shut whole => .of_eq (exec_wake free tag shut whole) ?_⟩
  · rw [beginShut_refused (by exact bad)]
    obtain ⟨ended, spared, -, bst, -⟩ := ends_called s 0x32 tag [a] (if s.hop.op ≠ .idle then .busy else .state) []
    exact ⟨ended, bst, spared⟩
  · rw [beginShut_refused (by exact bad)]
    obtain ⟨ended, spared, -, bst, -⟩ := ends_called s 0x30 tag [a] (if s.hop.op ≠ .idle then .busy else .state) []
    exact ⟨ended, bst, spared⟩
  · rw [beginShut_drains (by exact idle) (by exact shut) (.inl rfl)]
    obtain ⟨ended, spared, -⟩ := ends_called s 0x32 tag [a] .ok []
    exact ⟨ended, rfl, rfl, rfl, spared⟩
  · rw [show decide ((1 : Word) = 1) = true from rfl, beginShut_drains (by exact idle) (by exact shut) (.inr rfl)]
    obtain ⟨ended, spared, -⟩ := ends_called s 0x30 tag [1] .ok []
    exact ⟨ended, rfl, rfl, rfl, spared⟩
  · obtain ⟨u, mem, parks⟩ := beginShut_parks (s := called s 0x30 tag [0]) idle shut slots sessions
    rw [show decide ((0 : Word) = 1) = false from rfl, parks]
    refine ⟨rfl, rfl, rfl, fun c off core inside => ?_⟩
    rw [readByte_powerDown_parked u false core inside, readByte, mem]
    rfl
  · obtain ⟨ended, spared, -⟩ := ends_called s 0x31 tag [] .state []
    refine .of_eq ((mailbox_of_served (served_of_free free) (by decide) rfl).trans (congrArg _ (if_pos ?_))) ⟨ended, spared⟩
    simp [stateAccepts, called, shut]
  · rw [cancelShut_of_draining (by exact shut)]
    exact ⟨Ended.congr (ended_called s 0x31 tag [] .ok []) (by simp [mlrDone, storeSet]), by simp [mlrDone, storeSet], by simp [mlrDone, storeSet],
      noEffect_mlrDone (storeSet (called s 0x31 tag []) (fun _ => false) false) ..⟩

/-- Settles O35: the checks from the equation of `mailbox` for what each finds, the commands from what `mlrRun` does once the checks
pass. -/
theorem mailboxChecksAndPower : Obligations.MailboxChecksAndPower := ⟨mailboxChecksHolds, capAndPriorityHolds, shutDownParkWakeHolds⟩

end Sys2Proof.Machine

namespace Sys2Proof.Machine

/-! ## Layout images (07 R266-R276) -/

/-! ### How an operation of the Hopper ends (R278) -/

section
variable (s : State) (code : Code) (sect record : Nat)

theorem hopEnd_hop : (hopEnd s code sect record).hop = { s.hop with op := .idle, realms := [], err := code, sect := sect, record := record } := by
  unfold hopEnd
  dsimp only
  rw [raiseIrq_hop]
  split <;> rfl

@[simp] theorem hopEnd_mem : (hopEnd s code sect record).mem = s.mem := by
  unfold hopEnd
  dsimp only
  rw [raiseIrq_mem]
  split <;> rfl

@[simp] theorem hopEnd_mlr : (hopEnd s code sect record).mlr = s.mlr := by
  unfold hopEnd
  dsimp only
  rw [raiseIrq_mlr]
  split <;> rfl

theorem weightsStop_hop : (weightsStop s code sect record).hop =
    { s.hop with fetches := [], op := .idle, realms := [], err := code, sect := sect, record := record } := hopEnd_hop ..

@[simp] theorem weightsStop_mem : (weightsStop s code sect record).mem = s.mem := hopEnd_mem ..

@[simp] theorem weightsStop_mlr : (weightsStop s code sect record).mlr = s.mlr := hopEnd_mlr ..

end

/-- Bringing the reported state up to date may discard retention entries (R476), and changes nothing else of the Hopper. -/
theorem refresh_hop (s : State) : ∃ r, (refresh s).hop = { s.hop with retain := r } := by
  have kept : ∀ t, ∃ r, (setDevState s t).hop = { s.hop with retain := r } := by
    intro t
    unfold setDevState
    dsimp only
    split
    · exact ⟨_, rfl⟩
    · rw [raiseIrq_hop]
      split <;> exact ⟨_, rfl⟩
  unfold refresh
  split
  · exact kept _
  · exact ⟨_, rfl⟩

/-! ### Commands that complete as soon as their operation has begun (14 R538) -/

theorem startsWith_of_refused {s : State} {res : List Word} {f : State → Code × State} (h : (f (mlrDone s .ok res)).1 ≠ .ok) :
    startsWith s res f = mlrDone s (f (mlrDone s .ok res)).1 [] := if_neg h

theorem startsWith_of_ok {s t : State} {res : List Word} {f : State → Code × State} (h : f (mlrDone s .ok res) = (.ok, t)) :
    startsWith s res f = t := by
  simp only [startsWith, h, if_true]

theorem toNat_slot (n : Fin 64) : (BitVec.ofNat 64 n.val : Word).toNat = n.val := by
  rw [BitVec.toNat_ofNat]; omega

section
variable {s : State} (free : MailboxFree s) (tag : BitVec 16)
include free

theorem exec_loadImage (addr len : Word) (first second : DmaAnswer) : exec (.loadImage tag addr len first second) s =
    .next (startsWith (called s 0x10 tag [addr, len]) [BitVec.ofNat 64 ((freeSlot s).getD 0)] fun s => beginLoad s len.toNat first second) := by
  have run : mlrRun (called s 0x10 tag [addr, len]) 0x10 first second =
      startsWith (called s 0x10 tag [addr, len]) [BitVec.ofNat 64 ((freeSlot s).getD 0)]
        fun u => beginLoad u (mlrArg (called s 0x10 tag [addr, len]) 1) first second := rfl
  rw [mlrArg_called] at run
  exact (mailbox_runs (op := 0x10) free (by decide) [64, 64] rfl free.2.2.2 ((fits_nil.cons len.isLt).cons addr.isLt) rfl rfl).trans
    (congrArg _ run)

theorem exec_unload (n : Fin 64) : exec (.unload tag (BitVec.ofNat 64 n.val)) s =
    .next (startsWith (called s 0x11 tag [BitVec.ofNat 64 n.val]) [] fun s => beginUnload s n.val) := by
  have run : mlrRun (called s 0x11 tag [BitVec.ofNat 64 n.val]) 0x11 .later .later = startsWith (called s 0x11 tag [BitVec.ofNat 64 n.val]) []
      fun u => beginUnload u (mlrArg (called s 0x11 tag [BitVec.ofNat 64 n.val]) 0) := rfl
  rw [mlrArg_called, List.getD_cons_zero, toNat_slot] at run
  exact (mailbox_runs (op := 0x11) free (by decide) [6] rfl free.2.2.2 (fits_nil.cons (by rw [toNat_slot]; exact n.isLt)) rfl rfl).trans
    (congrArg _ run)

theorem exec_loadWeights (n : Fin 64) {session : Word} (small : session.toNat < 2 ^ 32) (c : Word) :
    exec (.loadWeights tag (BitVec.ofNat 64 n.val) session c) s =
      .next (startsWith (called s 0x12 tag [BitVec.ofNat 64 n.val, session, c]) []
        fun s => beginWeights s n.val (BitVec.ofNat 32 session.toNat) c.toNat) := by
  have run : mlrRun (called s 0x12 tag [BitVec.ofNat 64 n.val, session, c]) 0x12 .later .later =
      startsWith (called s 0x12 tag [BitVec.ofNat 64 n.val, session, c]) [] fun u => beginWeights u
        (mlrArg (called s 0x12 tag [BitVec.ofNat 64 n.val, session, c]) 0)
        (BitVec.ofNat 32 (mlrArg (called s 0x12 tag [BitVec.ofNat 64 n.val, session, c]) 1))
        (mlrArg (called s 0x12 tag [BitVec.ofNat 64 n.val, session, c]) 2) := rfl
  simp only [mlrArg_called, List.getD_cons_zero, List.getD_cons_succ, toNat_slot] at run
  exact (mailbox_runs (op := 0x12) free (by decide) [6, 32, 64] rfl free.2.2.2
    (((fits_nil.cons c.isLt).cons small).cons (by rw [toNat_slot]; exact n.isLt)) rfl rfl).trans (congrArg _ run)

end

/-! ### LOAD_IMAGE (R266, R267) -/

theorem freeSlot_eq_none {s : State} (h : ∀ k < 64, (slotOf s k).st ≠ .free) : freeSlot s = none := by
  rw [freeSlot, List.find?_range_eq_none]
  intro k small
  simpa using h k small

theorem freeSlot_eq_some {s : State} {n : Nat} (small : n < 64) (free : (slotOf s n).st = .free) (lowest : ∀ k < n, (slotOf s k).st ≠ .free) :
    freeSlot s = some n := by
  rw [freeSlot, List.find?_range_eq_some]
  exact ⟨by simpa using free, List.mem_range.2 small, fun k low => by simpa using lowest k low⟩

/-- A load has begun in slot `n`, which is LOADING, and host memory has not answered yet. -/
def loadBegun (s : State) (n len : Nat) : State :=
  let u := updSlot (hopStart s .loadImage n) n fun _ => { st := .loading }
  dmaWait { u with hop := { u.hop with realms := u.realms } } (.image1 len)

theorem beginLoad_of_free {s : State} {n : Nat} (idle : s.hop.op = .idle) (free : freeSlot s = some n) (master : s.glb.busMaster = true)
    (len : Nat) (second : DmaAnswer) : beginLoad s len .later second = (.ok, loadBegun s n len) := by
  have waits : ∀ u : State, u.glb.busMaster = true → dmaRead u .later = .wait := fun u h => if_pos h
  simp only [beginLoad, idle, free, ne_eq, not_true_eq_false, if_false]
  rw [waits _ (by exact master)]
  rfl

theorem loadBegun_facts (s : State) (n len : Nat) :
    let t := loadBegun s n len
    (slotOf t n).st = .loading ∧ t.hop.op = .loadImage ∧ t.hop.slot = n ∧ t.glb.dma = s.glb.dma ++ [(s.glb.time, .image1 len)] ∧ t.mem = s.mem :=
  ⟨congrArg (·.st) (slotOf_updSlot_same (hopStart s .loadImage n) n fun _ => { st := .loading }), rfl, rfl, rfl, rfl⟩

/-! ### UNLOAD (R276) -/

theorem slotCores_of_no_mills {s : State} {n : Nat} (mills : slotMills s n = []) : slotCores s n = [] := by
  rw [slotCores, mills]; rfl

theorem slotOwners_of_no_mills {s : State} {n : Nat} (mills : slotMills s n = []) : slotOwners s n = [] := by
  rw [slotOwners, mills]; rfl

/-- Clearing no core and no region leaves all but Race as it is. -/
theorem clearRegions_nil (s : State) (lo : Nat) : ∃ race, clearRegions s [] [] lo = { s with race := race } := by
  have none : queuesAt s [].contains = [] := by
    simp [queuesAt]
  rw [clearRegions, none]
  exact ⟨_, rfl⟩

/-- A slot without mills and regions is cleared by itself. -/
theorem clearSlot_of_bare {s : State} {n : Nat} (mills : slotMills s n = []) (regions : slotRegions s n = []) (lo : Nat) :
    ∃ race, clearSlot s n lo = updSlot { s with race := race } n fun _ => {} := by
  obtain ⟨race, eq⟩ := clearRegions_nil s lo
  refine ⟨race, ?_⟩
  rw [clearSlot, mills]
  dsimp only [List.foldl_nil]
  rw [slotCores_of_no_mills mills, regions, eq]

theorem settled_nil (s : State) : settled s [] = true :=
  List.all_eq_true.2 fun a _ => by cases a.src <;> rfl

/-- A slot without mills has no drain to wait for. -/
theorem goOnUnload_of_bare {s : State} (op : s.hop.op = .unload) (shut : s.bst.shut = .none) (mills : slotMills s s.hop.slot = [])
    (regions : slotRegions s s.hop.slot = []) : ∃ race, goOnUnload s =
      let u := updSlot { s with race := race } s.hop.slot fun _ => {}
      refresh (hopEnd { u with hop := { u.hop with progress := 0 } } .ok 0 0) := by
  obtain ⟨race, cleared⟩ := clearSlot_of_bare mills regions 0
  have go : (decide (s.hop.op = .unload) && decide (s.bst.shut ≠ .unloading) && slotQuiet s s.hop.slot) = true := by
    rw [slotQuiet, slotOwners_of_no_mills mills, slotCores_of_no_mills mills, settled_nil, op, shut]
    rfl
  refine ⟨race, ?_⟩
  rw [goOnUnload, if_pos go, cleared, regions]
  rfl

/-- UNLOAD of a slot without mills and regions ends at once with the slot FREE. -/
theorem beginUnload_of_bare {s : State} {n : Nat} (idle : s.hop.op = .idle) (st : (slotOf s n).st = .staged ∨ (slotOf s n).st = .loaded)
    (shut : s.bst.shut = .none) (mills : slotMills s n = []) (regions : slotRegions s n = []) : ∃ t, beginUnload s n = (.ok, t) ∧
      t.mlr = s.mlr ∧ t.mem = s.mem ∧ t.hop.slots = (updSlot s n fun _ => {}).hop.slots ∧ t.hop.op = .idle ∧ t.hop.err = .ok := by
  have go : ¬(decide ((slotOf s n).st ≠ .staged) && decide ((slotOf s n).st ≠ .loaded)) = true := by
    obtain st | st := st <;> simp [st]
  have fenced : fenceSlot (hopStart s .unload n) n = hopStart s .unload n := by
    rw [fenceSlot, slotOwners_of_no_mills (by exact mills)]; rfl
  obtain ⟨race, unloads⟩ := goOnUnload_of_bare (s := hopStart s .unload n) rfl shut mills regions
  have begins : beginUnload s n = (.ok, goOnUnload (fenceSlot (hopStart s .unload n) n)) := by
    rw [beginUnload, if_neg (not_not.2 idle), if_neg go]
  rw [begins, fenced, unloads]
  refine ⟨_, rfl, by simp; rfl, by simp; rfl, ?_⟩
  dsimp only
  generalize cleared : ({ updSlot { hopStart s .unload n with race := race } (hopStart s .unload n).hop.slot (fun _ => {}) with hop := _ } : State) = u
  obtain ⟨r, hop⟩ := refresh_hop (hopEnd u .ok 0 0)
  rw [hop, hopEnd_hop, ← cleared]
  exact ⟨rfl, rfl, rfl⟩

/-! ### LOAD_WEIGHTS (R273) -/

/-- The loading of weights has begun in slot `n`. -/
def weightsBegun (s : State) (n : Nat) (session : BitVec 32) (addr : Nat) : State :=
  let u := updSlot (hopStart s .loadWeights n) n fun x => { x with session := session, retried := [] }
  { u with hop := { u.hop with hostAddr := addr } }

theorem beginWeights_of_staged {s : State} {n : Nat} (idle : s.hop.op = .idle) (st : (slotOf s n).st = .staged) (session : BitVec 32) (addr : Nat) :
    beginWeights s n session addr = (.ok, goOnWeights (weightsBegun s n session addr)) := by
  simp only [beginWeights, idle, st, ne_eq, not_true_eq_false, if_false]
  rfl

/-- Which shard comes next rests on the image and on what is marked loaded. -/
theorem nextShard_congr {x y : Slot} (image : y.image = x.image) (loaded : y.loaded = x.loaded) : nextShard y = nextShard x := by
  rw [nextShard, image, loaded, nextShard]

theorem nextShard_weightsBegun (s : State) (n : Nat) (session : BitVec 32) (addr : Nat) :
    nextShard (slotOf (weightsBegun s n session addr) n) = nextShard (slotOf s n) := by
  have slot : slotOf (weightsBegun s n session addr) n = { slotOf s n with session := session, retried := [] } :=
    slotOf_updSlot_same (hopStart s .loadWeights n) n fun x => { x with session := session, retried := [] }
  exact nextShard_congr (by rw [slot]) (by rw [slot])

/-- The next shard is to be read from host memory (R273). -/
theorem goOnWeights_of_host {s : State} {i : Nat} {x : Shard} (next : nextShard (slotOf s s.hop.slot) = some (i, x)) (host : x.source = 1) :
    goOnWeights s = if s.hop.hostAddr = 0 || !s.glb.busMaster then weightsStop s .state 0xC i else dmaWait s (.shard i) := by
  simp only [goOnWeights, next, host, if_true]

theorem goOnWeights_weightsBegun {s : State} {n i : Nat} {x : Shard} (next : nextShard (slotOf s n) = some (i, x)) (host : x.source = 1)
    (session : BitVec 32) (addr : Nat) : goOnWeights (weightsBegun s n session addr) =
      if addr = 0 || !s.glb.busMaster then weightsStop (weightsBegun s n session addr) .state 0xC i
      else dmaWait (weightsBegun s n session addr) (.shard i) :=
  goOnWeights_of_host (s := weightsBegun s n session addr) ((nextShard_weightsBegun s n session addr).trans next) host

/-! ### The statement -/

/-- The command has completed with OK, and its operation begins in what is the state of before for the Hopper and for host memory. -/
structure Started (s : State) (op : Nat) (tag : BitVec 16) (res : List Word) (v : State) : Prop where
  ended : Ended v op tag .ok
  res : v.mlr.res = numbered 0 res
  hop : v.hop = s.hop
  mills : v.mills = s.mills
  mem : v.mem = s.mem
  bst : v.bst = s.bst
  dma : v.glb.dma = s.glb.dma
  time : v.glb.time = s.glb.time
  master : v.glb.busMaster = s.glb.busMaster

theorem started_called (s : State) (op : Nat) (tag : BitVec 16) (args res : List Word) :
    Started s op tag res (mlrDone (called s op tag args) .ok res) :=
  ⟨ended_called .., by simp [mlrDone, numbered], by simp [mlrDone, called], by simp [mlrDone, called], by simp [mlrDone, called],
    by simp [mlrDone, called], by simp [mlrDone, called], by simp [mlrDone, called], by simp [mlrDone, called]⟩

theorem Started.slotOf {s v : State} {op : Nat} {tag : BitVec 16} {res : List Word} (h : Started s op tag res v) (k : Nat) :
    slotOf v k = slotOf s k := by rw [Machine.slotOf, h.hop, Machine.slotOf]

section
variable {i : Instr} {s : State} {op : Nat} {tag : BitVec 16} {args res : List Word} {f : State → Code × State}
  (run : exec i s = .next (startsWith (called s op tag args) res f))
include run

/-- The operation cannot begin: the command ends with its code, and the Hopper stays as it is. -/
theorem next_startsWith_refused {code : Code} (h : ∀ v, Started s op tag res v → (f v).1 = code) (bad : code ≠ .ok) :
    Next (exec i s) fun t => Ended t op tag code ∧ t.hop = s.hop := by
  have refused := h _ (started_called s op tag args res)
  obtain ⟨ended, -, -, -, hop, -⟩ := ends_called s op tag args code []
  refine .of_eq run ?_
  rw [startsWith_of_refused (refused ▸ bad), refused]
  exact ⟨ended, hop⟩

/-- The operation begins in the state in which the command has completed. -/
theorem next_startsWith_begun {P : State → Prop} (h : ∀ v, Started s op tag res v → ∃ t, f v = (.ok, t) ∧ P t) : Next (exec i s) P := by
  obtain ⟨t, begins, holds⟩ := h _ (started_called s op tag args res)
  exact .of_eq (run.trans (congrArg _ (startsWith_of_ok begins))) holds

end

/-- Settles O38: each command is `startsWith` its operation, which either cannot begin, and then gives the code, or begins in the state in which the
command has completed. -/
theorem imagesAndWeights : Obligations.ImagesAndWeights := by
  intro s tag addr len n free a
  refine ⟨fun busy f g b c small => ⟨?_, ?_, ?_⟩, fun idle => ⟨fun full f g => ?_, fun lowest below master g => ?_, fun st => ?_,
    fun st mills shut cores regions => ?_, fun st b c small => ?_, fun st i x b c small next host => ?_⟩⟩
  · exact next_startsWith_refused (exec_loadImage free tag addr len f g) (fun v started => by rw [beginLoad, if_pos (started.hop ▸ busy)]) (by decide)
  · exact next_startsWith_refused (exec_unload free tag n) (fun v started => by rw [beginUnload, if_pos (started.hop ▸ busy)]) (by decide)
  · exact next_startsWith_refused (exec_loadWeights free tag n small c) (fun v started => by rw [beginWeights, if_pos (started.hop ▸ busy)])
      (by decide)
  · refine next_startsWith_refused (exec_loadImage free tag addr len f g) (fun v started => ?_) (by decide)
    have none : freeSlot v = none := freeSlot_eq_none fun k small => by rw [started.slotOf]; exact full k small
    rw [beginLoad, if_neg (not_not.2 (started.hop ▸ idle)), none]
  · refine next_startsWith_begun (exec_loadImage free tag addr len .later g) fun v started => ?_
    have lowest' : freeSlot v = some n.val := freeSlot_eq_some n.isLt (started.slotOf n ▸ lowest) fun k low => started.slotOf k ▸ below k low
    obtain ⟨st, hop, slot, dma, mem⟩ := loadBegun_facts v n len.toNat
    refine ⟨_, beginLoad_of_free (started.hop ▸ idle) lowest' (started.master ▸ master) _ _, Ended.congr started.ended rfl, ?_, st, hop, slot,
      by rw [dma, started.dma, started.time], mem.trans started.mem⟩
    refine (congrArg (Tbl.get 0 · 0) started.res).trans ?_
    rw [get_numbered_zero, freeSlot_eq_some n.isLt lowest below]
    rfl
  · refine next_startsWith_refused (exec_unload free tag n) (fun v started => ?_) (by decide)
    rw [beginUnload, if_neg (not_not.2 (started.hop ▸ idle)), if_pos (by obtain st | st := st <;> simp [started.slotOf, st])]
  · refine next_startsWith_begun (exec_unload free tag n) fun v started => ?_
    have mills' : slotMills v n = [] := by rwa [slotMills, started.mills]
    have regions' : slotRegions v n = [] := by rwa [slotRegions, started.slotOf]
    obtain ⟨t, begins, mlr, mem, slots, op, err⟩ := beginUnload_of_bare (s := v) (n := n) (started.hop ▸ idle) (by rwa [started.slotOf])
      (started.bst ▸ shut) mills' regions'
    have slot : ∀ k, slotOf t k = slotOf (updSlot v n fun _ => {}) k := fun k => by rw [slotOf, slots, slotOf]
    refine ⟨t, begins, Ended.congr started.ended mlr, by rw [slot, slotOf_updSlot_same], op, err, mem.trans started.mem, fun k other => ?_⟩
    rw [slot, slotOf_updSlot_other _ _ _ _ other, started.slotOf]
  · refine next_startsWith_refused (exec_loadWeights free tag n small c) (fun v started => ?_) (by decide)
    rw [beginWeights, if_neg (not_not.2 (started.hop ▸ idle)), if_pos (by rwa [started.slotOf])]
  · refine ⟨fun addr master => next_startsWith_begun (exec_loadWeights free tag n small c) fun v started => ?_,
      fun none => next_startsWith_begun (exec_loadWeights free tag n small c) fun v started => ?_⟩
    · have staged : (slotOf v n).st = .staged := started.slotOf n ▸ st
      have due : nextShard (slotOf v n) = some (i, x) := started.slotOf n ▸ next
      have there : ¬(decide (c.toNat = 0) || !v.glb.busMaster) = true := by
        simpa [started.master, master, BitVec.toNat_eq] using addr
      refine ⟨_, beginWeights_of_staged (started.hop ▸ idle) staged _ _, ?_⟩
      rw [goOnWeights_weightsBegun due host, if_neg there]
      exact ⟨Ended.congr started.ended rfl, rfl, rfl, rfl, by rw [← started.dma, ← started.time]; rfl⟩
    · have staged : (slotOf v n).st = .staged := started.slotOf n ▸ st
      have due : nextShard (slotOf v n) = some (i, x) := started.slotOf n ▸ next
      refine ⟨_, beginWeights_of_staged (started.hop ▸ idle) staged _ _, ?_⟩
      rw [goOnWeights_weightsBegun due host, if_pos (by simp [none]), weightsStop_hop]
      exact ⟨Ended.congr started.ended (weightsStop_mlr ..), rfl, rfl, rfl, rfl⟩

end Sys2Proof.Machine

namespace Sys2Proof.Machine

/-! ## Messages to partners leave the rest of the state (10 R365) -/

/-- Nothing but the sessions and ports, what has left the device and the Seal's counters differs. -/
def OnlySent (s t : State) : Prop := t = { s with sluice := t.sluice, out := t.out, sec := t.sec }

namespace OnlySent
variable {s t u : State}

theorem refl (s : State) : OnlySent s s := rfl

theorem trans (h : OnlySent s t) (k : OnlySent t u) : OnlySent s u := by
  rw [OnlySent, k, h]

theorem mem (h : OnlySent s t) : t.mem = s.mem := by rw [h]
theorem hop (h : OnlySent s t) : t.hop = s.hop := by rw [h]
theorem mills (h : OnlySent s t) : t.mills = s.mills := by rw [h]
theorem cores (h : OnlySent s t) : t.cores = s.cores := by rw [h]
theorem pond (h : OnlySent s t) : t.pond = s.pond := by rw [h]
theorem realms (h : OnlySent s t) : t.realms = s.realms := by rw [h]
theorem mlr (h : OnlySent s t) : t.mlr = s.mlr := by rw [h]
theorem glb (h : OnlySent s t) : t.glb = s.glb := by rw [h]

end OnlySent

theorem onlySent_foldl {α : Type} {f : State → α → State} (h : ∀ s a, OnlySent s (f s a)) (l : List α) (s : State) :
    OnlySent s (l.foldl f s) := by
  induction l generalizing s with
  | nil => exact .refl s
  | cons a l ih => exact (h s a).trans (ih _)

theorem onlySent_updSession (s : State) (n : BitVec 32) (f : Session → Session) : OnlySent s (updSession s n f) := rfl

theorem onlySent_emitGml (s : State) (x : Session) (type flags : Nat) (seq : BitVec 32) (body : List Byte) :
    OnlySent s (emitGml s x type flags seq body) := rfl

theorem onlySent_gmlSend (s : State) (n : BitVec 32) (type flags : Nat) (body : List Byte) : OnlySent s (gmlSend s n type flags body) := by
  unfold gmlSend
  dsimp only
  split
  · exact .refl s
  · split
    · exact onlySent_updSession ..
    · exact (onlySent_updSession ..).trans (onlySent_emitGml ..)

theorem onlySent_closeSession (s : State) (n : BitVec 32) (code : Code) : OnlySent s (closeSession s n code) := by
  unfold closeSession
  split
  · exact .refl s
  · split
    · exact .refl s
    · exact (onlySent_updSession ..).trans (onlySent_gmlSend ..)

theorem onlySent_closeSessions (s : State) (p : Session → Bool) (code : Code) : OnlySent s (closeSessions s p code) :=
  onlySent_foldl (fun s n => onlySent_closeSession s n code) _ s

/-! ## The loading of weights goes on (07 R273, R274, 10 R374) -/

/-- The next FETCH of a shard leaves, and is outstanding. -/
def sendFetch (rec : Nat) (x : Shard) (s : State) : State :=
  let off := s.hop.fetches.foldl (fun t f => t + f.len) 0
  let len := min fetchMax (x.size - off)
  let xid := s.hop.nextXid
  let asked : Fetch := { xid := xid, index := rec, off := off, len := len, since := s.glb.time }
  gmlSend { s with hop := { s.hop with fetches := s.hop.fetches ++ [asked], nextXid := (xid + 1) % 2 ^ 32 } } (slotOf s s.hop.slot).session 0x20 0
    (leBytes 4 xid ++ leBytes 4 len ++ leBytes 8 off ++ slice x.id 0 16)

theorem sendFetches_succ (rec : Nat) (x : Shard) (n : Nat) (s : State) : sendFetches rec x (n + 1) s =
    if x.size ≤ s.hop.fetches.foldl (fun t f => t + f.len) 0 ∨ 16 ≤ s.hop.fetches.countP fun f => decide (f.got.length < f.len) then s
    else sendFetches rec x n (sendFetch rec x s) := rfl

theorem sendFetch_spares (rec : Nat) (x : Shard) (s : State) : ∃ f xid,
    (sendFetch rec x s).mem = s.mem ∧ (sendFetch rec x s).hop = { s.hop with fetches := s.hop.fetches ++ [f], nextXid := xid } :=
  ⟨_, _, (onlySent_gmlSend ..).mem, (onlySent_gmlSend ..).hop⟩

/-- FETCHes that leave are listed behind those outstanding, and nothing else of memory and the Hopper differs. -/
theorem sendFetches_spares (rec : Nat) (x : Shard) (n : Nat) (s : State) : ∃ more xid,
    (sendFetches rec x n s).mem = s.mem ∧ (sendFetches rec x n s).hop = { s.hop with fetches := s.hop.fetches ++ more, nextXid := xid } := by
  have none : ∃ more xid, s.mem = s.mem ∧ s.hop = { s.hop with fetches := s.hop.fetches ++ more, nextXid := xid } :=
    ⟨[], s.hop.nextXid, rfl, by rw [List.append_nil]⟩
  induction n generalizing s with
  | zero => exact none
  | succ n ih =>
    rw [sendFetches_succ]
    split
    · exact none
    · obtain ⟨f, xid, mem, hop⟩ := sendFetch_spares rec x s
      obtain ⟨more, xid', mem', hop'⟩ := ih (sendFetch rec x s) ⟨[], (sendFetch rec x s).hop.nextXid, rfl, by rw [List.append_nil]⟩
      exact ⟨f :: more, xid', mem'.trans mem, by rw [hop', hop, List.append_assoc, List.singleton_append]⟩

/-- With a shard left to obtain, going on writes no memory and no slot. -/
theorem goOnWeights_spares {s : State} (more : nextShard (slotOf s s.hop.slot) ≠ none) :
    (goOnWeights s).mem = s.mem ∧ (goOnWeights s).hop.slots = s.hop.slots := by
  obtain ⟨⟨i, x⟩, next⟩ := Option.ne_none_iff_exists'.1 more
  have stops : (weightsStop s .state 0xC i).mem = s.mem ∧ (weightsStop s .state 0xC i).hop.slots = s.hop.slots :=
    ⟨weightsStop_mem .., by rw [weightsStop_hop]⟩
  simp only [goOnWeights, next]
  split
  · split
    · exact stops
    · exact ⟨rfl, rfl⟩
  · split
    · obtain ⟨_, _, mem, hop⟩ := sendFetches_spares i x 17 { s with hop := { s.hop with fetches := [] } }
      exact ⟨mem, by rw [hop]⟩
    · exact stops

/-! ### The bytes of a shard on a stack (R273, R274) -/

theorem writeShard_of_stack {x : Shard} (kind : x.kind = 0) (s : State) (bs : List Byte) :
    writeShard s x bs = .ok (storeBytes s (coreAddr x.core 0 x.off) bs) := if_pos kind

@[simp] theorem storeBytes_hop (s : State) (a : Nat) (bs : List Byte) : (storeBytes s a bs).hop = s.hop := by
  unfold storeBytes
  dsimp only
  split <;> rfl

/-- The bytes of record `i` stand in their place, from address `a` on, and the shard is marked. -/
def shardStored (s : State) (i a : Nat) (bs : List Byte) : State :=
  let u := updSlot (storeBytes s a bs) s.hop.slot fun y => { y with loaded := insertNat i y.loaded }
  { u with hop := { u.hop with progress := u.hop.progress + 1, fetches := [] } }

section
variable (s : State) (i a : Nat) (bs : List Byte)

theorem shardStored_mem : (shardStored s i a bs).mem = Memory.put s.mem a bs := storeBytes_mem s a bs

theorem shardStored_slot : (shardStored s i a bs).hop.slot = s.hop.slot := congrArg (·.slot) (storeBytes_hop s a bs)

theorem slotOf_shardStored :
    slotOf (shardStored s i a bs) s.hop.slot = { slotOf s s.hop.slot with loaded := insertNat i (slotOf s s.hop.slot).loaded } := by
  have old : slotOf (storeBytes s a bs) s.hop.slot = slotOf s s.hop.slot := by rw [slotOf, storeBytes_hop, slotOf]
  rw [← old]
  exact slotOf_updSlot_same (storeBytes s a bs) s.hop.slot fun y => { y with loaded := insertNat i y.loaded }

end

/-- What comes of the bytes of a shard on a stack (R273, R274). -/
theorem shardIn_of_stack {s : State} {i : Nat} {x : Shard} (here : (shardsOf (slotOf s s.hop.slot).image)[i]? = some x) (kind : x.kind = 0)
    (bs : List Byte) : shardIn s i bs =
      if bs.length = x.size && shake256 bs 64 == x.digest then goOnWeights (shardStored s i (coreAddr x.core 0 x.off) bs)
      else if (slotOf s s.hop.slot).retried.contains i then weightsStop s .auth 0xC i
      else goOnWeights (updSlot s s.hop.slot fun y => { y with retried := y.retried ++ [i] }) := by
  unfold shardIn
  generalize shake256 bs 64 = digest
  dsimp only
  rw [here]
  dsimp only
  rw [writeShard_of_stack kind]
  rfl

theorem shardTaken_shardIn {s : State} {i : Nat} {x : Shard} (more : MoreShards s i x) (bs : List Byte) :
    ShardTaken s i x bs (shardIn s i bs) := by
  obtain ⟨here, kind, again, next⟩ := more
  rw [shardIn_of_stack here kind]
  unfold ShardTaken
  generalize shake256 bs 64 = digest
  generalize coreAddr x.core 0 x.off = a
  have marked := slotOf_shardStored s i a bs
  refine ⟨fun good => ?_, fun bad => ?_⟩
  · rw [if_pos (by simpa using good)]
    obtain ⟨mem, slots⟩ := goOnWeights_spares (s := shardStored s i a bs) (by rwa [shardStored_slot, marked])
    obtain ⟨inside, outside⟩ := readByte_of_put (mem.trans (shardStored_mem ..))
    refine ⟨inside, outside, ?_⟩
    rw [slotOf, slots, ← slotOf, marked, mem_insertNat]
    exact .inl rfl
  · rw [if_neg (by simpa [imp_iff_not_or] using bad)]
    by_cases twice : (slotOf s s.hop.slot).retried.contains i = true
    · rw [if_pos twice, weightsStop_hop]
      exact ⟨weightsStop_mem .., fun _ => ⟨rfl, rfl, rfl⟩, fun once => absurd (twice.symm.trans once) (by decide)⟩
    · rw [if_neg twice]
      have slot := slotOf_updSlot_same s s.hop.slot fun y => { y with retried := y.retried ++ [i] }
      obtain ⟨mem, slots⟩ := goOnWeights_spares (s := updSlot s s.hop.slot fun y => { y with retried := y.retried ++ [i] })
        (by rw [nextShard_congr (x := slotOf s s.hop.slot) (by exact congrArg (·.image) slot) (by exact congrArg (·.loaded) slot)]; exact again)
      refine ⟨mem, fun h => absurd h twice, fun _ => ?_⟩
      rw [slotOf, slots, ← slotOf, slot]
      exact List.mem_append_right _ List.mem_cons_self

/-! ## Realms (14 R541, R542) -/

theorem mlr_foldl {α : Type} {f : State → α → State} (h : ∀ s a, (f s a).mlr = s.mlr) (l : List α) (s : State) : (l.foldl f s).mlr = s.mlr := by
  induction l generalizing s with
  | nil => rfl
  | cons a l ih => exact (ih _).trans (h s a)

@[simp] theorem leaveRealm_mlr (s : State) (g : Nat) : (leaveRealm s g).mlr = s.mlr := by
  rw [leaveRealm, updRegion_mlr, scrubRegion]
  dsimp only
  split <;> rfl

/-- The salt of an applied realm and the state it is stored in: an update keeps the salt, a creation draws one. -/
theorem ite_drawBytes_mlr (c : Prop) [Decidable c] (salt : List Byte) (s : State) (n : Nat) :
    (if c then (salt, s) else drawBytes s n).2.mlr = s.mlr := by
  split <;> rfl

/-- A descriptor that is applied makes its realm present; the last thing it does is to close sessions. -/
theorem applyRealm_closes (s : State) (d : List Byte) : ∃ u realm sessions, u.mlr = s.mlr ∧ Realm.present realm = true ∧
    applyRealm s d = closeSessions (updRealm u (realmDesc d).realm fun _ => realm) sessions .auth := by
  unfold applyRealm
  extract_lets x left joined
  have mlr : joined.mlr = s.mlr := (mlr_foldl (fun s g => updRegion_mlr ..) _ _).trans (mlr_foldl leaveRealm_mlr _ _)
  exact ⟨_, _, _, (ite_drawBytes_mlr ..).trans mlr, rfl, rfl⟩

theorem applyRealm_mlr (s : State) (d : List Byte) : (applyRealm s d).mlr = s.mlr := by
  obtain ⟨u, realm, sessions, mlr, -, eq⟩ := applyRealm_closes s d
  rw [eq, (onlySent_closeSessions ..).mlr]
  exact mlr

theorem present_applyRealm (s : State) (d : List Byte) : (realmOf (applyRealm s d) (realmDesc d).realm).present = true := by
  obtain ⟨u, realm, sessions, -, present, eq⟩ := applyRealm_closes s d
  rw [eq, realmOf, (onlySent_closeSessions ..).realms, ← realmOf, realmOf_updRealm_same]
  exact present

/-! ## A command that completes (14 R536) -/

@[simp] theorem mlrDone_dma (s : State) (code : Code) (res : List Word) : (mlrDone s code res).glb.dma = s.glb.dma := by
  simp [mlrDone]

/-- Nothing that has left the device is taken back when a vector is signalled. -/
theorem raiseIrq_out (s : State) (v : Nat) : ∃ more, (raiseIrq s v).out = s.out ++ more := by
  unfold raiseIrq signalVector
  split
  · exact ⟨[], (List.append_nil _).symm⟩
  · dsimp only
    split
    · exact ⟨[], (List.append_nil _).symm⟩
    · split
      · exact ⟨[], (List.append_nil _).symm⟩
      · exact ⟨_, rfl⟩

theorem mem_mlrDone_out {s : State} {o : Out} (h : o ∈ s.out) (code : Code) (res : List Word) : o ∈ (mlrDone s code res).out := by
  obtain ⟨more, eq⟩ := raiseIrq_out { s with mlr := { s.mlr with
    res := (res.zipIdx.filter fun p => p.1 ≠ 0).map fun p => (p.2, p.1)
    code := code, rtag := s.mlr.tag, opdone := s.mlr.op, busy := false, done := true
    cntOk := if code = .ok then bump s.mlr.cntOk else s.mlr.cntOk
    cntErr := if code = .ok then s.mlr.cntErr else bump s.mlr.cntErr } } 0
  rw [mlrDone, eq]
  exact List.mem_append_left _ h

theorem mlrDone_realms (s : State) (code : Code) (res : List Word) : (mlrDone s code res).realms = s.realms := by
  simp [mlrDone]

/-- The completion of a command whose state differs from `s` in nothing that a mill, a core or a memory sees. -/
theorem completes {s u : State} {js : List (Nat × DmaJob)} (mlr : u.mlr = s.mlr) (dma : u.glb.dma = js) (none : NoEffect s u) (code : Code)
    (res : List Word) : Ended (mlrDone u code res) s.mlr.op.toNat s.mlr.tag code ∧ (mlrDone u code res).glb.dma = js ∧
      NoEffect s (mlrDone u code res) := by
  rw [← mlr]
  obtain ⟨mills, cores, mem, slots, pond⟩ := noEffect_mlrDone u code res
  obtain ⟨mills', cores', mem', slots', pond'⟩ := none
  exact ⟨ended_mlrDone .., (mlrDone_dma ..).trans dma,
    ⟨mills.trans mills', cores.trans cores', mem.trans mem', slots.trans slots', pond.trans pond'⟩⟩

/-! ## What host memory returns, or does not (10 R431) -/

/-- The state once the oldest outstanding read is no longer outstanding. -/
def dmaTaken (s : State) (js : List (Nat × DmaJob)) : State := { s with glb := { s.glb with dma := js } }

theorem dmaEnd_of_cons {s : State} {j : Nat × DmaJob} {js : List (Nat × DmaJob)} (dma : s.glb.dma = j :: js)
    (up : s.glb.fw = true ∨ s.glb.st = .boot) (r : DmaRes) : dmaEnd s r = dmaIn (dmaTaken s js) j.2 r := by
  simp only [dmaEnd, dma]
  exact if_pos (by simpa using up)

theorem exec_dmaCompletion {ans : DmaAnswer} (now : ans ≠ .later) (s : State) :
    exec (.dmaCompletion ans) s = .next (dmaEnd s (dmaRes ans)) :=
  congrArg Host.Outcome.next (if_neg now)

theorem exec_dmaTimeout {s : State} {start : Nat} {j : DmaJob} {js : List (Nat × DmaJob)} (dma : s.glb.dma = (start, j) :: js) (came : Bool) :
    exec (.dmaTimeout came) s = .next (let u := advanceTo s (start + 50000000)
      if came then { u with glb := { u.glb with late := bump u.glb.late } } else dmaEnd u (.stop .timeout)) := by
  simp only [exec, execDmaTimeout, dma]

theorem exec_shardObtained (i : Nat) (bs : List Byte) (s : State) : exec (.shardObtained i bs) s =
    .next (if s.glb.dma.any (·.2 == .shard i) then shardIn (dmaTaken s (s.glb.dma.filter (·.2 ≠ .shard i))) i bs else s) := rfl

/-- Bytes for a shard do the same whatever reads are still outstanding. -/
theorem shardTaken_dmaTaken {s : State} {i : Nat} {x : Shard} (more : MoreShards s i x) (js : List (Nat × DmaJob)) (bs : List Byte) :
    ShardTaken s i x bs (shardIn (dmaTaken s js) i bs) :=
  shardTaken_shardIn (s := dmaTaken s js) more bs

theorem next_shardObtained {s : State} {i : Nat} {x : Shard} (asked : ∃ j ∈ s.glb.dma, j.2 = .shard i) (more : MoreShards s i x)
    (bs : List Byte) : Next (exec (.shardObtained i bs) s) (ShardTaken s i x bs) := by
  have any : s.glb.dma.any (·.2 == .shard i) = true := by simpa [List.any_eq_true] using asked
  exact .of_eq ((exec_shardObtained i bs s).trans (congrArg _ (if_pos any))) (shardTaken_dmaTaken more _ bs)

theorem shardObtained_unasked {s : State} {i : Nat} (unasked : ∀ j ∈ s.glb.dma, j.2 ≠ .shard i) (bs : List Byte) :
    exec (.shardObtained i bs) s = .next s := by
  have none : ¬ s.glb.dma.any (·.2 == .shard i) = true := fun any => by
    obtain ⟨j, mem, is⟩ := List.any_eq_true.1 any
    exact unasked j mem (beq_iff_eq.1 is)
  exact (exec_shardObtained i bs s).trans (congrArg _ (if_neg none))

/-- A read for a command of the mailbox that stops completes the command with its code. -/
theorem completes_dmaEnd_stop {s : State} {start : Nat} {j : DmaJob} {js : List (Nat × DmaJob)} (dma : s.glb.dma = (start, j) :: js)
    (up : s.glb.fw = true ∨ s.glb.st = .boot) (job : j = .table ∨ (∃ n, j = .realm n) ∨ (∃ n, j = .firmware n) ∨ ∃ o p q, j = .nonce o p q)
    (code : Code) : Ended (dmaEnd s (.stop code)) s.mlr.op.toNat s.mlr.tag code ∧ (dmaEnd s (.stop code)).glb.dma = js ∧
      NoEffect s (dmaEnd s (.stop code)) := by
  rw [dmaEnd_of_cons dma up, dmaIn_stop_of_mailbox job]
  exact completes (u := dmaTaken s js) rfl rfl ⟨rfl, rfl, rfl, rfl, rfl⟩ code []

/-- A signed quote leaves for host memory at `o`. -/
def quoteSent (s : State) (o : Nat) (quote : List Byte) : State := secCount { s with out := s.out ++ [.host o quote] } 4

section
variable {s : State} {js : List (Nat × DmaJob)} {o : Nat} {p q bs : List Byte}

/-- A quote whose nonce comes after Bus Master Enable was cleared ends with STATE. -/
theorem completes_nonce_disabled (off : s.glb.busMaster = false) : let t := dmaIn (dmaTaken s js) (.nonce o p q) (.data bs)
    Ended t s.mlr.op.toNat s.mlr.tag .state ∧ t.glb.dma = js ∧ NoEffect s t := by
  have eq : dmaIn (dmaTaken s js) (.nonce o p q) (.data bs) = mlrDone (dmaTaken s js) .state [] := by
    simp only [dmaIn, nonceIn]
    generalize edSign _ _ _ = sig
    exact if_neg (by simpa [dmaTaken] using off)
  dsimp only
  rw [eq]
  exact completes (u := dmaTaken s js) rfl rfl ⟨rfl, rfl, rfl, rfl, rfl⟩ .state []

/-- Else the quote is written to host memory with the nonce in it, and a signature behind. -/
theorem completes_nonce (on : s.glb.busMaster = true) : let t := dmaIn (dmaTaken s js) (.nonce o p q) (.data bs)
    (Ended t s.mlr.op.toNat s.mlr.tag .ok ∧ t.glb.dma = js ∧ NoEffect s t) ∧ ∃ sig, Out.host o (p ++ slice bs 0 64 ++ q ++ sig) ∈ t.out := by
  obtain ⟨quote, ⟨sig, written⟩, eq⟩ : ∃ quote, (∃ sig, p ++ slice bs 0 64 ++ q ++ sig = quote) ∧
      dmaIn (dmaTaken s js) (.nonce o p q) (.data bs) = mlrDone (quoteSent (dmaTaken s js) o quote) .ok [BitVec.ofNat 64 quote.length] := by
    simp only [dmaIn, nonceIn]
    generalize edSign _ _ _ = sig
    exact ⟨_, ⟨sig ++ List.replicate 14 0, (List.append_assoc ..).symm⟩, if_pos on⟩
  dsimp only
  rw [eq]
  refine ⟨completes rfl rfl ⟨rfl, rfl, rfl, rfl, rfl⟩ .ok _, sig, mem_mlrDone_out ?_ _ _⟩
  rw [written]
  exact List.mem_append_right _ List.mem_cons_self

end

section
variable {s : State} {js : List (Nat × DmaJob)} {n : Nat} {bs : List Byte}

theorem completes_realm_refused {code : Code} (refused : checkRealm s (bs.take n) n = some code) :
    let t := dmaIn (dmaTaken s js) (.realm n) (.data bs)
    Ended t s.mlr.op.toNat s.mlr.tag code ∧ t.glb.dma = js ∧ NoEffect s t := by
  have same : checkRealm (dmaTaken s js) (bs.take n) n = some code := refused
  simp only [dmaIn, realmIn, same]
  exact completes (u := dmaTaken s js) rfl rfl ⟨rfl, rfl, rfl, rfl, rfl⟩ code []

theorem realm_present (accepted : checkRealm s (bs.take n) n = none) :
    let t := dmaIn (dmaTaken s js) (.realm n) (.data bs)
    Ended t s.mlr.op.toNat s.mlr.tag .ok ∧ (realmOf t (realmDesc (bs.take n)).realm).present = true := by
  have same : checkRealm (dmaTaken s js) (bs.take n) n = none := accepted
  have mlr : (applyRealm (dmaTaken s js) (bs.take n)).mlr = s.mlr := applyRealm_mlr ..
  simp only [dmaIn, realmIn, same]
  refine ⟨?_, ?_⟩
  · rw [← mlr]
    exact ended_mlrDone ..
  · rw [realmOf, mlrDone_realms]
    exact present_applyRealm ..

end

/-- Settles O39: what a bus-master read comes to, by the operation it serves. -/
theorem hostMemoryAnswers : Obligations.HostMemoryAnswers := by
  refine ⟨fun s i bs x asked more => next_shardObtained asked more bs, fun s i bs unasked => shardObtained_unasked unasked bs,
    fun s start j js dma up => ?_, fun s dma => ⟨fun came => ?_, fun a => ?_⟩⟩
  · extract_lets u refused ended
    have up' : u.glb.fw = true ∨ u.glb.st = .boot := by simpa [u] using up
    have dma' : u.glb.dma = (start, j) :: js := by simpa [u] using dma
    have mlr : u.mlr = s.mlr := by simp [u]
    have data (bs : List Byte) : exec (.dmaCompletion (.data bs)) s = .next (dmaIn (dmaTaken s js) j (.data bs)) :=
      (exec_dmaCompletion (by simp) s).trans (congrArg _ (dmaEnd_of_cons dma up _))
    refine ⟨fun job => ⟨?_, ?_, ?_⟩, fun o p q bs job => ⟨fun off => ?_, fun on => ?_⟩, fun n bs job => ⟨fun code no => ?_, fun ok => ?_⟩,
      fun i x bs job more => ?_, exec_dmaTimeout dma true, rfl⟩
    · exact .of_eq (exec_dmaCompletion (by simp) s) (completes_dmaEnd_stop dma up job .unsupported)
    · exact .of_eq (exec_dmaCompletion (by simp) s) (completes_dmaEnd_stop dma up job .ecc)
    · exact .of_eq (exec_dmaTimeout dma false) (mlr ▸ completes_dmaEnd_stop dma' up' job .timeout)
    · subst job
      exact .of_eq (data bs) (completes_nonce_disabled off)
    · subst job
      obtain ⟨done, quote⟩ := completes_nonce (js := js) (o := o) (p := p) (q := q) (bs := bs) on
      exact ⟨.of_eq (data bs) done, .of_eq (data bs) quote⟩
    · subst job
      exact .of_eq (data bs) (completes_realm_refused no)
    · subst job
      exact .of_eq (data bs) (realm_present ok)
    · subst job
      exact .of_eq (data bs) (shardTaken_dmaTaken more js bs)
  · simp only [exec, execDmaTimeout, dma]
  · simp only [exec, execDmaCompletion, dmaEnd, dma, ite_self]

end Sys2Proof.Machine

namespace Sys2Proof.Machine

/-! ## Sessions (10 R362) -/

theorem sessionOf_congr {s t : State} (same : t.sluice.sessions = s.sluice.sessions) (n : BitVec 32) : sessionOf t n = sessionOf s n := by
  rw [sessionOf, same, sessionOf]

theorem id_of_sessionOf {s : State} {n : BitVec 32} {x : Session} (found : sessionOf s n = some x) : x.id = n := by
  simpa using List.find?_some found

/-- Sessions are found by their ID, which a change keeps. -/
theorem sessionOf_updSession {f : Session → Session} (id : ∀ y, (f y).id = y.id) (s : State) (m n : BitVec 32) :
    sessionOf (updSession s m f) n = (sessionOf s n).map fun y => if y.id == m then f y else y := by
  have same : ((fun y : Session => y.id == n) ∘ fun y => if y.id == m then f y else y) = fun y => y.id == n := by
    funext y
    by_cases hit : y.id = m <;> simp [hit, id]
  rw [sessionOf, updSession, List.find?_map, same, sessionOf]

/-- A session that is changed is found as it has become. -/
theorem sessionOf_updSession_same {f : Session → Session} (id : ∀ y, (f y).id = y.id) {s : State} {n : BitVec 32} {x : Session}
    (found : sessionOf s n = some x) : sessionOf (updSession s n f) n = some (f x) := by
  rw [sessionOf_updSession id, found, Option.map_some, if_pos (beq_iff_eq.2 (id_of_sessionOf found))]

/-- The first session of its ID is the first of its ID with a property that it has. -/
theorem find?_sessions_and {l : List Session} {n : BitVec 32} {x : Session} {p : Session → Bool}
    (found : (l.find? fun y => y.id == n) = some x) (px : p x = true) : (l.find? fun y => y.id.toNat == n.toNat && p y) = some x := by
  induction l with
  | nil => simp at found
  | cons y l ih =>
    by_cases hit : y.id = n
    · obtain rfl : y = x := by simpa [hit] using found
      simp [hit, px]
    · simp only [List.find?_cons, beq_eq_false_iff_ne.2 hit] at found
      have other : (y.id.toNat == n.toNat) = false := beq_eq_false_iff_ne.2 fun same => hit (BitVec.eq_of_toNat_eq same)
      simpa [List.find?_cons, other] using ih found

/-! ### No message is held (R365) -/

/-- The session, if it is open, holds no message that came after a gap. -/
def NothingHeld (s : State) (n : BitVec 32) : Prop := ∀ y, sessionOf s n = some y → y.held = []

section
variable {s t : State} {n : BitVec 32}

theorem nothingHeld_congr (same : t.sluice.sessions = s.sluice.sessions) (h : NothingHeld s n) : NothingHeld t n := by
  rwa [NothingHeld, sessionOf_congr same]

theorem nothingHeld_updSession {f : Session → Session} {m : BitVec 32} (id : ∀ y, (f y).id = y.id) (held : ∀ y, (f y).held = y.held)
    (h : NothingHeld s n) : NothingHeld (updSession s m f) n := by
  intro y found
  rw [sessionOf_updSession id] at found
  obtain ⟨z, was, rfl⟩ := Option.map_eq_some_iff.1 found
  rw [apply_ite Session.held, held, ite_self]
  exact h z was

theorem nothingHeld_emitGml (h : NothingHeld s n) (x : Session) (type flags : Nat) (seq : BitVec 32) (body : List Byte) :
    NothingHeld (emitGml s x type flags seq body) n :=
  nothingHeld_congr (s := updSession s x.id fun y => { y with ackDue := none }) (t := emitGml s x type flags seq body) rfl
    (nothingHeld_updSession (by intro; rfl) (by intro; rfl) h)

theorem nothingHeld_gmlSend (h : NothingHeld s n) (m : BitVec 32) (type flags : Nat) (body : List Byte) :
    NothingHeld (gmlSend s m type flags body) n := by
  unfold gmlSend
  split
  · exact h
  · dsimp only
    split
    · exact nothingHeld_updSession (by intro; rfl) (by intro; rfl) h
    · refine nothingHeld_emitGml ?_ _ _ _ _ _
      exact nothingHeld_updSession (by intro; rfl) (by intro; rfl) h

theorem nothingHeld_sendFetch (h : NothingHeld s n) (rec : Nat) (x : Shard) : NothingHeld (sendFetch rec x s) n := by
  refine nothingHeld_gmlSend ?_ _ _ _ _
  exact h

theorem nothingHeld_sendFetches (rec : Nat) (x : Shard) (k : Nat) (h : NothingHeld s n) : NothingHeld (sendFetches rec x k s) n := by
  induction k generalizing s with
  | zero => exact h
  | succ k ih =>
    rw [sendFetches_succ]
    split
    · exact h
    · exact ih (nothingHeld_sendFetch h rec x)

@[simp] theorem hopEnd_sluice (s : State) (code : Code) (sect record : Nat) : (hopEnd s code sect record).sluice = s.sluice := by
  unfold hopEnd
  dsimp only
  split <;> simp

@[simp] theorem weightsStop_sluice (s : State) (code : Code) (sect record : Nat) : (weightsStop s code sect record).sluice = s.sluice :=
  hopEnd_sluice ..

theorem release_of_nothingHeld (h : NothingHeld s n) (k : Nat) : release k s n = s := by
  cases k with
  | zero => rfl
  | succ k =>
    unfold release
    cases found : sessionOf s n with
    | none => rfl
    | some y => simp [h y found]

theorem nakHeld_of_nothingHeld (h : NothingHeld s n) : nakHeld s n = s := by
  unfold nakHeld
  cases found : sessionOf s n with
  | none => rfl
  | some y => simp [h y found]

end

/-! ## The header of a message (10 R359) -/

section
variable (type flags : Nat) (id seq ack : BitVec 32) (sack len : Nat) (rest : List Byte)

theorem length_gmlHeader : (gmlHeader type flags id seq ack sack len).length = 32 := rfl

theorem num_gmlHeader_version : num (gmlHeader type flags id seq ack sack len ++ rest) 0 1 = 1 := rfl

theorem num_gmlHeader_type (small : type < 256) : num (gmlHeader type flags id seq ack sack len ++ rest) 1 1 = type :=
  leNat_leBytes_of_lt (n := 1) small

theorem num_gmlHeader_flags (small : flags < 2 ^ 16) : num (gmlHeader type flags id seq ack sack len ++ rest) 2 2 = flags :=
  leNat_leBytes_of_lt (n := 2) small

theorem num_gmlHeader_session : num (gmlHeader type flags id seq ack sack len ++ rest) 4 4 = id.toNat :=
  leNat_leBytes_of_lt (n := 4) id.isLt

theorem num_gmlHeader_seq : num (gmlHeader type flags id seq ack sack len ++ rest) 8 4 = seq.toNat :=
  leNat_leBytes_of_lt (n := 4) seq.isLt

theorem num_gmlHeader_sack (small : sack < 2 ^ 64) : num (gmlHeader type flags id seq ack sack len ++ rest) 16 8 = sack :=
  leNat_leBytes_of_lt (n := 8) small

theorem num_gmlHeader_len (small : len < 2 ^ 32) : num (gmlHeader type flags id seq ack sack len ++ rest) 24 4 = len :=
  leNat_leBytes_of_lt (n := 4) small

theorem zeros_gmlHeader : zeros (gmlHeader type flags id seq ack sack len ++ rest) 28 32 = true := rfl

end

theorem slice_append_right {a b : List Byte} {n : Nat} (start : a.length = n) (bs : List Byte) : slice (a ++ b ++ bs) n b.length = b := by
  subst start
  simp [slice]

@[simp] theorem length_slice (bs : List Byte) (off n : Nat) : (slice bs off n).length = n := by
  simp only [slice, List.length_append, List.length_replicate, List.length_take]
  omega

theorem length_errorBody (code : Code) (type offset : Nat) (seq : BitVec 32) (key : Nat) : (errorBody code type offset seq key).length = 24 := rfl

/-- The tag has 16 bytes (R361). -/
theorem length_kmac256 (key msg : List Byte) (custom : String) : (kmac256 key msg 16 custom).length = 16 := by
  unfold kmac256 sponge
  dsimp only
  generalize absorb _ _ _ = a
  show ((squeeze 1 a).take 16).length = 16
  simp [squeeze, leBytes, List.length_flatten, Function.comp_def]

/-! ## A message that arrives in its turn (10 R355-R365, R376) -/

/-- A change of a port that leaves what `π` reads of it. -/
theorem view_updPort {β : Type} {π : Port → β} {f : Port → Port} (kept : ∀ x, π (f x) = π x) (s : State) (q p : Nat) :
    π (portOf (updPort s q f) p) = π (portOf s p) := by
  by_cases same : p = q
  · rw [same, portOf_updPort_same, kept]
  · rw [portOf_updPort_other s q f p same]

theorem onlySent_countCodewords (s : State) (f : Frame) : OnlySent s (countCodewords s f) := by
  unfold countCodewords
  dsimp only
  split <;> split <;> rfl

theorem countCodewords_sessions (s : State) (f : Frame) : (countCodewords s f).sluice.sessions = s.sluice.sessions := by
  unfold countCodewords
  dsimp only
  split <;> split <;> rfl

/-- What `π` reads of a port, other than its counters, is as before a frame was counted. -/
theorem view_countCodewords {β : Type} {π : Port → β} (kept : ∀ x c, π { x with cnt := c } = π x) (s : State) (f : Frame) (p : Nat) :
    π (portOf (countCodewords s f) p) = π (portOf s p) := by
  have add (s : State) (i n : Nat) :
      π (portOf (if n = 0 then s else updPort s f.port.val fun x => { x with cnt := Tbl.upd 0 x.cnt i fun c => bumpBy c n }) p) =
        π (portOf s p) := by
    split
    · rfl
    · exact view_updPort (fun x => kept x _) ..
  exact (add ..).trans (add ..)

theorem view_portCount_countCodewords {β : Type} {π : Port → β} (kept : ∀ x c, π { x with cnt := c } = π x) (s : State) (f : Frame)
    (q i p : Nat) : π (portOf (portCount (countCodewords s f) q i) p) = π (portOf s p) :=
  (view_updPort (fun x => kept x _) ..).trans (view_countCodewords kept ..)

/-- The frame is counted, and its tag verified (R361, R385). -/
def frameCounted (s : State) (f : Frame) : State := secCount (portCount (countCodewords s f) f.port.val 0) 5

/-- The message from `src` that session `n` awaits has taken its place (R356, R365, R366). -/
def accepted (s : State) (n : BitVec 32) (src : Source) : State :=
  oweAck (updSession (updSession s n fun y => { y with src := src }) n fun y => { y with rxSeq := y.rxSeq + 1 }) n

section
variable (s : State) (f : Frame)

theorem onlySent_frameCounted : OnlySent s (frameCounted s f) :=
  (onlySent_countCodewords s f).trans (u := frameCounted s f) rfl

theorem frameCounted_sessions : (frameCounted s f).sluice.sessions = s.sluice.sessions := countCodewords_sessions s f

theorem tmr_frameCounted (p : Nat) : (portOf (frameCounted s f) p).tmr = (portOf s p).tmr :=
  view_portCount_countCodewords (π := Port.tmr) (fun _ _ => rfl) ..

theorem onlySent_accepted (n : BitVec 32) (src : Source) : OnlySent s (accepted s n src) := rfl

theorem portOf_accepted (n : BitVec 32) (src : Source) (p : Nat) : portOf (accepted s n src) p = portOf s p := rfl

theorem sessionOf_accepted {n : BitVec 32} {x : Session} (found : sessionOf s n = some x) (src : Source) :
    ∃ due, sessionOf (accepted s n src) n = some { x with src := src, rxSeq := x.rxSeq + 1, ackDue := due } :=
  ⟨_, sessionOf_updSession_same (by intro; rfl)
    (sessionOf_updSession_same (by intro; rfl) (sessionOf_updSession_same (by intro; rfl) found))⟩

end

/-- Nothing is unacknowledged, so that an acknowledgement lets nothing go. -/
theorem takeAck_of_nil {s : State} {n : BitVec 32} {x : Session} (found : sessionOf s n = some x) (none : x.unacked = []) (ack : BitVec 32) :
    takeAck s n ack = s := by
  simp [takeAck, found, none]

/-- The message that the session awaits is delivered, and then those held behind it. -/
theorem sequence_next {s : State} {x : Session} {seq : BitVec 32} (next : x.rxSeq = seq) (bytes msg : List Byte) (src : Source) :
    sequence s x seq bytes msg src = nakHeld (release 64 (deliverGml (oweAck (updSession s x.id fun y => { y with rxSeq := y.rxSeq + 1 }) x.id)
      x.id bytes src) x.id) x.id := by
  subst next
  simp [sequence]

theorem verified_next {s : State} {f : Frame} {x : Session} {type flags : Nat} {seq : BitVec 32} {msg : List Byte}
    (found : sessionOf s x.id = some x) (next : x.rxSeq = seq) (none : x.unacked = []) (isType : num msg 1 1 = type) (isFlags : num msg 2 2 = flags)
    (isSeq : num msg 8 4 = seq.toNat) (sequenced : type ≠ 3 ∧ type ≠ 4) (allowed : directionOk type (flags.testBit 0) = true) :
    verified s f x msg = nakHeld (release 64 (deliverGml (accepted s x.id f.src) x.id msg f.src) x.id) x.id := by
  have found' : sessionOf (updSession s x.id fun y => { y with src := f.src }) x.id = some { x with src := f.src } :=
    sessionOf_updSession_same (by intro; rfl) found
  unfold verified
  dsimp only
  rw [takeAck_of_nil found' none, found']
  dsimp only
  rw [isType, isFlags, isSeq, allowed, BitVec.ofNat_toNat, BitVec.setWidth_eq, if_neg (by tauto), if_neg (by decide)]
  exact sequence_next (x := { x with src := f.src }) next ..

theorem maxBody_portCount_countCodewords (s : State) (f : Frame) (q i p : Nat) :
    maxBody (portCount (countCodewords s f) q i) p = maxBody s p := by
  rw [maxBody, view_portCount_countCodewords (π := Port.cfg) (fun _ _ => rfl), maxBody]

/-- Check 1 of R376 passes. -/
theorem frameFault_of_header {s : State} {p type : Nat} {m body : List Byte} (isVersion : num m 0 1 = 1) (isType : num m 1 1 = type)
    (isLen : num m 24 4 = body.length) (given : type ∈ gmlTypes) (aligned : body.length % 8 = 0) (fits : body.length ≤ maxBody s p)
    (whole : 48 + body.length ≤ m.length) : frameFault s p m = none := by
  simp [frameFault, firstOffset, isVersion, isType, isLen, given, aligned, fits, whole]

theorem maxBody_le (s : State) (p : Nat) : maxBody s p ≤ 8192 := by
  unfold maxBody
  split <;> omega

/-- A frame with a right tag, of a type that is acknowledged and that the partner may send, reaches the session. -/
theorem gmlFrame_of_delivers {s : State} {f : Frame} {x : Session} {type flags : Nat} {ack : BitVec 32} {body : List Byte}
    (h : Delivers s f x type flags ack body) (given : type ∈ gmlTypes) (sequenced : type ≠ 1 ∧ type ≠ 3 ∧ type ≠ 4) (small : flags < 2 ^ 16)
    (allowed : directionOk type (flags.testBit 0) = true) :
    gmlFrame s f = nakHeld (release 64 (deliverGml (accepted (frameCounted s f) x.id f.src) x.id
      (gmlHeader type flags x.id x.rxSeq ack 0 body.length ++ body) f.src) x.id) x.id := by
  obtain ⟨⟨-, -, found, port, sub, bytes, aligned, fits⟩, none, -⟩ := h
  have long := maxBody_le s f.port.val
  have byte : type < 256 := by simp [gmlTypes] at given; omega
  have isType (rest : List Byte) := num_gmlHeader_type type flags x.id x.rxSeq ack 0 body.length rest byte
  have isLen (rest : List Byte) := num_gmlHeader_len type flags x.id x.rxSeq ack 0 body.length rest (by omega)
  have isSession (rest : List Byte) := num_gmlHeader_session type flags x.id x.rxSeq ack 0 body.length rest
  have isVersion (rest : List Byte) := num_gmlHeader_version type flags x.id x.rxSeq ack 0 body.length rest
  have isFlags (rest : List Byte) := num_gmlHeader_flags type flags x.id x.rxSeq ack 0 body.length rest small
  have isSeq (rest : List Byte) := num_gmlHeader_seq type flags x.id x.rxSeq ack 0 body.length rest
  have header := length_gmlHeader type flags x.id x.rxSeq ack 0 body.length
  have tagged := length_kmac256 x.key (gmlHeader type flags x.id x.rxSeq ack 0 body.length ++ body) "GML-P2D"
  generalize gmlHeader type flags x.id x.rxSeq ack 0 body.length = head at *
  have length : (head ++ body).length = 32 + body.length := by rw [List.length_append, header]
  generalize isTag : kmac256 x.key (head ++ body) 16 "GML-P2D" = tag at *
  have named : ((portCount (countCodewords s f) f.port.val 0).sluice.sessions.find? fun y =>
      y.id.toNat == x.id.toNat && y.port == f.port.val && y.subB == f.subB) = some x := by
    have one := find?_sessions_and (p := fun y => y.port == f.port.val && y.subB == f.subB) found (by simp [port, sub])
    simpa only [Bool.and_assoc, portCount, updPort, countCodewords_sessions] using one
  have sound : frameFault (portCount (countCodewords s f) f.port.val 0) f.port.val (head ++ (body ++ tag)) = Option.none := by
    refine frameFault_of_header (isVersion _) (isType _) (isLen _) given aligned ?_ ?_
    · rwa [maxBody_portCount_countCodewords]
    · simp only [List.length_append, header, tagged]
      omega
  have msg : (head ++ (body ++ tag)).take (32 + body.length) = head ++ body := by
    rw [← List.append_assoc, List.take_left' length]
  have tagAt : slice (head ++ (body ++ tag)) (32 + body.length) 16 = tag := by
    rw [← List.append_assoc, ← tagged, ← List.append_nil (head ++ body ++ tag), slice_append_right length]
  unfold gmlFrame
  dsimp only
  rw [bytes, List.append_assoc, isSession, sound, named]
  dsimp only
  rw [isLen, msg, isType, isTag, tagAt, if_neg (by simp [sequenced]), if_neg sequenced.1, if_pos (beq_self_eq_true tag)]
  exact verified_next (s := frameCounted s f) (by rwa [sessionOf_congr (frameCounted_sessions s f)]) rfl none (isType body) (isFlags body) (isSeq body) sequenced.2 allowed

/-! ## Messages that leave on a session with nothing unacknowledged (10 R365) -/

theorem padTo_of_aligned {m : Nat} {bs : List Byte} (aligned : bs.length % m = 0) : padTo m bs = bs := by
  simp [padTo, aligned]

theorem sessionOf_gmlSend {s : State} {n : BitVec 32} {x : Session} (found : sessionOf s n = some x) (none : x.unacked = []) (type flags : Nat)
    {body : List Byte} (aligned : body.length % 8 = 0) : ∃ y, sessionOf (gmlSend s n type flags body) n = some y ∧ y.rxSeq = x.rxSeq ∧
      y.src = x.src ∧ y.txSeq = x.txSeq + 1 ∧ y.unacked = [firstSent s x type flags body] := by
  have room : ¬ 64 ≤ x.unacked.length := by simp [none]
  unfold gmlSend
  rw [found]
  dsimp only
  obtain rfl := id_of_sessionOf found
  rw [if_neg room, padTo_of_aligned aligned]
  refine ⟨_, (sessionOf_congr (s := updSession _ x.id _) rfl _).trans
    (sessionOf_updSession_same (by intro; rfl) (sessionOf_updSession_same (by intro; rfl) found)), rfl, rfl, rfl, ?_⟩
  rw [none]
  rfl

/-! ## A reply to FETCH (10 R374) -/

/-- Checks 4 and 5 of R376 pass on a reply that is whole. -/
theorem deliverGml_fetch {s : State} {n id seq ack : BitVec 32} {y : Session} {b : List Byte} (found : sessionOf s n = some y)
    (staged : y.staged = none) (free : quarantined s y = false) (short : b.length < 2 ^ 32)
    (good : bodyFault 0x20 false false b none = none) (src : Source) :
    deliverGml s n (gmlHeader 0x20 1 id seq ack 0 b.length ++ b) src = fetchIn s y seq b := by
  have body : slice (gmlHeader 0x20 1 id seq ack 0 b.length ++ b) 32 b.length = b := by
    rw [← List.append_nil (_ ++ b), slice_append_right (length_gmlHeader ..)]
  have header : headerFault (gmlHeader 0x20 1 id seq ack 0 b.length ++ b) = none := by
    simp [headerFault, firstOffset, num_gmlHeader_flags, num_gmlHeader_sack, zeros_gmlHeader]
  have isEmpty : (gmlHeader 0x20 1 id seq ack 0 b.length ++ b).isEmpty = false := rfl
  unfold deliverGml
  rw [found]
  dsimp only
  rw [num_gmlHeader_type _ _ _ _ _ _ _ _ (by decide), num_gmlHeader_flags _ _ _ _ _ _ _ _ (by decide),
    num_gmlHeader_len _ _ _ _ _ _ _ _ short, num_gmlHeader_seq, body, header, isEmpty, staged,
    show Nat.testBit 1 1 = false from rfl, show Nat.testBit 1 2 = false from rfl, good]
  simp [pendingFault, free]

theorem bodyFault_fetch {b : List Byte} (whole : b.length = roundUp (24 + num b 16 4) 8) (pad : zeros b (24 + num b 16 4) b.length = true)
    (five : zeros b 5 8 = true) (twenty : zeros b 20 24 = true) (some : num b 16 4 ≠ 0 ∨ num b 4 1 ≠ 0) :
    bodyFault 0x20 false false b none = none := by
  simp [bodyFault, firstOffset, lengthOk, ← whole, pad, five, twenty, some]

/-- A FETCH reply that the session awaits reaches `fetchIn`, on a state that differs in what was counted and received. -/
theorem exec_fetchReply_of_delivers {s : State} {f : Frame} {x : Session} {ack : BitVec 32} {b : List Byte}
    (h : Delivers s f x 0x20 1 ack b) (good : bodyFault 0x20 false false b none = none) :
    ∃ u due, OnlySent s u ∧ (∀ p, (portOf u p).tmr = (portOf s p).tmr) ∧
      sessionOf u x.id = some { x with src := f.src, rxSeq := x.rxSeq + 1, ackDue := due } ∧
      exec (.fetchReply f) s = .next (nakHeld (release 64
        (fetchIn u { x with src := f.src, rxSeq := x.rxSeq + 1, ackDue := due } x.rxSeq b) x.id) x.id) := by
  have arrives := gmlFrame_of_delivers h (by decide) (by decide) (by decide) (by decide)
  obtain ⟨⟨takes, keep, found, -, -, bytes, -, fits⟩, -, -, staged, free⟩ := h
  have long := maxBody_le s f.port.val
  have isType : num f.bytes 1 1 = 0x20 := by
    rw [bytes, List.append_assoc, num_gmlHeader_type _ _ _ _ _ _ _ _ (by decide)]
  obtain ⟨due, now⟩ := sessionOf_accepted (frameCounted s f) (n := x.id) (x := x) (by rwa [sessionOf_congr (frameCounted_sessions s f)]) f.src
  have glb : (accepted (frameCounted s f) x.id f.src).glb = s.glb := (onlySent_frameCounted s f).glb
  refine ⟨accepted (frameCounted s f) x.id f.src, due, (onlySent_frameCounted s f).trans (onlySent_accepted ..), fun p => ?_, now, ?_⟩
  · rw [portOf_accepted, tmr_frameCounted]
  rw [deliverGml_fetch now staged (by rw [← free, quarantined, glb, quarantined]) (by omega) good] at arrives
  rw [← arrives]
  have noPtp : ptpFrame s f = false := by
    rw [keeps] at keep
    simp only [Bool.and_eq_true, Bool.not_eq_true'] at keep
    simp only [keep]
  show gmlRow 0x20 f s = _
  simp [gmlRow, takes, noPtp, keep, isType]

/-- The outstanding FETCH that a reply names. -/
def awaitedFetch (s : State) (b : List Byte) : Option Fetch :=
  s.hop.fetches.find? fun y => y.xid == num b 0 4 && decide (y.got.length < y.len)

/-- The FETCH once data have joined it. -/
def fetchJoined (s : State) (y : Fetch) (b : List Byte) : Fetch := { y with got := y.got ++ slice b 24 (num b 16 4), since := s.glb.time }

section
variable {s : State} {x : Session} {seq : BitVec 32} {b : List Byte} {y : Fetch}

/-- A reply that no FETCH of the session awaits is refused. -/
theorem fetchIn_refused (h : awaitedFetch s b = none ∨ s.hop.op ≠ .loadWeights ∨ (slotOf s s.hop.slot).session ≠ x.id) :
    fetchIn s x seq b = gmlError s x.id .state 0x20 32 seq 0 := by
  unfold fetchIn
  dsimp only
  rw [← awaitedFetch]
  cases named : awaitedFetch s b with
  | none => rfl
  | some y =>
    have notMine : (decide (s.hop.op = .loadWeights) && (slotOf s s.hop.slot).session == x.id) = false := by
      simpa [named, imp_iff_not_or] using h
    dsimp only
    rw [notMine]
    rfl

/-- What a reply does that a FETCH of the session awaits. -/
theorem fetchIn_awaited (op : s.hop.op = .loadWeights) (mine : (slotOf s s.hop.slot).session = x.id) (named : awaitedFetch s b = some y) :
    fetchIn s x seq b =
      if num b 4 1 ≠ 0 then weightsStop s ((Code.ofNum (num b 4 1)).getD .protocol) 0xC y.index
      else if num b 8 8 ≠ y.off + y.got.length ∨ y.len < y.got.length + num b 16 4 then weightsStop s .protocol 0xC y.index
      else fetchGoesOn { s with hop := { s.hop with fetches := s.hop.fetches.map fun z => if z.xid = num b 0 4 then fetchJoined s y b else z } }
        y.index := by
  unfold fetchIn
  dsimp only
  rw [← awaitedFetch, named, op, mine]
  simp [fetchJoined]

/-- While a FETCH waits for more than what has come, the shard is not there: no more than further FETCHes leave. -/
theorem fetchGoesOn_of_partial (here : y ∈ s.hop.fetches) (part : y.got.length ≠ y.len) (i : Nat) :
    fetchGoesOn s i = s ∨ ∃ sh, fetchGoesOn s i = sendFetches i sh 17 s := by
  have incomplete : (s.hop.fetches.all fun y => decide (y.got.length = y.len)) = false :=
    List.all_eq_false.2 ⟨y, here, by simpa using part⟩
  unfold fetchGoesOn
  cases (shardsOf (slotOf s s.hop.slot).image)[i]? with
  | none => exact .inl rfl
  | some sh =>
    dsimp only
    exact .inr ⟨sh, if_neg (by simp only [incomplete, Bool.false_and, Bool.false_eq_true, not_false_eq_true])⟩

theorem fetchGoesOn_spares (here : y ∈ s.hop.fetches) (part : y.got.length ≠ y.len) (i : Nat) : ∃ more xid,
    (fetchGoesOn s i).mem = s.mem ∧ (fetchGoesOn s i).hop = { s.hop with fetches := s.hop.fetches ++ more, nextXid := xid } := by
  obtain same | ⟨sh, sends⟩ := fetchGoesOn_of_partial here part i
  · exact ⟨[], s.hop.nextXid, by rw [same], by rw [same, List.append_nil]⟩
  · rw [sends]
    exact sendFetches_spares i sh 17 s

theorem nothingHeld_fetchGoesOn {n : BitVec 32} (none : NothingHeld s n) (here : y ∈ s.hop.fetches) (part : y.got.length ≠ y.len) (i : Nat) :
    NothingHeld (fetchGoesOn s i) n := by
  obtain same | ⟨sh, sends⟩ := fetchGoesOn_of_partial here part i
  · rwa [same]
  · rw [sends]
    exact nothingHeld_sendFetches i sh 17 none

end

theorem Code.ofNum_num (code : Code) : Code.ofNum code.num = some code := by
  cases code <;> rfl

theorem Code.num_ne_zero {code : Code} (bad : code ≠ .ok) : code.num ≠ 0 := by
  cases code <;> simp_all [Code.num]

/-- The loading of weights has stopped with this code at record `i`, and what is loaded stays (R274). -/
def WeightsStopped (s t : State) (code : Code) (i : Nat) : Prop :=
  t.hop.op = .idle ∧ t.hop.err = code ∧ t.hop.record = i ∧ t.hop.fetches = [] ∧ t.hop.slots = s.hop.slots ∧ t.mem = s.mem

theorem weightsStopped (s : State) (code : Code) (sect i : Nat) : WeightsStopped s (weightsStop s code sect i) code i := by
  rw [WeightsStopped, weightsStop_hop]
  exact ⟨rfl, rfl, rfl, rfl, rfl, weightsStop_mem ..⟩

section
variable {s : State} {f : Frame} {x : Session} {ack : BitVec 32} {b : List Byte}

/-- What a FETCH reply comes to is what `fetchIn` makes of a state that differs in what was counted and received. -/
theorem next_fetchReply {P : State → Prop} (h : Delivers s f x 0x20 1 ack b) (good : bodyFault 0x20 false false b none = none)
    (does : ∀ u y, OnlySent s u → (∀ p, (portOf u p).tmr = (portOf s p).tmr) → sessionOf u x.id = some y → NothingHeld u x.id →
      (∃ due, y = { x with src := f.src, rxSeq := x.rxSeq + 1, ackDue := due }) →
      NothingHeld (fetchIn u y x.rxSeq b) x.id ∧ P (fetchIn u y x.rxSeq b)) : Next (exec (.fetchReply f) s) P := by
  obtain ⟨u, due, sent, tmr, now, run⟩ := exec_fetchReply_of_delivers h good
  obtain ⟨-, -, held, -⟩ := h
  obtain ⟨still, p⟩ := does u _ sent tmr now (fun y found => by rw [now] at found; cases found; exact held) ⟨due, rfl⟩
  rw [release_of_nothingHeld still, nakHeld_of_nothingHeld still] at run
  exact .of_eq run p

theorem next_fetchReply_refused (h : Delivers s f x 0x20 1 ack b) (good : bodyFault 0x20 false false b none = none)
    (unasked : awaitedFetch s b = none ∨ s.hop.op ≠ .loadWeights ∨ (slotOf s s.hop.slot).session ≠ x.id) :
    Next (exec (.fetchReply f) s) fun t => Refused s t f x .state ∧ t.hop = s.hop := by
  refine next_fetchReply h good ?_
  rintro u y sent tmr now held ⟨due, rfl⟩
  have refused := fetchIn_refused (s := u) (x := { x with src := f.src, rxSeq := x.rxSeq + 1, ackDue := due }) (seq := x.rxSeq) (b := b)
    (by rwa [awaitedFetch, slotOf, sent.hop])
  rw [refused]
  obtain ⟨-, unacked, -⟩ := h
  obtain ⟨z, found, rx, src, tx, left⟩ := sessionOf_gmlSend now unacked 0x3F 0 (body := errorBody .state 0x20 32 x.rxSeq 0) (by rw [length_errorBody])
  have reply := sent.trans (onlySent_gmlSend u x.id 0x3F 0 (errorBody .state 0x20 32 x.rxSeq 0))
  refine ⟨nothingHeld_gmlSend held _ _ _ _,
    ⟨⟨errorBody .state 0x20 32 x.rxSeq 0, ⟨z, found, rx, src, tx, left.trans ?_⟩, rfl⟩, fun q => ?_, ?_, reply.mem, reply.mills, reply.cores⟩,
    reply.hop⟩
  · simp only [firstSent, rtoOf, retryOf, tmr, sent.glb]
  · exact congrArg (fun p => Tbl.get {} p.reqs q) reply.pond
  · exact congrArg (·.pools) reply.pond

section
variable {y : Fetch} (h : Delivers s f x 0x20 1 ack b) (good : bodyFault 0x20 false false b none = none)
  (op : s.hop.op = .loadWeights) (mine : (slotOf s s.hop.slot).session = x.id) (named : awaitedFetch s b = some y)
include h good op mine named

/-- What a reply does that a FETCH of the session awaits. -/
theorem next_fetchReply_awaited {P : State → Prop} (does : ∀ u, OnlySent s u → NothingHeld u x.id → ∀ t, (t =
      if num b 4 1 ≠ 0 then weightsStop u ((Code.ofNum (num b 4 1)).getD .protocol) 0xC y.index
      else if num b 8 8 ≠ y.off + y.got.length ∨ y.len < y.got.length + num b 16 4 then weightsStop u .protocol 0xC y.index
      else fetchGoesOn { u with hop := { u.hop with fetches := u.hop.fetches.map fun z => if z.xid = num b 0 4 then fetchJoined u y b else z } }
        y.index) → NothingHeld t x.id ∧ P t) : Next (exec (.fetchReply f) s) P := by
  refine next_fetchReply h good ?_
  rintro u z sent - - held ⟨due, rfl⟩
  exact does u sent held _ (fetchIn_awaited (by rwa [sent.hop]) (by rwa [slotOf, sent.hop]) (by rwa [awaitedFetch, sent.hop]))

theorem next_fetchReply_code {code : Code} (bad : code ≠ .ok) (is : num b 4 1 = code.num) :
    Next (exec (.fetchReply f) s) fun t => WeightsStopped s t code y.index := by
  refine next_fetchReply_awaited h good op mine named fun u sent held t does => ?_
  rw [if_pos (by rw [is]; exact Code.num_ne_zero bad), is, Code.ofNum_num, Option.getD_some] at does
  subst does
  exact ⟨nothingHeld_congr (by rw [weightsStop_sluice]) held, by
    simpa only [WeightsStopped, sent.hop, sent.mem] using weightsStopped u code 0xC y.index⟩

theorem next_fetchReply_misplaced (data : num b 4 1 = 0) (out : num b 8 8 ≠ y.off + y.got.length ∨ y.len < y.got.length + num b 16 4) :
    Next (exec (.fetchReply f) s) fun t => WeightsStopped s t .protocol y.index := by
  refine next_fetchReply_awaited h good op mine named fun u sent held t does => ?_
  rw [if_neg (not_not.2 data), if_pos out] at does
  subst does
  exact ⟨nothingHeld_congr (by rw [weightsStop_sluice]) held, by
    simpa only [WeightsStopped, sent.hop, sent.mem] using weightsStopped u .protocol 0xC y.index⟩

theorem next_fetchReply_joins (data : num b 4 1 = 0) (place : num b 8 8 = y.off + y.got.length) (part : y.got.length + num b 16 4 < y.len) :
    Next (exec (.fetchReply f) s) fun t => fetchJoined s y b ∈ t.hop.fetches ∧ t.mem = s.mem ∧ t.hop.op = .loadWeights ∧
      t.hop.slots = s.hop.slots := by
  refine next_fetchReply_awaited h good op mine named fun u sent held t does => ?_
  rw [if_neg (not_not.2 data), if_neg (by omega)] at does
  subst does
  have xid : y.xid = num b 0 4 := by
    have hit := List.find?_some named
    simp only [Bool.and_eq_true, beq_iff_eq] at hit
    exact hit.1
  have here : fetchJoined u y b ∈ u.hop.fetches.map fun z => if z.xid = num b 0 4 then fetchJoined u y b else z := by
    rw [sent.hop]
    exact List.mem_map.2 ⟨y, List.mem_of_find?_eq_some named, if_pos xid⟩
  have short : (fetchJoined u y b).got.length ≠ (fetchJoined u y b).len := by
    simp only [fetchJoined, List.length_append, length_slice]
    omega
  obtain ⟨more, next, mem, hop⟩ := fetchGoesOn_spares
    (s := { u with hop := { u.hop with fetches := u.hop.fetches.map fun z => if z.xid = num b 0 4 then fetchJoined u y b else z } })
    here short y.index
  refine ⟨nothingHeld_fetchGoesOn (by exact held) here short _, ?_, mem.trans sent.mem, ?_, ?_⟩
  · rw [hop, ← show fetchJoined u y b = fetchJoined s y b by rw [fetchJoined, sent.glb, fetchJoined]]
    exact List.mem_append_left _ here
  · rw [hop, sent.hop]
    exact op
  · rw [hop, sent.hop]

end

end

/-! ### No reply comes (10 R374) -/

theorem weightsStop_time (s : State) (code : Code) (sect i : Nat) : (weightsStop s code sect i).glb.time = s.glb.time := by
  unfold weightsStop hopEnd
  dsimp only
  split <;> simp

section
variable {s : State} {xid : BitVec 32}

theorem exec_fetchTimeout_awaited {y : Fetch} (named : (s.hop.fetches.find? fun y => y.xid == xid.toNat && decide (y.got.length < y.len)) = some y)
    (op : s.hop.op = .loadWeights) :
    exec (.fetchTimeout xid) s = .next (weightsStop (advanceTo s (y.since + 100000000)) .timeout 0xC y.index) := by
  simp only [exec, execFetchTimeout, named, op, if_true]

theorem exec_fetchTimeout_idle (idle : s.hop.op ≠ .loadWeights ∨ ∀ y ∈ s.hop.fetches, y.xid = xid.toNat → y.len ≤ y.got.length) :
    exec (.fetchTimeout xid) s = .next s := by
  simp only [exec, execFetchTimeout]
  cases named : s.hop.fetches.find? fun y => y.xid == xid.toNat && decide (y.got.length < y.len) with
  | none => rfl
  | some y =>
    have hit := List.find?_some named
    simp only [Bool.and_eq_true, beq_iff_eq, decide_eq_true_eq] at hit
    have op : s.hop.op ≠ .loadWeights :=
      idle.resolve_right fun all => absurd hit.2 (Nat.not_lt.2 (all y (List.mem_of_find?_eq_some named) hit.1))
    exact congrArg Host.Outcome.next (if_neg op)

end

/-- Settles O44: what a FETCH reply that reaches the session comes to, and what its time-out does. -/
theorem gmlFetch : Obligations.GmlFetch := by
  refine ⟨fun s f x ack b h whole pad five twenty some => ?_, fun s xid => ⟨fun y named op => ?_, fun idle => ?_⟩⟩
  · have good := bodyFault_fetch whole pad five twenty some
    exact ⟨next_fetchReply_refused h good, fun y op mine named => ⟨fun code => next_fetchReply_code h good op mine named,
      next_fetchReply_misplaced h good op mine named, next_fetchReply_joins h good op mine named⟩⟩
  · have stopped := weightsStopped (advanceTo s (y.since + 100000000)) .timeout 0xC y.index
    rw [WeightsStopped, advanceTo_hop, advanceTo_mem] at stopped
    exact .of_eq (exec_fetchTimeout_awaited named op) ⟨fun runs => (advanceTo_time s _ runs).1.trans_eq (weightsStop_time ..).symm, stopped⟩
  · exact exec_fetchTimeout_idle idle

end Sys2Proof.Machine

namespace Sys2Proof.Machine

/-! ## The tables of the Millpond, each apart from the others (08 R287) -/

section
variable (s : State) (j : Nat)

@[simp] theorem reqOf_updPool (m : Nat) (f : Pool → Pool) : reqOf (updPool s m f) j = reqOf s j := rfl
@[simp] theorem reqOf_updBatch (m : Nat) (f : Batch → Batch) : reqOf (updBatch s m f) j = reqOf s j := rfl
@[simp] theorem reqOf_mpdCount (u i n : Nat) : reqOf (mpdCount s u i n) j = reqOf s j := rfl
@[simp] theorem poolOf_updReq (q : Nat) (f : Req → Req) : poolOf (updReq s q f) j = poolOf s j := rfl
@[simp] theorem poolOf_mpdCount (u i n : Nat) : poolOf (mpdCount s u i n) j = poolOf s j := rfl
@[simp] theorem batchOf_updReq (q : Nat) (f : Req → Req) : batchOf (updReq s q f) j = batchOf s j := rfl
@[simp] theorem batchOf_updPool (m : Nat) (f : Pool → Pool) : batchOf (updPool s m f) j = batchOf s j := rfl
@[simp] theorem batchOf_mpdCount (u i n : Nat) : batchOf (mpdCount s u i n) j = batchOf s j := rfl

end

/-! ## What records and counts of a unit leave (08 R287, 13 R487) -/

/-- Records, interrupts and the counters of regions aside, `t` is what `s` is in what the Millpond and the sessions read. -/
structure Recorded (s t : State) : Prop where
  mem : t.mem = s.mem
  poison : t.poison = s.poison
  mills : t.mills = s.mills
  cores : t.cores = s.cores
  hop : t.hop = s.hop
  pond : t.pond = s.pond
  sluice : t.sluice = s.sluice
  time : t.glb.time = s.glb.time

theorem Recorded.refl (s : State) : Recorded s s := ⟨rfl, rfl, rfl, rfl, rfl, rfl, rfl, rfl⟩

theorem Recorded.trans {s t u : State} (h : Recorded s t) (k : Recorded t u) : Recorded s u where
  mem := k.mem.trans h.mem
  poison := k.poison.trans h.poison
  mills := k.mills.trans h.mills
  cores := k.cores.trans h.cores
  hop := k.hop.trans h.hop
  pond := k.pond.trans h.pond
  sluice := k.sluice.trans h.sluice
  time := k.time.trans h.time

theorem recorded_updRegion (s : State) (g : Nat) (f : Region → Region) : Recorded s (updRegion s g f) :=
  ⟨rfl, rfl, rfl, rfl, rfl, rfl, rfl, rfl⟩

theorem recorded_raiseIrq (s : State) (v : Nat) : Recorded s (raiseIrq s v) := by
  constructor <;> simp

theorem recorded_logRec (s : State) (r : Rec) : Recorded s (logRec s r) := by
  constructor <;> simp

theorem recorded_pfxRec (s : State) (a syn : Nat) : Recorded s (pfxRec s a syn) := recorded_logRec ..

theorem recorded_notePoison (s : State) (a : Nat) : Recorded s (notePoison s a) := recorded_updRegion ..

/-! ## Entries for cached blocks that a unit reads (04 R129, 08 R292, R295) -/

section
variable {s t : State} (mills : t.mills = s.mills) (pools : t.pond.pools = s.pond.pools)
include mills pools

theorem pfxAddr_congr (m i : Nat) : pfxAddr t m i = pfxAddr s m i := by
  simp only [pfxAddr, anchorsOf_congr mills, poolOf, pools]

theorem pfxPoisoned_congr (poison : t.poison = s.poison) (m i : Nat) : pfxPoisoned t m i = pfxPoisoned s m i := by
  rw [pfxPoisoned, poison, pfxAddr_congr mills pools, pfxPoisoned]

theorem pfxReach_congr (slots : t.hop.slots = s.hop.slots) (m i : Nat) : pfxReach t m i = pfxReach s m i := by
  rw [pfxReach, serveOf_congr mills slots, poolOf, pools, pfxReach, poolOf]

theorem pfxGood_congr (slots : t.hop.slots = s.hop.slots) (poison : t.poison = s.poison) (m : Nat) (lost : List Nat) (i : Nat) :
    pfxGood t m lost i = pfxGood s m lost i := by
  rw [pfxGood, pfxReach_congr mills pools slots, pfxPoisoned_congr mills pools poison, pfxAddr_congr mills pools, pfxGood]

end

/-- The bursts of these entries that the unit reaches. -/
def entryBursts (s : State) (m : Nat) (is : List Nat) : List Nat := ((is.filter (pfxReach s m)).map fun i => pfxAddr s m i / 64 * 64).dedup

/-- Does a poisoned burst reach into the burst at `b`? -/
def poisonReaches (s : State) (b : Nat) : Bool := (s.poison.find? fun p => touches [(b, 64)] p 64).isSome

/-- The unit reads one burst, and no upset strikes it. -/
def meetBurst (st : State × List Nat) (b : Nat) : State × List Nat :=
  match meetReads st.1 [(b, 64)] [] with
  | (s, none) => (s, st.2)
  | (s, some f) => (pfxRec s b f.syn, st.2 ++ [b])

theorem meetBurst_eq (s : State) (lost : List Nat) (b : Nat) :
    Recorded s (meetBurst (s, lost) b).1 ∧ (meetBurst (s, lost) b).2 = lost ++ if poisonReaches s b then [b] else [] := by
  unfold meetBurst meetReads poisonReaches
  dsimp only [runAll]
  cases s.poison.find? fun p => touches [(b, 64)] p 64 with
  | none => exact ⟨.refl s, by simp⟩
  | some p => exact ⟨(recorded_notePoison s p).trans (recorded_pfxRec _ b 3), by simp⟩

/-- Where no upset is met, the bursts lost are those into which a poisoned one reaches. -/
theorem meetEntries_nil (s : State) (m : Nat) (is : List Nat) : Recorded s (meetEntries s m is []).1 ∧
    (meetEntries s m is []).2 = (entryBursts s m is).filter (poisonReaches s) := by
  have go (bs : List Nat) (u : State) (lost : List Nat) (kept : Recorded s u) :
      Recorded s (bs.foldl meetBurst (u, lost)).1 ∧ (bs.foldl meetBurst (u, lost)).2 = lost ++ bs.filter (poisonReaches s) := by
    induction bs generalizing u lost with
    | nil => exact ⟨kept, by simp⟩
    | cons b bs ih =>
      obtain ⟨one, found⟩ := meetBurst_eq u lost b
      obtain ⟨all, rest⟩ := ih _ (meetBurst (u, lost) b).2 (kept.trans one)
      refine ⟨all, rest.trans ?_⟩
      rw [found, poisonReaches, kept.poison, ← poisonReaches, List.filter_cons]
      split <;> simp
  exact go (entryBursts s m is) s [] (.refl s)

/-- No block hits in a bucket of which the unit can read no entry. -/
theorem pfxRun_of_unreadable {s : State} {m : Nat} {lost : List Nat} {parent : Nat} {h : List Byte}
    (bad : ∀ i ∈ bucketOf s m h, pfxGood s m lost i = false) (hs : List (List Byte)) : pfxRun s m lost parent (h :: hs) = [] := by
  have none : ((bucketOf s m h).find? fun i => let e := readPfx s m i
      pfxGood s m lost i && e.valid && e.hash == h && e.parent == parent && decide (e.refs < 0xFFFE)) = Option.none :=
    List.find?_eq_none.2 fun i mem => by simp [bad i mem]
  simp only [pfxRun, none]

/-! ## The lookup (08 R293, R295) -/

/-- A pending lookup takes the blocks `is` that hit in the bursts that the unit could read, and then the request asks for the rest (R295). -/
theorem exec_prefixLookup_of_pending {s : State} {q : ReqId} {r : Req} {hs : List (List Byte)} {met : State × List Nat} {is : List Nat}
    {ups : List Upset} (isReq : reqOf s q = r) (st : r.st = .admitted) (pending : r.lookup = true) (area : (poolOf s r.mill).pfxent ≠ 0)
    (hashes : reqHashes s r = hs)
    (reads : meetEntries (updReq s q fun y => { y with lookup := false }) r.mill
      (hs.flatMap (bucketOf (updReq s q fun y => { y with lookup := false }) r.mill)) ups = met)
    (run : pfxRun met.1 r.mill met.2 noEntry hs = is) : exec (.prefixLookup ⟨q, ups⟩) s = .next (admitReq (takeRun
      (mpdCount (mpdCount met.1 (unitOfReq q) 9 is.length) (unitOfReq q) 10 (hs.length - is.length)) q is) q) := by
  subst isReq hashes reads run
  simp only [exec, execPrefixLookup]
  rw [if_neg (by simp [st, pending])]
  exact congrArg Host.Outcome.next (if_neg area)

/-- A run of no block leaves the request without pages. -/
theorem takeRun_nil (s : State) (q : Nat) :
    takeRun s q [] = updReq s q fun y => { y with pages := [], entries := [], shared := 0, pfx := none } := rfl

/-! ## Reservations (08 R289) -/

/-- Pages that are free are reserved, and nothing is evicted for them. -/
theorem reserve_of_room {s : State} {m want : Nat} (room : want ≤ freePages (poolOf s m)) :
    reserve s m want = (true, updPool s m fun p => { p with reserved := p.reserved + want }) := by
  have kept : evictFor m want ((poolOf s m).pfxent + 1) s = s := by
    rw [evictFor]
    exact if_pos room
  rw [reserve, kept]
  exact if_pos room

/-- What an ADMITTED request becomes whose pages are free. -/
theorem admitReq_of_room {s : State} {q : Nat}
    (fits : pagesFor (reqOf s q).maxlen - (reqOf s q).shared ≤ (poolOf s (reqOf s q).mill).pages - (reqOf s q).shared)
    (room : pagesFor (reqOf s q).maxlen - (reqOf s q).shared ≤ freePages (poolOf s (reqOf s q).mill)) :
    admitReq s q = updReq (updPool s (reqOf s q).mill fun p =>
      { p with reserved := p.reserved + (pagesFor (reqOf s q).maxlen - (reqOf s q).shared) }) q fun y =>
        { y with st := .prefill, resv := pagesFor (reqOf s q).maxlen - (reqOf s q).shared, computed := 64 * y.shared, curlen := 64 * y.shared } := by
  rw [admitReq, if_neg (by omega), reserve_of_room room]


theorem length_shake256 (m : List Byte) : (shake256 m 12).length = 12 := by
  unfold shake256 sponge
  dsimp only
  generalize absorb _ _ _ = a
  show ((squeeze 1 a).take 12).length = 12
  simp [squeeze, leBytes, List.length_flatten, Function.comp_def]

/-- A number that stands wholly behind the bytes in front. -/
theorem num_append_right {a b : List Byte} {k : Nat} (length : a.length = k) (off n : Nat) : num (a ++ b) (k + off) n = num b off n := by
  subst length
  rw [num, slice, List.drop_append, List.drop_eq_nil_of_le (by omega), List.nil_append, Nat.add_sub_cancel_left]
  rfl


/-! ## A batch whose length table is written beside a poisoned burst (04 R130, 08 R305) -/

/-- An image of one section, which serves mill 7 in unit 0 by window 14, with one class whose requests QUEUE (R245, R260). -/
def onePondImage : List Byte :=
  List.replicate 12 0 ++ leBytes 4 1 ++ List.replicate 240 0
    ++ leBytes 8 0xA ++ leBytes 8 80
    ++ leBytes 4 1 ++ leBytes 4 1 ++ List.replicate 8 0
    ++ leBytes 4 7 ++ leBytes 2 1 ++ leBytes 2 7 ++ List.replicate 6 0 ++ [14] ++ List.replicate 17 0
    ++ List.replicate 8 0 ++ leBytes 4 100 ++ List.replicate 12 0 ++ leBytes 2 7 ++ List.replicate 6 0

/-- Core 768, the first of region 3, with window 14 open to mill 7 both ways over the first 512 bytes of its stack. -/
def pondCore : Core :=
  { handles := [(1, { w0 := 0x70, w1 := 64 })], windows := [(14, { opened := true, w0 := 0x2000000001, w1 := 0x3007 })] }

/-- Mill 7 of core 768 serves unit 0 with these requests, this pool and these poisoned bursts. -/
def onePond (reqs : Tbl Req) (pool : Pool) (poison : List Nat) : State :=
  { State.reset with
    regions := [(3, { org := { shape := .full, realm := some 0 }, pwr := { rails := 15 } })]
    mills := [(7, { st := .idle, cfg := { owner := true, slot := 3, parent := 7, region := 3, w := 1, h := 1 } })]
    cores := [(768, pondCore)]
    hop := { slots := [(3, { st := .loaded, image := onePondImage })] }
    pond := { reqs := reqs, pools := [(7, pool)] }
    poison := poison }

/-- A request of mill 7 in DECODE, ready for its next step. -/
def readyReq : Req :=
  { st := .decode, img := 3, mill := 7, pages := [3], curlen := 1, maxlen := 10, outcur := 1, tokens := [11], fresh := false }

/-- Request 9 is ready, and a burst is poisoned from the byte on that follows the length table: no multiple of 64, and inside the burst in
which the table ends. -/
def besideTable : State := onePond [(9, readyReq)] { pages := 4 } [coreAddr 768 0 208]

/-- The mill that serves in `onePond`. -/
def onePondServe : ServeRec := { mill := 7, role := 0, unit := 0, maxbatch := 1, draftMill := 7, entries := (0, 0, 0), ltwin := 14 }

/-- The class of the requests in `onePond`. -/
def onePondClass : ClassRec :=
  { cls := 0, prio := 0, onfull := 0, onend := 0, parkmode := 0, draft := 0, draftlen := 0, maxlen := 100, ttl := 0, parkthresh := 0
    ewmaMin := 0, holdN := 0, holdM := 0, serveMill := 7 }

theorem servesAt_besideTable : ServesAt besideTable 7 768 onePondServe := by
  unfold ServesAt; decide +kernel

theorem plainClass_besideTable : PlainClass besideTable 9 onePondClass := by
  unfold PlainClass; decide +kernel

theorem edgeOpen_besideTable : EdgeOpen besideTable 0 768 .a := by
  unfold EdgeOpen WayOpen RouteOpen; decide +kernel

/-- The bytes of the length table meet no poisoned burst. -/
theorem unpoisoned_besideTable : Unpoisoned besideTable (coreAddr 768 0 0) 208 := by
  unfold Unpoisoned; decide +kernel

theorem ltRange_besideTable : ltRange besideTable 7 768 = (0, 0, 512) := by decide +kernel

/-- The burst in which the table ends is read before it is written; the read meets the poison, and the refused write fails the batch. -/
theorem pass_besideTable : Next (exec (.schedulingPass 0) besideTable) fun t => (batchOf t 7).kind = 0 :=
  .of_eq rfl (by decide +kernel)

/-- Refutes O47: a pass does not make a batch of a request that is ready, though no poisoned burst meets the bytes of the length table, where
the poison starts within the burst in which the table ends. -/
theorem not_schedulingPass : ¬ Obligations.SchedulingPass := by
  intro h
  obtain ⟨-, batch, -⟩ := h
  have range : ltRange besideTable 7 768 = (0, 0, 512) := ltRange_besideTable
  obtain ⟨t, run, kind, -⟩ := batch besideTable 0 7 9 768 onePondServe onePondClass (by decide +kernel) (by decide +kernel) (by decide +kernel)
    servesAt_besideTable plainClass_besideTable (by unfold Idles; decide +kernel) rfl (by decide +kernel) (by decide +kernel) (by decide)
    rfl rfl rfl rfl rfl (by decide) rfl rfl rfl rfl (by decide) (by decide) rfl (by decide) (by rw [range]; decide) edgeOpen_besideTable
    (by rw [range]; exact unpoisoned_besideTable)
  obtain ⟨u, run', failed⟩ := pass_besideTable
  obtain rfl : t = u := by
    rw [run] at run'
    injection run'
  exact absurd (kind.symm.trans failed) (by decide)


/-! ## A lookup that meets poison beside the bursts of its bucket (04 R129, 08 R295) -/

/-- The bytes of a VALID entry (R292) of a first block with this hash, which page 3 holds. -/
def hitEntry (h : List Byte) : List Byte := h ++ (leBytes 4 3 ++ leBytes 4 noEntry ++ [0, 0, 1, 0] ++ leBytes 8 0)

/-- A request of mill 7 whose lookup is pending, with one shareable block. -/
def lookupReq : Req :=
  { st := .admitted, session := 1, img := 3, mill := 7, maxlen := 70, lookup := true, tokens := List.replicate 65 7, sublen := 65, firstLen := 65 }

/-- The session of the request. -/
def pondSession : Session :=
  { id := 1, port := 0, subB := false, realm := 0, role := 0, keyid := 0, key := [], src := { family := 0, mac := 0, ip := 0, udp := 0 } }

/-- One bucket of entries for cached blocks, all EMPTY. Two bursts are poisoned that are no multiples of 64: each reaches into two of the four bursts that
hold the bucket. -/
def emptyBucket : State :=
  { onePond [(9, lookupReq)] { pages := 4, pfxent := 8 } [coreAddr 768 0 32, coreAddr 768 0 160] with sluice := { sessions := [pondSession] } }

/-- The first entry of the bucket is VALID with hash `h`. -/
def besideBucket (h : List Byte) : State := { emptyBucket with mem := Memory.put [] (coreAddr 768 0 0) (hitEntry h) }

section
variable (h : List Byte)

theorem bucketOf_besideBucket (k : List Byte) : bucketOf (besideBucket h) 7 k = List.range 8 := by
  have pool : poolOf (besideBucket h) 7 = { pages := 4, pfxent := 8 } := rfl
  simp [bucketOf, pool, Nat.mod_one]

theorem pfxAddr_besideBucket (i : Nat) : pfxAddr (besideBucket h) 7 i = pfxAddr emptyBucket 7 i := pfxAddr_congr rfl rfl 7 i

theorem pfxGood_besideBucket (lost : List Nat) (i : Nat) : pfxGood (besideBucket h) 7 lost i = pfxGood emptyBucket 7 lost i :=
  pfxGood_congr rfl rfl rfl rfl 7 lost i

end

section
variable {h : List Byte} (whole : h.length = 12)
include whole

theorem readPfx_besideBucket : readPfx (besideBucket h) 7 0 =
    { hash := h, page := 3, parent := noEntry, refs := 0, valid := true, lastuse := 0 } := by
  have reach : (!pfxReach (besideBucket h) 7 0 || pfxPoisoned (besideBucket h) 7 0) = false := by
    rw [pfxReach_congr (s := emptyBucket) (t := besideBucket h) rfl rfl rfl,
      pfxPoisoned_congr (s := emptyBucket) (t := besideBucket h) rfl rfl rfl]
    decide +kernel
  have place : pfxAddr (besideBucket h) 7 0 = coreAddr 768 0 0 := by
    rw [pfxAddr_besideBucket]
    decide +kernel
  have bytes : readBytes (besideBucket h) (coreAddr 768 0 0) 32 = hitEntry h := by
    have read := readBytes_of_put (s := emptyBucket) (t := besideBucket h) (a := coreAddr 768 0 0) (bs := hitEntry h) rfl
    rwa [show (hitEntry h).length = 32 by simp [hitEntry, whole]] at read
  have tail (off n : Nat) : num (hitEntry h) (12 + off) n = num (leBytes 4 3 ++ leBytes 4 noEntry ++ [0, 0, 1, 0] ++ leBytes 8 0) off n :=
    num_append_right whole ..
  unfold readPfx
  rw [reach, if_neg (by decide)]
  dsimp only
  rw [place, bytes, tail 0, tail 4, tail 8, tail 10, tail 12, show (hitEntry h).take 12 = h from List.take_left' whole]
  rfl

/-- The first block hits in a table of which no burst is lost. -/
theorem pfxRun_besideBucket : pfxRun (besideBucket h) 7 [] noEntry [h] = [0] := by
  have good : pfxGood (besideBucket h) 7 [] 0 = true := by
    rw [pfxGood_besideBucket]
    decide +kernel
  have hit : ((List.range 8).find? fun i => let e := readPfx (besideBucket h) 7 i
      pfxGood (besideBucket h) 7 [] i && e.valid && e.hash == h && e.parent == noEntry && decide (e.refs < 0xFFFE)) = some 0 := by
    rw [List.range_succ_eq_map, List.find?_cons_of_pos]
    simp [good, readPfx_besideBucket whole, noEntry]
  simp only [pfxRun, bucketOf_besideBucket, hit]

end

/-- The bucket as the lookup sees it, its reads begun. -/
def lookingUp (h : List Byte) : State := updReq (besideBucket h) 9 fun y => { y with lookup := false }

/-- Every burst of the bucket is lost to the poison that reaches into it. -/
theorem lost_lookingUp (h : List Byte) : (meetEntries (lookingUp h) 7 (List.range 8) []).2 =
    [coreAddr 768 0 0, coreAddr 768 0 64, coreAddr 768 0 128, coreAddr 768 0 192] := by
  obtain ⟨-, lost⟩ := meetEntries_nil (lookingUp h) 7 (List.range 8)
  have bursts : entryBursts (lookingUp h) 7 (List.range 8) = entryBursts emptyBucket 7 (List.range 8) := by
    rw [entryBursts, funext (pfxReach_congr (s := emptyBucket) (t := lookingUp h) rfl rfl rfl 7)]
    simp only [pfxAddr_congr (s := emptyBucket) (t := lookingUp h) rfl rfl]
    rfl
  rw [lost, bursts]
  show (entryBursts emptyBucket 7 (List.range 8)).filter (poisonReaches emptyBucket) = _
  decide +kernel

/-- The hash of the request's one shareable block. -/
def pondHash : List Byte := blockHash [] [] (List.replicate 64 7)

theorem length_pondHash : pondHash.length = 12 := by
  rw [pondHash, blockHash, length_shake256]

theorem reqHashes_besideBucket (h : List Byte) : reqHashes (besideBucket h) lookupReq = [pondHash] := rfl

/-- With every burst of the bucket lost, no block hits. -/
theorem pfxRun_lookingUp (h : List Byte) : let met := meetEntries (lookingUp h) 7 (List.range 8) []
    pfxRun met.1 7 met.2 noEntry [pondHash] = [] := by
  obtain ⟨kept, -⟩ := meetEntries_nil (lookingUp h) 7 (List.range 8)
  have pools : (meetEntries (lookingUp h) 7 (List.range 8) []).1.pond.pools = emptyBucket.pond.pools := by
    rw [kept.pond]
    rfl
  have unreadable : ∀ i ∈ List.range 8,
      pfxGood emptyBucket 7 [coreAddr 768 0 0, coreAddr 768 0 64, coreAddr 768 0 128, coreAddr 768 0 192] i = false := by
    decide +kernel
  refine pfxRun_of_unreadable (fun i mem => ?_) []
  rw [bucketOf, poolOf, pools] at mem
  rw [pfxGood_congr (s := emptyBucket) kept.mills pools (congrArg _ kept.hop) kept.poison, lost_lookingUp]
  exact unreadable i (bucketOf_besideBucket h pondHash ▸ mem)

/-- The request once its reads are done: it holds no page. -/
def missedReq : Req := { lookupReq with lookup := false, pages := [], entries := [], shared := 0, pfx := none }

/-- So the request takes no entry. -/
theorem lookup_besideBucket (h : List Byte) : Next (exec (.prefixLookup ⟨9, []⟩) (besideBucket h)) fun t => (reqOf t 9).entries = [] := by
  have reads : meetEntries (lookingUp h) 7 (([pondHash] : List (List Byte)).flatMap (bucketOf (lookingUp h) 7)) [] =
      meetEntries (lookingUp h) 7 (List.range 8) [] := by
    rw [List.flatMap_singleton]
    exact congrArg (meetEntries (lookingUp h) 7 · []) (bucketOf_besideBucket h pondHash)
  obtain ⟨kept, -⟩ := meetEntries_nil (lookingUp h) 7 (List.range 8)
  have area : (poolOf (besideBucket h) lookupReq.mill).pfxent ≠ 0 := by
    rw [show poolOf (besideBucket h) lookupReq.mill = { pages := 4, pfxent := 8 } from rfl]
    decide
  have run := exec_prefixLookup_of_pending (q := 9) (r := lookupReq) rfl rfl rfl area (reqHashes_besideBucket h) reads (pfxRun_lookingUp h)
  rw [show ((9 : ReqId) : Nat) = 9 from rfl] at run
  generalize isV : takeRun _ _ _ = v at run
  have isReq : reqOf v 9 = missedReq := by
    rw [← isV, takeRun_nil, reqOf_updReq_same, reqOf_mpdCount, reqOf_mpdCount, reqOf, kept.pond]
    rfl
  have isPool : poolOf v 7 = { pages := 4, pfxent := 8 } := by
    rw [← isV, takeRun_nil, poolOf_updReq, poolOf_mpdCount, poolOf_mpdCount, poolOf, kept.pond]
    rfl
  refine .of_eq run ?_
  have isPool' : poolOf v (reqOf v 9).mill = { pages := 4, pfxent := 8 } := by rw [isReq]; exact isPool
  rw [admitReq_of_room (by rw [isPool', isReq]; decide) (by rw [isPool', isReq]; decide), isReq, reqOf_updReq_same,
    reqOf_updPool, isReq]
  rfl

/-- Refutes O48: a block that hits in the table is not taken, though no burst that holds the bucket is poisoned, where a poisoned burst that is
no multiple of 64 reaches into each burst that the unit reads. -/
theorem not_prefixLookup : ¬ Obligations.PrefixLookup := by
  intro h
  obtain ⟨hits, -⟩ := h
  obtain ⟨found, -⟩ := hits (besideBucket pondHash) 9 onePondClass pondSession rfl rfl (by decide +kernel) rfl (by decide) rfl rfl rfl
  have isReq : reqOf (besideBucket pondHash) 9 = lookupReq := rfl
  simp only [show ((9 : ReqId) : Nat) = 9 from rfl, isReq, reqHashes_besideBucket, show lookupReq.mill = 7 from rfl,
    pfxRun_besideBucket length_pondHash] at found
  obtain ⟨t, run, -, -, entries, -⟩ := found [] (.inl rfl) (by decide) (by decide)
  obtain ⟨u, run', none⟩ := lookup_besideBucket pondHash
  obtain rfl : t = u := by
    rw [run] at run'
    injection run'
  exact absurd (entries.symm.trans none) (by decide)

end Sys2Proof.Machine

namespace Sys2Proof.Machine

/-! ## A command of one message that arrives in its turn (10 R365, R370, R376) -/

theorem stagedOn_congr {s t : State} (same : t.sluice.sessions = s.sluice.sessions) (k : Nat) : stagedOn t k = stagedOn s k := by
  rw [stagedOn, same, stagedOn]

/-- What is staged does not depend on the other fields of the sessions. -/
theorem stagedOn_updSession {f : Session → Session} (port : ∀ y, (f y).port = y.port) (staged : ∀ y, (f y).staged = y.staged) (s : State)
    (n : BitVec 32) (k : Nat) : stagedOn (updSession s n f) k = stagedOn s k := by
  unfold stagedOn updSession
  rw [List.foldl_map]
  congr 1
  funext t y
  have port' : unitOfSession (if y.id == n then f y else y) = unitOfSession y := by
    unfold unitOfSession
    split
    · rw [port]
    · rfl
  have staged' : (if y.id == n then f y else y).staged = y.staged := by
    split
    · exact staged y
    · rfl
  rw [staged', port']

/-- `u` is `s` once the message that session `x` awaits has taken its place, and `y` is the session there. -/
structure Arrived (s : State) (f : Frame) (x : Session) (u : State) (y : Session) : Prop where
  only : OnlySent s u
  tmr : ∀ p, (portOf u p).tmr = (portOf s p).tmr
  staged : ∀ k, stagedOn u k = stagedOn s k
  found : sessionOf u x.id = some y
  is : ∃ due, y = { x with src := f.src, rxSeq := x.rxSeq + 1, ackDue := due }

/-- The session has received the message; nothing has left on it, and nothing is held for it. -/
structure Listens (s : State) (f : Frame) (x : Session) (t : State) : Prop where
  session : ∃ y, sessionOf t x.id = some y ∧ y.rxSeq = x.rxSeq + 1 ∧ y.src = f.src ∧ y.txSeq = x.txSeq ∧ y.unacked = [] ∧ y.held = [] ∧
    y.port = x.port
  tmr : (portOf t x.port).tmr = (portOf s x.port).tmr
  time : t.glb.time = s.glb.time

section
variable {s t u : State} {f : Frame} {x y : Session}

theorem Arrived.listens (h : Arrived s f x u y) (none : x.unacked = []) (held : x.held = []) : Listens s f x u := by
  obtain ⟨due, rfl⟩ := h.is
  exact ⟨⟨_, h.found, rfl, rfl, rfl, none, held, rfl⟩, h.tmr _, by rw [h.only.glb]⟩

/-- What leaves the sessions and the time leaves the session listening. -/
theorem Listens.congr (h : Listens s f x u) (sluice : t.sluice = u.sluice) (time : t.glb.time = u.glb.time) : Listens s f x t := by
  obtain ⟨session, tmr, time'⟩ := h
  exact ⟨by rwa [sessionOf_congr (congrArg (·.sessions) sluice)], by rwa [portOf, sluice], time.trans time'⟩

theorem Listens.nothingHeld (h : Listens s f x t) : NothingHeld t x.id := by
  obtain ⟨⟨y, found, -, -, -, -, held, -⟩, -⟩ := h
  intro z found'
  rw [found] at found'
  cases found'
  exact held

theorem Listens.received (h : Listens s f x t) : Received t f x := by
  obtain ⟨⟨y, found, rx, src, tx, none, -⟩, -⟩ := h
  exact ⟨y, found, rx, src, none, tx⟩

theorem Listens.replied (h : Listens s f x t) (type flags : Nat) {body : List Byte} (aligned : body.length % 8 = 0) :
    Replied s (gmlSend t x.id type flags body) f x type flags body := by
  obtain ⟨⟨y, found, rx, src, tx, none, -, port⟩, tmr, time⟩ := h
  obtain ⟨z, found', rx', src', tx', left⟩ := sessionOf_gmlSend found none type flags aligned
  refine ⟨z, found', rx'.trans rx, src'.trans src, by rw [tx', tx], left.trans ?_⟩
  rw [firstSent, firstSent, tx, port, time, rtoOf, retryOf, tmr, ← rtoOf, ← retryOf]

theorem Replied.congr {type flags : Nat} {body : List Byte} (h : Replied s u f x type flags body) (same : t.sluice = u.sluice) :
    Replied s t f x type flags body := by
  rwa [Replied, sessionOf_congr (congrArg (·.sessions) same)]

end

/-- What the unit does with the commands of one message that change requests. -/
def takeCommand (type : Nat) (u : State) (y : Session) (seq : BitVec 32) (b : List Byte) : State :=
  if type = 0x10 then firstMessage u y seq false false b
  else if type = 0x12 then cancelIn u y seq b
  else if type = 0x13 then parkIn u y seq b
  else firstMessage u y seq true false b

section
variable (u : State) (y : Session) (seq : BitVec 32) (b : List Byte)

theorem takeCommand_submit : takeCommand 0x10 u y seq b = firstMessage u y seq false false b := if_pos rfl

theorem takeCommand_cancel : takeCommand 0x12 u y seq b = cancelIn u y seq b := by simp [takeCommand]

theorem takeCommand_park : takeCommand 0x13 u y seq b = parkIn u y seq b := by simp [takeCommand]

theorem takeCommand_resume : takeCommand 0x14 u y seq b = firstMessage u y seq true false b := by simp [takeCommand]

end

/-- The types of these commands. -/
def commandTypes : List Nat := [0x10, 0x12, 0x13, 0x14]

section
variable {type : Nat} (kind : type ∈ commandTypes)
include kind

/-- Checks 4 and 5 of R376 pass on a command whose body is right. -/
theorem deliverGml_command {s : State} {n id seq ack : BitVec 32} {y : Session} {b : List Byte} (found : sessionOf s n = some y)
    (staged : y.staged = none) (free : quarantined s y = false) (short : b.length < 2 ^ 32)
    (good : bodyFault type false false b none = none) (src : Source) :
    deliverGml s n (gmlHeader type 0 id seq ack 0 b.length ++ b) src = takeCommand type s y seq b := by
  have byte : type < 256 := by simp [commandTypes] at kind; omega
  have body : slice (gmlHeader type 0 id seq ack 0 b.length ++ b) 32 b.length = b := by
    rw [← List.append_nil (_ ++ b), slice_append_right (length_gmlHeader ..)]
  have header : headerFault (gmlHeader type 0 id seq ack 0 b.length ++ b) = none := by
    simp [headerFault, firstOffset, num_gmlHeader_flags, num_gmlHeader_sack, zeros_gmlHeader]
  have isEmpty : (gmlHeader type 0 id seq ack 0 b.length ++ b).isEmpty = false := rfl
  unfold deliverGml
  rw [found]
  dsimp only
  rw [num_gmlHeader_type _ _ _ _ _ _ _ _ byte, num_gmlHeader_flags _ _ _ _ _ _ _ _ (by decide),
    num_gmlHeader_len _ _ _ _ _ _ _ _ short, num_gmlHeader_seq, body, header, isEmpty, staged,
    show Nat.testBit 0 1 = false from rfl, show Nat.testBit 0 2 = false from rfl, good]
  simp only [commandTypes, List.mem_cons, List.not_mem_nil, or_false] at kind
  obtain rfl | rfl | rfl | rfl := kind <;> simp [pendingFault, free, takeCommand]

/-- What a command comes to is what the unit makes of a state in which its message has arrived. -/
theorem next_command {s : State} {f : Frame} {x : Session} {ack : BitVec 32} {b : List Byte} {P : State → Prop}
    (h : Delivers s f x type 0 ack b) (good : bodyFault type false false b none = none)
    (does : ∀ u y, Arrived s f x u y → Listens s f x u →
      NothingHeld (takeCommand type u y x.rxSeq b) x.id ∧ P (takeCommand type u y x.rxSeq b)) : Next (gmlRow type f s) P := by
  have given : type ∈ gmlTypes := by
    simp only [commandTypes, List.mem_cons, List.not_mem_nil, or_false] at kind
    obtain rfl | rfl | rfl | rfl := kind <;> decide
  have sequenced : type ≠ 1 ∧ type ≠ 3 ∧ type ≠ 4 := by simp [commandTypes] at kind; omega
  have allowed : directionOk type (Nat.testBit 0 0) = true := by
    simp only [commandTypes, List.mem_cons, List.not_mem_nil, or_false] at kind
    obtain rfl | rfl | rfl | rfl := kind <;> rfl
  have arrives := gmlFrame_of_delivers h given sequenced (by decide) allowed
  obtain ⟨⟨takes, keep, found, -, -, bytes, -, fits⟩, unacked, held, staged, free⟩ := h
  have long := maxBody_le s f.port.val
  have byte : type < 256 := by simp [commandTypes] at kind; omega
  have isType : num f.bytes 1 1 = type := by
    rw [bytes, List.append_assoc, num_gmlHeader_type _ _ _ _ _ _ _ _ byte]
  obtain ⟨due, now⟩ := sessionOf_accepted (frameCounted s f) (n := x.id) (x := x) (by rwa [sessionOf_congr (frameCounted_sessions s f)]) f.src
  have glb : (accepted (frameCounted s f) x.id f.src).glb = s.glb := (onlySent_frameCounted s f).glb
  have arrived : Arrived s f x (accepted (frameCounted s f) x.id f.src) { x with src := f.src, rxSeq := x.rxSeq + 1, ackDue := due } :=
    { only := (onlySent_frameCounted s f).trans (onlySent_accepted ..)
      tmr := fun p => by rw [portOf_accepted, tmr_frameCounted]
      staged := fun k => by
        rw [accepted, oweAck, stagedOn_updSession (by intro; rfl) (by intro; rfl), stagedOn_updSession (by intro; rfl) (by intro; rfl),
          stagedOn_updSession (by intro; rfl) (by intro; rfl), stagedOn_congr (frameCounted_sessions s f)]
      found := now
      is := ⟨due, rfl⟩ }
  obtain ⟨still, p⟩ := does _ _ arrived (arrived.listens unacked held)
  rw [deliverGml_command kind now staged (by rw [← free, quarantined, glb, quarantined]) (by omega) good, release_of_nothingHeld still,
    nakHeld_of_nothingHeld still] at arrives
  have noPtp : ptpFrame s f = false := by
    rw [keeps] at keep
    simp only [Bool.and_eq_true, Bool.not_eq_true'] at keep
    simp only [keep]
  refine .of_eq ?_ p
  rw [← arrives]
  simp [gmlRow, takes, noPtp, keep, isType]

end

/-! ## Commands that are refused (10 R375) -/

theorem refuse_eq (s : State) (x : Session) (code : Code) (type offset : Nat) (seq : BitVec 32) (key : Nat) :
    (refuse s x code type offset seq key).sluice = (gmlError s x.id code type offset seq key).sluice ∧
    (refuse s x code type offset seq key).mem = s.mem ∧ (refuse s x code type offset seq key).mills = s.mills ∧
    (refuse s x code type offset seq key).cores = s.cores ∧ (refuse s x code type offset seq key).pond.reqs = s.pond.reqs ∧
    (refuse s x code type offset seq key).pond.pools = s.pond.pools := by
  have sent : OnlySent s (gmlError s x.id code type offset seq key) := onlySent_gmlSend ..
  have pond := sent.pond
  unfold refuse
  dsimp only
  split
  · exact ⟨rfl, sent.mem, sent.mills, sent.cores, congrArg (·.reqs) pond, congrArg (·.pools) pond⟩
  · split
    · exact ⟨rfl, sent.mem, sent.mills, sent.cores, congrArg (·.reqs) pond, congrArg (·.pools) pond⟩
    · exact ⟨rfl, sent.mem, sent.mills, sent.cores, congrArg (·.reqs) pond, congrArg (·.pools) pond⟩

/-- The ERROR of a command that is refused where nothing has changed. -/
theorem refused_refuse {s v : State} {f : Frame} {x y : Session} (listens : Listens s f x v) (id : y.id = x.id)
    (reqs : ∀ q, reqOf v q = reqOf s q) (pools : v.pond.pools = s.pond.pools) (mem : v.mem = s.mem) (mills : v.mills = s.mills)
    (cores : v.cores = s.cores) (code : Code) (type offset : Nat) (seq : BitVec 32) (key : Nat) :
    NothingHeld (refuse v y code type offset seq key) x.id ∧ Refused s (refuse v y code type offset seq key) f x code := by
  obtain ⟨sluice, mem', mills', cores', reqs', pools'⟩ := refuse_eq v y code type offset seq key
  rw [gmlError, id] at sluice
  have none : NothingHeld (gmlSend v x.id 0x3F 0 (errorBody code type offset seq key)) x.id :=
    nothingHeld_gmlSend listens.nothingHeld _ _ _ _
  have reply := listens.replied 0x3F 0 (body := errorBody code type offset seq key) (by rw [length_errorBody])
  refine ⟨nothingHeld_congr (congrArg (·.sessions) sluice) none, ⟨_, Replied.congr reply sluice, rfl⟩, fun q => ?_,
    pools'.trans pools, mem'.trans mem, mills'.trans mills, cores'.trans cores⟩
  · rw [reqOf, reqs', ← reqOf, reqs]

end Sys2Proof.Machine

namespace Sys2Proof.Machine

/-! ## Fields of a body (05 R370) -/

theorem slice_take {off n k : Nat} (within : off + n ≤ k) (b : List Byte) : slice (b.take k) off n = slice b off n := by
  have got : ((b.take k).drop off).take n = (b.drop off).take n := by
    rw [List.drop_take, List.take_take, Nat.min_eq_left (by omega)]
  rw [slice, got, slice]

theorem num_take {off n k : Nat} (within : off + n ≤ k) (b : List Byte) : num (b.take k) off n = num b off n := by
  rw [num, slice_take within, num]

theorem tokensIn_take {off n k : Nat} (within : off + 4 * n ≤ k) (b : List Byte) : tokensIn (b.take k) off n = tokensIn b off n := by
  refine List.map_congr_left fun i mem => ?_
  have below := List.mem_range.1 mem
  rw [num_take (by omega)]

theorem num_lt (b : List Byte) (off n : Nat) : num b off n < 256 ^ n := by
  have lt := leNat_lt (slice b off n)
  rwa [length_slice] at lt

/-! ## The state that a mill reports rests on the table of mills (01 R38) -/

theorem ownerUp_congr {s t : State} (h : t.mills = s.mills) (m : Nat) : ownerUp t m = ownerUp s m := by
  simp only [ownerUp, chain_congr h, millOf_congr h]

theorem millState_congr {s t : State} (h : t.mills = s.mills) (m : Nat) : millState t m = millState s m := by
  simp only [millState, ownerUp_congr h, descendants_congr h, millOf_congr h]

/-! ## A command sees the Millpond as it was (10 R365) -/

section
variable {s u : State} {f : Frame} {x y : Session} (h : Arrived s f x u y)
include h

theorem Arrived.id : y.id = x.id := by obtain ⟨due, rfl⟩ := h.is; rfl

theorem Arrived.port : y.port = x.port := by obtain ⟨due, rfl⟩ := h.is; rfl

theorem Arrived.realm : y.realm = x.realm := by obtain ⟨due, rfl⟩ := h.is; rfl

theorem Arrived.unit : unitOfSession y = x.port / 4 := by rw [unitOfSession, h.port]

theorem Arrived.reqOf (q : Nat) : reqOf u q = Machine.reqOf s q := by rw [h.only]; rfl

theorem Arrived.poolOf (m : Nat) : poolOf u m = Machine.poolOf s m := by rw [h.only]; rfl

theorem Arrived.classOf (i c : Nat) : classOf u i c = Machine.classOf s i c := by rw [h.only]; rfl

theorem Arrived.freeEntry (k : Nat) : freeEntry u k = Machine.freeEntry s k := by rw [h.only]; rfl

theorem Arrived.slotOf (i : Nat) : slotOf u i = Machine.slotOf s i := by rw [h.only]; rfl

theorem Arrived.serveOf (m : Nat) : serveOf u m = Machine.serveOf s m :=
  serveOf_congr h.only.mills (congrArg (·.slots) h.only.hop) m

theorem Arrived.millState (m : Nat) : millState u m = Machine.millState s m := millState_congr h.only.mills m

theorem Arrived.submitMill (i c : Nat) : submitMill u i c = Machine.submitMill s i c := by
  rw [Machine.submitMill, h.classOf, Machine.submitMill]

theorem Arrived.submitRows5 (i c : Nat) : submitRows5 u y i c = Machine.submitRows5 s x i c := by
  simp only [Machine.submitRows5, h.submitMill, h.slotOf, h.serveOf, h.millState, h.poolOf, h.classOf, h.realm, h.unit,
    show unitOfSession x = x.port / 4 from rfl]

theorem Arrived.submitRows7 (m l t p g : Nat) (toks : List (BitVec 32)) (temp topk deadline : Nat) :
    submitRows7 u m l t p g toks temp topk deadline = Machine.submitRows7 s m l t p g toks temp topk deadline := by
  rw [h.only]
  rfl

/-- The ERROR of a command that changes nothing. -/
theorem Arrived.refused (listens : Listens s f x u) (code : Code) (type offset : Nat) (seq : BitVec 32) (key : Nat) :
    NothingHeld (refuse u y code type offset seq key) x.id ∧ Refused s (refuse u y code type offset seq key) f x code :=
  refused_refuse listens h.id h.reqOf (congrArg (·.pools) h.only.pond) h.only.mem h.only.mills h.only.cores ..

end

/-! ## SUBMIT (08 R288) -/

/-- The first message of a SUBMIT that is whole, as the unit takes it (R370, R371). -/
theorem firstMessage_submit {s u : State} {f : Frame} {x y : Session} {b : List Byte} {p : Nat} (h : Arrived s f x u y) (count : num b 40 4 = p)
    (here : num b 12 4 = p) (shut : s.bst.shut = .none) (room : stagedOn s (x.port / 4) + p ≤ 4194304) (seq : BitVec 32) :
    firstMessage u y seq false false b = submitIn u y seq b (tokensIn b 64 p) := by
  have up : u.bst.shut = .none := by rw [h.only, ← shut]
  have front : submitIn u y seq (b.take 64) (tokensIn b 64 p) = submitIn u y seq b (tokensIn b 64 p) := by
    simp only [submitIn, num_take, tokensIn_take, Nat.reduceAdd, Nat.reduceMul, Nat.reduceLeDiff]
  rw [← front]
  simp [firstMessage, up, count, here, h.staged, h.unit, stagingMax, show ¬ 4194304 < p by omega, commandIn,
    show ¬ 4194304 < stagedOn s (x.port / 4) + p by omega]

/-- Rows 1 to 5 of R288 pass where a mill serves the class. -/
theorem submitRows5_of_serves {s : State} {x : Session} {img cls : Nat} {k : ClassRec} {r : ServeRec} (serves : Serves s x img cls k r) :
    submitRows5 s x img cls = none := by
  obtain ⟨low, st, realm, isClass, serve, unit, fenced, failed, halted, pages, vocab⟩ := serves
  simp [submitRows5, submitMill, firstWrong, low, st, realm, isClass, serve, unit, fenced, failed, halted, pages, vocab, unitOfSession]

section
variable {s : State} {x : Session} {b : List Byte} {toks : List (BitVec 32)} {seq : BitVec 32}

/-- Rows 1 to 5 of R288. -/
theorem submitIn_of_rows5 {e : Code × Nat} (wrong : submitRows5 s x (num b 0 1) (num b 1 1) = some e) :
    submitIn s x seq b toks = refuse s x e.1 0x10 e.2 seq (num b 32 8) := by
  unfold submitIn
  dsimp only
  rw [wrong]
  cases classOf s (num b 0 1) (num b 1 1) <;> rfl

variable {k : ClassRec} (cls : classOf s (num b 0 1) (num b 1 1) = some k) (right : submitRows5 s x (num b 0 1) (num b 1 1) = none)
include cls right

/-- With no prompt or nothing to generate it is done at once. -/
theorem submitIn_of_nothing (nothing : num b 40 4 = 0 ∨ num b 44 4 = 0) :
    submitIn s x seq b toks = doneAtOnce s x (num b 32 8) (num b 40 4) := by
  unfold submitIn
  dsimp only
  rw [cls, right]
  exact if_pos nothing

variable (some : ¬ (num b 40 4 = 0 ∨ num b 44 4 = 0))
include some

/-- Rows 6 and 7 of R288. -/
theorem submitIn_of_rows7 {e : Code × Nat} (wrong : submitRows7 s k.serveMill k.maxlen (num b 40 4 + num b 44 4) (num b 40 4) (num b 44 4) toks
    (num b 4 2) (num b 6 2) (num b 16 8) = Option.some e) : submitIn s x seq b toks = refuse s x e.1 0x10 e.2 seq (num b 32 8) := by
  unfold submitIn
  dsimp only
  rw [cls, right]
  dsimp only
  rw [if_neg some, submitMill, cls]
  dsimp only
  rw [wrong]

variable (fits : submitRows7 s k.serveMill k.maxlen (num b 40 4 + num b 44 4) (num b 40 4) (num b 44 4) toks
    (num b 4 2) (num b 6 2) (num b 16 8) = none)
include fits

theorem submitIn_of_full (full : freeEntry s (unitOfSession x) = none) :
    submitIn s x seq b toks = refuse s x (if k.onfull = 2 then .capacity else .busy) 0x10 0 seq (num b 32 8) := by
  unfold submitIn
  dsimp only
  rw [cls, right]
  dsimp only
  rw [if_neg some, submitMill, cls]
  dsimp only
  rw [fits, full]

/-- A request as a SUBMIT admits it (R288). -/
def admittedReq (s : State) (x : Session) (k : ClassRec) (seq : BitVec 32) (b : List Byte) (toks : List (BitVec 32)) : Req :=
  { st := .admitted, realm := x.realm, prio := k.prio, cls := num b 1 1, img := num b 0 1, mill := k.serveMill, deadline := num b 16 8
    enq := s.glb.time, maxlen := num b 40 4 + num b 44 4, sublen := num b 40 4, session := x.id, outcur := num b 40 4
    seed := BitVec.ofNat 64 (num b 24 8), greedy := (num b 2 1).testBit 0, temp := BitVec.ofNat 16 (num b 4 2)
    topk := BitVec.ofNat 16 (num b 6 2), topp := BitVec.ofNat 16 (num b 8 2), stop := tokensIn b 48 4
    tag := BitVec.ofNat 64 (num b 32 8), tokens := toks, lookup := true, firstLen := num b 40 4, rseq := seq }

theorem submitIn_of_free {q : Nat} (free : freeEntry s (unitOfSession x) = Option.some q) :
    submitIn s x seq b toks = gmlSend (admitDraft (mpdCount (updReq s q fun _ => admittedReq s x k seq b toks) (unitOfSession x) 0 1) q) x.id 0x10 1
      (leBytes 8 (num b 32 8) ++ leBytes 2 q ++ List.replicate 6 0) := by
  unfold submitIn
  dsimp only
  rw [cls, right]
  dsimp only
  rw [if_neg some, submitMill, cls]
  dsimp only
  rw [fits, free]
  rfl

end

/-! ## Nothing but the Millpond differs (08 R287) -/

/-- Nothing but the tables of the Millpond differs. -/
def OnlyPond (s t : State) : Prop := t = { s with pond := t.pond }

namespace OnlyPond
variable {s t u : State}

theorem refl (s : State) : OnlyPond s s := rfl

theorem trans (h : OnlyPond s t) (k : OnlyPond t u) : OnlyPond s u := by
  rw [OnlyPond, k, h]

theorem mem (h : OnlyPond s t) : t.mem = s.mem := by rw [h]
theorem mills (h : OnlyPond s t) : t.mills = s.mills := by rw [h]
theorem cores (h : OnlyPond s t) : t.cores = s.cores := by rw [h]
theorem hop (h : OnlyPond s t) : t.hop = s.hop := by rw [h]
theorem glb (h : OnlyPond s t) : t.glb = s.glb := by rw [h]
theorem sluice (h : OnlyPond s t) : t.sluice = s.sluice := by rw [h]
theorem bst (h : OnlyPond s t) : t.bst = s.bst := by rw [h]
theorem poison (h : OnlyPond s t) : t.poison = s.poison := by rw [h]

end OnlyPond

theorem onlyPond_updReq (s : State) (q : Nat) (f : Req → Req) : OnlyPond s (updReq s q f) := rfl
theorem onlyPond_updPool (s : State) (m : Nat) (f : Pool → Pool) : OnlyPond s (updPool s m f) := rfl
theorem onlyPond_updBatch (s : State) (m : Nat) (f : Batch → Batch) : OnlyPond s (updBatch s m f) := rfl
theorem onlyPond_mpdCount (s : State) (k i n : Nat) : OnlyPond s (mpdCount s k i n) := rfl

/-- What changes the Millpond only leaves a session listening. -/
theorem Listens.onlyPond {s t u : State} {f : Frame} {x : Session} (h : Listens s f x u) (only : OnlyPond u t) : Listens s f x t :=
  h.congr only.sluice (by rw [only.glb])

section
variable (s : State) (q : Nat)

theorem onlyPond_admitDraft : OnlyPond s (admitDraft s q) := by
  unfold admitDraft
  dsimp only
  split
  · split
    · exact .refl s
    · split <;> rfl
  · exact .refl s

/-- The draft of a request at admission changes nothing of the request but the draft's own fields (09 R336). -/
theorem reqOf_admitDraft_same : reqOf (admitDraft s q) q = { reqOf s q with draft := (reqOf (admitDraft s q) q).draft } := by
  unfold admitDraft
  dsimp only
  split
  · split
    · rfl
    · split <;> simp only [reqOf_updReq_same, reqOf_updPool]
  · rfl

theorem reqOf_admitDraft_other {j : Nat} (other : j ≠ q) : reqOf (admitDraft s q) j = reqOf s j := by
  unfold admitDraft
  dsimp only
  split
  · split
    · rfl
    · split <;> simp only [reqOf_updReq_other _ _ _ _ other, reqOf_updPool]
  · rfl

end

/-! ## The answers to a SUBMIT (08 R288, 10 R372) -/

/-- The completion record of a SUBMIT with this TAG and `p` tokens that takes no entry. -/
def doneBody (tag p : Nat) : List Byte :=
  leBytes 8 tag ++ leBytes 2 0xFFFF ++ [1, 0] ++ leBytes 4 0 ++ leBytes 4 p ++ leBytes 4 0
    ++ [BitVec.ofNat 8 (ReqSt.num .done), 0, 0, 0] ++ leBytes 4 (p + 0xFFFFFFFF) ++ leBytes 8 0

theorem doneAtOnce_eq (s : State) (x : Session) (tag p : Nat) : doneAtOnce s x tag p = gmlSend s x.id 0x11 0 (doneBody tag p) := rfl

theorem length_doneBody (tag p : Nat) : (doneBody tag p).length = 40 := by simp [doneBody, length_leBytes]

/-- A number that stands in front. -/
theorem num_leBytes_append {n v : Nat} (small : v < 256 ^ n) (rest : List Byte) : num (leBytes n v ++ rest) 0 n = v := by
  have front : slice (leBytes n v ++ rest) 0 n = leBytes n v := by
    have whole := slice_append_right (a := []) (b := leBytes n v) rfl rest
    rwa [length_leBytes] at whole
  rw [num, front, leNat_leBytes_of_lt small]

theorem num_doneBody_tag {tag : Nat} (small : tag < 2 ^ 64) (p : Nat) : num (doneBody tag p) 0 8 = tag := by
  simp only [doneBody, List.append_assoc]
  exact num_leBytes_append (n := 8) small _

theorem num_doneBody_req (tag p : Nat) : num (doneBody tag p) 8 2 = 0xFFFF := by
  simp only [doneBody, List.append_assoc]
  rw [num_append_right (k := 8) (length_leBytes ..) 0, num_leBytes_append (by decide)]

theorem num_doneBody_st (tag p : Nat) : num (doneBody tag p) 24 1 = ReqSt.num .done := by
  have front : (leBytes 8 tag ++ leBytes 2 0xFFFF ++ [1, 0] ++ leBytes 4 0 ++ leBytes 4 p ++ leBytes 4 0).length = 24 := by
    simp [length_leBytes]
  rw [doneBody, List.append_assoc, List.append_assoc, num_append_right front 0]
  rfl

/-- The answer to a SUBMIT that takes entry `q`. -/
theorem length_admitted (tag q : Nat) : (leBytes 8 tag ++ leBytes 2 q ++ List.replicate 6 0 : List Byte).length = 16 := by
  simp [length_leBytes]

/-! ## What a SUBMIT comes to (08 R288, 10 R371) -/

section
variable {s : State} {f : Frame} {x : Session} {ack : BitVec 32} {b : List Byte} {p : Nat} (h : Delivers s f x 0x10 0 ack b) (form : SubmitForm b p)
  (shut : s.bst.shut = .none) (room : stagedOn s (x.port / 4) + p ≤ 4194304)
include h form shut room

/-- What a SUBMIT of one message comes to is what `submitIn` makes of a state in which it has arrived. -/
theorem next_submit {P : State → Prop} (does : ∀ u y, Arrived s f x u y → Listens s f x u →
    NothingHeld (submitIn u y x.rxSeq b (tokensIn b 64 p)) x.id ∧ P (submitIn u y x.rxSeq b (tokensIn b 64 p))) :
    Next (exec (.submit f) s) P := by
  obtain ⟨total, count, whole, pad, flag, three, ten⟩ := form
  have good : bodyFault 0x10 false false b none = none := by
    simp [bodyFault, firstOffset, lengthOk, total, count, ← whole, pad, flag, three, ten]
  refine next_command (by decide) h good fun u y arrived listens => ?_
  rw [takeCommand_submit, firstMessage_submit arrived total count shut room]
  exact does u y arrived listens

theorem next_submit_of_rows5 {code : Code} {o : Nat} (wrong : submitRows5 s x (num b 0 1) (num b 1 1) = some (code, o)) :
    Next (exec (.submit f) s) fun t => Refused s t f x code := by
  refine next_submit h form shut room fun u y arrived listens => ?_
  rw [submitIn_of_rows5 (by rw [arrived.submitRows5, wrong])]
  exact arrived.refused listens ..

variable {k : ClassRec} {r : ServeRec} (serves : Serves s x (num b 0 1) (num b 1 1) k r)
include serves

theorem next_submit_of_nothing (nothing : p = 0 ∨ num b 44 4 = 0) : Next (exec (.submit f) s) fun t => t.pond = s.pond ∧ t.mem = s.mem ∧
    ∃ body, Replied s t f x 0x11 0 body ∧ num body 0 8 = num b 32 8 ∧ num body 8 2 = 0xFFFF ∧ num body 24 1 = ReqSt.num .done := by
  refine next_submit h form shut room fun u y arrived listens => ?_
  obtain ⟨total, -⟩ := form
  have rows := submitRows5_of_serves serves
  obtain ⟨-, -, -, cls, -⟩ := serves
  rw [submitIn_of_nothing (by rw [arrived.classOf, cls]) (by rw [arrived.submitRows5, rows]) (by rwa [total]), doneAtOnce_eq, arrived.id]
  refine ⟨nothingHeld_gmlSend listens.nothingHeld _ _ _ _, (onlySent_gmlSend ..).pond.trans arrived.only.pond,
    (onlySent_gmlSend ..).mem.trans arrived.only.mem, _, listens.replied 0x11 0 (by rw [length_doneBody]),
    num_doneBody_tag (num_lt b 32 8) _, num_doneBody_req .., num_doneBody_st ..⟩

variable (some : 0 < p) (new : 0 < num b 44 4)
include some new

theorem next_submit_of_rows7 {code : Code} {o : Nat} (wrong : submitRows7 s k.serveMill k.maxlen (p + num b 44 4) p (num b 44 4)
    (tokensIn b 64 p) (num b 4 2) (num b 6 2) (num b 16 8) = Option.some (code, o)) : Next (exec (.submit f) s) fun t => Refused s t f x code := by
  refine next_submit h form shut room fun u y arrived listens => ?_
  obtain ⟨total, -⟩ := form
  have rows := submitRows5_of_serves serves
  obtain ⟨-, -, -, cls, -⟩ := serves
  rw [submitIn_of_rows7 (by rw [arrived.classOf, cls]) (by rw [arrived.submitRows5, rows]) (by omega)
    (by rw [arrived.submitRows7, total, wrong])]
  exact arrived.refused listens ..

variable (fits : submitRows7 s k.serveMill k.maxlen (p + num b 44 4) p (num b 44 4) (tokensIn b 64 p) (num b 4 2) (num b 6 2) (num b 16 8) = none)
include fits

theorem next_submit_of_full (full : freeEntry s (x.port / 4) = none) :
    Next (exec (.submit f) s) fun t => Refused s t f x (if k.onfull = 2 then .capacity else .busy) := by
  refine next_submit h form shut room fun u y arrived listens => ?_
  obtain ⟨total, -⟩ := form
  have rows := submitRows5_of_serves serves
  obtain ⟨-, -, -, cls, -⟩ := serves
  rw [submitIn_of_full (by rw [arrived.classOf, cls]) (by rw [arrived.submitRows5, rows]) (by omega)
    (by rw [arrived.submitRows7, total, fits]) (by rw [arrived.unit, arrived.freeEntry, full])]
  exact arrived.refused listens ..

/-- The lowest FREE entry takes the request. -/
theorem next_submit_of_free {q : Nat} (free : freeEntry s (x.port / 4) = Option.some q) : Next (exec (.submit f) s) fun t =>
    reqOf t q = { admittedReq s x k x.rxSeq b (tokensIn b 64 p) with draft := (reqOf t q).draft } ∧ (∀ j, j ≠ q → reqOf t j = reqOf s j) ∧
    t.mem = s.mem ∧ t.mills = s.mills ∧ t.cores = s.cores ∧
    Replied s t f x 0x10 1 (leBytes 8 (num b 32 8) ++ leBytes 2 q ++ List.replicate 6 0) := by
  refine next_submit h form shut room fun u y arrived listens => ?_
  obtain ⟨total, -⟩ := form
  have rows := submitRows5_of_serves serves
  obtain ⟨-, -, -, cls, -⟩ := serves
  rw [submitIn_of_free (by rw [arrived.classOf, cls]) (by rw [arrived.submitRows5, rows]) (by omega)
    (by rw [arrived.submitRows7, total, fits]) (by rw [arrived.unit, arrived.freeEntry, free])]
  have admitted : admittedReq u y k x.rxSeq b (tokensIn b 64 p) = admittedReq s x k x.rxSeq b (tokensIn b 64 p) := by
    rw [admittedReq, admittedReq, arrived.realm, arrived.id, arrived.only.glb]
  rw [admitted, arrived.id]
  generalize isV : mpdCount (updReq u q fun _ => admittedReq s x k x.rxSeq b (tokensIn b 64 p)) _ _ _ = v
  have only : OnlyPond u (admitDraft v q) := by
    subst isV
    exact ((onlyPond_updReq ..).trans (onlyPond_mpdCount ..)).trans (onlyPond_admitDraft ..)
  have sent := onlySent_gmlSend (admitDraft v q) x.id 0x10 1 (leBytes 8 (num b 32 8) ++ leBytes 2 q ++ List.replicate 6 0)
  have same (j : Nat) : reqOf (gmlSend (admitDraft v q) x.id 0x10 1 (leBytes 8 (num b 32 8) ++ leBytes 2 q ++ List.replicate 6 0)) j =
      reqOf (admitDraft v q) j := by rw [reqOf, sent.pond, reqOf]
  refine ⟨nothingHeld_gmlSend (listens.onlyPond only).nothingHeld _ _ _ _, ?_, fun j other => ?_,
    (sent.mem.trans only.mem).trans arrived.only.mem, (sent.mills.trans only.mills).trans arrived.only.mills,
    (sent.cores.trans only.cores).trans arrived.only.cores, (listens.onlyPond only).replied 0x10 1 (by rw [length_admitted])⟩
  · rw [same, reqOf_admitDraft_same, ← isV, reqOf_mpdCount, reqOf_updReq_same]
  · rw [same, reqOf_admitDraft_other _ _ other, ← isV, reqOf_mpdCount, reqOf_updReq_other _ _ _ _ other, arrived.reqOf]

end

/-- Settles O42: each check of R288 that fails refuses the SUBMIT with its code, and where all hold the lowest FREE entry takes it. -/
theorem gmlSubmit : Obligations.GmlSubmit := by
  intro s f x ack b p g h form isG shut room
  subst isG
  have few : p ≠ 0xFFFFFFFF := by omega
  refine ⟨fun wrong => next_submit_of_rows5 (o := 32) h form shut room ?_,
    fun img st realm => ⟨fun cls => next_submit_of_rows5 (o := 33) h form shut room ?_, fun k r cls serve =>
      ⟨fun unit => next_submit_of_rows5 (o := 33) h form shut room ?_, fun unit =>
        ⟨fun bad => next_submit_of_rows5 (o := 0) h form shut room ?_, fun halted => next_submit_of_rows5 (o := 0) h form shut room ?_⟩⟩⟩,
    fun k r serves => ⟨next_submit_of_nothing h form shut room serves,
      fun some new nG long => next_submit_of_rows7 (o := 0) h form shut room serves some new ?_, fun some new nG short =>
        ⟨fun outside => next_submit_of_rows7 (o := 0) h form shut room serves some new ?_, fun inside temp topk =>
          ⟨fun late => next_submit_of_rows7 (o := 48) h form shut room serves some new ?_, fun early => ?_⟩⟩⟩⟩
  · have bad : ¬ (num b 0 1 < 64 ∧ (slotOf s (num b 0 1)).st = .loaded ∧ (slotOf s (num b 0 1)).realm = x.realm) := by
      rintro ⟨img, st, realm⟩
      rcases wrong with notLoaded | out | other
      · exact notLoaded st
      · omega
      · exact other realm
    simpa [submitRows5, firstWrong] using fun img st realm => absurd ⟨img, st, realm⟩ bad
  · simp [submitRows5, firstWrong, img, st, realm, cls]
  · simp [submitRows5, submitMill, firstWrong, img, st, realm, cls, serve, unit, unitOfSession]
  · rcases bad with bad | bad <;> simp [submitRows5, submitMill, firstWrong, img, st, realm, cls, serve, unit, unitOfSession, bad]
  · simp [submitRows5, submitMill, firstWrong, img, st, realm, cls, serve, unit, unitOfSession, halted]
  · simp [submitRows7, firstWrong, few, nG, long]
  · have all : ((tokensIn b 64 p).all fun t => decide (t.toNat < (poolOf s k.serveMill).vocab)) = false := by
      obtain ⟨u, mem, large⟩ := outside
      exact List.all_eq_false.2 ⟨u, mem, by simpa using large⟩
    simp [submitRows7, firstWrong, few, nG, short, all]
  · have all : ((tokensIn b 64 p).all fun t => decide (t.toNat < (poolOf s k.serveMill).vocab)) = true :=
      List.all_eq_true.2 fun u mem => by simpa using inside u mem
    simp [submitRows7, firstWrong, few, nG, short, all, temp, topk, late]
  · have all : ((tokensIn b 64 p).all fun t => decide (t.toNat < (poolOf s k.serveMill).vocab)) = true :=
      List.all_eq_true.2 fun u mem => by simpa using inside u mem
    have fits : submitRows7 s k.serveMill k.maxlen (p + num b 44 4) p (num b 44 4) (tokensIn b 64 p) (num b 4 2) (num b 6 2) (num b 16 8) = none := by
      simp [submitRows7, firstWrong, few, nG, short, all, temp, topk, early]
    refine ⟨next_submit_of_full h form shut room serves some new fits, fun q free => ?_⟩
    obtain ⟨t, run, same, rest⟩ := next_submit_of_free h form shut room serves some new fits free
    obtain ⟨total, -, -, -, flag, -⟩ := form
    refine ⟨t, run, same.trans ?_, rest⟩
    have greedy : (num b 2 1).testBit 0 = decide (num b 2 1 = 1) := by
      interval_cases num b 2 1 <;> rfl
    rw [admittedReq, total, greedy]

end Sys2Proof.Machine

namespace Sys2Proof.Machine

/-! ## Messages that join the others of a session (10 R365) -/

/-- Every session that was open is; it has received and holds what it had, and its messages stand behind those that were unacknowledged. -/
def SessionsKept (s t : State) : Prop :=
  ∀ n y, sessionOf s n = some y → ∃ z, sessionOf t n = some z ∧ z.rxSeq = y.rxSeq ∧ z.src = y.src ∧ z.held = y.held ∧ y.unacked <+: z.unacked

theorem SessionsKept.of_eq {s t : State} (same : t.sluice.sessions = s.sluice.sessions) : SessionsKept s t := by
  intro n y found
  exact ⟨y, by rwa [sessionOf_congr same], rfl, rfl, rfl, List.prefix_rfl⟩

theorem SessionsKept.trans {s t u : State} (h : SessionsKept s t) (k : SessionsKept t u) : SessionsKept s u := by
  intro n y found
  obtain ⟨z, found', rx, src, held, front⟩ := h n y found
  obtain ⟨w, found'', rx', src', held', front'⟩ := k n z found'
  exact ⟨w, found'', rx'.trans rx, src'.trans src, held'.trans held, front.trans front'⟩

theorem sessionsKept_updSession {f : Session → Session} (id : ∀ y, (f y).id = y.id) (rx : ∀ y, (f y).rxSeq = y.rxSeq) (src : ∀ y, (f y).src = y.src)
    (held : ∀ y, (f y).held = y.held) (front : ∀ y, y.unacked <+: (f y).unacked) (s : State) (m : BitVec 32) :
    SessionsKept s (updSession s m f) := by
  intro n y found
  rw [sessionOf_updSession id, found]
  refine ⟨_, rfl, ?_⟩
  dsimp only
  split
  · exact ⟨rx y, src y, held y, front y⟩
  · exact ⟨rfl, rfl, rfl, List.prefix_rfl⟩

theorem sessionsKept_gmlSend (s : State) (n : BitVec 32) (type flags : Nat) (body : List Byte) : SessionsKept s (gmlSend s n type flags body) := by
  unfold gmlSend
  split
  · exact .of_eq rfl
  · rename_i x _
    dsimp only
    split
    · exact sessionsKept_updSession (by intro; rfl) (by intro; rfl) (by intro; rfl) (by intro; rfl) (by intro; exact List.prefix_rfl) _ _
    · refine (sessionsKept_updSession (by intro; rfl) (by intro; rfl) (by intro; rfl) (by intro; rfl) (by intro; exact List.prefix_append ..)
        s n).trans
        ((sessionsKept_updSession (f := fun y => { y with ackDue := none }) (by intro; rfl) (by intro; rfl) (by intro; rfl) (by intro; rfl)
          (by intro; exact List.prefix_rfl) _ x.id).trans (.of_eq rfl))

/-- Nothing is held for a session for which nothing was. -/
theorem SessionsKept.nothingHeld {s t : State} (h : SessionsKept s t) {n : BitVec 32} {y : Session} (found : sessionOf s n = some y)
    (none : NothingHeld s n) : NothingHeld t n := by
  obtain ⟨z, found', -, -, held, -⟩ := h n y found
  intro w found''
  rw [found'] at found''
  cases found''
  exact held.trans (none y found)

/-! ## What a request owes its partner leaves (08 R307, R308, 10 R369) -/

/-- Request `q` has sent what it could: of the Millpond only how far it has come in sending differs, and otherwise what messages change. -/
structure Flushed (q : Nat) (s t : State) : Prop where
  other : ∀ j, j ≠ q → reqOf t j = reqOf s j
  same : ∃ o l k, reqOf t q = { reqOf s q with outcur := o, finalSeq := l, skips := k }
  rest : t = { s with pond := { s.pond with reqs := t.pond.reqs }, sluice := t.sluice, out := t.out, sec := t.sec }
  sessions : SessionsKept s t

namespace Flushed
variable {q : Nat} {s t u : State}

theorem refl (q : Nat) (s : State) : Flushed q s s := ⟨fun _ _ => rfl, ⟨_, _, _, rfl⟩, rfl, .of_eq rfl⟩

theorem trans (h : Flushed q s t) (k : Flushed q t u) : Flushed q s u where
  other := fun j ne => (k.other j ne).trans (h.other j ne)
  same := by
    obtain ⟨o, l, n, is⟩ := h.same
    obtain ⟨o', l', n', is'⟩ := k.same
    exact ⟨o', l', n', by rw [is', is]⟩
  rest := by rw [k.rest, h.rest]
  sessions := h.sessions.trans k.sessions

theorem of_onlySent (only : OnlySent s t) (sessions : SessionsKept s t) : Flushed q s t where
  other := fun j _ => by rw [reqOf, only.pond, reqOf]
  same := ⟨_, _, _, by rw [reqOf, only.pond, ← reqOf]⟩
  rest := by rw [only]
  sessions := sessions

end Flushed

theorem flushed_updReq {f : Req → Req} (sends : ∀ r, ∃ o l k, f r = { r with outcur := o, finalSeq := l, skips := k }) (s : State) (q : Nat) :
    Flushed q s (updReq s q f) where
  other := fun j ne => reqOf_updReq_other _ _ _ _ ne
  same := by
    obtain ⟨o, l, k, is⟩ := sends (reqOf s q)
    exact ⟨o, l, k, by rw [reqOf_updReq_same, is]⟩
  rest := rfl
  sessions := .of_eq rfl

theorem passSkip_sends (r : Req) : ∃ o l k, passSkip r = { r with outcur := o, finalSeq := l, skips := k } := by
  unfold passSkip
  split
  · split <;> exact ⟨_, _, _, rfl⟩
  · exact ⟨_, _, _, rfl⟩

theorem flushed_flushReq (n : Nat) (s : State) (q : Nat) : Flushed q s (flushReq n s q) := by
  induction n generalizing s with
  | zero => exact .refl q s
  | succ n ih =>
    rw [flushReq]
    dsimp only
    generalize isV : (if (reqOf s q).skips.isEmpty then s else updReq s q passSkip) = v
    have passed : Flushed q s v := by
      subst isV
      split
      · exact .refl q s
      · exact flushed_updReq passSkip_sends s q
    split
    · exact passed
    · split
      · exact passed
      · split
        · exact passed
        · refine ((passed.trans (.of_onlySent (onlySent_gmlSend ..) (sessionsKept_gmlSend _ _ _ _ _))).trans
            (flushed_updReq (fun r => ⟨_, _, _, rfl⟩) _ q)).trans (ih _)

theorem flushed_flush (s : State) (q : Nat) : Flushed q s (flush s q) := flushed_flushReq 24 s q

/-! ## What an operation on one request leaves (08 R281) -/

/-- Of the requests only `q` may differ; batches, mills, images and the time are as they were, and so are sessions up to messages sent. -/
structure OnlyReq (q : Nat) (s t : State) : Prop where
  other : ∀ j, j ≠ q → reqOf t j = reqOf s j
  batches : t.pond.batches = s.pond.batches
  mills : t.mills = s.mills
  hop : t.hop = s.hop
  time : t.glb.time = s.glb.time
  sessions : SessionsKept s t

namespace OnlyReq
variable {q : Nat} {s t u : State}

theorem refl (q : Nat) (s : State) : OnlyReq q s s := ⟨fun _ _ => rfl, rfl, rfl, rfl, rfl, .of_eq rfl⟩

theorem trans (h : OnlyReq q s t) (k : OnlyReq q t u) : OnlyReq q s u where
  other := fun j ne => (k.other j ne).trans (h.other j ne)
  batches := k.batches.trans h.batches
  mills := k.mills.trans h.mills
  hop := k.hop.trans h.hop
  time := k.time.trans h.time
  sessions := h.sessions.trans k.sessions

theorem updReq (s : State) (q : Nat) (f : Req → Req) : OnlyReq q s (updReq s q f) :=
  ⟨fun _ ne => reqOf_updReq_other _ _ _ _ ne, rfl, rfl, rfl, rfl, .of_eq rfl⟩

theorem updPool (q : Nat) (s : State) (m : Nat) (f : Pool → Pool) : OnlyReq q s (updPool s m f) := ⟨fun _ _ => rfl, rfl, rfl, rfl, rfl, .of_eq rfl⟩

theorem mpdCount (q : Nat) (s : State) (k i n : Nat) : OnlyReq q s (mpdCount s k i n) := ⟨fun _ _ => rfl, rfl, rfl, rfl, rfl, .of_eq rfl⟩

/-- Records leave requests and sessions. -/
theorem of_fields (pond : t.pond = s.pond) (mills : t.mills = s.mills) (hop : t.hop = s.hop) (sluice : t.sluice = s.sluice)
    (time : t.glb.time = s.glb.time) : OnlyReq q s t where
  other := fun j _ => by rw [reqOf, pond, reqOf]
  batches := by rw [pond]
  mills := mills
  hop := hop
  time := time
  sessions := .of_eq (by rw [sluice])

theorem of_recorded (h : Recorded s t) : OnlyReq q s t := of_fields h.pond h.mills h.hop h.sluice h.time

theorem of_flushed (h : Flushed q s t) : OnlyReq q s t where
  other := h.other
  batches := by rw [h.rest]
  mills := by rw [h.rest]
  hop := by rw [h.rest]
  time := by rw [h.rest]
  sessions := h.sessions

end OnlyReq

/-- A change of cached entries is none of the tables of the Millpond. -/
theorem onlyReq_writePfx (q : Nat) (s : State) (m i : Nat) (e : PfxEntry) :
    OnlyReq q s (writePfx s m i e) ∧ (writePfx s m i e).pond = s.pond := by
  unfold writePfx
  dsimp only
  split
  · exact ⟨.refl q s, rfl⟩
  · split
    · have kept : Recorded s (pfxLost s (pfxAddr s m i)) := (recorded_updRegion ..).trans (recorded_pfxRec ..)
      exact ⟨.of_recorded kept, kept.pond⟩
    · exact ⟨.of_fields rfl rfl rfl rfl rfl, rfl⟩

theorem onlyReq_pfxRefs (q : Nat) (s : State) (m i : Nat) (f : Nat → Nat) : OnlyReq q s (pfxRefs s m i f) ∧ (pfxRefs s m i f).pond = s.pond :=
  onlyReq_writePfx ..

/-! ## Pages return (08 R284, R296) -/

theorem onlyReq_dropDraft (s : State) (q : Nat) : OnlyReq q s (dropDraft s q) := by
  unfold dropDraft
  dsimp only
  refine .trans ?_ (.updReq _ q _)
  split
  · exact .refl q s
  · exact .updPool ..

theorem reqOf_dropDraft_same (s : State) (q : Nat) : ∃ d, reqOf (dropDraft s q) q = { reqOf s q with draft := d } := by
  unfold dropDraft
  dsimp only
  rw [reqOf_updReq_same]
  split <;> exact ⟨_, rfl⟩

/-- The references of request `q` to cached pages are given up. -/
def unreference (s : State) (q : Nat) : State := (reqOf s q).entries.foldl (fun t i => pfxRefs t (reqOf s q).mill i (· - 1)) s

theorem onlyReq_unreference (s : State) (q : Nat) : OnlyReq q s (unreference s q) ∧ (unreference s q).pond = s.pond := by
  unfold unreference
  generalize (reqOf s q).entries = is
  generalize (reqOf s q).mill = m
  have go (is : List Nat) (u : State) : OnlyReq q u (is.foldl (fun t i => pfxRefs t m i (· - 1)) u) ∧
      (is.foldl (fun t i => pfxRefs t m i (· - 1)) u).pond = u.pond := by
    induction is generalizing u with
    | nil => exact ⟨.refl q u, rfl⟩
    | cons i is ih =>
      obtain ⟨one, pond⟩ := onlyReq_pfxRefs q u m i (· - 1)
      obtain ⟨rest, pond'⟩ := ih (pfxRefs u m i (· - 1))
      exact ⟨one.trans rest, pond'.trans pond⟩
  exact go is s

/-- A request without pages. -/
def withoutPages (y : Req) : Req := { y with pages := [], entries := [], shared := 0, resv := 0, pfx := none }

theorem dropPages_eq (s : State) (q : Nat) : dropPages s q = dropDraft (updReq (updPool (unreference s q) (reqOf s q).mill fun p =>
    { p with used := p.used.filter (!((reqOf s q).pages.drop (reqOf s q).entries.length).contains ·)
             reserved := p.reserved - (reqOf s q).resv }) q withoutPages) q := rfl

theorem onlyReq_dropPages (s : State) (q : Nat) : OnlyReq q s (dropPages s q) := by
  rw [dropPages_eq]
  exact (((onlyReq_unreference s q).1.trans (.updPool ..)).trans (.updReq ..)).trans (onlyReq_dropDraft ..)

theorem reqOf_dropPages_same (s : State) (q : Nat) : ∃ d, reqOf (dropPages s q) q = { withoutPages (reqOf s q) with draft := d } := by
  rw [dropPages_eq]
  obtain ⟨d, is⟩ := reqOf_dropDraft_same (updReq (updPool (unreference s q) (reqOf s q).mill fun p =>
    { p with used := p.used.filter (!((reqOf s q).pages.drop (reqOf s q).entries.length).contains ·)
             reserved := p.reserved - (reqOf s q).resv }) q withoutPages) q
  have same : reqOf (unreference s q) q = reqOf s q := by rw [reqOf, (onlyReq_unreference s q).2, reqOf]
  exact ⟨d, by rw [is, reqOf_updReq_same, reqOf_updPool, same]⟩

/-! ## A request ends (08 R284) -/

/-- The fields of a request that has ended and parks nothing. -/
def endedReq (st : ReqSt) (code : Code) (y : Req) : Req :=
  { y with st := st, code := code, cancel := false, cancelAtPark := false, park := false, restore := false, lookup := false, endPark := false
           parkaddr := 0, parklen := 0, parkPages := 0, summary := false }

/-- The end of a request is counted, and a failure raises the interrupt of its unit (R316, 11 R429). -/
def endCounted (s : State) (u : Nat) : ReqSt → State
  | .done => mpdCount s u 3 1
  | .expired => mpdCount s u 4 1
  | .cancelled => mpdCount s u 5 1
  | .failed => raiseIrq (mpdCount s u 6 1) (8 + u)
  | _ => s

theorem onlyReq_endCounted (q : Nat) (s : State) (u : Nat) (st : ReqSt) : OnlyReq q s (endCounted s u st) := by
  cases st with
  | failed => exact (OnlyReq.mpdCount q s u 6 1).trans (.of_recorded (recorded_raiseIrq ..))
  | done | expired | cancelled => exact .mpdCount ..
  | _ => exact .refl q s

theorem reqOf_endCounted (s : State) (u j : Nat) (st : ReqSt) : reqOf (endCounted s u st) j = reqOf s j := by
  cases st with
  | failed => exact congrArg (fun p => Tbl.get {} p.reqs j) (recorded_raiseIrq (mpdCount s u 6 1) (8 + u)).pond
  | _ => rfl

/-- The request has ended, and has sent what it owed. -/
def ended (s : State) (q : Nat) (st : ReqSt) (code : Code) : State :=
  flush (endCounted (updReq (dropPages s q) q (endedReq st code)) (unitOfReq q) st) q

theorem endReq_eq (s : State) (q : Nat) (st : ReqSt) (code : Code) : endReq s q st code false =
    if (sessionOf (ended s q st code) (reqOf (ended s q st code) q).session).isNone then freeReq (ended s q st code) q
    else ended s q st code := by
  cases st <;> exact if_congr (by rw [Bool.not_false, Bool.and_true]; rfl) rfl rfl

theorem onlyReq_ended (s : State) (q : Nat) (st : ReqSt) (code : Code) : OnlyReq q s (ended s q st code) :=
  (((onlyReq_dropPages s q).trans (.updReq ..)).trans (onlyReq_endCounted ..)).trans (.of_flushed (flushed_flush ..))

theorem reqOf_ended (s : State) (q : Nat) (st : ReqSt) (code : Code) : ∃ d o l k, reqOf (ended s q st code) q =
    { endedReq st code (withoutPages (reqOf s q)) with draft := d, outcur := o, finalSeq := l, skips := k } := by
  obtain ⟨d, dropped⟩ := reqOf_dropPages_same s q
  obtain ⟨o, l, k, is⟩ := (flushed_flush (endCounted (updReq (dropPages s q) q (endedReq st code)) (unitOfReq q) st) q).same
  rw [reqOf_endCounted, reqOf_updReq_same, dropped] at is
  exact ⟨d, o, l, k, is⟩

/-- While its session is open, the entry of a request that ends is kept. -/
theorem endReq_of_opened {s : State} {q : Nat} {x : Session} (opened : sessionOf s (reqOf s q).session = some x) (st : ReqSt) (code : Code) :
    endReq s q st code false = ended s q st code := by
  obtain ⟨d, o, l, k, is⟩ := reqOf_ended s q st code
  have session : (reqOf (ended s q st code) q).session = (reqOf s q).session := by rw [is]; rfl
  obtain ⟨y, still, -⟩ := (onlyReq_ended s q st code).sessions _ _ opened
  rw [endReq_eq]
  exact if_neg (by rw [session, still]; exact Bool.false_ne_true)

end Sys2Proof.Machine

namespace Sys2Proof.Machine

/-! ## Whose request it is, and what it would park (08 R281, R310) -/

section
variable {s u : State} {f : Frame} {x y : Session} (h : Arrived s f x u y)
include h

theorem Arrived.owns (q : Nat) : owns u y q = Machine.owns s x q := by
  rw [Machine.owns, h.reqOf, h.id, Machine.owns]

theorem Arrived.parkSpace (m n : Nat) : parkSpace u m n = Machine.parkSpace s m n := by rw [h.only]; rfl

theorem Arrived.summaryMillOf (m : Nat) : summaryMillOf u m = Machine.summaryMillOf s m := by
  simp only [Machine.summaryMillOf, h.serveOf, h.slotOf, millOf_congr h.only.mills]

theorem Arrived.parkBytes (r : Req) (summary : Bool) : parkBytes u r summary = Machine.parkBytes s r summary := by
  simp only [Machine.parkBytes, h.poolOf, h.summaryMillOf, coresOf_congr h.only.mills]

end

theorem owns_iff {s : State} {x : Session} {q : Nat} :
    owns s x q = true ↔ q < 32768 ∧ (reqOf s q).st ≠ .free ∧ (reqOf s q).session = x.id := by
  simp [owns, and_assoc]

/-! ## The start of a park (08 R310, R311) -/

theorem onlyPond_dropDraft (s : State) (q : Nat) : OnlyPond s (dropDraft s q) := by
  unfold dropDraft
  dsimp only
  refine .trans ?_ (onlyPond_updReq _ q _)
  split
  · exact .refl s
  · exact onlyPond_updPool ..

section
variable {s : State} {q ttl : Nat} {k : ClassRec} (cls : classOf s (reqOf s q).img (reqOf s q).cls = some k)
include cls

theorem startPark_of_full (full : parkSpace s (reqOf s q).mill (parkBytes s (reqOf s q) (parksSummary k (reqOf s q))) = none) :
    startPark s q ttl = none := by
  unfold startPark
  dsimp only
  rw [cls]
  dsimp only
  rw [full, Option.map_none]

/-- The first range with room is taken. -/
theorem startPark_of_room {a : Nat} (room : parkSpace s (reqOf s q).mill (parkBytes s (reqOf s q) (parksSummary k (reqOf s q))) = some a) :
    ∃ t, startPark s q ttl = some t ∧ OnlyPond s t ∧ (∀ j, j ≠ q → reqOf t j = reqOf s j) ∧
      reqOf t q = { reqOf s q with park := true, summary := parksSummary k (reqOf s q), parkaddr := a
                                   parklen := parkBytes s (reqOf s q) (parksSummary k (reqOf s q)), ttl := ttl
                                   parkPages := (reqOf s q).pages.length, draft := (reqOf t q).draft } := by
  unfold startPark
  dsimp only
  rw [cls]
  dsimp only
  rw [room, Option.map_some]
  refine ⟨_, rfl, ?_, fun j other => ?_, ?_⟩
  · refine .trans ?_ (onlyPond_updReq _ q _)
    split
    · exact onlyPond_updReq ..
    · exact (onlyPond_updReq ..).trans (onlyPond_dropDraft ..)
  · rw [reqOf_updReq_other _ _ _ _ other]
    split
    · rw [reqOf_updReq_other _ _ _ _ other]
    · rw [(onlyReq_dropDraft _ q).other j other, reqOf_updReq_other _ _ _ _ other]
  · rw [reqOf_updReq_same]
    split
    · rw [reqOf_updReq_same]
    · obtain ⟨d, is⟩ := reqOf_dropDraft_same (updReq s q fun y => { y with
        park := true, summary := parksSummary k (reqOf s q), parkaddr := a
        parklen := parkBytes s (reqOf s q) (parksSummary k (reqOf s q)), ttl := ttl, parkPages := y.pages.length }) q
      rw [is, reqOf_updReq_same]

end

/-! ## CANCEL (08 R299) -/

theorem onlyReq_releasePark (s : State) (q : Nat) : OnlyReq q s (releasePark s q) := .updReq ..

theorem reqOf_releasePark_same (s : State) (q : Nat) :
    reqOf (releasePark s q) q = { reqOf s q with parkaddr := 0, parklen := 0, parkPages := 0, summary := false } :=
  reqOf_updReq_same ..

/-- The body of a CANCEL of request `n`. -/
def cancelBody (n : Nat) : List Byte := leBytes 2 n ++ List.replicate 6 0

theorem num_cancelBody {n : Nat} (small : n < 2 ^ 16) : num (cancelBody n) 0 2 = n := num_leBytes_append (n := 2) small _

theorem bodyFault_cancel (n : Nat) : bodyFault 0x12 false false (cancelBody n) none = none := by
  have zero : zeros (cancelBody n) 2 8 = true := rfl
  have length : (cancelBody n).length = 8 := rfl
  simp [bodyFault, firstOffset, zero, length]

section
variable {s : State} {f : Frame} {x : Session} {ack : BitVec 32} {n : Nat} (h : Delivers s f x 0x12 0 ack (cancelBody n)) (small : n < 2 ^ 16)
include h

theorem next_cancel {P : State → Prop} (does : ∀ u y, Arrived s f x u y → Listens s f x u →
    NothingHeld (cancelIn u y x.rxSeq (cancelBody n)) x.id ∧ P (cancelIn u y x.rxSeq (cancelBody n))) : Next (exec (.cancel f) s) P :=
  next_command (by decide) h (bodyFault_cancel n) fun u y arrived listens => by
    rw [takeCommand_cancel]
    exact does u y arrived listens

include small

theorem next_cancel_refused (not : owns s x n = false ∨ (reqOf s n).st.terminal = true) :
    Next (exec (.cancel f) s) fun t => Refused s t f x .state := by
  refine next_cancel h fun u y arrived listens => ?_
  have wrong : (!owns u y n || (reqOf u n).st.terminal) = true := by
    rw [arrived.owns, arrived.reqOf]
    rcases not with not | not <;> simp [not]
  rw [cancelIn, num_cancelBody small, if_pos wrong]
  exact arrived.refused listens ..

variable (mine : owns s x n = true)
include mine

/-- A CANCEL of a request that may be in a step is kept pending. -/
theorem next_cancel_pending (st : (reqOf s n).st = .prefill ∨ (reqOf s n).st = .decode) : Next (exec (.cancel f) s) fun t =>
    reqOf t n = { reqOf s n with cancel := true, cancelAtPark := (reqOf s n).cancelAtPark || ((reqOf s n).park && !(reqOf s n).cancel) } ∧
    (∀ j, j ≠ n → reqOf t j = reqOf s j) ∧ t.mem = s.mem ∧ t.pond.pools = s.pond.pools ∧ Received t f x := by
  refine next_cancel h fun u y arrived listens => ?_
  have right : ¬ (!owns u y n || (reqOf u n).st.terminal) = true := by
    rw [arrived.owns, arrived.reqOf, mine]
    rcases st with st | st <;> simp [st, ReqSt.terminal]
  have does : cancelIn u y x.rxSeq (cancelBody n) =
      updReq u n fun y => { y with cancel := true, cancelAtPark := y.cancelAtPark || (y.park && !y.cancel) } := by
    rw [cancelIn, num_cancelBody small, if_neg right, arrived.reqOf]
    rcases st with st | st <;> rw [st]
  rw [does]
  have still := listens.onlyPond (onlyPond_updReq u n fun y => { y with cancel := true, cancelAtPark := y.cancelAtPark || (y.park && !y.cancel) })
  refine ⟨still.nothingHeld, ?_, fun j other => ?_, arrived.only.mem, congrArg (·.pools) arrived.only.pond, still.received⟩
  · rw [reqOf_updReq_same, arrived.reqOf]
  · rw [reqOf_updReq_other _ _ _ _ other, arrived.reqOf]

/-- A CANCEL of a request outside of steps ends it at once. -/
theorem next_cancel_ends (st : (reqOf s n).st = .admitted ∨ (reqOf s n).st = .parked) : Next (exec (.cancel f) s) fun t =>
    (reqOf t n).st = .cancelled ∧ (reqOf t n).code = .ok ∧ (reqOf t n).pages = [] ∧ (reqOf t n).resv = 0 ∧
    ∀ j, j ≠ n → reqOf t j = reqOf s j := by
  refine next_cancel h fun u y arrived listens => ?_
  have right : ¬ (!owns u y n || (reqOf u n).st.terminal) = true := by
    rw [arrived.owns, arrived.reqOf, mine]
    rcases st with st | st <;> simp [st, ReqSt.terminal]
  have ends : ∃ v, OnlyReq n u v ∧ (reqOf v n).session = x.id ∧ cancelIn u y x.rxSeq (cancelBody n) = endReq v n .cancelled .ok false := by
    obtain ⟨-, -, session⟩ := owns_iff.1 mine
    rw [cancelIn, num_cancelBody small, if_neg right, arrived.reqOf]
    rcases st with st | st
    · exact ⟨u, .refl n u, by rw [arrived.reqOf, session], by rw [st]⟩
    · refine ⟨updReq (releasePark u n) n fun y => { y with finalSeq := none, endPark := false },
        (onlyReq_releasePark u n).trans (.updReq ..), ?_, by rw [st]⟩
      rw [reqOf_updReq_same, reqOf_releasePark_same, arrived.reqOf, ← session]
  obtain ⟨v, only, session, does⟩ := ends
  obtain ⟨z, opened, -⟩ := only.sessions _ _ arrived.found
  rw [does, endReq_of_opened (by rwa [session])]
  have only' := only.trans (onlyReq_ended v n .cancelled .ok)
  obtain ⟨d, o, l, k, is⟩ := reqOf_ended v n .cancelled .ok
  rw [is]
  exact ⟨only'.sessions.nothingHeld arrived.found listens.nothingHeld, rfl, rfl, rfl, rfl,
    fun j other => (only'.other j other).trans (arrived.reqOf j)⟩

end

/-! ## PARK (08 R309-R311) -/

/-- The body of a PARK of request `n` with a time to live of its own, or its class's. -/
def parkBody (n : Nat) (own : Bool) (secs : BitVec 32) : List Byte := leBytes 2 n ++ [BitVec.ofNat 8 (bnat own), 0] ++ leBytes 4 secs.toNat

section
variable {n : Nat} {own : Bool} {secs : BitVec 32}

theorem num_parkBody_req (small : n < 2 ^ 16) : num (parkBody n own secs) 0 2 = n := by
  rw [parkBody, List.append_assoc]
  exact num_leBytes_append (n := 2) small _

theorem num_parkBody_own : num (parkBody n own secs) 2 1 = bnat own := by cases own <;> rfl

theorem num_parkBody_secs : num (parkBody n own secs) 4 4 = secs.toNat := by
  have front : (leBytes 2 n ++ [BitVec.ofNat 8 (bnat own), 0] : List Byte).length = 4 := rfl
  have last := num_leBytes_append (n := 4) secs.isLt []
  rw [List.append_nil] at last
  rw [parkBody, num_append_right front 0, last]

theorem bodyFault_park : bodyFault 0x13 false false (parkBody n own secs) none = none := by
  have length : (parkBody n own secs).length = 8 := rfl
  have zero : zeros (parkBody n own secs) 3 4 = true := rfl
  have flag : num (parkBody n own secs) 2 1 < 2 := by
    rw [num_parkBody_own]
    cases own <;> decide
  simp [bodyFault, firstOffset, zero, length, flag]

end

section
variable {s : State} {f : Frame} {x : Session} {ack : BitVec 32} {n : Nat} {own : Bool} {secs : BitVec 32}
  (h : Delivers s f x 0x13 0 ack (parkBody n own secs)) (small : n < 2 ^ 16)
include h

theorem next_park {P : State → Prop} (does : ∀ u y, Arrived s f x u y → Listens s f x u →
    NothingHeld (parkIn u y x.rxSeq (parkBody n own secs)) x.id ∧ P (parkIn u y x.rxSeq (parkBody n own secs))) : Next (exec (.gmlPark f) s) P :=
  next_command (by decide) h bodyFault_park fun u y arrived listens => by
    rw [takeCommand_park]
    exact does u y arrived listens

include small

theorem next_park_refused (not : owns s x n = false ∨ (reqOf s n).st ≠ .decode ∨ (reqOf s n).park = true) :
    Next (exec (.gmlPark f) s) fun t => Refused s t f x .state := by
  refine next_park h fun u y arrived listens => ?_
  have wrong : (!owns u y n || decide ((reqOf u n).st ≠ .decode) || (reqOf u n).park) = true := by
    rw [arrived.owns, arrived.reqOf]
    rcases not with not | not | not <;> simp [not]
  unfold parkIn
  dsimp only
  rw [num_parkBody_req small, if_pos wrong]
  exact arrived.refused listens ..

omit h in
/-- What a PARK of a request in DECODE comes to: the time to live is checked, then a restore step waited for, then the room (R309, R310). -/
theorem parkIn_of_decode {k : ClassRec} (mine : owns s x n = true) (st : (reqOf s n).st = .decode) (free : (reqOf s n).park = false)
    (cls : classOf s (reqOf s n).img (reqOf s n).cls = some k) {ttl : Nat} (isTtl : (if own then secs.toNat else k.ttl) = ttl) (seq : BitVec 32) :
    (ttl = 0xFFFFFFFF → parkIn s x seq (parkBody n own secs) = refuse s x .length 0x13 36 seq n) ∧
    (ttl ≠ 0xFFFFFFFF → (reqOf s n).restore = true →
      parkIn s x seq (parkBody n own secs) = updReq s n fun y => { y with park := true, ttl := ttl, rseq := seq }) ∧
    (ttl ≠ 0xFFFFFFFF → (reqOf s n).restore = false →
      (startPark s n ttl = none → parkIn s x seq (parkBody n own secs) = refuse s x .capacity 0x13 0 seq n) ∧
      ∀ t, startPark s n ttl = some t → parkIn s x seq (parkBody n own secs) = t) := by
  have right : ¬ (!owns s x n || decide ((reqOf s n).st ≠ .decode) || (reqOf s n).park) = true := by
    rw [mine, st, free]
    decide
  have flag : (bnat own).testBit 0 = own := by cases own <;> rfl
  unfold parkIn
  dsimp only
  rw [num_parkBody_req small, if_neg right, num_parkBody_own, num_parkBody_secs, flag, cls]
  dsimp only
  rw [isTtl]
  refine ⟨fun long => if_pos long, fun short waits => by rw [if_neg short, if_pos waits], fun short now => ?_⟩
  rw [if_neg short, now, if_neg Bool.false_ne_true]
  exact ⟨fun full => by rw [full], fun t room => by rw [room]⟩

variable {k : ClassRec} (mine : owns s x n = true) (st : (reqOf s n).st = .decode) (free : (reqOf s n).park = false)
  (cls : classOf s (reqOf s n).img (reqOf s n).cls = some k) {ttl : Nat} (isTtl : (if own then secs.toNat else k.ttl) = ttl)
include mine st free cls isTtl

theorem next_park_long (long : ttl = 0xFFFFFFFF) : Next (exec (.gmlPark f) s) fun t => Refused s t f x .length := by
  refine next_park h fun u y arrived listens => ?_
  rw [(parkIn_of_decode small (arrived.owns n ▸ mine) (arrived.reqOf n ▸ st) (arrived.reqOf n ▸ free)
    (by rw [arrived.reqOf, arrived.classOf, cls]) isTtl _).1 long]
  exact arrived.refused listens ..

variable (short : ttl ≠ 0xFFFFFFFF)
include short

theorem next_park_waits (waits : (reqOf s n).restore = true) : Next (exec (.gmlPark f) s) fun t =>
    reqOf t n = { reqOf s n with park := true, ttl := ttl, rseq := x.rxSeq } ∧ (∀ j, j ≠ n → reqOf t j = reqOf s j) ∧ t.mem = s.mem ∧
    Received t f x := by
  refine next_park h fun u y arrived listens => ?_
  rw [(parkIn_of_decode small (arrived.owns n ▸ mine) (arrived.reqOf n ▸ st) (arrived.reqOf n ▸ free)
    (by rw [arrived.reqOf, arrived.classOf, cls]) isTtl _).2.1 short (arrived.reqOf n ▸ waits)]
  have still := listens.onlyPond (onlyPond_updReq u n fun y => { y with park := true, ttl := ttl, rseq := x.rxSeq })
  exact ⟨still.nothingHeld, by rw [reqOf_updReq_same, arrived.reqOf],
    fun j other => by rw [reqOf_updReq_other _ _ _ _ other, arrived.reqOf], arrived.only.mem, still.received⟩

variable (now : (reqOf s n).restore = false)
include now

theorem next_park_full (full : parkSpace s (reqOf s n).mill (parkBytes s (reqOf s n) (parksSummary k (reqOf s n))) = none) :
    Next (exec (.gmlPark f) s) fun t => Refused s t f x .capacity := by
  refine next_park h fun u y arrived listens => ?_
  have cls' : classOf u (reqOf u n).img (reqOf u n).cls = some k := by rw [arrived.reqOf, arrived.classOf, cls]
  rw [((parkIn_of_decode small (arrived.owns n ▸ mine) (arrived.reqOf n ▸ st) (arrived.reqOf n ▸ free) cls' isTtl _).2.2 short
    (arrived.reqOf n ▸ now)).1 (startPark_of_full cls' (by rw [arrived.reqOf, arrived.parkBytes, arrived.parkSpace, full]))]
  exact arrived.refused listens ..

theorem next_park_starts {a : Nat}
    (room : parkSpace s (reqOf s n).mill (parkBytes s (reqOf s n) (parksSummary k (reqOf s n))) = some a) :
    Next (exec (.gmlPark f) s) fun t =>
      reqOf t n = { reqOf s n with park := true, summary := parksSummary k (reqOf s n), parkaddr := a
                                   parklen := parkBytes s (reqOf s n) (parksSummary k (reqOf s n)), ttl := ttl
                                   parkPages := (reqOf s n).pages.length, draft := (reqOf t n).draft } ∧
      (∀ j, j ≠ n → reqOf t j = reqOf s j) ∧ t.mem = s.mem ∧ Received t f x := by
  refine next_park h fun u y arrived listens => ?_
  have cls' : classOf u (reqOf u n).img (reqOf u n).cls = some k := by rw [arrived.reqOf, arrived.classOf, cls]
  obtain ⟨t, starts, only, others, same⟩ := startPark_of_room (ttl := ttl) cls'
    (by rw [arrived.reqOf, arrived.parkBytes, arrived.parkSpace, room])
  rw [((parkIn_of_decode small (arrived.owns n ▸ mine) (arrived.reqOf n ▸ st) (arrived.reqOf n ▸ free) cls' isTtl _).2.2 short
    (arrived.reqOf n ▸ now)).2 t starts]
  have still := listens.onlyPond only
  refine ⟨still.nothingHeld, ?_, fun j other => by rw [others j other, arrived.reqOf], only.mem.trans arrived.only.mem, still.received⟩
  rw [arrived.reqOf, arrived.parkBytes] at same
  exact same

end

/-- The first half of O43. -/
theorem gmlCancelAndParkHolds : GmlCancelAndParkHolds := by
  intro s f x ack q
  have small : q.toNat < 2 ^ 16 := q.isLt
  refine ⟨fun h => ⟨fun not => ?_, fun mine st => next_cancel_pending h small (owns_iff.2 mine) st,
    fun mine st => next_cancel_ends h small (owns_iff.2 mine) st⟩, fun own secs h => ⟨fun not => ?_, fun k mine st free cls =>
    ⟨next_park_long h small (owns_iff.2 mine) st free cls rfl, next_park_waits h small (owns_iff.2 mine) st free cls rfl,
      next_park_full h small (owns_iff.2 mine) st free cls rfl,
      fun a short now => next_park_starts h small (owns_iff.2 mine) st free cls rfl short now⟩⟩⟩
  · refine next_cancel_refused h small ?_
    rw [← Bool.not_eq_true, owns_iff]
    refine not.imp_right fun st => ?_
    rcases st with st | st | st | st <;> rw [st] <;> rfl
  · refine next_park_refused h small ?_
    rw [← Bool.not_eq_true, owns_iff]
    exact not

end Sys2Proof.Machine

namespace Sys2Proof.Machine

/-! ## The reservation of a RESUME (08 R289, R312) -/

/-- With no area for cached blocks nothing can be evicted for a reservation. -/
theorem reserve_of_full {s : State} {m want : Nat} (full : freePages (poolOf s m) < want) (area : (poolOf s m).pfxent = 0) :
    reserve s m want = (false, s) := by
  have kept : evictFor m want ((poolOf s m).pfxent + 1) s = s := by
    rw [evictFor, if_neg (by omega), area]
    rfl
  rw [reserve, kept]
  exact if_neg (by omega)

/-- A request whose restore is due, with `n` positions for a summary. -/
def restoring (n : Nat) (r : Req) : Req :=
  if r.summary then
    { r with tokens := List.replicate n 0 ++ r.tokens.drop r.lead, curlen := r.curlen - r.lead + n, outcur := r.outcur - r.lead + n
             skips := r.skips.map fun p => (p.1 - r.lead + n, p.2), sublen := r.sublen - r.lead + n, lead := n
             firstLen := 0, computed := n, st := .prefill, restore := true, fresh := true }
  else
    { r with computed := r.curlen - 1 - r.draft.fixup, st := if decide (r.curlen < r.tokens.length) then .prefill else .decode, restore := true
             fresh := true, draft := { r.draft with fixup := if decide (r.curlen < r.tokens.length) then 0 else r.draft.fixup } }

theorem beginRestore_eq (s : State) (q : Nat) : beginRestore s q = updReq s q fun r => restoring (poolOf s r.mill).sumpos r := rfl

section
variable {s : State} {q : Nat} {r : Req} (isReq : reqOf s q = r)
include isReq

/-- The pages of a RESUME that are free are reserved. -/
theorem resumeFits_of_room (room : pagesFor r.maxlen ≤ freePages (poolOf s r.mill)) : ∃ t, resumeFits s q = (true, t) ∧ OnlyPond s t ∧
    (∀ j, j ≠ q → reqOf t j = reqOf s j) ∧ reqOf t q = restoring (poolOf s r.mill).sumpos { r with resv := pagesFor r.maxlen } ∧
    (poolOf t r.mill).reserved = (poolOf s r.mill).reserved + pagesFor r.maxlen := by
  subst isReq
  unfold resumeFits
  dsimp only
  rw [reserve_of_room room]
  dsimp only
  rw [beginRestore_eq]
  refine ⟨_, rfl, rfl, fun j other => ?_, ?_, ?_⟩
  · rw [reqOf_updReq_other _ _ _ _ other, reqOf_updReq_other _ _ _ _ other, reqOf_updPool]
  · rw [reqOf_updReq_same, reqOf_updReq_same, reqOf_updPool]
    simp only [poolOf_updReq, poolOf_updPool_same]
  · simp only [poolOf_updReq, poolOf_updPool_same]

theorem resumeFits_of_full (full : freePages (poolOf s r.mill) < pagesFor r.maxlen) (area : (poolOf s r.mill).pfxent = 0) :
    resumeFits s q = (false, s) := by
  subst isReq
  unfold resumeFits
  dsimp only
  rw [reserve_of_full full area]

end

/-! ## RESUME (08 R312) -/

theorem resumable_iff {s : State} {x : Session} {q : Nat} : resumable s x q = true ↔
    q < 32768 ∧ (reqOf s q).st = .parked ∧ (reqOf s q).realm = x.realm ∧ q / 8192 = x.port / 4 ∧ (reqOf s q).restore = false := by
  simp [resumable, unitOfReq, unitOfSession, and_assoc]

/-- The body of a RESUME in one message, with its `na` tokens, padded (R370). -/
structure ResumeForm (b : List Byte) (na : Nat) : Prop where
  total : num b 4 4 = na
  count : num b 12 4 = na
  whole : b.length = roundUp (32 + 4 * na) 8
  pad : zeros b (32 + 4 * na) b.length = true
  flags : num b 2 1 < 4
  three : zeros b 3 4 = true

/-- The deadline that a RESUME leaves. -/
def resumeDeadline (r : Req) (b : List Byte) : Nat := if (num b 2 1).testBit 0 then num b 16 8 else r.deadline

/-- The RESUME is answered, and the request sends what it owes. -/
def resumeAnswered (s : State) (x : Session) (q : Nat) : State := flush (gmlSend s x.id 0x14 1 (leBytes 2 q ++ List.replicate 6 0)) q

section
variable {s : State} {x : Session} {b : List Byte} {toks : List (BitVec 32)} {seq : BitVec 32}

theorem resumeIn_of_not (not : resumable s x (num b 0 2) = false) :
    resumeIn s x seq b toks = refuse s x .state 0x14 32 seq (num b 0 2) := by
  unfold resumeIn
  dsimp only
  rw [not]
  rfl

/-- What a RESUME comes to whose checks hold. -/
theorem resumeIn_of_checked {r : Req} {k : ClassRec} {maxlen : Nat} (can : resumable s x (num b 0 2) = true) (isReq : reqOf s (num b 0 2) = r)
    (isMax : r.curlen + num b 4 4 + num b 8 4 = maxlen) (cls : classOf s r.img r.cls = some k) (rows5 : submitRows5 s x r.img r.cls = none)
    (rows7 : submitRows7 s r.mill k.maxlen maxlen (num b 4 4) (num b 8 4) toks 0 0 (resumeDeadline r b) = none)
    (pages : pagesFor maxlen ≤ (poolOf s r.mill).pages) :
    let v := updReq s (num b 0 2) fun r => resumed r x seq b toks maxlen
    (∀ t, resumeFits v (num b 0 2) = (true, t) → resumeIn s x seq b toks = resumeAnswered t x (num b 0 2)) ∧
    (∀ t, resumeFits v (num b 0 2) = (false, t) →
      (k.onfull = 0 → resumeIn s x seq b toks = resumeAnswered (updReq t (num b 0 2) fun y => { y with restore := true }) x (num b 0 2)) ∧
      (k.onfull ≠ 0 → resumeIn s x seq b toks =
        refuse (updReq t (num b 0 2) fun _ => r) x (if k.onfull = 1 then .busy else .capacity) 0x14 0 seq (num b 0 2))) := by
  subst isReq isMax
  unfold resumeIn
  dsimp only
  rw [can, cls, rows5]
  dsimp only
  rw [if_neg (by decide), ← resumeDeadline, rows7]
  dsimp only
  rw [if_neg (by omega)]
  refine ⟨fun t fits => by rw [fits]; rfl, fun t fits => ⟨fun queues => ?_, fun refuses => ?_⟩⟩
  · rw [fits]
    dsimp only
    rw [if_pos queues]
    rfl
  · rw [fits]
    dsimp only
    rw [if_neg refuses]

end

/-- The one message of a RESUME that is whole, as the unit takes it (R370, R371). -/
theorem firstMessage_resume {s u : State} {f : Frame} {x y : Session} {b : List Byte} {na : Nat} (h : Arrived s f x u y) (total : num b 4 4 = na)
    (here : num b 12 4 = na) (shut : s.bst.shut = .none) (room : stagedOn s (x.port / 4) + na ≤ 4194304) (seq : BitVec 32) :
    firstMessage u y seq true false b = resumeIn u y seq b (tokensIn b 32 na) := by
  have up : u.bst.shut = .none := by rw [h.only, ← shut]
  have front : resumeIn u y seq (b.take 32) (tokensIn b 32 na) = resumeIn u y seq b (tokensIn b 32 na) := by
    simp only [resumeIn, resumed, num_take, Nat.reduceAdd, Nat.reduceLeDiff]
  rw [← front]
  simp [firstMessage, up, total, here, h.staged, h.unit, stagingMax, show ¬ 4194304 < na by omega, commandIn,
    show ¬ 4194304 < stagedOn s (x.port / 4) + na by omega]

theorem flushed_resumeAnswered (s : State) (x : Session) (q : Nat) : Flushed q s (resumeAnswered s x q) :=
  (Flushed.of_onlySent (onlySent_gmlSend ..) (sessionsKept_gmlSend _ _ _ _ _)).trans (flushed_flush ..)

/-- The answer to a RESUME leaves first. -/
theorem repliedFirst_resumeAnswered {s v : State} {f : Frame} {x : Session} (listens : Listens s f x v) (q : Nat) :
    NothingHeld (resumeAnswered v x q) x.id ∧ RepliedFirst s (resumeAnswered v x q) f x 0x14 1 (leBytes 2 q ++ List.replicate 6 0) := by
  have length : (leBytes 2 q ++ List.replicate 6 0 : List Byte).length = 8 := rfl
  obtain ⟨z, found, rx, src, -, left⟩ := listens.replied 0x14 1 (body := leBytes 2 q ++ List.replicate 6 0) (by rw [length])
  have kept := (flushed_flush (gmlSend v x.id 0x14 1 (leBytes 2 q ++ List.replicate 6 0)) q).sessions
  have none : NothingHeld (gmlSend v x.id 0x14 1 (leBytes 2 q ++ List.replicate 6 0)) x.id := nothingHeld_gmlSend listens.nothingHeld _ _ _ _
  obtain ⟨w, found', rx', src', -, front⟩ := kept _ _ found
  rw [left] at front
  obtain ⟨more, whole⟩ := front
  exact ⟨kept.nothingHeld found none, w, found', rx'.trans rx, src'.trans src, by rw [← whole]; rfl⟩

section
variable {s : State} {f : Frame} {x : Session} {ack : BitVec 32} {b : List Byte} {na : Nat} (h : Delivers s f x 0x14 0 ack b) (form : ResumeForm b na)
  (shut : s.bst.shut = .none) (room : stagedOn s (x.port / 4) + na ≤ 4194304)
include h form shut room

/-- What a RESUME of one message comes to is what `resumeIn` makes of a state in which it has arrived. -/
theorem next_resume {P : State → Prop} (does : ∀ u y, Arrived s f x u y → Listens s f x u →
    NothingHeld (resumeIn u y x.rxSeq b (tokensIn b 32 na)) x.id ∧ P (resumeIn u y x.rxSeq b (tokensIn b 32 na))) :
    Next (exec (.resume f) s) P := by
  obtain ⟨total, count, whole, pad, flags, three⟩ := form
  have good : bodyFault 0x14 false false b none = none := by
    simp [bodyFault, firstOffset, lengthOk, total, count, ← whole, pad, flags, three]
  refine next_command (by decide) h good fun u y arrived listens => ?_
  rw [takeCommand_resume, firstMessage_resume arrived total count shut room]
  exact does u y arrived listens

theorem next_resume_refused (not : resumable s x (num b 0 2) = false) : Next (exec (.resume f) s) fun t => Refused s t f x .state := by
  refine next_resume h form shut room fun u y arrived listens => ?_
  rw [resumeIn_of_not (by rw [← not, resumable, arrived.reqOf, arrived.realm, arrived.unit, resumable]; rfl)]
  exact arrived.refused listens ..

variable {r : Req} {k : ClassRec} {v : ServeRec} {maxlen : Nat} (can : resumable s x (num b 0 2) = true) (isReq : reqOf s (num b 0 2) = r)
  (isMax : r.curlen + num b 4 4 + num b 8 4 = maxlen) (serves : Serves s x r.img r.cls k v)
  (rows7 : submitRows7 s r.mill k.maxlen maxlen (num b 4 4) (num b 8 4) (tokensIn b 32 na) 0 0 (resumeDeadline r b) = none)
  (pages : pagesFor maxlen ≤ (poolOf s r.mill).pages)
include can isReq isMax serves rows7 pages

/-- What a RESUME comes to whose checks hold: `w` is the state in which its tokens have joined. -/
theorem next_resume_of_checked {P : State → Prop} (does : ∀ u y, Arrived s f x u y → Listens s f x u →
    ∀ w t, w = updReq u (num b 0 2) (fun r => resumed r y x.rxSeq b (tokensIn b 32 na) maxlen) →
    (∀ t', resumeFits w (num b 0 2) = (true, t') → t = resumeAnswered t' y (num b 0 2)) →
    (∀ t', resumeFits w (num b 0 2) = (false, t') →
      (k.onfull = 0 → t = resumeAnswered (updReq t' (num b 0 2) fun y => { y with restore := true }) y (num b 0 2)) ∧
      (k.onfull ≠ 0 → t = refuse (updReq t' (num b 0 2) fun _ => r) y (if k.onfull = 1 then .busy else .capacity) 0x14 0 x.rxSeq (num b 0 2))) →
    NothingHeld t x.id ∧ P t) : Next (exec (.resume f) s) P := by
  refine next_resume h form shut room fun u y arrived listens => ?_
  have rows5 := submitRows5_of_serves serves
  obtain ⟨-, -, -, cls, -⟩ := serves
  have can' : resumable u y (num b 0 2) = true := by
    rw [← can, resumable, arrived.reqOf, arrived.realm, arrived.unit, resumable]
    rfl
  obtain ⟨fits, queues⟩ := resumeIn_of_checked (toks := tokensIn b 32 na) (seq := x.rxSeq) can' ((arrived.reqOf _).trans isReq) isMax
    ((arrived.classOf ..).trans cls) ((arrived.submitRows5 ..).trans rows5) ((arrived.submitRows7 ..).trans rows7)
    (by rw [arrived.poolOf]; exact pages)
  exact does u y arrived listens _ _ rfl fits queues

/-- A RESUME whose pages are free takes them, and its restore is due. -/
theorem next_resume_of_room (free : pagesFor maxlen ≤ freePages (poolOf s r.mill)) : Next (exec (.resume f) s) fun t =>
    (∃ o l k, reqOf t (num b 0 2) = { restoring (poolOf s r.mill).sumpos { resumed r x x.rxSeq b (tokensIn b 32 na) maxlen with
      resv := pagesFor maxlen } with outcur := o, finalSeq := l, skips := k }) ∧
    (poolOf t r.mill).reserved = (poolOf s r.mill).reserved + pagesFor maxlen ∧ (∀ j, j ≠ num b 0 2 → reqOf t j = reqOf s j) ∧ t.mem = s.mem ∧
    RepliedFirst s t f x 0x14 1 (leBytes 2 (num b 0 2) ++ List.replicate 6 0) := by
  refine next_resume_of_checked h form shut room can isReq isMax serves rows7 pages fun u y arrived listens w t isW fits _ => ?_
  have joined : reqOf w (num b 0 2) = resumed r x x.rxSeq b (tokensIn b 32 na) maxlen := by
    rw [isW, reqOf_updReq_same, arrived.reqOf, isReq, resumed, arrived.id, resumed]
  have pool : poolOf w r.mill = poolOf s r.mill := by rw [isW, poolOf_updReq, arrived.poolOf]
  have only : OnlyPond u w := isW ▸ onlyPond_updReq ..
  obtain ⟨v, fit, only', others, same, reserved⟩ := resumeFits_of_room joined
    (show pagesFor maxlen ≤ freePages (poolOf w r.mill) by rwa [pool])
  have does : t = resumeAnswered v x (num b 0 2) := by rw [fits v fit, resumeAnswered, arrived.id, resumeAnswered]
  obtain ⟨none, replied⟩ := repliedFirst_resumeAnswered (listens.onlyPond (only.trans only')) (num b 0 2)
  have flushed := flushed_resumeAnswered v x (num b 0 2)
  obtain ⟨o, l, n, sent⟩ := flushed.same
  rw [← does] at none replied flushed sent
  refine ⟨none, ⟨o, l, n, ?_⟩, ?_, fun j other => ?_, ?_, replied⟩
  · rw [sent, same, ← pool]
    rfl
  · rw [flushed.rest, ← pool]
    exact reserved
  · rw [flushed.other j other, others j other, isW, reqOf_updReq_other _ _ _ _ other, arrived.reqOf]
  · rw [flushed.rest]
    exact (only'.mem.trans only.mem).trans arrived.only.mem

section
variable (full : freePages (poolOf s r.mill) < pagesFor maxlen) (area : (poolOf s r.mill).pfxent = 0)
include full area

/-- A RESUME whose pages are not free waits for them. -/
theorem next_resume_of_full (queues : k.onfull = 0) : Next (exec (.resume f) s) fun t =>
    (reqOf t (num b 0 2)).st = r.st ∧ (reqOf t (num b 0 2)).restore = true ∧ t.mem = s.mem ∧
    RepliedFirst s t f x 0x14 1 (leBytes 2 (num b 0 2) ++ List.replicate 6 0) := by
  refine next_resume_of_checked h form shut room can isReq isMax serves rows7 pages fun u y arrived listens w t isW _ waits => ?_
  have joined : reqOf w (num b 0 2) = resumed r x x.rxSeq b (tokensIn b 32 na) maxlen := by
    rw [isW, reqOf_updReq_same, arrived.reqOf, isReq, resumed, arrived.id, resumed]
  have pool : poolOf w r.mill = poolOf s r.mill := by rw [isW, poolOf_updReq, arrived.poolOf]
  have only : OnlyPond u w := isW ▸ onlyPond_updReq ..
  have fit := resumeFits_of_full joined (show freePages (poolOf w r.mill) < pagesFor maxlen by rwa [pool])
    (show (poolOf w r.mill).pfxent = 0 by rwa [pool])
  generalize isV : (updReq w (num b 0 2) fun y => { y with restore := true }) = v at waits
  have only' : OnlyPond w v := isV ▸ onlyPond_updReq ..
  have does : t = resumeAnswered v x (num b 0 2) := by
    rw [(waits w fit).1 queues, isV, resumeAnswered, arrived.id, resumeAnswered]
  obtain ⟨none, replied⟩ := repliedFirst_resumeAnswered (listens.onlyPond (only.trans only')) (num b 0 2)
  have flushed := flushed_resumeAnswered v x (num b 0 2)
  obtain ⟨o, l, n, sent⟩ := flushed.same
  rw [← does] at none replied flushed sent
  rw [← isV, reqOf_updReq_same, joined] at sent
  refine ⟨none, by rw [sent]; rfl, by rw [sent], ?_, replied⟩
  rw [flushed.rest]
  exact (only'.mem.trans only.mem).trans arrived.only.mem

/-- A RESUME whose pages are not free is refused, and the request stays as it was. -/
theorem next_resume_of_refusing (refuses : k.onfull ≠ 0) :
    Next (exec (.resume f) s) fun t => Refused s t f x (if k.onfull = 1 then .busy else .capacity) := by
  refine next_resume_of_checked h form shut room can isReq isMax serves rows7 pages fun u y arrived listens w t isW _ waits => ?_
  have joined : reqOf w (num b 0 2) = resumed r x x.rxSeq b (tokensIn b 32 na) maxlen := by
    rw [isW, reqOf_updReq_same, arrived.reqOf, isReq, resumed, arrived.id, resumed]
  have pool : poolOf w r.mill = poolOf s r.mill := by rw [isW, poolOf_updReq, arrived.poolOf]
  have only : OnlyPond u w := isW ▸ onlyPond_updReq ..
  have fit := resumeFits_of_full joined (show freePages (poolOf w r.mill) < pagesFor maxlen by rwa [pool])
    (show (poolOf w r.mill).pfxent = 0 by rwa [pool])
  rw [(waits w fit).2 refuses]
  have only' : OnlyPond u (updReq w (num b 0 2) fun _ => r) := only.trans (onlyPond_updReq ..)
  refine refused_refuse (listens.onlyPond only') arrived.id (fun j => ?_) ?_ (only'.mem.trans arrived.only.mem)
    (only'.mills.trans arrived.only.mills) (only'.cores.trans arrived.only.cores) ..
  · by_cases here : j = num b 0 2
    · rw [here, reqOf_updReq_same, isReq]
    · rw [reqOf_updReq_other _ _ _ _ here, isW, reqOf_updReq_other _ _ _ _ here, arrived.reqOf]
  · rw [isW]
    exact congrArg (·.pools) arrived.only.pond

end

end

/-- The second half of O43. -/
theorem gmlResumeHolds : GmlResumeHolds := by
  intro s f x ack b na g h total count isG whole pad flags three shut room
  subst isG
  have form : ResumeForm b na := ⟨total, count, whole, pad, flags, three⟩
  refine ⟨fun not => next_resume_refused h form shut room ?_, fun k v can serves mill nA nG short inside early pages => ?_⟩
  · rwa [← Bool.not_eq_true, resumable_iff]
  have isDeadline : (if num b 2 1 % 2 = 1 then num b 16 8 else (reqOf s (num b 0 2)).deadline) = resumeDeadline (reqOf s (num b 0 2)) b := by
    rw [resumeDeadline, Nat.testBit_zero]
    simp only [decide_eq_true_eq]
  have isMax : (reqOf s (num b 0 2)).curlen + num b 4 4 + num b 8 4 = (reqOf s (num b 0 2)).curlen + na + num b 8 4 := by rw [total]
  have rows7 : submitRows7 s (reqOf s (num b 0 2)).mill k.maxlen ((reqOf s (num b 0 2)).curlen + na + num b 8 4) (num b 4 4) (num b 8 4)
      (tokensIn b 32 na) 0 0 (resumeDeadline (reqOf s (num b 0 2)) b) = none := by
    have all : ((tokensIn b 32 na).all fun t => decide (t.toNat < (poolOf s (reqOf s (num b 0 2)).mill).vocab)) = true :=
      List.all_eq_true.2 fun u mem => by simpa using inside u mem
    have temp : (tempMag 0).isSome = true := by decide
    rw [isDeadline] at early
    simp [submitRows7, firstWrong, total, nA, nG, short, all, temp, early]
  refine ⟨fun free => ?_, fun full area => ⟨fun queues => ?_, fun refuses => ?_⟩⟩
  · obtain ⟨t, run, ⟨o, l, n, same⟩, reserved, others, mem, replied⟩ :=
      next_resume_of_room h form shut room (resumable_iff.2 can) rfl isMax serves rows7 pages free
    have new : (tokensIn b 32 na).length = na := by simp [tokensIn]
    generalize poolOf s (reqOf s (num b 0 2)).mill = p at *
    generalize reqOf s (num b 0 2) = r at *
    refine .of_eq run ?_
    rw [same, isDeadline]
    cases sum : r.summary
    · simpa [restoring, resumed, resumeDeadline, sum, new] using ⟨reserved, others, mem, replied⟩
    · simpa [restoring, resumed, resumeDeadline, sum, new] using ⟨reserved, others, mem, replied⟩
  · obtain ⟨t, run, st, restore, mem, replied⟩ :=
      next_resume_of_full h form shut room (resumable_iff.2 can) rfl isMax serves rows7 pages full area queues
    exact ⟨t, run, st.trans can.2.1, restore, mem, replied⟩
  · exact next_resume_of_refusing h form shut room (resumable_iff.2 can) rfl isMax serves rows7 pages full area refuses

/-- Settles O43: a command finds its request as it was, and does with it what its state allows. -/
theorem gmlCancelParkResume : Obligations.GmlCancelParkResume := ⟨gmlCancelAndParkHolds, gmlResumeHolds⟩

end Sys2Proof.Machine

namespace Sys2Proof.Machine

/-! ## The requests of a batch, each changed in its turn (08 R305) -/

section
variable {g : LtRec → Req → Req}

/-- Each request that a record names is changed. -/
def markAll (g : LtRec → Req → Req) (l : List LtRec) (s : State) : State := l.foldl (fun s x => updReq s x.req (g x)) s

theorem onlyPond_markAll (l : List LtRec) (s : State) : OnlyPond s (markAll g l s) := by
  induction l generalizing s with
  | nil => exact .refl s
  | cons x l ih => exact (onlyPond_updReq s x.req (g x)).trans (ih _)

theorem batchOf_markAll (l : List LtRec) (s : State) (m : Nat) : batchOf (markAll g l s) m = batchOf s m := by
  induction l generalizing s with
  | nil => rfl
  | cons x l ih => exact (ih _).trans (batchOf_updReq ..)

theorem reqOf_markAll_other {l : List LtRec} {q : Nat} (none : ∀ x ∈ l, x.req ≠ q) (s : State) : reqOf (markAll g l s) q = reqOf s q := by
  induction l generalizing s with
  | nil => rfl
  | cons x l ih =>
    exact (ih (fun y mem => none y (List.mem_cons_of_mem x mem)) _).trans
      (reqOf_updReq_other _ _ _ _ fun same => none x List.mem_cons_self same.symm)

/-- What each change leaves holds of every request that a record names. -/
theorem marked_markAll {P : Req → Prop} (marks : ∀ x y, P (g x y)) {l : List LtRec} {q : Nat} (named : ∃ x ∈ l, x.req = q) (s : State) :
    P (reqOf (markAll g l s) q) := by
  induction l generalizing s with
  | nil => simp at named
  | cons a l ih =>
    by_cases later : ∃ x ∈ l, x.req = q
    · exact ih later _
    · have here : a.req = q := by simpa [later] using named
      subst here
      have none : ∀ x ∈ l, x.req ≠ a.req := fun x mem same => later ⟨x, mem, same⟩
      rw [show markAll g (a :: l) s = markAll g l (updReq s a.req (g a)) from rfl, reqOf_markAll_other none, reqOf_updReq_same]
      exact marks ..

end

/-! ## STEP_RING (08 R305) -/

/-- The mill as the doorbell of its unit leaves it at time `t` (06 R201, 13 R490). -/
def rungMill (t entry : Nat) (arg : BitVec 32) (k : Mill) : Mill :=
  { k with st := .running, inStep := true, f := 0, entry := entry, arg := arg, startAt := some (t + 32), ended := [], reset2 := false }

theorem acceptStep_eq (s : State) (m entry : Nat) (arg : BitVec 32) :
    acceptStep s m entry arg = refresh (updMill s m (rungMill s.glb.time entry arg)) := rfl

section
variable (s : State) (m entry : Nat) (arg : BitVec 32)

theorem acceptStep_mills : (acceptStep s m entry arg).mills = (updMill s m (rungMill s.glb.time entry arg)).mills := by
  rw [acceptStep_eq, refresh_mills]

theorem millOf_acceptStep_same : millOf (acceptStep s m entry arg) m = rungMill s.glb.time entry arg (millOf s m) := by
  rw [millOf_congr (acceptStep_mills s m entry arg), millOf_updMill_same]

theorem millOf_acceptStep_other {j : Nat} (other : j ≠ m) : millOf (acceptStep s m entry arg) j = millOf s j := by
  rw [millOf_congr (acceptStep_mills s m entry arg), millOf_updMill_other _ _ _ _ other]

theorem acceptStep_pond : (acceptStep s m entry arg).pond = s.pond := by rw [acceptStep_eq, refresh_pond, updMill_pond]

theorem reqOf_acceptStep (q : Nat) : reqOf (acceptStep s m entry arg) q = reqOf s q := by rw [reqOf, acceptStep_pond, reqOf]

theorem batchOf_acceptStep (j : Nat) : batchOf (acceptStep s m entry arg) j = batchOf s j := by rw [batchOf, acceptStep_pond, batchOf]

theorem acceptStep_mem : (acceptStep s m entry arg).mem = s.mem := refresh_mem _

theorem acceptStep_cores : (acceptStep s m entry arg).cores = s.cores := refresh_cores _

theorem millOf_mpdCount (u i n j : Nat) : millOf (mpdCount s u i n) j = millOf s j := rfl

end

/-- The entry of the kind of a batch. -/
def entryOfKind (r : ServeRec) (kind : Nat) : Nat := if kind = 0 then r.entries.1 else if kind = 1 then r.entries.2.1 else r.entries.2.2

/-- The argument of the step of a batch. -/
def argOf (b : Batch) : BitVec 32 := BitVec.ofNat 32 (b.recs.length + at_ 16 b.groups.length + at_ 24 b.kind)

/-- A request of the batch that is rung is in the step; on a draft mill it is in the draft step. -/
def inRungStep (role : Nat) (x : LtRec) (y : Req) : Req :=
  if role = 1 then { y with draft := { y.draft with dstep := true, proposal := decide (x.dlen ≠ 0) } } else { y with instep := true }

/-- The batch is rung, and its requests are in the step. -/
def batchRung (s : State) (m role : Nat) : State :=
  markAll (inRungStep role) (batchOf s m).recs (updBatch s m fun b => { b with rung := true })

theorem onlyPond_batchRung (s : State) (m role : Nat) : OnlyPond s (batchRung s m role) := (onlyPond_updBatch ..).trans (onlyPond_markAll ..)

section
variable {s : State} {m : MillId} {r : ServeRec} (serve : serveOf s m = some r)
include serve

theorem exec_stepRing_of_waiting (recs : (batchOf s m).recs ≠ []) (rung : (batchOf s m).rung = false) (can : canStart s m = true)
    (shut : s.bst.shut = .none) : exec (.stepRing m) s = .next (mpdCount
      (acceptStep (batchRung s m r.role) m (entryOfKind r (batchOf s m).kind) (argOf (batchOf s m))) r.unit 8 1) := by
  simp only [exec, execStepRing, serve]
  rw [if_neg (by simp [recs, rung, can, shut])]
  rfl

theorem exec_stepRing_of_not (not : (batchOf s m).recs = [] ∨ (batchOf s m).rung = true ∨ canStart s m = false ∨ s.bst.shut ≠ .none) :
    exec (.stepRing m) s = .next s := by
  simp only [exec, execStepRing, serve]
  rw [if_pos]
  rcases not with not | not | not | not <;> simp [not]

theorem next_stepRing (recs : (batchOf s m).recs ≠ []) (rung : (batchOf s m).rung = false) (can : canStart s m = true)
    (shut : s.bst.shut = .none) : Next (exec (.stepRing m) s) fun t =>
      millOf t m = rungMill s.glb.time (entryOfKind r (batchOf s m).kind) (argOf (batchOf s m)) (millOf s m) ∧
      batchOf t m = { batchOf s m with rung := true } ∧ t.mem = s.mem ∧ t.cores = s.cores ∧ (∀ k, k ≠ m.val → millOf t k = millOf s k) ∧
      (r.role ≠ 1 → ∀ x ∈ (batchOf s m).recs, (reqOf t x.req).instep = true) ∧
      (r.role = 1 → ∀ x ∈ (batchOf s m).recs, (reqOf t x.req).draft.dstep = true) ∧
      ∀ q, (∀ x ∈ (batchOf s m).recs, x.req ≠ q) → reqOf t q = reqOf s q := by
  refine .of_eq (exec_stepRing_of_waiting serve recs rung can shut) ?_
  have only := onlyPond_batchRung s m r.role
  have batch : batchOf (batchRung s m r.role) m = { batchOf s m with rung := true } := by rw [batchRung, batchOf_markAll, batchOf_updBatch_same]
  have other {q : Nat} (none : ∀ x ∈ (batchOf s m).recs, x.req ≠ q) : reqOf (batchRung s m r.role) q = reqOf s q := by
    rw [batchRung, reqOf_markAll_other none, reqOf_updBatch]
  have plain (role : r.role ≠ 1) (x : LtRec) (mem : x ∈ (batchOf s m).recs) : (reqOf (batchRung s m r.role) x.req).instep = true :=
    marked_markAll (P := fun y => y.instep = true) (fun x y => by rw [inRungStep, if_neg role]) ⟨x, mem, rfl⟩ _
  have draft (role : r.role = 1) (x : LtRec) (mem : x ∈ (batchOf s m).recs) : (reqOf (batchRung s m r.role) x.req).draft.dstep = true :=
    marked_markAll (P := fun y => y.draft.dstep = true) (fun x y => by rw [inRungStep, if_pos role]) ⟨x, mem, rfl⟩ _
  have mills (k : Nat) : millOf (batchRung s m r.role) k = millOf s k := millOf_congr only.mills k
  refine ⟨?_, ?_, (acceptStep_mem ..).trans only.mem, (acceptStep_cores ..).trans only.cores, fun k ne => ?_, fun role x mem => ?_,
    fun role x mem => ?_, fun q none => ?_⟩
  · rw [millOf_mpdCount, millOf_acceptStep_same, only.glb, mills]
  · rw [batchOf_mpdCount, batchOf_acceptStep, batch]
  · rw [millOf_mpdCount, millOf_acceptStep_other _ _ _ _ ne, mills]
  · rw [reqOf_mpdCount, reqOf_acceptStep]
    exact plain role x mem
  · rw [reqOf_mpdCount, reqOf_acceptStep]
    exact draft role x mem
  · rw [reqOf_mpdCount, reqOf_acceptStep, other none]

end

/-! ## PARK_EXPIRY (08 R313) -/

section
variable {s : State} {q : ReqId}

theorem exec_parkExpiry_of_parked (parked : (reqOf s q).st = .parked) (resumed : Bool) : exec (.parkExpiry q resumed) s = .next
    (if resumed then mpdCount s (q.val / 8192) 14 1 else expirePark (advanceTo s (reqOf s q).parkexp) q) := by
  simp only [exec, execParkExpiry, parked]
  rfl

theorem exec_parkExpiry_of_not (not : (reqOf s q).st ≠ .parked) (resumed : Bool) : exec (.parkExpiry q resumed) s = .next s := by
  simp [exec, execParkExpiry, not]

/-- At the end of its time to live the parked state goes. -/
theorem next_parkExpiry_expired (parked : (reqOf s q).st = .parked) : Next (exec (.parkExpiry q false) s) fun t =>
    reqOf t q = {} ∧ t.mem = s.mem ∧ (∀ j, j ≠ q.val → reqOf t j = reqOf s j) ∧
    (timeRuns s = true → t.glb.time = max s.glb.time (reqOf s q).parkexp) := by
  have same (j : Nat) : reqOf (advanceTo s (reqOf s q).parkexp) j = reqOf s j := by rw [reqOf, advanceTo_pond, reqOf]
  refine .of_eq (exec_parkExpiry_of_parked parked false) ⟨?_, advanceTo_mem .., fun j ne => ?_, fun runs => ?_⟩
  · exact reqOf_updReq_same ..
  · exact (reqOf_updReq_other _ _ _ _ ne).trans (same j)
  · have time : (advanceTo s (reqOf s q).parkexp).glb.time = s.glb.time + ((reqOf s q).parkexp - s.glb.time) := by
      rw [advanceTo, pass_time, if_pos runs]
    exact time.trans (by omega)

/-- A RESUME recognised in the same cycle is counted. -/
theorem next_parkExpiry_resumed (parked : (reqOf s q).st = .parked) : Next (exec (.parkExpiry q true) s) fun t =>
    t.pond.reqs = s.pond.reqs ∧ t.mem = s.mem ∧
    Tbl.get 0 (unitOf t (q.val / 8192)).cnt 14 = bump (Tbl.get 0 (unitOf s (q.val / 8192)).cnt 14) := by
  refine .of_eq (exec_parkExpiry_of_parked parked true) ⟨rfl, rfl, ?_⟩
  show Tbl.get 0 (unitOf (mpdCount s (q.val / 8192) 14 1) (q.val / 8192)).cnt 14 = _
  rw [mpdCount, unitOf_updUnit_same, Tbl.get_upd_same, bump]

end

/-- The first half of O49. -/
theorem stepRingAndParkExpiryHolds : StepRingAndParkExpiryHolds := by
  refine ⟨fun s m r serve => ⟨fun recs rung can shut => ?_, exec_stepRing_of_not serve⟩,
    fun s q => ⟨fun parked => ⟨next_parkExpiry_expired parked, next_parkExpiry_resumed parked⟩, exec_parkExpiry_of_not⟩⟩
  exact next_stepRing serve recs rung can shut

end Sys2Proof.Machine

namespace Sys2Proof.Machine

/-! ## A packet passes Race where its way is open (05 R172, R193, R196) -/

/-- Packets have passed Race, and were counted: nothing else differs. -/
structure Passed (s t : State) : Prop where
  rest : t = { s with regions := t.regions }
  org : ∀ g, (regionOf t g).org = (regionOf s g).org
  routes : ∀ g, (regionOf t g).race.routes = (regionOf s g).race.routes
  pwr : ∀ g, (regionOf t g).pwr = (regionOf s g).pwr

theorem Passed.refl (s : State) : Passed s s := ⟨rfl, fun _ => rfl, fun _ => rfl, fun _ => rfl⟩

theorem Passed.trans {s t u : State} (h : Passed s t) (k : Passed t u) : Passed s u where
  rest := by rw [k.rest, h.rest]
  org g := (k.org g).trans (h.org g)
  routes g := (k.routes g).trans (h.routes g)
  pwr g := (k.pwr g).trans (h.pwr g)

theorem passed_raceCount (s : State) (r : Nat) (p : Plane) (f : RaceCnt → RaceCnt) : Passed s (raceCount s r p f) where
  rest := rfl
  org := view_updRegion (π := Region.org) (by intro; rfl) s r
  routes := view_updRegion (π := fun x => x.race.routes) (by intro; rfl) s r
  pwr := view_updRegion (π := Region.pwr) (by intro; rfl) s r

section
variable {s t : State} (h : Passed s t)
include h

theorem Passed.sameSource (c : Nat) : SameSource c s t where
  handles := by rw [h.rest]; rfl
  mem := by rw [h.rest]
  org := h.org
  routes := h.routes
  moraine := by rw [h.rest]
  reloads := by rw [h.rest]

theorem Passed.vddnOn (r : Nat) : vddnOn t r = Machine.vddnOn s r := by rw [Machine.vddnOn, h.pwr, Machine.vddnOn]

theorem Passed.routeOpen {rt : Route} {a b : Nat} (way : RouteOpen s rt a b) : RouteOpen t rt a b := by
  obtain ⟨mode, on⟩ := way
  refine ⟨mode, fun x mem => ?_⟩
  rw [(h.sameSource 0).routeNodes] at mem
  rw [h.vddnOn]
  exact on x mem

theorem Passed.wayOpen {p : Plane} {a b : Nat} (way : WayOpen s p a b) : WayOpen t p a b := by
  rw [WayOpen, (h.sameSource 0).routeOf]
  exact h.routeOpen way

end

theorem travel_of_on (p : Plane) (f : Nat) {path : List Node} {s : State} (on : ∀ x ∈ path.tail, vddnOn s x.region = true) :
    ∃ t, travel s p f path = (t, none) ∧ Passed s t := by
  induction path generalizing s with
  | nil => exact ⟨s, rfl, .refl s⟩
  | cons x rest ih =>
    have here : ¬ (rest.head?.any fun m => !vddnOn s m.region) = true := by
      cases rest with
      | nil => simp
      | cons m rest => simp [on m List.mem_cons_self]
    have counted := passed_raceCount s x.region p fun r => { r with flits := bumpBy r.flits f }
    obtain ⟨t, run, passed⟩ := ih (s := raceCount s x.region p fun r => { r with flits := bumpBy r.flits f }) fun y mem => by
      rw [counted.vddnOn]
      exact on y (List.mem_of_mem_tail mem)
    exact ⟨t, by rw [travel, if_neg here, run], counted.trans passed⟩

section
variable {s : State}

theorem crossBy_of_open {rt : Route} {a b : Nat} (way : RouteOpen s rt a b) (p : Plane) (n dest : Nat) :
    ∃ t, crossBy s p rt a b n dest = (t, none) ∧ Passed s t := by
  obtain ⟨mode, on⟩ := way
  obtain ⟨t, run, passed⟩ := travel_of_on p (flitsAll p n) on
  exact ⟨t, by rw [crossBy, if_neg mode, follow, run], passed⟩

theorem cross_of_open {p : Plane} {a b : Nat} (way : WayOpen s p a b) (n dest : Nat) : ∃ t, cross s p a b n dest = (t, none) ∧ Passed s t :=
  crossBy_of_open way p n dest

/-- An answer whose way is open comes back. -/
theorem answered_of_open {c d : Nat} (way : WayOpen s .c c d) (dest : Nat) (code : Option Code) :
    ∃ t, answered s c d dest code = (t, code) ∧ Passed s t := by
  obtain ⟨t, run, passed⟩ := cross_of_open way 0 dest
  exact ⟨t, by rw [answered, run], passed⟩

/-! ## A unit's read whose ways are open (05 R170, R179, R180) -/

variable {n c w dest len : Nat} {check : State → Option Code}

/-- An access that no way leads to, or whose core does not exist, is answered WINDOW (R26, R172). -/
theorem edgeRead_of_unreached (gone : (newRoute s (edgeDoor s n c .k / 256) (c / 256) .k).mode = 0 ∨ coreExists s c = false)
    (check : State → Option Code) (ups : List Upset) : edgeRead s n c w dest len check ups = (s, .error .window) := by
  have reach : edgeReach s n c w dest len .k false check = (s, some .window) := by
    rw [edgeReach]
    rcases gone with blocked | none
    · rw [crossBy, if_pos blocked]
      cases coreExists s c <;> rfl
    · rw [none]
      rfl
  rw [edgeRead, reach]

/-- No error is met where no burst of the range is poisoned. -/
theorem meetReads_of_unpoisoned {a : Nat} (clean : Unpoisoned s a len) : meetReads s [(a, len)] [] = (s, none) := by
  have none : (s.poison.find? fun b => touches [(a, len)] b 64) = Option.none := by
    refine List.find?_eq_none.2 fun b mem => ?_
    have apart := clean b mem
    simp only [touches, touch, List.any_cons, List.any_nil, Bool.or_false, decide_eq_true_eq]
    omega
  simp only [meetReads, runAll, none]

/-- A read that the core takes brings its bytes. -/
theorem edgeRead_of_open (way : EdgeOpen s n c .k) (back : WayOpen s .k c (edgeDoor s n c .k)) (clean : Unpoisoned s dest len)
    (taken : ∀ t, Passed s t → check t = none) :
    ∃ t, edgeRead s n c w dest len check [] = (t, .ok (readBytes s dest len)) ∧ Passed s t := by
  obtain ⟨there, out, answer⟩ := way
  obtain ⟨t, arrives, passed⟩ := crossBy_of_open out .k 0 dest
  have accepted : Passed s (acceptEdge t c .k) := passed.trans (passed_raceCount ..)
  have reach : edgeReach s n c w dest len .k false check = (acceptEdge t c .k, none) := by
    rw [edgeReach]
    rw [there, Bool.not_true, if_neg Bool.false_ne_true, if_neg Bool.false_ne_true, arrives]
    dsimp only
    rw [taken t passed]
  have clean' : Unpoisoned (acceptEdge t c .k) dest len := by rwa [Unpoisoned, accepted.rest]
  obtain ⟨u, comes, passed'⟩ := cross_of_open (accepted.wayOpen back) len dest
  obtain ⟨v, answers, passed''⟩ := answered_of_open ((accepted.trans passed').wayOpen answer) 0 none
  refine ⟨v, ?_, (accepted.trans passed').trans passed''⟩
  rw [edgeRead, reach]
  dsimp only
  rw [meetReads_of_unpoisoned clean']
  dsimp only
  rw [readBack, comes]
  dsimp only
  rw [answers, (accepted.sameSource 0).readBytes]

end

end Sys2Proof.Machine

namespace Sys2Proof.Machine

/-! ## One token leaves (08 R307, R308, 10 R369, R372) -/

theorem length_padTo (bs : List Byte) : (padTo 8 bs).length % 8 = 0 := by
  simp only [padTo, List.length_append, List.length_replicate]
  omega

/-- A body is padded once. -/
theorem gmlSend_padTo (s : State) (n : BitVec 32) (type flags : Nat) (body : List Byte) :
    gmlSend s n type flags (padTo 8 body) = gmlSend s n type flags body := by
  rw [gmlSend, padTo_of_aligned (length_padTo body), gmlSend]

/-- The message that leaves on a session with nothing unacknowledged is the only one there. -/
theorem unacked_gmlSend {s : State} {n : BitVec 32} {x : Session} (found : sessionOf s n = some x) (none : x.unacked = []) (type flags : Nat)
    (body : List Byte) :
    ∃ y, sessionOf (gmlSend s n type flags body) n = some y ∧ y.unacked = [firstSent s x type flags (padTo 8 body)] := by
  obtain ⟨y, found', -, -, -, left⟩ := sessionOf_gmlSend found none type flags (length_padTo body)
  exact ⟨y, by rwa [gmlSend_padTo] at found', left⟩

theorem maxBody_ge (s : State) (p : Nat) : 1400 ≤ maxBody s p := by
  unfold maxBody
  split <;> omega

/-- The request once a message has carried one of its tokens. -/
def oneSent (x : Session) (final : Bool) (r : Req) : Req :=
  { r with outcur := r.outcur + 1, finalSeq := if final then some x.txSeq else r.finalSeq }

/-- A request that has sent all its tokens, and whose completion record is not due, sends nothing. -/
theorem flushReq_of_sent {s : State} {q : Nat} {r : Req} (isReq : reqOf s q = r) (skips : r.skips = []) (sent : r.curlen = r.outcur)
    (final : finalDue r = false) (n : Nat) : flushReq n s q = s := by
  subst isReq
  cases n with
  | zero => rfl
  | succ n =>
    have left : sendable (reqOf s q) = 0 := by simp [sendable, skips, sent]
    rw [flushReq]
    dsimp only
    rw [if_pos (by simp [skips])]
    split
    · rfl
    · split
      · rfl
      · simp [left, final]

theorem finalDue_oneSent (x : Session) (r : Req) : finalDue (oneSent x (finalDue r) r) = false := by
  by_cases due : finalDue r = true
  · rw [due]
    simp [oneSent, finalDue]
  · have not : finalDue r = false := by simpa using due
    rw [oneSent, not]
    exact not

/-- A request with one token to send sends it, in one message. -/
theorem flush_of_one {s : State} {q : Nat} {r : Req} {x : Session} (isReq : reqOf s q = r) (found : sessionOf s r.session = some x)
    (none : x.unacked = []) (skips : r.skips = []) (one : r.curlen = r.outcur + 1) :
    flush s q = updReq (gmlSend s r.session 0x11 0 (tokensBody s q r 1 (finalDue r))) q (oneSent x (finalDue r)) := by
  subst isReq
  have left : sendable (reqOf s q) = 1 := by simp [sendable, skips, one]
  have fits : min 1 ((maxBody s x.port - 40) / 4) = 1 := by
    have := maxBody_ge s x.port
    omega
  have sent := onlySent_gmlSend s (reqOf s q).session 0x11 0 (tokensBody s q (reqOf s q) 1 (finalDue (reqOf s q)))
  generalize isV : gmlSend s (reqOf s q).session 0x11 0 (tokensBody s q (reqOf s q) 1 (finalDue (reqOf s q))) = v at sent
  have same : reqOf v q = reqOf s q := by rw [reqOf, sent.pond, reqOf]
  have rest : flushReq 23 (updReq v q (oneSent x (finalDue (reqOf s q)))) q = updReq v q (oneSent x (finalDue (reqOf s q))) :=
    flushReq_of_sent (r := oneSent x (finalDue (reqOf s q)) (reqOf s q)) (by rw [reqOf_updReq_same, same]) skips one
      (finalDue_oneSent x (reqOf s q)) 23
  rw [flush, flushReq]
  dsimp only
  rw [if_pos (by simp [skips]), found]
  dsimp only
  rw [if_neg (by simp [none]), left, fits, if_neg (by simp)]
  have final : (decide (1 = 1) && (reqOf s q).skips.isEmpty && finalDue (reqOf s q)) = finalDue (reqOf s q) := by simp [skips]
  rw [final, isV]
  exact rest

section
variable (s : State) (q : Nat) (r : Req) (final : Bool)

/-- What stands in a TOKENS message between its OUTCUR and its tokens. -/
def tokensTail (s : State) (r : Req) (final : Bool) : List Byte :=
  if final then [BitVec.ofNat 8 (if decide (r.st = .parked) then (if r.code = .ok then 5 else 6) else r.st.num), BitVec.ofNat 8 r.code.num,
      BitVec.ofNat 8 (bnat (decide (r.st = .parked))), 0] ++ leBytes 4 (r.curlen + 0xFFFFFFFF)
    ++ leBytes 4 (if decide (r.st = .parked) then (r.parkexp - s.glb.time) / 1000000000 else 0) ++ leBytes 4 0
  else List.replicate 16 0

theorem length_tokensTail : (tokensTail s r final).length = 16 := by
  cases final <;> simp [tokensTail, length_leBytes]

theorem tokensBody_eq (k : Nat) : tokensBody s q r k final = leBytes 8 r.tag.toNat ++ (leBytes 2 q ++ ([BitVec.ofNat 8 (bnat final), 0] ++
    (leBytes 4 k ++ (leBytes 4 r.outcur ++ (leBytes 4 0 ++ (tokensTail s r final ++
      ((r.tokens.drop r.outcur).take k).flatMap fun t => leBytes 4 t.toNat)))))) := by
  simp only [tokensBody, tokensTail, List.append_assoc]

theorem num_tokensBody_count : num (padTo 8 (tokensBody s q r 1 final)) 12 4 = 1 := by
  rw [padTo, tokensBody_eq]
  generalize List.replicate _ _ = pad
  simp only [List.append_assoc]
  rw [show 12 = 8 + (2 + (2 + 0)) from rfl, num_append_right (length_leBytes ..), num_append_right (length_leBytes ..), num_append_right (k := 2) rfl,
    num_leBytes_append (by decide)]

/-- The message of one token carries the first that was not sent. -/
theorem num_tokensBody_token {tok : BitVec 32} (next : (r.tokens.drop r.outcur).take 1 = [tok]) :
    num (padTo 8 (tokensBody s q r 1 final)) 40 4 = tok.toNat := by
  rw [padTo, tokensBody_eq, next, List.flatMap_singleton]
  generalize List.replicate _ _ = pad
  simp only [List.append_assoc]
  rw [show 40 = 8 + (2 + (2 + (4 + (4 + (4 + (16 + 0)))))) from rfl, num_append_right (length_leBytes ..), num_append_right (length_leBytes ..),
    num_append_right (k := 2) rfl, num_append_right (length_leBytes ..), num_append_right (length_leBytes ..), num_append_right (length_leBytes ..),
    num_append_right (length_tokensTail ..), num_leBytes_append tok.isLt]

end

/-- A token that has left on the session of request `q`, of which it is the only message. -/
def TokenLeft (t : State) (n : BitVec 32) (tok : BitVec 32) : Prop :=
  ∃ z u, sessionOf t n = some z ∧ z.unacked = [u] ∧ u.type = 0x11 ∧ num u.body 12 4 = 1 ∧ num u.body 40 4 = tok.toNat

/-- The request after its one token left. -/
theorem flush_of_token {s : State} {q : Nat} {r : Req} {x : Session} {tok : BitVec 32} (isReq : reqOf s q = r)
    (found : sessionOf s r.session = some x) (none : x.unacked = []) (skips : r.skips = []) (one : r.curlen = r.outcur + 1)
    (next : (r.tokens.drop r.outcur).take 1 = [tok]) :
    reqOf (flush s q) q = oneSent x (finalDue r) r ∧ TokenLeft (flush s q) r.session tok := by
  rw [flush_of_one isReq found none skips one]
  refine ⟨?_, ?_⟩
  · rw [reqOf_updReq_same, reqOf, (onlySent_gmlSend ..).pond, ← reqOf, isReq]
  · obtain ⟨z, found', left⟩ := unacked_gmlSend found none 0x11 0 (tokensBody s q r 1 (finalDue r))
    exact ⟨z, _, found', left, rfl, num_tokensBody_count .., num_tokensBody_token _ _ _ _ next⟩

/-! ## Requests that end leave the sessions until they send (08 R284, R296) -/

theorem writePfx_sluice (s : State) (m i : Nat) (e : PfxEntry) : (writePfx s m i e).sluice = s.sluice := by
  unfold writePfx
  dsimp only
  split
  · rfl
  · split
    · exact ((recorded_updRegion ..).trans (recorded_pfxRec ..)).sluice
    · rfl

theorem unreference_sluice (s : State) (q : Nat) : (unreference s q).sluice = s.sluice := by
  unfold unreference
  generalize (reqOf s q).entries = is
  generalize (reqOf s q).mill = m
  have go (is : List Nat) (u : State) : (is.foldl (fun t i => pfxRefs t m i (· - 1)) u).sluice = u.sluice := by
    induction is generalizing u with
    | nil => rfl
    | cons i is ih => exact (ih _).trans (writePfx_sluice ..)
  exact go is s

theorem dropPages_sluice (s : State) (q : Nat) : (dropPages s q).sluice = s.sluice := by
  rw [dropPages_eq, (onlyPond_dropDraft ..).sluice]
  exact unreference_sluice s q

theorem endCounted_sluice (s : State) (u : Nat) (st : ReqSt) : (endCounted s u st).sluice = s.sluice := by
  cases st with
  | failed => exact (recorded_raiseIrq (mpdCount s u 6 1) (8 + u)).sluice
  | _ => rfl

/-- A request that ends with one token to send sends it. -/
theorem ended_of_token {s : State} {q : Nat} {r : Req} {x : Session} {tok : BitVec 32} (isReq : reqOf s q = r)
    (found : sessionOf s r.session = some x) (none : x.unacked = []) (skips : r.skips = []) (one : r.curlen = r.outcur + 1)
    (next : (r.tokens.drop r.outcur).take 1 = [tok]) (st : ReqSt) (code : Code) :
    (∃ d l, reqOf (ended s q st code) q =
      { endedReq st code (withoutPages r) with draft := d, outcur := r.outcur + 1, finalSeq := l }) ∧
    TokenLeft (ended s q st code) r.session tok := by
  subst isReq
  obtain ⟨d, dropped⟩ := reqOf_dropPages_same s q
  have same : reqOf (endCounted (updReq (dropPages s q) q (endedReq st code)) (unitOfReq q) st) q =
      endedReq st code { withoutPages (reqOf s q) with draft := d } := by
    rw [reqOf_endCounted, reqOf_updReq_same, dropped]
  have sluice : (endCounted (updReq (dropPages s q) q (endedReq st code)) (unitOfReq q) st).sluice = s.sluice := by
    rw [endCounted_sluice]
    exact dropPages_sluice s q
  obtain ⟨is, left⟩ := flush_of_token same (x := x) (tok := tok) (by rwa [sessionOf_congr (congrArg (·.sessions) sluice)]) none skips one next
  exact ⟨⟨d, _, is⟩, left⟩

end Sys2Proof.Machine

namespace Sys2Proof.Machine

/-! ## The one token of a DECODE step (08 R304, R306) -/

/-- The one token of a result is kept, whether it stops or not. -/
theorem keepTokens_one (stop : List (BitVec 32)) (n : Nat) (tok : BitVec 32) : keepTokens stop (n + 1) [tok] = [tok] := by
  cases n <;> simp [keepTokens]

/-- A result record that is whole. -/
theorem slice_whole {bs : List Byte} {n : Nat} (length : bs.length = n) : slice bs 0 n = bs := by
  subst length
  have whole := slice_append_right (a := []) (b := bs) rfl []
  rwa [List.nil_append, List.append_nil] at whole

section
variable {bs : List Byte} {tok : BitVec 32}

theorem toks_resultOf (count : num bs 2 1 = 1) (token : num bs 8 4 = tok.toNat) : (resultOf bs).toks = [tok] := by
  simp [resultOf, count, token]

/-- Of a DECODE record of one position, R306 asks one token. -/
theorem resultOk_iff {x : LtRec} (flags : x.flags = 1 ∨ x.flags = 33) (req : num bs 0 2 = x.req) :
    resultOk x 1 (resultOf bs) = true ↔ num bs 2 1 = 1 := by
  rcases flags with flags | flags <;> simp [resultOk, resultOf, flags, req]

end

/-! ## How a request of a plain class ends (08 R284) -/

theorem classOf_congr {s t : State} (hop : t.hop = s.hop) (i c : Nat) : classOf t i c = classOf s i c := by
  rw [classOf, slotOf, hop, classOf, slotOf]

/-- With ONEND 0 and no PARK pending nothing parks. -/
theorem finishReq_of_plain {s : State} {q : Nat} {k : ClassRec} (cls : classOf s (reqOf s q).img (reqOf s q).cls = some k) (onend : k.onend = 0)
    (park : (reqOf s q).park = false) (st : ReqSt) (code : Code) : finishReq s q st code = endReq s q st code false := by
  simp [finishReq, cls, park, onend]

/-- A failure of the result is recorded, and nothing else. -/
theorem recorded_malformed (s : State) (m q : Nat) (cls : FltClass) : Recorded s (malformed s m q cls) := recorded_logRec ..

/-! ## COMMIT of one request (08 R298, R306) -/

/-- The request is in no step any more. -/
def outOfStep (s : State) (q : Nat) : State := updReq s q fun y => { y with instep := false }

theorem reqOf_outOfStep_same (s : State) (q : Nat) : reqOf (outOfStep s q) q = { reqOf s q with instep := false } := reqOf_updReq_same ..

/-- The request as the step that carried it left it, at its commit: the batch is gone, and the request is in no step. -/
structure Retired (s : State) (m q : Nat) (t : State) : Prop where
  only : OnlyReq q (updBatch s m fun _ => {}) t
  sluice : t.sluice = s.sluice
  req : ∃ d, reqOf t q = { reqOf s q with instep := false, draft := d }

section
variable {s t : State} {m q : Nat} (h : Retired s m q t)
include h

theorem Retired.sessionOf (n : BitVec 32) : sessionOf t n = Machine.sessionOf s n := sessionOf_congr (congrArg (·.sessions) h.sluice) n

/-- What comes of a request that ends leaves the rest. -/
theorem Retired.rest {u : State} (only : OnlyReq q t u) : batchOf u m = {} ∧ (∀ j, j ≠ q → reqOf u j = reqOf s j) ∧ u.mills = s.mills := by
  have all := h.only.trans only
  refine ⟨?_, fun j ne => (all.other j ne).trans (reqOf_updBatch ..), all.mills⟩
  rw [batchOf, all.batches, ← batchOf, batchOf_updBatch_same]

variable {y : Session} (opened : Machine.sessionOf s (reqOf s q).session = some y)
include opened

/-- A request that ends without its token. -/
theorem Retired.ends {v : State} (only : OnlyReq q t v) (sluice : v.sluice = t.sluice) {d : Req}
    (req : reqOf v q = d) (session : d.session = (reqOf s q).session) (st : ReqSt) (code : Code) :
    let u := endReq v q st code false
    (batchOf u m = {} ∧ (∀ j, j ≠ q → reqOf u j = reqOf s j) ∧ u.mills = s.mills) ∧
    (reqOf u q).st = st ∧ (reqOf u q).code = code ∧ (reqOf u q).tokens = d.tokens := by
  have opened' : Machine.sessionOf v (reqOf v q).session = some y := by
    rw [req, session, sessionOf_congr (congrArg (·.sessions) sluice), h.sessionOf, opened]
  obtain ⟨e, o, l, k, is⟩ := reqOf_ended v q st code
  dsimp only
  rw [endReq_of_opened opened', is, req]
  exact ⟨h.rest (only.trans (onlyReq_ended ..)), rfl, rfl, rfl⟩

end

section
variable {u : State} {m time kind : Nat} {ups : List Upset} {x : LtRec} {res : Result} (instep : (reqOf u x.req).instep = true)
include instep

/-- A deadline that has passed expires the request (R298). -/
theorem commitServe_of_late (st : (reqOf u x.req).st = .decode) (late : (reqOf u x.req).deadline < time) : commitServe m time kind ups u (x, res) =
    finishReq (mpdCount (outOfStep u x.req) (unitOfReq x.req) 15 res.ntok) x.req .expired .deadline := by
  simp [commitServe, outOfStep, instep, st, ReqSt.live, late]

variable (early : time ≤ (reqOf u x.req).deadline) (cancel : (reqOf u x.req).cancel = false)
include early cancel

/-- A result that breaks R306 fails it. -/
theorem commitServe_of_malformed (bad : resultOk x kind res = false) : commitServe m time kind ups u (x, res) =
    endReq (releasePark (malformed (outOfStep u x.req) m x.req .request) x.req) x.req .failed .format false := by
  simp [commitServe, outOfStep, instep, early, cancel, bad]

/-- The tokens of a result join the request (R306). -/
theorem commitServe_of_good (good : resultOk x kind res = true) (flags : x.flags = 1 ∨ x.flags = 33) : commitServe m time kind ups u (x, res) =
    commitTokens (outOfStep u x.req) x.req time kind x res ups := by
  rcases flags with flags | flags <;> simp [commitServe, outOfStep, instep, early, cancel, good, flags]

end

/-- Does the token end the request: a stop token, or its last (R306)? -/
def endsAt (r : Req) (base : Nat) (tok : BitVec 32) : Bool := (r.stop.contains tok && tok != 0xFFFFFFFF) || decide (base + 1 = r.maxlen)

/-- The request with the token of a DECODE step behind its first `base` tokens. -/
def withToken (base : Nat) (tok : BitVec 32) (y : Req) : Req :=
  checkLag { y with tokens := y.tokens.take base ++ [tok], curlen := base + 1, computed := base, st := .decode }

theorem withToken_eq (base : Nat) (tok : BitVec 32) (y : Req) : ∃ d, withToken base tok y =
    { y with tokens := y.tokens.take base ++ [tok], curlen := base + 1, computed := base, st := .decode, draft := d } := by
  unfold withToken checkLag
  split <;> exact ⟨_, rfl⟩

/-- The token has joined the request, and is counted (R306, R316). -/
def tokenJoined (s : State) (q base : Nat) (tok : BitVec 32) : State :=
  mpdCount (mpdCount (updReq s q (withToken base tok)) (unitOfReq q) 7 1) (unitOfReq q) 15 0

/-- A PARK that waits for the commit drops the draft (R311, R345). -/
def withoutDraft (s : State) (q : Nat) : State := if (reqOf s q).park && !(reqOf s q).draft.dstep then dropDraft s q else s

/-- The commit of one token. -/
theorem commitTokens_of_one {s : State} {q t : Nat} {x : LtRec} {res : Result} {k : ClassRec} {tok : BitVec 32}
    (cls : classOf s (reqOf s q).img (reqOf s q).cls = some k) (draft : k.draft = 0) (park : (reqOf s q).park = false)
    (flags : x.flags = 1 ∨ x.flags = 33) (dlen : x.dlen = 0) (room : x.pos0 + x.nnew < (reqOf s q).maxlen) (count : res.ntok = 1)
    (toks : res.toks = [tok]) (ups : List Upset) : commitTokens s q t 1 x res ups =
      if endsAt (reqOf s q) (x.pos0 + x.nnew) tok then finishReq (tokenJoined s q (x.pos0 + x.nnew) tok) q .done .ok
      else enqueue (flush (tokenJoined s q (x.pos0 + x.nnew) tok) q) q t := by
  obtain ⟨n, left⟩ : ∃ n, (reqOf s q).maxlen - (x.pos0 + x.nnew) = n + 1 := ⟨(reqOf s q).maxlen - (x.pos0 + x.nnew) - 1, by omega⟩
  have same : reqOf (tokenJoined s q (x.pos0 + x.nnew) tok) q = withToken (x.pos0 + x.nnew) tok (reqOf s q) := by
    rw [tokenJoined, reqOf_mpdCount, reqOf_mpdCount, reqOf_updReq_same]
  obtain ⟨d, is⟩ := withToken_eq (x.pos0 + x.nnew) tok (reqOf s q)
  have restore : ¬ x.flags / 16 % 2 = 1 := by rcases flags with flags | flags <;> simp [flags]
  have kept : keepTokens (reqOf s q).stop ((reqOf s q).maxlen - (x.pos0 + x.nnew)) res.toks = [tok] := by
    rw [left, toks, keepTokens_one]
  have alone : ¬ ((reqOf (tokenJoined s q (x.pos0 + x.nnew) tok) q).park &&
      !(reqOf (tokenJoined s q (x.pos0 + x.nnew) tok) q).draft.dstep) = true := by
    rw [same, is]
    simp [park]
  have ends : (((reqOf s q).stop.contains tok && tok != 0xFFFFFFFF) ||
      decide ((reqOf (tokenJoined s q (x.pos0 + x.nnew) tok) q).maxlen ≤ x.pos0 + x.nnew + 1)) = endsAt (reqOf s q) (x.pos0 + x.nnew) tok := by
    rw [same, is, endsAt]
    exact congrArg _ (decide_eq_decide.2 (by dsimp only; omega))
  rw [← ends]
  unfold commitTokens
  simp only [kept, cls, dlen, Nat.sub_zero, draft, count, restore, if_true, if_false, one_ne_zero, List.length_singleton, List.getLast?_singleton,
    Nat.add_sub_cancel, Nat.sub_self]
  show (if ((reqOf s q).stop.contains tok && tok != 0xFFFFFFFF ||
      decide ((reqOf (withoutDraft (tokenJoined s q (x.pos0 + x.nnew) tok) q) q).maxlen ≤ x.pos0 + x.nnew + 1)) = true then
    finishReq (withoutDraft (tokenJoined s q (x.pos0 + x.nnew) tok) q) q .done .ok
    else enqueue (flush (withoutDraft (tokenJoined s q (x.pos0 + x.nnew) tok) q) q) q t) = _
  rw [withoutDraft, if_neg alone]

/-- Mill `m` has retired a DECODE step that carried request `q` alone, by record `x`, for one position; its class is `k`, its session is `y` with
nothing unacknowledged, and the results stand in the window of anchor `c`. -/
structure OneDecode (s : State) (m q c : Nat) (r : ServeRec) (k : ClassRec) (x : LtRec) (y : Session) : Prop where
  serves : ServesAt s m c r
  rung : (batchOf s m).rung = true
  retired : (batchOf s m).retired = true
  kind : (batchOf s m).kind = 1
  recs : (batchOf s m).recs = [x]
  req : x.req = q
  dlen : x.dlen = 0
  flags : x.flags = 1 ∨ x.flags = 33
  fits : (batchOf s m).resoff + 80 ≤ (ltRange s m c).2.2
  plain : PlainClass s q k
  st : (reqOf s q).st = .decode
  instep : (reqOf s q).instep = true
  cancel : (reqOf s q).cancel = false
  session : sessionOf s (reqOf s q).session = some y
  unacked : y.unacked = []
  outcur : (reqOf s q).outcur = x.pos0 + x.nnew
  skips : (reqOf s q).skips = []
  room : x.pos0 + x.nnew < (reqOf s q).maxlen
  held : x.pos0 + x.nnew ≤ (reqOf s q).tokens.length

/-- Where the results stand. -/
def resultAddr (s : State) (m c : Nat) : Nat := coreAddr c (ltRange s m c).1 ((ltRange s m c).2.1 + (batchOf s m).resoff)

section
variable {s : State} {m : MillId} {q c : Nat} {r : ServeRec} {k : ClassRec} {x : LtRec} {y : Session} (h : OneDecode s m q c r k x y)
include h

/-- No drain waits for the step. -/
theorem OneDecode.opened {t : State} (mills : t.mills = s.mills) :
    (if (decide ((millOf t m).dstate = .draining) && !(millOf t m).inStep) = true then endDrain t m else t) = t := by
  obtain ⟨-, -, -, -, dstate, -⟩ := h.serves
  rw [millOf_congr mills, dstate]
  rfl

/-- The unit reads the results of the batch where they stand. -/
theorem OneDecode.exec_commit (ups : List Upset) : exec (.commit m ups) s = .next (
    let t := match edgeRead s r.unit c r.ltwin (resultAddr s m c) 80 (fun t => resultCode t m c (batchOf s m).resoff 80) ups with
      | (t, .error code) => failBatch t m code
      | (t, .ok bs) => commitServe m (batchOf s m).time 1 ups (updBatch t m fun _ => {}) (x, resultOf (slice bs 0 80))
    if (decide ((millOf t m).dstate = .draining) && !(millOf t m).inStep) = true then endDrain t m else t) := by
  obtain ⟨serve, role, -, anchors, -⟩ := h.serves
  have isRole : roleOf s m = 0 := by simp [roleOf, serve, role]
  simp only [exec, execCommit, h.rung, h.retired, h.recs, h.kind, isRole, anchors, serve] <;> rfl

/-- A batch of one that fails. -/
theorem OneDecode.failBatch (t : State) (batch : batchOf t m = batchOf s m) (code : Code) : failBatch t m code =
    endReq (updReq (updBatch t m fun _ => {}) q fun y => { y with instep := false, draft := { y.draft with dstep := false, proposal := false } })
      q .failed code false := by
  unfold Machine.failBatch
  dsimp only
  rw [batch, h.recs, ← h.req]
  rfl

/-- A read of the results that is refused with WINDOW fails the batch. -/
theorem OneDecode.next_commit_unreached
    (gone : (newRoute s (edgeDoor s r.unit c .k / 256) (c / 256) .k).mode = 0 ∨ coreExists s c = false) (ups : List Upset) :
    Next (exec (.commit m ups) s) fun t => batchOf t m = {} ∧ (reqOf t q).st = .failed ∧ (reqOf t q).code = .window ∧
      (reqOf t q).tokens = (reqOf s q).tokens ∧ ∀ j, j ≠ q → reqOf t j = reqOf s j := by
  have retired : Retired s m q (updReq (updBatch s m fun _ => {}) q fun y =>
      { y with instep := false, draft := { y.draft with dstep := false, proposal := false } }) :=
    ⟨.updReq .., rfl, _, reqOf_updReq_same ..⟩
  obtain ⟨d, req⟩ := retired.req
  obtain ⟨⟨batch, others, mills⟩, st, code, tokens⟩ := retired.ends h.session (.refl q _) rfl req rfl .failed .window
  have run := h.exec_commit ups
  rw [edgeRead_of_unreached gone] at run
  dsimp only at run
  rw [h.failBatch s rfl, h.opened mills] at run
  exact .of_eq run ⟨batch, st, code, tokens, others⟩

/-- The unit may read the results. -/
theorem OneDecode.resultCode {t : State} (mills : t.mills = s.mills) (slots : t.hop.slots = s.hop.slots) (cores : t.cores = s.cores) :
    resultCode t m c (batchOf s m).resoff 80 = none := by
  obtain ⟨serve, -, -, -, -, -, opened, dir, -⟩ := h.serves
  have core : coreOf t c = coreOf s c := by rw [coreOf, cores, coreOf]
  have range : ltRange t m c = ltRange s m c := by rw [ltRange, serveOf_congr mills slots, core, ltRange]
  have fits := h.fits
  unfold Machine.resultCode
  rw [serveOf_congr mills slots, serve, core, range]
  simp [firstFail, opened, dir, show (batchOf s m).resoff < (ltRange s m c).2.2 by omega, fits]

variable (way : EdgeOpen s r.unit c .k) (back : WayOpen s .k c (edgeDoor s r.unit c .k)) (clean : Unpoisoned s (resultAddr s m c) 80)
include way back clean

/-- Where the ways are open, the result reaches the request: `t` is the state in which the batch is gone. -/
theorem OneDecode.next_commit_read {P : State → Prop} (does : ∀ u, u.mem = s.mem → u.sluice = s.sluice → u.hop = s.hop →
    OnlyReq q (updBatch s m fun _ => {}) u → reqOf u q = reqOf s q →
    (commitServe m (batchOf s m).time 1 [] u (x, resultOf (readBytes s (resultAddr s m c) 80))).mills = s.mills ∧
    P (commitServe m (batchOf s m).time 1 [] u (x, resultOf (readBytes s (resultAddr s m c) 80)))) :
    Next (exec (.commit m []) s) P := by
  obtain ⟨t, read, passed⟩ := edgeRead_of_open (w := r.ltwin) (check := fun t => Machine.resultCode t m c (batchOf s m).resoff 80) way back clean
    fun t passed => h.resultCode (by rw [passed.rest]) (by rw [passed.rest]) (by rw [passed.rest])
  have run := h.exec_commit []
  rw [read] at run
  dsimp only at run
  rw [slice_whole (by simp [readBytes])] at run
  have only : OnlyReq q (updBatch s m fun _ => {}) (updBatch t m fun _ => {}) := by
    rw [passed.rest]
    exact .of_fields rfl rfl rfl rfl rfl
  obtain ⟨mills, p⟩ := does (updBatch t m fun _ => {}) (by rw [passed.rest]; rfl) (by rw [passed.rest]; rfl) (by rw [passed.rest]; rfl) only
    (by rw [passed.rest]; rfl)
  rw [h.opened mills] at run
  exact .of_eq run p

end

/-! ## What becomes of the request (08 R298, R306) -/

section
variable {s u : State} {m q c : Nat} {r : ServeRec} {k : ClassRec} {x : LtRec} {y : Session} (h : OneDecode s m q c r k x y)
  (sluice : u.sluice = s.sluice) (hop : u.hop = s.hop) (only : OnlyReq q (updBatch s m fun _ => {}) u) (req : reqOf u q = reqOf s q)
include sluice only req

omit h hop in
/-- The request is in no step when its result is dealt with. -/
theorem retired_updReq : Retired s m q (outOfStep u q) :=
  ⟨only.trans (.updReq ..), sluice, (reqOf s q).draft, by rw [reqOf_outOfStep_same, req]⟩

include h hop

/-- Past its deadline the request expires, and the token is discarded. -/
theorem OneDecode.commit_late {time : Nat} (late : (reqOf s q).deadline < time) (kind : Nat) (ups : List Upset) (res : Result) :
    let t := commitServe m time kind ups u (x, res)
    t.mills = s.mills ∧ batchOf t m = {} ∧ (reqOf t q).st = .expired ∧ (reqOf t q).code = .deadline ∧ (reqOf t q).tokens = (reqOf s q).tokens ∧
    ∀ j, j ≠ q → reqOf t j = reqOf s j := by
  obtain ⟨cls, onend, -, park⟩ := h.plain
  have retired := retired_updReq sluice only req
  have here : reqOf (mpdCount (outOfStep u q) (unitOfReq q) 15 res.ntok) q =
      { reqOf s q with instep := false } := by rw [reqOf_mpdCount, reqOf_outOfStep_same, req]
  obtain ⟨⟨batch, others, mills⟩, st, code, tokens⟩ := retired.ends h.session (OnlyReq.mpdCount q _ (unitOfReq q) 15 res.ntok) rfl here rfl
    .expired .deadline
  obtain rfl := h.req
  dsimp only
  rw [commitServe_of_late (by rw [req, h.instep]) (by rw [req, h.st]) (by rwa [req]),
    finishReq_of_plain (k := k) (by rw [here]; exact (classOf_congr hop ..).trans cls) onend (by rw [here]; exact park)]
  exact ⟨mills, batch, st, code, tokens, others⟩

variable {time : Nat} (early : time ≤ (reqOf s q).deadline)
include early

omit hop in
/-- A result that breaks R306 fails the request. -/
theorem OneDecode.commit_malformed {res : Result} {kind : Nat} (bad : resultOk x kind res = false) (ups : List Upset) :
    let t := commitServe m time kind ups u (x, res)
    t.mills = s.mills ∧ batchOf t m = {} ∧ (reqOf t q).st = .failed ∧ (reqOf t q).code = .format ∧ (reqOf t q).tokens = (reqOf s q).tokens ∧
    ∀ j, j ≠ q → reqOf t j = reqOf s j := by
  have retired := retired_updReq sluice only req
  have recorded := recorded_malformed (outOfStep u q) m q .request
  have same : reqOf (malformed (outOfStep u q) m q .request) q = { reqOf s q with instep := false } := by
    rw [reqOf, recorded.pond, ← reqOf, reqOf_outOfStep_same, req]
  obtain ⟨⟨batch, others, mills⟩, st, code, tokens⟩ := retired.ends h.session ((OnlyReq.of_recorded recorded).trans (onlyReq_releasePark _ q))
    recorded.sluice (reqOf_releasePark_same ..) (by rw [same]) .failed .format
  rw [same] at tokens
  obtain rfl := h.req
  dsimp only
  rw [commitServe_of_malformed (by rw [req, h.instep]) (by rwa [req]) (by rw [req, h.cancel]) bad]
  exact ⟨mills, batch, st, code, tokens, others⟩

end

/-- The request with the token of its step, out of the step. -/
def tokenReq (base : Nat) (tok : BitVec 32) (d : DraftSt) (r : Req) : Req :=
  { r with instep := false, tokens := r.tokens.take base ++ [tok], curlen := base + 1, computed := base, st := .decode, draft := d }

section
variable {s w : State} {m q c : Nat} {r : ServeRec} {k : ClassRec} {x : LtRec} {y : Session} (h : OneDecode s m q c r k x y) {tok : BitVec 32}
  {d : DraftSt} (sluice : w.sluice = s.sluice) (req : reqOf w q = tokenReq (x.pos0 + x.nnew) tok d (reqOf s q))
include h

/-- The token is the first that was not sent. -/
theorem OneDecode.next_token :
    ((tokenReq (x.pos0 + x.nnew) tok d (reqOf s q)).tokens.drop (tokenReq (x.pos0 + x.nnew) tok d (reqOf s q)).outcur).take 1 = [tok] := by
  show (((reqOf s q).tokens.take (x.pos0 + x.nnew) ++ [tok]).drop (reqOf s q).outcur).take 1 = [tok]
  rw [h.outcur, List.drop_left' (by simpa using h.held)]
  rfl

/-- The token is the only one that was not sent. -/
theorem OneDecode.one_token : (tokenReq (x.pos0 + x.nnew) tok d (reqOf s q)).curlen = (tokenReq (x.pos0 + x.nnew) tok d (reqOf s q)).outcur + 1 :=
  congrArg (· + 1) h.outcur.symm

include sluice

omit req in
theorem OneDecode.found_token : sessionOf w (tokenReq (x.pos0 + x.nnew) tok d (reqOf s q)).session = some y :=
  (sessionOf_congr (congrArg (·.sessions) sluice) _).trans h.session

include req

/-- The request ends with its last token. -/
theorem OneDecode.token_ends (hop : w.hop = s.hop) :
    let t := finishReq w q .done .ok
    OnlyReq q w t ∧ (∃ e l, reqOf t q = { endedReq .done .ok (withoutPages (tokenReq (x.pos0 + x.nnew) tok d (reqOf s q))) with
      draft := e, outcur := x.pos0 + x.nnew + 1, finalSeq := l }) ∧ TokenLeft t (reqOf s q).session tok := by
  obtain ⟨cls, onend, -, park⟩ := h.plain
  have sent : (tokenReq (x.pos0 + x.nnew) tok d (reqOf s q)).outcur = x.pos0 + x.nnew := h.outcur
  obtain ⟨⟨e, l, is⟩, left⟩ := ended_of_token req (h.found_token sluice) h.unacked h.skips h.one_token h.next_token .done .ok
  rw [sent] at is
  dsimp only
  rw [finishReq_of_plain (k := k) (by rw [req]; exact (classOf_congr hop ..).trans cls) onend (by rw [req]; exact park),
    endReq_of_opened (by rw [req]; exact h.found_token sluice)]
  exact ⟨onlyReq_ended .., ⟨e, l, is⟩, left⟩

/-- The request goes on. -/
theorem OneDecode.token_goesOn (time : Nat) :
    let t := enqueue (flush w q) q time
    OnlyReq q w t ∧ t.mem = w.mem ∧ (∃ n l, reqOf t q = { tokenReq (x.pos0 + x.nnew) tok d (reqOf s q) with
      enq := n, outcur := x.pos0 + x.nnew + 1, finalSeq := l }) ∧ TokenLeft t (reqOf s q).session tok := by
  obtain ⟨is, left⟩ := flush_of_token req (h.found_token sluice) h.unacked h.skips h.one_token h.next_token
  have flushed := flushed_flush w q
  refine ⟨(OnlyReq.of_flushed flushed).trans (.updReq ..), ?_, ?_, left⟩
  · exact (congrArg State.mem flushed.rest :)
  · rw [enqueue, reqOf_updReq_same, is, ← h.outcur]
    split <;> exact ⟨_, _, rfl⟩

end

section
variable {s u : State} {m q c : Nat} {r : ServeRec} {k : ClassRec} {x : LtRec} {y : Session} (h : OneDecode s m q c r k x y)
  (sluice : u.sluice = s.sluice) (hop : u.hop = s.hop) (only : OnlyReq q (updBatch s m fun _ => {}) u) (req : reqOf u q = reqOf s q)
include h sluice hop only req

/-- The token of a good result joins the request and leaves, and the request goes on or is DONE. -/
theorem OneDecode.commit_token {time : Nat} (early : time ≤ (reqOf s q).deadline) {res : Result} {tok : BitVec 32}
    (good : resultOk x 1 res = true) (count : res.ntok = 1) (toks : res.toks = [tok]) (mem : u.mem = s.mem) (ups : List Upset) :
    let t := commitServe m time 1 ups u (x, res)
    let base := x.pos0 + x.nnew
    t.mills = s.mills ∧ batchOf t m = {} ∧ (reqOf t q).instep = false ∧ (reqOf t q).tokens = (reqOf s q).tokens.take base ++ [tok] ∧
    (reqOf t q).curlen = base + 1 ∧ (reqOf t q).computed = base ∧ (reqOf t q).outcur = base + 1 ∧ (∀ j, j ≠ q → reqOf t j = reqOf s j) ∧
    ((reqOf t q).st = (if endsAt (reqOf s q) base tok then .done else .decode) ∧ (endsAt (reqOf s q) base tok = false → t.mem = s.mem) ∧
      (endsAt (reqOf s q) base tok = true → (reqOf t q).code = .ok ∧ (reqOf t q).pages = [])) ∧
    TokenLeft t (reqOf s q).session tok := by
  obtain ⟨cls, -, draft, park⟩ := h.plain
  have retired := retired_updReq sluice only req
  have same : reqOf (outOfStep u q) q = { reqOf s q with instep := false } := by rw [reqOf_outOfStep_same, req]
  obtain ⟨d, joined⟩ := withToken_eq (x.pos0 + x.nnew) tok { reqOf s q with instep := false }
  have commits : commitServe m time 1 ups u (x, res) =
      if endsAt (reqOf s q) (x.pos0 + x.nnew) tok then
        finishReq (tokenJoined (outOfStep u q) q (x.pos0 + x.nnew) tok) q .done .ok
      else enqueue (flush (tokenJoined (outOfStep u q) q (x.pos0 + x.nnew) tok) q) q time := by
    obtain rfl := h.req
    rw [commitServe_of_good (by rw [req, h.instep]) (by rwa [req]) (by rw [req, h.cancel]) good h.flags,
      commitTokens_of_one (k := k) (tok := tok) (by rw [same]; exact (classOf_congr hop ..).trans cls) draft (by rw [same]; exact park) h.flags h.dlen
        (by rw [same]; exact h.room) count toks, same]
    rfl
  have here : reqOf (tokenJoined (outOfStep u q) q (x.pos0 + x.nnew) tok) q =
      tokenReq (x.pos0 + x.nnew) tok d (reqOf s q) := by
    rw [tokenJoined, reqOf_mpdCount, reqOf_mpdCount, reqOf_updReq_same, same, joined]
    rfl
  have only' : OnlyReq q (outOfStep u q)
      (tokenJoined (outOfStep u q) q (x.pos0 + x.nnew) tok) :=
    ((OnlyReq.updReq ..).trans (.mpdCount ..)).trans (.mpdCount ..)
  have sluice' : (tokenJoined (outOfStep u q) q (x.pos0 + x.nnew) tok).sluice = s.sluice := sluice
  have hop' : (tokenJoined (outOfStep u q) q (x.pos0 + x.nnew) tok).hop = s.hop := hop
  have mem' : (tokenJoined (outOfStep u q) q (x.pos0 + x.nnew) tok).mem = s.mem := mem
  generalize tokenJoined (outOfStep u q) q (x.pos0 + x.nnew) tok = w at *
  dsimp only
  rw [commits]
  by_cases ends : endsAt (reqOf s q) (x.pos0 + x.nnew) tok = true
  · obtain ⟨only'', ⟨e, l, is⟩, left⟩ := h.token_ends sluice' here hop'
    obtain ⟨batch, others, mills⟩ := retired.rest (only'.trans only'')
    rw [if_pos ends, is]
    exact ⟨mills, batch, rfl, rfl, rfl, rfl, rfl, others, ⟨by rw [if_pos ends]; rfl, fun not => absurd (ends.symm.trans not) (by decide),
      fun _ => ⟨rfl, rfl⟩⟩, left⟩
  · obtain ⟨only'', mem'', ⟨n, l, is⟩, left⟩ := h.token_goesOn sluice' here time
    obtain ⟨batch, others, mills⟩ := retired.rest (only'.trans only'')
    rw [if_neg ends, is]
    exact ⟨mills, batch, rfl, rfl, rfl, rfl, rfl, others, ⟨by rw [if_neg ends]; rfl, fun _ => mem''.trans mem', fun does => absurd does ends⟩, left⟩

end

/-- The second half of O49. -/
theorem commitHolds : CommitHolds := by
  refine ⟨fun s m q c r k x y tok serves rung retired kind recs req dlen flags fits plain st instep cancel _ session unacked outcur skips room
    held => ?_, fun s m ups not => ?_⟩
  · have h : OneDecode s m q c r k x y := ⟨serves, rung, retired, kind, recs, req, dlen, flags, fits, plain, st, instep, cancel, session, unacked,
      outcur, skips, room, held⟩
    refine ⟨fun gone ups => h.next_commit_unreached gone ups,
      fun way back clean isReq token => ⟨fun count early => ?_, fun count early => ?_, fun late => ?_⟩⟩
    · refine h.next_commit_read way back clean fun u mem sluice hop only same => ?_
      obtain ⟨mills, batch, instep, tokens, curlen, computed, outcur, others, st, left⟩ := h.commit_token sluice hop only same early
        ((resultOk_iff flags (isReq.trans req.symm)).2 count) count (toks_resultOf count token) mem []
      exact ⟨mills, batch, instep, tokens, curlen, computed, outcur, others, mills, st, left⟩
    · refine h.next_commit_read way back clean fun u _ sluice _ only same => h.commit_malformed sluice only same early ?_ []
      exact Bool.eq_false_iff.2 fun ok => count ((resultOk_iff flags (isReq.trans req.symm)).1 ok)
    · exact h.next_commit_read way back clean fun u _ sluice hop only same => h.commit_late sluice hop only same late 1 [] _
  · simp only [exec, execCommit]
    rcases not with not | not <;> simp [not]

/-- Settles O49: the batch that waits is rung once, a parked state goes when its time is over, and the one token of a retired DECODE step joins
its request and leaves. -/
theorem stepRingAndCommit : Obligations.StepRingAndCommit := ⟨stepRingAndParkExpiryHolds, commitHolds⟩

end Sys2Proof.Machine
